-- ==== Sys2Proof/Word.lean ====
section
/-! DEFINITION. The word types of the hub: bytes, the 16-bit words of the register file, the 32-bit
words of scripts and samples, and the 48-bit hub time (R5: bit 0 is the least significant bit). -/

namespace Sys2Proof

/-- One byte. -/
abbrev Byte := BitVec 8
/-- One 16-bit register or window word (R143). -/
abbrev Word := BitVec 16
/-- One 32-bit word: a script step (R185), a frame word (R275), a snapshot value. -/
abbrev Long := BitVec 32
/-- Hub time: a 48-bit count of ht, 62.5 ns each (R212). -/
abbrev HubTime := BitVec 48

/-- `t` is the same hub time as `u` or a later one, compared modulo 2^48 over a span shorter than
2^47 ht (R212). -/
def HubTime.atOrAfter (t u : HubTime) : Bool := (t - u).toNat < 2 ^ 47

end Sys2Proof
end

