-- ==== Sys2Proof/Syntax.lean ====
section
/-! DEFINITION. The commands of the hub: one constructor of `Instr` per row of the table of
operations and events, with the operands that the row's event brings from outside the hub (the bytes
on a wire, the level of a pin, a duration, the hub time of the event). -/

namespace Sys2Proof

/-- The two CAN channels (port codes 0x0 and 0x1). -/
inductive Chan where
  | a | b
  deriving DecidableEq, Repr

/-- A CAN frame as it stands on the bus (R275, R278). -/
structure CanFrame where
  ide  : Bool
  rtr  : Bool
  fdf  : Bool
  brs  : Bool
  esi  : Bool
  id   : BitVec 29
  dlc  : BitVec 4
  data : List Byte
  deriving DecidableEq, Repr

/-- How long REIN_CS_N was high before a frame (R131 case 5): at least 200 ns; less than 120 ns; or
between the two, where the hub may send a genuine reply or the busy pattern. -/
inductive CsGap where
  | normal
  | short
  | between (busy : Bool)
  deriving DecidableEq, Repr

/-- The registers whose read latches lower words (R152). -/
inductive LatchReg where
  | snapEpochHi | htHi | rplDivHi
  deriving DecidableEq, Repr

/-- What the ECC of a memory found in the words a read touched (R97, R258, R398). -/
inductive Ecc where
  | ok | corrected | uncorrectable
  deriving DecidableEq, Repr

/-- The uncorrectable words that a commit meets (R398): one of the staging bank at the cutoff, by its offset; one of the
committed bank that the build of a publication entry reads, by the channel and the entry; and one of the running configuration,
by its extended address. -/
structure CommitEcc where
  staging : Option Nat
  builds : List ((Chan × Fin 64) × Nat)
  config : Option Nat
  deriving DecidableEq, Repr

/-- What a scrub of the cell pool finds (R243, R258, R259): a corrected word, a repaired link copy, an uncorrectable
64-bit word of a cell, or a link entry, by its cell, whose three copies differ. -/
inductive PoolFinding where
  | corrected
  | linkRepaired
  | uncorrectable (cell : Fin 4096) (word : Fin 8)
  | linkLost (cell : Fin 4096)
  deriving DecidableEq, Repr

/-- How a port step ends on the wire (R197, R313, R336, R339, R340). -/
inductive PortOutcome where
  | done
  | doneSdaLow
  | noAnswer
  | busFault
  | arbitrationLost
  | unavailable
  deriving DecidableEq, Repr

/-- How a tack-store write job ends (R110, R113). -/
inductive TackOutcome where
  | done
  | verifyFailed
  | eraseFailed
  deriving DecidableEq, Repr

/-- One result record of a long operation: W0 to W3 (R179). -/
structure OpRecord where
  w0 : Word
  w1 : Word
  w2 : Word
  w3 : Word
  deriving DecidableEq, Repr

/-- One failed or skipped self-test as the test unit reports it (R401, R402). `island` names the
island whose unit a failure fails. -/
structure TestReport where
  group    : BitVec 4
  test     : BitVec 8
  skipped  : Bool
  island   : Option (Fin 264)
  point    : Option (Fin 412)
  measured : Word
  limit    : Word
  deriving DecidableEq, Repr

/-- How a long operation whose end the hardware decides comes to its end (R178): SELF_TEST with its
reports, AUTO_RATE with the shortest edge interval seen, the valid frames of the verification, whether
two of them were consecutive and whether a protocol exception occurred, a flash job with its bytes, an operation that has done all its
work, or one that failed. -/
inductive OpEnd where
  | complete
  | failed
  | selfTest (reports : List TestReport)
  | autoRate (shortest : Option Nat) (validFrames : Nat) (consecutive exception : Bool)
  deriving DecidableEq, Repr

/-- What a CAN error frame ended (R293): whether the channel was transmitting, the LEC code, the error counters
that ISO 11898-1:2015 gives after the error, and the frame as far as it stood on the bus. -/
structure CanError where
  transmitting : Bool
  frame : CanFrame
  sof : HubTime
  lec : BitVec 3
  tec : Nat
  recc : Nat
  deriving DecidableEq, Repr

/-- How a roll-call probe ends on the wire (R347, R208). -/
inductive ProbeOutcome where
  | acked | notAcked | torn | arbitrationLost
  deriving DecidableEq, Repr

/-- How an I-port pass-through transaction ends (R348): the RES codes 1 to 6 of Table 14-6. -/
inductive PtResult where
  | done | addrNack | dataNack | arbLost | hang | busyTimeout
  deriving DecidableEq, Repr

/-- A pulse on a SENT line, from one falling edge at the pin to the next, in rt: how long the line is low at its start, and its
whole length (R354). -/
structure SentPulse where
  low : Nat
  len : Nat
  deriving DecidableEq, Repr

/-- A run of pulses on a SENT line, and the hub time of the edge that ends the last. -/
structure SentRun where
  pulses : List SentPulse
  t : HubTime
  deriving DecidableEq, Repr

/-- A hang that an I port detects (R340): the bus has stayed busy for BTMO, or else a line has stood still for STMO; and when. -/
structure BusHang where
  busy : Bool
  t : HubTime
  deriving DecidableEq, Repr

/-- The fast-channel error classes of a SENT input that end a frame (Table 15-3). A slow error comes about
inside a frame or an error. -/
inductive SentClass where
  | calibration | nibble | crc | pause | clock
  deriving DecidableEq, Repr

/-- What a watcher frame that is no wake frame did (R298): a valid classical frame, a frame that ended
in a stuff, form or CRC error, or an FD frame. -/
inductive WatcherFrame where
  | valid | errored | fd
  deriving DecidableEq, Repr

/-- Why an authenticated command is turned away (R169, R171): the write of AUTH_OP fell while a command
was being decided, or the decision failed; `recordFails` says that the counter record could not be
programmed or verified. -/
inductive AuthRejection where
  | busyWrite (v : Word)
  | decision (recordFails : Bool)
  deriving DecidableEq, Repr

/-- One grant at a verdict point: the point and whether input b won (R46). -/
structure Verdict where
  point : Nat
  winB  : Bool
  deriving DecidableEq, Repr

/-- The inputs lost at the tap FIFOs since the last Gap record (R371), if any; the ring blocks lost
are the hub's own count. -/
structure GapLoss where
  input : Bool
  count : Nat
  first : HubTime
  last  : HubTime
  deriving DecidableEq, Repr

/-- THE COMMANDS: one constructor per row of the table. Operands `t` are the hub time of the event. -/
inductive Instr where
  -- reset and power-up
  | powerOnReset
  | brownOutReset (core : Bool)
  | resetPin
  | resetRelease (psel : BitVec 2)
  | startChecksDone (failed : Option (Fin 264))
  | refclkMeasured (kHz : Nat)
  | pllLock (slept : HubTime)
  | resetProfileLoadDone
  -- modes
  | modeRequest (v : Word)
  | resetRequest
  | baseEpochBoundary
  | stabledQuiesceTimeout
  | stabledSeal
  | pwrHoldDrop
  | wakeDominantEdge (ch : Chan)
  | wakeFrame (ch : Chan) (f : CanFrame)
  | wakeFrameErrorOverflow (ch : Chan)
  | wakePinEdge (rising : Bool)
  | wakeReinCs
  | wakeTimer
  | wakeTargetEntry (suppliesLow : BitVec 4)
  | farrierExitReload
  | epochPulseEnd
  | hubTimeWrap
  -- snapshots and time
  | snapshotCommit (ecc : CommitEcc)
  | forwardFillEnd
  | bankCrcWritten
  | snapPinSet (tmo : Byte) (clearLost : Bool)
  | snapPinRelease (tmo : Byte) (clearLost : Bool)
  | snapPinExpiry
  | boryelLockLossTimeout
  | boryelLeadResume
  -- Rein port and register file
  | reinFrame (bytes : List Byte) (edges : Nat) (gap : CsGap) (ecc : Ecc) (t : HubTime)
  | registerWrite (a : BitVec 7) (v : Word) (t : HubTime)
  | winDataRead (ecc : Ecc) (t : HubTime)
  | winDataWrite (v : Word) (t : HubTime)
  | latchingRead (r : LatchReg) (t : HubTime)
  | slowReadComplete (ecc : Ecc)
  | slowReadTimeout
  | stallTimeout
  -- queues
  | qmDataRead (stallOk : Bool) (ecc : Ecc) (t : HubTime)
  | evqDataRead (stallOk : Bool) (ecc : Ecc) (t : HubTime)
  | qmEnqWrite (v : Word)
  | qmSelWrite (v : Word)
  | qmClose
  | qmDisc
  | reservationGrant (q : Fin 64)
  | qmFlushGo
  | flushEnd (q : Fin 64)
  | flushAbortTimeout (q : Fin 64)
  | poolScrub (found : List PoolFinding) (t : HubTime)
  -- pins
  | pmPinWrite (i : Fin 59) (v : Word)
  | pinQuiesceDone (i : Fin 59)
  | pinQuiesceTimeout (i : Fin 59)
  | pinAttach (i : Fin 59)
  | captureEdge (n : Fin 2) (rising : Bool) (t : HubTime)
  | bankSupplyLow (banks : BitVec 4) (t : HubTime)
  | bankSupplyReturn
  -- profiles, tack store and authenticated commands
  | profileSelect
  | profileStagingDone
  | profileExpansionEnd
  | profileCommit
  | tackWriteJobDone (out : TackOutcome)
  | endpointCommit
  | endpointCommitApply (ep : Fin 256)
  | keyLoad
  | keyLoadDone
  | farrierEnter
  | tackErase
  | replayLoad
  | pinmuxLock
  | authHoldEnd
  -- long operations
  | selfTest
  | rollCall
  | rollCallProbe (out : ProbeOutcome) (t : HubTime)
  | autoRate
  | autoRateVerifyStart
  | profileLoad
  | traceDrain
  | drainSegmentDone (flashError : Bool)
  | queueFlush
  | keyframeNow
  | replayRun
  | flashProgram
  | flashStatusPoll (status : Byte)
  | endpointProbe
  | opAbort
  | longOpEnd (e : OpEnd)
  | longOpBoundExpiry
  -- poll engine
  | runAheadDispatch (ep : Fin 256)
  | endStep (lane : Fin 16)
  | acq (lane : Fin 16)
  | portGrant (lane : Fin 16)
  | rel (lane : Fin 16)
  | send (lane : Fin 16)
  | recv (lane : Fin 16)
  | xfer (lane : Fin 16)
  | frame (lane : Fin 16)
  | portStepComplete (lane : Fin 16) (out : PortOutcome) (rx : List Byte) (t : HubTime)
  | wait (lane : Fin 16)
  | waitt (lane : Fin 16)
  | waitExpiry (lane : Fin 16)
  | waitpin (lane : Fin 16)
  | waitpinMatch (lane : Fin 16)
  | waitfrm (lane : Fin 16)
  | get (lane : Fin 16) (t : HubTime)
  | getSampleReady (lane : Fin 16) (t : HubTime)
  | split (lane : Fin 16) (t : HubTime)
  | flush (lane : Fin 16)
  | skip (lane : Fin 16)
  | attemptTimeout (lane : Fin 16)
  | retryGapExpiry (lane : Fin 16)
  | sampleCompletion (t : HubTime)
  | lateExpressRoute (t : HubTime)
  -- CAN channels
  | canStartRequest (ch : Chan) (v : Word)
  | canStopRequest (ch : Chan) (v : Word)
  | canChannelStop (ch : Chan)
  | canIntegrationDone (ch : Chan)
  | canFrameReceived (ch : Chan) (f : CanFrame) (sof t : HubTime)
  | canFrameError (ch : Chan) (e : CanError) (t : HubTime)
  | canProtocolException (ch : Chan) (t : HubTime)
  | canRecoveryStart (ch : Chan)
  | canRecoveryDone (ch : Chan) (t : HubTime)
  | canTxTake (ch : Chan)
  | canFrameTransmitted (ch : Chan) (delay : Option Nat) (sof t : HubTime)
  | canArbitrationLost (ch : Chan) (sof t : HubTime)
  | canTxdataWrite (ch : Chan) (v : Word)
  | canRxqRead (ch : Chan) (q : Fin 2) (stallOk : Bool) (t : HubTime)
  | rxShadowLoad (ch : Chan) (q : Fin 2)
  -- serial ports
  | passThroughEntry (p : Fin 4) (aborted : Bool) (rx : List Byte) (t : HubTime)
  | targetSelectFall (p : Fin 4) (t : HubTime)
  | targetSelectRise (p : Fin 4) (rx : List Byte) (clocked : Nat) (partialByte : Bool) (t : HubTime)
  | lineFillDone (line : List Byte)
  | linePrefetch
  | cacheInvalidate
  | sfdpRead
  | sfdpDone (table : Option (List Long))
  -- two-wire ports
  | busFree (p : Fin 4)
  | i2cArbitrationLost (p : Fin 4) (t : HubTime)
  | i2cHang (p : Fin 4) (h : BusHang)
  | i2cRecoveryDone (p : Fin 4) (sdaLowAfterPulse linesHigh : Bool) (t : HubTime)
  | i2cStuckRetry (p : Fin 4)
  | i2cCall (p : Fin 4) (addr : Byte) (bytes : List Byte) (t : HubTime)
  | ptGo (p : Fin 4) (res : PtResult) (done : Nat) (rx : List Byte)
  | ptHoldExpiry (p : Fin 4)
  -- SENT inputs
  /-- The pulses before that of the CRC nibble, and that pulse: how long it is low, and its length. -/
  | sentFrame (p : Fin 4) (before : List SentPulse) (low len : Nat) (t : HubTime)
  /-- The pulses before the one in error, and that one. -/
  | sentError (p : Fin 4) (before : List SentPulse) (last : SentPulse) (t : HubTime)
  | sentLineTimeout (p : Fin 4) (t : HubTime)
  -- record and replay
  | verdictBatchWrite (t : HubTime)
  | gapRecord (loss : GapLoss)
  | tapArm
  | tapFrz
  | replayLoaderFill (bytes : List Byte) (fails : Bool)
  | replayRecord (stalled : Option (Fin 412)) (misfit : Bool)
  | replayGo
  -- faults
  | livenessProbeTimeout (island : Fin 264) (t : HubTime)
  | hitchTimeout (receiver sender : Fin 264) (t : HubTime)
  | islandRestartDone (island : Fin 264)
  | pllUnlock
  | pllRelock (lasted : Nat) (t : HubTime)
  | clockLossTimeout (t : HubTime)
  | crystalStop (t : HubTime)
  | vsupLow (t : HubTime)
  | vsupLowEnd
  | authCommandRejected (r : AuthRejection)
  | wakeWatcherFrame (ch : Chan) (f : WatcherFrame)
  | controlFieldEnd (ch : Chan) (f : CanFrame)
  | protocolExceptionIdle (ch : Chan)
  | sentSync (p : Fin 4) (run : SentRun)
  | busBusy (p : Fin 4)
  | livenessSweep
  deriving DecidableEq, Repr

end Sys2Proof
end

