-- ==== Sys2Proof/Decode.lean ====
section
/-! DEFINITION. The decoder that the host asks for. The table of operations and events gives no row any
bits: the hub's commands are events of its pins, its clock and its host port, and no word spells one. So
no word decodes to a command. (The words that the spec does encode, script steps and Rein frames, are
operands: `Sys2Proof.Machine.decodeStep` reads the first, the Rein port the second.) -/

namespace Sys2Proof

/-- The command that a word spells by the table's bits: none, since no row has bits. -/
def decodeTableWord (_nbits _w : Nat) : Option Instr := none

end Sys2Proof
end

