-- ==== Sys2Proof/Config.lean ====
section
/-! DEFINITION. What the spec leaves open: free values. Each is a constant without a body, so that
nothing can be proved about its value; each is applied to the model's own counter `State.seed` (a fresh
value for every use) or to what it depends on. -/

namespace Sys2Proof

/-- Whether a record fits in the trace stream FIFO at the moment it is offered (R374): a matter of
timing that the model does not hold (log entry 20). -/
opaque Config.streamFits : Nat → Bool

/-- Which of the free cells the `k`-th cell that is ever taken is, as a place in their list: the spec does not say how free
cells are given out (R243; log entry 21). -/
opaque Config.cellPick : Nat → Nat

/-- A byte of the pool RAM that nothing has written since it last lost its contents (R263; log entry 21). -/
opaque Config.poolByte : Nat → Byte

/-- The factory's trim bytes of the tack store, of which the spec gives none (R96). -/
opaque Config.trimByte : Nat → Byte

/-- The sample hub time, by endpoint and epoch number, of a run that ends at END with no data step run (R194; log entry 86). It
does not depend on the model's counters, so recording and replay leave it as it is (R18, R19). -/
opaque Config.freeSht : Nat → Nat → Nat

/-- A 16-bit value of which the spec states nothing. -/
opaque Config.freeWord : Nat → Word

/-- A byte of which the spec states nothing. -/
opaque Config.freeByte : Nat → Nat → Byte

/-- A choice between two outcomes that the spec both allows. -/
opaque Config.freeBool : Nat → Bool

end Sys2Proof
end

