-- ==== Sys2Proof/Machine/State.lean ====
section
/-! DEFINITION. The hub's state as plain data, unit by unit, and the state after a power-on reset.
Every register, buffer, counter, mode and pin level that the spec gives the hub is a field here, or a
byte of one of the memories; the commands that wait stand in `pending`. -/

namespace Sys2Proof.Machine

/-- Why a run can stop. NOBODY raises one: the spec gives every command of the table an effect, and an
event whose condition does not hold leaves the hub as it is, so this type has no constructor. -/
inductive Fault where
  deriving DecidableEq, Repr

/-- Why a command is turned away without a meaning. -/
inductive Refusal where
  /-- Raised only by an arm of `exec` that has no meaning yet; safe. -/
  | notModelled (mnemonic : String)
  deriving DecidableEq, Repr

/-- A byte memory: the cells that differ from what an unlisted address reads as, addresses rising. -/
abbrev Mem := List Host.Cell

/-- The major modes (Table 04-1). -/
inductive Mode where
  | reset | stabled | halter | walk | canter | leadrein | farrier
  deriving DecidableEq, Repr

/-- How far the start-up has come (Table 04-4): reset held, the kernel's start checks, the wait for the
first mode, normal running; `dead` is the end of all service of R63. -/
inductive BootPhase where
  | held | starting | answering | running | dead
  deriving DecidableEq, Repr

/-- Where the hub stands between Stabled entry and wake (R85, R95). -/
inductive SleepPhase where
  | awake | quiescing | sealed | waking
  deriving DecidableEq, Repr

/-- Reset, clock, supply and the mode and power block (Table 04-12, Table 18-14). -/
structure PowerSt where
  boot : BootPhase
  freq : BitVec 3
  freqBad : Bool
  measured : Bool
  pllLocked : Bool
  crystalStopped : Bool
  clockLost : Bool
  bankLow : BitVec 4
  rstCause : BitVec 5
  psel : BitVec 2
  pwr : Word
  walkEps : BitVec 3
  clip : Bool
  wakeCfg : Word
  wakeTgt : Word
  wakeCause : Word
  aotUnit : BitVec 2
  aotCnt : Word
  lrDrop0 : Word
  lrDrop1 : Word
  stbDrop : Word
  pwrHold : Bool
  dropRunning : Bool
  sleep : SleepPhase
  wakeTarget : Mode
  earlyWake : Bool
  deriving DecidableEq, Repr

/-- The mode controller (Tables 04-10 and 04-11). `hwCode` is the fault code of a transition to
Lead-rein that waits for the boundary; `effective` says that the pending transition has taken effect
and is not yet complete (R79); `konly` that no fallback can be served (Table 04-6, fault 0x14). -/
structure ModeSt where
  req : Word
  cur : Mode
  tgt : Mode
  pend : Bool
  effective : Bool
  hwch : Bool
  refused : Bool
  rfs : BitVec 3
  konly : Bool
  hwCode : Option Byte
  farrierExit : Bool
  deriving DecidableEq, Repr

/-- One entry of the fault log (Table 17-4). -/
structure FaultEntry where
  code : Byte
  flags : Byte
  island : Word
  ht : HubTime
  detail : Long
  epoch : Word
  deriving DecidableEq, Repr

/-- The fault log, FAULT_CODE and the island watch (chapter 17). `lastR` holds, for each unit that had
a class R fault, the island and hub time of the latest; `failedOther` the failed units without a drop bit. -/
structure FaultSt where
  code : Byte
  count : BitVec 6
  total : Word
  next : Nat
  active : BitVec 64
  sweeps : Long
  log : List FaultEntry
  restarting : List Nat
  lastR : List (Nat × Nat × HubTime)
  failedOther : List Nat
  snapUncRun : Nat
  deriving DecidableEq, Repr

/-- Where a pin's function change stands (R31). -/
inductive PinPhase where
  | attached | quiesce | transit
  deriving DecidableEq, Repr

/-- One multiplexed pin (Table 02-8). `inp` is the level the pin last had, which the keeper holds; `ext` the level that the
board drives, `none` where nothing outside drives the pin. -/
structure PinSt where
  func : BitVec 4
  pull : BitVec 2
  out : Bool
  inp : Bool
  ext : Option Bool
  drv : Bool
  act : BitVec 4
  phase : PinPhase
  deriving DecidableEq, Repr

/-- One timer capture channel (R37). -/
structure CaptureSt where
  edge : BitVec 2
  new : Bool
  ovr : Bool
  time : HubTime
  deriving DecidableEq, Repr

/-- The pin multiplexer (chapter 02) and the levels of the fixed outputs. -/
structure PinsSt where
  pins : List PinSt
  lock : Bool
  refPin : BitVec 6
  refWhy : BitVec 3
  refValid : Bool
  transit : Byte
  epochEn : Bool
  epochPol : Bool
  epochWidth : Byte
  epochActive : Bool
  cap0 : CaptureSt
  cap1 : CaptureSt
  deriving DecidableEq, Repr

/-- What a stalled queue read waits on (R139): a host-readable queue, or a CAN read port. -/
inductive StallSrc where
  | queue (q : Nat)
  | can (ch : Chan) (q : Nat)
  deriving DecidableEq, Repr

/-- The Rein port (chapter 06). `res` and the four flags are what the next genuine reply carries; `rptNew`
and `rptOld` are the results of the two most recent genuine replies; `miso` is what the hub sent in
the latest frame, `none` where REIN_SDO stayed undriven. -/
structure ReinSt where
  expAlv : BitVec 4
  anyAlv : Bool
  dalv : BitVec 4
  res : Word
  crce : Bool
  alve : Bool
  adre : Bool
  lene : Bool
  rptNew : Word
  rptOld : Word
  winAddr : Long
  ainc : Bool
  werr : Bool
  slowPending : Option Long
  stall : Option StallSrc
  miso : Option (List Byte)
  deriving DecidableEq, Repr

/-- The attention registers and the scratch words (Tables 07-5 to 07-7). -/
structure AttnSt where
  src : Word
  mask : Word
  scratch : List Word
  deriving DecidableEq, Repr

/-- What the running long operation works on. A `drain` counts the ring blocks it has still to take
and holds the bytes of the block in hand and of the segment written since its last record, of which the first `skip`
belong to a record begun in the segment before; a `flush` lists the queues
whose records are not yet posted, and the records of flushes that have ended out of turn. -/
inductive OpJob where
  | none
  | selfTest (mask : Word) (islandTest : Bool)
  | rollCall (port : Nat) (next last : Nat) (ten : Bool) (total probed : Nat) (repeated : Bool)
  | autoRate (ch : Chan) (ms : Nat) (verifying : Bool)
  | commit
  | load
  | drain (toFlash : Bool) (addr blocks : Nat) (cur seg : List Byte) (total done skip : Nat) (frozen : Bool)
  | flush (left : List Nat) (ended : List OpRecord) (total : Nat)
  | keyframe
  | replay (epochs : Nat)
  | flash (addr : Nat) (erase : Bool) (bytes : List Byte) (enabled sent : Bool) (last : Byte)
  | probe (ep : Nat)
  deriving DecidableEq, Repr

/-- Long operations (Tables 08-8 and 08-9). -/
structure OpSt where
  code : Byte
  abort : Bool
  state : BitVec 3
  ovf : Bool
  why : BitVec 4
  prog : Byte
  arg0 : Word
  arg1 : Word
  arg2 : Word
  arg3 : Word
  newest : OpRecord
  recs : List OpRecord
  job : OpJob
  deriving DecidableEq, Repr

/-- A key slot (R167). -/
structure KeySlot where
  state : BitVec 2
  key : List Byte
  mask : Byte
  deriving DecidableEq, Repr

/-- What the hub took at an accepted write of AUTH_OP (R169); `win` is the window address of a write that came through the
direct mirror (R142). -/
structure AuthCmd where
  win : Option Nat
  op : Word
  args : List Word
  ctr : Long
  tag : List Byte
  data : List Byte
  deriving DecidableEq, Repr

/-- Authentication (Tables 08-5 to 08-10). `pend` is the command being decided, `keyWrite` the slot
write of an accepted KEY_LOAD. -/
structure AuthSt where
  op : Word
  ctr : Long
  tag0 : Word
  tag1 : Word
  tag2 : Word
  tag3 : Word
  result : BitVec 4
  rej : Bool
  hold : Bool
  lslot : BitVec 2
  fails : BitVec 4
  pend : Option AuthCmd
  lastAccepted : Word
  keyWrite : Option (Nat × KeySlot)
  deriving DecidableEq, Repr

/-- A tack-store write job (R110 to R113, R180): its JOB code, area and copy; of a commit the GEN and TAG it writes and, from the
start of step 3, its image; of an erase whether it is to stop at its next safe point. -/
structure TackJob where
  kind : BitVec 2
  area : Nat
  copy : Nat
  gen : Nat
  tag : List Byte
  image : Option (List Byte)
  stop : Bool
  deriving DecidableEq, Repr

/-- The tack store: its bytes, the device identity, the key slots and the counter, which no reset
touches; and the registers of chapter 05. `swFailed` says that staging has found the target of the switch
invalid; `expanding` that a switch in Walk or Canter has applied and its expansion has not ended (R105). -/
structure TackSt where
  mem : Mem
  uid : List Byte
  slots : List KeySlot
  counter : Long
  ringNext : Nat
  busy : Bool
  job : Option TackJob
  corr : Bool
  unc : Bool
  failCode : BitVec 4
  sel : BitVec 2
  selSrc : Bool
  usrOk : Bool
  fbOk : Bool
  fbLock : Bool
  marked : BitVec 4
  act1 : BitVec 4
  swTgt : BitVec 2
  swPend : Bool
  swStaged : Bool
  swFail : Bool
  swWhy : BitVec 2
  swFailed : Bool
  expanding : Bool
  deriving DecidableEq, Repr

/-- The two configuration memories and the status fields that lie among them (Table 05-3, R184, R301,
R329, R351): each a sparse memory over the extended addresses. -/
structure CfgSt where
  user : Mem
  fallback : Mem
  status : Mem
  deriving DecidableEq, Repr

/-- What a poll lane waits for. -/
inductive LaneWait where
  | free
  | ready
  | port (p : Nat)
  | bus (p : Nat)
  | step (p : Nat)
  | time
  | pin (mf : Nat) (level : Bool)
  | frm
  | sample (ep : Nat)
  | gap
  deriving DecidableEq, Repr

/-- One poll lane and its run (R183 to R202). `trig` says that the run is in its trigger part, `ahead`
that the trigger part runs before its due epoch; `started` that it has started a port transaction;
`timed` that a data step has run, `portData` that one has run on a port; `cancelled` that the run has been
ended and the lane only waits for the transaction on the wire, `expired` that its attempt has timed out and only the
transaction on the wire keeps it (R198); `cfg` the configuration that its run began with, and `lead` that this was the fallback. -/
structure Lane where
  ep : Nat
  due : Nat
  pc : Nat
  buf : List Byte
  high : Nat
  held : List Nat
  openTx : Bool
  wait : LaneWait
  trig : Bool
  ahead : Bool
  probe : Bool
  started : Bool
  discard : Bool
  retries : Nat
  lastFail : Byte
  splitHt : HubTime
  sht : HubTime
  timed : Bool
  portData : Bool
  cancelled : Bool
  expired : Bool
  cfg : Mem
  lead : Bool
  deriving DecidableEq, Repr

/-- A run without a lane: a due run or a trigger part that waits for one, or a run whose trigger part has
ended and that waits for its due epoch; `readOnly` when its trigger part has already run (R200), `started`
when that part started a port transaction, with the retries made and the sample hub time taken so far (R194). -/
structure DueRun where
  ep : Nat
  due : Nat
  readOnly : Bool
  splitHt : HubTime
  started : Bool
  retries : Nat
  sht : HubTime
  timed : Bool
  portData : Bool
  deriving DecidableEq, Repr

/-- A held frame of a CAN or SENT endpoint (R192). -/
structure HeldFrame where
  ep : Nat
  ht : HubTime
  bytes : List Byte
  deriving DecidableEq, Repr

/-- An accepted ENDPOINT_COMMIT that waits for its write (R205); `atBoundary` while the boundary at which it is written
has not come, `owed` when the endpoint was due in the epoch that runs and is dispatched after the write. -/
structure EpCommit where
  ep : Nat
  parts : BitVec 3
  desc : List Byte
  cond : List Byte
  first : Nat
  steps : List Byte
  atBoundary : Bool
  owed : Bool
  deriving DecidableEq, Repr

/-- The express window of an endpoint as the intervals its outputs must lie in (R225), for one due
epoch; no entry means a stale window (R53). -/
structure ExprWin where
  ep : Nat
  due : Nat
  f0 : Option (Int × Int)
  f1 : Option (Int × Int)
  deriving DecidableEq, Repr

/-- The group value of an endpoint and the due epoch that set it (R221). -/
structure GroupVal where
  ep : Nat
  value : Int
  due : Nat
  deriving DecidableEq, Repr

/-- A sample on its way from its hand-off island to conditioning, with the window and the group values
in force when it left (R53, R222); `lane` is the lane it came from, `lead` says that its run ran in the fallback configuration. -/
structure PendSample where
  ep : Nat
  due : Nat
  lane : Nat
  ht : HubTime
  buf : List Byte
  win : Option ExprWin
  groups : List GroupVal
  lead : Bool
  deriving DecidableEq, Repr

/-- A sample held at the express check for its conditioning verdict (R53). -/
structure LateSample where
  ep : Nat
  ht : HubTime
  passed : Bool
  deriving DecidableEq, Repr

/-- The poll engine (chapter 09). `waiting` are the due runs without a lane, `triggers` the trigger parts
without one, `aheadDone` the runs whose trigger part has ended; `endedAhead` the endpoints whose run for the
next epoch ended in its trigger part; `served` holds, as a port and lane code and a lane, the lanes that a
lane has to let go first (R190); `lastRun` the LAST code that an endpoint had before a failed validation (R196). -/
structure PollSt where
  lanes : List Lane
  waiting : List DueRun
  triggers : List DueRun
  aheadDone : List DueRun
  endedAhead : List Nat
  held : List HeldFrame
  commits : List EpCommit
  served : List (Nat × Nat)
  lastRun : List (Nat × Byte)
  scanGen : List Word
  pend : List PendSample
  late : List LateSample
  deriving DecidableEq, Repr

/-- The hidden conditioning state of one endpoint (R216 to R224). -/
structure CondSt where
  ep : Nat
  ref : Option (Int × Nat)
  hist0 : List (List Int)
  hist1 : List (List Int)
  deriving DecidableEq, Repr

/-- One snapshot slot (Table 10-3). -/
structure Slot where
  v0 : Long
  v1 : Long
  v2 : Long
  v3 : Long
  sht : HubTime
  age : Word
  alive : Byte
  fcnt : BitVec 3
  qual : Word
  fq0 : Byte
  fq1 : Byte
  fq2 : Byte
  fq3 : Byte
  deriving DecidableEq, Repr

/-- The header fields of a bank that the slots do not give (Table 10-2). -/
structure BankHdr where
  epoch : Long
  flags : Word
  skip : Word
  startHt : HubTime
  guard : Byte
  endHt : HubTime
  cutoffHt : HubTime
  commitHt : HubTime
  byCount : Long
  byOff : Word
  grp : List Byte
  crcv : Word
  crc : Long
  deriving DecidableEq, Repr

/-- One snapshot bank; `order` counts the commits, `none` for a bank without a committed snapshot. -/
structure Bank where
  hdr : BankHdr
  slots : List Slot
  order : Option Nat
  deriving DecidableEq, Repr

/-- The epoch that has ended and waits for its cutoff. -/
structure EndedEpoch where
  ix : Nat
  mode : Mode
  startHt : HubTime
  endHt : HubTime
  guard : Nat
  clipped : Bool
  cutoff : HubTime
  byCount : Long
  deriving DecidableEq, Repr

/-- Conditioning, snapshots and banks (chapter 10). Bank codes: 0 none, 1 A, 2 B, 3 C. `own` lists the
endpoints with a conditioned sample since their window last became stale (R53); `written` the slots written
since the commit while the forward fill runs, `early` the early store (R227, R229); `fresh1` the slots that
the next fill gives first-commit content (R232), `fresh0` those to which an ENDPOINT_COMMIT has given it in the epoch being
staged, `missNext` those whose run ended without a sample for the epoch not yet staged; `pinAt` is the hub time at which the
pin was set; `first` says that the staged epoch is the first to commit, `firstNext` that the next one is. -/
structure SnapSt where
  cond : List CondSt
  groups : List GroupVal
  wins : List ExprWin
  own : List Nat
  bankA : Bank
  bankB : Bank
  bankC : Bank
  newest : BitVec 2
  staging : BitVec 2
  pinned : BitVec 2
  pinCommits : Nat
  pinLost : Bool
  pinTmo : Byte
  pinAt : HubTime
  xoff : Bool
  nocrc : Bool
  droplate : Bool
  new : Bool
  skipSeen : Bool
  gclip : Bool
  fill : Bool
  lateDrop : Bool
  epoch : Long
  epochLatch : Word
  early : List (Nat × Slot)
  written : List Nat
  fresh0 : List Nat
  fresh1 : List Nat
  missNext : List Nat
  first : Bool
  firstNext : Bool
  commits : Nat
  skips : Word
  ageLimit : Word
  recovering : Bool
  deriving DecidableEq, Repr

/-- Hub time, boundaries and epochs (R212 to R215). `epochIx` is the index, among all epochs since reset,
of the epoch that runs, or of the next to start; `skipped` counts those that were skipped, so an epoch's
number is its index less that count (R72, R233). `walkLeft` counts the base epochs that the running Walk epoch still
spans, `walkTaken` is the WALK_EPS it took at its start (R73). `recent` holds the newest base boundaries with their base
counts, the latest first. -/
structure TimeSt where
  now : HubTime
  run : Bool
  wrap : Bool
  epstep : Bool
  midLatch : Word
  loLatch : Word
  period : Word
  guard : Byte
  baseCount : Long
  recent : List (HubTime × Long)
  nextBoundary : Option HubTime
  epochOn : Bool
  epochIx : Nat
  epochStart : HubTime
  epochByCount : Long
  skipped : Nat
  walkLeft : Nat
  walkTaken : Nat
  heldGuard : Option Nat
  heldPeriod : Option Word
  ended : Option EndedEpoch
  deriving DecidableEq, Repr

/-- A SYNC received and not yet paired (R238), with the hub's own base boundaries near it. -/
structure RxSync where
  node : Byte
  seq : Byte
  period : Word
  count : Long
  stamp : HubTime
  bounds : List (HubTime × Long)
  deriving DecidableEq, Repr

/-- Boryel sync (R236 to R241). `ctrl` and `node` are the values in force, `ctrlNext` and `nodeNext`
the written ones; `leading` is BY_STAT.ACTLEAD, `syncOut` the sequence of the latest SYNC and the boundary it
refers to, `leaderBase` an own base count and the leader's for the same boundary, `carry` the correction of
epoch lengths still to make. -/
structure BoryelSt where
  ctrl : BitVec 3
  node : BitVec 7
  ctrlNext : BitVec 3
  nodeNext : BitVec 7
  lock : Bool
  gain : Bool
  loss : Bool
  step : Bool
  confl : Bool
  yielded : Bool
  epmm : Bool
  lnode : BitVec 7
  offset : Word
  seq : Byte
  syncOut : Option (Byte × HubTime)
  rx : Option RxSync
  pairs : Nat
  carry : Int
  leading : Bool
  leaderBase : Option (Long × Long)
  deriving DecidableEq, Repr

/-- Who produces an item (Table 11-1). -/
inductive Producer where
  | host
  | canRx (ch : Chan)
  | canTxHost (ch : Chan)
  | canHub (ch : Chan)
  | sport (p : Fin 4)
  | call (p : Fin 4)
  | event
  | tap
  | drain
  | loader
  | staging
  deriving DecidableEq, Repr

/-- A committed item of a queue (R243, R244): its chain of cells in order, and the link flags that do not follow from it.
`bad` is its first uncorrectable 64-bit word, if one was found, and so the flag POISON (R258). -/
structure Item where
  prio : BitVec 3
  bytes : List Byte
  bad : Option Nat
  kind : Byte
  cells : List Nat
  deriving DecidableEq, Repr

/-- An open item: its cells reserved, not yet closed (R244); `bytes` is what its producer has written so far. -/
structure OpenItem where
  who : Producer
  cells : List Nat
  prio : BitVec 3
  bytes : List Byte
  doomed : Bool
  bad : Option Nat
  deriving DecidableEq, Repr

/-- A dequeued item that the host reads (R252, R279): its header word, its words, how many have been
read, the cells it still holds, the 64-bit word from which it reads 0x0000, and whether the read has met that word (R258). -/
structure ReadItem where
  header : Word
  words : List Word
  pos : Nat
  cells : List Nat
  bad : Option Nat
  met : Bool
  deriving DecidableEq, Repr

/-- A running flush of one queue (R256, R257). -/
structure FlushSt where
  freed : Nat
  dropped : Nat
  byHost : Bool
  byOp : Bool
  aborted : Bool
  deriving DecidableEq, Repr

/-- One queue (Table 11-5). -/
structure Queue where
  en : Bool
  prio : Bool
  wmattn : Bool
  cap : Nat
  rsv : Nat
  wm : Nat
  hyst : Nat
  above : Bool
  wmx : Bool
  nospace : Bool
  drop : Bool
  pois : Bool
  doom : Bool
  xcnt : Nat
  items : List Item
  opens : List OpenItem
  read : Option ReadItem
  flush : Option FlushSt
  deriving DecidableEq, Repr

/-- The cell pool and the queue manager (chapter 11). `enqData` is the last word enqueued, `waiting` lists the producers that
wait under the Wait policy with their queue and cells; `ram` is the payload of the 4096 cells, cell c from address 64 c on
(R243, R263), `allocs` the model's own counter of the cells taken, and `era` counts how often the RAM has lost its contents. -/
structure PoolSt where
  queues : List Queue
  sel : BitVec 6
  hpri : BitVec 3
  flushDrop : Word
  stallTmo : Word
  corr : Byte
  poisoned : BitVec 6
  unc : Bool
  link : Bool
  dropOld : Bool
  lost : Nat
  enqData : Word
  waiting : List (Producer × Nat × Nat)
  ram : Mem
  allocs : Nat
  era : Nat
  deriving DecidableEq, Repr

/-- A frame in a transmit queue or buffer, with who queued it (R282 to R286): 0 host, 1 publication,
2 Boryel SYNC, 3 Boryel FUP. -/
structure TxFrame where
  frame : CanFrame
  kind : Byte
  deriving DecidableEq, Repr

/-- The host's transmit item while it is written (R282): its length in bytes, and the words still to come. -/
structure TxOpen where
  size : Nat
  need : Nat
  deriving DecidableEq, Repr

/-- What became of the receive item of the frame on the wire (R277). -/
inductive RxOpen where
  | none
  | opened (q : Nat)
  | lost
  deriving DecidableEq, Repr

/-- The frame being received, from the end of its control field: its header, whether it is one of Boryel sync (R273), the
deciding filter pair with its FCTL word (R275), and its receive item. -/
structure RxFrame where
  head : CanFrame
  sync : Bool
  pair : Option (Nat × Nat)
  item : RxOpen
  deriving DecidableEq, Repr

/-- One CAN channel (chapter 12). The `*Act` fields are the values taken at the start (R269, R271); `want` is the
run condition of R267 as it last stood, `autoRun` that the channel runs through CHCFG.AUTO (R271); `wasBusOff` says that the channel was stopped in bus-off (R295), `keep` that its
integration follows a restart, which keeps TEC and REC (R393). -/
structure CanSt where
  run : Bool
  lom : Bool
  fden : Bool
  tdcen : Bool
  bor : BitVec 2
  norm : Bool
  state : BitVec 2
  lec : BitVec 3
  sref : BitVec 3
  want : Bool
  autoRun : Bool
  lomAct : Bool
  fdAct : Bool
  tdcAct : Bool
  unmqAct : Bool
  tdcoAct : Nat
  wasBusOff : Bool
  recovering : Bool
  keep : Bool
  pexWait : Bool
  rx : Option RxFrame
  tec : Nat
  recc : Nat
  evt : Word
  txBuf : Option TxFrame
  txOpen : Option TxOpen
  txSkip : Nat
  txData : Word
  front0 : Option ReadItem
  front1 : Option ReadItem
  shadow0 : Option ReadItem
  shadow1 : Option ReadItem
  wErr : Nat
  wFd : Nat
  deriving DecidableEq, Repr

/-- What an S port last sent: the select, the command and address phases of a phased frame, and the bytes
that went out, trailer included; then the frame as it stood on the wires: the SPI mode (R305), the half-periods of lead and
lag that were not omitted (R307, R308), the counts of bytes after which WSZ released the select inside the frame (R308), and
the bit cells, each with what the hub drove on SDO, or on IO0 to IO3 of S0 (`none` where it released the lane, R306, R310). -/
structure SOut where
  sel : Nat
  cmd : Nat
  addr : Nat
  bytes : List Byte
  mode : Nat
  lead : Nat
  lag : Nat
  breaks : List Nat
  cells : List (List (Option Bool))
  deriving DecidableEq, Repr

/-- The settings with which the latest frame of an S port began (R150, R304): its select with the words SCLK, SDLY and
SSAFE, the three words of its phased-frame descriptor, and TFILL. -/
structure SFrame where
  sel : Nat
  sclk : Word
  sdly : Word
  ssafe : Word
  d0 : Word
  d2 : Word
  d4 : Word
  tfill : Byte
  deriving DecidableEq, Repr

/-- The requesters of an S or I port, between which its frames alternate (R320, R349). -/
inductive PortUser where
  | nobody | lane | host | fill | sfdp | flash
  deriving DecidableEq, Repr

/-- One S port (chapter 13). `out` is what it last sent, `frame` the settings that frame began with, `last` the requester that
had it (R320); `hold` is the select that CONT holds, `wcnt` the bytes sent since the select fell (R308); `sending` is the
transmit item that was loaded at the fall of the target transaction that runs (R318), `fell` the hub time of that fall (R319).
`cache` lists the execute window's lines, most recently used first, `lines` their numbers 0 to 7 (Table 13-9); `fill` is the line being filled, whether it is kept and
whether the host waits for it; `prefetch` the line whose demand fill may be followed by a prefetch (R324); `sfdpSent` that the SFDP read has the port, `sfdpAgain` that SFDP was
written once more while it read 1 (R149). -/
structure SPortSt where
  sticky : Word
  out : SOut
  frame : SFrame
  last : PortUser
  sending : Option (List Byte)
  wcnt : Nat
  hold : Option (Fin 8)
  loaded : Option (List Byte)
  target : Bool
  fell : HubTime
  stored : Bool
  ignore : Bool
  cache : List (Nat × List Byte)
  lines : List Nat
  fill : Option (Nat × Bool × Bool)
  prefetch : Option Nat
  sfdpRun : Bool
  sfdpSent : Bool
  sfdpAgain : Bool
  sfdpOk : Bool
  sfdpErr : Bool
  deriving DecidableEq, Repr

/-- One I port (chapter 14). `out` are the bytes the hub last sent, address bytes included. `idle` says that the bus counts
as busy until BIDLE has passed (R337); `ptRun` that a pass-through transaction runs: PT_CTL.GO (R348), `ptTx` that it is on the wires; `last` is the requester that had
the previous transaction (R349), `brst` the hub time at which the recovery that runs drove the reset line low (R341). -/
structure IPortSt where
  sticky : Word
  out : List Byte
  ext : Bool
  idle : Bool
  recov : Bool
  stk : Bool
  hold : Bool
  ptRun : Bool
  ptTx : Bool
  last : PortUser
  brst : Option HubTime
  deriving DecidableEq, Repr

/-- The settings of a SENT input: TCFG, TICKNOM, TTOL and LTMO (Table 15-6). -/
structure TSettings where
  cfg : Word
  nom : Word
  tol : Word
  ltmo : Word
  deriving DecidableEq, Repr

/-- What a SENT input takes the next pulse for (R353, R356, R358): it searches for a sync pulse, is in a frame whose nibbles so
far it holds, or has decoded a frame and awaits its pause or the next sync pulse. -/
inductive SentStage where
  | search
  | frame (nibbles : List (BitVec 4))
  | pause
  | sync
  deriving DecidableEq, Repr

/-- One SENT input (chapter 15). `set` are the settings taken at the falling edge that started the latest sync pulse, `next`
those taken at the latest falling edge, which starts the next pulse (R354); `prev` is the length of the previous valid sync
pulse, `slow` holds bits 3 and 2 of the status nibbles of the slow message being assembled. -/
structure TPortSt where
  sticky : Word
  set : TSettings
  next : Option TSettings
  stage : SentStage
  tick : Nat
  calibrated : Bool
  synced : Bool
  prev : Option Nat
  slow : List (Bool × Bool)
  silent : Bool
  deriving DecidableEq, Repr

/-- The tap (chapter 16). `kept` are the blocks of a ring that was frozen when a reset struck, until they are attached to
queue 48 again (R262); `kfLeft` are the epochs until the next keyframe falls due, `postLeft` the commits until the
freeze; `lanes` and `div` are the stream settings taken when recording began, `packetCells` the clock cycles of the latest
stream packet, each with the levels of TRC_D0 upward (R374); `lostBlocks` are the units of ring blocks freed since the last
Gap record. `seed` is the model's own counter for the free values that only the trace shows, so that
recording leaves every other free value as it is (R18). -/
structure TapSt where
  en : Bool
  mode : Bool
  verd : Bool
  strm : Bool
  recording : Bool
  armed : Bool
  trigd : Bool
  frozen : Bool
  gap : Bool
  kfmiss : Bool
  kfbig : Bool
  sovr : Bool
  fcause : BitVec 4
  kfpend : Bool
  trig : Word
  gaps : Word
  seq : Word
  kept : List Item
  postLeft : Nat
  kfLeft : Nat
  kfi : Nat
  post : Nat
  lanes : BitVec 2
  div : BitVec 4
  lastPacket : List Byte
  packetCells : List (List Bool)
  lostBlocks : Nat
  seed : Nat
  deriving DecidableEq, Repr

/-- Why the replay loader has ended (R377): not yet, at the end of the trace, at a header that is malformed or breaks
the SEQ order, or at a read that S0 cannot serve. -/
inductive LoaderEnd where
  | going | units | malformed | readFailed
  deriving DecidableEq, Repr

/-- Replay (chapter 16). `loaded` counts the units that the loader has passed on or skipped, `used` those that the replay
has consumed or the loader skipped; `rest` holds bytes read and not yet passed on. `diverged` says that the replay
has diverged since its latest keyframe, `divPend` holds the epoch, KIND and POINT of divergences whose record waits for the
replayed CRC (R381), `seeking` that the replay skips to the next keyframe (R382). `clock` is the hub's own time base while a replay uses `State.time` as its replay hub
time (R379). -/
structure ReplaySt where
  pause : Bool
  resync : Bool
  stopdiv : Bool
  lstate : BitVec 3
  paused : Bool
  div : Bool
  run : Bool
  mode : Mode
  why : BitVec 4
  divEpoch : Long
  divLatch : Word
  srcAddr : Long
  srcUnits : Long
  loaded : Nat
  used : Nat
  rest : List Byte
  lastSeq : Option Word
  ended : LoaderEnd
  clock : TimeSt
  epochsDone : Nat
  diverged : Bool
  divPend : List (Nat × Nat × Nat)
  seeking : Bool
  deriving DecidableEq, Repr

/-- The verdict points (R46, R48). `batch` holds the logged verdicts not yet written, joined into entries with their runs, the
newest first (R369); `forced` the recorded verdicts of a replay that wait for their grants, the oldest first (R380). -/
structure VerdictSt where
  batch : List (Verdict × Nat)
  forced : List Verdict
  deriving DecidableEq, Repr

/-- THE STATE of the hub. `seed` is the model's own counter, from which free values are drawn. -/
structure State where
  power : PowerSt
  mode : ModeSt
  fault : FaultSt
  pins : PinsSt
  rein : ReinSt
  attn : AttnSt
  op : OpSt
  auth : AuthSt
  tack : TackSt
  cfg : CfgSt
  poll : PollSt
  snap : SnapSt
  time : TimeSt
  boryel : BoryelSt
  pool : PoolSt
  canA : CanSt
  canB : CanSt
  sports : List SPortSt
  iports : List IPortSt
  tports : List TPortSt
  tap : TapSt
  replay : ReplaySt
  verdicts : VerdictSt
  seed : Nat
  pending : List Instr
  deriving DecidableEq, Repr

/-! ## The state after a power-on reset -/

/-- The PULL value a pin has after reset (Table 02-8, Table 02-4). -/
def resetPull (i : Nat) : BitVec 2 :=
  if i = 1 ∨ i = 4 then 0
  else if i < 6 then 1
  else if i ≤ 10 then 3
  else if i ≤ 14 then 1
  else if i ≤ 35 then (if (i - 15) % 7 < 3 then 3 else 1)
  else if i ≤ 51 then 0
  else 3

/-- Pin `i` after reset: its primary function, or GPIO input on MF0 to MF6 (Table 02-8). -/
def resetPin (i : Nat) : PinSt where
  func := if i < 52 then 0 else 1
  pull := resetPull i
  out := false
  inp := resetPull i = 1
  ext := none
  drv := false
  act := if i < 52 then 0 else 1
  phase := .attached

/-- A capture channel after reset (Table 02-9). -/
def resetCapture : CaptureSt where
  edge := 0
  new := false
  ovr := false
  time := 0

/-- Which queue numbers exist (Table 11-1). -/
def queueExists (q : Nat) : Bool :=
  q < 46 || q == 48 || q == 49 || q == 50 || q == 56 || q == 60 || q == 61

/-- The reserve a queue has after reset (Table 11-1). -/
def resetRsv (q : Nat) : Nat :=
  if q < 32 then 0
  else if q = 33 ∨ q = 35 then 32
  else if q < 38 then 16
  else if q < 46 then 4
  else if q = 48 then 256
  else if q = 49 then 32
  else if q = 50 ∨ q = 60 then 192
  else if q = 56 then 64
  else if q = 61 then 24
  else 0

/-- The cap a queue has after reset (Table 11-1). -/
def resetCap (q : Nat) : Nat :=
  if q < 32 then 4096
  else if q = 33 ∨ q = 35 then 1024
  else if q < 38 then 256
  else if q < 46 then 64
  else if q = 48 then 2048
  else if q = 49 then 512
  else if q = 50 then 1024
  else if q = 56 then 256
  else if q = 60 then 192
  else if q = 61 then 24
  else 0

/-- Queue `q` after reset: empty, with the values of Tables 11-1 and 11-5. -/
def resetQueue (q : Nat) : Queue where
  en := queueExists q
  prio := q == 36 || q == 37
  wmattn := false
  cap := resetCap q
  rsv := resetRsv q
  wm := 0
  hyst := 0
  above := false
  wmx := false
  nospace := false
  drop := false
  pois := false
  doom := false
  xcnt := 0
  items := []
  opens := []
  read := none
  flush := none

/-- The cell pool after reset (R262). -/
def resetPool : PoolSt where
  queues := (List.range 64).map resetQueue
  sel := 0
  hpri := 0
  flushDrop := 0
  stallTmo := 0x0064
  corr := 0
  poisoned := 0
  unc := false
  link := false
  dropOld := false
  lost := 0
  enqData := 0
  waiting := []
  ram := []
  allocs := 0
  era := 0

/-- An empty slot. -/
def zeroSlot : Slot where
  v0 := 0
  v1 := 0
  v2 := 0
  v3 := 0
  sht := 0
  age := 0
  alive := 0
  fcnt := 0
  qual := 0
  fq0 := 0
  fq1 := 0
  fq2 := 0
  fq3 := 0

/-- An empty bank header. -/
def zeroHdr : BankHdr where
  epoch := 0
  flags := 0
  skip := 0
  startHt := 0
  guard := 0
  endHt := 0
  cutoffHt := 0
  commitHt := 0
  byCount := 0
  byOff := 0
  grp := List.replicate 16 0
  crcv := 0
  crc := 0

/-- A bank without a committed snapshot. -/
def zeroBank : Bank where
  hdr := zeroHdr
  slots := List.replicate 256 zeroSlot
  order := none

/-- A poll lane without a run. -/
def freeLane : Lane where
  ep := 0
  due := 0
  pc := 0
  buf := List.replicate 32 0
  high := 0
  held := []
  openTx := false
  wait := .free
  trig := false
  ahead := false
  probe := false
  started := false
  discard := false
  retries := 0
  lastFail := 0
  splitHt := 0
  sht := 0
  timed := false
  portData := false
  cancelled := false
  expired := false
  cfg := []
  lead := false

/-- A CAN channel after reset (chapter 12). -/
def resetCan : CanSt where
  run := false
  lom := false
  fden := false
  tdcen := false
  bor := 0
  norm := false
  state := 0
  lec := 0
  sref := 0
  want := false
  autoRun := false
  lomAct := false
  fdAct := false
  tdcAct := false
  unmqAct := false
  tdcoAct := 0
  wasBusOff := false
  recovering := false
  keep := false
  pexWait := false
  rx := none
  tec := 0
  recc := 0
  evt := 0
  txBuf := none
  txOpen := none
  txSkip := 0
  txData := 0
  front0 := none
  front1 := none
  shadow0 := none
  shadow1 := none
  wErr := 0
  wFd := 0

/-- An S port after reset (chapter 13). -/
def resetSPort : SPortSt where
  sticky := 0
  out := ⟨0, 0, 0, [], 0, 0, 0, [], []⟩
  frame := ⟨0, 0, 0, 0, 0, 0, 0, 0⟩
  last := .nobody
  sending := none
  wcnt := 0
  hold := none
  loaded := none
  target := false
  fell := 0
  stored := false
  ignore := false
  cache := []
  lines := []
  fill := none
  prefetch := none
  sfdpRun := false
  sfdpSent := false
  sfdpAgain := false
  sfdpOk := false
  sfdpErr := false

/-- An I port after reset (chapter 14). -/
def resetIPort : IPortSt where
  sticky := 0
  out := []
  ext := false
  idle := false
  recov := false
  stk := false
  hold := false
  ptRun := false
  ptTx := false
  last := .nobody
  brst := none

/-- A SENT input after reset (chapter 15). -/
def resetTPort : TPortSt where
  sticky := 0
  set := ⟨0x0060, 0x0780, 0x0814, 0x0064⟩
  next := none
  stage := .search
  tick := 0
  calibrated := false
  synced := false
  prev := none
  slow := []
  silent := false

/-- Power, clock, supplies and the mode and power block after power-on reset (Tables 04-4, 04-12). -/
def resetPower : PowerSt where
  boot := .held
  freq := 0
  freqBad := false
  measured := false
  pllLocked := false
  crystalStopped := false
  clockLost := false
  bankLow := 0
  rstCause := 0b00001
  psel := 0
  pwr := 0x000B
  walkEps := 4
  clip := false
  wakeCfg := 0x0300
  wakeTgt := 0
  wakeCause := 0
  aotUnit := 0
  aotCnt := 1
  lrDrop0 := 0
  lrDrop1 := 0
  stbDrop := 0
  pwrHold := true
  dropRunning := false
  sleep := .awake
  wakeTarget := .halter
  earlyWake := false

/-- The mode controller after reset (Tables 04-10, 04-11). -/
def resetMode : ModeSt where
  req := 0
  cur := .reset
  tgt := .reset
  pend := false
  effective := false
  hwch := false
  refused := false
  rfs := 0
  konly := false
  hwCode := none
  farrierExit := false

/-- An empty fault log (R389). -/
def resetFault : FaultSt where
  code := 0
  count := 0
  total := 0
  next := 0
  active := 0
  sweeps := 0
  log := List.replicate 15 ⟨0, 0, 0, 0, 0, 0⟩
  restarting := []
  lastR := []
  failedOther := []
  snapUncRun := 0

/-- The pin multiplexer after reset (Tables 02-4, 02-8, 02-9). -/
def resetPins : PinsSt where
  pins := (List.range 59).map resetPin
  lock := false
  refPin := 0
  refWhy := 0
  refValid := false
  transit := 1
  epochEn := true
  epochPol := false
  epochWidth := 0x0A
  epochActive := false
  cap0 := resetCapture
  cap1 := resetCapture

/-- The Rein port after reset (R124, R126, R127, Tables 06-5 to 06-9). -/
def resetRein : ReinSt where
  expAlv := 0
  anyAlv := true
  dalv := 0
  res := 0
  crce := false
  alve := false
  adre := false
  lene := false
  rptNew := 0
  rptOld := 0
  winAddr := 0
  ainc := false
  werr := false
  slowPending := none
  stall := none
  miso := none

/-- Attention and scratch registers after reset. -/
def resetAttn : AttnSt where
  src := 0
  mask := 0
  scratch := List.replicate 8 0

/-- The long-operation registers after reset (R181). -/
def resetOp : OpSt where
  code := 0
  abort := false
  state := 0
  ovf := false
  why := 0
  prog := 0
  arg0 := 0
  arg1 := 0
  arg2 := 0
  arg3 := 0
  newest := ⟨0, 0, 0, 0⟩
  recs := []
  job := .none

/-- The authentication registers after reset. -/
def resetAuth : AuthSt where
  op := 0
  ctr := 0
  tag0 := 0
  tag1 := 0
  tag2 := 0
  tag3 := 0
  result := 0
  rej := false
  hold := false
  lslot := 0
  fails := 0
  pend := none
  lastAccepted := 0
  keyWrite := none

/-- An empty key slot. -/
def emptySlot : KeySlot := ⟨0, List.replicate 16 0, 0⟩

/-- The tack store of a new part with its registers after reset (R112, R167). The identity bytes and
the transport key are the device's own (log entry 6). -/
def resetTack : TackSt where
  mem := []
  uid := List.replicate 8 0
  slots := [⟨1, List.replicate 16 0, 0xFF⟩, emptySlot, emptySlot, emptySlot]
  counter := 0
  ringNext := 0
  busy := false
  job := none
  corr := false
  unc := false
  failCode := 0
  sel := 0
  selSrc := false
  usrOk := false
  fbOk := false
  fbLock := false
  marked := 0
  act1 := 0
  swTgt := 0
  swPend := false
  swStaged := false
  swFail := false
  swWhy := 0
  swFailed := false
  expanding := false

/-- Configuration memories at their reset values. -/
def resetCfg : CfgSt := ⟨[], [], []⟩

/-- The poll engine after reset. -/
def resetPoll : PollSt where
  lanes := List.replicate 16 freeLane
  waiting := []
  triggers := []
  aheadDone := []
  endedAhead := []
  held := []
  commits := []
  served := []
  lastRun := []
  scanGen := List.replicate 4 0
  pend := []
  late := []

/-- Snapshots after reset (Table 10-7). -/
def resetSnap : SnapSt where
  cond := []
  groups := []
  wins := []
  own := []
  bankA := zeroBank
  bankB := zeroBank
  bankC := zeroBank
  newest := 0
  staging := 0
  pinned := 0
  pinCommits := 0
  pinLost := false
  pinTmo := 0
  pinAt := 0
  xoff := false
  nocrc := false
  droplate := false
  new := false
  skipSeen := false
  gclip := false
  fill := false
  lateDrop := false
  epoch := 0
  epochLatch := 0
  early := []
  written := []
  fresh0 := []
  fresh1 := []
  missNext := []
  first := true
  firstNext := false
  commits := 0
  skips := 0
  ageLimit := 0
  recovering := false

/-- The time base after reset (R66, R212). -/
def resetTime : TimeSt where
  now := 0
  run := false
  wrap := false
  epstep := false
  midLatch := 0
  loLatch := 0
  period := 0x0064
  guard := 0
  baseCount := 0
  recent := []
  nextBoundary := none
  epochOn := false
  epochIx := 0
  epochStart := 0
  epochByCount := 0xFFFF_FFFF
  skipped := 0
  walkLeft := 0
  walkTaken := 0
  heldGuard := none
  heldPeriod := none
  ended := none

/-- Boryel sync after reset (Table 10-8). -/
def resetBoryel : BoryelSt where
  ctrl := 0
  node := 0
  ctrlNext := 0
  nodeNext := 0
  lock := false
  gain := false
  loss := false
  step := false
  confl := false
  yielded := false
  epmm := false
  lnode := 0
  offset := 0
  seq := 0
  syncOut := none
  rx := none
  pairs := 0
  carry := 0
  leading := false
  leaderBase := none

/-- The tap after reset (Table 16-3). -/
def resetTap : TapSt where
  en := false
  mode := false
  verd := false
  strm := false
  recording := false
  armed := false
  trigd := false
  frozen := false
  gap := false
  kfmiss := false
  kfbig := false
  sovr := false
  fcause := 0
  kfpend := false
  trig := 0
  gaps := 0
  seq := 0
  kept := []
  postLeft := 0
  kfLeft := 0
  kfi := 6
  post := 0x10
  lanes := 0
  div := 0
  lastPacket := []
  packetCells := []
  lostBlocks := 0
  seed := 0

/-- Replay after reset (Table 16-4). -/
def resetReplay : ReplaySt where
  pause := false
  resync := false
  stopdiv := false
  lstate := 0
  paused := false
  div := false
  run := false
  mode := .reset
  why := 0
  divEpoch := 0
  divLatch := 0
  srcAddr := 0
  srcUnits := 0
  loaded := 0
  used := 0
  rest := []
  lastSeq := none
  ended := .going
  clock := resetTime
  epochsDone := 0
  diverged := false
  divPend := []
  seeking := false

/-- THE STATE AFTER RESET: a power-on reset holds the hub (step 1 of Table 04-4); every register has
the value of its Reset column. -/
def State.reset : State where
  power := resetPower
  mode := resetMode
  fault := resetFault
  pins := resetPins
  rein := resetRein
  attn := resetAttn
  op := resetOp
  auth := resetAuth
  tack := resetTack
  cfg := resetCfg
  poll := resetPoll
  snap := resetSnap
  time := resetTime
  boryel := resetBoryel
  pool := resetPool
  canA := resetCan
  canB := resetCan
  sports := List.replicate 4 resetSPort
  iports := List.replicate 4 resetIPort
  tports := List.replicate 4 resetTPort
  tap := resetTap
  replay := resetReplay
  verdicts := ⟨[], []⟩
  seed := 0
  pending := []

end Sys2Proof.Machine
end

