-- ==== Sys2Proof/Machine/Ops.lean ====
section
/-! DEFINITION. The named operations over the state that every unit shares: byte order, memories, bit
fields, hub time, attention and free values. -/

namespace Sys2Proof.Machine

/-! ## Bits and bytes -/

/-- 1 for true. -/
def bit (b : Bool) : Nat := if b then 1 else 0

/-- Bits `lo` to `lo + len - 1` of a number. -/
def field (v lo len : Nat) : Nat := v / 2 ^ lo % 2 ^ len

/-- Bit `i` of a number. -/
def nbit (v i : Nat) : Bool := v.testBit i

/-- A 16-bit word from its fields: pairs of a value and its lowest bit. -/
def packWord (fs : List (Nat × Nat)) : Word :=
  BitVec.ofNat 16 (fs.foldl (fun a f => a + f.1 * 2 ^ f.2) 0)

/-- The `n` bytes of a number, least significant first (R6). -/
def leBytes : Nat → Nat → List Byte
  | 0, _ => []
  | n + 1, v => BitVec.ofNat 8 v :: leBytes n (v / 256)

/-- The number that bytes in little-endian order spell (R6). -/
def leValue : List Byte → Nat
  | [] => 0
  | b :: bs => b.toNat + 256 * leValue bs

/-- The 16-bit words of a byte string, low byte first; an odd last byte has a zero high byte (R252). -/
def wordsOf : List Byte → List Word
  | [] => []
  | [b] => [BitVec.ofNat 16 b.toNat]
  | b :: c :: bs => BitVec.ofNat 16 (b.toNat + 256 * c.toNat) :: wordsOf bs

/-- The bytes of 16-bit words, low byte first (R251). -/
def bytesOf (ws : List Word) : List Byte :=
  ws.flatMap (fun w => leBytes 2 w.toNat)

/-- A byte string padded with zero bytes to at least `n` bytes. -/
def padTo (n : Nat) (bs : List Byte) : List Byte :=
  bs ++ List.replicate (n - bs.length) 0

/-- A sum that stops at a limit. -/
def satAdd (limit a b : Nat) : Nat := min limit (a + b)

/-- The word with bit `i` set. -/
def setBit (w : Word) (i : Nat) : Word := w ||| BitVec.ofNat 16 (2 ^ i)

/-- A two's complement reading of `n` bits. -/
def signed (n v : Nat) : Int := if v < 2 ^ (n - 1) then (v : Int) else (v : Int) - 2 ^ n

/-- The 32-bit word of an integer, modulo 2^32. -/
def long (i : Int) : Long := BitVec.ofInt 32 i

/-- An integer kept between two bounds. -/
def clamp (lo hi x : Int) : Int := max lo (min hi x)

/-! ## Byte memories -/

/-- The byte at address `a`, where an address that is not listed reads `d a`. -/
def Memory.read (d : Nat → Byte) (m : Mem) (a : Nat) : Byte :=
  match m with
  | [] => d a
  | c :: cs => if c.1 = a then c.2 else if a < c.1 then d a else Memory.read d cs a

/-- The memory with byte `b` at address `a`, in canonical form. -/
def Memory.write (d : Nat → Byte) (m : Mem) (a : Nat) (b : Byte) : Mem :=
  match m with
  | [] => if b = d a then [] else [(a, b)]
  | c :: cs =>
    if c.1 < a then c :: Memory.write d cs a b
    else if c.1 = a then (if b = d a then cs else (a, b) :: cs)
    else if b = d a then c :: cs else (a, b) :: c :: cs

/-- A byte string written from address `a` upward. -/
def Memory.writeBytes (d : Nat → Byte) (m : Mem) (a : Nat) : List Byte → Mem
  | [] => m
  | b :: bs => Memory.writeBytes d (Memory.write d m a b) (a + 1) bs

/-- The `n` bytes from address `a` upward. -/
def Memory.readBytes (d : Nat → Byte) (m : Mem) (a n : Nat) : List Byte :=
  (List.range n).map (fun i => Memory.read d m (a + i))

/-- The little-endian number of the `n` bytes at `a`. -/
def Memory.readLe (d : Nat → Byte) (m : Mem) (a n : Nat) : Nat :=
  leValue (Memory.readBytes d m a n)

/-- The `n` cells from `a` upward back at what an unlisted address reads as. -/
def Memory.clear (m : Mem) (a n : Nat) : Mem :=
  m.filter (fun c => decide (c.1 < a) || decide (a + n ≤ c.1))

/-- Canonical form: addresses strictly rising from `lo`, no cell equal to what it reads as unlisted. -/
def Memory.wfFrom (d : Nat → Byte) (lo : Nat) : Mem → Bool
  | [] => true
  | c :: cs => decide (lo ≤ c.1) && (c.2 != d c.1) && Memory.wfFrom d (c.1 + 1) cs

/-- The canonical form of a memory. -/
def Memory.wf (d : Nat → Byte) (m : Mem) : Bool := Memory.wfFrom d 0 m

/-! ## Lists -/

/-- The list with entry `i` changed by `f`. -/
def modifyNth {α : Type} (f : α → α) : Nat → List α → List α
  | _, [] => []
  | 0, x :: xs => f x :: xs
  | n + 1, x :: xs => x :: modifyNth f n xs

/-- The entry of an association list, if there is one. -/
def lookupNat {α : Type} (k : Nat) : List (Nat × α) → Option α
  | [] => none
  | p :: ps => if p.1 = k then some p.2 else lookupNat k ps

/-- The association list with key `k` at `v`, keys rising. -/
def insertNat {α : Type} (k : Nat) (v : α) : List (Nat × α) → List (Nat × α)
  | [] => [(k, v)]
  | p :: ps => if p.1 < k then p :: insertNat k v ps else if p.1 = k then (k, v) :: ps else (k, v) :: p :: ps

/-- The list with `k` in it, without repeats. -/
def insertOnce (k : Nat) (l : List Nat) : List Nat := if l.contains k then l else l ++ [k]

/-! ## Modes, hub time, attention and free values -/

/-- The code of a mode (Table 04-1). -/
def Mode.code : Mode → Nat
  | .reset => 0
  | .stabled => 1
  | .halter => 2
  | .walk => 3
  | .canter => 4
  | .leadrein => 5
  | .farrier => 6

/-- Walk, Canter and Lead-rein poll and commit (Table 01-4). -/
def Mode.polls (m : Mode) : Bool := m == .walk || m == .canter || m == .leadrein

/-- Walk and Canter are the modes that record (Table 01-4, R364). -/
def Mode.records (m : Mode) : Bool := m == .walk || m == .canter

/-- The mode that the units work in: the current mode, or the replayed mode while REPLAY_RUN runs (R378). -/
def actMode (s : State) : Mode := if s.replay.run then s.replay.mode else s.mode.cur

/-- The hub's own time base, which goes on while a replay has another (R379). -/
def hubClock (s : State) : TimeSt := if s.replay.run then s.replay.clock else s.time

/-- Hub time as the register file shows it. -/
def hubNow (s : State) : HubTime := (hubClock s).now

/-- A time base moves on to `t`, never back, and only while it counts (R212). -/
def TimeSt.moveTo (t : HubTime) (x : TimeSt) : TimeSt :=
  if x.run && HubTime.atOrAfter t x.now then
    { x with now := t, wrap := x.wrap || decide (t.toNat < x.now.toNat) }
  else x

/-- Hub time moves on to `t` (R212), unless the time base is dropped (R164). -/
def advance (t : HubTime) (s : State) : State :=
  if s.power.lrDrop1.getLsbD 2 then s
  else if s.replay.run then { s with replay := { s.replay with clock := s.replay.clock.moveTo t } }
  else { s with time := s.time.moveTo t }



/-- The model's counter moves on after a free value has been drawn. -/
def drawn (s : State) : State := { s with seed := s.seed + 1 }

/-- The low 32 bits of a hub time, as records carry it (R367). -/
def ht32 (t : HubTime) : List Byte := leBytes 4 t.toNat

/-- The channel's half of the state. -/
def canOf (ch : Chan) (s : State) : CanSt :=
  match ch with
  | .a => s.canA
  | .b => s.canB

/-- The state with one channel changed. -/
def modCan (ch : Chan) (f : CanSt → CanSt) (s : State) : State :=
  match ch with
  | .a => { s with canA := f s.canA }
  | .b => { s with canB := f s.canB }

/-- 0 for CAN A, 1 for CAN B. -/
def chanNum : Chan → Nat
  | .a => 0
  | .b => 1

/-- S port `p` (0 to 3). -/
def sportOf (p : Nat) (s : State) : SPortSt := s.sports.getD p resetSPort

/-- The state with S port `p` changed. -/
def modSPort (p : Nat) (f : SPortSt → SPortSt) (s : State) : State :=
  { s with sports := modifyNth f p s.sports }

/-- I port `p` (0 to 3). -/
def iportOf (p : Nat) (s : State) : IPortSt := s.iports.getD p resetIPort

/-- The state with I port `p` changed. -/
def modIPort (p : Nat) (f : IPortSt → IPortSt) (s : State) : State :=
  { s with iports := modifyNth f p s.iports }

/-- SENT input `p` (0 to 3). -/
def tportOf (p : Nat) (s : State) : TPortSt := s.tports.getD p resetTPort

/-- The state with SENT input `p` changed. -/
def modTPort (p : Nat) (f : TPortSt → TPortSt) (s : State) : State :=
  { s with tports := modifyNth f p s.tports }

/-- Multiplexed pin `i`. -/
def pinOf (i : Nat) (s : State) : PinSt := s.pins.pins.getD i (resetPin i)

/-- The state with pin `i` changed. -/
def modPin (i : Nat) (f : PinSt → PinSt) (s : State) : State :=
  { s with pins := { s.pins with pins := modifyNth f i s.pins.pins } }

end Sys2Proof.Machine
end

