-- ==== Sys2Proof/Machine/Aes.lean ====
section
/-! DEFINITION. AES-128 (FIPS 197) and CMAC (NIST SP 800-38B), for the tags of authenticated commands and
the unwrapping of keys (R166, R175). -/

namespace Sys2Proof.Machine

/-- Multiplication by x in the AES field. -/
def aesX (b : Byte) : Byte := if b.getLsbD 7 then (b <<< 1) ^^^ 0x1B else b <<< 1

/-- Multiplication in the AES field, over the `n` low bits of `b`. -/
def aesMulBits : Nat → Byte → Byte → Byte
  | 0, _, _ => 0
  | n + 1, a, b => (if b.getLsbD 0 then a else 0) ^^^ aesMulBits n (aesX a) (b >>> 1)

/-- Multiplication in the AES field. -/
def aesMul (a b : Byte) : Byte := aesMulBits 8 a b

/-- The n-th power in the AES field. -/
def aesPow (a : Byte) : Nat → Byte
  | 0 => 1
  | n + 1 => aesMul a (aesPow a n)

/-- The bits of a byte turned left by `n`. -/
def rotl8 (b : Byte) (n : Nat) : Byte := (b <<< n) ||| (b >>> (8 - n))

/-- The S-box: the inverse (the power 254) and the affine map. -/
def aesSubByte (b : Byte) : Byte :=
  let i := aesPow b 254
  i ^^^ rotl8 i 1 ^^^ rotl8 i 2 ^^^ rotl8 i 3 ^^^ rotl8 i 4 ^^^ 0x63

/-- The S-box as a table. -/
def aesSbox : List Byte := (List.range 256).map (fun n => aesSubByte (BitVec.ofNat 8 n))

/-- One byte through the S-box. -/
def subByte (b : Byte) : Byte := aesSbox.getD b.toNat 0

/-- One byte through the inverse S-box. -/
def invSubByte (b : Byte) : Byte := BitVec.ofNat 8 (aesSbox.idxOf b)

/-- The sum of two byte strings. -/
def xorBytes (a b : List Byte) : List Byte := List.zipWith (· ^^^ ·) a b

/-- The round constants. -/
def aesRcon : List Byte := [0x01, 0x02, 0x04, 0x08, 0x10, 0x20, 0x40, 0x80, 0x1B, 0x36]

/-- The next round key of a 16-byte round key. -/
def nextRoundKey (k : List Byte) (rc : Byte) : List Byte :=
  let w3 := k.drop 12
  let t := match w3 with
    | [a, b, c, d] => [subByte b ^^^ rc, subByte c, subByte d, subByte a]
    | l => l
  let w0 := xorBytes (k.take 4) t
  let w1 := xorBytes ((k.drop 4).take 4) w0
  let w2 := xorBytes ((k.drop 8).take 4) w1
  w0 ++ w1 ++ w2 ++ xorBytes w3 w2

/-- The eleven round keys. -/
def roundKeys (k : List Byte) : List (List Byte) :=
  aesRcon.foldl (fun ks rc => ks ++ [nextRoundKey (ks.getLastD k) rc]) [k]

/-- Row r of the state turns left by r columns. -/
def shiftRows (b : List Byte) : List Byte :=
  (List.range 16).map (fun i => b.getD ((i + 4 * (i % 4)) % 16) 0)

/-- The inverse of `shiftRows`. -/
def invShiftRows (b : List Byte) : List Byte :=
  (List.range 16).map (fun i => b.getD ((i + 12 * (i % 4)) % 16) 0)

/-- One column times the circulant matrix with first row `m`. -/
def mixColumn (m c : List Byte) : List Byte :=
  (List.range 4).map (fun r =>
    (List.range 4).foldl (fun a j => a ^^^ aesMul (m.getD ((j + 4 - r) % 4) 0) (c.getD j 0)) 0)

/-- The four columns of the state, each times the matrix. -/
def mixColumns (m b : List Byte) : List Byte :=
  (List.range 4).flatMap (fun c => mixColumn m ((b.drop (4 * c)).take 4))

/-- AES-128 encryption of one block. -/
def aesEncrypt (key block : List Byte) : List Byte :=
  let ks := roundKeys key
  let st := (List.range 9).foldl
    (fun b r => xorBytes (mixColumns [2, 3, 1, 1] (shiftRows (b.map subByte))) (ks.getD (r + 1) []))
    (xorBytes block key)
  xorBytes (shiftRows (st.map subByte)) (ks.getD 10 [])

/-- AES-128 decryption of one block. -/
def aesDecrypt (key block : List Byte) : List Byte :=
  let ks := roundKeys key
  let st := (List.range 9).foldl
    (fun b r => mixColumns [14, 11, 13, 9]
      (xorBytes ((invShiftRows b).map invSubByte) (ks.getD (9 - r) [])))
    (xorBytes block (ks.getD 10 []))
  xorBytes ((invShiftRows st).map invSubByte) key

/-- A block shifted left by one bit. -/
def shiftBlock (b : List Byte) : List Byte :=
  (List.range 16).map (fun i => ((b.getD i 0) <<< 1) ||| ((b.getD (i + 1) 0) >>> 7))

/-- A CMAC subkey from the block before it. -/
def subKey (l : List Byte) : List Byte :=
  if (l.headD 0).getLsbD 7 then xorBytes (shiftBlock l) (List.replicate 15 0 ++ [0x87]) else shiftBlock l

/-- The last CMAC block: whole, or padded with 0x80 and zeros, and combined with its subkey. -/
def cmacLast (k1 k2 m : List Byte) : List Byte :=
  if m.length = 16 then xorBytes m k1 else xorBytes (padTo 16 (m ++ [0x80])) k2

/-- The CMAC chain over the blocks of a message. -/
def cmacChain (key k1 k2 : List Byte) : Nat → List Byte → List Byte → List Byte
  | 0, x, m => aesEncrypt key (xorBytes x (cmacLast k1 k2 m))
  | n + 1, x, m =>
    if m.length ≤ 16 then aesEncrypt key (xorBytes x (cmacLast k1 k2 m))
    else cmacChain key k1 k2 n (aesEncrypt key (xorBytes x (m.take 16))) (m.drop 16)

/-- AES-128 CMAC. -/
def cmac (key m : List Byte) : List Byte :=
  let k1 := subKey (aesEncrypt key (List.replicate 16 0))
  cmacChain key k1 (subKey k1) (m.length / 16 + 1) (List.replicate 16 0) m

end Sys2Proof.Machine
end

