-- ==== Sys2Proof/Machine/Verdicts.lean ====
section
/-! DEFINITION. Verdict points (R46 to R48, R432): which points are logged, what a grant leaves in the verdict batch of the tap
or takes from the recorded verdicts of a replay, and the trees of points in which many requesters meet. -/

namespace Sys2Proof.Machine

/-! ## Verdict batches (R369) -/

/-- Which points are logged: 0 to 391 and 404 to 407 (R48). -/
def loggedPoint (p : Nat) : Bool := decide (p < 392) || (decide (404 ≤ p) && decide (p < 408))

/-- The newest entry of the verdict's point takes one more verdict, where it has the same winner and room; `none` where it
does not. The batch stands newest entry first. -/
def joinEntry (v : Verdict) : List (Verdict × Nat) → Option (List (Verdict × Nat))
  | [] => none
  | e :: es =>
    if e.1.point = v.point then (if e.1 = v ∧ e.2 < 64 then some ((v, e.2 + 1) :: es) else none)
    else (joinEntry v es).map (fun l => e :: l)

/-- Consecutive verdicts of one point with one winner join one entry, up to a run of 64 (R369). Those of other points may
lie between them: the points keep no mutual order (log entry 80). -/
def addVerdict (v : Verdict) (b : List (Verdict × Nat)) : List (Verdict × Nat) := (joinEntry v b).getD ((v, 1) :: b)

/-! ## Grants -/

/-- The list without its first entry that meets `p`. -/
def dropFirst {α : Type} (p : α → Bool) : List α → List α
  | [] => []
  | x :: xs => if p x then xs else x :: dropFirst p xs

/-- The first recorded verdict that point `p` waits for. -/
def forcedFirst (p : Nat) (s : State) : Option Verdict := s.verdicts.forced.find? (fun v => v.point == p)

/-- The first recorded verdict of point `p` has been granted, or is discarded. -/
def dropForced (p : Nat) (s : State) : State :=
  { s with verdicts := { s.verdicts with forced := dropFirst (fun v => v.point == p) s.verdicts.forced } }

/-- One grant at a verdict point, of input b where `b` holds (R46): while the tap records verdicts a logged one joins the
batch (R48); in a replay it uses up the recorded verdict that names it (R380). -/
def grant (p : Nat) (b : Bool) (s : State) : State :=
  if s.replay.run then (if forcedFirst p s = some ⟨p, b⟩ then dropForced p s else s)
  else if s.tap.recording && s.tap.verd && loggedPoint p then
    { s with verdicts := { s.verdicts with batch := addVerdict ⟨p, b⟩ s.verdicts.batch } }
  else s

/-- Several grants, in order. -/
def grants (l : List (Nat × Bool)) (s : State) : State := l.foldl (fun s g => grant g.1 g.2 s) s

/-- A request at a forced point has to wait: the next recorded verdict names the other input (R48), or none has been loaded
yet (Table 16-6). -/
def heldUp (p : Nat) (b : Bool) (s : State) : Bool :=
  s.replay.run && loggedPoint p && forcedFirst p s != some ⟨p, b⟩

/-- An event sets bit `n` of ATTN_SRC (Table 07-5): a hardware update at point 17 (Table 07-1), for an express event after
point 181 (Table 03-7). -/
def attend (n : Nat) (s : State) : State :=
  let s1 := if n = 0 then grant 181 false (grant 181 true s) else s
  grant 17 true { s1 with attn := { s1.attn with src := setBit s1.attn.src n } }

/-- None of the requests on a path has to wait. -/
def passes (l : List (Nat × Bool)) (s : State) : Bool := l.all (fun g => !heldUp g.1 g.2 s)

/-! ## Trees of points (Table 03-7) -/

/-- The way of one of 16 requesters through a tree whose levels begin at the points `a`, `b`, `c` and `d`. -/
def treePath (a b c d n : Nat) : List (Nat × Bool) :=
  [(a + n / 2, n % 2 == 1), (b + n / 4, n / 2 % 2 == 1), (c + n / 8, n / 4 % 2 == 1), (d, n / 8 % 2 == 1)]

/-- Points 68 to 82: the port request of lane `n`. -/
def requestPath (n : Nat) : List (Nat × Bool) := treePath 68 76 80 82 n

/-- Points 124 to 138: a sample of lane `n` enters conditioning. -/
def samplePath (n : Nat) : List (Nat × Bool) := treePath 124 132 136 138 n

/-- Points 139 to 153: a value update of plausibility group `g`. -/
def groupPath (g : Nat) : List (Nat × Bool) := treePath 139 147 151 153 g

/-- Points 166 to 178: an express sample of the port with code `p`. -/
def expressPath (p : Nat) : List (Nat × Bool) :=
  (166 + p / 2, p % 2 == 1) ::
    (if p < 4 then [(173, p / 2 == 1), (176, false), (178, false)]
     else if p < 8 then [(174, p / 2 == 3), (176, true), (178, false)]
     else if p < 12 then [(175, p / 2 == 5), (177, false), (178, true)]
     else [(177, true), (178, true)])

/-- The verdict points of S port `p` begin here (Table 13-9): the base b, for S0 the point before its fifth. -/
def sPoint (p : Nat) : Nat := if p = 0 then 306 else 312 + 10 * p

/-- The verdict points of I port `p` begin here (Table 14-3). -/
def iPoint (p : Nat) : Nat := 352 + 8 * p

/-- The verdict points of a CAN channel begin here (Table 12-6). -/
def canPoint (ch : Chan) : Nat := match ch with | .a => 266 | .b => 286

end Sys2Proof.Machine
end

