-- ==== Sys2Proof/Machine/Pool.lean ====
section
/-! DEFINITION. The cell pool and its queues (chapter 11): cells, their payload and their links, levels and reserves,
reservations, items, dequeue order, watermarks, full policies, flushes and event items. -/

namespace Sys2Proof.Machine

/-- The cells an item of `n` bytes takes (R244). -/
def cellsFor (n : Nat) : Nat := (n + 63) / 64

/-- The sum of a list. -/
def sumNat (l : List Nat) : Nat := l.foldl (· + ·) 0

/-- L_q: the cells of committed items, of open items, and of a dequeued item not yet released. -/
def Queue.level (x : Queue) : Nat :=
  sumNat (x.items.map (fun i => i.cells.length)) + sumNat (x.opens.map (fun o => o.cells.length))
    + (match x.read with | none => 0 | some r => r.cells.length)

/-- The cells that a queue holds. -/
def Queue.cells (x : Queue) : List Nat :=
  x.items.flatMap (fun i => i.cells) ++ x.opens.flatMap (fun o => o.cells)
    ++ (match x.read with | none => [] | some r => r.cells)

/-- Queue `q`. -/
def queueOf (q : Nat) (s : State) : Queue := s.pool.queues.getD q (resetQueue q)

/-- The watermark rule after a change of L_q (R255). -/
def Queue.mark (x : Queue) : Queue :=
  if x.above then
    (if (if x.hyst > x.wm then x.level == 0 else decide (x.level ≤ x.wm - x.hyst)) then
      { x with above := false } else x)
  else if x.level > x.wm then { x with above := true, wmx := true, xcnt := satAdd 255 x.xcnt 1 }
  else x

/-- A queue after an operation, with the watermark rule applied where its level changed. -/
def Queue.after (x y : Queue) : Queue := if y.level = x.level then y else y.mark

/-- The state with queue `q` changed by `f`, watermark included (R255). -/
def modQueue (q : Nat) (f : Queue → Queue) (s : State) : State :=
  { s with pool := { s.pool with queues := modifyNth (fun x => x.after (f x)) q s.pool.queues } }

/-- F: the free cells. -/
def freeCells (s : State) : Nat := 4096 - sumNat (s.pool.queues.map Queue.level)

/-- O_q: the cells a queue is owed. -/
def Queue.owed (x : Queue) : Nat := x.rsv - x.level

/-- S: the shared cells. -/
def sharedCells (s : State) : Int :=
  (4096 : Int) - (sumNat (s.pool.queues.map Queue.level) : Int) - (sumNat (s.pool.queues.map Queue.owed) : Int)

/-- R246: whether a reservation of `n` cells for queue `q` is granted. -/
def canReserve (q n : Nat) (s : State) : Bool :=
  let x := queueOf q s
  x.en && decide (x.level + n ≤ x.cap) && decide ((n : Int) ≤ (x.owed : Int) + sharedCells s)

/-- The cell pool and queue manager has failed and is dropped (R82). -/
def qmgrDropped (s : State) : Bool := s.power.lrDrop1.getLsbD 3

/-! ## Cells (R243) -/

/-- The free cells, in ascending order. -/
def freeList (s : State) : List Nat :=
  let held := s.pool.queues.flatMap Queue.cells
  (List.range 4096).filter (fun c => !held.contains c)

/-- `n` cells of the free list; `k` counts the cells taken before. Which free cells an item is given the spec does not say
(log entry 21). -/
def pickCells : Nat → Nat → List Nat → List Nat
  | 0, _, _ => []
  | n + 1, k, free =>
    let c := free.getD (Config.cellPick k % free.length) 0
    c :: pickCells n (k + 1) (free.filter (fun d => d != c))

/-- Where byte `i` of an item lies in the pool RAM (R263). -/
def cellAddr (cells : List Nat) (i : Nat) : Nat := 64 * cells.getD (i / 64) 0 + i % 64

/-- The pool RAM where nothing has been written since it last lost its contents: bytes of which the spec states nothing. -/
def poolDflt (era a : Nat) : Byte := Config.poolByte (262144 * era + a)

/-- Bytes written into an item's cells from its byte `i` on. -/
def writeCells (d : Nat → Byte) (cells : List Nat) : Nat → List Byte → Mem → Mem
  | _, [], m => m
  | i, b :: bs, m => writeCells d cells (i + 1) bs (Memory.write d m (cellAddr cells i) b)

/-- The pool RAM with bytes written into an item's cells. -/
def putCells (cells : List Nat) (i : Nat) (bs : List Byte) (s : State) : State :=
  { s with pool := { s.pool with ram := writeCells (poolDflt s.pool.era) cells i bs s.pool.ram } }

/-- Accesses of cells at their banks' verdict points 246 to 261: reads, or writes where `b` holds (Table 11-4). -/
def bankGrants (b : Bool) (cells : List Nat) : List (Nat × Bool) := cells.map (fun c => (246 + c % 16, b))

/-- Where an item stands in its queue: the committed item number `i` from the oldest, the dequeued item, or the open item
number `i`. -/
inductive PoolPlace where
  | committed (i : Nat)
  | reading
  | opened (i : Nat)
  deriving DecidableEq, Repr

/-- The place of cell `c` in a queue, and which of its item's cells it is. -/
def Queue.placeOf (c : Nat) (x : Queue) : Option (PoolPlace × Nat) :=
  match x.items.findIdx? (fun i => i.cells.contains c) with
  | some i => some (.committed i, ((x.items[i]?).map (fun t => t.cells.idxOf c)).getD 0)
  | none =>
    match x.opens.findIdx? (fun o => o.cells.contains c) with
    | some i => some (.opened i, ((x.opens[i]?).map (fun o => o.cells.idxOf c)).getD 0)
    | none =>
      match x.read with
      | some r => if r.cells.contains c then some (.reading, r.cells.idxOf c) else none
      | none => none

/-- The queue that holds cell `c`, the place of its item there, and which of the item's cells it is. -/
def holderOf (c : Nat) (s : State) : Option (Nat × PoolPlace × Nat) :=
  (List.range 64).findSome? (fun q => ((queueOf q s).placeOf c).map (fun h => (q, h.1, h.2)))

/-- One entry of the link memory (R243): the next cell, the flags, and in the first cell of an item its length and
priority. -/
structure LinkEntry where
  next : Option Nat
  first : Bool
  last : Bool
  poison : Bool
  doomed : Bool
  size : Option (Nat × BitVec 3)
  deriving DecidableEq, Repr

/-- The link entry of an item's `k`-th cell. -/
def linkEntry (cells : List Nat) (k : Nat) (poison doomed : Bool) (length : Nat) (prio : BitVec 3) : LinkEntry :=
  { next := cells[k + 1]?, first := k == 0, last := k + 1 == cells.length, poison := poison, doomed := doomed
    size := if k = 0 then some (length, prio) else none }

/-- The entry of cell `c` in the link memory, `none` for a free cell (R243). It follows from the items, whose chains of cells
the state holds. -/
def linkOf (c : Nat) (s : State) : Option LinkEntry :=
  match holderOf c s with
  | none => none
  | some (q, .committed i, k) =>
    ((queueOf q s).items[i]?).map (fun t => linkEntry t.cells k t.bad.isSome false t.bytes.length t.prio)
  | some (q, .opened i, k) =>
    ((queueOf q s).opens[i]?).map (fun o => linkEntry o.cells k o.bad.isSome o.doomed o.bytes.length o.prio)
  | some (q, .reading, k) =>
    (queueOf q s).read.map (fun r =>
      linkEntry r.cells k r.bad.isSome false (2 * r.words.length) (BitVec.ofNat 3 (field r.header.toNat 11 3)))

/-! ## Items -/

/-- A producer is the host, at point 264 (Table 11-4). -/
def Producer.isHost : Producer → Bool
  | .host => true
  | .canTxHost _ => true
  | _ => false

/-- A granted reservation: an open item of `n` cells (R244, R246). -/
def openItem (q n : Nat) (who : Producer) (prio : BitVec 3) (s : State) : State :=
  let cells := pickCells n s.pool.allocs (freeList s)
  modQueue q (fun x => { x with opens := x.opens ++ [⟨who, cells, prio, [], false, none⟩] })
    { s with pool := { s.pool with allocs := s.pool.allocs + n } }

/-- A reservation, all at once or not at all (R246); none while a kept trace ring waits to be attached again (R262). -/
def reserve (q n : Nat) (who : Producer) (prio : BitVec 3) (s : State) : Option State :=
  if canReserve q n s && !qmgrDropped s && s.tap.kept.isEmpty then
    some (grants [(264, !who.isHost), (263, true), (262, false)] (openItem q n who prio s))
  else none

/-- The open item of a producer in a queue. -/
def openOf (q : Nat) (who : Producer) (s : State) : Option OpenItem :=
  (queueOf q s).opens.find? (fun o => o.who == who)

/-- The list with its first entry that meets `p` changed. -/
def modFirst {α : Type} (p : α → Bool) (f : α → α) : List α → List α
  | [] => []
  | x :: xs => if p x then f x :: xs else x :: modFirst p f xs

/-- The queue without a producer's open item. -/
def Queue.unopen (who : Producer) (x : Queue) : Queue :=
  { x with opens := dropFirst (fun o => o.who == who) x.opens }

/-- The counts of a running flush after one more doomed item has gone (R256, R257). -/
def Queue.flushDropped (x : Queue) : Queue :=
  { x with flush := x.flush.map (fun f => { f with dropped := f.dropped + 1 }) }

/-- QM_FLUSH_DROP rises by one (R256). -/
def countFlushDrop (s : State) : State :=
  { s with pool := { s.pool with flushDrop := BitVec.ofNat 16 (satAdd 0xFFFF s.pool.flushDrop.toNat 1) } }

/-- The highest priority present. -/
def topPrio (l : List Item) : Nat := l.foldl (fun m i => max m i.prio.toNat) 0

/-- The item a consumer takes and the items that stay (R250). -/
def Queue.next (x : Queue) : Option (Item × List Item) :=
  if x.prio then
    match x.items.find? (fun i => i.prio.toNat == topPrio x.items) with
    | none => none
    | some i => some (i, dropFirst (fun j => j.prio.toNat == topPrio x.items) x.items)
  else
    match x.items with
    | [] => none
    | i :: is => some (i, is)

/-- The header word of a dequeued item (R252). -/
def itemHeader (i : Item) : Word :=
  packWord [(bit i.bad.isSome, 14), (i.prio.toNat, 11), ((i.bytes.length + 1) / 2, 0)]

/-- A dequeued item as its reader holds it, with the cells it keeps. -/
def readItemOf (i : Item) (cells : List Nat) : ReadItem :=
  ⟨itemHeader i, wordsOf i.bytes, 0, cells, i.bad, false⟩

/-- The next word of a read item lies at or past its uncorrectable 64-bit word (R258). -/
def ReadItem.lost (r : ReadItem) : Bool := match r.bad with | some k => decide (4 * k ≤ r.pos) | none => false

/-- The next word of a read item (R252, R258): its value and whether the read meets the uncorrectable word here. -/
def ReadItem.word (r : ReadItem) : Word × Bool := (if r.lost then 0 else r.words.getD r.pos 0, r.lost && !r.met)

/-- The read item after one more word, `none` once its last word has been read. -/
def ReadItem.step (r : ReadItem) : Option ReadItem :=
  if r.pos + 1 < r.words.length then some { r with pos := r.pos + 1, met := r.met || r.lost } else none

/-- The queue with its next item dequeued into the read item, and the header word that the host reads
(R252). The item keeps its cells until its last word has been read. A disabled queue reads empty. -/
def Queue.dequeueRead (x : Queue) : Option (Word × Queue) :=
  match (if x.en then x.next else none) with
  | none => none
  | some p => some (itemHeader p.1, { x with items := p.2, read := some (readItemOf p.1 p.1.cells) })

/-- A dequeue of the host from queue `q` (Table 11-4). -/
def hostDequeued (q : Nat) (x : Queue) (s : State) : State := grants [(264, false), (182 + q, false)] (modQueue q (fun _ => x) s)

/-- A stalled queue read ends when its queue has an item: the next genuine reply carries the header, and
the item is dequeued (R139). -/
def serveStall (s : State) : State :=
  match s.rein.stall with
  | some (.queue q) =>
    match (queueOf q s).dequeueRead with
    | none => s
    | some p => grant 42 true (hostDequeued q p.2
        { s with rein := { s.rein with stall := none, res := p.1, adre := false } })
  | _ => s

/-- A producer writes further bytes of its open item. -/
def writeOpen (q : Nat) (who : Producer) (bs : List Byte) (s : State) : State :=
  match openOf q who s with
  | none => s
  | some o =>
    let n := o.bytes.length
    let touched := (o.cells.take (cellsFor (n + bs.length))).drop (n / 64)
    grants (bankGrants true touched) (putCells o.cells n bs (modQueue q (fun x =>
      { x with opens := modFirst (fun o => o.who == who) (fun o => { o with bytes := o.bytes ++ bs }) x.opens }) s))

/-- The close of a producer's open item, its last bytes written: it is committed at the tail of its queue, unless a flush has
doomed it, and unwritten cells return (R244, R248, R256). -/
def closeItem (q : Nat) (who : Producer) (last : List Byte) (kind : Byte) (s0 : State) : State :=
  let s := writeOpen q who last s0
  match openOf q who s with
  | none => s
  | some o =>
    if o.doomed then grant 262 true (countFlushDrop (modQueue q (fun x => (x.unopen who).flushDropped) s))
    else
      let n := cellsFor o.bytes.length
      let s1 := modQueue q (fun x =>
        { (x.unopen who) with items := x.items ++ [⟨o.prio, o.bytes, o.bad, kind, o.cells.take n⟩] }) s
      serveStall (grant (182 + q) true (if n < o.cells.length then grant 262 true s1 else s1))

/-- A producer abandons its open item: the cells return, and nothing is counted (R256). -/
def abandonItem (q : Nat) (who : Producer) (s : State) : State := grant 262 true (modQueue q (Queue.unopen who) s)

/-- QM_STAT.DROP of a queue is set (R249). -/
def markDrop (q : Nat) (s : State) : State := modQueue q (fun x => { x with drop := true }) s

/-- An item reserved, written and closed at once; `none` where the reservation fails. -/
def putItem (q : Nat) (who : Producer) (prio : BitVec 3) (bytes : List Byte) (kind : Byte) (s : State) :
    Option State :=
  match reserve q (cellsFor bytes.length) who prio s with
  | none => none
  | some s' => some (closeItem q who bytes kind s')

/-- The same under the drop-new policy (R249). -/
def putOrDrop (q : Nat) (who : Producer) (bytes : List Byte) (s : State) : State :=
  match putItem q who 0 bytes 0 s with
  | none => markDrop q s
  | some s' => s'

/-- A hub consumer dequeues an item, reads its cells and releases them (R250). A disabled queue reads empty. -/
def takeItem (q : Nat) (s : State) : Option (Item × State) :=
  match (queueOf q s).next with
  | none => none
  | some p =>
    if (queueOf q s).en then
      some (p.1, grants ((264, true) :: (182 + q, false) :: (265, true) :: bankGrants false p.1.cells ++ [(262, true)])
        (modQueue q (fun x => { x with items := p.2 }) s))
    else none

/-- The poisoned items that a hub consumer meets first are discarded whole (R258). -/
def skipBad : Nat → Nat → State → State
  | 0, _, s => s
  | fuel + 1, q, s =>
    match takeItem q s with
    | none => s
    | some p => if p.1.bad.isSome then skipBad fuel q p.2 else s

/-- The first item of a queue that is not poisoned, each poisoned one before it discarded whole (R258). -/
def takeGood (fuel q : Nat) (s : State) : Option (Item × State) := takeItem q (skipBad fuel q s)

/-- The queue emptied of its committed items. -/
def emptyQueue (q : Nat) (s : State) : State := grant 262 true (modQueue q (fun x => { x with items := [] }) s)

/-- Drop old (R249): the oldest committed item of queue `q` is freed, and the others stay. -/
def dropOldest (q : Nat) (rest : List Item) (s : State) : State :=
  grants [(182 + q, false), (262, true)] (modQueue q (fun x => { x with items := rest, drop := true }) s)

/-- The words of an event item: type and its high byte, hub time, and the rest (Table 11-2). -/
def eventWords (type high : Nat) (t : HubTime) (more : List Word) : List Word :=
  packWord [(type, 0), (high, 8)] :: wordsOf (leBytes 6 t.toNat) ++ more

/-- How many events the freeing of an item of the event queue loses: one, or the count that a LOST item
carries (R254, R400). -/
def eventLoss (i : Item) : Nat :=
  match i.bytes with
  | b :: _ => if b = 0x03 then leValue (i.bytes.drop 8) else 1
  | [] => 1

/-- The event queue's drop-old policy (R249, R254): the oldest events are freed, and counted as lost,
until the event and the LOST item it then needs can be reserved. -/
def makeEventRoom : Nat → State → State
  | 0, s => s
  | fuel + 1, s =>
    if canReserve 56 (if s.pool.lost = 0 then 1 else 2) s then s
    else
      match (queueOf 56 s).items with
      | [] => s
      | i :: is =>
        let s1 := dropOldest 56 is s
        makeEventRoom fuel { s1 with pool := { s1.pool with lost := s1.pool.lost + eventLoss i } }

/-- Room is made for an event where the drop-old policy of the event queue says so (R249, R254). -/
def eventRoom (s : State) : State :=
  if s.pool.dropOld && !qmgrDropped s then makeEventRoom (queueOf 56 s).items.length s else s

/-- An item of the event queue is written and committed. Point 180 orders express events, `b` = 0, against the others. -/
def putEvent (b : Bool) (words : List Word) (s : State) : State :=
  (putItem 56 .event 0 (bytesOf words) 0 (grant 180 b s)).getD s

/-- An event is posted: an item of queue 56, preceded by a LOST item when events have been lost; an
event that cannot be posted is lost and counted (R253, R254). -/
def postEvent (words : List Word) (s0 : State) : State :=
  let s := eventRoom s0
  if qmgrDropped s then { s with pool := { s.pool with lost := s.pool.lost + 1 } }
  else if canReserve 56 (if s.pool.lost = 0 then 1 else 2) s then
    let s1 := if s.pool.lost = 0 then s
      else putEvent true (eventWords 3 0 s.time.now [BitVec.ofNat 16 (min s.pool.lost 0xFFFF)]) s
    attend 2 (putEvent (field (words.headD 0).toNat 0 8 != 1) words { s1 with pool := { s1.pool with lost := 0 } })
  else markDrop 56 { s with pool := { s.pool with lost := s.pool.lost + 1 } }

/-- A flush of queue `q` begins, or the request joins the running flush (R256, R257). -/
def startFlush (q : Nat) (byHost byOp : Bool) (s : State) : State :=
  grants [(182 + q, false), (263, false), (262, true)] <| modQueue q (fun x =>
    match x.flush with
    | some f => { x with flush := some { f with byHost := f.byHost || byHost, byOp := f.byOp || byOp } }
    | none =>
      { x with items := []
               opens := x.opens.map (fun o => { o with doomed := true })
               flush := some ⟨x.items.length, 0, byHost, byOp, false⟩ }) s

/-- A flush has nothing left to wait for: no doomed item is open (R256). -/
def Queue.flushDone (x : Queue) : Bool := x.flush.isSome && !x.opens.any (fun o => o.doomed)

/-- QM_FLUSH.GO reads 1 until every flush started through it has ended (R256). -/
def flushGo (s : State) : Bool :=
  s.pool.queues.any (fun x => match x.flush with | some f => f.byHost | none => false)

/-- ATTN_SRC.WM: a sticky crossing on a queue whose attention is enabled (R255). -/
def wmAttn (s : State) : Bool := s.pool.queues.any (fun x => x.wmx && x.wmattn)

/-- Every item of a queue: committed, open and being read. -/
def Queue.itemCount (x : Queue) : Nat :=
  x.items.length + x.opens.length + (if x.read.isSome then 1 else 0)

/-- Every item discarded, the queue registers kept; a flush ends with it (R86, R262, Table 11-7). -/
def Queue.discardAll (x : Queue) : Queue :=
  x.after { x with items := [], opens := [], read := none, flush := none }

end Sys2Proof.Machine
end

