-- ==== Sys2Proof/Machine/Tap.lean ====
section
/-! DEFINITION. The tap's records and its ring (chapter 16): how a record is framed and appended, the
record types, triggers and the freeze. -/

namespace Sys2Proof.Machine

/-- The index of the epoch being staged, if one is: the ended epoch until its cutoff, then the one that
runs. -/
def stagedIx (s : State) : Option Nat :=
  match s.time.ended with
  | some e => some e.ix
  | none => if s.time.epochOn then some s.time.epochIx else none

/-- The number of the epoch with this index (R72, R233). -/
def epochNumber (ix : Nat) (s : State) : Nat := ix - s.time.skipped

/-- A record's bytes: TYPE, LEN with MORE and CONT, SEQ and the body padded to whole units (R365). -/
def recordBytes (type flags : Nat) (seq : Word) (body : List Byte) : List Byte :=
  let units := (body.length + 11) / 8
  [BitVec.ofNat 8 type, BitVec.ofNat 8 (units + flags)] ++ leBytes 2 seq.toNat ++ padTo (8 * units - 4) body

/-- The bytes of the open trace block; none where no block is open. -/
def tapBlock (s : State) : List Byte := match openOf 48 .tap s with | some o => o.bytes | none => []

/-- The open trace block is closed (R366). -/
def closeBlock (s : State) : State := if (tapBlock s).isEmpty then abandonItem 48 .tap s else closeItem 48 .tap [] 0 s

/-- A drain in progress has one block less to take when drop old frees one (R375). -/
def drainLoses (j : OpJob) : OpJob :=
  match j with
  | .drain f a n c g t d k z => .drain f a (n - 1) c g t d k z
  | j => j

/-- The ring's drop-old policy (R249): its oldest blocks are freed until a block can be reserved. In
continuous mode a freed block is a loss (R371). -/
def makeRingRoom : Nat → State → State
  | 0, s => s
  | fuel + 1, s =>
    if canReserve 48 4 s then s
    else
      match (queueOf 48 s).items with
      | [] => s
      | i :: is =>
        let s1 := dropOldest 48 is s
        makeRingRoom fuel { s1 with
          tap := { s1.tap with lostBlocks := s1.tap.lostBlocks + (if s1.tap.mode then 0 else i.bytes.length / 8) }
          op := { s1.op with job := drainLoses s1.op.job } }

/-- A trace block is open: the old one, or a new one of 4 cells (R366). -/
def haveBlock (s0 : State) : Option State :=
  if (openOf 48 .tap s0).isSome then some s0
  else reserve 48 4 .tap 0 (makeRingRoom (queueOf 48 s0).items.length s0)

/-- MF2 to MF6 carry the trace stream (R374): in function 0x8, no change under way, and their bank supplied (R30, R31). -/
def streamPins (s : State) : Bool :=
  (List.range 5).all (fun i => (pinOf (54 + i) s).act == 8 && (pinOf (54 + i) s).phase != .transit)
    && !s.power.bankLow.getLsbD 1

/-- The tap's counter moves on after a free value that only the trace shows has been drawn (R18). -/
def tapDrawn (s : State) : State := { s with tap := { s.tap with seed := s.tap.seed + 1 } }

/-- The clock cycles of one byte on `2 ^ k` lanes: most significant bits first, the more significant bit on the higher lane
(R374, R306). -/
def laneCells (k : Nat) (b : Byte) : List (List Bool) :=
  (List.range (8 / 2 ^ k)).map (fun i => (List.range (2 ^ k)).map (fun j => b.getLsbD (8 - 2 ^ k * (i + 1) + j)))

/-- The record just appended leaves as a stream packet, or is skipped whole (R374). -/
def streamOut (bs : List Byte) (s : State) : State :=
  if s.tap.strm && streamPins s then
    if Config.streamFits s.tap.seed then
      tapDrawn { s with tap := { s.tap with
        lastPacket := 0xA5 :: bs, packetCells := (0xA5 :: bs).flatMap (laneCells s.tap.lanes.toNat) } }
    else tapDrawn { s with tap := { s.tap with sovr := true } }
  else s

/-- A record goes to the open trace block, or to a new one (R365, R366). -/
def putRecord (type flags : Nat) (body : List Byte) (s : State) : State :=
  let bs := recordBytes type flags s.tap.seq body
  match haveBlock (if (tapBlock s).length + bs.length > 256 then closeBlock s else s) with
  | none => s
  | some s1 =>
    let s2 := writeOpen 48 .tap bs s1
    streamOut bs { s2 with tap := { s2.tap with seq := s2.tap.seq + 1 } }

/-- One verdict batch record of at most 32 entries (type 0x04). -/
def recVerdicts (es : List (Verdict × Nat)) (s : State) : State :=
  let body := es.flatMap (fun e => leBytes 2 (e.1.point + 512 * bit e.1.winB + 1024 * (e.2 - 1)))
  let units := (body.length + 11) / 8
  putRecord 4 0 (body ++ List.replicate (8 * units - 4 - body.length) 0xFF) s

/-- The batches of at most 32 entries in which waiting entries, the oldest first, are written: as many as are full. -/
def writeFull : Nat → State → State
  | 0, s => s
  | fuel + 1, s =>
    let n := s.verdicts.batch.length
    if n < 32 then s
    else
      writeFull fuel (recVerdicts (s.verdicts.batch.drop (n - 32)).reverse
        { s with verdicts := { s.verdicts with batch := s.verdicts.batch.take (n - 32) } })

/-- The waiting batch is written, and nothing waits but what its own writing brought about (R369). -/
def writeBatch (s : State) : State :=
  if s.verdicts.batch.isEmpty then s
  else recVerdicts s.verdicts.batch.reverse { s with verdicts := { s.verdicts with batch := [] } }

/-- A record is appended to the trace, while the tap records (R364 to R366). A batch that has become full stands before it
(R369). -/
def tapAppend (type flags : Nat) (body : List Byte) (s : State) : State :=
  if s.tap.recording then putRecord type flags body (writeFull (s.verdicts.batch.length / 32) s) else s

/-! ## The freeze -/

/-- The tap freezes (R373). -/
def freeze (cause : BitVec 4) (s : State) : State :=
  if s.tap.frozen then s
  else
    let s1 := closeBlock s
    attend 13 { s1 with tap := { s1.tap with
      frozen := true, trigd := false, armed := false, recording := false, kfpend := false, fcause := cause } }

/-- Trigger `n` of TAP_TRIG occurs (R372); a dropped tap takes none (R164). -/
def tapTrigger (n : Nat) (s : State) : State :=
  if s.tap.armed && s.tap.trig.getLsbD n && !s.power.lrDrop1.getLsbD 6 then
    if s.tap.post = 0 then freeze (BitVec.ofNat 4 (n + 2)) s
    else { s with tap := { s.tap with
      trigd := true, armed := false, fcause := BitVec.ofNat 4 (n + 2), postLeft := s.tap.post } }
  else s

/-- Recording ends; a tap with post-trigger commits to come then freezes with FCAUSE 9 (R364, R372). -/
def endRecording (s : State) : State :=
  if s.tap.recording then
    if s.tap.trigd then freeze 9 s
    else { s with tap := { s.tap with recording := false, kfpend := false } }
  else s

/-! ## Record types (Table 16-1) -/

/-- A port input block (type 0x01). -/
def recPort (port kind ep outcome lane : Nat) (rx : List Byte) (t : HubTime) (s : State) : State :=
  tapAppend 1 0 ([BitVec.ofNat 8 (port + 16 * kind), BitVec.ofNat 8 ep, BitVec.ofNat 8 outcome,
    BitVec.ofNat 8 rx.length] ++ ht32 t ++ [BitVec.ofNat 8 lane, 0, 0, 0] ++ rx) s

/-- The 32-bit frame word of a frame (R275). -/
def frameWord (f : CanFrame) : Nat :=
  f.id.toNat + bit f.ide * 2 ^ 29 + bit f.rtr * 2 ^ 30 + bit f.fdf * 2 ^ 31

/-- A CAN frame record (type 0x02) of a frame event: EVT 0 to 3. -/
def recCan (ch : Chan) (evt lec : Nat) (f : CanFrame) (t sof : HubTime) (s : State) : State :=
  tapAppend 2 0 ([BitVec.ofNat 8 (chanNum ch + 2 * evt),
    BitVec.ofNat 8 (f.dlc.toNat + 16 * bit f.brs + 32 * bit f.esi), BitVec.ofNat 8 lec, 0]
    ++ leBytes 4 (frameWord f) ++ ht32 t ++ ht32 sof ++ (if evt = 0 then f.data else [])) s

/-- A CAN frame record (type 0x02) of an event without a frame: EVT 4 to 6. -/
def recCanEvent (ch : Chan) (evt : Nat) (t : HubTime) (s : State) : State :=
  tapAppend 2 0 ([BitVec.ofNat 8 (chanNum ch + 2 * evt), 0, 0, 0] ++ leBytes 4 0 ++ ht32 t ++ leBytes 4 0) s

/-- A SENT record (type 0x03). -/
def recSent (p cls : Nat) (bytes : List Byte) (t : HubTime) (s : State) : State :=
  tapAppend 3 0 ([BitVec.ofNat 8 (10 + p + 16 * cls)] ++ padTo 6 bytes ++ [0] ++ ht32 t) s

/-- A Rein write record (type 0x05). -/
def recRein (win : Bool) (result : Nat) (a : Nat) (v : Word) (winAddr : Nat) (s : State) : State :=
  tapAppend 5 0 ([BitVec.ofNat 8 (bit win + 16 * result), BitVec.ofNat 8 a] ++ leBytes 2 v.toNat
    ++ leBytes 4 (if win then winAddr else 0) ++ ht32 s.time.now) s

/-- A mode change record (type 0x08). -/
def recMode (old new : Mode) (hw : Option Byte) (prof : Option (Nat × Nat)) (first : Nat) (s : State) : State :=
  tapAppend 8 0 ([BitVec.ofNat 8 (old.code + 16 * new.code),
    BitVec.ofNat 8 (bit hw.isSome + 2 * bit prof.isSome + 4 * (match prof with | some p => p.1 | none => 0)),
    (match hw with | some c => c | none => 0), 0]
    ++ leBytes 4 first ++ leBytes 4 (match prof with | some p => p.2 | none => 0)) s

/-- A fault record (type 0x09). -/
def recFault (code island detail : Nat) (s : State) : State :=
  tapAppend 9 0 ([BitVec.ofNat 8 code, 0] ++ leBytes 2 island ++ ht32 (hubNow s) ++ leBytes 4 detail) s

/-- A Time mark (type 0x07). One with BOUND set closes the open block first (R366). -/
def recTime (start bound epoch afterGap : Bool) (number : Nat) (s0 : State) : State :=
  let s := if bound then closeBlock s0 else s0
  tapAppend 7 0 ([BitVec.ofNat 8 (bit start + 2 * bit bound + 4 * bit epoch + 8 * bit afterGap), 0, 0, 0]
    ++ leBytes 6 s.time.now.toNat ++ [0, 0]
    ++ leBytes 4 (if bound then s.time.baseCount.toNat else 0)
    ++ leBytes 4 (if epoch then number else 0xFFFFFFFF)) s

/-- A Gap record (type 0x0A). -/
def recGap (input block : Bool) (count : Nat) (first last : HubTime) (s : State) : State :=
  tapAppend 10 0 ([BitVec.ofNat 8 (bit input + 2 * bit block), 0] ++ leBytes 2 (min count 0xFFFF)
    ++ ht32 first ++ ht32 last) s

end Sys2Proof.Machine
end

