-- ==== Sys2Proof/Machine/Faults.lean ====
section
/-! DEFINITION. How a fault is recorded (chapter 17), and the registers of a long operation
(chapter 08): the operations that every unit uses to report. -/

namespace Sys2Proof.Machine

/-- The faults that assert FAULT_N (Table 17-1). -/
def faultAsserts (code : Nat) : Bool :=
  [0x10, 0x11, 0x14, 0x20, 0x24, 0x32, 0x34, 0x39, 0x3B, 0x44, 0x4C].contains code

/-- Whether a drop leaves only the kernel: conditioning, scheduler, snapshot or time base (R82). -/
def kernelLeft (d0 d1 : Word) : Bool := d0.getLsbD 14 || d1.getLsbD 0 || d1.getLsbD 1 || d1.getLsbD 2

/-- Lead-rein serves the kernel only (R82, Table 04-6). -/
def kernelOnly (s : State) : Bool :=
  s.mode.cur == .leadrein && (s.mode.konly || kernelLeft s.power.lrDrop0 s.power.lrDrop1)

/-- FAULT_N is asserted: until the start checks have passed, after a kernel failure, and while an active
fault asserts it (R63, R388). -/
def faultPin (s : State) : Bool :=
  s.power.boot == .held || s.power.boot == .starting || s.power.boot == .dead || s.fault.active != 0

/-- A fault is recorded (R386): log entry, FAULT_CODE, ATTN_SRC, the ACTIVE map, the trace, and the
fault trigger of the freeze ring. -/
def logFault (code cls island detail : Nat) (s0 : State) : State :=
  let f := s0.fault
  let entry : FaultEntry :=
    { code := BitVec.ofNat 8 code
      flags := BitVec.ofNat 8 (bit (faultAsserts code) + 4 * cls)
      island := BitVec.ofNat 16 island
      ht := hubNow s0
      detail := BitVec.ofNat 32 detail
      epoch := match stagedIx s0 with | some ix => BitVec.ofNat 16 (epochNumber ix s0) | none => 0 }
  let s1 := { s0 with fault := { f with
    code := BitVec.ofNat 8 code
    count := BitVec.ofNat 6 (satAdd 63 f.count.toNat 1)
    total := BitVec.ofNat 16 (satAdd 0xFFFF f.total.toNat 1)
    next := (f.next + 1) % 15
    active := if faultAsserts code then f.active ||| BitVec.ofNat 64 (2 ^ (code - 0x10)) else f.active
    log := f.log.set f.next entry } }
  tapTrigger 0 (recFault code island detail (attend 6 (grant 36 true (grant 18 true s1))))

/-- A fault is no longer active (R387). -/
def endFault (code : Nat) (s : State) : State :=
  { s with fault := { s.fault with active := s.fault.active &&& ~~~ BitVec.ofNat 64 (2 ^ (code - 0x10)) } }

/-- A fault that asserts FAULT_N is active. -/
def faultActive (code : Nat) (s : State) : Bool := s.fault.active.getLsbD (code - 0x10)

/-! ## Long operations -/

/-- A long operation runs. -/
def opRuns (s : State) : Bool := s.op.state == 1

/-- A result record is posted: written whole, counted, copied to OP_RES0 to OP_RES3 (R179). -/
def opPost (w0 w1 w2 w3 : Nat) (s : State) : State :=
  let r : OpRecord := ⟨BitVec.ofNat 16 w0, BitVec.ofNat 16 w1, BitVec.ofNat 16 w2, BitVec.ofNat 16 w3⟩
  if s.op.recs.length < 992 then grant 39 true (grant 19 true { s with op := { s.op with recs := s.op.recs ++ [r], newest := r } })
  else grant 19 true { s with op := { s.op with ovf := true } }

/-- A long operation ends: STATE 2 done, 3 failed or 4 aborted, with WHY (R178). -/
def opEnd (st : BitVec 3) (why : BitVec 4) (s : State) : State :=
  attend 4 (grant 19 true { s with op := { s.op with
    code := 0, abort := false, state := st, why := why, job := .none
    prog := if st = 2 then 255 else s.op.prog } })

/-- PROG never falls during an operation (R178). -/
def opProgress (n : Nat) (s : State) : State :=
  grant 19 true { s with op := { s.op with prog := BitVec.ofNat 8 (min 255 (max s.op.prog.toNat n)) } }

end Sys2Proof.Machine
end

