-- ==== Sys2Proof/Machine/ConfigMap.lean ====
section
/-! DEFINITION. The configuration memories: what each word of the ranges of Table 05-3 holds, its reset
value, its reserved encodings, and the status fields that lie among them (Tables 09-2, 10-1, 10-8, 12-9
to 12-12, 13-7 to 13-12, 14-5 to 14-7, 15-6, 15-7, 16-5). -/

namespace Sys2Proof.Machine

/-- One field of a configuration word that has reserved encodings: its place, and whether a value is
allowed, given the other words (`env`) and the word as the fields judged before it have left it. -/
structure FieldRule where
  lo : Nat
  len : Nat
  ok : (Nat → Nat) → Nat → Nat → Bool

/-- One 16-bit configuration word: the bits that are rw, the bits that are ro or cmd, the reset value,
and the fields with reserved encodings. Every other bit is rsv (R8). -/
structure WordSpec where
  mask : Nat
  other : Nat
  reset : Nat
  rules : List FieldRule

/-- A word of plain rw bits. -/
def plain (mask reset : Nat) : WordSpec := ⟨mask, 0, reset, []⟩

/-- A word with rules. -/
def ruled (mask reset : Nat) (rules : List FieldRule) : WordSpec := ⟨mask, 0, reset, rules⟩

/-- A word of rsv bits (R430). -/
def reservedWord : WordSpec := ⟨0, 0, 0, []⟩

/-- A status word: ro, a window write to it is ignored (R184, R301, R329, R351). -/
def statusSpec : WordSpec := ⟨0, 0xFFFF, 0, []⟩

/-- A field whose allowed values do not depend on anything else. -/
def fieldIn (lo len : Nat) (p : Nat → Bool) : FieldRule := ⟨lo, len, fun _ _ v => p v⟩

/-- The lanes of a lanes code (Table 13-10). -/
def lanes (code : Nat) : Nat := 2 ^ code

/-- Time base and Boryel settings (Table 10-8). -/
def timeSpec (o : Nat) : WordSpec :=
  if o = 0x00 then plain 0xFFFF 0x00F0
  else if o = 0x02 then plain 0x9FFF 0
  else if o = 0x04 then plain 0xFFFF 0x00F1
  else if o = 0x06 then plain 0x9FFF 0
  else if o = 0x08 then ruled 0xFFF7 0x0042 [fieldIn 4 4 (fun v => v != 0)]
  else if o = 0x0A then ruled 0xFFFF 0x4020 [fieldIn 0 8 (fun v => v != 0)]
  else if o = 0x10 then ⟨0, 0x001F, 0, []⟩
  else reservedWord

/-- Tap settings (Table 16-5). -/
def tapSpec (o : Nat) : WordSpec :=
  if o = 0 then ruled 0x000F 6 [fieldIn 0 4 (fun v => decide (4 ≤ v) && decide (v ≤ 10))]
  else if o = 2 then plain 0x00FF 0x10
  else if o = 4 then ruled 0x003F 0 [fieldIn 0 2 (fun v => v != 3)]
  else reservedWord

/-- The configuration block of a CAN channel (Tables 12-9 to 12-11). -/
def canSpec (o : Nat) : WordSpec :=
  if o = 0x00 ∨ o = 0x02 then plain 0x7FFF 0
  else if o = 0x04 ∨ o = 0x06 then plain 0x0F1F 0
  else if o = 0x08 then plain 0x007F 0
  else if o = 0x0A then plain 0x00FF 0
  else if o = 0x0C then plain 0x0003 0
  else if o = 0x10 then ruled 0x00FF 0 [fieldIn 0 2 (fun v => v != 3)]
  else if o = 0x14 ∨ o = 0x18 then plain 0x1FFF 0
  else if o = 0x12 ∨ o = 0x16 ∨ (0x1A ≤ o ∧ o ≤ 0x20) then plain 0xFFFF 0
  else if o < 0x80 then reservedWord
  else if o < 0x380 then
    (if (o - 0x80) % 12 = 8 then plain 0xFF07 0
     else if (o - 0x80) % 12 = 10 then statusSpec
     else plain 0xFFFF 0)
  else if o ≤ 0x39C then statusSpec
  else reservedWord

/-- A lanes code of a phased-frame descriptor is allowed: not 3, and one lane on S1 to S3 (R310). -/
def lanesOk (port code : Nat) : Bool := code != 3 && (port == 0 || code == 0)

/-- A phase width of a phased-frame descriptor is allowed: at most 32 bits, and a multiple of its lanes (R310). -/
def phaseOk (width code : Nat) : Bool := decide (width ≤ 32) && width % lanes code == 0

/-- The address lanes of a read form (Table 13-5). -/
def formAddrLanes (form : Nat) : Nat := if form = 2 then 2 else if form = 4 then 4 else 1

/-- The configuration block of S port `p` (Tables 13-7, 13-8, 13-10 to 13-12). A phase's lanes are judged first, and its width
with the lanes that are applied; so are FORM and then DUMMY (DESIGN CHOICE, log entry 82). R322 calls a DUMMY below 8/AL
reserved while MODEEN = 1: a write of FL_RD is then refused its DUMMY, and a write of WCTRL that would make the DUMMY in force
reserved is refused its MODEEN (DESIGN CHOICE, log entry 82). -/
def sSpec (p o : Nat) : WordSpec :=
  let base := 0x2800 + 0x400 * p
  if o = 0 then plain 0xFF07 0xFF00
  else if 0x40 ≤ o ∧ o < (if p = 0 then 0x80 else 0xC0) then
    (if o % 16 = 0 then ruled 0x7FFF 0
      [fieldIn 0 8 (fun v => v == 0 || decide ((if p = 0 then 4 else 8) ≤ v)), fieldIn 12 3 (fun v => decide (v ≤ 4))]
     else if o % 16 = 2 then plain 0xFFFF 0
     else if o % 16 = 4 then plain 0x03FF 0
     else if o % 16 = 6 then ruled 0x000F 0 [fieldIn 2 2 (fun v => v != 3)]
     else if o % 16 = 14 then reservedWord
     else statusSpec)
  else if 0x100 ≤ o ∧ o < 0x180 then
    (if o % 8 = 0 then ruled 0xFFFF 0
      [fieldIn 6 2 (lanesOk p), fieldIn 14 2 (lanesOk p),
       ⟨0, 6, fun _ w v => phaseOk v (field w 6 2)⟩, ⟨8, 6, fun _ w v => phaseOk v (field w 14 2)⟩]
     else if o % 8 = 2 then ruled 0x003F 0 [fieldIn 0 6 (fun v => decide (v ≤ 32))]
     else if o % 8 = 4 then ruled 0x0FFF 0
      [fieldIn 0 9 (fun v => decide (v ≤ 256)), fieldIn 9 2 (lanesOk p)]
     else reservedWord)
  else if p = 0 ∧ o = 0x200 then
    ⟨0x031F, 0x04E0, 0,
      [⟨4, 1, fun env _ v =>
        v == 0 || decide (8 / formAddrLanes (field (env (base + 0x202)) 8 3) ≤ field (env (base + 0x202)) 11 5)⟩,
       fieldIn 8 2 (fun v => v != 3)]⟩
  else if p = 0 ∧ o = 0x202 then
    ruled 0xFFFF 0x0003
      [fieldIn 8 3 (fun v => decide (v ≤ 4)),
       ⟨11, 5, fun env w v =>
        !nbit (env (base + 0x200)) 4 || decide (8 / formAddrLanes (field w 8 3) ≤ v)⟩]
  else if p = 0 ∧ o = 0x204 then plain 0x00FF 0
  else if p = 0 ∧ o = 0x206 then plain 0xFFFF 0x2002
  else if p = 0 ∧ o = 0x208 then plain 0xFFFF 0x0506
  else if p = 0 ∧ o = 0x20A then plain 0xFFFF 0
  else if 0x380 ≤ o ∧ o ≤ 0x390 then statusSpec
  else reservedWord

/-- The configuration block of an I port (Tables 14-5 to 14-7). -/
def iSpec (o : Nat) : WordSpec :=
  if o = 0x00 then plain 0x0003 0
  else if o = 0x02 then plain 0x0FFF 0x178
  else if o = 0x04 then plain 0x0FFF 0x1A4
  else if o = 0x06 then plain 0x0FFF 0x178
  else if o = 0x08 then plain 0x0FFF 0x140
  else if o = 0x0A then plain 0x0FFF 0x038
  else if o = 0x0C then plain 0x0FFF 0x004
  else if o = 0x0E then plain 0x0FFF 0x140
  else if o = 0x10 then plain 0x0FFF 0x178
  else if o = 0x12 then plain 0x003F 0x04
  else if o = 0x14 then ruled 0xFFFF 0x03E8 [fieldIn 0 16 (fun v => v != 0)]
  else if o = 0x16 then plain 0xFFFF 0x0064
  else if o = 0x18 then ruled 0xFFFF 0x140A [fieldIn 0 8 (fun v => v != 0)]
  else if o = 0x1A then ruled 0x00FF 0x000A [fieldIn 0 8 (fun v => v != 0)]
  else if o = 0x1C then ruled 0x00FF 0
    [⟨0, 7, fun _ w v => !nbit w 7 || (decide (8 ≤ v) && decide (v < 0x78))⟩]
  else if o = 0x20 then ⟨0x1F06, 0x0001, 0, []⟩
  else if o = 0x22 then plain 0x83FF 0
  else if o = 0x24 then statusSpec
  else if 0x40 ≤ o ∧ o < 0x60 then plain 0xFFFF 0
  else if 0x380 ≤ o ∧ o ≤ 0x396 then statusSpec
  else reservedWord

/-- The configuration block of a SENT input (Tables 15-6, 15-7). -/
def tSpec (o : Nat) : WordSpec :=
  if o = 0 then ruled 0x037F 0x0060 [fieldIn 4 3 (fun v => v != 0 && v != 7), fieldIn 8 2 (fun v => v != 3)]
  else if o = 2 then ruled 0xFFFF 0x0780 [fieldIn 0 16 (fun v => decide (1920 ≤ v) && decide (v ≤ 57600))]
  else if o = 4 then ruled 0xFF1F 0x0814 [fieldIn 0 5 (fun v => v != 0 && decide (v ≤ 25))]
  else if o = 6 then plain 0xFFFF 0x0064
  else if 0x380 ≤ o ∧ o ≤ 0x392 then statusSpec
  else reservedWord

/-- A word of an endpoint descriptor (Table 09-2). -/
def endpointSpec (o : Nat) : WordSpec :=
  if o = 0 then plain 0x7FFF 0
  else if o = 2 then plain 0x1FFF 0
  else if o = 6 then plain 0x03FF 0
  else if o < 0x24 then plain 0xFFFF 0
  else if o < 0x34 then reservedWord
  else statusSpec

/-- A word of a conditioning set (Table 10-1). -/
def condSpec (o : Nat) : WordSpec := if o = 0x12 then plain 0x00FF 0 else plain 0xFFFF 0

/-- A word of a publication entry (Table 12-12). -/
def pubSpec (o : Nat) : WordSpec :=
  if o = 0 then ruled 0x0F7F 0 [⟨6, 1, fun _ w v => v == 0 || nbit w 5⟩]
  else if o = 2 then plain 0xFFFF 0
  else if o = 4 then plain 0x1FFF 0
  else if o = 6 then plain 0x0FF7 0
  else if o = 8 then plain 0xFF1F 0
  else if o = 10 then plain 0x7F7F 0
  else if o = 12 ∨ o = 14 then statusSpec
  else if 0xF0 ≤ o then reservedWord
  else if o % 8 = 0 then plain 0x0FFF 0
  else if o % 8 = 2 then plain 0x03FF 0
  else if o % 8 = 4 then plain 0x00FF 0
  else plain 0xFFFF 0

/-- The word at an even extended address of the ranges of Table 05-3. -/
def wordSpec (a : Nat) : WordSpec :=
  if a < 0x1200 then reservedWord
  else if a < 0x1300 then timeSpec (a - 0x1200)
  else if a < 0x1400 then tapSpec (a - 0x1300)
  else if a < 0x2000 then reservedWord
  else if a < 0x2800 then canSpec (a % 0x400)
  else if a < 0x3800 then sSpec ((a - 0x2800) / 0x400) (a % 0x400)
  else if a < 0x4800 then iSpec (a % 0x400)
  else if a < 0x5800 then tSpec (a % 0x400)
  else if a < 0x10000 then reservedWord
  else if a < 0x14000 then endpointSpec (a % 64)
  else if a < 0x15000 then plain 0xFFFF 0
  else if a < 0x17000 then condSpec (a % 32)
  else if a < 0x18000 then reservedWord
  else if a < 0x20000 then pubSpec (a % 256)
  else reservedWord

/-- The ranges a profile sets, in the order of Table 05-3: start and length. -/
def profileRanges : List (Nat × Nat) :=
  [(0x1200, 0x100), (0x1300, 0x100), (0x2000, 0x3800), (0x10000, 0x4000), (0x14000, 0x1000),
   (0x15000, 0x2000), (0x18000, 0x8000)]

/-- The `n` bytes from `a` lie wholly inside one of the ranges of Table 05-3 (R100). -/
def inProfileRange (a n : Nat) : Bool :=
  profileRanges.any (fun r => decide (r.1 ≤ a) && decide (a + n ≤ r.1 + r.2))

/-- Status fields: bytes that no profile and no window write changes (R184, R301, R329, R351). -/
def isStatus (a : Nat) : Bool :=
  (wordSpec (a / 2 * 2)).other == 0xFFFF

/-- The reset byte of a configuration address: what an unlisted cell of a configuration memory reads. -/
def cfgDflt (a : Nat) : Byte := BitVec.ofNat 8 ((wordSpec (a / 2 * 2)).reset / 256 ^ (a % 2))

/-- Every status field reads 0 until something is counted. -/
def zeroDflt (_ : Nat) : Byte := 0

/-- The configuration word at an even address of a configuration memory. -/
def cfgWord (m : Mem) (a : Nat) : Nat := Memory.readLe cfgDflt m a 2

/-- The 32-bit configuration value at `a`. -/
def cfgLong (m : Mem) (a : Nat) : Nat := Memory.readLe cfgDflt m a 4

/-- The configuration byte at `a`. -/
def cfgByte (m : Mem) (a : Nat) : Nat := (Memory.read cfgDflt m a).toNat

/-- The running configuration: the fallback in Lead-rein, the user configuration in every other mode
(chapter 05). -/
def running (s : State) : Mem := if s.mode.cur == .leadrein then s.cfg.fallback else s.cfg.user

/-- A word, a byte and a 32-bit value of the running configuration. -/
def runWord (a : Nat) (s : State) : Nat := cfgWord (running s) a
/-- A byte of the running configuration. -/
def runByte (a : Nat) (s : State) : Nat := cfgByte (running s) a
/-- A 32-bit value of the running configuration. -/
def runLong (a : Nat) (s : State) : Nat := cfgLong (running s) a

/-- The fields of a write that keep their previous value because the value written is reserved (R9):
the new word, and whether any field was refused. -/
def applyRules (env : Nat → Nat) (old new : Nat) : List FieldRule → Nat × Bool → Nat × Bool
  | [], acc => acc
  | r :: rs, acc =>
    if r.ok env acc.1 (field new r.lo r.len) then applyRules env old new rs acc
    else applyRules env old new rs
      (acc.1 - field new r.lo r.len * 2 ^ r.lo + field old r.lo r.len * 2 ^ r.lo, true)

/-- A host write of `v` to the configuration word at `a` (R7, R8, R9): the memory after it, and whether
ADRE is set. -/
def writeCfg (m : Mem) (a v : Nat) : Mem × Bool :=
  let w := wordSpec a
  let new := Nat.land v w.mask
  let r := applyRules (cfgWord m) (cfgWord m a) new w.rules (new, false)
  (Memory.writeBytes cfgDflt m a (leBytes 2 r.1), r.2)

/-- No field of the word at `a` holds a reserved encoding in memory `m`. -/
def wordValid (m : Mem) (a : Nat) : Bool :=
  (wordSpec a).rules.all (fun r => r.ok (cfgWord m) (cfgWord m a) (field (cfgWord m a) r.lo r.len))

/-! ## Status fields -/

/-- A status byte. -/
def statByte (a : Nat) (s : State) : Nat := (Memory.read zeroDflt s.cfg.status a).toNat

/-- A 16-bit status field. -/
def statWord (a : Nat) (s : State) : Nat := Memory.readLe zeroDflt s.cfg.status a 2

/-- A status byte is set. -/
def setStatByte (a v : Nat) (s : State) : State :=
  { s with cfg := { s.cfg with status := Memory.write zeroDflt s.cfg.status a (BitVec.ofNat 8 v) } }

/-- A 16-bit status field is set. -/
def setStatWord (a v : Nat) (s : State) : State :=
  { s with cfg := { s.cfg with status := Memory.writeBytes zeroDflt s.cfg.status a (leBytes 2 v) } }

/-- An 8-bit counter rises by one, modulo 256. -/
def countByte (a : Nat) (s : State) : State := setStatByte a (statByte a s + 1) s

/-- A 16-bit counter rises by one, modulo 65 536. -/
def countWord (a : Nat) (s : State) : State := setStatWord a (statWord a s + 1) s

/-- A 16-bit counter rises by `n`. -/
def countWordBy (a n : Nat) (s : State) : State := setStatWord a (statWord a s + n) s

/-! ## Where things lie -/

/-- The configuration block of the port with code `n` (Table 07-8). -/
def portBlock (n : Nat) : Nat := 0x2000 + 0x400 * n

/-- The descriptor, the conditioning set and the script step (R183). -/
def epAddr (n : Nat) : Nat := 0x10000 + 64 * n
/-- The conditioning set of endpoint `n`. -/
def condAddr (n : Nat) : Nat := 0x15000 + 32 * n
/-- Script step `i`. -/
def stepAddr (i : Nat) : Nat := 0x14000 + 4 * i

/-- The drop bit of a port (Table 04-12). -/
def portDropped (n : Nat) (s : State) : Bool := n < 14 && s.power.lrDrop0.getLsbD n

end Sys2Proof.Machine
end

