-- ==== Sys2Proof/Machine/Flags.lean ====
section
/-! DEFINITION. Check values and status summaries: the CRCs of the wires and of the stored images, FAULT_N,
ATTN_N, HUB_STAT and the port summaries. -/

namespace Sys2Proof.Machine

/-! ## CRCs -/

/-- `n` shifts of an 8-bit CRC register, most significant bit first. -/
def crc8Shift (poly : BitVec 8) : Nat → BitVec 8 → BitVec 8
  | 0, c => c
  | n + 1, c => crc8Shift poly n (if c.getLsbD 7 then (c <<< 1) ^^^ poly else c <<< 1)

/-- CRC-8/SAE-J1850 (R123). -/
def crc8 (bs : List Byte) : Byte := (bs.foldl (fun c b => crc8Shift 0x1D 8 (c ^^^ b)) 0xFF) ^^^ 0xFF

/-- `n` shifts of a 16-bit CRC register, most significant bit first. -/
def crc16Shift : Nat → BitVec 16 → BitVec 16
  | 0, c => c
  | n + 1, c => crc16Shift n (if c.getLsbD 15 then (c <<< 1) ^^^ 0x1021 else c <<< 1)

/-- CRC-16/CCITT-FALSE (R312). -/
def crc16 (bs : List Byte) : Word :=
  bs.foldl (fun c b => crc16Shift 8 (c ^^^ BitVec.ofNat 16 (b.toNat * 256))) 0xFFFF

/-- `n` shifts of the reflected 32-bit CRC register. -/
def crc32Shift : Nat → BitVec 32 → BitVec 32
  | 0, c => c
  | n + 1, c => crc32Shift n (if c.getLsbD 0 then (c >>> 1) ^^^ 0xEDB88320 else c >>> 1)

/-- The CRC-32 register after further bytes. -/
def crc32Feed (c : BitVec 32) (bs : List Byte) : BitVec 32 :=
  bs.foldl (fun c b => crc32Shift 8 (c ^^^ BitVec.ofNat 32 b.toNat)) c

/-- CRC-32 of IEEE 802.3 (R99, R230). -/
def crc32 (bs : List Byte) : Long := crc32Feed 0xFFFFFFFF bs ^^^ 0xFFFFFFFF

/-- The table T of the SENT nibble CRC (R357). -/
def sentTable : List Nat :=
  [0x0, 0xD, 0x7, 0xA, 0xE, 0x3, 0x9, 0x4, 0x1, 0xC, 0x6, 0xB, 0xF, 0x2, 0x8, 0x5]

/-- The 4-bit CRC of SENT nibbles, legacy or recommended (R357). -/
def sentCrc (recommended : Bool) (ds : List (BitVec 4)) : BitVec 4 :=
  let r := ds.foldl (fun r d => Nat.xor (sentTable.getD r 0) d.toNat) 5
  BitVec.ofNat 4 (if recommended then sentTable.getD r 0 else r)

/-- The 6-bit CRC of an enhanced serial message over 24 bits: x^6 + x^4 + x^3 + 1, seed 0b010101 (R359). -/
def sentCrc6 (bits : List Bool) : BitVec 6 :=
  (bits ++ List.replicate 6 false).foldl
    (fun c b => ((c <<< 1) ||| (if b then 1 else 0)) ^^^ (if c.getLsbD 5 then 0b011001 else 0)) 0b010101

/-! ## Working units -/

/-- The bank that supplies a port (Table 02-1): 0 A, 1 B, 2 C, 3 D. -/
def portBank (n : Nat) : Nat := if n < 2 then 0 else if n = 2 then 3 else if n < 6 then 1 else 2

/-- Bank `b` is out of range (R30, R397). -/
def bankOut (b : Nat) (s : State) : Bool := s.power.bankLow.getLsbD b

/-- The hub sleeps, ports are not yet enabled after a wake, or a kernel island has failed (R63, R86, R93). -/
def asleep (s : State) : Bool := s.mode.cur == .stabled || s.power.boot == .dead

/-- S port `p` works (R304). -/
def sWorks (p : Nat) (s : State) : Bool :=
  nbit (runWord (portBlock (2 + p)) s) 0 && !portDropped (2 + p) s && s.power.pllLocked && !asleep s
    && s.mode.cur != .reset && !bankOut (portBank (2 + p)) s && !kernelOnly s

/-- S port `p` has the target role. -/
def sTarget (p : Nat) (s : State) : Bool := nbit (runWord (portBlock (2 + p)) s) 1

/-- A timing register of I port `p` (Table 14-5). -/
def iTime (p o : Nat) (s : State) : Nat := runWord (portBlock (6 + p) + o) s

/-- The timing of I port `p` is valid (R334). -/
def iTimingOk (p : Nat) (s : State) : Bool :=
  decide (iTime p 0x0C s + iTime p 0x0A s ≤ iTime p 0x02 s)
    && decide (2 * (iTime p 0x12 s + 2) ≤ iTime p 0x04 s) && decide (1 ≤ iTime p 0x0C s)
    && decide (4 ≤ iTime p 0x02 s) && decide (4 ≤ iTime p 0x06 s) && decide (4 ≤ iTime p 0x08 s)
    && decide (4 ≤ iTime p 0x0E s) && decide (4 ≤ iTime p 0x10 s)

/-- I port `p` works (R331). -/
def iWorks (p : Nat) (s : State) : Bool :=
  nbit (runWord (portBlock (6 + p)) s) 0 && !portDropped (6 + p) s && s.power.pllLocked && !asleep s
    && actMode s != .farrier && s.mode.cur != .reset && iTimingOk p s && !bankOut 2 s && !kernelOnly s

/-- SENT input `p` decodes (R353): FUNC_ACT reads 0xF during transit (Table 02-8). -/
def tWorks (p : Nat) (s : State) : Bool :=
  nbit (runWord (portBlock (10 + p)) s) 0 && !portDropped (10 + p) s && s.power.pllLocked
    && (pinOf (48 + p) s).act == 0 && (pinOf (48 + p) s).phase != .transit
    && !asleep s && (s.mode.cur == .halter || (actMode s).polls) && !kernelOnly s

/-- The execute window can fetch (R323). -/
def windowFetches (s : State) : Bool :=
  nbit (cfgWord (running s) 0x2A00) 0 && sWorks 0 s && !sTarget 0 s

/-! ## Status summaries -/

/-- A lane's step runs on port `n`. -/
def laneOnPort (n : Nat) (s : State) : Bool := s.poll.lanes.any (fun l => l.wait == .step n)

/-- A target transaction that has not been aborted runs on S port `p` (R321). -/
def targetRuns (p : Nat) (s : State) : Bool := (sportOf p s).target && !(sportOf p s).ignore

/-- A frame of a lane, a target transaction, a line fill or the SFDP read is on the wires of S port `p`. -/
def sInFrame (p : Nat) (s : State) : Bool :=
  laneOnPort (2 + p) s || targetRuns p s || (sportOf p s).fill.isSome || (sportOf p s).sfdpSent

/-- PSUM_Tn (Table 15-5). -/
def psumT (p : Nat) (s : State) : Word :=
  let x := tportOf p s
  packWord [(bit (tWorks p s), 0), (bit x.synced, 1), (bit (!x.slow.isEmpty), 2), (field x.sticky.toNat 8 7, 8)]

/-- PSUM_ATTN (Table 07-7). -/
def psumAttn (s : State) : Word :=
  packWord ((List.range 4).map (fun p => (bit (field (sportOf p s).sticky.toNat 8 7 != 0), p))
    ++ (List.range 4).map (fun p => (bit (field (iportOf p s).sticky.toNat 8 7 != 0), 4 + p))
    ++ (List.range 4).map (fun p => (bit (field (tportOf p s).sticky.toNat 8 7 != 0), 8 + p)))

/-- ATTN_SRC: the sticky bits and the two summaries (Table 07-5). -/
def attnSrc (s : State) : Word :=
  (s.attn.src &&& 0xFDF7) ||| packWord [(bit (wmAttn s), 3), (bit (psumAttn s != 0), 9)]

/-- The modes in which ATTN_N follows its sources (Table 02-6); in Farrier express events do not drive it. -/
def attnPin (s : State) : Bool :=
  if s.mode.cur == .stabled || s.power.boot == .held || s.power.boot == .dead then false
  else if s.mode.cur == .farrier then (attnSrc s &&& ~~~ s.attn.mask &&& ~~~ (1 : Word)) != 0
  else (attnSrc s &&& ~~~ s.attn.mask) != 0

/-- HUB_STAT (Table 07-4). -/
def hubStat (s : State) : Word :=
  packWord [(bit s.snap.new, 0), (bit (opRuns s), 1), (bit (faultPin s), 2), (bit (attnPin s), 3),
    (field s.mode.cur.code 0 3, 4), (bit s.mode.pend, 7), (bit s.pins.lock, 8), (bit s.boryel.lock, 9),
    (bit s.tap.recording, 10), (bit s.power.pllLocked, 11), (bit s.tack.usrOk, 12),
    (bit (!(queueOf 56 s).items.isEmpty), 13)]

/-- HS: the status summary of every genuine Rein reply (R157). -/
def statusSummary (s : State) : Byte := BitVec.ofNat 8 (field (hubStat s).toNat 0 7)

/-- A sticky bit of S port `p` is set. -/
def stickS (p n : Nat) (s : State) : State := modSPort p (fun x => { x with sticky := setBit x.sticky n }) s
/-- A sticky bit of I port `p` is set. -/
def stickI (p n : Nat) (s : State) : State := modIPort p (fun x => { x with sticky := setBit x.sticky n }) s
/-- A sticky bit of SENT input `p` is set. -/
def stickT (p n : Nat) (s : State) : State := modTPort p (fun x => { x with sticky := setBit x.sticky n }) s

/-- An event sets a bit of CANx_EVT, and with it ATTN_SRC.CANA or CANB (Table 12-8), also where the bit was set already (R158;
DESIGN CHOICE, log entry 104). -/
def canEvent (ch : Chan) (n : Nat) (s : State) : State :=
  attend (7 + chanNum ch) (modCan ch (fun c => { c with evt := setBit c.evt n }) s)

end Sys2Proof.Machine
end

