-- ==== Sys2Proof/Machine/Operands.lean ====
section
/-! DEFINITION. The operand forms of the hub: endpoint descriptors (Table 09-2), script steps (Table 09-1),
phased-frame descriptors (Table 13-10), CAN data lengths; and the validation of an endpoint (R196). -/

namespace Sys2Proof.Machine

/-! ## CAN lengths -/

/-- The data bytes that a DLC code stands for (ISO 11898-1, R275). -/
def dlcBytes (fdf : Bool) (dlc : Nat) : Nat :=
  if dlc ≤ 8 then dlc
  else if fdf then [12, 16, 20, 24, 32, 48, 64].getD (dlc - 9) 64
  else 8

/-- The smallest DLC code whose length is at least `n`. -/
def dlcFor (n : Nat) : Nat :=
  if n ≤ 8 then n
  else if n ≤ 12 then 9
  else if n ≤ 16 then 10
  else if n ≤ 20 then 11
  else if n ≤ 24 then 12
  else if n ≤ 32 then 13
  else if n ≤ 48 then 14
  else 15

/-! ## Endpoint descriptors -/

/-- The configuration part of a descriptor (Table 09-2). -/
structure Desc where
  active : Bool
  walk : Bool
  expr : Bool
  ra : Bool
  rstart : Bool
  retry : Nat
  port : Nat
  k : Nat
  phase : Nat
  port2 : Nat
  p2en : Bool
  taddr : Nat
  script : Nat
  tmo : Nat
  rgap : Nat
  ralead : Nat
  busyVal : Nat
  busyMask : Nat
  const : List Byte
  deriving DecidableEq, Repr

/-- ACTIVE of endpoint `n`. -/
def epActive (m : Mem) (n : Nat) : Bool := nbit (cfgByte m (epAddr n)) 0

/-- PORT of endpoint `n`. -/
def epPort (m : Mem) (n : Nat) : Nat := field (cfgByte m (epAddr n + 1)) 0 4

/-- The descriptor of endpoint `n` (R183). -/
def descOf (m : Mem) (n : Nat) : Desc :=
  let c := cfgWord m (epAddr n)
  let p := cfgWord m (epAddr n + 2)
  { active := nbit c 0, walk := nbit c 1, expr := nbit c 2, ra := nbit c 3, rstart := nbit c 4
    retry := field c 5 3, port := field c 8 4, k := field c 12 3
    phase := field p 0 8, port2 := field p 8 4, p2en := nbit p 12
    taddr := cfgWord m (epAddr n + 4), script := cfgWord m (epAddr n + 6), tmo := cfgWord m (epAddr n + 8)
    rgap := cfgByte m (epAddr n + 10), ralead := cfgByte m (epAddr n + 11)
    busyVal := cfgLong m (epAddr n + 12), busyMask := cfgLong m (epAddr n + 16)
    const := Memory.readBytes cfgDflt m (epAddr n + 0x14) 16 }

/-- A CAN port code. -/
def isCanPort (p : Nat) : Bool := decide (p < 2)
/-- An S port code. -/
def isSPort (p : Nat) : Bool := decide (2 ≤ p) && decide (p < 6)
/-- An I port code. -/
def isIPort (p : Nat) : Bool := decide (6 ≤ p) && decide (p < 10)
/-- A SENT input code. -/
def isTPort (p : Nat) : Bool := decide (10 ≤ p) && decide (p < 14)

/-- The ports that ACQ acquires, in ascending code order (R189). -/
def Desc.ports (d : Desc) : List Nat :=
  if d.p2en then [min d.port d.port2, max d.port d.port2] else [d.port]

/-- The port that a step names. -/
def Desc.named (d : Desc) (p2 : Bool) : Nat := if p2 then d.port2 else d.port

/-- Whether the endpoint is due in epoch number `n` by its period and phase (R186). -/
def Desc.dueIn (d : Desc) (n : Nat) : Bool := n % 2 ^ d.k == d.phase % 2 ^ d.k

/-- The busy check of R195 over the received bytes. -/
def Desc.isBusy (d : Desc) (rx : List Byte) : Bool :=
  d.busyMask != 0 && Nat.land (leValue (rx.take 4)) d.busyMask == Nat.land d.busyVal d.busyMask

/-! ## Phased-frame descriptors -/

/-- A phased-frame descriptor (Table 13-10). -/
structure FrameDesc where
  cw : Nat
  cl : Nat
  aw : Nat
  al : Nat
  dmy : Nat
  dlen : Nat
  dl : Nat
  ddir : Bool
  ok : Bool
  deriving DecidableEq, Repr

/-- The descriptor that three words spell (Table 13-10). -/
def frameDescOf (w0 w2 w4 : Nat) (ok : Bool) : FrameDesc :=
  { cw := field w0 0 6, cl := field w0 6 2, aw := field w0 8 6, al := field w0 14 2, dmy := field w2 0 6
    dlen := field w4 0 9, dl := field w4 9 2, ddir := nbit w4 11, ok := ok }

/-- The first word of descriptor `d` of the S port with code `port` (Table 13-10). -/
def frameAddr (port d : Nat) : Nat := portBlock port + 0x100 + 8 * d

/-- Descriptor `d` of the S port with code `port`; `ok` says that no field is reserved (R310). -/
def frameDesc (m : Mem) (port d : Nat) : FrameDesc :=
  let a := frameAddr port d
  frameDescOf (cfgWord m a) (cfgWord m (a + 2)) (cfgWord m (a + 4))
    (wordValid m a && wordValid m (a + 2) && wordValid m (a + 4))

/-- The stream bytes a frame takes (R311). -/
def FrameDesc.stream (f : FrameDesc) : Nat := (f.cw + 7) / 8 + (f.aw + 7) / 8 + (if f.ddir then f.dlen else 0)

/-- The bytes a frame's data phase reads. -/
def FrameDesc.reads (f : FrameDesc) : Nat := if f.ddir then 0 else f.dlen

/-- N: the cells of a frame (R310). -/
def FrameDesc.cells (f : FrameDesc) : Nat :=
  f.cw / lanes f.cl + f.aw / lanes f.al + f.dmy + 8 * f.dlen / lanes f.dl

/-! ## Script steps -/

/-- A script step (Table 09-1). WAIT and WAITT carry COUNT × UNIT in µs. -/
inductive Step where
  | endRun
  | acq
  | rel
  | send (cont p2 src : Bool) (len imm coff : Nat)
  | recv (cont bsy p2 : Bool) (len boff : Nat)
  | xfer (cont bsy p2 : Bool) (len boff coff : Nat)
  | frame (cont bsy p2 : Bool) (boff fd coff : Nat)
  | wait (us : Nat)
  | waitt (us : Nat)
  | waitpin (level : Bool) (mf : Nat)
  | waitfrm (len boff : Nat)
  | get (src fld boff ep : Nat)
  | split
  | flush (always : Bool)
  | skip (n : Nat) (sense : Bool) (boff mask val : Nat)
  deriving DecidableEq, Repr

/-- The length of a UNIT code in µs (R185). -/
def unitUs (u : Nat) : Nat := 10 ^ u

/-- The step if `named` has every operand bit set in the word and the step keeps its limits (R196, item 3). -/
def legal (w named : Nat) (within : Bool) (st : Step) : Option Step :=
  if Nat.land w (0x0FFFFFFF - named) = 0 ∧ within = true then some st else none

/-- The step that a word encodes; `none` for OP 0xF, a reserved SRC, an unnamed operand bit that is 1, and
a length or offset beyond the limits of Table 09-1. -/
def decodeStep (w : Nat) : Option Step :=
  let len := field w 16 5 + 1
  let boff := field w 8 5
  let coff := field w 0 4
  let cont := nbit w 27
  let bsy := nbit w 26
  let p2 := nbit w 25
  match field w 28 4 with
  | 0x0 => legal w 0 true .endRun
  | 0x1 => legal w 0 true .acq
  | 0x2 => legal w 0 true .rel
  | 0x3 =>
    if nbit w 24 then legal w 0x0B1F000F (decide (coff + len ≤ 16)) (.send cont p2 true len 0 coff)
    else legal w 0x0B1FFFFF (decide (len ≤ 2)) (.send cont p2 false len (field w 0 16) 0)
  | 0x4 => legal w 0x0E1F1F00 (decide (boff + len ≤ 32)) (.recv cont bsy p2 len boff)
  | 0x5 => legal w 0x0E1F1F0F (decide (boff + len ≤ 32) && decide (coff + len ≤ 16)) (.xfer cont bsy p2 len boff coff)
  | 0x6 => legal w 0x0E001FFF true (.frame cont bsy p2 boff (field w 4 4) coff)
  | 0x7 => legal w 0x0003FFFF true (.wait (field w 0 16 * unitUs (field w 16 2)))
  | 0x8 => legal w 0x0003FFFF true (.waitt (field w 0 16 * unitUs (field w 16 2)))
  | 0x9 => legal w 0x0000000F (field w 0 3 != 7) (.waitpin (nbit w 3) (field w 0 3))
  | 0xA => legal w 0x001F1F00 (decide (boff + len ≤ 32)) (.waitfrm len boff)
  | 0xB =>
    legal w 0x0F00DFFF
      (match field w 24 4 with
       | 0 => decide (boff + 6 ≤ 32)
       | 1 => decide (boff + 4 ≤ 32)
       | _ => false) (.get (field w 24 4) (field w 14 2) boff (field w 0 8))
  | 0xC => legal w 0 true .split
  | 0xD => legal w 0x08000000 true (.flush cont)
  | 0xE => legal w 0x079FFFFF (field w 24 3 != 0)
      (.skip (field w 24 3) (nbit w 23) (field w 16 5) (field w 8 8) (field w 0 8))
  | _ => none

/-- The step at index `i` of script memory. -/
def stepAt (m : Mem) (i : Nat) : Option Step := if i < 1024 then decodeStep (cfgLong m (stepAddr i)) else none

/-- Steps that can move a bus: SEND, RECV, XFER and FRAME, with CONT and P2. -/
def Step.wire : Step → Option (Bool × Bool)
  | .send c p .. => some (c, p)
  | .recv c _ p .. => some (c, p)
  | .xfer c _ p .. => some (c, p)
  | .frame c _ p .. => some (c, p)
  | _ => none

/-- RECV, XFER, FRAME, WAITFRM and GET: the data steps. -/
def Step.isData : Step → Bool
  | .recv .. | .xfer .. | .frame .. | .waitfrm .. | .get .. => true
  | _ => false

/-- RECV, XFER and FRAME: the steps that FLUSH may precede (R196, item 7). -/
def Step.flushable : Step → Bool
  | .recv .. | .xfer .. | .frame .. => true
  | _ => false

/-- ACQ, REL and SPLIT: the steps that SKIP may not skip (R196, item 8). -/
def Step.unskippable : Step → Bool
  | .acq | .rel | .split => true
  | _ => false

/-- The BSY bit of a step. -/
def Step.busyBit : Step → Bool
  | .recv _ b .. => b
  | .xfer _ b .. => b
  | .frame _ b .. => b
  | _ => false

/-- The words of a script from index `i` to its first END, END included: at most `fuel` steps, none beyond
1023; `none` where there is no END there. -/
def scriptWords (m : Mem) : Nat → Nat → Option (List Nat)
  | 0, _ => none
  | fuel + 1, i =>
    if 1024 ≤ i then none
    else
      let w := cfgLong m (stepAddr i)
      if field w 28 4 = 0 then some [w]
      else
        match scriptWords m fuel (i + 1) with
        | none => none
        | some ws => some (w :: ws)

/-- The script of an endpoint, to its first END within 64 steps (R196, item 2). -/
def scriptOf (m : Mem) (start : Nat) : Option (List Nat) := scriptWords m 64 start

/-- A script has a SPLIT step. -/
def hasSplit (m : Mem) (start : Nat) : Bool :=
  match scriptOf m start with
  | none => false
  | some ws => ws.any (fun w => field w 28 4 == 0xC)

/-- The index of the step after the SPLIT of a script, or its start where it has none. -/
def readStart (m : Mem) (start : Nat) : Nat :=
  match scriptOf m start with
  | none => start
  | some ws => if ws.any (fun w => field w 28 4 == 0xC) then start + ws.findIdx (fun w => field w 28 4 == 0xC) + 1
               else start

/-! ## Validation -/

/-- What the scan of a script has seen: a port is held, a SPLIT has passed, the read part has a data step. -/
structure Scan where
  held : Bool
  split : Bool
  data : Bool

/-- The checks of items 3 to 8, 10 and 11 of R196 on one step, with the steps that follow it: the scan goes
on, or the script is invalid. -/
def scanStep (m : Mem) (n : Nat) (d : Desc) (sc : Scan) (st : Step) (after : List (Option Step)) : Option Scan :=
  let onWire := isSPort d.port || isIPort d.port
  let inPlace :=
    match st with
    | .endRun => true
    | .acq => onWire && !sc.held
    | .rel => d.port != 0xE
    | .send _ p .. => onWire && sc.held && (!p || d.p2en)
    | .recv _ _ p .. => onWire && sc.held && (!p || d.p2en)
    | .xfer _ _ p .. => onWire && sc.held && (!p || d.p2en) && isSPort (d.named p)
    | .frame _ _ p boff fd coff =>
      let f := frameDesc m (d.named p) fd
      onWire && sc.held && (!p || d.p2en) && isSPort (d.named p) && f.ok
        && decide (coff + f.stream ≤ 16) && decide (boff + f.reads ≤ 32)
    | .wait _ => true
    | .waitt _ => sc.split && d.port != 0xE
    | .waitpin .. => d.port != 0xE
    | .waitfrm .. => isCanPort d.port || isTPort d.port
    | .get src _ _ ep => src == 0 || (ep != n && (epPort m ep != 0xE || decide (ep < n)))
    | .split => !sc.split && d.port != 0xE
    | .flush _ => d.port != 0xE && (match after with | some s :: _ => s.flushable | _ => false)
    | .skip k .. =>
      decide (k < after.length) && (after.take k).all (fun s => match s with | some s => !s.unskippable | none => true)
  let joined :=
    match st.wire with
    | some (true, p) => (match after with | some s :: _ => s.wire.map Prod.snd == some p | _ => false)
    | _ => true
  if inPlace && joined then
    some { held := (sc.held || st == .acq) && st != .rel && st != .split
           split := sc.split || st == .split
           data := st.isData || (sc.data && st != .split) }
  else none

/-- The scan over the steps of a script; every step must be legal by itself. -/
def scanScript (m : Mem) (n : Nat) (d : Desc) : Scan → List (Option Step) → Option Scan
  | sc, [] => some sc
  | sc, st :: rest =>
    match st with
    | none => none
    | some st =>
      match scanStep m n d sc st rest with
      | none => none
      | some sc' => scanScript m n d sc' rest

/-- Endpoint `n` meets the conditions that R196 asks of an active endpoint. -/
def endpointOk (m : Mem) (n : Nat) : Bool :=
  let d := descOf m n
  d.port != 0xF && d.tmo != 0
    && (!d.p2en || (decide (2 ≤ d.port2) && decide (d.port2 ≤ 9) && d.port2 != d.port
          && decide (2 ≤ d.port) && decide (d.port ≤ 9)))
    && (match scriptOf m d.script with
        | none => false
        | some ws =>
          match scanScript m n d ⟨false, false, false⟩ (ws.map decodeStep) with
          | none => false
          | some sc => sc.data)

/-- Endpoint `n` is valid: inactive, or all conditions hold (R196). -/
def endpointValid (m : Mem) (n : Nat) : Bool := !epActive m n || endpointOk m n

end Sys2Proof.Machine
end

