-- ==== Sys2Proof/Machine/Queues.lean ====
section
/-! DEFINITION. The host's side of the queue manager (chapter 11): enqueue, read, flush, the registers of
Tables 11-5 and 11-6, and the commands of the queue family. -/

namespace Sys2Proof.Machine

/-- What a host access answers: the 16-bit value of a read (0 for a write), and whether it sets ADRE. -/
structure Reply where
  val : Word
  adre : Bool
  s : State

/-- A good answer with a value. -/
def answer (v : Word) (s : State) : Reply := ⟨v, false, s⟩

/-- An access turned away: 0x0000 with ADRE (R7, R9, R164). -/
def denied (s : State) : Reply := ⟨0, true, s⟩

/-- A write that has taken effect. -/
def wrote (s : State) : Reply := ⟨0, false, s⟩

/-- The result and the address flag of the access go to the next genuine reply (R127). -/
def intoReply (r : Reply) : State := { r.s with rein := { r.s.rein with res := r.val, adre := r.adre } }

/-- After the record of a Rein write that sets TAP_CTRL.EN to 0, recording ends (R364). -/
def endIfDisabled (s : State) : State := if s.tap.recording && !s.tap.en then endRecording s else s

/-- The result of a good write is its data, and its address flag goes with it (R127); a write that has reset the hub
leaves neither. -/
def writeReply (v : Word) (r : Reply) : State :=
  if r.s.power.boot == .held then r.s else intoReply { r with val := v }

/-- A good write of `v` to direct register `a` has taken effect: its result and address flag go to the
next genuine reply, and the tap records it (R127, R142, R364). -/
def goodWrite (a : Nat) (v : Word) (r : Reply) : State := endIfDisabled (recRein false 0 a v 0 (writeReply v r))

/-- A good write of WIN_DATA at window address `w` has taken effect (R142). -/
def goodWinWrite (w : Nat) (v : Word) (r : Reply) : State := endIfDisabled (recRein true 0 0x16 v w (writeReply v r))

/-! ## Which accesses are served -/

/-- The Rein port receives frames (R131, R140, R141): the start checks have passed, the hub is not sealed, its bank has
supply, and no slow read or stalled read is under way. -/
def reinListens (s : State) : Bool :=
  (s.power.boot == .answering || s.power.boot == .running) && s.power.sleep != .sealed && !bankOut 0 s
    && s.rein.stall.isNone && s.rein.slowPending.isNone

/-- The direct writes of the present host that are served while REPLAY_RUN runs (R380a). -/
def replayAllows (a : Nat) (v : Word) : Bool :=
  a == 0x6C || (a == 0x08 && v.getLsbD 15) || (a == 0x05 && (field v.toNat 0 4 == 2 || field v.toNat 0 4 == 8))
    || a == 0x03 || a == 0x04 || decide (0x78 ≤ a) || a == 0x14 || a == 0x15 || a == 0x17

/-- A unit that serves a part of the extended space is dropped (R164, Table 07-8). -/
def regionDropped (w : Nat) (s : State) : Bool :=
  let d1 := fun (n : Nat) => s.power.lrDrop1.getLsbD n
  if w < 0x1200 then false
  else if w < 0x1300 then d1 2
  else if w < 0x1400 then d1 6
  else if w < 0x2000 then false
  else if w < 0x5800 then portDropped ((w - 0x2000) / 0x400) s
  else if w < 0x10000 then false
  else if w < 0x15000 then d1 0
  else if w < 0x18000 then s.power.lrDrop0.getLsbD 14
  else if w < 0x20000 then portDropped ((w - 0x18000) / 0x4000) s
  else if w < 0x40000 then d1 1
  else if w < 0x80000 then d1 3
  else decide (0x10000000 ≤ w) && portDropped 2 s

/-- A profile is being expanded: PROFILE_LOAD, or the apply phase of a switch (R163). -/
def expandingNow (s : State) : Bool := s.tack.expanding || (s.op.state == 1 && s.op.job == .load)

/-- A window write to `w` is served (R161 to R164, R380a, R431): the mode and power block and the pin multiplexer always,
the ranges of Table 05-3 in Halter and Lead-rein, the raw cell pool in Farrier. -/
def winWritable (w : Nat) (s : State) : Bool :=
  if s.replay.run then false
  else if 0x1000 ≤ w ∧ w < 0x1200 then true
  else if s.power.boot != .running || kernelOnly s || regionDropped w s then false
  else if inProfileRange w 2 then (s.mode.cur == .halter || s.mode.cur == .leadrein) && !expandingNow s
  else decide (0x40000 ≤ w) && decide (w < 0x80000) && s.mode.cur == .farrier

/-- After a WIN_DATA access at `w`: the auto-increment, and WERR where it was refused (R136, R137); an access that has
reset the hub leaves neither. -/
def winDone (w : Nat) (r : Reply) : Reply :=
  if r.s.power.boot == .held then r
  else { r with s := { r.s with rein := { r.s.rein with
    winAddr := BitVec.ofNat 32 (if r.s.rein.ainc then w + 2 else w), werr := r.s.rein.werr || r.adre } } }

/-- The verdict point of the register group of direct register `a` (Table 07-1). -/
def groupPoint (a : Nat) : List Nat :=
  if a ≤ 0x02 then [16]
  else if a ≤ 0x04 then [17]
  else if a ≤ 0x07 then [18]
  else if a ≤ 0x12 then [19]
  else if a ≤ 0x17 then [20]
  else if a ≤ 0x1C then [21]
  else if a ≤ 0x1F then [22]
  else if a ≤ 0x27 then [23]
  else if a ≤ 0x2A then [24]
  else if a < 0x30 then []
  else [25 + (a - 0x30) / 8]

/-- The verdict points that a window access at `w` passes: the region's register group (Table 07-1), or the tack store, a bank or
the alias (Table 03-7). -/
def windowPoint (w : Nat) : List Nat :=
  if w < 0x100 then groupPoint (w / 2)
  else if 0x1000 ≤ w ∧ w < 0x1200 then [35]
  else if 0x1200 ≤ w ∧ w < 0x1500 then [36]
  else if 0x2000 ≤ w ∧ w < 0x5800 then [37]
  else if 0x6000 ≤ w ∧ w < 0x8000 then [39]
  else if 0x10000 ≤ w ∧ w < 0x20000 then [38]
  else if 0x20000 ≤ w ∧ w < 0x26600 then [160]
  else if 0x28000 ≤ w ∧ w < 0x2A200 then [161]
  else if 0x100000 ≤ w ∧ w < 0x120000 then [46]
  else []

/-- An access of the host requests input a of these points (R143, R145). During a replay the present host's accesses are not
among the requests that the recorded verdicts order (R380). -/
def hostAt (points : List Nat) (s : State) : State :=
  if s.replay.run then s else grants (points.map (fun p => (p, false))) s

/-- The refusal of a direct write of the present host while REPLAY_RUN runs (R380a); a start of an operation is refused with WHY 1
(R176). -/
def refusedInReplay (a : Nat) (v : Word) (s : State) : Reply :=
  denied (if a = 0x08 ∧ field v.toNat 0 8 ≠ 0 then { s with op := { s.op with why := 1 } } else s)

/-- A direct register write of the host by a good frame. -/
def writeRow (a : Nat) (v : Word) (f : State → Reply) (s : State) : State :=
  if reinListens s then
    goodWrite a v (if s.replay.run && !replayAllows a v then refusedInReplay a v s else f (hostAt (groupPoint a) s))
  else s

/-- A dequeuing read of direct register `a` by a good frame of the host; none is served during a replay (R380a). -/
def readRow (a : Nat) (f : State → Reply) (s : State) : State :=
  if reinListens s then intoReply (if s.replay.run then denied s else f (hostAt (groupPoint a) s)) else s

/-- A WIN_DATA write of the host by a good frame, with the window address at `w`. -/
def winWriteRow (w : Nat) (v : Word) (f : State → Reply) (s : State) : State :=
  if reinListens s then
    goodWinWrite w v (winDone w (if winWritable w s then f (hostAt (20 :: windowPoint w) s) else denied s))
  else s

/-- The selected queue (QM_SEL.Q). -/
def selQueue (s : State) : Nat := s.pool.sel.toNat

/-- The queues that QM_ENQ may write (Table 11-1). -/
def hostWritable (q : Nat) : Bool := decide (q < 32) || (decide (38 ≤ q) && decide (q < 42)) || q == 61

/-- The queues that QM_DATA may read (Table 11-1). -/
def hostReadable (q : Nat) : Bool := decide (q < 32) || (decide (42 ≤ q) && decide (q < 46)) || q == 49 || q == 56

/-- The queue that holds the host's open item, if one is open (R251). -/
def hostOpen (s : State) : Option Nat := (List.range 64).find? (fun q => (openOf q .host s).isSome)

/-- The port serves an external controller (R304). -/
def servesTarget (p : Nat) (s : State) : Bool :=
  sWorks p s && sTarget p s && (actMode s == .halter || actMode s == .canter || actMode s == .leadrein)

/-- The port loads the next transmit item when it has none: neither one in waiting nor one that it sends (R318). -/
def loadTarget (p : Nat) (s : State) : State :=
  if servesTarget p s && (sportOf p s).loaded.isNone && (sportOf p s).sending.isNone then
    match takeGood (queueOf (38 + p) s).items.length (38 + p) s with
    | none => s
    | some r =>
      let n := field (leValue (r.1.bytes.take 2)) 0 6
      modSPort p (fun x => { x with loaded := some ((r.1.bytes.drop 2).take n) }) r.2
  else s

/-- Every target port loads what it can. -/
def loadTargets (s : State) : State := (List.range 4).foldl (fun s p => loadTarget p s) s

/-- The host's open item closes; an item without a word is abandoned (R251). -/
def closeHost (s : State) : State :=
  match hostOpen s with
  | none => s
  | some q =>
    match openOf q .host s with
    | none => s
    | some o =>
      if o.bytes.isEmpty then abandonItem q .host s
      else
        let s1 := closeItem q .host [] 0 s
        if 38 ≤ q ∧ q < 42 then loadTarget (q - 38) s1 else s1

/-- A write of AUTH_OP or OP_CMD closes the host's item on queue 61 (R251). -/
def closeHostData (s : State) : State := if hostOpen s == some 61 then closeHost s else s

/-- The host's open item with one more word. -/
def growHost (q : Nat) (v : Word) (s0 : State) : State :=
  let s := { s0 with pool := { s0.pool with enqData := v } }
  grant 264 false (writeOpen q .host (leBytes 2 v.toNat) s)

/-- QM_STAT.NOSPACE of a queue. -/
def markNoSpace (q : Nat) (s : State) : State := modQueue q (fun x => { x with nospace := true }) s

/-- A write of QM_ENQ (R251, R256, R262). -/
def enqWrite (v : Word) (s : State) : Reply :=
  let q := selQueue s
  if qmgrDropped s || !hostWritable q || (queueOf q s).doom || !(queueOf q s).en then denied s
  else
    match hostOpen s with
    | some p =>
      let s1 := growHost p v s
      wrote (if ((openOf p .host s1).map (fun o => o.bytes.length)).getD 0 ≥ 64 then closeHost s1 else s1)
    | none =>
      match reserve q 1 .host s.pool.hpri s with
      | none => denied (markNoSpace q s)
      | some s1 => wrote (growHost q v s1)

/-- An uncorrectable word met in an item that the host reads, at the 64-bit word being read (R258). -/
def poisonRead (q : Nat) (s : State) : State :=
  match (queueOf q s).read with
  | none => s
  | some r =>
    let k := r.pos / 4
    let cell := r.cells.getD (k / 8) 0
    let s1 := modQueue q (fun x => { x with read := some { r with bad := some (match r.bad with | some b => min b k | none => k) } }) s
    let s2 := { s1 with pool := { s1.pool with unc := true
                                               poisoned := if r.bad.isSome then s1.pool.poisoned
                                                           else BitVec.ofNat 6 (satAdd 63 s1.pool.poisoned.toNat 1) } }
    logFault 0x38 1 (125 + cell % 16) cell s2

/-- QM_ECC.CORR counts a corrected word (R258). -/
def countCorr (s : State) : State :=
  { s with pool := { s.pool with corr := BitVec.ofNat 8 (satAdd 255 s.pool.corr.toNat 1) } }

/-- What the ECC found in the word that a host read of queue `q` touched (R258). -/
def readEcc (q : Nat) (ecc : Ecc) (s : State) : State :=
  match ecc with
  | .ok => s
  | .corrected => countCorr s
  | .uncorrectable => poisonRead q s

/-- The next word of the read item of queue `q` (R252, R258); its cell is released with the last word. -/
def readWord (q : Nat) (ecc : Ecc) (s0 : State) : Reply :=
  let s := readEcc q ecc s0
  match (queueOf q s).read with
  | none => denied s
  | some r =>
    let w := r.word
    let s1 := modQueue q (fun x => { x with read := r.step, pois := x.pois || w.2 }) s
    answer w.1 (grants ((264, false) :: bankGrants false [r.cells.getD (r.pos / 32) 0] ++ (if r.step.isNone then [(262, true)] else [])) s1)

/-- A read of the data register of queue `q`: a word of the read item, the header of the next item, the
empty value, or a stall (R139, R252). -/
def readQueue (q : Nat) (stallOk : Bool) (ecc : Ecc) (s : State) : Reply :=
  if qmgrDropped s || !hostReadable q then denied s
  else if (queueOf q s).read.isSome then readWord q ecc s
  else
    match (queueOf q s).dequeueRead with
    | some p => answer p.1 (hostDequeued q p.2 s)
    | none =>
      if stallOk && s.pool.stallTmo != 0 then answer 0x8000 { s with rein := { s.rein with stall := some (.queue q) } }
      else answer 0x8000 s

/-- The front item of a CAN read port. -/
def canFront (q : Nat) (c : CanSt) : Option ReadItem := if q = 0 then c.front0 else c.front1

/-- DISC: the selected queue's read item, or the front item of a CAN receive queue, ends (R252, R280). The block that a
drain has taken from the trace ring is not the host's. -/
def endRead (q : Nat) (s : State) : State :=
  if q = 32 then grant 268 false (modCan .a (fun c => { c with front0 := none }) s)
  else if q = 33 then grant 269 false (modCan .a (fun c => { c with front1 := none }) s)
  else if q = 34 then grant 288 false (modCan .b (fun c => { c with front0 := none }) s)
  else if q = 35 then grant 289 false (modCan .b (fun c => { c with front1 := none }) s)
  else if q = 48 then s
  else grant 262 true (modQueue q (fun x => { x with read := none }) s)

/-- CLOSE: the host's open item closes, and a doomed item of the selected queue is acknowledged (R251, R256). -/
def qmClose (s : State) : State :=
  let s1 := closeHost s
  modQueue (selQueue s1) (fun x => { x with doom := false }) s1

/-- Queues that no flush may name (R257). -/
def noFlush (q : Nat) : Bool := q == 48 || q == 50 || q == 60 || !queueExists q

/-! ## Pass-through entries of the S ports -/

/-- A held select rises (R308). -/
def releaseSelect (p : Nat) (s : State) : State := modSPort p (fun x => { x with hold := none, wcnt := 0 }) s

/-- A pass-through entry (Table 13-3). -/
structure PtEntry where
  sel : Fin 8
  cont : Bool
  frm : Bool
  fd : Nat
  t : Nat
  data : List Byte

/-- The entry that an item's words spell. -/
def ptEntry (bytes : List Byte) : PtEntry :=
  let w0 := leValue (bytes.take 2)
  let t := field (leValue ((bytes.drop 2).take 2)) 0 6
  ⟨⟨field w0 0 3, by unfold field; omega⟩, nbit w0 3, nbit w0 4, field w0 8 4, t, (bytes.drop 4).take t⟩

/-- The next committed entry names the same select (R315). -/
def nextNames (p : Nat) (sel : Fin 8) (s : State) : Bool :=
  match (queueOf (38 + p) s).next with
  | some i => (ptEntry i.1.bytes).sel == sel
  | none => false

/-- The pass-through holds a select of S port `p` (R315). -/
def hostHolds (p : Nat) (s : State) : Bool := (sportOf p s).hold.isSome && (sportOf p s).last == .host

/-- A select that pass-through holds rises once the next committed entry no longer names it (R315). -/
def settleHold (p : Nat) (s : State) : State :=
  match (sportOf p s).hold with
  | some sel => if hostHolds p s && !nextNames p sel s then releaseSelect p s else s
  | none => s

/-- A flush of queue `q` begins; one of a port's transmit queue may take the entry for which a select is held (R256, R315). -/
def flushQueue (q : Nat) (byHost byOp : Bool) (s : State) : State :=
  let s1 := startFlush q byHost byOp s
  if 38 ≤ q ∧ q < 42 then settleHold (q - 38) s1 else s1

/-- A write of 1 to QM_FLUSH.GO (R256, R257, R262). -/
def flushWrite (s : State) : Reply :=
  if qmgrDropped s || noFlush (selQueue s) then denied s else wrote (flushQueue (selQueue s) true false s)

/-- A write of QM_SEL: the host's open item closes; a queue number that does not exist is a reserved
encoding (R9, R245, R251). -/
def qmSelWrite (v : Word) (s : State) : Reply :=
  let s1 := closeHost s
  let q := field v.toNat 0 6
  let s2 := { s1 with pool := { s1.pool with hpri := BitVec.ofNat 3 (field v.toNat 8 3) } }
  if queueExists q then wrote { s2 with pool := { s2.pool with sel := BitVec.ofNat 6 q } } else ⟨0, true, s2⟩

/-- The smallest reserve a queue may be given (Table 11-1). -/
def floorOf (q : Nat) : Nat :=
  if q < 32 then 0
  else if q < 38 then 2
  else if q < 46 then 1
  else if q = 48 ∨ q = 50 ∨ q = 60 then 192
  else if q = 49 then 1
  else if q = 56 then 2
  else if q = 61 then 24
  else 0

/-- A write of QM_CFG; each field that may not take its value keeps the old one (R9, R247). -/
def qmCfgWrite (v : Word) (s : State) : Reply :=
  let q := selQueue s
  let x := queueOf q s
  let n := v.toNat
  let cap := if field n 4 12 = 0 then 4096 else field n 4 12
  let enOk := decide (q < 32) || nbit n 0
  let prioOk := decide (q < 32) || nbit n 1 == x.prio
  let capOk := decide (x.rsv ≤ cap) && (decide (q < 60) || cap == x.cap)
  ⟨0, !(enOk && prioOk && capOk), modQueue q (fun y => { y with
    en := if enOk then nbit n 0 else y.en
    prio := if prioOk then nbit n 1 else y.prio
    wmattn := nbit n 2
    cap := if capOk then cap else y.cap }) s⟩

/-- A write of QM_RSV (R9, R247). -/
def qmRsvWrite (v : Word) (s : State) : Reply :=
  let q := selQueue s
  let x := queueOf q s
  let r := field v.toNat 0 13
  let others := sumNat (s.pool.queues.map (fun y => y.rsv)) - x.rsv
  if decide (floorOf q ≤ r) && decide (r ≤ x.cap) && decide (others + r ≤ 4096) then
    wrote (modQueue q (fun y => { y with rsv := r }) s)
  else denied s

/-- A write of QM_STAT: the w1c bits, CLOSE and DISC (R7, R164, Table 11-5). -/
def qmStatWrite (v : Word) (s : State) : Reply :=
  let q := selQueue s
  let n := v.toNat
  let s1 := modQueue q (fun x => { x with
    wmx := x.wmx && !nbit n 2, nospace := x.nospace && !nbit n 3
    drop := x.drop && !nbit n 4, pois := x.pois && !nbit n 5 }) s
  if qmgrDropped s && (nbit n 8 || nbit n 9) then ⟨0, true, s1⟩
  else
    let s2 := if nbit n 8 then qmClose s1 else s1
    wrote (if nbit n 9 then endRead q s2 else s2)

/-- The front item of a queue's read port is in progress. -/
def readOpen (q : Nat) (s : State) : Bool :=
  if q = 32 then s.canA.front0.isSome
  else if q = 33 then s.canA.front1.isSome
  else if q = 34 then s.canB.front0.isSome
  else if q = 35 then s.canB.front1.isSome
  else q != 48 && (queueOf q s).read.isSome

/-- The host has an open item on a queue. -/
def hostOpenOn (q : Nat) (s : State) : Bool :=
  (openOf q .host s).isSome || (openOf q (.canTxHost .a) s).isSome || (openOf q (.canTxHost .b) s).isSome

/-- QM_STAT (Table 11-5). -/
def qmStat (q : Nat) (s : State) : Word :=
  let x := queueOf q s
  packWord [(bit x.items.isEmpty, 0), (bit x.above, 1), (bit x.wmx, 2), (bit x.nospace, 3), (bit x.drop, 4),
    (bit x.pois, 5), (bit (hostOpenOn q s), 6), (bit (readOpen q s), 7), (bit x.doom, 10)]

/-- QM_CFG (Table 11-5). -/
def qmCfg (q : Nat) (s : State) : Word :=
  let x := queueOf q s
  packWord [(bit x.en, 0), (bit x.prio, 1), (bit x.wmattn, 2), (x.cap % 4096, 4)]

/-- QM_WMSUM (Table 11-5). -/
def qmWmSum (s : State) : Word :=
  packWord ((List.range 16).map (fun g =>
    (bit ((List.range 4).any (fun i => (queueOf (4 * g + i) s).wmx)), g)))

/-- QM_ECC (Table 11-5). -/
def qmEcc (s : State) : Word :=
  packWord [(s.pool.corr.toNat, 0), (s.pool.poisoned.toNat, 8), (bit s.pool.unc, 14), (bit s.pool.link, 15)]

/-- A write of QM_ECC: CORR and POISONED take the value, UNC and LINK are w1c. -/
def qmEccWrite (v : Word) (s : State) : State :=
  let n := v.toNat
  { s with pool := { s.pool with
    corr := BitVec.ofNat 8 n, poisoned := BitVec.ofNat 6 (n / 256)
    unc := s.pool.unc && !nbit n 14, link := s.pool.link && !nbit n 15 } }

/-- EVQ_INFO (Table 11-6). -/
def evqInfo (s : State) : Word :=
  match (queueOf 56 s).next with
  | none => 0x8000
  | some p => packWord [((p.1.bytes.headD 0).toNat, 0), (field ((p.1.bytes.length + 1) / 2) 0 6, 8)]

/-! ## The queue commands -/

/-- QM_DATA_READ (R252): a read of QM_DATA through a Rein frame. -/
def effQmDataRead (stallOk : Bool) (ecc : Ecc) (t : HubTime) (s : State) : State :=
  readRow 0x48 (fun s => readQueue (selQueue s) stallOk ecc s) (advance t s)

/-- EVQ_DATA_READ (R252): a read of EVQ_DATA, which reads queue 56 whatever QM_SEL holds. -/
def effEvqDataRead (stallOk : Bool) (ecc : Ecc) (t : HubTime) (s : State) : State :=
  readRow 0x70 (readQueue 56 stallOk ecc) (advance t s)

/-- QM_ENQ_WRITE (R251). -/
def effQmEnqWrite (v : Word) (s : State) : State := writeRow 0x49 v (enqWrite v) s

/-- QM_SEL_WRITE (R251). -/
def effQmSelWrite (v : Word) (s : State) : State := writeRow 0x40 v (qmSelWrite v) s

/-- QM_CLOSE (R251, R164): a write of 1 to QM_STAT.CLOSE. -/
def effQmClose (s : State) : State := writeRow 0x46 0x0100 (qmStatWrite 0x0100) s

/-- QM_DISC (R252, R164): a write of 1 to QM_STAT.DISC. -/
def effQmDisc (s : State) : State := writeRow 0x46 0x0200 (qmStatWrite 0x0200) s

/-- QM_FLUSH_GO (R256): a write of 1 to QM_FLUSH.GO. -/
def effQmFlushGo (s : State) : State := writeRow 0x4A 1 flushWrite s

/-- The meaning of QM_DATA_READ. -/
def execQmDataRead (stallOk : Bool) (ecc : Ecc) (t : HubTime) (s : State) : Host.Outcome State Fault Refusal :=
  .next (effQmDataRead stallOk ecc t s)
/-- The meaning of EVQ_DATA_READ. -/
def execEvqDataRead (stallOk : Bool) (ecc : Ecc) (t : HubTime) (s : State) : Host.Outcome State Fault Refusal :=
  .next (effEvqDataRead stallOk ecc t s)
/-- The meaning of QM_ENQ_WRITE. -/
def execQmEnqWrite (v : Word) (s : State) : Host.Outcome State Fault Refusal := .next (effQmEnqWrite v s)
/-- The meaning of QM_SEL_WRITE. -/
def execQmSelWrite (v : Word) (s : State) : Host.Outcome State Fault Refusal := .next (effQmSelWrite v s)
/-- The meaning of QM_CLOSE. -/
def execQmClose (s : State) : Host.Outcome State Fault Refusal := .next (effQmClose s)
/-- The meaning of QM_DISC. -/
def execQmDisc (s : State) : Host.Outcome State Fault Refusal := .next (effQmDisc s)
/-- The meaning of QM_FLUSH_GO. -/
def execQmFlushGo (s : State) : Host.Outcome State Fault Refusal := .next (effQmFlushGo s)

end Sys2Proof.Machine
end

