-- ==== Sys2Proof/Machine/Units.lean ====
section
/-! DEFINITION. The hub's units and islands (Table 03-1), and what the failure of a unit does (R29, R81,
R82, R394). -/

namespace Sys2Proof.Machine

/-- The unit numbers of the model: 0 to 13 the ports by port code, 14 conditioning, 15 express path, 16
poll engine, 17 snapshots, 18 time base, 19 queue manager, 20 crypto, 21 tack write path, 22 tap: the
drop bits of Table 04-12 in order; 23 test, 24 pin multiplexer, 25 always-on; 26 the kernel. -/
def unitOf (island : Nat) : Nat :=
  if island ∈ [0, 1, 2, 5, 10, 11, 12, 13, 14, 15, 16, 17, 18, 23, 24, 252] then 26
  else if island < 6 then 25
  else if island < 10 then 18
  else if island < 23 then 20
  else if island < 29 then 21
  else if island < 81 then 16
  else if island < 111 then 14
  else if island < 123 then 17
  else if island < 125 then 15
  else if island < 149 then 19
  else if island < 162 then 0
  else if island < 175 then 1
  else if island < 185 then 2
  else if island < 206 then 3 + (island - 185) / 7
  else if island < 230 then 6 + (island - 206) / 6
  else if island < 238 then 10 + (island - 230) / 2
  else if island < 252 then 22
  else if island < 260 then 24
  else 23

/-- Whether a unit has failed (R394). -/
def unitFailed (u : Nat) (s : State) : Bool :=
  if u < 16 then s.power.lrDrop0.getLsbD u
  else if u < 23 then s.power.lrDrop1.getLsbD (u - 16)
  else s.fault.failedOther.contains u

/-- The unit's drop bit is set, and stays set until reset (R394, Table 04-12). -/
def setDropped (u : Nat) (s : State) : State :=
  if u < 16 then { s with power := { s.power with lrDrop0 := setBit s.power.lrDrop0 u } }
  else if u < 23 then { s with power := { s.power with lrDrop1 := setBit s.power.lrDrop1 (u - 16) } }
  else { s with fault := { s.fault with failedOther := insertOnce u s.fault.failedOther } }

/-- The mux indices of a port's primary pins (Table 02-4). -/
def portPins (n : Nat) : List Nat :=
  if n < 2 then (List.range 3).map (fun i => 3 * n + i)
  else if n = 2 then (List.range 9).map (fun i => 6 + i)
  else if n < 6 then (List.range 7).map (fun i => 15 + 7 * (n - 3) + i)
  else if n < 10 then (List.range 3).map (fun i => 36 + 3 * (n - 6) + i)
  else [48 + (n - 10)]

/-- The MF function code that gives port `n` an extra select, if it has any (Table 02-5). -/
def extraSelectPort (code : Nat) : Option Nat :=
  if code = 5 then some 3 else if code = 6 then some 4 else if code = 7 then some 5 else none

/-- Lead-rein parks pin `i`: FUNC_ACT becomes 0x4 (R29). -/
def parkPin (i : Nat) (s : State) : State := modPin i (fun p => { p with act := 4, phase := .attached }) s

/-- The pins of a failed port are parked (R29, R82). -/
def parkPort (n : Nat) (s : State) : State :=
  let s1 := (portPins n).foldl (fun s i => if (pinOf i s).act = 0 then parkPin i s else s) s
  (List.range 7).foldl (fun s i =>
    if extraSelectPort (pinOf (52 + i) s).act.toNat = some n then parkPin (52 + i) s else s) s1

/-- The pins of every failed port are parked. -/
def parkFailed (s : State) : State :=
  (List.range 14).foldl (fun s n => if portDropped n s then parkPort n s else s) s

/-- The drop registers as the detail word of faults 0x32 and 0x4C. -/
def dropDetail (s : State) : Nat := s.power.lrDrop0.toNat + 65536 * s.power.lrDrop1.toNat

/-- A Stabled entry is under way, or the hub sleeps or wakes (Table 04-13). -/
def sleeping (s : State) : Bool := s.power.sleep != .awake

/-- A pending host request is cancelled by the hub's own transition, and recorded as refused (R81). -/
def cancelRequest (s : State) : State :=
  if s.mode.pend && s.mode.hwCode.isNone then
    { s with mode := { s.mode with pend := false, tgt := s.mode.cur, refused := true, rfs := 6 } }
  else s

/-- A trigger of Table 04-6 for Lead-rein: the transition is due at the next boundary; during a Stabled
entry, the sleep or the wake it replaces the wake target (R81, Table 04-13). `path` are the verdict points on its way to the
mode controller (Table 03-7). -/
def leadReinBy (path : List (Nat × Bool)) (code : Byte) (s0 : State) : State :=
  let s := grants path s0
  if s.mode.cur == .reset || s.mode.cur == .leadrein then s
  else if sleeping s then { s with power := { s.power with wakeTarget := .leadrein } }
  else
    let s1 := cancelRequest s
    { s1 with mode := { s1.mode with pend := true, tgt := .leadrein, hwCode := some code } }

/-- A fault reaction "to Lead-rein": point 11, and 15 as a hardware mode trigger. -/
def toLeadRein (code : Byte) (s : State) : State := leadReinBy [(11, true), (12, false), (13, false), (15, true)] code s

/-- The 64-bit word that holds byte `a` of a memory with ECC, by its address (R97, R398; log entry 111). -/
def eccWord (a : Nat) : Nat := a / 8 * 8

/-- An uncorrectable word of the user configuration, at extended address `w` (R398): USR_OK falls, and Lead-rein follows at the
boundary. -/
def userUncorrectable (w : Nat) (s0 : State) : State :=
  let s := logFault 0x14 3 0xFFFF (eccWord w) { s0 with tack := { s0.tack with usrOk := false } }
  if s.mode.cur == .halter || s.mode.cur.records then toLeadRein 0x14 s else s

/-- ESTAT.RUN of endpoint `n` falls. -/
def clearRun (n : Nat) (s : State) : State :=
  let v := statByte (epAddr n + 0x3C) s
  setStatByte (epAddr n + 0x3C) (v - bit (nbit v 0)) s

/-- The replay stops (R383): its runs and samples go, and the hub's own time base is the one in force again. -/
def endReplay (s : State) : State :=
  if s.replay.run then
    let eps := (s.poll.lanes.filter (fun l => l.wait != .free)).map (fun l => l.ep)
      ++ (s.poll.waiting ++ s.poll.triggers ++ s.poll.aheadDone).map (fun r => r.ep)
    let t := s.time
    let s1 := eps.foldl (fun s n => clearRun n s) s
    { s1 with
      poll := { s1.poll with
        lanes := s1.poll.lanes.map (fun _ => freeLane), waiting := [], triggers := [], aheadDone := [], endedAhead := []
        served := [], pend := [], late := [] }
      time := { s.replay.clock with
        period := t.period, guard := t.guard, midLatch := t.midLatch, loLatch := t.loLatch, epstep := t.epstep }
      replay := { s1.replay with run := false, paused := false, seeking := false, lstate := 4 }
      verdicts := { s1.verdicts with forced := [] } }
  else s

/-- The reaction to a failed unit, by mode (R394). -/
def reactToFailure (code : Byte) (s : State) : State :=
  if s.mode.cur == .farrier then
    match s.op.job with
    | .replay _ => if opRuns s then opEnd 3 8 (endReplay s) else s
    | .selfTest .. => if opRuns s then opEnd 3 8 s else s
    | _ => s
  else if s.mode.cur.records || sleeping s then toLeadRein code (if sleeping s then s else parkFailed s)
  else if s.mode.cur == .leadrein then parkFailed s
  else s

/-- The units whose loss leaves only the kernel (R82). -/
def kernelUnit (u : Nat) : Bool := u == 14 || u == 16 || u == 17 || u == 18

/-- A dropped tap records no more (R364); its registers keep their last values (R164). -/
def dropTap (s : State) : State :=
  if unitFailed 22 s then { s with tap := { s.tap with recording := false } } else s

/-- Unit `u` is given up without a fault entry of its own beside `code` (R394): it is dropped, and the hub
reacts by mode. -/
def dropUnit (u : Nat) (code : Byte) (s : State) : State :=
  if unitFailed u s then s else reactToFailure code (dropTap (setDropped u s))

/-- Unit `u` fails: fault `code` (0x32 or 0x4C) with the drop registers as its detail, and the reaction
(R394). -/
def failUnit (code u island : Nat) (s : State) : State :=
  if unitFailed u s then s
  else
    let s1 := setDropped u s
    let s2 := logFault code (if kernelUnit u then 4 else 3) island (if u < 23 then dropDetail s1 else 0) s1
    reactToFailure (BitVec.ofNat 8 code) (dropTap s2)

end Sys2Proof.Machine
end

