-- ==== Sys2Proof/Machine/Pins.lean ====
section
/-! DEFINITION. The pin multiplexer (chapter 02): PM_PIN writes and their refusals, the phases of a function
change and timer capture. What drives each pin, and what it reads, stands in Levels.lean. -/

namespace Sys2Proof.Machine

/-- The function codes that Table 02-4 allows for a pin. -/
def pinAllows (i code : Nat) : Bool :=
  if i < 6 then (if i = 1 ∨ i = 4 then code == 0 || code == 1 || code == 4 else decide (code ≤ 4))
  else if i < 36 then decide (code ≤ 4)
  else if i < 48 then code == 0 || code == 1 || code == 3 || code == 4
  else if i < 52 then code == 0 || code == 1 || code == 4
  else (decide (1 ≤ code) && decide (code ≤ 7)) || code == 9 || code == 10 || (code == 8 && decide (54 ≤ i))

/-- The channel that a CAN TXD or RXD pin belongs to. -/
def canDataPin (i : Nat) : Option Chan :=
  if i = 0 ∨ i = 1 then some .a else if i = 3 ∨ i = 4 then some .b else none

/-- A change is pending on a pin: PM_PIN.CHG. -/
def PinSt.chg (p : PinSt) : Bool := p.phase != .attached

/-- FUNC_ACT as it reads: 0xF during transit (Table 02-8). -/
def PinSt.actRead (p : PinSt) : BitVec 4 := if p.phase == .transit then 0xF else p.act

/-- Two function codes on two MF pins name one extra select of one port, or one capture channel (R24). -/
def samePlace (i code j other : Nat) : Bool :=
  code == other && (if code == 9 || code == 10 then true
    else (code == 5 || code == 6 || code == 7) && (i - 52) % 4 == (j - 52) % 4)

/-- Pin `j` holds, or is about to take, the extra select or capture channel asked for pin `i` (R34); in
transit it holds none (R31). -/
def placeTaken (i code j : Nat) (s : State) : Bool :=
  let p := pinOf j s
  j != i && ((p.phase != .transit && samePlace i code j p.act.toNat) || (p.chg && samePlace i code j p.func.toNat))

/-- Why a PM_PIN write is refused: PM_REFUSE.WHY, if it is (R34, Table 02-9). Where several reasons apply, the order 1, 3, 2, 4
is the model's (DESIGN CHOICE, log entry 83). -/
def pinRefusal (i : Nat) (v : Word) (s : State) : Option Nat :=
  let p := pinOf i s
  let n := v.toNat
  if s.pins.lock && (field n 0 4 != p.func.toNat || field n 4 2 != p.pull.toNat || nbit n 8 != p.drv) then some 1
  else if !pinAllows i (field n 0 4) then some 3
  else if field n 0 4 != p.func.toNat &&
      (match canDataPin i with | some ch => (canOf ch s).state != 0 && p.act == 0 | none => false) then some 2
  else if (List.range 7).any (fun k => placeTaken i (field n 0 4) (52 + k) s) then some 4
  else none

/-- The level of a pin whose driver is off: the board's, else the one that PULL holds (Table 02-8, R303). With no pull and
nothing outside that drives it, the level is undefined: `float`. -/
def PinSt.offLevel (float : Bool) (p : PinSt) : Bool :=
  match p.ext with
  | some b => b
  | none => if p.pull = 1 then true else if p.pull = 2 then false else if p.pull = 3 then p.inp else float

/-- What a GPIO output in effect drives: push-pull its OUT, open-drain low where OUT is 0 and nothing where it is 1 (Table
02-5, R33). -/
def PinSt.gpio (p : PinSt) : Option Bool :=
  if p.phase != .transit then
    if p.act == 2 then some p.out else if p.act == 3 && !p.out then some false else none
  else none

/-- The level that a GPIO output drives is the one the pin has, and that a keeper will hold. -/
def PinSt.drive (p : PinSt) : PinSt :=
  match p.gpio with
  | some b => { p with inp := b }
  | none => p

/-- The board brings a pin to a level. -/
def PinSt.board (level : Bool) (p : PinSt) : PinSt := { p with ext := some level, inp := level }

/-- The bits of a PM_PIN write other than FUNC. -/
def PinSt.setPads (v : Word) (p : PinSt) : PinSt :=
  { p with pull := BitVec.ofNat 2 (field v.toNat 4 2), out := nbit v.toNat 6, drv := nbit v.toNat 8 }

/-- An accepted FUNC: a value other than FUNC_ACT starts a change, and one during a change replaces its
target (R31, Table 02-10). -/
def PinSt.setFunc (code : BitVec 4) (p : PinSt) : PinSt :=
  { p with func := code, phase := if p.phase == .attached && code != p.act then .quiesce else p.phase }

/-- PM_REFUSE records a refusal (Table 02-9). -/
def recordPinRefusal (i why : Nat) (s : State) : State :=
  { s with pins := { s.pins with refPin := BitVec.ofNat 6 i, refWhy := BitVec.ofNat 3 why, refValid := true } }

/-- The verdict point of a pin's function changes, a change requesting input a, the idle point b (Table 03-7). -/
def pinPoint (i : Nat) : Nat := if i < 6 then 404 else if i < 36 then 405 else if i < 52 then 406 else 407

/-- A host write of PM_PIN (R34, R35): OUT is applied under the lock, the rest of the write where FUNC is a
reserved code, nothing where a CAN pin or a place is refused. -/
def pmPinWrite (i : Nat) (v : Word) (s : State) : Reply :=
  match pinRefusal i v s with
  | none =>
    let s1 := modPin i (fun p => ((p.setPads v).setFunc (BitVec.ofNat 4 (field v.toNat 0 4))).drive) s
    wrote (if (pinOf i s1).chg && (!(pinOf i s).chg || field v.toNat 0 4 != (pinOf i s).func.toNat) then grant (pinPoint i) false s1
      else s1)
  | some why =>
    let s1 := recordPinRefusal i why s
    if why = 1 then ⟨0, true, modPin i (fun p => { p with out := nbit v.toNat 6 }.drive) s1⟩
    else if why = 3 then ⟨0, true, modPin i (fun p => (p.setPads v).drive) s1⟩
    else denied s1



/-- How many pins have a change pending: PM_CTRL.PEND. -/
def pinsPending (s : State) : Nat := (s.pins.pins.filter PinSt.chg).length



/-- The registers of Table 02-9 from 0x1180 on, as they read. -/
def pinCtrlRead (o : Nat) (s : State) : Word :=
  let cap := fun (c : CaptureSt) (k : Nat) =>
    if k = 0 then packWord [(c.edge.toNat, 0), (bit c.new, 4), (bit c.ovr, 5)]
    else if k = 2 then BitVec.ofNat 16 (c.time.toNat / 2 ^ 32)
    else if k = 4 then BitVec.ofNat 16 (c.time.toNat / 2 ^ 16)
    else if k = 6 then BitVec.ofNat 16 c.time.toNat
    else 0
  if o = 0 then packWord [(bit s.pins.lock, 0), (pinsPending s, 8)]
  else if o = 2 then packWord [(s.pins.refPin.toNat, 0), (s.pins.refWhy.toNat, 8), (bit s.pins.refValid, 15)]
  else if o = 4 then packWord [(s.pins.transit.toNat, 0)]
  else if o = 6 then packWord [(bit s.pins.epochEn, 0), (bit s.pins.epochPol, 1), (s.pins.epochWidth.toNat, 8)]
  else if 0x10 ≤ o ∧ o < 0x20 then cap s.pins.cap0 (o - 0x10)
  else if 0x20 ≤ o ∧ o < 0x30 then cap s.pins.cap1 (o - 0x20)
  else 0

/-- A write of CAPn_CFG: EDGE, and the w1c bits NEW and OVR. -/
def CaptureSt.write (v : Word) (c : CaptureSt) : CaptureSt :=
  { c with edge := BitVec.ofNat 2 v.toNat, new := c.new && !nbit v.toNat 4, ovr := c.ovr && !nbit v.toNat 5 }

/-- A host write to the registers of Table 02-9 (R9, R35). -/
def pinCtrlWrite (o : Nat) (v : Word) (s : State) : Reply :=
  let n := v.toNat
  if o = 2 then wrote { s with pins := { s.pins with refValid := s.pins.refValid && !nbit n 15 } }
  else if o = 4 then
    if s.pins.lock || field n 0 8 == 0 then denied s
    else wrote { s with pins := { s.pins with transit := BitVec.ofNat 8 n } }
  else if o = 6 then
    let s1 := { s with pins := { s.pins with epochEn := nbit n 0, epochPol := nbit n 1 } }
    if field n 8 8 = 0 then ⟨0, true, s1⟩
    else wrote { s1 with pins := { s1.pins with epochWidth := BitVec.ofNat 8 (n / 256) } }
  else if o = 0x10 then wrote { s with pins := { s.pins with cap0 := s.pins.cap0.write v } }
  else if o = 0x20 then wrote { s with pins := { s.pins with cap1 := s.pins.cap1.write v } }
  else wrote s

/-- A capture channel sees an edge (R37). -/
def CaptureSt.take (rising : Bool) (t : HubTime) (c : CaptureSt) : CaptureSt :=
  if (if rising then c.edge.getLsbD 0 else c.edge.getLsbD 1) then
    if c.new then { c with ovr := true } else { c with new := true, time := t }
  else c

/-- The MF pin that a capture channel is on. -/
def capturePin (n : Nat) (s : State) : Option Nat :=
  ((List.range 7).map (fun k => 52 + k)).find? (fun i =>
    (pinOf i s).act.toNat == 9 + n && (pinOf i s).phase == .attached)

/-- The modes in which GPIO inputs and captures are sampled (Table 02-6). -/
def pinsSampled (s : State) : Bool := s.mode.cur != .stabled && s.mode.cur != .reset

/-! ## The pin commands -/

/-- PM_PIN_WRITE (R34): a window write of PM_PIN at the window address of the pin. -/
def effPmPinWrite (i : Fin 59) (v : Word) (s : State) : State :=
  winWriteRow (0x1100 + 2 * i.val) v (pmPinWrite i.val v) s



/-- CAPTURE_EDGE (R37): the configured edge latches hub time and sets NEW and ATTN_SRC.CAP, or sets OVR; a latch of
channel 0 is a freeze trigger (R372). -/
def effCaptureEdge (n : Fin 2) (rising : Bool) (t : HubTime) (s0 : State) : State :=
  let s := advance t s0
  match capturePin n.val s with
  | none => s
  | some i =>
    if pinsSampled s && !bankOut 1 s then
      let s1 := modPin i (PinSt.board rising) s
      let old := if n.val = 0 then s1.pins.cap0 else s1.pins.cap1
      let new := old.take rising (hubNow s1)
      let s2 := { s1 with pins := if n.val = 0 then { s1.pins with cap0 := new } else { s1.pins with cap1 := new } }
      if new.new && !old.new then (if n.val = 0 then tapTrigger 5 (attend 11 s2) else attend 11 s2) else s2
    else s

/-- The meaning of PM_PIN_WRITE. -/
def execPmPinWrite (i : Fin 59) (v : Word) (s : State) : Host.Outcome State Fault Refusal := .next (effPmPinWrite i v s)

/-- The meaning of CAPTURE_EDGE. -/
def execCaptureEdge (n : Fin 2) (rising : Bool) (t : HubTime) (s : State) : Host.Outcome State Fault Refusal :=
  .next (effCaptureEdge n rising t s)

end Sys2Proof.Machine
end

