-- ==== Sys2Proof/Machine/Conditioning.lean ====
section
/-! DEFINITION. Conditioning (chapter 10): extraction, scaling, the range, rate and plausibility checks,
the filters, the conditioning state, and the express window. -/

namespace Sys2Proof.Machine

/-! ## Extraction and scaling -/

/-- A word of the conditioning set of endpoint `n` in the running configuration (Table 10-1). -/
def condWord (n o : Nat) (s : State) : Nat := runWord (condAddr n + o) s

/-- `w` bits from bit `off` of the sample buffer (R217). -/
def extractBits (be : Bool) (buf : List Byte) (off w : Nat) : Nat :=
  if be then leValue (padTo 32 buf).reverse * 2 ^ 64 / 2 ^ (320 - off - w) % 2 ^ w
  else leValue buf / 2 ^ off % 2 ^ w

/-- The value of a field from its EXT word, sign- or zero-extended; `none` when it is disabled (R217). -/
def extractField (ext : Nat) (buf : List Byte) : Option Int :=
  if nbit ext 15 then
    let w := field ext 8 5 + 1
    let v := extractBits (nbit ext 14) buf (field ext 0 8) w
    some (if nbit ext 13 then signed w v else (v : Int))
  else none

/-- FCNT: the number of leading enabled fields (R217). -/
def fieldCount (n : Nat) (s : State) : Nat :=
  (List.range 4).findIdx (fun x => !nbit (condWord n (2 * x) s) 15)

/-- Field `x`, absent when it or a field before it is disabled (R217). -/
def sampleField (n x : Nat) (buf : List Byte) (s : State) : Option Int :=
  if x < fieldCount n s then extractField (condWord n (2 * x) s) buf else none

/-- GAINx, OFFx and SHx of conditioned field `x`. -/
def gainOf (n x : Nat) (s : State) : Int := signed 16 (condWord n (8 + 4 * x) s)
/-- OFFx. -/
def offOf (n x : Nat) (s : State) : Int := signed 16 (condWord n (10 + 4 * x) s)
/-- SHx. -/
def shiftOf (n x : Nat) (s : State) : Nat := field (condWord n 0x10 s) (4 * x) 4

/-- The largest and smallest signed 32-bit values. -/
def maxLong : Int := 2 ^ 31 - 1
/-- The smallest signed 32-bit value. -/
def minLong : Int := -(2 ^ 31)

/-- Scaling with saturation (R218): the output and whether it saturated. -/
def scaleWith (gain off : Int) (sh : Nat) (v : Int) : Int × Bool :=
  if gain = 0 then (v, false)
  else
    let r := v * gain / (2 ^ sh : Int) + off
    (clamp minLong maxLong r, decide (r < minLong) || decide (maxLong < r))

/-- Field `x` scaled. -/
def scaleField (n x : Nat) (s : State) (v : Int) : Int × Bool :=
  scaleWith (gainOf n x s) (offOf n x s) (shiftOf n x s) v

/-! ## Groups and state -/

/-- The check bits of the set: RNG0, RNG1, RATE0EN, PLAUS and GROUP. -/
def chkWord (n : Nat) (s : State) : Nat := condWord n 0x12 s

/-- Endpoints `a` and `b` are members of one plausibility group (R221). -/
def sameGroup (a b : Nat) (s : State) : Bool :=
  nbit (chkWord a s) 3 && nbit (chkWord b s) 3 && field (chkWord a s) 4 4 == field (chkWord b s) 4 4

/-- The conditioning state of endpoint `n`. -/
def condOf (n : Nat) (s : State) : CondSt :=
  (s.snap.cond.find? (fun c => c.ep == n)).getD ⟨n, none, [], []⟩

/-- The list with the entry for the same endpoint replaced. -/
def putCond (c : CondSt) (l : List CondSt) : List CondSt := c :: l.filter (fun d => d.ep != c.ep)

/-- The group values of the other members of the endpoint's group that are valid for due epoch `due`: set
by a sample of that epoch or of the one before (R221). -/
def partnerValues (n due : Nat) (groups : List GroupVal) (s : State) : List Int :=
  (groups.filter (fun g => g.ep != n && sameGroup n g.ep s && (g.due == due || g.due + 1 == due))).map
    (fun g => g.value)

/-- The conditioning state of every endpoint is reset (R224). -/
def resetCond (s : State) : State := { s with snap := { s.snap with cond := [], groups := [] } }

/-- The conditioning state of one endpoint is reset (R224). -/
def resetCondOf (n : Nat) (s : State) : State :=
  { s with snap := { s.snap with
    cond := s.snap.cond.filter (fun c => c.ep != n), groups := s.snap.groups.filter (fun g => g.ep != n) } }

/-- Every express window becomes stale (R53). -/
def staleWindows (s : State) : State := { s with snap := { s.snap with wins := [], own := [] } }

/-- One endpoint's express window becomes stale until its first conditioned sample. -/
def staleWindow (n : Nat) (s : State) : State :=
  { s with snap := { s.snap with wins := s.snap.wins.filter (fun w => w.ep != n), own := s.snap.own.filter (fun m => m != n) } }

/-! ## Filters -/

/-- The median of three values. -/
def median3 (a b c : Int) : Int := max (min a b) (min (max a b) c)

/-- One filter stage: its history (the output for kind 1, the inputs, newest first, for kinds 2 and 3) and
its input give its output and its new history; an empty history fills with the input (R223). -/
def filterStage (kind alpha : Nat) (h : List Int) (x : Int) : Int × List Int :=
  if kind = 1 then
    let y := h.headD x
    let r := y + (x - y) / (2 ^ alpha : Int)
    (r, [r])
  else
    let k := if kind = 2 then 4 else 3
    let l := (x :: (if h.isEmpty then List.replicate k x else h)).take k
    (if kind = 2 then (l.foldl (· + ·) 0) / 4 else median3 (l.getD 0 x) (l.getD 1 x) (l.getD 2 x), l)

/-- The cascade of stages. -/
def filterChain (kind alpha : Nat) : List (List Int) → Int → Int × List (List Int)
  | [], x => (x, [])
  | h :: hs, x =>
    let p := filterStage kind alpha h x
    let q := filterChain kind alpha hs p.1
    (q.1, p.2 :: q.2)

/-- ALPHA, where 0 acts as 1 (Table 10-1). -/
def alphaOf (f : Nat) : Nat := if field f 4 3 = 0 then 1 else field f 4 3

/-! ## Conditioning a sample -/

/-- What conditioning hands to the staging writer. -/
structure CondOut where
  vals : List Long
  fcnt : Nat
  qual : Nat
  fq : List Nat
  passed : Bool

/-- The range check of field `x`: RLO and RHI (R219). -/
def rangeFlags (n x : Nat) (out : Option Int) (s : State) : Nat :=
  match out with
  | none => 0
  | some o =>
    if nbit (chkWord n s) x then
      bit (decide (o < signed 16 (condWord n (0x14 + 4 * x) s)))
        + 2 * bit (decide (signed 16 (condWord n (0x16 + 4 * x) s) < o))
    else 0

/-- The rate check of field 0 for a sample of due epoch `due`: FINIT, REBASE, failed (R220). -/
def rateCheck (n due : Nat) (out : Option Int) (s : State) : Bool × Bool × Bool :=
  match out with
  | none => (false, false, false)
  | some o =>
    if nbit (chkWord n s) 2 then
      match (condOf n s).ref with
      | none => (true, false, false)
      | some r =>
        let p := 2 ^ (descOf (running s) n).k
        let m := max 1 ((due - r.2 + p - 1) / p)
        if m > 16 then (false, true, false)
        else (false, false, decide ((condWord n 0x1C s * m : Nat) < (o - r.1).natAbs))
    else (false, false, false)

/-- The plausibility check of field 0: PSOLO, failed (R221). -/
def plausCheck (n due : Nat) (groups : List GroupVal) (out : Option Int) (s : State) : Bool × Bool :=
  match out with
  | none => (false, false)
  | some o =>
    if nbit (chkWord n s) 3 then
      match partnerValues n due groups s with
      | [] => (true, false)
      | ws => (false, ws.any (fun w => decide (condWord n 0x1E s < (o - w).natAbs)))
    else (false, false)

/-- A sample is conditioned in the order of R216: the result, and the state with the filters, the rate
reference and the group value advanced where the sample passed. -/
def conditionSample (p : PendSample) (s : State) : CondOut × State :=
  let n := p.ep
  let e0 := (sampleField n 0 p.buf s).map (scaleField n 0 s)
  let e1 := (sampleField n 1 p.buf s).map (scaleField n 1 s)
  let o0 := e0.map Prod.fst
  let o1 := e1.map Prod.fst
  let r0 := rangeFlags n 0 o0 s
  let r1 := rangeFlags n 1 o1 s
  let rate := rateCheck n p.due o0 s
  let pl := plausCheck n p.due p.groups o0 s
  let passed := r0 == 0 && r1 == 0 && !rate.2.2 && !pl.2
  let f := condWord n 0x10 s / 256
  let kind := field f 0 2
  let stg := field f 2 2
  let cfgBad := (kind == 0) != (stg == 0)
  let c := condOf n s
  let run := passed && kind != 0 && stg != 0
  let f0 := o0.filter (fun _ => run)
  let f1 := o1.filter (fun _ => run && nbit f 7)
  let h0 := if c.hist0.length = stg then c.hist0 else List.replicate stg []
  let h1 := if c.hist1.length = stg then c.hist1 else List.replicate stg []
  let g0 := f0.map (filterChain kind (alphaOf f) h0)
  let g1 := f1.map (filterChain kind (alphaOf f) h1)
  let started := (f0.isSome && h0.any List.isEmpty) || (f1.isSome && h1.any List.isEmpty)
  let v0 := (g0.map Prod.fst).getD (o0.getD 0)
  let v1 := (g1.map Prod.fst).getD (o1.getD 0)
  let sat := fun (e : Option (Int × Bool)) => 16 * bit (match e with | some e => e.2 | none => false)
  let out : CondOut :=
    { vals := [long v0, long v1, long ((sampleField n 2 p.buf s).getD 0), long ((sampleField n 3 p.buf s).getD 0)]
      fcnt := fieldCount n s
      qual := 32 * bit (r0 != 0 || r1 != 0) + 64 * bit rate.2.2 + 128 * bit pl.2 + 256 * bit pl.1
        + 512 * bit rate.2.1 + 1024 * bit (rate.1 || started) + 16384 * bit cfgBad
      fq := [r0 + 4 * bit rate.2.2 + 8 * bit pl.2 + sat e0 + 32 * bit f0.isSome, r1 + sat e1 + 32 * bit f1.isSome, 0, 0]
      passed := passed }
  if passed then
    let c' : CondSt :=
      { ep := n
        ref := match o0 with | some o => some (o, p.due) | none => c.ref
        hist0 := (g0.map Prod.snd).getD c.hist0
        hist1 := (g1.map Prod.snd).getD c.hist1 }
    let groups := match o0 with
      | some o => if nbit (chkWord n s) 3 then ⟨n, o, p.due⟩ :: s.snap.groups.filter (fun g => g.ep != n) else s.snap.groups
      | none => s.snap.groups
    (out, { s with snap := { s.snap with cond := putCond c' s.snap.cond, groups := groups } })
  else (out, s)

/-! ## The express window -/

/-- The intersection of two intervals. -/
def meetInterval (a b : Int × Int) : Int × Int := (max a.1 b.1, min a.2 b.2)

/-- The raw range of a field from its EXT word. -/
def rawRange (ext : Nat) : Int × Int :=
  let w := field ext 8 5 + 1
  if nbit ext 13 then (-(2 ^ (w - 1) : Int), 2 ^ (w - 1) - 1) else (0, 2 ^ w - 1)

/-- The outputs that pass the checks of field `x` for due epoch `due` (R225). -/
def passInterval (n x due : Nat) (s : State) : Int × Int :=
  let chk := chkWord n s
  let all : Int × Int := (-(2 ^ 40 : Int), 2 ^ 40)
  let i1 := if nbit chk x then meetInterval all
      (signed 16 (condWord n (0x14 + 4 * x) s), signed 16 (condWord n (0x16 + 4 * x) s)) else all
  if x = 0 then
    let i2 := if nbit chk 2 then
        (match (condOf n s).ref with
         | some r => meetInterval i1 (r.1 - (condWord n 0x1C s : Int), r.1 + (condWord n 0x1C s : Int))
         | none => i1)
      else i1
    if nbit chk 3 then
      (partnerValues n due s.snap.groups s).foldl
        (fun i w => meetInterval i (w - (condWord n 0x1E s : Int), w + (condWord n 0x1E s : Int))) i2
    else i2
  else i1

/-- A bound of the window lies where the scaling saturates (R225). -/
def windowSaturates (n x : Nat) (i : Int × Int) (s : State) : Bool :=
  let r := rawRange (condWord n (2 * x) s)
  let a := scaleField n x s r.1
  let b := scaleField n x s r.2
  (a.2 && decide (i.1 ≤ a.1) && decide (a.1 ≤ i.2)) || (b.2 && decide (i.1 ≤ b.1) && decide (b.1 ≤ i.2))

/-- The express window of endpoint `n` for its next due epoch, or none where it is left stale (R225). -/
def buildWindow (n : Nat) (s : State) : Option ExprWin :=
  match (condOf n s).ref with
  | none => none
  | some r =>
    let due := r.2 + 2 ^ (descOf (running s) n).k
    let i0 := passInterval n 0 due s
    let i1 := passInterval n 1 due s
    let on0 := decide (0 < fieldCount n s)
    let on1 := decide (1 < fieldCount n s)
    if (on0 && windowSaturates n 0 i0 s) || (on1 && windowSaturates n 1 i1 s) then none
    else some ⟨n, due, if on0 then some i0 else none, if on1 then some i1 else none⟩

/-- Whether endpoint `n` takes part in the express path (R203, R226). -/
def isExpress (n : Nat) (s : State) : Bool :=
  nbit (cfgByte (running s) (epAddr n)) 2 && epPort (running s) n != 0xE

/-- The window of one endpoint is rebuilt. -/
def renewWindow (n : Nat) (s : State) : State :=
  let rest := s.snap.wins.filter (fun w => w.ep != n)
  { s with snap := { s.snap with wins := (match buildWindow n s with | some w => w :: rest | none => rest) } }

/-- After a conditioned sample of endpoint `n`, the windows of the endpoint and of the members of its
group that had a conditioned sample are rebuilt (R53, R225). -/
def renewWindows (n : Nat) (s0 : State) : State :=
  let s := { s0 with snap := { s0.snap with own := insertOnce n s0.snap.own } }
  s.snap.own.foldl (fun s m => if (m == n || sameGroup n m s) && isExpress m s then renewWindow m s else s) s

/-- A field of a sample lies inside its interval. -/
def insideField (n x : Nat) (buf : List Byte) (i : Option (Int × Int)) (s : State) : Bool :=
  match i with
  | none => true
  | some i =>
    match sampleField n x buf s with
    | none => false
    | some v => decide (i.1 ≤ (scaleField n x s v).1) && decide ((scaleField n x s v).1 ≤ i.2)

/-- A sample takes the direct route: a current window, built for its due epoch, that all its conditioned
fields lie in (R51, R53). -/
def directRoute (p : PendSample) (s : State) : Bool :=
  match p.win with
  | none => false
  | some w => w.due == p.due && insideField p.ep 0 p.buf w.f0 s && insideField p.ep 1 p.buf w.f1 s

/-- The express path runs (Table 01-4, R82, R226). -/
def expressOn (s : State) : Bool :=
  (s.mode.cur.polls || s.mode.cur == .farrier) && !s.snap.xoff && !unitFailed 15 s && !kernelOnly s

end Sys2Proof.Machine
end

