-- ==== Sys2Proof/Machine/Snapshots.lean ====
section
/-! DEFINITION. The snapshot banks (chapter 10): staging writes, the early store, the forward fill, the
commit with its header, skips, pins and the bank CRC. -/

namespace Sys2Proof.Machine

/-! ## Banks -/

/-- The bank with a selector code: 1 A, 2 B, 3 C. -/
def bankOf (b : Nat) (s : State) : Bank :=
  if b = 1 then s.snap.bankA else if b = 2 then s.snap.bankB else if b = 3 then s.snap.bankC else zeroBank

/-- The state with a bank changed. -/
def modBank (b : Nat) (f : Bank → Bank) (s : State) : State :=
  if b = 1 then { s with snap := { s.snap with bankA := f s.snap.bankA } }
  else if b = 2 then { s with snap := { s.snap with bankB := f s.snap.bankB } }
  else if b = 3 then { s with snap := { s.snap with bankC := f s.snap.bankC } }
  else s

/-- Slot `n` of a bank. -/
def slotOf (b n : Nat) (s : State) : Slot := (bankOf b s).slots.getD n zeroSlot

/-- Slot `n` of a bank set. -/
def putSlot (b n : Nat) (x : Slot) (s : State) : State := modBank b (fun k => { k with slots := k.slots.set n x }) s

/-- The codes of the staging, newest and pinned banks. -/
def stagingBank (s : State) : Nat := s.snap.staging.toNat
/-- The newest bank. -/
def newestBank (s : State) : Nat := s.snap.newest.toNat
/-- The pinned bank. -/
def pinnedBank (s : State) : Nat := s.snap.pinned.toNat

/-- INACT: the endpoint is not due in the running mode and configuration (R229). -/
def inactive (n : Nat) (s : State) : Bool :=
  let c := cfgByte (running s) (epAddr n)
  !nbit c 0 || nbit (statByte (epAddr n + 0x3C) s) 2 || (actMode s == .walk && !nbit c 1)
    || (s.mode.cur == .leadrein && portDropped (epPort (running s) n) s)

/-- The slot of endpoint `n` as it was last committed. Through Stabled, which retains no bank, bank A keeps its sample hub time
for R16 (log entry 86). -/
def lastSlot (n : Nat) (s : State) : Slot := slotOf (if newestBank s = 0 then 1 else newestBank s) n s

/-- The first-commit content of a slot (R232), which lists VALUES, AGE, ALIVE and QUAL: SHT, FCNT and FQ stay as they were in
the slot `x` before, so that SHT never falls (R16; DESIGN CHOICE, log entry 86). -/
def firstSlot (n : Nat) (x : Slot) (s : State) : Slot :=
  { x with
    v0 := 0, v1 := 0, v2 := 0, v3 := 0, age := 0xFFFF, alive := 0, qual := packWord [(1, 3), (bit (inactive n s), 4)] }

/-- A slot copied forward: AGE + 1, FRESH, LATE and XP cleared, STALE and INACT set anew (R229). -/
def agedSlot (n : Nat) (x : Slot) (s : State) : Slot :=
  let age := satAdd 0xFFFF x.age.toNat 1
  { x with
    age := BitVec.ofNat 16 age
    qual := (x.qual &&& 0xDFE8) ||| packWord
      [(bit (s.snap.ageLimit != 0 && decide (s.snap.ageLimit.toNat < age)), 2), (bit (inactive n s), 4)] }

/-- A sample in a slot whose previous content had this ALIVE count (Table 10-3). -/
def withAlive (x : Slot) (alive : Byte) : Slot := { x with alive := alive + 1, age := 0 }

/-- QUAL.MISS set. -/
def Slot.missed (x : Slot) : Slot := { x with qual := setBit x.qual 11 }

/-- What the forward fill writes to slot `n` of the staging bank (R229, R232): the early-store entry where
there is one, else the first-commit content or the aged copy of the newest bank's slot. -/
def fillSlot (n : Nat) (s : State) : Slot :=
  let fresh := s.snap.first || s.snap.fresh1.contains n || newestBank s == 0
  let last := lastSlot n s
  let base := if fresh then firstSlot n last s else agedSlot n last s
  match lookupNat n s.snap.early with
  | some e => withAlive e base.alive
  | none => if s.snap.missNext.contains n then base.missed else base

/-- The content of slot `n` of the epoch being staged, as far as the fill has come. -/
def stagedSlot (n : Nat) (s : State) : Slot :=
  if s.snap.fill && !s.snap.written.contains n then fillSlot n s else slotOf (stagingBank s) n s

/-- The forward fill's accesses at points 158 and 159: the slots it writes, and the early-store entries it reads (Table 03-7). -/
def fillGrants (s : State) : List (Nat × Bool) :=
  ((List.range 256).filter (fun n => !s.snap.written.contains n)).map (fun _ => (158, false))
    ++ s.snap.early.map (fun _ => (159, true))

/-- The forward fill ends: every slot not written since the commit is filled, and the early store is empty
(R229). -/
def finishFill (s : State) : State :=
  if s.snap.fill then
    let slots := (List.range 256).map (fun n => stagedSlot n s)
    let s1 := modBank (stagingBank s) (fun k => { k with slots := slots }) (grants (fillGrants s) s)
    { s1 with snap := { s1.snap with
      fill := false, early := [], written := [], fresh0 := s1.snap.fresh1, fresh1 := [], missNext := [] } }
  else s

/-- Staging starts afresh: the first epoch to commit after a reset, a wake or an entry from Halter (R232).
Before the first commit the staging bank is bank A (R228). -/
def beginStaging (s : State) : State :=
  let b : BitVec 2 := if s.snap.staging = 0 then 1 else s.snap.staging
  let s1 := { s with snap := { s.snap with
    staging := b, first := true, firstNext := false, fill := false, early := [], written := [], fresh0 := [], fresh1 := []
    missNext := [] } }
  modBank b.toNat (fun k => { k with slots := (List.range 256).map (fun n => firstSlot n (lastSlot n s) s1) }) s1

/-! ## Staging writes -/

/-- A conditioned sample as a slot, before its ALIVE count. -/
def sampleSlot (p : PendSample) (c : CondOut) (xp late : Bool) : Slot :=
  { v0 := c.vals.getD 0 0, v1 := c.vals.getD 1 0, v2 := c.vals.getD 2 0, v3 := c.vals.getD 3 0
    sht := p.ht, age := 0, alive := 0, fcnt := BitVec.ofNat 3 c.fcnt
    qual := BitVec.ofNat 16 (c.qual + 1 + 2 * bit late + 4096 * bit p.lead + 8192 * bit xp)
    fq0 := BitVec.ofNat 8 (c.fq.getD 0 0), fq1 := BitVec.ofNat 8 (c.fq.getD 1 0), fq2 := 0, fq3 := 0 }

/-- A slot of the staging bank written; while the forward fill runs it leaves that slot alone (R229). -/
def setStaging (n : Nat) (x : Slot) (s : State) : State :=
  let s1 := putSlot (stagingBank s) n x s
  if s.snap.fill then { s1 with snap := { s1.snap with written := insertOnce n s1.snap.written } } else s1

/-- A sample written to the staging slot of its endpoint (points 154 and 158). -/
def writeStaging (n : Nat) (x : Slot) (s : State) : State :=
  grants [(154, false), (158, true)] (setStaging n (withAlive x (stagedSlot n s).alive) s)

/-- R227: where a sample with due epoch `p.due` goes, given the epoch being staged. -/
def stageSample (p : PendSample) (c : CondOut) (xp : Bool) (s : State) : State :=
  match stagedIx s with
  | none => { s with snap := { s.snap with lateDrop := true } }
  | some ix =>
    if unitFailed 17 s then s
    else if p.due = ix then writeStaging p.ep (sampleSlot p c xp false) s
    else if ix < p.due then
      grant 159 false { s with snap := { s.snap with early := insertNat p.ep (sampleSlot p c xp false) s.snap.early } }
    else if s.snap.droplate then { s with snap := { s.snap with lateDrop := true } }
    else writeStaging p.ep (sampleSlot p c xp true) s

/-- A due run of endpoint `n` ended without a sample: QUAL.MISS (Table 10-5). -/
def markMiss (n due : Nat) (s : State) : State :=
  match stagedIx s with
  | none => s
  | some ix =>
    if due ≤ ix then
      if s.snap.fill && !s.snap.written.contains n then
        { s with snap := { s.snap with missNext := insertOnce n s.snap.missNext } }
      else putSlot (stagingBank s) n (slotOf (stagingBank s) n s).missed s
    else { s with snap := { s.snap with missNext := insertOnce n s.snap.missNext } }

/-- ENDPOINT_COMMIT gives the endpoint's slot the first-commit content: in the staging bank at once, or at
the forward fill of the epoch that has ended (R232). -/
def freshSlot (n : Nat) (atFill : Bool) (s : State) : State :=
  if atFill then { s with snap := { s.snap with fresh1 := insertOnce n s.snap.fresh1 } }
  else if stagingBank s = 0 then s
  else
    let s1 := setStaging n (firstSlot n (stagedSlot n s) s) s
    { s1 with snap := { s1.snap with fresh0 := insertOnce n s1.snap.fresh0 } }

/-- The value that GET copies: field `f` of the endpoint's staged sample, early store included (R193). -/
def stagedField (n f : Nat) (s : State) : Long :=
  let x := match lookupNat n s.snap.early with | some e => e | none => stagedSlot n s
  if f = 0 then x.v0 else if f = 1 then x.v1 else if f = 2 then x.v2 else x.v3

/-! ## The bytes of a bank (Tables 10-2, 10-3) -/

/-- The 32 bytes of a slot. -/
def slotBytes (x : Slot) : List Byte :=
  leBytes 4 x.v0.toNat ++ leBytes 4 x.v1.toNat ++ leBytes 4 x.v2.toNat ++ leBytes 4 x.v3.toNat
    ++ leBytes 6 x.sht.toNat ++ leBytes 2 x.age.toNat ++ [x.alive, BitVec.ofNat 8 x.fcnt.toNat]
    ++ leBytes 2 x.qual.toNat ++ [x.fq0, x.fq1, x.fq2, x.fq3]

/-- How many slots have one of the QUAL bits of a mask. -/
def countQual (mask : Word) (slots : List Slot) : Nat := (slots.filter (fun x => x.qual &&& mask != 0)).length

/-- Eight truth values as a byte, the first in bit 0. -/
def packBits : List Bool → Nat
  | [] => 0
  | b :: bs => bit b + 2 * packBits bs

/-- The map of slots with one of the QUAL bits of a mask: bit n of byte n / 8. -/
def qualMap (mask : Word) (slots : List Slot) : List Byte :=
  (List.range 32).map (fun i =>
    BitVec.ofNat 8 (packBits ((List.range 8).map (fun j => (slots.getD (8 * i + j) zeroSlot).qual &&& mask != 0))))

/-- The bytes 0x000 to 0x1FF of a bank. -/
def hdrBytes (k : Bank) : List Byte :=
  let h := k.hdr
  leBytes 4 h.epoch.toNat ++ leBytes 2 h.flags.toNat ++ leBytes 2 h.skip.toNat ++ leBytes 6 h.startHt.toNat
    ++ [h.guard, 0] ++ leBytes 6 h.endHt.toNat ++ [0, 0] ++ leBytes 6 h.cutoffHt.toNat ++ [0, 0]
    ++ leBytes 6 h.commitHt.toNat ++ [0, 0] ++ leBytes 4 h.byCount.toNat ++ leBytes 2 h.byOff.toNat ++ [0, 0]
    ++ leBytes 2 (countQual 0x0001 k.slots) ++ leBytes 2 (countQual 0x00E0 k.slots)
    ++ leBytes 2 (countQual 0x0004 k.slots) ++ leBytes 2 (countQual 0x0002 k.slots)
    ++ leBytes 2 (countQual 0x0008 k.slots) ++ leBytes 2 (countQual 0x0800 k.slots) ++ [0, 0, 0, 0]
    ++ qualMap 0x0001 k.slots ++ qualMap 0x00E0 k.slots ++ qualMap 0x0004 k.slots ++ padTo 16 (h.grp.take 16)
    ++ List.replicate 328 0 ++ leBytes 2 h.crcv.toNat ++ [0, 0] ++ leBytes 4 h.crc.toNat

/-- The 8704 bytes of a bank. -/
def bankBytes (k : Bank) : List Byte := hdrBytes k ++ k.slots.flatMap slotBytes

/-- The CRC of a bank over 0x000 to 0x1F7 and 0x200 to 0x21FF (R230). -/
def bankCrc (k : Bank) : Long := crc32 ((hdrBytes k).take 0x1F8 ++ k.slots.flatMap slotBytes)

/-! ## Commit -/

/-- Byte g of GRP (Table 10-2). -/
def grpByte (g : Nat) (slots : List Slot) (s : State) : Byte :=
  let members := (List.range 256).filter (fun n =>
    epActive (running s) n && nbit (chkWord n s) 3 && field (chkWord n s) 4 4 == g)
  let has := fun (m : Word) => members.any (fun n => (slots.getD n zeroSlot).qual &&& m == m)
  BitVec.ofNat 8 (bit (!members.isEmpty) + 2 * bit (has 0x0081) + 4 * bit (has 0x0101))

/-- The header of the snapshot of an ended epoch (Table 10-2). -/
def commitHeader (e : EndedEpoch) (slots : List Slot) (s : State) : BankHdr :=
  { epoch := BitVec.ofNat 32 (epochNumber e.ix s)
    flags := packWord [(e.mode.code, 0), (s.tack.sel.toNat, 4), (bit (s.mode.cur == .leadrein), 6), (bit s.boryel.lock, 7),
      (bit s.snap.first, 8), (bit e.clipped, 9)]
    skip := s.snap.skips
    startHt := e.startHt
    guard := BitVec.ofNat 8 e.guard
    endHt := e.endHt
    cutoffHt := e.cutoff
    commitHt := e.cutoff + 1
    byCount := e.byCount
    byOff := if s.boryel.lock then s.boryel.offset else 0
    grp := (List.range 16).map (fun g => grpByte g slots s)
    crcv := if s.snap.nocrc then 2 else 0
    crc := 0 }

/-- The bank that becomes staging: of the banks neither newest nor pinned, the one with the oldest committed
snapshot; one without any counts as oldest, the lower letter first (R228). -/
def nextStaging (newest pinned : Nat) (s : State) : Nat :=
  let age := fun b => match (bankOf b s).order with | none => 0 | some k => k + 1
  let pick := fun (best b : Nat) =>
    if b = newest ∨ b = pinned then best else if best = 0 ∨ age b < age best then b else best
  pick (pick (pick 0 1) 2) 3

/-- The pin is released (R234, R235). -/
def releasePin (s : State) : State := { s with snap := { s.snap with pinned := 0, pinCommits := 0 } }

/-- The pin expires: PIN_LOST is reported (R235). -/
def expirePin (s : State) : State :=
  if s.snap.pinned = 0 then s
  else
    let s1 := releasePin s
    grants [(156, false), (157, true), (161, true), (21, true)] (attend 14 { s1 with snap := { s1.snap with pinLost := true } })

/-- An epoch marker record (type 0x06). -/
def recEpoch (mode crcv clipped skipped : Nat) (guard : Byte) (skip : Word) (number crc : Nat) (cutoff : HubTime)
    (s : State) : State :=
  tapAppend 6 0 ([BitVec.ofNat 8 (mode + 16 * crcv + 32 * clipped + 64 * skipped), guard] ++ leBytes 2 skip.toNat
    ++ leBytes 4 number ++ leBytes 4 crc ++ leBytes 6 cutoff.toNat) s

/-- The epoch marker of a committed bank. -/
def recCommitted (k : Bank) (crcv : Nat) (s : State) : State :=
  recEpoch (field k.hdr.flags.toNat 0 4) crcv (bit (k.hdr.flags.getLsbD 9)) 0 k.hdr.guard k.hdr.skip k.hdr.epoch.toNat
    (if crcv = 1 then k.hdr.crc.toNat else 0) k.hdr.cutoffHt s

/-- After the epoch marker of a commit, a triggered tap counts down to its freeze (R372). -/
def countPost (s : State) : State :=
  if s.tap.recording && s.tap.trigd then
    if s.tap.postLeft ≤ 1 then freeze s.tap.fcause s
    else { s with tap := { s.tap with postLeft := s.tap.postLeft - 1 } }
  else s

/-- The commit of an ended epoch, as one step (R228): the staging bank becomes newest, the roles rotate, a
pin without a time limit counts its commits, and the forward fill begins. -/
def commitBank (e : EndedEpoch) (s0 : State) : State :=
  let s := finishFill s0
  let b := stagingBank s
  let slots := (bankOf b s).slots
  let s1 := modBank b (fun k => { k with hdr := commitHeader e slots s, order := some s.snap.commits }) s
  let s2 := { s1 with snap := { s1.snap with
    newest := s1.snap.staging
    staging := BitVec.ofNat 2 (nextStaging b (pinnedBank s1) s1)
    commits := s1.snap.commits + 1
    new := true
    skipSeen := s1.snap.skipSeen || s1.snap.skips != 0
    skips := 0
    gclip := e.clipped
    epoch := BitVec.ofNat 32 (epochNumber e.ix s)
    fill := true
    written := []
    first := s1.snap.firstNext
    firstNext := false } }
  let s3 := grants [(154, true), (155, true), (156, true), (160, true), (162, true), (164, true), (21, true)]
    (attend 1 { s2 with time := { s2.time with ended := none }, fault := { s2.fault with snapUncRun := 0 } })
  let s4 := if s3.snap.nocrc then countPost (recCommitted (bankOf b s3) 0 s3) else s3
  if s4.snap.pinned != 0 && s4.snap.pinTmo == 0 then
    if s4.snap.pinCommits + 1 ≥ 2 then expirePin s4
    else { s4 with snap := { s4.snap with pinCommits := s4.snap.pinCommits + 1 } }
  else s4

/-- Slot `n` of the staging bank for the epoch after a skipped one (R233): a staged sample is discarded, and the slot is filled
from the newest bank as R229 and R232 have it (log entry 90). MISS stays where the slot had it, unless a sample that is now
discarded has ended it (Table 10-5). -/
def restaged (n : Nat) (s : State) : Slot :=
  let x := slotOf (stagingBank s) n s
  let last := lastSlot n s
  let fresh := s.snap.first || s.snap.firstNext || s.snap.fresh0.contains n || s.snap.fresh1.contains n || newestBank s == 0
  let base0 := if fresh then firstSlot n last s else agedSlot n last s
  let base := { base0 with qual := (base0.qual &&& 0xF7FF) ||| packWord [(bit (x.qual.getLsbD 11 && !x.qual.getLsbD 0), 11)] }
  match lookupNat n s.snap.early with
  | some e => withAlive e base.alive
  | none => if s.snap.missNext.contains n then base.missed else base

/-- An epoch is skipped: its staged samples are discarded and its number passes on; the next header counts
it (R233). -/
def skipEpoch (e : EndedEpoch) (s0 : State) : State :=
  let s := grants [(162, false), (21, true)] (finishFill s0)
  let number := epochNumber e.ix s
  let slots := (List.range 256).map (fun n => restaged n s)
  let s1 := modBank (stagingBank s) (fun k => { k with slots := slots }) { s with
    time := { s.time with ended := none, skipped := s.time.skipped + 1 }
    snap := { s.snap with
      skips := BitVec.ofNat 16 (satAdd 0xFFFF s.snap.skips.toNat 1), gclip := e.clipped
      early := [], fresh0 := s.snap.fresh0 ++ s.snap.fresh1, fresh1 := [], missNext := []
      first := s.snap.first || s.snap.firstNext, firstNext := false } }
  recEpoch e.mode.code 0 (bit e.clipped) 1 (BitVec.ofNat 8 e.guard) s.snap.skips number 0 e.cutoff s1

/-- Three skipped epochs in a row for an uncorrectable staging word fail the snapshot unit (R398). -/
def snapUncorrectable (off : Nat) (s : State) : State :=
  let det := eccWord off + stagingBank s * 2 ^ 28
  let s1 := logFault 0x3A 1 112 det { s with fault := { s.fault with snapUncRun := s.fault.snapUncRun + 1 } }
  if s1.fault.snapUncRun = 3 then dropUnit 17 0x3B (logFault 0x3B 4 112 det s1) else s1

/-! ## Bank reads -/

/-- The 16-bit word at offset `o` of a bank, `none` while it is staging (R231). -/
def bankWord (b o : Nat) (s : State) : Option Word :=
  if b = 0 ∨ b = stagingBank s then none
  else
    let k := bankOf b s
    let bytes := if o < 0x200 then hdrBytes k else slotBytes (k.slots.getD ((o - 0x200) / 32) zeroSlot)
    let i := if o < 0x200 then o else (o - 0x200) % 32
    some (BitVec.ofNat 16 ((bytes.getD i 0).toNat + 256 * (bytes.getD (i + 1) 0).toNat))

/-! ## The snapshot registers -/

/-- SNAP_STAT (Table 10-7). -/
def snapStat (s : State) : Word :=
  packWord [(bit s.snap.new, 0), (newestBank s, 1), (stagingBank s, 3),
    (bit ((bankOf (newestBank s) s).hdr.crcv == 1), 5), (bit s.snap.skipSeen, 6), (bit s.snap.gclip, 7),
    (bit s.snap.fill, 8), (bit s.snap.lateDrop, 9)]

/-- SNAP_PIN (Table 10-7). -/
def snapPin (s : State) : Word :=
  packWord [(bit (s.snap.pinned != 0), 0), (bit s.snap.pinLost, 1), (pinnedBank s, 2), (s.snap.pinTmo.toNat, 8)]

/-- A write of SNAP_PIN (R234): TMO and the w1c bit LOST; PIN = 1 pins the newest bank, PIN = 0 releases. -/
def snapPinWrite (v : Word) (s0 : State) : Reply :=
  let n := v.toNat
  let s := grants [(155, false), (157, false), (161, true), (163, true)]
    { s0 with snap := { s0.snap with pinTmo := BitVec.ofNat 8 (n / 256), pinLost := s0.snap.pinLost && !nbit n 1 } }
  if nbit n 0 then
    if s.snap.newest = 0 then denied s
    else wrote { s with snap := { s.snap with pinned := s.snap.newest, pinCommits := 0, pinAt := s.time.now, new := false } }
  else wrote (releasePin s)

/-! ## Commands -/

/-- FORWARD_FILL_END (R229). -/
def effForwardFillEnd (s : State) : State := finishFill s

/-- BANK_CRC_WRITTEN (R230): the CRC of the newest bank is written and CRCV set; the epoch marker follows. -/
def effBankCrcWritten (s : State) : State :=
  let b := newestBank s
  if b = 0 ∨ (bankOf b s).hdr.crcv ≠ 0 then s
  else
    let s1 := modBank b (fun k => { k with hdr := { k.hdr with crc := bankCrc k, crcv := 1 } }) s
    countPost (recCommitted (bankOf b s1) 1 s1)

/-- SNAP_PIN_SET (R234): a write of SNAP_PIN with PIN = 1. -/
def effSnapPinSet (tmo : Byte) (clearLost : Bool) (s : State) : State :=
  let v := packWord [(1, 0), (bit clearLost, 1), (tmo.toNat, 8)]
  writeRow 0x1C v (snapPinWrite v) s

/-- SNAP_PIN_RELEASE (R234): a write of SNAP_PIN with PIN = 0. -/
def effSnapPinRelease (tmo : Byte) (clearLost : Bool) (s : State) : State :=
  let v := packWord [(bit clearLost, 1), (tmo.toNat, 8)]
  writeRow 0x1C v (snapPinWrite v) s

/-- SNAP_PIN_EXPIRY (R235): the pin's time has passed. -/
def effSnapPinExpiry (s : State) : State := if s.snap.pinTmo = 0 then s else expirePin s

/-- The meaning of FORWARD_FILL_END. -/
def execForwardFillEnd (s : State) : Host.Outcome State Fault Refusal := .next (effForwardFillEnd s)
/-- The meaning of BANK_CRC_WRITTEN. -/
def execBankCrcWritten (s : State) : Host.Outcome State Fault Refusal := .next (effBankCrcWritten s)
/-- The meaning of SNAP_PIN_SET. -/
def execSnapPinSet (tmo : Byte) (clearLost : Bool) (s : State) : Host.Outcome State Fault Refusal :=
  .next (effSnapPinSet tmo clearLost s)
/-- The meaning of SNAP_PIN_RELEASE. -/
def execSnapPinRelease (tmo : Byte) (clearLost : Bool) (s : State) : Host.Outcome State Fault Refusal :=
  .next (effSnapPinRelease tmo clearLost s)
/-- The meaning of SNAP_PIN_EXPIRY. -/
def execSnapPinExpiry (s : State) : Host.Outcome State Fault Refusal := .next (effSnapPinExpiry s)

end Sys2Proof.Machine
end

