-- ==== Sys2Proof/Machine/Wire.lean ====
section
/-! DEFINITION. Controller transactions on the S and I ports (chapters 13 and 14): selects and their pins,
the bytes a step sends, safety frames, and what the end of a transaction counts. -/

namespace Sys2Proof.Machine

/-! ## S port selects -/

/-- The block of select `sel` of S port `p` (Table 13-8). -/
def selBlock (p sel : Nat) : Nat := portBlock (2 + p) + 0x40 + 16 * sel

/-- A pin carries function `code`: its change, if one is pending, has not reached transit (R31). -/
def pinCarries (i code : Nat) (s : State) : Bool :=
  (pinOf i s).act.toNat == code && (pinOf i s).phase != .transit

/-- The pin of select `sel` of S port `p`: a primary pin for selects 0 to 3, an MF pin for 4 to 7 (R23, Table 02-5). -/
def selectPin (p sel : Nat) (s : State) : Option Nat :=
  if sel < 4 then (if pinCarries (if p = 0 then 11 + sel else 18 + 7 * (p - 1) + sel) 0 s
    then some (if p = 0 then 11 + sel else 18 + 7 * (p - 1) + sel) else none)
  else if p = 0 then none
  else ((List.range 7).map (fun k => 52 + k)).find? (fun i => (i - 52) % 4 == sel - 4 && pinCarries i (4 + p) s)

/-- A pin carries select `sel` of S port `p` (R23). -/
def selectAttached (p sel : Nat) (s : State) : Bool := (selectPin p sel s).isSome

/-- A pin waits for the idle point of the port it belongs to (R31). -/
def pinStops (i : Nat) (s : State) : Bool := (pinOf i s).phase == .quiesce

/-- The pins of S port `p` that every frame uses: clock and data (Table 02-4). -/
def sharedPins (p : Nat) : List Nat :=
  if p = 0 then (List.range 5).map (fun i => 6 + i) else (List.range 3).map (fun i => 15 + 7 * (p - 1) + i)

/-- No frame starts on select `sel` of S port `p`: a pin that it uses waits for the idle point, and no run of CONT-joined frames
holds the select (R31, Table 02-7). -/
def sStops (p sel : Nat) (s : State) : Bool :=
  (sportOf p s).hold.map Fin.val != some sel
    && ((sharedPins p).any (fun i => pinStops i s && (pinOf i s).act == 0)
        || (match selectPin p sel s with | some i => pinStops i s | none => false))

/-- The settings of a select are usable: HDIV within R302 and no reserved encoding. -/
def selectUsable (p sel : Nat) (s : State) : Bool :=
  let w := runWord (selBlock p sel) s
  decide ((if p = 0 then 4 else 8) ≤ field w 0 8) && decide (field w 12 3 ≤ 4)
    && field (runWord (selBlock p sel + 6) s) 2 2 != 3

/-- S port `p` can run a controller frame on a select (R197, R304, R311). -/
def sReady (p sel : Nat) (s : State) : Bool :=
  sWorks p s && !sTarget p s && selectAttached p sel s && selectUsable p sel s

/-! ## The settings of a frame -/

/-- SSAFE.EN (R312). -/
def SFrame.safe (f : SFrame) : Bool := f.ssafe.getLsbD 0
/-- SSAFE.CRC16. -/
def SFrame.long16 (f : SFrame) : Bool := f.ssafe.getLsbD 1
/-- SSAFE.ALVM (R313). -/
def SFrame.alvm (f : SFrame) : Nat := field f.ssafe.toNat 2 2
/-- SCLK.WSZ (R308). -/
def SFrame.wsz (f : SFrame) : Nat := field f.sclk.toNat 12 3
/-- SCLK.LSBF (R306). -/
def SFrame.lsbf (f : SFrame) : Bool := f.sclk.getLsbD 11
/-- SCLK.MODE: 2 × CPOL + CPHA (R305). -/
def SFrame.mode (f : SFrame) : Nat := field f.sclk.toNat 9 2
/-- The phased-frame descriptor of the frame (R310). -/
def SFrame.desc (f : SFrame) : FrameDesc := frameDescOf f.d0.toNat f.d2.toNat f.d4.toNat true
/-- The bytes of a trailer: the control byte and the CRC (R312). -/
def SFrame.trailer (f : SFrame) : Nat := if f.long16 then 3 else 2

/-- The settings in force now for a frame on select `sel` of S port `p`, phased frame `fd` if there is one (R150, R304). -/
def frameNow (p sel : Nat) (fd : Option Nat) (s : State) : SFrame :=
  let a := selBlock p sel
  let d := fun (o : Nat) => match fd with
    | some k => BitVec.ofNat 16 (runWord (frameAddr (2 + p) k + o) s)
    | none => 0
  { sel := sel, sclk := BitVec.ofNat 16 (runWord a s), sdly := BitVec.ofNat 16 (runWord (a + 2) s)
    ssafe := BitVec.ofNat 16 (runWord (a + 6) s), d0 := d 0, d2 := d 2, d4 := d 4
    tfill := BitVec.ofNat 8 (field (runWord (portBlock (2 + p)) s) 8 8) }

/-- The verdict points that a frame's start on S port `p` passes (Table 13-9): those of the port's requesters, of PCFG, and of its
select. -/
def framePoints (p : Nat) (who : PortUser) (sel : Nat) : List (Nat × Bool) :=
  (if p = 0 then
    match who with
    | .lane => [(306, false), (307, false), (308, false)]
    | .host => [(306, true), (307, false), (308, false)]
    | .fill => [(318, true), (307, true), (308, false)]
    | .sfdp => [(318, false)]
    | .flash => [(308, true)]
    | .nobody => []
  else [(sPoint p, who == .host)])
    ++ [(sPoint p + (if p = 0 then 3 else 1), false), (sPoint p + (if p = 0 then 4 else 2) + sel, false)]

/-- A frame of `who` begins on S port `p` with its settings; a select that another frame held rises before it (R307, R320). -/
def openFrame (p : Nat) (who : PortUser) (f : SFrame) (s : State) : State :=
  grants (framePoints p who f.sel) (modSPort p (fun x =>
    let goesOn := x.hold.map Fin.val == some f.sel
    { x with frame := f, last := who, hold := if goesOn then x.hold else none, wcnt := if goesOn then x.wcnt else 0 }) s)

/-! ## Bit cells -/

/-- The bits of a byte in the order of the wire (R306). -/
def byteBits (lsbf : Bool) (b : Byte) : List Bool :=
  if lsbf then (List.range 8).map (fun i => b.getLsbD i) else ((List.range 8).map (fun i => b.getLsbD i)).reverse

/-- The `w` bits of a value, most significant first (R306, R311). -/
def valueBits (w v : Nat) : List Bool := ((List.range w).map (fun i => nbit v i)).reverse

/-- The byte that eight bits spell whose first is the least significant: what an LSB-first select receives where the same bits,
taken most significant first, spell `b` (R306). -/
def flipByte (b : Byte) : Byte := BitVec.ofNat 8 (((List.range 8).map (fun i => bit (b.getLsbD i) * 2 ^ (7 - i))).foldl (· + ·) 0)

/-- The bytes that a byte-mode frame takes from the bits it sampled, given in the order of the wire with the earliest as the
most significant (R306). -/
def SFrame.sampled (f : SFrame) (rx : List Byte) : List Byte := if f.lsbf then rx.map flipByte else rx

/-- One cell that drives bits, the most significant first: SDO of S1 to S3; on S0 the more significant bit on the
higher-numbered lane, with IO2 and IO3 high in cells of one or two lanes (R26, R306, Table 13-2). -/
def driveCell (p : Nat) (bs : List Bool) : List (Option Bool) :=
  if p != 0 then [bs.head?]
  else if bs.length = 4 then bs.reverse.map some
  else if bs.length = 2 then bs.reverse.map some ++ [some true, some true]
  else [bs.head?, none, some true, some true]

/-- The cells of a phase that drives its bits on `k` lanes (R306). -/
def driveCells (p k : Nat) (bits : List Bool) : List (List (Option Bool)) :=
  (List.range (bits.length / k)).map (fun i => driveCell p ((bits.drop (k * i)).take k))

/-- One cell of a dummy phase: the SDO of S1 to S3 holds its last level, and the lanes of S0 are released, but for IO2 and IO3
of a command with one or two data lanes, which stay high (R26, R310; log entry 84). -/
def dummyCell (p dl : Nat) (last : Bool) : List (Option Bool) :=
  if p != 0 then [some last] else if dl = 2 then [none, none, none, none] else [none, none, some true, some true]

/-- One cell of a data phase that reads: its lanes are released; the output of a one-lane phase stays at its last level (R306,
R27; log entry 84), and IO2 and IO3 of S0 are high unless they carry data (R26). -/
def readCell (p dl : Nat) (last : Bool) : List (Option Bool) :=
  if p != 0 then [some last]
  else if dl = 2 then [none, none, none, none]
  else if dl = 1 then [none, none, some true, some true]
  else [some last, none, some true, some true]

/-- The level that SDO, or IO0 of S0, was last driven to. -/
def lastLevel (l : Bool) (cs : List (List (Option Bool))) : Bool :=
  cs.foldl (fun l c => match c.head? with | some (some b) => b | _ => l) l

/-- The level of SDO, or IO0 of S0, before a frame: the last that the port drove, else what the pin holds. -/
def sdoLevel (p : Nat) (s : State) : Bool :=
  lastLevel (pinOf (if p = 0 then 7 else 16 + 7 * (p - 1)) s).inp (sportOf p s).out.cells

/-- The cells of a phased frame: command, address, the dummy phase with its leading mode byte if one is sent, and the data
phase (R310, R322). -/
def phasedCells (p : Nat) (last : Bool) (f : FrameDesc) (cmd addr : Nat) (modeByte : Option Byte) (data : List Byte) :
    List (List (Option Bool)) :=
  let c1 := driveCells p (lanes f.cl) (valueBits f.cw cmd) ++ driveCells p (lanes f.al) (valueBits f.aw addr)
  let c2 := match modeByte with | some b => driveCells p (lanes f.al) (byteBits false b) | none => []
  let l := lastLevel last (c1 ++ c2)
  c1 ++ c2 ++ List.replicate (f.dmy - c2.length) (dummyCell p f.dl l)
    ++ (if f.ddir then driveCells p (lanes f.dl) ((data.take f.dlen).flatMap (byteBits false))
        else List.replicate (8 * f.dlen / lanes f.dl) (readCell p f.dl l))

/-! ## What a frame sends -/

/-- The CRC bytes over a payload and its control byte (R312). -/
def trailerCrc (long16 : Bool) (bs : List Byte) : List Byte :=
  if long16 then [BitVec.ofNat 8 ((crc16 bs).toNat / 256), BitVec.ofNat 8 (crc16 bs).toNat] else [crc8 bs]

/-- The bytes of a byte-mode frame: the payload, and the trailer of a safety frame with HALV and ERRF (R312, R314). -/
def withTrailer (p : Nat) (f : SFrame) (payload : List Byte) (s : State) : List Byte :=
  if f.safe then
    let st := statWord (selBlock p f.sel + 8) s
    let body := payload ++ [BitVec.ofNat 8 (16 * field st 0 4 + 8 * field st 8 1)]
    body ++ trailerCrc f.long16 body
  else payload

/-- The lead of a frame, which a held select omits (R307, R308). -/
def leadOf (p : Nat) (f : SFrame) (s : State) : Nat :=
  if (sportOf p s).hold.map Fin.val == some f.sel then 0 else field f.sdly.toNat 0 8

/-- The counts of payload bytes inside a frame of `n` after which WSZ releases the select (R308). -/
def wordBreaks (w before n : Nat) : List Nat :=
  if w = 0 then [] else (List.range n).filter (fun i => i != 0 && (before + i) % w == 0)

/-- A byte-mode frame as it goes out (R306 to R309, R312). -/
def byteOut (p : Nat) (f : SFrame) (payload : List Byte) (s : State) : SOut :=
  let bs := withTrailer p f payload s
  { sel := f.sel, cmd := 0, addr := 0, bytes := bs, mode := f.mode, lead := leadOf p f s, lag := field f.sdly.toNat 8 8
    breaks := wordBreaks f.wsz (if (sportOf p s).hold.map Fin.val == some f.sel then (sportOf p s).wcnt else 0) payload.length
    cells := (bs.flatMap (byteBits f.lsbf)).map (fun b => driveCell p [b]) }

/-- The big-endian value of the next bytes of a stream, cut to `w` bits (R311). -/
def phaseValue (w : Nat) (bs : List Byte) : Nat := leValue (bs.take ((w + 7) / 8)).reverse % 2 ^ w

/-- A phased frame as it goes out from its values (R310, R322). -/
def phasedOut (p : Nat) (f : SFrame) (d : FrameDesc) (cmd addr : Nat) (modeByte : Option Byte) (data : List Byte) (s : State) :
    SOut :=
  { sel := f.sel, cmd := cmd, addr := addr, bytes := if d.ddir then data.take d.dlen else [], mode := f.mode
    lead := leadOf p f s, lag := field f.sdly.toNat 8 8, breaks := []
    cells := phasedCells p (sdoLevel p s) d cmd addr modeByte data }

/-- What a phased frame sends from its stream (R311). -/
def frameOut (p : Nat) (f : SFrame) (stream : List Byte) (s : State) : SOut :=
  let d := f.desc
  phasedOut p f d (phaseValue d.cw stream) (phaseValue d.aw (stream.drop ((d.cw + 7) / 8))) none
    (stream.drop ((d.cw + 7) / 8 + (d.aw + 7) / 8)) s

/-- A frame of `who` goes out on S port `p`. -/
def sendFrame (p : Nat) (who : PortUser) (f : SFrame) (out : SOut) (s : State) : State :=
  modSPort p (fun x => { x with out := out }) (openFrame p who f s)

/-! ## The end of an S port frame -/

/-- A status byte of the select changes by one, wrapping (R329). -/
def countSelect (p sel o : Nat) (s : State) : State := countByte (selBlock p sel + o) s

/-- The check of a received trailer (R313): passed, and the state with EREF, REFV, ESTS, SFAIL and SEERR. -/
def checkTrailer (p : Nat) (f : SFrame) (len : Nat) (rx : List Byte) (s : State) : Bool × State :=
  if rx.drop (len + 1) = trailerCrc f.long16 (rx.take (len + 1)) then
    let ctl := (rx.getD len 0).toNat
    let st := statWord (selBlock p f.sel + 8) s
    let eref := field st 4 4
    let bad := nbit st 9 && ((f.alvm == 1 && field ctl 4 4 == eref) || (f.alvm == 2 && field ctl 4 4 != (eref + 1) % 16))
    let s1 := setStatWord (selBlock p f.sel + 8)
      (field st 0 4 + 16 * field ctl 4 4 + 256 * field st 8 1 + 512 + 1024 * field ctl 0 3) s
    let s2 := if nbit ctl 3 then countSelect p f.sel 0xC s1 else s1
    (!bad, if bad then countSelect p f.sel 0xB s2 else s2)
  else (false, countSelect p f.sel 0xA s)

/-- A safety frame has been sent whole: HALV rises, and ERRF says whether this frame's check failed (R312,
R314). -/
def safetySent (p sel : Nat) (failed : Bool) (s : State) : State :=
  let st := statWord (selBlock p sel + 8) s
  setStatWord (selBlock p sel + 8) ((field st 0 4 + 1) % 16 + 16 * field st 4 4 + 256 * bit failed + 512 * field st 9 7) s

/-- A byte-mode frame ends: the trailer check where the frame is a safety frame (R312 to R314). The answer
says whether the frame's check passed. -/
def endByteFrame (p : Nat) (f : SFrame) (len : Nat) (rx : List Byte) (s : State) : Bool × State :=
  if f.safe then
    let r := checkTrailer p f len rx s
    let s1 := safetySent p f.sel (!r.1) r.2
    (r.1, if r.1 then s1 else stickS p 8 s1)
  else (true, s)

/-- The select after a frame: held by CONT unless WSZ releases it after its last byte; a held select omits the lag (R191,
R308). `len` is the payload of a byte-mode frame, `none` for a phased one. -/
def holdSelect (p : Nat) (sel : Fin 8) (cont : Bool) (len : Option Nat) (s : State) : State :=
  modSPort p (fun x =>
    let w := x.frame.wsz
    let n := match len with
      | some l => if w = 0 then 0 else (x.wcnt + l) % w
      | none => x.wcnt
    let held := cont && !(len.isSome && w != 0 && n == 0)
    { x with
      hold := if held then some sel else none, wcnt := if held then n else 0
      out := if held then { x.out with lag := 0 } else x.out }) s

/-- A controller frame of S port `p` is aborted (R321). -/
def abortFrame (p : Nat) (s : State) : State :=
  countWord (portBlock (2 + p) + 0x382) (stickS p 9 (releaseSelect p s))

/-- FRAMES rises (Table 13-12). -/
def countFrame (p : Nat) (s : State) : State := countWord (portBlock (2 + p) + 0x380) s

/-! ## Sharing a port -/

/-- The port that the wire step at which a lane stands names. -/
def Lane.wirePort (l : Lane) : Option Nat :=
  match stepAt l.cfg l.pc with
  | some st => st.wire.map (fun c => (descOf l.cfg l.ep).named c.2)
  | none => none

/-- A lane has a transaction on port `p`: on the wire, or left open by CONT (R191). -/
def Lane.onWire (p : Nat) (l : Lane) : Bool := l.wait == .step p || (l.openTx && l.wirePort == some p)

/-- A lane's transaction, or its run of CONT-joined ones, is in progress on port `p`. -/
def laneTx (p : Nat) (s : State) : Bool := s.poll.lanes.any (Lane.onWire p)

/-- A lane stands at a step for port `p` that has not begun. -/
def laneWants (p : Nat) (s : State) : Bool := s.poll.lanes.any (fun l => l.wait == .ready && l.wirePort == some p)

/-- A run of CONT-joined pass-through has port `p`, so that a lane's step there waits (R320, R349): it holds a select, or the
bus. -/
def ptHolds (p : Nat) (s : State) : Bool :=
  !s.replay.run && !laneTx p s &&
    (if isSPort p then sWorks (p - 2) s && hostHolds (p - 2) s else isIPort p && iWorks (p - 6) s && (iportOf (p - 6) s).hold)

/-- A pass-through entry of S port `p` waits for the port (R315). -/
def hostWants (p : Nat) (s : State) : Bool :=
  s.mode.cur == .halter && nbit (runWord (portBlock (2 + p)) s) 2 && sWorks p s && !sTarget p s
    && (queueOf (38 + p) s).en && !(queueOf (38 + p) s).items.isEmpty

/-- The line that holds flash address `a` (R323). -/
def lineOf (a : Nat) : Nat := a / 32 * 32

/-- The cached line at address `l`, if there is one. -/
def cachedLine (l : Nat) (s : State) : Option (List Byte) := lookupNat l (sportOf 0 s).cache

/-- The flash address of an execute-window address. -/
def windowFlash (a : Nat) : Option Nat :=
  if 0x10000000 ≤ a ∧ a < 0x11000000 then some (a - 0x10000000) else none

/-- A flash job runs (R325, R327, R375). -/
def flashJob (s : State) : Bool :=
  opRuns s && (match s.op.job with | .flash .. => true | .drain f .. => f | _ => false)

/-- The line that a waiting window read needs and that a fill can fetch (R323, R325). -/
def lineWanted (s : State) : Option Nat :=
  match s.rein.slowPending.bind (fun w => windowFlash w.toNat) with
  | some a => if (cachedLine (lineOf a) s).isNone && !flashJob s && windowFetches s then some (lineOf a) else none
  | none => none

/-- The SFDP read waits for the port (R326). -/
def sfdpWants (s : State) : Bool := (sportOf 0 s).sfdpRun && !(sportOf 0 s).sfdpSent

/-- A flash job waits for its first frame (R327). -/
def flashWants (s : State) : Bool := opRuns s && (match s.op.job with | .flash _ _ _ enabled _ _ => !enabled | _ => false)

/-- A requester of S port `p` other than `who` waits (R320). -/
def othersWant (p : Nat) (who : PortUser) (s : State) : Bool :=
  (who != .lane && laneWants (2 + p) s) || (who != .host && hostWants p s)
    || (p == 0 && ((who != .fill && (lineWanted s).isSome) || (who != .sfdp && sfdpWants s) || (who != .flash && flashWants s)))

/-- `who` may start a frame on S port `p` (R320): no frame and no run of CONT-joined frames of another has it, and it is not
the one that had the previous frame while another waits, unless its own run goes on. Stabled entry stops every port (R85). -/
def sTurn (p : Nat) (who : PortUser) (s : State) : Bool :=
  let goesOn := (who == .lane && laneTx (2 + p) s) || (who == .host && hostHolds p s)
  !sInFrame p s && s.power.sleep != .quiescing && (goesOn || (!laneTx (2 + p) s && !ptHolds (2 + p) s
    && ((sportOf p s).last != who || !othersWant p who s)))

/-! ## Frames of the execute window and of flash jobs -/

/-- The flash select, WCTRL.WSEL. -/
def flashSel (s : State) : Nat := field (runWord 0x2A00 s) 1 2

/-- The width of a flash address (R322, R327). -/
def flashAddrBits (s : State) : Nat := if nbit (runWord 0x2A00 s) 3 then 32 else 24

/-- The lanes code of the data phase of a read form (Table 13-5). -/
def formData (form : Nat) : Nat := if form = 0 then 0 else if form ≤ 2 then 1 else 2

/-- The lanes code of its address phase (Table 13-5). -/
def formAddr (form : Nat) : Nat := if form = 2 then 1 else if form = 4 then 2 else 0

/-- The descriptor of a line fill (R322). -/
def fillDesc (s : State) : FrameDesc :=
  let w := runWord 0x2A02 s
  { cw := 8, cl := 0, aw := flashAddrBits s, al := formAddr (field w 8 3), dmy := field w 11 5, dlen := 32
    dl := formData (field w 8 3), ddir := false, ok := true }

/-- The frame of a line fill goes out (R322). -/
def sendFill (l : Nat) (s : State) : State :=
  let f := frameNow 0 (flashSel s) none s
  let modeByte := if nbit (runWord 0x2A00 s) 4 then some (BitVec.ofNat 8 (runWord 0x2A04 s)) else none
  sendFrame 0 .fill f (phasedOut 0 f (fillDesc s) (field (runWord 0x2A02 s) 0 8) l modeByte [] s) s

/-- The fill of line `l` starts: whether its line is kept, and whether the host waits for it. -/
def beginFill (l : Nat) (waited : Bool) (s : State) : State :=
  modSPort 0 (fun x => { x with fill := some (l, true, waited) }) (sendFill l s)

/-- The fill that a waiting window read needs starts, once the port is free for it (R320, R323, R325). -/
def startFill (s : State) : State :=
  match lineWanted s with
  | some l => if sTurn 0 .fill s then beginFill l true s else s
  | none => s

/-- A flash command at 1-1-1 goes out on S0: opcode, address, data written or bytes read (R327, Table 13-11). -/
def sendFlash (op : Nat) (addr : Option Nat) (data : List Byte) (reads : Nat) (s : State) : State :=
  let f := frameNow 0 (flashSel s) none s
  let d : FrameDesc :=
    { cw := 8, cl := 0, aw := if addr.isSome then flashAddrBits s else 0, al := 0, dmy := 0
      dlen := if reads = 0 then data.length else reads, dl := 0, ddir := reads == 0, ok := true }
  countFrame 0 (sendFrame 0 .flash f (phasedOut 0 f d op (addr.getD 0) none data s) s)

/-- A flash job that waits sends its WENOP, once the port is free for it (R320, R327). -/
def startEnable (s : State) : State :=
  match s.op.job with
  | .flash addr erase data false sent last =>
    if opRuns s && sReady 0 (flashSel s) s && sTurn 0 .flash s then
      let s1 := sendFlash (field (runWord 0x2A08 s) 0 8) none [] 0 s
      { s1 with op := { s1.op with job := .flash addr erase data true sent last } }
    else s
  | _ => s

/-- A 0x5A frame at 1-1-1 with a 24-bit address and 8 dummy cells goes out on WSEL (R326). -/
def sendSfdp (addr reads : Nat) (s : State) : State :=
  let f := frameNow 0 (flashSel s) none s
  let d : FrameDesc :=
    { cw := 8, cl := 0, aw := 24, al := 0, dmy := 8, dlen := reads, dl := 0, ddir := false, ok := true }
  sendFrame 0 .sfdp f (phasedOut 0 f d 0x5A addr none [] s) s

/-- The SFDP read that waits begins with the header, once the port is free for it (R320, R326). -/
def startSfdp (s : State) : State :=
  if sfdpWants s && sReady 0 (flashSel s) s && sTurn 0 .sfdp s then
    modSPort 0 (fun x => { x with sfdpSent := true }) (sendSfdp 0 8 s)
  else s

/-- S0 may have come free: what waits for it starts (R320). -/
def pumpS0 (s : State) : State := startFill (startEnable (startSfdp s))

/-! ## I ports -/

/-- The address bytes of an I²C transaction: a write, or a read with its repeated header for 10-bit
addresses (R335). -/
def addressBytes (taddr : Nat) (read : Bool) : List Byte :=
  if nbit taddr 15 then
    [BitVec.ofNat 8 (0xF0 + 2 * field taddr 8 2), BitVec.ofNat 8 taddr]
      ++ (if read then [BitVec.ofNat 8 (0xF1 + 2 * field taddr 8 2)] else [])
  else [BitVec.ofNat 8 (2 * field taddr 0 7 + bit read)]

/-- A bus that another controller, the BIDLE rule or a recovery keeps from the hub (R337, R340). During a replay the bus
is the one of the recording, whose transactions all come to an end by their records (R379). -/
def busHeld (p : Nat) (s : State) : Bool :=
  let x := iportOf p s
  !s.replay.run && (x.ext || x.idle || x.recov)

/-- The verdict points that a transaction's start on I port `p` passes (Table 14-3): a lane's, a pass-through transaction's, or a
roll call's probe where `who` is none of them. -/
def startPoints (p : Nat) (who : PortUser) : List (Nat × Bool) :=
  (match who with
    | .lane => [(iPoint p, false), (iPoint p + 1, false), (iPoint p + 2, true)]
    | .host => [(iPoint p + 2, false)]
    | _ => [(iPoint p + 1, true), (iPoint p + 2, true)])
    ++ [(iPoint p + 3, true), (iPoint p + 5, true), (iPoint p + 7, true)]

/-- `who` sends on I port `p`. -/
def sendI (p : Nat) (who : PortUser) (bs : List Byte) (s : State) : State :=
  grants (startPoints p who) (modIPort p (fun x => { x with out := bs, last := who }) s)

/-- The pins of SCL and SDA of I port `p` carry the port's lines (Table 02-4, R31). -/
def linesAttached (p : Nat) (s : State) : Bool := pinCarries (36 + 3 * p) 0 s && pinCarries (37 + 3 * p) 0 s

/-- No transaction starts on I port `p`: the pin of a line waits for the idle point (R31, Table 02-7). -/
def iStops (p : Nat) (s : State) : Bool :=
  !laneTx (6 + p) s && ((pinStops (36 + 3 * p) s && (pinOf (36 + 3 * p) s).act == 0)
    || (pinStops (37 + 3 * p) s && (pinOf (37 + 3 * p) s).act == 0))

/-- The pass-through transaction of I port `p` is on the wires. -/
def ptOnWire (p : Nat) (s : State) : Bool := (iportOf p s).ptRun && (iportOf p s).ptTx

/-- A pass-through transaction of I port `p` waits for the bus and may run (R331, R348). Stabled entry stops every port (R85). -/
def ptWants (p : Nat) (s : State) : Bool :=
  (iportOf p s).ptRun && !(iportOf p s).ptTx && s.mode.cur == .halter && iWorks p s && s.power.sleep != .quiescing
    && !s.replay.run && !iStops p s

/-- A lane may start a transaction on I port `p` (R349): its CONT-joined run goes on, or no pass-through has the bus, and the lane
did not have the previous transaction while a pass-through waits. Stabled entry stops every port (R85). -/
def iTurn (p : Nat) (s : State) : Bool :=
  laneTx (6 + p) s || (!(iportOf p s).hold && !ptOnWire p s && s.power.sleep != .quiescing
    && !((iportOf p s).last == .lane && ptWants p s))

/-- A lane waits for the bus of I port `p`, or stands at a step for it that has not begun. -/
def laneWaits (p : Nat) (s : State) : Bool := laneWants (6 + p) s || s.poll.lanes.any (fun l => l.wait == .bus (6 + p))

/-- The bytes that the pass-through transaction of I port `p` sends: the address, and the data of a write (R335, R348). -/
def ptWire (p : Nat) (s : State) : List Byte :=
  let a := portBlock (6 + p)
  let ctl := runWord (a + 0x20) s
  addressBytes (runWord (a + 0x22) s) (nbit ctl 1)
    ++ (if nbit ctl 1 then [] else Memory.readBytes cfgDflt (running s) (a + 0x40) (field ctl 8 5 + 1))

/-- The bus that a pass-through transaction holds is let go: PT_STAT.HOLD clears (R348). -/
def dropHold (p : Nat) (s : State) : State :=
  if (iportOf p s).hold then
    let v := statWord (portBlock (6 + p) + 0x24) s
    setStatWord (portBlock (6 + p) + 0x24) (v - 8 * bit (nbit v 3)) (modIPort p (fun x => { x with hold := false }) s)
  else s

/-- The pass-through transaction that waits goes onto the wires, once the bus is free and it is its turn (R337, R348, R349). -/
def startPt (p : Nat) (s : State) : State :=
  if ptWants p s && !busHeld p s && !laneTx (6 + p) s
      && ((iportOf p s).hold || !((iportOf p s).last == .host && laneWaits p s)) then
    modIPort p (fun x => { x with ptTx := true }) (dropHold p (sendI p .host (ptWire p s) s))
  else s

/-- Port `n` may have come free: what waits for it starts (R320, R349). -/
def pumpPort (n : Nat) (s : State) : State := if n = 2 then pumpS0 s else if isIPort n then startPt (n - 6) s else s

/-- A transaction completed without a failure (R336). -/
def countXfer (p : Nat) (s : State) : State := countWord (portBlock (6 + p) + 0x380) s

/-- An acknowledgement was missing (R336). -/
def countNack (p : Nat) (s : State) : State := countWord (portBlock (6 + p) + 0x382) s

/-- The hub lost arbitration: the bus belongs to another controller until its STOP (R337, R339). -/
def countArbLost (p : Nat) (s : State) : State :=
  countWord (portBlock (6 + p) + 0x384) (stickI p 8 (modIPort p (fun x => { x with ext := true }) s))

end Sys2Proof.Machine
end

