-- ==== Sys2Proof/Machine/Lanes.lean ====
section
/-! DEFINITION. The poll engine (chapter 09): due endpoints, dispatch, lanes and their attempts, the script
steps, the end of a run, held frames, and the way of a sample through conditioning and the express path. -/

namespace Sys2Proof.Machine

/-! ## Lanes and the status part -/

/-- Lane `i`. -/
def laneOf (i : Nat) (s : State) : Lane := s.poll.lanes.getD i freeLane

/-- The state with lane `i` changed. -/
def modLane (i : Nat) (f : Lane → Lane) (s : State) : State :=
  { s with poll := { s.poll with lanes := modifyNth f i s.poll.lanes } }

/-- Bit `b` of ESTAT of endpoint `n`. -/
def estat (n b : Nat) (s : State) : Bool := nbit (statByte (epAddr n + 0x3C) s) b

/-- Bit `b` of ESTAT set or cleared. -/
def setEstat (n b : Nat) (on : Bool) (s : State) : State :=
  let v := statByte (epAddr n + 0x3C) s
  setStatByte (epAddr n + 0x3C) (v - bit (nbit v b) * 2 ^ b + bit on * 2 ^ b) s

/-- LAST of endpoint `n` (Table 09-4). -/
def setLast (n code : Nat) (s : State) : State := setStatByte (epAddr n + 0x3B) code s

/-- A counter of the status part rises: RETRIES 0x36, TIMEOUTS 0x37, BUSIES 0x38, ORPHANS 0x39, MISSES 0x3A,
DROPS 0x3F. -/
def countEp (n o : Nat) (s : State) : State := countByte (epAddr n + o) s

/-- A lane holds a run of endpoint `n`. -/
def onLane (n : Nat) (s : State) : Bool := s.poll.lanes.any (fun l => l.wait != .free && l.ep == n)

/-- A run of endpoint `n` is active: on a lane, waiting for a lane, or waiting for its due epoch (R188). -/
def epRuns (n : Nat) (s : State) : Bool :=
  onLane n s || (s.poll.waiting ++ s.poll.triggers ++ s.poll.aheadDone).any (fun r => r.ep == n)

/-- The cutoff of due epoch `due` has passed. -/
def cutoffPassed (due : Nat) (s : State) : Bool :=
  match stagedIx s with
  | some ix => decide (due < ix)
  | none => true

/-- The whole status part of an endpoint is cleared (R184). -/
def clearStatus (n : Nat) (s : State) : State :=
  { s with
    cfg := { s.cfg with status := Memory.clear s.cfg.status (epAddr n + 0x34) 12 }
    poll := { s.poll with lastRun := s.poll.lastRun.filter (fun e => e.1 != n) } }

/-- At an expansion every status part is cleared (R184); what is there at that moment, a run or a held frame, goes on
to show. -/
def clearStatuses (s : State) : State :=
  let s1 := { s with
    cfg := { s.cfg with status := Memory.clear s.cfg.status 0x10000 0x4000 }
    poll := { s.poll with lastRun := [] } }
  let s2 := s.poll.held.foldl (fun s h => setEstat h.ep 3 true s) s1
  (List.range 256).foldl (fun s n => if epRuns n s then setEstat n 0 true s else s) s2

/-! ## Validation -/

/-- A validation of endpoint `n` has failed: ESTAT.BAD is set, and LAST is 9 until one passes (R196). The code of the last run
is kept, which LAST then shows again (Table 09-4; log entry 85). -/
def failValidation (n : Nat) (s : State) : State :=
  let s1 := if estat n 2 s then s
    else { s with poll := { s.poll with
      lastRun := (n, BitVec.ofNat 8 (statByte (epAddr n + 0x3B) s)) :: s.poll.lastRun.filter (fun e => e.1 != n) } }
  setLast n 9 (setEstat n 2 true s1)

/-- A validation of endpoint `n` has passed (R196). -/
def passValidation (n : Nat) (s : State) : State :=
  if estat n 2 s then
    setLast n ((lookupNat n s.poll.lastRun).getD 0).toNat (setEstat n 2 false
      { s with poll := { s.poll with lastRun := s.poll.lastRun.filter (fun e => e.1 != n) } })
  else s

/-- Endpoint `n` is validated (R196). -/
def validateEp (n : Nat) (s : State) : State :=
  if endpointValid (running s) n then passValidation n s else failValidation n s

/-- Every endpoint is validated (R196). -/
def validateAll (s : State) : State := (List.range 256).foldl (fun s n => validateEp n s) s

/-- Endpoint `n` keeps frames: it is active, or an ENDPOINT_PROBE of it runs (R192). -/
def keepsFrames (n : Nat) (s : State) : Bool :=
  epActive (running s) n || s.poll.lanes.any (fun l => l.probe && l.ep == n)

/-- The held frames of endpoints that keep frames no more are emptied (R192). -/
def purgeHeld (s : State) : State :=
  let gone := s.poll.held.filter (fun h => !keepsFrames h.ep s)
  gone.foldl (fun s h => setEstat h.ep 3 false s)
    { s with poll := { s.poll with held := s.poll.held.filter (fun h => keepsFrames h.ep s) } }

/-! ## Ports held by lanes -/

/-- A lane holds port `p`. -/
def portHeld (p : Nat) (s : State) : Bool := s.poll.lanes.any (fun l => l.held.contains p)

/-- A lane waits for port `p`. -/
def lanesWait (p : Nat) (s : State) : Bool := s.poll.lanes.any (fun l => l.wait == .port p)

/-- The lanes that wait for port `p`, without lane `i`. -/
def othersWaiting (i p : Nat) (s : State) : List Nat :=
  (List.range 16).filter (fun j => j != i && (laneOf j s).wait == .port p)

/-- R190: no lane that lane `i` has to let go first waits for port `p`. -/
def fairTurn (i p : Nat) (s : State) : Bool :=
  !s.poll.served.any (fun e => e.1 == 16 * p + i && (laneOf e.2 s).wait == .port p)

/-- Lane `i` is granted port `p` (R189, R190). -/
def grantPort (i p : Nat) (s : State) : State :=
  let kept := s.poll.served.filter (fun e => !(e.1 / 16 == p && e.2 == i) && e.1 != 16 * p + i)
  let s1 := { s with poll := { s.poll with served := kept ++ (othersWaiting i p s).map (fun j => (16 * p + i, j)) } }
  modLane i (fun l => { l with held := l.held ++ [p] }) s1

/-- A lane closes its open transaction and releases every port, for which another may wait (R189, R191, R320); points 83 to 90
see the releases. -/
def releasePorts (i : Nat) (s : State) : State :=
  let l := laneOf i s
  let s1 := l.held.foldl (fun s p => if isSPort p then releaseSelect (p - 2) s else s) s
  let s2 := modLane i (fun l => { l with held := [], openTx := false }) s1
  l.held.foldl (fun s p => pumpPort p s) (grants (l.held.map (fun p => (81 + p, true))) s2)

/-! ## Attempts and runs -/

/-- An attempt begins at step `pc`: the buffer is cleared (R197). The sample hub time is the run's and stays (R194). -/
def startAttempt (i pc : Nat) (trig : Bool) (s : State) : State :=
  modLane i (fun l => { l with
    pc := pc, buf := List.replicate 32 0, high := 0, wait := .ready, trig := trig, discard := false }) s

/-- A run takes lane `i` (R187): LANE and ESTAT.RUN are written. -/
def startRun (i : Nat) (r : DueRun) (ahead : Bool) (s : State) : State :=
  let d := descOf (running s) r.ep
  let trig := !r.readOnly && hasSplit (running s) d.script
  let s1 := modLane i (fun _ => { freeLane with
    ep := r.ep, due := r.due, ahead := ahead, splitHt := r.splitHt, retries := r.retries, started := r.started
    sht := r.sht, timed := r.timed, portData := r.portData
    cfg := running s, lead := s.mode.cur == .leadrein }) s
  let s2 := startAttempt i (if r.readOnly then readStart (running s) d.script else d.script) trig s1
  setEstat r.ep 0 true (setStatByte (epAddr r.ep + 0x3E) i s2)

/-- Lane `i` can take a run: it has none, and none of its islands restarts. -/
def laneFree (i : Nat) (s : State) : Bool :=
  (laneOf i s).wait == .free && !s.fault.restarting.any (fun j => j == 29 + 3 * i || j == 30 + 3 * i || j == 31 + 3 * i)

/-- No trigger part may run ahead past the end of this epoch (R200, third condition). -/
def aheadBarred (s : State) : Bool := s.mode.pend || s.mode.hwCode.isSome || s.tack.swPend || sleeping s

/-- Free lanes take waiting runs in order, due runs before trigger parts (R187); none while the expansion of a
profile switch runs (R105). Points 52 to 67 and 91 to 106 see the dispatches, and in a replay hold them (R48). -/
def dispatch (s : State) : State :=
  (List.range 16).foldl (fun s i =>
    if laneFree i s && !s.tack.expanding && !unitFailed 16 s then
      match s.poll.waiting with
      | r :: rs =>
        if heldUp (52 + i) false s then s
        else startRun i r false (grant (52 + i) false { s with poll := { s.poll with waiting := rs } })
      | [] =>
        match s.poll.triggers with
        | r :: rs =>
          if aheadBarred s || heldUp (91 + i) false s then s
          else startRun i r true (grant (91 + i) false { s with poll := { s.poll with triggers := rs } })
        | [] => s
    else s) s

/-- A lane loses its run (point 52 + i). -/
def clearLane (i : Nat) (s : State) : State := grant (52 + i) true (modLane i (fun _ => freeLane) s)

/-- A lane loses its run and takes the next one. -/
def freeLaneAt (i : Nat) (s : State) : State := dispatch (clearLane i s)

/-- A due run of endpoint `n` has ended without a sample (R199): MISSES, LAST, QUAL.MISS, and the freeze
trigger of a watched endpoint (R372). -/
def missRun (n due code : Nat) (s : State) : State :=
  let s1 := markMiss n due (setLast n code (countEp n 0x3A (setEstat n 0 false s)))
  if s1.tap.trig.toNat / 256 = n then tapTrigger 6 s1 else s1

/-- A trigger part whose due epoch is cancelled ends (R202): an orphan, where it had started a port
transaction. -/
def orphanRun (n : Nat) (started : Bool) (s : State) : State :=
  let s1 := setLast n 7 (setEstat n 0 false s)
  if started then setEstat n 1 true (countEp n 0x39 s1) else s1

/-- The sample hub time of a run of endpoint `n` in which no data step ran, SKIP having passed over all of them: the spec gives
none (R194). A free value between the time in the endpoint's slot and now, as R16 asks (log entry 86). -/
def dataless (n due : Nat) (s : State) : HubTime :=
  let last := (match lookupNat n s.snap.early with | some e => e | none => stagedSlot n s).sht
  last + BitVec.ofNat 48 (Config.freeSht n (epochNumber due s) % ((s.time.now - last).toNat + 1))

/-! ## ENDPOINT_PROBE -/

/-- The records of a probe's buffer bytes, six bytes each (R206). -/
def probeRecords (buf : List Byte) (high : Nat) : Nat → Nat → State → State
  | 0, _, s => s
  | fuel + 1, off, s =>
    if high ≤ off then s
    else
      let n := min 6 (high - off)
      let b := fun k => if k < n then (buf.getD (off + k) 0).toNat else 0
      probeRecords buf high fuel (off + 6)
        (opPost (off + 256 * n) (b 0 + 256 * b 1) (b 2 + 256 * b 3) (b 4 + 256 * b 5) s)

/-- The attempt of an ENDPOINT_PROBE has ended: the buffer bytes are posted, and the operation ends (R206). -/
def endProbe (i code : Nat) (s : State) : State :=
  let l := laneOf i s
  let s1 := setLast l.ep code (probeRecords l.buf l.high 6 0 s)
  let s2 := purgeHeld (clearLane i s1)
  if code = 1 then opEnd 2 0 s2 else opEnd 3 8 s2

/-! ## The end of an attempt -/

/-- The run of lane `i` ends without a sample. -/
def endMissed (i code : Nat) (s : State) : State :=
  let l := laneOf i s
  let s1 := missRun l.ep l.due code s
  let s2 := if l.ahead then { s1 with poll := { s1.poll with endedAhead := insertOnce l.ep s1.poll.endedAhead } } else s1
  freeLaneAt i s2

/-- A port of the endpoint has been dropped (R82). -/
def portsDropped (d : Desc) (s : State) : Bool := d.ports.any (fun p => portDropped p s)

/-- A retry may start in this run (R197). -/
def mayRetry (i : Nat) (s : State) : Bool :=
  let l := laneOf i s
  let d := descOf l.cfg l.ep
  decide (l.retries < d.retry) && !cutoffPassed l.due s && !portsDropped d s

/-- A failed step ends the attempt (R197): the ports are released, and the lane waits for a retry or the run
ends. -/
def failAttempt (i code0 : Nat) (s0 : State) : State :=
  let s := releasePorts i s0
  let code := if (laneOf i s).expired then 3 else code0
  if (laneOf i s).cancelled then freeLaneAt i s
  else if (laneOf i s).probe then endProbe i code s
  else if mayRetry i s then
    modLane i (fun l => { l with wait := .gap, lastFail := BitVec.ofNat 8 code, expired := false }) s
  else endMissed i code s

/-- The run of lane `i` is cancelled (R202, Table 09-4): it ends at once, but its lane stays until a transaction
on the wire has ended. -/
def cancelLane (i code : Nat) (s : State) : State :=
  let l := laneOf i s
  if l.wait == .free || l.cancelled then s
  else
    let s1 :=
      if l.probe then s
      else if l.ahead then grant (91 + i) true (orphanRun l.ep l.started s)
      else missRun l.ep l.due code s
    match l.wait with
    | .step _ => modLane i (fun l => { l with cancelled := true }) s1
    | _ => clearLane i (releasePorts i s1)

/-- Every lane whose run meets `p` is cancelled. -/
def cancelLanes (p : Lane → Bool) (code : Nat) (s : State) : State :=
  (List.range 16).foldl (fun s i => if p (laneOf i s) then cancelLane i code s else s) s

/-! ## Samples -/

/-- The buffer leaves its hand-off island with the window and the group values in force (R53, R222). A window is stale from
the moment a sample enters conditioning until it is built anew, which here is one step (R53). -/
def handOff (n due lane : Nat) (ht : HubTime) (buf : List Byte) (lead : Bool) (s : State) : State :=
  let win := s.snap.wins.find? (fun w => w.ep == n)
  { s with poll := { s.poll with pend := s.poll.pend ++ [⟨n, due, lane, ht, buf, win, s.snap.groups, lead⟩] } }

/-- END: the run ends with a sample (R185, R199). -/
def endSample (i : Nat) (s0 : State) : State :=
  let s := releasePorts i s0
  let l := laneOf i s
  if l.probe then endProbe i 1 s
  else
    let s1 := handOff l.ep l.due i (if l.timed then l.sht else dataless l.ep l.due s) l.buf l.lead s
    freeLaneAt i (setLast l.ep 1 (countWord (epAddr l.ep + 0x34) (setEstat l.ep 0 false s1)))

/-! ## Steps -/

/-- The step that lane `i` stands at, in the configuration that its run began with. -/
def stepOf (i : Nat) (s : State) : Option Step := stepAt (laneOf i s).cfg (laneOf i s).pc

/-- The lane goes on with the step after the present one. -/
def nextStep (i : Nat) (s : State) : State :=
  modLane i (fun l => { l with pc := l.pc + 1, wait := .ready, discard := false }) s

/-- A lane waits. -/
def waitFor (i : Nat) (w : LaneWait) (s : State) : State := modLane i (fun l => { l with wait := w }) s

/-- Bytes written to the sample buffer from `off`; `high` is the end of the highest byte written. -/
def putBytes (i off : Nat) (bs : List Byte) (s : State) : State :=
  modLane i (fun l =>
    let b := bs.take (32 - off)
    { l with buf := (l.buf.take off ++ b ++ l.buf.drop (off + b.length)).take 32
             high := if b.isEmpty then l.high else max l.high (off + b.length) }) s

/-- A data step has run on a port with completion event at `t` (R194). -/
def stampPort (i : Nat) (t : HubTime) (s : State) : State :=
  modLane i (fun l => { l with sht := t, timed := true, portData := true }) s

/-- A GET has run at `t`: it gives the sample hub time of a run without port data (R194). -/
def stampGet (i : Nat) (t : HubTime) (s : State) : State :=
  modLane i (fun l => if l.portData then l else { l with sht := t, timed := true }) s

/-- ACQ goes on to the next port of the endpoint that the lane does not hold (R189). -/
def acquire (i : Nat) (s : State) : State :=
  let l := laneOf i s
  match (descOf l.cfg l.ep).ports.find? (fun p => !l.held.contains p) with
  | some p => waitFor i (.port p) s
  | none => nextStep i s

/-- The bytes that a step sends. -/
def stepBytes (d : Desc) (st : Step) : List Byte :=
  match st with
  | .send _ _ src len imm coff => if src then (d.const.drop coff).take len else leBytes len imm
  | .xfer _ _ _ len _ coff => (d.const.drop coff).take len
  | .recv _ _ _ len _ => List.replicate len 0
  | _ => []

/-- The phased-frame descriptor that a step names. -/
def Step.fd : Step → Option Nat
  | .frame _ _ _ _ fd _ => some fd
  | _ => none

/-- What a step sends on S port `p` with the settings `f`. -/
def sendOut (p : Nat) (f : SFrame) (d : Desc) (st : Step) (s : State) : SOut :=
  match st with
  | .frame _ _ _ _ _ coff => frameOut p f (d.const.drop coff) s
  | st => byteOut p f (stepBytes d st) s

/-- The frame of a step goes out on S port `p`. During a replay no port drives its pins (R378). -/
def sendStep (p sel : Nat) (d : Desc) (st : Step) (s : State) : State :=
  let f := frameNow p sel st.fd s
  if s.replay.run then openFrame p .lane f s else sendFrame p .lane f (sendOut p f d st s) s

/-- A FRAME step's descriptor is still valid (R311). -/
def frameStillOk (p : Nat) (st : Step) (s : State) : Bool :=
  match st with
  | .frame _ _ _ _ fd _ => (frameDesc (running s) (2 + p) fd).ok
  | _ => true

/-- The bytes that an I²C step sends: the address, and the data of a write (R335). -/
def wireBytes (d : Desc) (st : Step) : List Byte :=
  match st with
  | .recv .. => addressBytes d.taddr true
  | st => addressBytes d.taddr false ++ stepBytes d st

/-- The transaction of lane `i` starts on the wire of port `p`. A discarded read clears OPEND (R202). -/
def onWire (i p : Nat) (s : State) : State :=
  let l := laneOf i s
  let s1 := modLane i (fun l => { l with wait := .step p, started := true }) s
  if l.discard && !l.probe then setEstat l.ep 1 false s1 else s1

/-- A lane's step may begin on port `p` (R31, R320, R349): the pins it uses do not wait for the port's idle point, no frame or run
of CONT-joined frames of another has the port, and the lane did not have the previous one while another waits. During a replay
the ports are fed from the trace (R379). -/
def laneTurn (p sel : Nat) (s : State) : Bool :=
  s.replay.run ||
    (if isSPort p then !sStops (p - 2) sel s && sTurn (p - 2) .lane s
     else !iStops (p - 6) s && iTurn (p - 6) s)

/-- A wire step starts: it fails at once where the port is unavailable or stuck, waits for its turn or for a busy bus, or goes
onto the wire (R197, R311, R320, R337, R342, R349). -/
def startWire (i : Nat) (p2 : Bool) (st : Step) (t : HubTime) (s : State) : State :=
  let l := laneOf i s
  let d := descOf l.cfg l.ep
  let p := d.named p2
  let sel := field d.taddr 0 3
  if isSPort p then
    if !(sReady (p - 2) sel s && frameStillOk (p - 2) st s) then failAttempt i 10 s
    else if laneTurn p sel s then onWire i p (sendStep (p - 2) sel d st s)
    else s
  else if !iWorks (p - 6) s then failAttempt i 10 s
  else if (iportOf (p - 6) s).stk && !s.replay.run then failAttempt i 5 (recPort p 0 l.ep 3 i [] t s)
  else if busHeld (p - 6) s then waitFor i (.bus p) s
  else if laneTurn p sel s then onWire i p (sendI (p - 6) .lane (wireBytes d st) s)
  else s

/-- The lane is ready and stands at this step. -/
def atStep (i : Nat) (p : Step → Bool) (s : State) : Option Step :=
  if (laneOf i s).wait == .ready then
    match stepOf i s with
    | some st => if p st then some st else none
    | none => none
  else none

/-- A wire step of the kind `p` runs on lane `i`. -/
def runWire (i : Nat) (p : Step → Bool) (s : State) : State :=
  match atStep i p s with
  | none => s
  | some st =>
    match st.wire with
    | none => s
    | some c => startWire i c.2 st s.time.now s

/-! ## The end of a transaction -/

/-- The payload length of a byte-mode step, `none` for FRAME. -/
def Step.byteLen : Step → Option Nat
  | .send _ _ _ len .. => some len
  | .recv _ _ _ len _ => some len
  | .xfer _ _ _ len .. => some len
  | _ => none

/-- Where a step's received bytes go, and how many; `none` for SEND. -/
def Step.boff : Step → Option Nat
  | .recv _ _ _ _ b => some b
  | .xfer _ _ _ _ b _ => some b
  | .frame _ _ _ b .. => some b
  | _ => none

/-- CONT of a step. -/
def Step.cont (st : Step) : Bool := match st.wire with | some c => c.1 | none => false

/-- How many bytes the wire delivers for a step that completes on port `p`, by the settings its frame began with; `none` where
any number may come in and is ignored (R304, R309, R312). -/
def rxNeeded (p : Nat) (st : Step) (s : State) : Option Nat :=
  let f := (sportOf (p - 2) s).frame
  match st with
  | .frame .. => some f.desc.reads
  | .send _ _ _ len .. => if isSPort p then (if f.safe then some (len + f.trailer) else none) else some 0
  | st =>
    match st.byteLen with
    | none => some 0
    | some len => some (if isSPort p && f.safe then len + f.trailer else len)

/-- The wire outcome fits the step that the lane runs. SDA held low in the STOP cell ends a transaction of an I port with a
STOP (R433). -/
def rxFits (p : Nat) (st : Step) (out : PortOutcome) (rx : List Byte) (s : State) : Bool :=
  match out with
  | .done => (match rxNeeded p st s with | some n => rx.length == n | none => decide (rx.length ≤ 240))
  | .doneSdaLow => isIPort p && !st.cont && (match rxNeeded p st s with | some n => rx.length == n | none => false)
  | _ => decide (rx.length ≤ 240)

/-- The transaction ended without a failure. -/
def endedWell (o : PortOutcome) : Bool := o == .done || o == .doneSdaLow

/-- The outcome byte of a port input block (Table 16-1). -/
def outcomeCode : PortOutcome → Nat
  | .done => 0
  | .doneSdaLow => 0
  | .noAnswer => 1
  | .arbitrationLost => 2
  | .busFault => 4
  | .unavailable => 4

/-- What the end of a frame on S port `p` counts: the answer says whether it passed its check. -/
def sEnd (p : Nat) (sel : Fin 8) (st : Step) (out : PortOutcome) (rx : List Byte) (s : State) : Bool × State :=
  match out with
  | .done =>
    let s1 := countFrame p s
    let r := match st.byteLen with | some len => endByteFrame p (sportOf p s).frame len rx s1 | none => (true, s1)
    (r.1, holdSelect p sel st.cont st.byteLen r.2)
  | .busFault => (true, abortFrame p s)
  | _ => (true, releaseSelect p s)

/-- What the end of a transaction on I port `p` counts (R336, R339). Where SDA is not seen high in the STOP cell, the bus counts
as another controller's until a STOP or a hang (R433). -/
def iEnd (p : Nat) (out : PortOutcome) (s : State) : State :=
  match out with
  | .done => countXfer p s
  | .doneSdaLow => modIPort p (fun x => { x with ext := true }) (countXfer p s)
  | .noAnswer => countNack p s
  | .arbitrationLost => countArbLost p s
  | _ => s

/-- The payload that a completed step takes. -/
def payload (st : Step) (rx : List Byte) : List Byte :=
  match st.byteLen with
  | some len => rx.take len
  | none => rx

/-- The bytes that a step on port `p` received, from the bits it sampled: on an S port a byte-mode frame of an LSB-first select
takes the first bit of each byte as its least significant (R306). -/
def received (p : Nat) (st : Step) (rx : List Byte) (s : State) : List Byte :=
  if isSPort p && st.byteLen.isSome then (sportOf (p - 2) s).frame.sampled rx else rx

/-- A step has completed well: its bytes go to the buffer unless a FLUSH discards them, and the busy check
follows (R194, R195). -/
def stepDone (i : Nat) (st : Step) (rx : List Byte) (t : HubTime) (s : State) : State :=
  let l := laneOf i s
  let d := descOf l.cfg l.ep
  match st.boff with
  | none => nextStep i s
  | some off =>
    if st.busyBit && d.isBusy (payload st rx) then failAttempt i 4 (if l.probe then s else countEp l.ep 0x38 s)
    else
      let s1 := if l.discard then s else putBytes i off (payload st rx) s
      nextStep i (stampPort i t s1)

/-- The LAST code of a failed outcome (Table 09-4). -/
def failCode : PortOutcome → Nat
  | .noAnswer => 2
  | .unavailable => 10
  | _ => 5

/-- The transaction of lane `i` ends on the wire of port `p`, which another may be waiting for (R320). -/
def wireEnd (i p : Nat) (st : Step) (out0 : PortOutcome) (rx0 : List Byte) (t : HubTime) (s : State) : State :=
  let l := laneOf i s
  let d := descOf l.cfg l.ep
  let out := if portDropped p s then .unavailable else out0
  let rx := received p st rx0 s
  let sel : Fin 8 := ⟨field d.taddr 0 3, by unfold field; omega⟩
  let r := if isSPort p then sEnd (p - 2) sel st out rx s else (true, iEnd (p - 6) out s)
  let s1 := recPort p 0 l.ep (outcomeCode out) i rx t r.2
  let s2 := modLane i (fun l => { l with wait := .ready, openTx := out == .done && st.cont }) s1
  let s3 :=
    if l.cancelled then freeLaneAt i (releasePorts i s2)
    else if l.expired then failAttempt i 3 s2
    else if endedWell out then (if r.1 then stepDone i st rx t s2 else failAttempt i 6 s2)
    else failAttempt i (failCode out) s2
  pumpPort p s3

/-- The lane whose step runs on port `p`, if there is one. -/
def laneOn (p : Nat) (s : State) : Option Nat := (List.range 16).find? (fun i => (laneOf i s).wait == .step p)

/-- The lane that has a transaction on port `p`, on the wire or left open by CONT, if there is one. -/
def laneInTx (p : Nat) (s : State) : Option Nat := (List.range 16).find? (fun i => (laneOf i s).onWire p)

/-- The bytes that a transaction of lane `i` had received when it was cut short: how many they are and which, the commands that
cut one do not say (log entry 87). Only the trace shows them. -/
def tornBytes (i p : Nat) (s : State) : List Byte :=
  let n := match stepOf i s with
    | some st => (match rxNeeded p st s with | some n => n | none => st.byteLen.getD 0)
    | none => 0
  if (laneOf i s).wait == .step p then
    (List.range ((Config.freeWord s.tap.seed).toNat % (n + 1))).map (fun k => Config.freeByte s.tap.seed k)
  else []

/-- The transaction of lane `i` on port `p` has been cut short: its port input block carries what had been received (R368). -/
def recTorn (i p outcome : Nat) (s : State) : State :=
  let s1 := recPort p 0 (laneOf i s).ep outcome i (tornBytes i p s) s.time.now s
  { s1 with tap := { s1.tap with seed := s1.tap.seed + 1 } }

/-- The transaction of the lane on port `p`, if it has one, fails with an outcome of the trace and a
LAST code (R321, R340, R341, R344). -/
def failOnWire (p outcome code : Nat) (s : State) : State :=
  match laneInTx p s with
  | none => s
  | some i =>
    let s1 := recTorn i p outcome s
    let s2 := if isSPort p then abortFrame (p - 2) s1 else s1
    failAttempt i code (modLane i (fun l => { l with wait := .ready }) s2)

/-- A lane uses port `p`: its transaction is on the wire, it waits for the bus or for the port, or it waits for
a frame from it. -/
def laneUses (p : Nat) (l : Lane) : Bool :=
  l.wait == .step p || l.wait == .bus p || l.wait == .port p || l.held.contains p
    || (l.wait == .frm && (descOf l.cfg l.ep).port == p)

/-- Every attempt that uses a dropped port fails as port unavailable (Table 09-6). -/
def settleDropped (s : State) : State :=
  (List.range 14).foldl (fun s p =>
    if portDropped p s then
      (List.range 16).foldl (fun s i =>
        if (laneOf i s).wait != .free && laneUses p (laneOf i s) then
          (if (laneOf i s).onWire p && (isSPort p || isIPort p) then
            let s1 := recTorn i p 4 s
            failAttempt i 10 (modLane i (fun l => { l with wait := .ready }) (if isSPort p then abortFrame (p - 2) s1 else s1))
          else failAttempt i 10 s)
        else s) s
    else s) s

/-! ## Held frames -/

/-- A WAITFRM step takes a frame: its first LEN bytes go to the buffer, and its arrival is C (R192, R194). -/
def takeFrame (i : Nat) (ht : HubTime) (bytes : List Byte) (s : State) : State :=
  match stepOf i s with
  | some (.waitfrm len off) => nextStep i (stampPort i ht (putBytes i off (bytes.take len) s))
  | _ => s

/-- A frame is delivered to endpoint `n`: a waiting WAITFRM takes it, else it becomes the held frame (R192). -/
def deliverFrame (n : Nat) (ht : HubTime) (bytes : List Byte) (s : State) : State :=
  if keepsFrames n s then
    match (List.range 16).find? (fun i => (laneOf i s).wait == .frm && (laneOf i s).ep == n) with
    | some i => takeFrame i ht bytes s
    | none =>
      let s1 := if s.poll.held.any (fun h => h.ep == n) then countEp n 0x3F s else s
      setEstat n 3 true { s1 with poll := { s1.poll with held := ⟨n, ht, bytes⟩ :: s1.poll.held.filter (fun h => h.ep != n) } }
  else s

/-! ## GET -/

/-- The run of endpoint `n` due in the current epoch has not yet written its sample or ended (R193). -/
def sampleAwaited (n : Nat) (s : State) : Bool :=
  let cur := s.time.epochIx
  s.poll.lanes.any (fun l => l.wait != .free && l.ep == n && l.due == cur && !l.cancelled)
    || s.poll.waiting.any (fun r => r.ep == n && r.due == cur)
    || s.poll.pend.any (fun p => p.ep == n && p.due == cur)
    || s.poll.commits.any (fun c => c.ep == n && c.owed)

/-- GET with SRC 1 copies field `f` of endpoint `n`. -/
def copyField (i f off n : Nat) (s : State) : State :=
  nextStep i (stampGet i s.time.now (putBytes i off (leBytes 4 (stagedField n f s).toNat) s))

/-! ## Epoch starts -/

/-- Endpoint `n` is due in the epoch with number `number` in this mode (R186). -/
def epDue (n number : Nat) (m : Mode) (s : State) : Bool :=
  let d := descOf (running s) n
  d.active && d.dueIn number && (m != .walk || d.walk) && (m != .leadrein || !portDropped d.port s) && !estat n 2 s

/-- The endpoints in dispatch order (R187). -/
def dispatchOrder (s : State) : List Nat :=
  let ports := (List.range 256).filter (fun n => epPort (running s) n != 0xE)
  ports.filter (fun n => isExpress n s) ++ ports.filter (fun n => !isExpress n s)
    ++ (List.range 256).filter (fun n => epPort (running s) n == 0xE)

/-- An accepted ENDPOINT_COMMIT of endpoint `n` waits for its write (R205). -/
def commitWaits (n : Nat) (s : State) : Bool := s.poll.commits.any (fun c => c.ep == n)

/-- A run of a due instance that has not begun. -/
def newRun (n ix : Nat) : DueRun := ⟨n, ix, false, 0, false, 0, 0, false, false⟩

/-- Endpoint `n`, due in the epoch that starts, joins the due runs, or its instance is skipped (R188, Table
17-2). One with an accepted ENDPOINT_COMMIT is dispatched only after the write (R205); its instance is skipped where the write
does not come before the next epoch (log entry 88). -/
def addDue (n : Nat) (s : State) : State :=
  let ix := s.time.epochIx
  if s.poll.endedAhead.contains n then s
  else if s.poll.lanes.any (fun l => l.wait != .free && l.ep == n && l.due == ix)
      || s.poll.waiting.any (fun r => r.ep == n && r.due == ix) then s
  else if s.poll.commits.any (fun c => c.ep == n && !c.atBoundary) then
    { s with poll := { s.poll with
      commits := s.poll.commits.map (fun c => if c.ep == n && !c.atBoundary then { c with owed := true } else c) } }
  else if epRuns n s || s.fault.restarting.any (fun j => decide (77 ≤ j) && decide (j ≤ 80)) then countEp n 0x3A s
  else { s with poll := { s.poll with waiting := s.poll.waiting ++ [newRun n ix] } }

/-- Runs in dispatch order (R187): those of earlier epochs first, then those due in epoch `ix`. -/
def inOrder (order : List Nat) (ix : Nat) (rs : List DueRun) : List DueRun :=
  rs.filter (fun r => r.due != ix) ++ order.flatMap (fun n => rs.filter (fun r => r.ep == n && r.due == ix))

/-- The waiting due runs and trigger parts stand in dispatch order (R187, R200). -/
def sortRuns (s : State) : State :=
  let order := dispatchOrder s
  { s with poll := { s.poll with
    waiting := inOrder order s.time.epochIx s.poll.waiting, triggers := inOrder order (s.time.epochIx + 1) s.poll.triggers } }

/-- An instance that an ENDPOINT_COMMIT held back through its whole epoch has given no sample (Table 09-2). -/
def missOwed (s : State) : State :=
  let owed := s.poll.commits.filter (fun c => c.owed)
  owed.foldl (fun s c => countEp c.ep 0x3A s)
    { s with poll := { s.poll with commits := s.poll.commits.map (fun c => { c with owed := false }) } }

/-- The due runs of the epoch that starts (R186, R187), in dispatch order. -/
def dueRuns (s0 : State) : State :=
  let s := missOwed s0
  if (actMode s).polls && s.time.epochOn && !unitFailed 16 s && !kernelOnly s then
    let number := epochNumber s.time.epochIx s
    let s1 := (dispatchOrder s).foldl (fun s n => if epDue n number (actMode s) s then addDue n s else s) (grant 123 false s)
    dispatch (sortRuns { s1 with poll := { s1.poll with endedAhead := [] } })
  else s

/-- Run-ahead work at the boundary that starts the epoch (R201, R202): trigger parts without a lane are dropped;
of the others, those still due become ordinary runs, and the rest are cancelled. -/
def settleAhead (keep : Bool) (s : State) : State :=
  let ix := s.time.epochIx
  let goesOn := fun (n due : Nat) (s : State) =>
    keep && due == ix && epDue n (epochNumber ix s) (actMode s) s && !commitWaits n s
  let s1 := { s with poll := { s.poll with triggers := [], aheadDone := [] } }
  let s2 := s.poll.aheadDone.foldl (fun s r =>
    if goesOn r.ep r.due s then { s with poll := { s.poll with waiting := s.poll.waiting ++ [r] } }
    else orphanRun r.ep r.started s) s1
  (List.range 16).foldl (fun s i =>
    let l := laneOf i s
    if l.wait != .free && l.ahead && !l.cancelled then
      if goesOn l.ep l.due s then modLane i (fun l => { l with ahead := false }) s
      else cancelLane i 7 s
    else s) s2

/-- Runs that have no lane at the cutoff of their due epoch end without a sample (LAST 8, Table 09-4). -/
def dropNotRun (ix : Nat) (s : State) : State :=
  let late := s.poll.waiting.filter (fun r => decide (r.due ≤ ix))
  late.foldl (fun s r => missRun r.ep r.due 8 s)
    { s with poll := { s.poll with waiting := s.poll.waiting.filter (fun r => !decide (r.due ≤ ix)) } }

/-- Every run ends (Stabled entry, a failed scheduler): active runs with LAST 7, trigger parts as orphans
(Table 09-6). -/
def stopRuns (s : State) : State :=
  let s1 := { s with poll := { s.poll with waiting := [], triggers := [], aheadDone := [] } }
  let s2 := s.poll.waiting.foldl (fun s r => missRun r.ep r.due 7 s) s1
  let s3 := s.poll.aheadDone.foldl (fun s r => orphanRun r.ep r.started s) s2
  cancelLanes (fun l => !l.probe) 7 s3

/-- The end of the epoch that runs, unless a Walk epoch ends earlier (R71, R200). -/
def epochEnd (b : HubTime) (s : State) : HubTime :=
  b + BitVec.ofNat 48 ((s.time.walkLeft - 1) * s.time.period.toNat * 160)

/-! ## The express path -/

/-- An express event (R56, R253): ATTN_SRC.EXPR, and an EXPRESS item or its loss. -/
def postExpress (n : Nat) (ht : HubTime) (s : State) : State := attend 0 (postEvent (eventWords 1 n ht []) s)

/-- The held samples of an endpoint are settled before a later sample of it posts (R54). -/
def settleLate (n : Nat) (s : State) : State :=
  let mine := s.poll.late.filter (fun l => l.ep == n)
  mine.foldl (fun s l => grant 179 false (if l.passed then postExpress n l.ht s else s))
    { s with poll := { s.poll with late := s.poll.late.filter (fun l => l.ep != n) } }

/-- What the express check makes of a sample (R51 to R54): the direct route posts at once, any other sample
waits for its conditioning verdict. The samples of the ports meet at points 166 to 178, the routes at point 179. -/
def expressCheck (p : PendSample) (direct passed : Bool) (s0 : State) : State :=
  let s := grants (expressPath (epPort (running s0) p.ep)) s0
  if direct then grant 179 true (postExpress p.ep p.ht (settleLate p.ep s))
  else { s with poll := { s.poll with late := s.poll.late ++ [⟨p.ep, p.ht, passed⟩] } }

/-- A sample that took the direct route and then fails conditioning raises the express consistency fault, and
the express path is dropped (R52, Table 17-1). -/
def expressFault (n : Nat) (s : State) : State := dropUnit 15 0x44 (logFault 0x44 3 123 n s)

/-- `f` with configuration `m` in the place of the running one. -/
def withRunning (m : Mem) (f : State → State) (s : State) : State :=
  let s1 := f { s with cfg := { s.cfg with user := m, fallback := m } }
  { s1 with cfg := { s1.cfg with user := s.cfg.user, fallback := s.cfg.fallback } }

/-- The verdict points at which a sample asks to be conditioned and staged (Table 03-7): the tree of the lanes, and the staging
write against the commit or the early-store write against the fill. -/
def sampleAsks (p : PendSample) (s : State) : List (Nat × Bool) :=
  samplePath p.lane ++ (match stagedIx s with
    | some ix => if p.due ≤ ix then [(154, false)] else [(159, false)]
    | none => [])

/-- A conditioned sample that passed sets its endpoint's group value (R221): points 139 to 153. -/
def groupGrants (n : Nat) (passed : Bool) (s : State) : State :=
  if passed && nbit (chkWord n s) 3 then grants (groupPath (field (chkWord n s) 4 4)) s else s

/-- The staging write of endpoint `n` meets the lanes whose GET waits for it, at points 107 to 122. -/
def meetGets (n : Nat) (s : State) : State :=
  grants (((List.range 16).filter (fun i => (laneOf i s).wait == .sample n)).map (fun i => (107 + i, true))) s

/-- A sample passes through the express check, conditioning and the staging writer, by the settings of the
configuration that its run ran in (R75). -/
def completeSample (p : PendSample) (s0 : State) : State :=
  withRunning (if p.lead then s0.cfg.fallback else s0.cfg.user) (fun s =>
  let express := isExpress p.ep s && expressOn s
  let direct := express && directRoute p s
  let c := conditionSample p (grants (samplePath p.lane) s)
  let s1 := groupGrants p.ep c.1.passed (if express then expressCheck p direct c.1.passed c.2 else c.2)
  let s2 := if direct && !c.1.passed then expressFault p.ep s1 else s1
  let s3 := meetGets p.ep (stageSample p c.1 (express && c.1.passed) (renewWindows p.ep s2))
  if !c.1.passed && s3.tap.trig.toNat / 256 = p.ep then tapTrigger 2 s3 else s3) s0

/-! ## Commands -/

/-- RUN_AHEAD_DISPATCH (R200): the trigger part of endpoint `ep` for the next epoch takes a lane, or waits for
one, once its conditions hold. -/
def effRunAheadDispatch (ep : Fin 256) (s : State) : State :=
  let n := ep.val
  let d := descOf (running s) n
  match s.time.nextBoundary with
  | none => s
  | some b =>
    if d.ra && d.port != 0xE && hasSplit (running s) d.script && s.time.epochOn && (actMode s).polls
        && s.poll.waiting.isEmpty && !aheadBarred s && !commitWaits n s && !epRuns n s
        && !s.poll.endedAhead.contains n && !unitFailed 16 s
        && epDue n (epochNumber (s.time.epochIx + 1) s) (actMode s) s then
      let s1 := if d.ralead = 0 || s.replay.run then s else advance (epochEnd b s - BitVec.ofNat 48 (d.ralead * 160)) s
      dispatch (sortRuns { s1 with poll := { s1.poll with triggers := s1.poll.triggers ++ [newRun n (s1.time.epochIx + 1)] } })
    else s

/-- END (R185, R199); in a replay once point 52 + n grants it (R48). -/
def effEndStep (lane : Fin 16) (s : State) : State :=
  match atStep lane.val (fun st => st == .endRun) s with
  | none => s
  | some _ => if heldUp (52 + lane.val) true s then s else endSample lane.val s

/-- ACQ (R189). -/
def effAcq (lane : Fin 16) (s : State) : State :=
  match atStep lane.val (fun st => st == .acq) s with
  | none => s
  | some _ => acquire lane.val s

/-- The verdict points at which a lane's request for port `p` is granted: the tree of the lanes, and the port's own (Table
03-7). -/
def portAsks (i p : Nat) : List (Nat × Bool) := requestPath i ++ [(81 + p, false)]

/-- PORT_GRANT (R190): a lane that waits for a free port is granted it in its turn, in a replay once its points grant it
(R48). -/
def effPortGrant (lane : Fin 16) (s : State) : State :=
  match (laneOf lane.val s).wait with
  | .port p =>
    if !portHeld p s && fairTurn lane.val p s && passes (portAsks lane.val p) s then
      acquire lane.val (grantPort lane.val p (grants (portAsks lane.val p) s))
    else s
  | _ => s

/-- REL (R185, R191). -/
def effRel (lane : Fin 16) (s : State) : State :=
  match atStep lane.val (fun st => st == .rel) s with
  | none => s
  | some _ => nextStep lane.val (releasePorts lane.val s)

/-- SEND (R191, R309, R335). -/
def effSend (lane : Fin 16) (s : State) : State :=
  runWire lane.val (fun st => match st with | .send .. => true | _ => false) s

/-- RECV (R191, R309, R335). -/
def effRecv (lane : Fin 16) (s : State) : State :=
  runWire lane.val (fun st => match st with | .recv .. => true | _ => false) s

/-- XFER (R309). -/
def effXfer (lane : Fin 16) (s : State) : State :=
  runWire lane.val (fun st => match st with | .xfer .. => true | _ => false) s

/-- FRAME (R310, R311). -/
def effFrame (lane : Fin 16) (s : State) : State :=
  runWire lane.val (fun st => match st with | .frame .. => true | _ => false) s

/-- The bytes and the outcome fit the step that lane `i` has on the wire. -/
def wireFits (i : Nat) (out : PortOutcome) (rx : List Byte) (s : State) : Bool :=
  let l := laneOf i s
  match l.wait with
  | .step p =>
    (match stepOf i s with | some st => rxFits p st out rx s | none => false)
  | _ => false

/-- The transaction that lane `i` has on the wire ends now. -/
def laneEnds (i : Nat) (out : PortOutcome) (rx : List Byte) (s : State) : State :=
  match (laneOf i s).wait, stepOf i s with
  | .step p, some st => wireEnd i p st out rx s.time.now s
  | _, _ => s

/-- PORT_STEP_COMPLETE (R197). During a replay the trace ends every transaction (R379). -/
def effPortStepComplete (lane : Fin 16) (out : PortOutcome) (rx : List Byte) (t : HubTime) (s0 : State) : State :=
  let s := advance t s0
  if !s.replay.run && wireFits lane.val out rx s then laneEnds lane.val out rx s else s

/-- WAIT (R185). -/
def effWait (lane : Fin 16) (s : State) : State :=
  match atStep lane.val (fun st => match st with | .wait _ => true | _ => false) s with
  | none => s
  | some _ => waitFor lane.val .time s

/-- WAITT (R185): no wait when the time since the SPLIT has already passed. -/
def effWaitt (lane : Fin 16) (s : State) : State :=
  match atStep lane.val (fun st => match st with | .waitt _ => true | _ => false) s with
  | some (.waitt us) =>
    if 16 * us ≤ (s.time.now - (laneOf lane.val s).splitHt).toNat then nextStep lane.val s
    else waitFor lane.val .time s
  | _ => s

/-- WAIT_EXPIRY (R185). -/
def effWaitExpiry (lane : Fin 16) (s : State) : State :=
  if (laneOf lane.val s).wait = .time then nextStep lane.val s else s

/-- MF pin `mf` is a GPIO input whose bank has supply (R30, R185). -/
def mfWatched (mf : Nat) (s : State) : Bool :=
  (pinOf (52 + mf) s).act == 1 && (pinOf (52 + mf) s).phase != .transit && !bankOut 1 s

/-- MF pin `mf` is a GPIO input that reads `level`; where nothing drives the pin and no pull holds it, what it reads is free. -/
def mfReads (mf : Nat) (level : Bool) (s : State) : Bool :=
  mfWatched mf s && (pinOf (52 + mf) s).offLevel (Config.freeBool s.seed) == level

/-- WAITPIN (R185). -/
def effWaitpin (lane : Fin 16) (s : State) : State :=
  match atStep lane.val (fun st => match st with | .waitpin .. => true | _ => false) s with
  | some (.waitpin level mf) =>
    if mfReads mf level s then nextStep lane.val (drawn s) else waitFor lane.val (.pin mf level) (drawn s)
  | _ => s

/-- WAITPIN_MATCH (R185): the watched pin comes to its level. -/
def effWaitpinMatch (lane : Fin 16) (s : State) : State :=
  match (laneOf lane.val s).wait with
  | .pin mf level =>
    if mfWatched mf s then nextStep lane.val (modPin (52 + mf) (PinSt.board level) s) else s
  | _ => s

/-- A WAITFRM that waits meets the delivery of a CAN frame at a point of the channel (Table 12-6). -/
def frameAwaited (port : Nat) (s : State) : State :=
  if isCanPort port then grant (canPoint (if port = 0 then .a else .b) + 4) true s else s

/-- WAITFRM (R192): the held frame is taken at once, else the step waits. -/
def effWaitfrm (lane : Fin 16) (s : State) : State :=
  let i := lane.val
  match atStep i (fun st => match st with | .waitfrm .. => true | _ => false) s with
  | none => s
  | some _ =>
    let n := (laneOf i s).ep
    if portDropped (descOf (laneOf i s).cfg n).port s then failAttempt i 10 s
    else
      match s.poll.held.find? (fun h => h.ep == n) with
      | none => waitFor i .frm (frameAwaited (descOf (laneOf i s).cfg n).port s)
      | some h =>
        takeFrame i h.ht h.bytes (setEstat n 3 false
          { s with poll := { s.poll with held := s.poll.held.filter (fun h => h.ep != n) } })

/-- GET (R193). -/
def effGet (lane : Fin 16) (t : HubTime) (s0 : State) : State :=
  let s := advance t s0
  let i := lane.val
  match atStep i (fun st => match st with | .get .. => true | _ => false) s with
  | some (.get src f off n) =>
    if src = 0 then nextStep i (stampGet i s.time.now (putBytes i off (leBytes 6 s.time.now.toNat) s))
    else if !(laneOf i s).probe && sampleAwaited n s then waitFor i (.sample n) s
    else copyField i f off n s
  | _ => s

/-- GET_SAMPLE_READY (R193). -/
def effGetSampleReady (lane : Fin 16) (t : HubTime) (s0 : State) : State :=
  let s := advance t s0
  let i := lane.val
  match (laneOf i s).wait with
  | .sample n =>
    if sampleAwaited n s || heldUp (107 + i) false s then s
    else
      match stepOf i s with
      | some (.get _ f off m) => copyField i f off m (grant (107 + i) false s)
      | _ => s
  | _ => s

/-- SPLIT (R185, R200, R201): a trigger part that ran ahead leaves its lane; otherwise the read part follows. -/
def effSplit (lane : Fin 16) (t : HubTime) (s0 : State) : State :=
  let s := advance t s0
  let i := lane.val
  match atStep i (fun st => st == .split) s with
  | none => s
  | some _ =>
    let s1 := releasePorts i s
    let l := laneOf i s1
    if l.ahead then
      freeLaneAt i { s1 with poll := { s1.poll with
        aheadDone := s1.poll.aheadDone ++
          [⟨l.ep, l.due, true, s.time.now, l.started, l.retries, l.sht, l.timed, l.portData⟩] } }
    else if l.probe then modLane i (fun l => { l with splitHt := s.time.now, trig := false }) (nextStep i s1)
    else startAttempt i (l.pc + 1) false (modLane i (fun l => { l with splitHt := s.time.now }) s1)

/-- FLUSH (R202). -/
def effFlush (lane : Fin 16) (s : State) : State :=
  let i := lane.val
  match atStep i (fun st => match st with | .flush _ => true | _ => false) s with
  | some (.flush always) =>
    if always || estat (laneOf i s).ep 1 s then modLane i (fun l => { l with discard := true }) (nextStep i s)
    else modLane i (fun l => { l with pc := l.pc + 2 }) s
  | _ => s

/-- SKIP (R185). -/
def effSkip (lane : Fin 16) (s : State) : State :=
  let i := lane.val
  match atStep i (fun st => match st with | .skip .. => true | _ => false) s with
  | some (.skip n sense off mask val) =>
    let hit := Nat.land ((laneOf i s).buf.getD off 0).toNat mask == val
    modLane i (fun l => { l with pc := l.pc + 1 + (if hit != sense then n else 0) }) s
  | _ => s

/-- ATTEMPT_TIMEOUT (R198): TIMEOUTS rises, and the attempt fails: at once in a wait, and where a transaction is on the wire as
soon as that ends. -/
def effAttemptTimeout (lane : Fin 16) (s : State) : State :=
  let i := lane.val
  let l := laneOf i s
  match l.wait with
  | .free => s
  | .gap => s
  | w =>
    if l.cancelled || l.expired then s
    else
      let s1 := if l.probe then s else countEp l.ep 0x37 s
      match w with
      | .step _ => modLane i (fun l => { l with expired := true }) s1
      | _ => failAttempt i 3 (waitFor i .ready s1)

/-- RETRY_GAP_EXPIRY (R197): the retry starts, unless the cutoff has passed. -/
def effRetryGapExpiry (lane : Fin 16) (s : State) : State :=
  let i := lane.val
  let l := laneOf i s
  if l.wait = .gap then
    if mayRetry i s then
      let d := descOf l.cfg l.ep
      let whole := l.trig || d.rstart
      let s1 := countEp l.ep 0x36 (modLane i (fun l => { l with retries := l.retries + 1 }) s)
      startAttempt i (if whole then d.script else readStart l.cfg d.script)
        (whole && hasSplit l.cfg d.script) s1
    else endMissed i l.lastFail.toNat s
  else s

/-- SAMPLE_COMPLETION (R50): the oldest sample on its way is offered to the express check and conditioned; in a replay the
oldest that its points grant (R48). -/
def effSampleCompletion (t : HubTime) (s0 : State) : State :=
  let s := advance t s0
  match s.poll.pend.find? (fun p => passes (sampleAsks p s) s) with
  | none => s
  | some p =>
    completeSample p { s with poll := { s.poll with pend := dropFirst (fun q => passes (sampleAsks q s) s) s.poll.pend } }

/-- LATE_EXPRESS_ROUTE (R53): the oldest sample held at the express check is posted or dropped, in a replay once point 179
grants it (R48). -/
def effLateExpressRoute (t : HubTime) (s0 : State) : State :=
  let s := advance t s0
  match s.poll.late with
  | [] => s
  | l :: ls =>
    if heldUp 179 false s then s else
    let s1 := grant 179 false { s with poll := { s.poll with late := ls } }
    if l.passed && expressOn s1 then postExpress l.ep l.ht s1 else s1

/-- The meaning of RUN_AHEAD_DISPATCH. -/
def execRunAheadDispatch (ep : Fin 256) (s : State) : Host.Outcome State Fault Refusal := .next (effRunAheadDispatch ep s)
/-- The meaning of END. -/
def execEndStep (lane : Fin 16) (s : State) : Host.Outcome State Fault Refusal := .next (effEndStep lane s)
/-- The meaning of ACQ. -/
def execAcq (lane : Fin 16) (s : State) : Host.Outcome State Fault Refusal := .next (effAcq lane s)
/-- The meaning of PORT_GRANT. -/
def execPortGrant (lane : Fin 16) (s : State) : Host.Outcome State Fault Refusal := .next (effPortGrant lane s)
/-- The meaning of REL. -/
def execRel (lane : Fin 16) (s : State) : Host.Outcome State Fault Refusal := .next (effRel lane s)
/-- The meaning of SEND. -/
def execSend (lane : Fin 16) (s : State) : Host.Outcome State Fault Refusal := .next (effSend lane s)
/-- The meaning of RECV. -/
def execRecv (lane : Fin 16) (s : State) : Host.Outcome State Fault Refusal := .next (effRecv lane s)
/-- The meaning of XFER. -/
def execXfer (lane : Fin 16) (s : State) : Host.Outcome State Fault Refusal := .next (effXfer lane s)
/-- The meaning of FRAME. -/
def execFrame (lane : Fin 16) (s : State) : Host.Outcome State Fault Refusal := .next (effFrame lane s)
/-- The meaning of PORT_STEP_COMPLETE. -/
def execPortStepComplete (lane : Fin 16) (out : PortOutcome) (rx : List Byte) (t : HubTime) (s : State) :
    Host.Outcome State Fault Refusal := .next (effPortStepComplete lane out rx t s)
/-- The meaning of WAIT. -/
def execWait (lane : Fin 16) (s : State) : Host.Outcome State Fault Refusal := .next (effWait lane s)
/-- The meaning of WAITT. -/
def execWaitt (lane : Fin 16) (s : State) : Host.Outcome State Fault Refusal := .next (effWaitt lane s)
/-- The meaning of WAIT_EXPIRY. -/
def execWaitExpiry (lane : Fin 16) (s : State) : Host.Outcome State Fault Refusal := .next (effWaitExpiry lane s)
/-- The meaning of WAITPIN. -/
def execWaitpin (lane : Fin 16) (s : State) : Host.Outcome State Fault Refusal := .next (effWaitpin lane s)
/-- The meaning of WAITPIN_MATCH. -/
def execWaitpinMatch (lane : Fin 16) (s : State) : Host.Outcome State Fault Refusal := .next (effWaitpinMatch lane s)
/-- The meaning of WAITFRM. -/
def execWaitfrm (lane : Fin 16) (s : State) : Host.Outcome State Fault Refusal := .next (effWaitfrm lane s)
/-- The meaning of GET. -/
def execGet (lane : Fin 16) (t : HubTime) (s : State) : Host.Outcome State Fault Refusal := .next (effGet lane t s)
/-- The meaning of GET_SAMPLE_READY. -/
def execGetSampleReady (lane : Fin 16) (t : HubTime) (s : State) : Host.Outcome State Fault Refusal :=
  .next (effGetSampleReady lane t s)
/-- The meaning of SPLIT. -/
def execSplit (lane : Fin 16) (t : HubTime) (s : State) : Host.Outcome State Fault Refusal := .next (effSplit lane t s)
/-- The meaning of FLUSH. -/
def execFlush (lane : Fin 16) (s : State) : Host.Outcome State Fault Refusal := .next (effFlush lane s)
/-- The meaning of SKIP. -/
def execSkip (lane : Fin 16) (s : State) : Host.Outcome State Fault Refusal := .next (effSkip lane s)
/-- The meaning of ATTEMPT_TIMEOUT. -/
def execAttemptTimeout (lane : Fin 16) (s : State) : Host.Outcome State Fault Refusal := .next (effAttemptTimeout lane s)
/-- The meaning of RETRY_GAP_EXPIRY. -/
def execRetryGapExpiry (lane : Fin 16) (s : State) : Host.Outcome State Fault Refusal := .next (effRetryGapExpiry lane s)
/-- The meaning of SAMPLE_COMPLETION. -/
def execSampleCompletion (t : HubTime) (s : State) : Host.Outcome State Fault Refusal := .next (effSampleCompletion t s)
/-- The meaning of LATE_EXPRESS_ROUTE. -/
def execLateExpressRoute (t : HubTime) (s : State) : Host.Outcome State Fault Refusal := .next (effLateExpressRoute t s)

end Sys2Proof.Machine
end

