-- ==== Sys2Proof/Machine/IPorts.lean ====
section
/-! DEFINITION. The two-wire ports (chapter 14): the bus and its recovery, calls, and pass-through in Halter. -/

namespace Sys2Proof.Machine

/-! ## The bus -/

/-- Port `p` sees its two lines: their pins carry them, and bank C has supply (R23, R30). -/
def linesSeen (p : Nat) (s : State) : Bool := linesAttached p s && !bankOut 2 s

/-- The lanes that wait for the bus of I port `p` go on in their turn: their transaction starts, or fails (R337, R343, R349); a
waiting pass-through transaction likewise. -/
def resumeBus (p : Nat) (s : State) : State :=
  startPt p ((List.range 16).foldl (fun s i =>
    if (laneOf i s).wait == .bus (6 + p) then
      match stepOf i s with
      | some st => startWire i (match st.wire with | some c => c.2 | none => false) st s.time.now s
      | none => s
    else s) s)

/-- The hub drives a transaction on I port `p`, or holds the bus (R349). -/
def hubDrives (p : Nat) (s : State) : Bool := laneTx (6 + p) s || ptOnWire p s || (iportOf p s).hold

/-- BUS_BUSY (R337): another controller's START. What a bus does during a replay is in the trace (R379), here and below. -/
def effBusBusy (p : Fin 4) (s : State) : State :=
  if !s.replay.run && iWorks p.val s && linesSeen p.val s && !hubDrives p.val s && !(iportOf p.val s).recov then
    modIPort p.val (fun x => { x with ext := true }) s
  else s

/-- BUS_FREE (R331, R337, R342): the bus is free, a stuck bus has recovered, and a waiting transaction starts. -/
def effBusFree (p : Fin 4) (s : State) : State :=
  let x := iportOf p.val s
  if x.recov || s.replay.run || !iWorks p.val s then s
  else
    resumeBus p.val (modIPort p.val (fun x => { x with ext := false, idle := false, stk := false }) s)

/-- I2C_ARBITRATION_LOST (R339). -/
def effI2cArbitrationLost (p : Fin 4) (t : HubTime) (s0 : State) : State :=
  let s := advance t s0
  match laneOn (6 + p) s with
  | none => s
  | some i => if s.replay.run then s else laneEnds i .arbitrationLost [] s

/-- PT_STAT: RES, HOLD and DONE (Table 14-6). -/
def setPtStat (p res done : Nat) (hold : Bool) (s : State) : State :=
  setStatWord (portBlock (6 + p) + 0x24) (res + 8 * bit hold + 256 * done) s

/-- The RES code of a pass-through result (Table 14-6). -/
def ptCode : PtResult → Nat
  | .done => 1
  | .addrNack => 2
  | .dataNack => 3
  | .arbLost => 4
  | .hang => 5
  | .busyTimeout => 6

/-- A pass-through transaction fails without a byte transferred (R342, R348). -/
def ptFail (p : Nat) (res : PtResult) (s : State) : State :=
  stickI p 13 (setPtStat p (ptCode res) 0 false
    (modIPort p (fun x => { x with ptRun := false, ptTx := false }) s))

/-- A pass-through transaction is cut short (R344): how many bytes it had transferred, which it had read, and the RES code
where `res` gives none, are free (log entry 78). -/
def ptCut (p : Nat) (res : Option PtResult) (s : State) : State :=
  let a := portBlock (6 + p)
  let ctl := runWord (a + 0x20) s
  let w := (Config.freeWord s.seed).toNat
  let done := min (field ctl 8 5 + 1) (field w 0 6)
  let code := match res with | some r => ptCode r | none => field w 6 3
  let rx := (List.range done).map (fun k => Config.freeByte s.seed k)
  let s1 := if nbit ctl 1 then
      { s with cfg := { s.cfg with user := Memory.writeBytes cfgDflt s.cfg.user (a + 0x40) rx } }
    else s
  drawn (stickI p 13 (setPtStat p code done false
    (modIPort p (fun x => { x with ptRun := false, ptTx := false, hold := false }) s1)))

/-- The recovery of I port `p` starts: the lines are released, and the reset line is driven low where BRSTEN says so and its pin
carries it (R341). -/
def startRecovery (p : Nat) (s : State) : State :=
  let pulse := nbit (runWord (portBlock (6 + p)) s) 1 && pinCarries (38 + 3 * p) 0 s
  grant (iPoint p + 3) false (modIPort p (fun x => { x with recov := true, brst := if pulse then some s.time.now else none }) s)

/-- A hang is declared: the recovery starts, and the hub's transaction ends as a bus fault (R340, R341, R372). `res` is what a
pass-through transaction reports (Table 14-6). -/
def declareHang (p : Nat) (res : PtResult) (s : State) : State :=
  let s0 := tapTrigger 4 (if ptOnWire p s then ptCut p (some res) s else s)
  let s1 := countWord (portBlock (6 + p) + 0x386) (stickI p 9 (startRecovery p s0))
  failOnWire (6 + p) 3 5 (dropHold p s1)

/-- The bus of I port `p` is busy: a transaction of the hub, another controller's, or the BIDLE rule (R337). -/
def busBusy (p : Nat) (s : State) : Bool := hubDrives p s || (iportOf p s).ext || (iportOf p s).idle

/-- I2C_HANG (R340): a line stands still for STMO, or, with `busy`, the bus stays busy for BTMO where BTMO is not 0. -/
def effI2cHang (p : Fin 4) (busy : Bool) (t : HubTime) (s0 : State) : State :=
  let s := advance t s0
  if !s.replay.run && iWorks p.val s && !(iportOf p.val s).recov
      && (if busy then runWord (portBlock (6 + p.val) + 0x16) s != 0 && busBusy p.val s else linesSeen p.val s) then
    declareHang p.val (if busy then .busyTimeout else .hang) s
  else s

/-- The lanes and the pass-through transaction that wait for a stuck bus fail at once (R342). -/
def failWaiting (p : Nat) (s : State) : State :=
  let s1 := (List.range 16).foldl (fun s i => if (laneOf i s).wait == .bus (6 + p) then failAttempt i 5 s else s) s
  if (iportOf p s1).ptRun then ptFail p .hang s1 else s1

/-- A failed recovery (R342): the bus is stuck, and the fault is recorded. -/
def failRecovery (p : Nat) (s : State) : State :=
  let s1 := modIPort p (fun x => { x with stk := true }) s
  failWaiting p (logFault 0x48 1 0xFFFF (6 + p) (countWord (portBlock (6 + p) + 0x38C) (stickI p 10 s1)))

/-- I2C_RECOVERY_DONE (R341): the reset pulse and the bus clear are counted, and REC clears. -/
def effI2cRecoveryDone (p : Fin 4) (sdaLowAfterPulse linesHigh : Bool) (t : HubTime) (s0 : State) : State :=
  let s := advance t s0
  let a := portBlock (6 + p.val)
  if (iportOf p.val s).recov && !s.replay.run then
    let s1 := if (iportOf p.val s).brst.isSome then countWord (a + 0x388) s else s
    let s2 := if sdaLowAfterPulse then countWord (a + 0x38A) s1 else s1
    let s3 := modIPort p.val (fun x => { x with recov := false, brst := none }) s2
    if linesHigh then
      (if (iportOf p.val s3).stk then s3
       else resumeBus p.val (modIPort p.val (fun x => { x with ext := false, idle := false }) s3))
    else failRecovery p.val s3
  else s

/-- I2C_STUCK_RETRY (R342): the recovery is repeated. -/
def effI2cStuckRetry (p : Fin 4) (s : State) : State :=
  let x := iportOf p.val s
  if !s.replay.run && x.stk && !x.recov && iWorks p.val s then startRecovery p.val s else s

/-! ## Calls -/

/-- A call of `bs` bytes is posted, or lost (R346). -/
def postCall (p : Nat) (bs : List Byte) (s : State) : State :=
  let a := portBlock (6 + p)
  let kept := bs.take 16
  let s1 := if bs.length > 16 then countWord (a + 0x390) (stickI p 11 s) else s
  let s2 := postEvent (eventWords 2 (6 + p) s1.time.now (BitVec.ofNat 16 kept.length :: wordsOf kept)) s1
  if s2.pool.lost = 0 then attend 10 (countWord (a + 0x38E) s2)
  else countWord (a + 0x394) (stickI p 12 s2)

/-- The port answers calls (R331, R345): its target engine sees the bus, on which the hub drives no transaction of its own
(R433), in a mode that receives calls. -/
def takesCalls (p : Nat) (s : State) : Bool :=
  iWorks p s && nbit (runWord (portBlock (6 + p) + 0x1C) s) 7 && linesSeen p s && !hubDrives p s

/-- A write call with its bytes ends (R346). The event's place was reserved at the acknowledged address, which under the drop-old
policy has freed older events, also for an empty call (R254). -/
def callEnds (p : Nat) (bytes : List Byte) (s : State) : State :=
  let s1 := recPort (6 + p) 1 0xFF 0 0 (bytes.take 16) s.time.now s
  if bytes.isEmpty then countWord (portBlock (6 + p) + 0x392) (eventRoom s1) else postCall p bytes s1

/-- I2C_CALL (R345, R346): another controller's transaction with address byte `addr` ends. The target engine answers a write to
the call address; a read of it counts as bad, and any other address is not the port's. -/
def effI2cCall (p : Fin 4) (addr : Byte) (bytes : List Byte) (t : HubTime) (s0 : State) : State :=
  let s := advance t s0
  let a := portBlock (6 + p.val)
  if !s.replay.run && takesCalls p.val s && addr.toNat / 2 == field (runWord (a + 0x1C) s) 0 7 then
    let s1 := grants [(iPoint p.val, true), (iPoint p.val + 4, false)] s
    if addr.getLsbD 0 then countWord (a + 0x392) s1 else callEnds p.val bytes s1
  else s

/-! ## Pass-through -/

/-- A window write of PT_CTL (R348): RD, CONT and LEN take the value; GO starts a transaction, fails it at once on a stuck bus
(R342), or is refused. -/
def ptCtlWrite (p : Nat) (v : Word) (s : State) : Reply :=
  let a := portBlock (6 + p) + 0x20
  let s1 := { s with cfg := { s.cfg with user := (writeCfg s.cfg.user a v.toNat).1 } }
  if nbit v.toNat 0 then
    if s.mode.cur != .halter || !iWorks p s || (iportOf p s).ptRun then denied s1
    else if (iportOf p s).stk then wrote (ptFail p .hang s1)
    else wrote (startPt p (grant (iPoint p + 6) false (modIPort p (fun x => { x with ptRun := true }) s1)))
  else wrote s1

/-- What the end of a pass-through transaction counts (R336, R339, R348). -/
def ptCount (p : Nat) (res : PtResult) (s : State) : State :=
  match res with
  | .done => countWord (portBlock (6 + p) + 0x396) (countXfer p s)
  | .addrNack => stickI p 13 (countNack p s)
  | .dataNack => stickI p 13 (countNack p s)
  | .arbLost => stickI p 13 (countArbLost p s)
  | _ => stickI p 13 s

/-- The bytes that a pass-through transaction transfers: all of them when it completes. -/
def ptBytes (p : Nat) (res : PtResult) (done : Nat) (s : State) : Nat :=
  let len := field (runWord (portBlock (6 + p) + 0x20) s) 8 5 + 1
  if res == .done then len else min done len

/-- The pass-through transaction on the wires ends: its read bytes go to PT_BUF, and PT_STAT is final (R348). -/
def ptEnd (p : Nat) (res : PtResult) (done0 : Nat) (rx : List Byte) (s : State) : State :=
  let a := portBlock (6 + p)
  let ctl := runWord (a + 0x20) s
  let done := ptBytes p res done0 s
  let hold := res == .done && nbit ctl 2
  let s1 := if nbit ctl 1 then
      { s with cfg := { s.cfg with user := Memory.writeBytes cfgDflt s.cfg.user (a + 0x40) (rx.take done) } }
    else s
  ptCount p res (setPtStat p (ptCode res) done hold
    (modIPort p (fun x => { x with ptRun := false, ptTx := false, hold := hold }) s1))

/-- A hang ends the pass-through transaction on the wires and is declared (R340). -/
def ptHangs (p : Nat) (res : PtResult) (s : State) : State :=
  if res == .hang || runWord (portBlock (6 + p) + 0x16) s != 0 then declareHang p res s else s

/-- PT_GO (R348): GO is written, and the transaction runs to its end with the result that the wire gives; while the bus is
busy or a lane has it, it waits. -/
def effPtGo (p : Fin 4) (res : PtResult) (done : Nat) (rx : List Byte) (s : State) : State :=
  let a := portBlock (6 + p.val) + 0x20
  let v := BitVec.ofNat 16 (cfgWord s.cfg.user a + 1)
  let s1 := if (iportOf p.val s).ptRun then startPt p.val s else winWriteRow a v (ptCtlWrite p.val v) s
  if ptOnWire p.val s1 then
    if res == .hang || res == .busyTimeout then ptHangs p.val res s1
    else if !nbit (runWord a s1) 1 || rx.length == ptBytes p.val res done s1 then
      resumeBus p.val (ptEnd p.val res done rx s1)
    else s1
  else s1

/-- PT_HOLD_EXPIRY (R348): the hub sends a STOP and clears HOLD, and what waits for the bus starts. -/
def effPtHoldExpiry (p : Fin 4) (s : State) : State :=
  if (iportOf p.val s).hold then resumeBus p.val (dropHold p.val (grant (iPoint p.val + 6) true s)) else s

/-! ## The port summary -/

/-- PSUM_In (Table 14-4). -/
def psumI (p : Nat) (s : State) : Word :=
  let x := iportOf p s
  packWord [(bit (iWorks p s), 0), (bit (hubDrives p s), 1), (bit x.ext, 2), (bit x.recov, 3),
    (bit (!iTimingOk p s), 4), (bit x.stk, 5), (field x.sticky.toNat 8 7, 8)]

/-- The meaning of BUS_FREE. -/
def execBusFree (p : Fin 4) (s : State) : Host.Outcome State Fault Refusal := .next (effBusFree p s)
/-- The meaning of BUS_BUSY. -/
def execBusBusy (p : Fin 4) (s : State) : Host.Outcome State Fault Refusal := .next (effBusBusy p s)
/-- The meaning of I2C_ARBITRATION_LOST. -/
def execI2cArbitrationLost (p : Fin 4) (t : HubTime) (s : State) : Host.Outcome State Fault Refusal :=
  .next (effI2cArbitrationLost p t s)
/-- The meaning of I2C_HANG. -/
def execI2cHang (p : Fin 4) (h : BusHang) (s : State) : Host.Outcome State Fault Refusal := .next (effI2cHang p h.busy h.t s)
/-- The meaning of I2C_RECOVERY_DONE. -/
def execI2cRecoveryDone (p : Fin 4) (sdaLowAfterPulse linesHigh : Bool) (t : HubTime) (s : State) :
    Host.Outcome State Fault Refusal := .next (effI2cRecoveryDone p sdaLowAfterPulse linesHigh t s)
/-- The meaning of I2C_STUCK_RETRY. -/
def execI2cStuckRetry (p : Fin 4) (s : State) : Host.Outcome State Fault Refusal := .next (effI2cStuckRetry p s)
/-- The meaning of I2C_CALL. -/
def execI2cCall (p : Fin 4) (addr : Byte) (bytes : List Byte) (t : HubTime) (s : State) :
    Host.Outcome State Fault Refusal := .next (effI2cCall p addr bytes t s)
/-- The meaning of PT_GO. -/
def execPtGo (p : Fin 4) (res : PtResult) (done : Nat) (rx : List Byte) (s : State) :
    Host.Outcome State Fault Refusal := .next (effPtGo p res done rx s)
/-- The meaning of PT_HOLD_EXPIRY. -/
def execPtHoldExpiry (p : Fin 4) (s : State) : Host.Outcome State Fault Refusal := .next (effPtHoldExpiry p s)

end Sys2Proof.Machine
end

