-- ==== Sys2Proof/Machine/SPorts.lean ====
section
/-! DEFINITION. The serial ports apart from lane steps (chapter 13): pass-through entries, the target role, and
the S0 execute window with its cache and the SFDP read. -/

namespace Sys2Proof.Machine

/-! ## Receive items -/

/-- The words before the data of a receive item (Table 13-4). -/
def rxItem (flags n : Nat) (t : HubTime) (bs : List Byte) : List Byte :=
  leBytes 2 (n + flags) ++ leBytes 6 t.toNat ++ padTo (bs.length + bs.length % 2) bs

/-- A receive item is put on the queue of S port `p`; where no cell can be reserved, the bytes are not stored
(R316). -/
def putRx (p : Nat) (bytes : List Byte) (s : State) : State :=
  match putItem (42 + p) (.sport ⟨p % 4, by omega⟩) 0 bytes 0 s with
  | some s' => s'
  | none => markDrop (42 + p) (stickS p 10 s)

/-! ## Pass-through -/

/-- The entry can be run: its select is usable and attached, its descriptor is valid, and T matches the frame (R315). -/
def ptFits (p : Nat) (e : PtEntry) (s : State) : Bool :=
  let f := frameDesc (running s) (2 + p) e.fd
  selectUsable p e.sel.val s && selectAttached p e.sel.val s && e.data.length == e.t
    && (if e.frm then f.ok && e.t == f.stream else decide (1 ≤ e.t) && decide (e.t ≤ 56))

/-- The settings with which the frame of an entry begins (R304). -/
def ptFrame (p : Nat) (e : PtEntry) (s : State) : SFrame := frameNow p e.sel.val (if e.frm then some e.fd else none) s

/-- How many bytes the wire delivers for an entry that completes. -/
def ptRxLen (p : Nat) (e : PtEntry) (s : State) : Nat :=
  let f := ptFrame p e s
  if e.frm then f.desc.reads else if f.safe then e.t + f.trailer else e.t

/-- An entry is run as one frame, or answered with BAD (R315, R316). `rx0` are the bits that were sampled, earliest first. -/
def runEntry (p : Nat) (e : PtEntry) (aborted : Bool) (rx0 : List Byte) (s : State) : State :=
  let t := s.time.now
  if ptFits p e s then
    let f := ptFrame p e s
    let rx := if e.frm then rx0 else f.sampled rx0
    let s1 := sendFrame p .host f (if e.frm then frameOut p f e.data s else byteOut p f e.data s) s
    if aborted then
      let bs := (rx.take (if e.frm then f.desc.reads else e.t)).take 56
      putRx p (rxItem 128 bs.length t bs) (abortFrame p s1)
    else
      let len := if e.frm then none else some e.t
      let r := if e.frm then (true, s1) else endByteFrame p f e.t rx s1
      let s2 := holdSelect p e.sel (e.cont && nextNames p e.sel s) len (countWord (portBlock (2 + p) + 0x390) (countFrame p r.2))
      let bs := if e.frm then rx.take 56 else rx.take e.t
      putRx p (rxItem (64 * bit (!r.1)) bs.length t bs) s2
  else putRx p (rxItem 256 0 t []) (stickS p 12 (releaseSelect p s))

/-- PASS_THROUGH_ENTRY (R315): the next entry that is not poisoned runs when it is its turn (R258, R320) and its pins do not wait
for the port's idle point (R31). A select that was held for an entry found poisoned rises. -/
def effPassThroughEntry (p : Fin 4) (aborted : Bool) (rx : List Byte) (t : HubTime) (s0 : State) : State :=
  let s := advance t s0
  let q := 38 + p.val
  if s.mode.cur == .halter && nbit (runWord (portBlock (2 + p.val)) s) 2 && sWorks p.val s && !sTarget p.val s
      && sTurn p.val .host s then
    let s1 := settleHold p.val (skipBad (queueOf q s).items.length q s)
    match takeItem q s1 with
    | none => s1
    | some r =>
      let e := ptEntry r.1.bytes
      if sStops p.val e.sel.val s1 then s1
      else if !ptFits p.val e s || (if aborted then decide (rx.length ≤ ptRxLen p.val e s) else rx.length == ptRxLen p.val e s)
      then pumpPort (2 + p.val) (runEntry p.val e aborted rx r.2)
      else s1
  else s

/-! ## Target role -/

/-- The pins that a target transaction needs carry the port: CS0_N and SCK (Table 13-2, R23). -/
def targetAttached (p : Nat) (s : State) : Bool :=
  selectAttached p 0 s && pinCarries ((sharedPins p).headD 0) 0 s

/-- The transaction's frame: MODE and LSBF of select 0, and TFILL, as they stand at the fall (R304, R317); the loaded item is the
one that is sent (R318). -/
def targetBegins (p : Nat) (stored : Bool) (t : HubTime) (s : State) : State :=
  let f := frameNow p 0 none s
  grant (sPoint p + (if p = 0 then 3 else 1)) false (modSPort p (fun x => { x with
    target := true, stored := stored, ignore := false, frame := f, sending := x.loaded, loaded := none, fell := t }) s)

/-- The select falls at `t` (R318, R316): a receive cell is reserved, and the fall's hub time is kept for the item. -/
def targetFall (p : Fin 4) (t : HubTime) (s0 : State) : State :=
  let s := loadTarget p.val s0
  if servesTarget p.val s && !(sportOf p.val s).target then
    match reserve (42 + p.val) 1 (.sport p) 0 s with
    | some s1 => targetBegins p.val true t s1
    | none => targetBegins p.val false t (markDrop (42 + p.val) (stickS p.val 10 s))
  else s

/-- TARGET_SELECT_FALL (R318, R316): no transaction starts once a pin waits for the port's idle point (R31) or Stabled entry has
begun (R85). During a replay a target transaction comes whole from the trace (R379). -/
def effTargetSelectFall (p : Fin 4) (t : HubTime) (s0 : State) : State :=
  let s := advance t s0
  if s.replay.run || !targetAttached p.val s || sStops p.val 0 s || s.power.sleep == .quiescing then s
  else targetFall p s.time.now s

/-- The receive item of a target transaction is closed (R319): with ABT where the transaction was aborted (R321). -/
def closeTarget (p : Fin 4) (rx : List Byte) (part aborted : Bool) (s : State) : State :=
  let bs := rx.take 56
  let flags := 128 * bit aborted + 512 * bit part + 1024 * bit (decide (56 < rx.length))
  closeItem (42 + p.val) (.sport p) (rxItem flags bs.length (sportOf p.val s).fell bs) 0 s

/-- The bytes that a target transaction stores: all of them, or where it was aborted those before the abort, whose number the
commands do not tell (R321; log entry 87). -/
def targetKept (x : SPortSt) (rx : List Byte) (s : State) : List Byte :=
  if x.ignore then rx.take ((Config.freeWord s.seed).toNat % (rx.length + 1)) else rx

/-- One cell of a target transaction: data out on SDO, on S0 on IO1; its other lanes are inputs or off (Table 13-2). -/
def targetCell (p : Nat) (b : Bool) : List (Option Bool) := if p != 0 then [some b] else [none, some b, none, none]

/-- The select rises (R318, R319): `rx0` are the bits that came in, `clocked` the bytes that went out. -/
def targetRise (p : Fin 4) (rx0 : List Byte) (clocked : Nat) (partialByte : Bool) (s : State) : State :=
  let x := sportOf p.val s
  let a := portBlock (2 + p.val)
  if x.target then
    let f := x.frame
    let rx := f.sampled rx0
    let item := x.sending.getD []
    let under := x.sending.isNone || decide (item.length < clocked)
    let sent := item.take clocked ++ List.replicate (clocked - item.length) f.tfill
    let out : SOut := { sel := 0, cmd := 0, addr := 0, bytes := sent, mode := f.mode, lead := 0, lag := 0, breaks := []
                        cells := (sent.flatMap (byteBits f.lsbf)).map (targetCell p.val) }
    let lost := decide (56 < rx.length) || ((!x.stored || x.ignore) && !rx.isEmpty)
    let s1 := recPort (2 + p.val) 2 0xFF (5 * bit partialByte) 0 (rx.take 240) s.time.now s
    let s2 := if x.stored then drawn (closeTarget p (targetKept x rx s1) partialByte x.ignore s1) else s1
    let s3 := countWord (a + 0x384) (if lost then countWord (a + 0x386) (stickS p.val 10 s2) else s2)
    let s4 := if under then countWord (a + 0x388) (stickS p.val 11 s3) else s3
    loadTarget p.val (modSPort p.val (fun x => { x with
      target := false, stored := false, ignore := false, sending := none, out := out }) s4)
  else s

/-- TARGET_SELECT_RISE (R318, R319). -/
def effTargetSelectRise (p : Fin 4) (rx : List Byte) (clocked : Nat) (partialByte : Bool) (t : HubTime) (s0 : State) :
    State :=
  let s := advance t s0
  if s.replay.run then s else targetRise p rx clocked partialByte s

/-! ## The execute window -/

/-- Which of the cache's lines 0 to 7 the line at address `l` is or becomes: its own, else one that holds nothing, and where
none is left that of the least recently used (R323). Which of the empty lines a fill takes the spec does not say: `pick` is
free (log entry 107). -/
def lineNumber (pick l : Nat) (x : SPortSt) : Nat :=
  match x.cache.findIdx? (fun e => e.1 == l) with
  | some i => x.lines.getD i 0
  | none =>
    let free := (List.range 8).filter (fun k => !x.lines.contains k)
    if free.isEmpty then x.lines.getLastD 0 else free.getD (pick % free.length) 0

/-- A line enters the cache as line number `n` and as the most recently used one; the least recently used of nine leaves (R323). -/
def cacheLine (n l : Nat) (bs : List Byte) (x : SPortSt) : SPortSt :=
  { x with
    cache := ((l, bs) :: x.cache.filter (fun e => e.1 != l)).take 8
    lines := (n :: x.lines.filter (fun k => k != n)).take 8 }

/-- The verdict point of cache line `n`: 319 and 320 have three lines each, 321 two (Table 13-9). -/
def linePoint (n : Nat) : Nat := 319 + min 2 (n / 3)

/-- Every line is invalidated; a fill in progress is not kept (R325). -/
def invalidateCache (s : State) : State :=
  grant 315 false
    (modSPort 0 (fun x => { x with cache := [], lines := [], prefetch := none, fill := x.fill.map (fun f => (f.1, false, f.2.2)) }) s)

/-- The bytes `a` and `a + 1` of a cached line, which becomes the most recently used one (R323). -/
def readCached (a : Nat) (s : State) : Option (Word × State) :=
  match cachedLine (lineOf a) s with
  | none => none
  | some bs =>
    let n := lineNumber 0 (lineOf a) (sportOf 0 s)
    some (BitVec.ofNat 16 ((bs.getD (a % 32) 0).toNat + 256 * (bs.getD (a % 32 + 1) 0).toNat),
      grants [(314, false), (linePoint n, true)] (modSPort 0 (cacheLine n (lineOf a) bs) s))

/-- LINE_FILL_DONE (R323): the line is written into the cache, unless it was invalidated meanwhile (R325). -/
def effLineFillDone (line : List Byte) (s : State) : State :=
  match (sportOf 0 s).fill with
  | none => s
  | some f =>
    if line.length = 32 then
      let s1 := grant 315 true (countFrame 0 (modSPort 0 (fun x => { x with fill := none }) s))
      let s2 := if f.2.1 then
          (let n := lineNumber (Config.freeWord s.seed).toNat f.1 (sportOf 0 s1)
          grants [(linePoint n, false), (314, true)]
            (drawn (modSPort 0 (fun x => { cacheLine n f.1 line x with prefetch := if f.2.2 then some f.1 else none }) s1)))
        else s1
      pumpS0 s2
    else s

/-- No other requester has S0 or waits for it (R320, R324). -/
def s0Idle (s : State) : Bool :=
  !sInFrame 0 s && !laneTx 2 s && !lanesWait 2 s && !portHeld 2 s && !flashJob s && !ptHolds 2 s && !othersWant 0 .nobody s

/-- LINE_PREFETCH (R324). -/
def effLinePrefetch (s : State) : State :=
  match (sportOf 0 s).prefetch with
  | none => s
  | some l =>
    let n := l + 32
    if decide (n < 2 ^ 24) && nbit (runWord 0x2A0A s) (n / 2 ^ 20) && (cachedLine n s).isNone && s0Idle s && windowFetches s
        && s.power.sleep != .quiescing then
      countWord 0x2B8E (modSPort 0 (fun x => { x with prefetch := none })
        (beginFill n false (grants [(317, true), (316, false)] s)))
    else s

/-- WCTRL as it reads (Table 13-11). -/
def wctrlRead (s : State) : Word :=
  BitVec.ofNat 16 (cfgWord s.cfg.user 0x2A00 + 64 * bit (sportOf 0 s).sfdpRun + 128 * bit (sportOf 0 s).sfdpOk + 1024 * bit (sportOf 0 s).sfdpErr)

/-- A window write of WCTRL (R325, R326): the cache is invalidated; SFDP starts the read in Halter, or arms it once more
(R149), and is refused elsewhere. -/
def wctrlWrite (v : Word) (s : State) : Reply :=
  let r := writeCfg s.cfg.user 0x2A00 v.toNat
  let s1 := invalidateCache { s with cfg := { s.cfg with user := r.1 } }
  if nbit v.toNat 6 then
    if s.mode.cur != .halter then denied s1
    else ⟨0, r.2, startSfdp (modSPort 0 (fun x => { x with sfdpRun := true, sfdpAgain := x.sfdpRun }) s1)⟩
  else ⟨0, r.2, s1⟩

/-- CACHE_INVALIDATE (R325): a window write of WCTRL with INV = 1, its other fields kept. -/
def effCacheInvalidate (s : State) : State :=
  let v := BitVec.ofNat 16 (cfgWord s.cfg.user 0x2A00 + 32)
  winWriteRow 0x2A00 v (wctrlWrite v) s

/-- SFDP_READ (R326): a window write of WCTRL with SFDP = 1, its other fields kept. -/
def effSfdpRead (s : State) : State :=
  let v := BitVec.ofNat 16 (cfgWord s.cfg.user 0x2A00 + 64)
  winWriteRow 0x2A00 v (wctrlWrite v) s

/-- A read form of the basic flash parameter table: its FORM code, opcode, wait states and mode clocks, with
the lanes of its address phase. -/
structure ReadForm where
  form : Nat
  op : Nat
  wait : Nat
  mode : Nat
  al : Nat

/-- The read forms that DWORDs 1, 3 and 4 list, the fastest first (JESD216; log entry 30). -/
def readForms (dw : List Long) (maxl : Nat) : List ReadForm :=
  let d1 := (dw.getD 0 0).toNat
  let d3 := (dw.getD 2 0).toNat
  let d4 := (dw.getD 3 0).toNat
  let f := fun (form d lo al : Nat) => ReadForm.mk form (field d (lo + 8) 8) (field d lo 5) (field d (lo + 5) 3) al
  (if 2 ≤ maxl then (if nbit d1 21 then [f 4 d3 0 4] else []) ++ (if nbit d1 22 then [f 3 d3 16 1] else []) else [])
    ++ (if 1 ≤ maxl then (if nbit d1 20 then [f 2 d4 16 2] else []) ++ (if nbit d1 16 then [f 1 d4 0 1] else []) else [])

/-- The flash settings that the first nine DWORDs give (R326). -/
def sfdpSettings (dw : List Long) (s : State) : State :=
  let d1 := (dw.getD 0 0).toNat
  let maxl := field (runWord 0x2A00 s) 8 2
  let r := (readForms dw maxl).headD ⟨0, 0x0B, 8, 0, 1⟩
  let modeen := decide (r.mode * r.al = 8)
  let w0 := runWord 0x2A00 s
  let ctl := w0 - 8 * bit (nbit w0 3) - 16 * bit (nbit w0 4) + 8 * bit (nbit w0 3 || field d1 17 2 == 2) + 16 * bit modeen
  let prog := runWord 0x2A06 s
  let m1 := Memory.writeBytes cfgDflt s.cfg.user 0x2A00 (leBytes 2 ctl)
  let m2 := Memory.writeBytes cfgDflt m1 0x2A02 (leBytes 2 (r.op + 256 * r.form + 2048 * ((r.wait + r.mode) % 32)))
  let m3 := Memory.writeBytes cfgDflt m2 0x2A04 (leBytes 2 0)
  let m4 := if field d1 0 2 = 1 then Memory.writeBytes cfgDflt m3 0x2A06 (leBytes 2 (prog % 256 + 256 * field d1 8 8)) else m3
  { s with cfg := { s.cfg with user := m4 } }

/-- The flags after an SFDP read, which runs once more where it was written again (R149, R326). -/
def endSfdp (good : Bool) (s : State) : State :=
  pumpS0 (modSPort 0 (fun x => { x with
    sfdpRun := x.sfdpAgain, sfdpSent := false, sfdpAgain := false, sfdpOk := good, sfdpErr := !good }) s)

/-- The table's frame goes out on S0, after the header's: nine DWORDs from the address that the header gives, which no command
brings and which is free (R326; log entry 89). -/
def readTable (s : State) : State := drawn (sendSfdp ((Config.freeWord s.seed).toNat + 65536 * (Config.freeByte s.seed 0).toNat) 36 s)

/-- SFDP_DONE (R326): the settings with SFDPOK, or SFDPERR and every setting unchanged. How many frames the read
took is not stated. A port that does not work reads no table. -/
def effSfdpDone (table : Option (List Long)) (s : State) : State :=
  if (sportOf 0 s).sfdpSent then
    let s1 := drawn (countWordBy 0x2B80 (Config.freeWord s.seed).toNat s)
    match table with
    | some dw => if 9 ≤ dw.length then endSfdp true (invalidateCache (sfdpSettings dw (readTable s1))) else endSfdp false s1
    | none => endSfdp false s1
  else if (sportOf 0 s).sfdpRun && !sReady 0 (flashSel s) s && table.isNone then endSfdp false s
  else s

/-! ## The port summary -/

/-- PSUM_Sn (Table 13-6). -/
def psumS (p : Nat) (s : State) : Word :=
  packWord [(bit (sWorks p s), 0), (bit (sTarget p s), 1), (bit (sInFrame p s), 2), (bit (sportOf p s).hold.isSome, 3),
    (bit (p == 0 && windowFetches s), 4), (field (sportOf p s).sticky.toNat 8 7, 8)]

/-- The meaning of PASS_THROUGH_ENTRY. -/
def execPassThroughEntry (p : Fin 4) (aborted : Bool) (rx : List Byte) (t : HubTime) (s : State) :
    Host.Outcome State Fault Refusal := .next (effPassThroughEntry p aborted rx t s)
/-- The meaning of TARGET_SELECT_FALL. -/
def execTargetSelectFall (p : Fin 4) (t : HubTime) (s : State) : Host.Outcome State Fault Refusal :=
  .next (effTargetSelectFall p t s)
/-- The meaning of TARGET_SELECT_RISE. -/
def execTargetSelectRise (p : Fin 4) (rx : List Byte) (clocked : Nat) (partialByte : Bool) (t : HubTime) (s : State) :
    Host.Outcome State Fault Refusal := .next (effTargetSelectRise p rx clocked partialByte t s)
/-- The meaning of LINE_FILL_DONE. -/
def execLineFillDone (line : List Byte) (s : State) : Host.Outcome State Fault Refusal := .next (effLineFillDone line s)
/-- The meaning of LINE_PREFETCH. -/
def execLinePrefetch (s : State) : Host.Outcome State Fault Refusal := .next (effLinePrefetch s)
/-- The meaning of CACHE_INVALIDATE. -/
def execCacheInvalidate (s : State) : Host.Outcome State Fault Refusal := .next (effCacheInvalidate s)
/-- The meaning of SFDP_READ. -/
def execSfdpRead (s : State) : Host.Outcome State Fault Refusal := .next (effSfdpRead s)
/-- The meaning of SFDP_DONE. -/
def execSfdpDone (table : Option (List Long)) (s : State) : Host.Outcome State Fault Refusal := .next (effSfdpDone table s)

end Sys2Proof.Machine
end

