-- ==== Sys2Proof/Machine/Sent.lean ====
section
/-! DEFINITION. The SENT inputs (chapter 15): sync pulses, fast-channel frames, the slow channel, and errors. -/

namespace Sys2Proof.Machine

/-- A statistics word of SENT input `p` (Table 15-7). -/
def tStat (p o : Nat) : Nat := portBlock (10 + p) + o

/-- A frame is being received: its sync pulse was valid, and its CRC nibble has not ended (Table 02-7). -/
def TPortSt.inFrame (x : TPortSt) : Bool := match x.stage with | .frame _ => true | _ => false

/-- The settings that the running configuration gives SENT input `p` (Table 15-6). -/
def tSettings (p : Nat) (s : State) : TSettings :=
  let a := portBlock (10 + p)
  let w := fun (o : Nat) => BitVec.ofNat 16 (runWord (a + o) s)
  ⟨w 0, w 2, w 4, w 6⟩

/-- NIB (Table 15-6). -/
def TSettings.nib (c : TSettings) : Nat := field c.cfg.toNat 4 3
/-- CRCREC. -/
def TSettings.crcrec (c : TSettings) : Bool := c.cfg.getLsbD 1
/-- PAUSE. -/
def TSettings.pause (c : TSettings) : Bool := c.cfg.getLsbD 2
/-- SUCC. -/
def TSettings.succ (c : TSettings) : Bool := c.cfg.getLsbD 3
/-- FLT. -/
def TSettings.flt (c : TSettings) : Nat := field c.tol.toNat 8 8

/-- A pulse of `len` rt is a sync candidate: longer than 27.5 ticks, or before any calibration (R355). -/
def syncCandidate (x : TPortSt) (len : Nat) : Bool := !x.calibrated || decide (55 * x.tick < 16 * len)

/-- A sync candidate of `len` rt is a valid sync pulse by the settings `c` (R355). -/
def syncValid (x : TPortSt) (c : TSettings) (len : Nat) : Bool :=
  let tol := field c.tol.toNat 0 5
  let nom := c.nom.toNat
  decide (56 * nom * (100 - tol) ≤ 800 * len) && decide (800 * len ≤ 56 * nom * (100 + tol))
    && (!c.succ || (match x.prev with
        | some l => decide (64 * (max len l - min len l) ≤ l)
        | none => true))

/-- The tick of a sync pulse of `len` rt, in rt/8, to the nearest (R355). -/
def syncTick (len : Nat) : Nat := (2 * len + 7) / 14

/-- `len` lies in [11.5, `hi` + 0.5) ticks (R356). -/
def inTicks (tick hi len : Nat) : Bool := decide (23 * tick ≤ 16 * len) && decide (16 * len < (2 * hi + 1) * tick)

/-- The value of a valid nibble pulse: q rounded, halves upward, less 12 (R356). -/
def nibbleOf (tick len : Nat) : BitVec 4 := BitVec.ofNat 4 ((16 * len + tick) / (2 * tick) - 12)

/-- A frame of SENT input `p` reaches every endpoint of the channel (R360). -/
def sentDeliver (p : Nat) (wanted : Nat → Bool) (t : HubTime) (bytes : List Byte) (s : State) : State :=
  (List.range 256).foldl (fun s n =>
    if epPort (running s) n == 10 + p && wanted (cfgWord (running s) (epAddr n + 4)) then deliverFrame n t bytes s else s) s

/-- A waiting WAITFRM of the input's endpoints of one channel fails its frame check (R361). -/
def sentFailWaiting (p : Nat) (slow : Bool) (s : State) : State :=
  (List.range 16).foldl (fun s i =>
    let d := descOf (laneOf i s).cfg (laneOf i s).ep
    if (laneOf i s).wait == .frm && d.port == 10 + p && nbit d.taddr 0 == slow then failAttempt i 6 s else s) s

/-! ## The slow channel -/

/-- A slow message is discarded (R359, Table 15-3). Like every error of that table it clears the predecessor for SUCC, but not
the search (R355, R362). -/
def slowError (p : Nat) (bytes : List Byte) (s : State) : State :=
  let s1 := modTPort p (fun x => { x with slow := [], prev := none }) s
  sentFailWaiting p true (recSent p 6 bytes s1.time.now (countWord (tStat p 0x38C) (stickT p 12 s1)))

/-- A complete slow message: ID, data, the configuration bit and whether it is an enhanced one. -/
structure SlowMsg where
  id : Nat
  data : Nat
  c : Bool
  enhanced : Bool

/-- The number that bits spell, most significant first. -/
def msbValue (bs : List Bool) : Nat := bs.foldl (fun v b => 2 * v + bit b) 0

/-- What the frames of the message so far make of it (R359). -/
inductive SlowState where
  | partialMsg
  | broken
  | complete (m : SlowMsg)

/-- A short message: bit 3 is 1 in the first frame only; 4 bits of ID, 8 of data, 4 of CRC. -/
def shortState (recommended : Bool) (l : List (Bool × Bool)) : SlowState :=
  if (l.drop 1).any Prod.fst then .broken
  else if l.length < 16 then .partialMsg
  else
    let v := msbValue (l.map Prod.snd)
    let nib := fun k => BitVec.ofNat 4 (field v k 4)
    if sentCrc recommended [nib 12, nib 8, nib 4] = nib 0 then .complete ⟨field v 12 4, field v 4 8, false, false⟩ else .broken

/-- Bit 3 of frame number `k` (from 0) of an enhanced message is as the pattern asks. -/
def enhancedBit (k : Nat) (b : Bool) : Bool :=
  if k < 6 then b else if k = 6 ∨ k = 12 ∨ k = 17 then !b else true

/-- The pattern of bits 3 holds so far. -/
def enhancedPattern (l : List (Bool × Bool)) : Bool :=
  (List.range l.length).all (fun k => enhancedBit k (l.getD k (false, false)).1)

/-- An enhanced message of 18 frames (R359). -/
def enhancedState (l : List (Bool × Bool)) : SlowState :=
  if !enhancedPattern l then .broken
  else if l.length < 18 then .partialMsg
  else
    let body := l.drop 6
    let crc := BitVec.ofNat 6 (msbValue ((l.take 6).map Prod.snd))
    if sentCrc6 (body.flatMap (fun f => [f.2, f.1])) = crc then
      let hi := msbValue (((l.drop 8).take 4).map Prod.fst)
      let lo := msbValue (((l.drop 13).take 4).map Prod.fst)
      let data := msbValue (body.map Prod.snd)
      if (l.getD 7 (false, false)).1 then .complete ⟨hi, data + 4096 * lo, true, true⟩
      else .complete ⟨16 * hi + lo, data, false, true⟩
    else .broken

/-- A slow message is complete: its frame bytes go to the endpoints of its ID (R359, R360). -/
def slowDone (p : Nat) (bytes : List Byte) (s : State) : State :=
  let s1 := grants [(384 + 2 * p, true), (385 + 2 * p, true)]
    (countWord (tStat p 0x38A) (modTPort p (fun x => { x with slow := [] }) s))
  sentDeliver p (fun a => nbit a 0 && field a 8 8 == (bytes.getD 2 0).toNat) s1.time.now bytes (recSent p 1 bytes s1.time.now s1)

/-- The slow channel takes the status nibble of a valid frame (R359, R360). -/
def slowFrame (p : Nat) (status : BitVec 4) (tick : List Byte) (s : State) : State :=
  let x := tportOf p s
  let mode := field x.set.cfg.toNat 8 2
  if mode = 0 ∨ mode = 3 then s
  else if x.slow.isEmpty && !status.getLsbD 3 then s
  else
    let l := x.slow ++ [(status.getLsbD 3, status.getLsbD 2)]
    match (if mode = 1 then shortState x.set.crcrec l else enhancedState l) with
    | .partialMsg => modTPort p (fun x => { x with slow := l }) s
    | .broken => slowError p [] s
    | .complete m =>
      slowDone p (leBytes 2 m.data ++ [BitVec.ofNat 8 m.id, BitVec.ofNat 8 (bit m.c + 2 * bit m.enhanced)] ++ tick) s

/-! ## Frames and errors -/

/-- The class numbers of Table 16-1, the counters and the PSUM bits of Table 15-3. -/
def sentCode : SentClass → Nat × Option Nat × Nat
  | .calibration => (2, some 0x382, 8)
  | .nibble => (3, some 0x384, 9)
  | .crc => (4, some 0x386, 10)
  | .pause => (5, some 0x388, 11)
  | .clock => (0, none, 14)

/-- The value of data nibbles at their places in a frame of `nib` of them, D1 most significant (Table 15-4). -/
def nibblesValue (nib : Nat) (data : List (BitVec 4)) : Nat :=
  (List.range data.length).foldl (fun v k => v + (data.getD k 0).toNat * 16 ^ (nib - 1 - k)) 0

/-- The search for a sync pulse starts afresh, with no predecessor for SUCC (R353, R355). -/
def sentSearch (p : Nat) (s : State) : State := modTPort p (fun x => { x with stage := .search, prev := none }) s

/-- What every fast-channel error does besides its counter: the search restarts, a message being assembled is
lost, and waiting steps fail (R359, R361, R362). -/
def sentDiscard (p : Nat) (s : State) : State :=
  let s1 := sentSearch p s
  sentFailWaiting p false (if (tportOf p s1).slow.isEmpty then s1 else slowError p [] s1)

/-- A fast-channel error with the nibbles decoded so far, the status nibble first (R362). -/
def sentFail (p : Nat) (c : SentClass) (nibbles : List (BitVec 4)) (s : State) : State :=
  let e := sentCode c
  let x := tportOf p s
  let bytes := leBytes 3 (nibblesValue x.set.nib (nibbles.drop 1)) ++ [BitVec.ofNat 8 (nibbles.headD 0).toNat]
  let s1 := match e.2.1 with | some o => countWord (tStat p o) s | none => s
  let s2 := modTPort p (fun x => { x with synced := x.synced && c != .calibration }) (stickT p e.2.2 s1)
  sentDiscard p (if e.1 = 0 then s2 else recSent p e.1 bytes s2.time.now s2)

/-- A valid fast-channel frame with its six frame bytes (R358, R360). -/
def fastDone (p : Nat) (status : Nat) (bytes : List Byte) (s : State) : State :=
  let s1 := grants [(384 + 2 * p, false), (385 + 2 * p, false)]
    (modTPort p (fun x => { x with stage := if x.set.pause then .pause else .sync }) s)
  let s2 := setStatWord (tStat p 0x392) status (countWord (tStat p 0x380) s1)
  sentDeliver p (fun a => !nbit a 0) s.time.now bytes (recSent p 0 bytes s.time.now s2)

/-- What a pulse brings about. -/
inductive SentEvent where
  | nothing | synced | framed | failed
  deriving DecidableEq, Repr

/-- A sync candidate is tried (R355): a valid one sets the tick, and a frame begins; another is a calibration error. -/
def trySync (p : Nat) (c : TSettings) (len : Nat) (s : State) : SentEvent × State :=
  if syncValid (tportOf p s) c len then
    (.synced, setStatWord (tStat p 0x390) (min (syncTick len) 0xFFFF) (modTPort p (fun x => { x with
      tick := syncTick len, calibrated := true, synced := true, prev := some len, stage := .frame [], set := c }) s))
  else (.failed, sentFail p .calibration [] s)

/-- A frame whose last nibble has ended is judged (R357, R358). -/
def judgeFrame (p : Nat) (nibbles : List (BitVec 4)) (s : State) : SentEvent × State :=
  let x := tportOf p s
  let status := nibbles.headD 0
  let data := (nibbles.drop 1).dropLast
  if some (sentCrc x.set.crcrec data) = nibbles.getLast? then
    let tick := leBytes 2 (min x.tick 0xFFFF)
    let bytes := leBytes 3 (nibblesValue x.set.nib data) ++ [BitVec.ofNat 8 (status.toNat + 16 * x.set.nib)] ++ tick
    (.framed, slowFrame p status tick (fastDone p status.toNat bytes s))
  else (.failed, sentFail p .crc nibbles.dropLast s)

/-- One pulse of `len` rt whose first edge found the settings `c` (R355, R356, R358, R362). A sync candidate that comes early
fails the frame it interrupts and is then tried as a sync pulse. -/
def takePulse (p : Nat) (c : TSettings) (len : Nat) (s : State) : SentEvent × State :=
  let x := tportOf p s
  let cand := syncCandidate x len
  match x.stage with
  | .search => if cand then trySync p c len s else (.nothing, s)
  | .sync => if cand then trySync p c len s else (.failed, sentFail p .nibble [] s)
  | .pause =>
    if inTicks x.tick 768 len then (.nothing, modTPort p (fun x => { x with stage := .sync }) s)
    else (.failed, sentFail p .pause [] s)
  | .frame ns =>
    if cand then trySync p c len (sentFail p .nibble ns s)
    else if !inTicks x.tick 27 len then (.failed, sentFail p .nibble ns s)
    else if ns.length + 1 < x.set.nib + 2 then
      (.nothing, modTPort p (fun x => { x with stage := .frame (ns ++ [nibbleOf x.tick len]) }) s)
    else judgeFrame p (ns ++ [nibbleOf x.tick len]) s

/-- The pulse is over: its last edge ends a silence and starts the next pulse, for which the settings are taken (R354, R362). -/
def endPulse (p : Nat) (r : SentEvent × State) : SentEvent × State :=
  (r.1, modTPort p (fun x => { x with next := some (tSettings p r.2), silent := false }) r.2)

/-- The pulses that pass the input filter (R354): a falling edge whose low level is shorter than FLT does not, so that the two
pulses at it are one. The edge that starts the first pulse has passed (log entry 106). -/
def passedPulses (flt : Nat) : List SentPulse → List Nat
  | [] => []
  | x :: rest =>
    (rest.foldl (fun acc y => if y.low < flt then (match acc with | a :: l => (a + y.len) :: l | [] => [y.len]) else y.len :: acc)
      [x.len]).reverse

/-- A run of pulses: what the last brings about. A run in which an earlier one does more than go by is none. -/
def runPulses (p : Nat) : List Nat → State → SentEvent × State
  | [], s => (.nothing, s)
  | len :: rest, s =>
    let r := endPulse p (takePulse p ((tportOf p s).next.getD (tSettings p s)) len s)
    if rest.isEmpty then r
    else if r.1 == .nothing then runPulses p rest r.2
    else (.nothing, s)

/-- SENT input `p` takes pulses: it decodes, bank C has supply, and it does not stand at the idle point before a change of its pin
or in Stabled entry (R30, R353, Table 02-7). -/
def takesPulses (p : Nat) (s : State) : Bool :=
  tWorks p s && !bankOut 2 s && ((tportOf p s).inFrame || (!pinStops (48 + p) s && s.power.sleep != .quiescing))

/-- The pulses of a command, where what they bring about is the command's event. During a replay the inputs' events come from the
trace (R379). -/
def sentPulses (p : Nat) (wanted : SentEvent → Bool) (pulses : List SentPulse) (s : State) : State :=
  let r := runPulses p (passedPulses ((tportOf p s).next.getD (tSettings p s)).flt pulses) s
  if !s.replay.run && takesPulses p s && wanted r.1 then r.2 else s

/-- SENT_SYNC (R354, R355): pulses up to a valid sync pulse, which sets the tick and begins a frame, or pulses that go by on the
way to one. -/
def effSentSync (p : Fin 4) (pulses : List SentPulse) (t : HubTime) (s0 : State) : State :=
  sentPulses p.val (fun e => e == .synced || e == .nothing) pulses (advance t s0)

/-- SENT_FRAME (R356 to R360): the pulses of a frame, judged at the end of its CRC nibble. -/
def effSentFrame (p : Fin 4) (pulses : List SentPulse) (t : HubTime) (s0 : State) : State :=
  sentPulses p.val (fun e => e == .framed) pulses (advance t s0)

/-- SENT_ERROR (R362): pulses of which the last is an error of Table 15-3. -/
def effSentError (p : Fin 4) (pulses : List SentPulse) (t : HubTime) (s0 : State) : State :=
  sentPulses p.val (fun e => e == .failed) pulses (advance t s0)

/-- The line has been silent for its limit (R362). -/
def lineSilent (p : Nat) (s : State) : State :=
  let s1 := countWord (tStat p 0x38E) (stickT p 13 (modTPort p (fun x => { x with silent := true, next := none }) s))
  sentDiscard p (recSent p 7 [] s1.time.now s1)

/-- The line timeout in force: that of the latest sync pulse's settings, before any sync pulse the one configured (R354;
log entry 105). -/
def lineLimit (p : Nat) (s : State) : Word :=
  if (tportOf p s).calibrated then (tportOf p s).set.ltmo else (tSettings p s).ltmo

/-- SENT_LINE_TIMEOUT (R362): counted once for each silent stretch. -/
def effSentLineTimeout (p : Fin 4) (t : HubTime) (s0 : State) : State :=
  let s := advance t s0
  if !s.replay.run && tWorks p.val s && !(tportOf p.val s).silent && lineLimit p.val s != 0 then lineSilent p.val s else s

/-- The meaning of SENT_SYNC. -/
def execSentSync (p : Fin 4) (run : SentRun) (s : State) : Host.Outcome State Fault Refusal :=
  .next (effSentSync p run.pulses run.t s)
/-- The meaning of SENT_FRAME. -/
def execSentFrame (p : Fin 4) (before : List SentPulse) (low len : Nat) (t : HubTime) (s : State) :
    Host.Outcome State Fault Refusal := .next (effSentFrame p (before ++ [⟨low, len⟩]) t s)
/-- The meaning of SENT_ERROR. -/
def execSentError (p : Fin 4) (before : List SentPulse) (last : SentPulse) (t : HubTime) (s : State) :
    Host.Outcome State Fault Refusal := .next (effSentError p (before ++ [last]) t s)
/-- The meaning of SENT_LINE_TIMEOUT. -/
def execSentLineTimeout (p : Fin 4) (t : HubTime) (s : State) : Host.Outcome State Fault Refusal :=
  .next (effSentLineTimeout p t s)

end Sys2Proof.Machine
end

