-- ==== Sys2Proof/Machine/Boryel.lean ====
section
/-! DEFINITION. Boryel sync (R236 to R241): leader and follower, pairs, offset, lock and steps. -/

namespace Sys2Proof.Machine

/-- The statistics word of a channel (Table 12-11). -/
def canStat (ch : Chan) (o : Nat) : Nat := portBlock (chanNum ch) + o

/-- The transmit queue of a channel (Table 12-1). -/
def txQueue (ch : Chan) : Nat := 36 + chanNum ch

/-- The receive queue `k` of a channel (Table 12-1). -/
def rxQueue (ch : Chan) (k : Nat) : Nat := 32 + 2 * chanNum ch + k

/-- The control word of a transmit item (R282). -/
def txControl (f : CanFrame) (prio : BitVec 3) : Word :=
  packWord [(f.dlc.toNat, 0), (bit f.fdf, 4), (bit f.brs, 5), (bit f.ide, 6), (bit f.rtr, 7), (prio.toNat, 8)]

/-- A transmit item in the pool (R282): the control word, the identifier and the data bytes. -/
def txItem (f : CanFrame) (prio : BitVec 3) : List Byte :=
  leBytes 2 (txControl f prio).toNat ++ leBytes 4 f.id.toNat ++ f.data

/-- The frame that a transmit item names (R282). -/
def txFrameOf (bs : List Byte) : CanFrame :=
  let c := leValue (bs.take 2)
  let id := leValue ((bs.drop 2).take 4)
  { ide := nbit c 6, rtr := nbit c 7, fdf := nbit c 4, brs := nbit c 5, esi := false
    id := BitVec.ofNat 29 (if nbit c 6 then id else id % 2048)
    dlc := BitVec.ofNat 4 c, data := (bs.drop 6).take (dlcBytes (nbit c 4) (field c 0 4)) }

/-- A 48-bit difference read as signed (R212). -/
def timeDiff (a b : HubTime) : Int := signed 48 (a - b).toNat

/-- BY_CFG, BY_SLEW of the running configuration (Table 10-8). -/
def byDiv (s : State) : Nat := field (runWord 0x1208 s) 0 3
/-- PROP. -/
def byProp (s : State) : Nat := field (runWord 0x1208 s) 8 8
/-- SLEW. -/
def bySlew (s : State) : Nat := field (runWord 0x120A s) 0 8
/-- STEP_TH in ht. -/
def byStepHt (s : State) : Nat := 16 * field (runWord 0x120A s) 8 8

/-- The channel that BY_CTRL.CH names. -/
def byChan (s : State) : Chan := if s.boryel.ctrl.getLsbD 2 then .b else .a

/-- Boryel sync runs (R241): EN, a mode and a channel that work. -/
def byRuns (s : State) : Bool :=
  s.boryel.ctrl.getLsbD 0 && (actMode s == .halter || (actMode s).polls) && !unitFailed 18 s
    && (canOf (byChan s) s).state == 2

/-- The condition for acting as leader (R286, R241). -/
def mayLead (s : State) : Bool :=
  byRuns s && s.boryel.ctrl.getLsbD 1 && !s.boryel.yielded && actMode s != .walk

/-- A frame has the identifier at the settings offset `o`: 0 for SYNC, 4 for FUP (R236). -/
def hasById (o : Nat) (f : CanFrame) (s : State) : Bool :=
  let lo := runWord (0x1200 + o) s
  let hi := runWord (0x1202 + o) s
  f.ide == nbit hi 15 && f.id.toNat == (lo + 65536 * field hi 0 13) % (if nbit hi 15 then 2 ^ 29 else 2048)

/-- A received frame belongs to Boryel sync (R273). -/
def isBoryel (ch : Chan) (f : CanFrame) (s : State) : Bool :=
  s.boryel.ctrl.getLsbD 0 && byChan s == ch && (hasById 0 f s || hasById 4 f s)

/-! ## Lock -/

/-- Lock is gained (R239). -/
def gainLock (s : State) : State :=
  if s.boryel.lock then s
  else attend 12 { s with boryel := { s.boryel with lock := true, gain := true } }

/-- Lock is lost (R239). -/
def loseLock (s : State) : State :=
  if s.boryel.lock then attend 12 { s with boryel := { s.boryel with lock := false, loss := true, pairs := 0 } }
  else { s with boryel := { s.boryel with pairs := 0 } }

/-- A SYNC not yet sent leaves its queue and the transmit buffer, and no FUP follows it (R237). -/
def withdrawSync (s : State) : State :=
  let drop := fun (ch : Chan) (s : State) =>
    let s1 := modQueue (txQueue ch) (fun x => { x with items := x.items.filter (fun i => i.kind != 2) }) s
    modCan ch (fun c => match c.txBuf with
      | some f => if f.kind = 2 then { c with txBuf := none } else c
      | none => c) s1
  let s1 := drop .b (drop .a (if s.boryel.syncOut.isSome then grants [(8, true), (canPoint (byChan s) + 8, true)] s else s))
  { s1 with boryel := { s1.boryel with syncOut := none } }

/-- ACTLEAD follows its condition: a new leader reports lock if it has heard no other; one that stops leading
loses it and withdraws its SYNC (R239, R241). -/
def settleLead (s : State) : State :=
  if mayLead s && !s.boryel.leading then
    let s1 := { s with boryel := { s.boryel with leading := true, pairs := 0 } }
    if s1.boryel.rx.isNone then gainLock s1 else loseLock s1
  else if !mayLead s && s.boryel.leading then
    withdrawSync (loseLock { s with boryel := { s.boryel with leading := false, rx := none } })
  else s

/-! ## Leader -/

/-- A Boryel frame is queued at the highest priority (R237, R286). -/
def queueBoryel (o : Nat) (kind : Byte) (data : List Byte) (s : State) : State :=
  let hi := runWord (0x1202 + o) s
  let f : CanFrame :=
    { ide := nbit hi 15, rtr := false, fdf := false, brs := false, esi := false
      id := BitVec.ofNat 29 ((runWord (0x1200 + o) s + 65536 * field hi 0 13) % (if nbit hi 15 then 2 ^ 29 else 2048))
      dlc := 8, data := data }
  let q := txQueue (byChan s)
  match putItem q (.canHub (byChan s)) 7 (txItem f 7) kind s with
  | none => markDrop q s
  | some s1 => grant (canPoint (byChan s) + 7) true s1

/-- At a base boundary (R237, R239): the SYNC before it is withdrawn, and at every 2^DIV-th boundary an acting
leader queues the next; one that has heard no other leader since the last reports lock. -/
def leadBoundary (s0 : State) : State :=
  let s := withdrawSync s0
  if s.boryel.leading && s.time.baseCount.toNat % 2 ^ byDiv s == 0 then
    match s.time.recent with
    | [] => s
    | b :: _ =>
      let s1 := if s.boryel.rx.isNone then gainLock s else s
      let seq := s1.boryel.seq
      let s2 := { s1 with boryel := { s1.boryel with seq := seq + 1, syncOut := some (seq, b.1), rx := none } }
      queueBoryel 0 2 ([BitVec.ofNat 8 s.boryel.node.toNat, seq] ++ leBytes 2 s.time.period.toNat
        ++ leBytes 4 s.time.baseCount.toNat) (grant 8 false s2)
  else s

/-- A SYNC has been sent with its start of frame stamped `sof`: the FUP is queued (R236, R237). -/
def syncSent (sof : HubTime) (s : State) : State :=
  match s.boryel.syncOut with
  | none => s
  | some x =>
    queueBoryel 4 3 ([BitVec.ofNat 8 s.boryel.node.toNat, x.1] ++ leBytes 4 (sof - x.2).toNat ++ [0, 0])
      { s with boryel := { s.boryel with syncOut := none } }

/-! ## Follower -/

/-- The own base boundaries near now: the recent ones, and the next. -/
def ownBounds (s : State) : List (HubTime × Long) :=
  (match s.time.nextBoundary with | some b => [(b, s.time.baseCount + 1)] | none => []) ++ s.time.recent

/-- The boundary of a list nearest to a time. -/
def nearest (est : HubTime) : List (HubTime × Long) → Option (HubTime × Long)
  | [] => none
  | b :: bs =>
    match nearest est bs with
    | none => some b
    | some c => if (timeDiff c.1 est).natAbs < (timeDiff b.1 est).natAbs then some c else some b

/-- A received SYNC (R238, R239, R241). -/
def syncReceived (data : List Byte) (sof : HubTime) (s : State) : State :=
  let node := data.getD 0 0
  let lower := decide (node.toNat < s.boryel.node.toNat)
  let rx : RxSync :=
    { node := node, seq := data.getD 1 0, period := BitVec.ofNat 16 (leValue ((data.drop 2).take 2))
      count := BitVec.ofNat 32 (leValue ((data.drop 4).take 4)), stamp := sof, bounds := ownBounds s }
  let mm := rx.period != s.time.period
  let s1 := { s with boryel := { s.boryel with lnode := BitVec.ofNat 7 node.toNat } }
  let heard := fun (s : State) => { s with boryel := { s.boryel with rx := some rx } }
  let follow := fun (s : State) =>
    let s2 := { heard s with boryel := { (heard s).boryel with epmm := mm } }
    if mm then loseLock s2 else s2
  if s1.boryel.leading then
    if lower then
      follow (settleLead { s1 with boryel := { s1.boryel with yielded := true, confl := true } })
    else loseLock (heard s1)
  else if s1.boryel.yielded && !lower then s1
  else follow s1

/-- The leader boundary that a step takes as the next base boundary (R238): the first at least half an epoch
after the start of the present one, and not past. -/
def stepTarget (est start now : HubTime) (ownLen leadLen : Nat) : HubTime :=
  let need := max (timeDiff start est + (ownLen : Int) / 2) (timeDiff now est + 1)
  let n := (need + (leadLen : Int) - 1) / (leadLen : Int)
  est + BitVec.ofInt 48 (n * (leadLen : Int))

/-- A step (R238): the next base boundary moves onto the leader's. -/
def byStep (est : HubTime) (leadPeriod : Nat) (s : State) : State :=
  match s.time.recent with
  | [] => s
  | b :: _ =>
    let next := stepTarget est b.1 s.time.now (160 * s.time.period.toNat) (160 * max 1 leadPeriod)
    loseLock { s with
      time := { s.time with nextBoundary := some next, epstep := true }
      boryel := { s.boryel with step := true, carry := 0 } }

/-- A pair (R238, R239): the offset, its correction or step, and the count towards lock. -/
def pairReceived (rx : RxSync) (delta : Nat) (s : State) : State :=
  let est := rx.stamp - BitVec.ofNat 48 (delta + byProp s)
  match nearest est rx.bounds with
  | none => s
  | some b =>
    let off := timeDiff b.1 est
    let s1 := { s with boryel := { s.boryel with
      rx := none, offset := BitVec.ofInt 16 (clamp (-32768) 32767 off), leaderBase := some (b.2, rx.count) } }
    if off.natAbs > byStepHt s then byStep est rx.period.toNat s1
    else
      let s2 := { s1 with boryel := { s1.boryel with carry := -off } }
      if off.natAbs > 16 then loseLock s2
      else if off.natAbs ≤ 8 ∧ rx.period = s.time.period then
        let n := min 3 (s2.boryel.pairs + 1)
        let s3 := { s2 with boryel := { s2.boryel with pairs := n } }
        if n = 3 then gainLock s3 else s3
      else { s2 with boryel := { s2.boryel with pairs := 0 } }

/-- A received FUP (R238). -/
def fupReceived (data : List Byte) (s : State) : State :=
  match s.boryel.rx with
  | none => s
  | some rx =>
    if !s.boryel.leading && data.getD 0 0 == rx.node && data.getD 1 0 == rx.seq then
      pairReceived rx (leValue ((data.drop 2).take 4)) s
    else s

/-- A Boryel frame goes to the sync unit; one with the wrong DLC, a remote frame or an FD frame is ignored
(R236). -/
def boryelFrame (f : CanFrame) (sof : HubTime) (s : State) : State :=
  if byRuns s && !f.fdf && !f.rtr && f.dlc == 8 then
    if hasById 0 f s then syncReceived f.data sof (grant 6 false s) else fupReceived f.data (grant 7 false s)
  else s

/-! ## Registers and commands -/

/-- A write of BY_CTRL: lock is lost, and the values take effect at the next base boundary (R239, R241). -/
def byCtrlWrite (v : Word) (s : State) : State :=
  let s1 := { s with boryel := { s.boryel with ctrlNext := BitVec.ofNat 3 v.toNat } }
  if s1.boryel.leading then s1 else loseLock s1

/-- BY_CTRL and BY_NODE take effect (R241); point 9 sees a write that does. -/
def byApply (s0 : State) : State :=
  let s := if s0.boryel.ctrl = s0.boryel.ctrlNext ∧ s0.boryel.node = s0.boryel.nodeNext then s0 else grant 9 false s0
  settleLead { s with boryel := { s.boryel with
    ctrl := s.boryel.ctrlNext, node := s.boryel.nodeNext
    yielded := s.boryel.yielded && s.boryel.ctrlNext.getLsbD 0 && s.boryel.ctrlNext.getLsbD 1 } }

/-- The correction of the base epoch that starts, at most SLEW (R238). -/
def bySlewNow (s : State) : Int := clamp (-(bySlew s : Int)) (bySlew s) s.boryel.carry

/-- The leader base count of the own boundary with base count `own`, while locked; else all ones (Table 10-2). -/
def byCountAt (own : Long) (s : State) : Long :=
  if s.boryel.lock then
    if s.boryel.leading then own
    else match s.boryel.leaderBase with
      | some p => p.2 + (own - p.1)
      | none => 0xFFFF_FFFF
  else 0xFFFF_FFFF

/-- BY_STAT (Table 10-8). -/
def byStat (s : State) : Word :=
  let b := s.boryel
  packWord [(bit b.lock, 0), (bit b.leading, 1), (bit b.gain, 2), (bit b.loss, 3), (bit b.step, 4), (bit b.confl, 5),
    (bit b.epmm, 6), (b.lnode.toNat, 8)]

/-- BORYEL_LOCK_LOSS_TIMEOUT (R239): LOSS_N SYNC intervals without a valid pair. -/
def effBoryelLockLossTimeout (s : State) : State := if s.boryel.leading then s else loseLock s

/-- BORYEL_LEAD_RESUME (R241): a yielded leader leads again. -/
def effBoryelLeadResume (s : State) : State :=
  if s.boryel.yielded then
    settleLead { s with boryel := { s.boryel with yielded := false, rx := none } }
  else s

/-- The meaning of BORYEL_LOCK_LOSS_TIMEOUT. -/
def execBoryelLockLossTimeout (s : State) : Host.Outcome State Fault Refusal := .next (effBoryelLockLossTimeout s)
/-- The meaning of BORYEL_LEAD_RESUME. -/
def execBoryelLeadResume (s : State) : Host.Outcome State Fault Refusal := .next (effBoryelLeadResume s)

end Sys2Proof.Machine
end

