-- ==== Sys2Proof/Machine/Can.lean ====
section
/-! DEFINITION. The CAN channels (chapter 12): start and stop, filters and receive items, the read ports,
transmission, errors and recovery, and the publication tables. -/

namespace Sys2Proof.Machine

/-! ## Run, start and stop -/

/-- The modes in which a channel can run (R267). -/
def canMode (s : State) : Bool := actMode s == .halter || (actMode s).polls

/-- CHCFG.AUTO counts (R267). -/
def canAutoCond (ch : Chan) (s : State) : Bool :=
  (actMode s).polls && nbit (runWord (portBlock (chanNum ch) + 0x0C) s) 0

/-- The mode and the drop state allow the channel to run (R267, R268). -/
def canAllowed (ch : Chan) (s : State) : Bool :=
  canMode s && s.power.sleep == .awake && s.power.boot != .dead && !portDropped (chanNum ch) s && !kernelOnly s

/-- The run condition of R267. -/
def canCond (ch : Chan) (s : State) : Bool := canAllowed ch s && ((canOf ch s).run || canAutoCond ch s)

/-- Bit time and sample segments of the nominal phase obey Table 12-3. -/
def nominalOk (ch : Chan) (s : State) : Bool :=
  let w0 := runWord (portBlock (chanNum ch)) s
  let w1 := runWord (portBlock (chanNum ch) + 2) s
  let brp := field w0 0 8 + 1
  let sjw := field w0 8 7 + 1
  let t1 := field w1 0 8 + 1
  let t2 := field w1 8 7 + 1
  decide (2 ≤ t1) && decide (2 ≤ t2) && decide (sjw ≤ t1) && decide (sjw ≤ t2)
    && decide (8 ≤ 1 + t1 + t2) && decide (80 ≤ brp * (1 + t1 + t2))

/-- The data phase obeys Table 12-3. -/
def dataOk (ch : Chan) (s : State) : Bool :=
  let w0 := runWord (portBlock (chanNum ch)) s
  let w1 := runWord (portBlock (chanNum ch) + 2) s
  let nominal := (field w0 0 8 + 1) * (3 + field w1 0 8 + field w1 8 7)
  let d0 := runWord (portBlock (chanNum ch) + 4) s
  let d1 := runWord (portBlock (chanNum ch) + 6) s
  let tq := 3 + field d1 0 5 + field d1 8 4
  let len := (field d0 0 5 + 1) * tq
  decide (field d0 8 4 ≤ field d1 8 4) && decide (5 ≤ tq) && decide (16 ≤ len) && decide (len ≤ nominal)

/-- CANx_TXD and CANx_RXD have FUNC_ACT 0x0 and no change pending (R268). -/
def canPinsOk (ch : Chan) (s : State) : Bool :=
  let free := fun (i : Nat) => (pinOf i s).act == 0 && !(pinOf i s).chg
  free (3 * chanNum ch) && free (3 * chanNum ch + 1)

/-- The start checks in order: SREF of the first that fails, 0 where none does (R268). -/
def startRefusal (ch : Chan) (s : State) : BitVec 3 :=
  if !nominalOk ch s then 1
  else if (canOf ch s).fden && !dataOk ch s then 2
  else if !canPinsOk ch s then 3
  else if !canAllowed ch s then 4
  else 0

/-- A refused start is recorded (R268). -/
def refuseStart (ch : Chan) (why : BitVec 3) (s : State) : State :=
  canEvent ch 9 (modCan ch (fun c => { c with sref := why }) s)

/-- A channel starts (R269): the settings are taken, and integration begins; a channel that was stopped in bus-off
returns to it (R295). -/
def startCan (ch : Chan) (s : State) : State :=
  let p := portBlock (chanNum ch)
  let s1 := grant (canPoint ch + 14) false s
  modCan ch (fun c => { c with
    lomAct := c.lom, fdAct := c.fden, tdcAct := c.tdcen, autoRun := canAutoCond ch s
    unmqAct := nbit (runWord (p + 0x0C) s) 1, tdcoAct := field (runWord (p + 8) s) 0 7
    state := if c.wasBusOff then 3 else 1, recovering := false, keep := false, pexWait := false }) s1

/-- The run condition is looked at again: where it has become true, a stopped channel starts or is refused (R267,
R268, R271). A channel whose AUTO falls without RUN in its place runs through AUTO until it stops (R270, R271). -/
def settleCan (ch : Chan) (s : State) : State :=
  let on := canCond ch s
  let s1 := modCan ch (fun c => { c with want := on, autoRun := canAutoCond ch s || (c.autoRun && !c.run) }) s
  if on && !(canOf ch s).want && (canOf ch s).state == 0 then
    (if startRefusal ch s1 = 0 then startCan ch s1 else refuseStart ch (startRefusal ch s1) s1)
  else s1

/-- Both channels, and the leader role that depends on them. -/
def settleCans (s : State) : State := settleLead (settleCan .b (settleCan .a s))

/-- A write of CANx_CTRL (R9, R268, R271): a start that fails its checks leaves RUN as it was. -/
def canCtrlWrite (ch : Chan) (v : Word) (s : State) : Reply :=
  let n := v.toNat
  let borOk := field n 4 2 != 3
  let s1 := modCan ch (fun c => { c with
    lom := nbit n 1, fden := nbit n 2, tdcen := nbit n 3, norm := nbit n 6
    bor := if borOk then BitVec.ofNat 2 (field n 4 2) else c.bor }) (grants [(canPoint ch + 15, true), (canPoint ch + 18, true)] s)
  if nbit n 0 && (canOf ch s).state == 0 then
    if startRefusal ch s1 = 0 then
      ⟨0, !borOk, settleLead (startCan ch (modCan ch (fun c => { c with run := true, want := true }) s1))⟩
    else ⟨0, true, refuseStart ch (startRefusal ch s1) s1⟩
  else ⟨0, !borOk, settleCans (modCan ch (fun c => { c with run := nbit n 0 }) s1)⟩

/-- A statistic of a channel rises (Table 12-11). -/
def countCan (ch : Chan) (o : Nat) (s : State) : State := countWord (canStat ch o) s

/-- TXDISC: the frame in the transmit buffer is discarded (R270). -/
def discardTx (ch : Chan) (s : State) : State :=
  if (canOf ch s).txBuf.isSome then
    canEvent ch 6 (countCan ch 0x394 (modCan ch (fun c => { c with txBuf := none }) s))
  else s

/-- The receive item of a frame that is not received whole is given up (R277). -/
def dropRxItem (ch : Chan) (s : State) : State :=
  let s1 := match (canOf ch s).rx with
    | some r => (match r.item with | .opened q => abandonItem q (.canRx ch) s | _ => s)
    | none => s
  modCan ch (fun c => { c with rx := none }) s1

/-- The channel stops (R270, R295). -/
def stopCan (ch : Chan) (s : State) : State :=
  let s1 := discardTx ch (dropRxItem ch s)
  settleLead (grants [(canPoint ch + 9, true), (canPoint ch + 14, false), (canPoint ch + 17, true)] (modCan ch (fun c => { c with
    wasBusOff := c.state == 3 || c.recovering
    tec := if c.state == 3 || c.recovering then 255 else c.tec
    state := 0, recovering := false, pexWait := false, lomAct := false, autoRun := false }) s1))

/-- STAT.AUTO: the channel runs through CHCFG.AUTO. -/
def canAuto (ch : Chan) (s : State) : Bool := (canOf ch s).state != 0 && (canOf ch s).autoRun

/-- The level to which the hub drives CANx_STB; undriven only while bank A has no supply (R25, R271, Table 04-7). -/
def canStb (ch : Chan) (s : State) : Option Bool :=
  if bankOut 0 s then none
  else if s.power.sleep == .sealed || s.power.sleep == .waking then
    some (field s.power.wakeCfg.toNat (2 * chanNum ch) 2 != 2)
  else some (!((canOf ch s).norm || canAuto ch s))

/-! ## Error counters -/

/-- EWARN and EPASS of a pair of counters (R293). -/
def canWarn (c : CanSt) : Bool := decide (96 ≤ c.tec) || decide (96 ≤ c.recc)
/-- Error passive. -/
def canPassive (c : CanSt) : Bool := decide (127 < c.tec) || decide (127 < c.recc)

/-- The error counters take new values, with the events of a crossing and bus-off (R293). -/
def setCounters (ch : Chan) (tec recc : Nat) (t : HubTime) (s : State) : State :=
  let old := canOf ch s
  let s1 := grant (canPoint ch + 18) false (modCan ch (fun c => { c with tec := tec, recc := recc }) s)
  let s2 := if canWarn (canOf ch s1) && !canWarn old then canEvent ch 3 s1 else s1
  let s3 := if canPassive (canOf ch s1) && !canPassive old then canEvent ch 2 s2 else s2
  if 255 < tec ∧ old.state = 2 then
    let s4 := countCan ch 0x390 (modCan ch (fun c => { c with state := 3 }) s3)
    settleLead (tapTrigger 3 (recCanEvent ch 5 t (canEvent ch 0 s4)))
  else s3

/-- REC after a valid reception, as ISO 11898-1 counts it; above 127 it returns to a value from 119 to 127 that
the standard leaves open. -/
def recAfterRx (ch : Chan) (t : HubTime) (s : State) : State :=
  let c := canOf ch s
  if c.lomAct then s
  else if 127 < c.recc then
    drawn (setCounters ch c.tec (119 + (Config.freeByte s.seed 0).toNat % 9) t s)
  else setCounters ch c.tec (c.recc - 1) t s

/-! ## Receiving -/

/-- The channel can follow the bus: active, not waiting after a protocol exception, its clock and its supply
there. -/
def canListens (ch : Chan) (s : State) : Bool :=
  let c := canOf ch s
  c.state == 2 && !c.pexWait && s.power.pllLocked && !bankOut 0 s

/-- A frame is well formed (ISO 11898-1, R275). -/
def frameOk (f : CanFrame) : Bool :=
  !(f.rtr && f.fdf) && (f.fdf || !f.brs) && (f.ide || decide (f.id.toNat < 2048))
    && f.data.length == (if f.rtr then 0 else dlcBytes f.fdf f.dlc.toNat)

/-- The header of a frame. -/
def headOf (f : CanFrame) : CanFrame := { f with data := [] }

/-- The number of data bytes that a header announces (R277). -/
def headBytes (f : CanFrame) : Nat := if f.rtr then 0 else dlcBytes f.fdf f.dlc.toNat

/-- The address of filter pair `i` of a channel (Table 12-10). -/
def pairAddr (ch : Chan) (i : Nat) : Nat := portBlock (chanNum ch) + 0x80 + 12 * i

/-- FCTL.DEST and FCTL.EP of a FCTL word. -/
def fctlDest (w : Nat) : Nat := field w 1 2
/-- FCTL.EP. -/
def fctlEp (w : Nat) : Nat := field w 8 8

/-- Filter pair `i` takes the frame (R275). -/
def pairTakes (ch : Chan) (i : Nat) (f : CanFrame) (s : State) : Bool :=
  let a := pairAddr ch i
  let w := runWord (a + 8) s
  nbit w 0 && Nat.land (Nat.xor (frameWord f) (runLong a s)) (runLong (a + 4) s) == 0
    && !(f.rtr && decide (2 ≤ fctlDest w))

/-- The deciding pair with its FCTL word, if one matches (R275). -/
def decidePair (ch : Chan) (f : CanFrame) (s : State) : Option (Nat × Nat) :=
  ((List.range 64).find? (fun i => pairTakes ch i f s)).map (fun i => (i, runWord (pairAddr ch i + 8) s))

/-- The receive queue, 0 or 1, that a frame is bound for (R276). -/
def rxTarget (c : CanSt) (pair : Option (Nat × Nat)) : Option Nat :=
  match pair with
  | some p => if fctlDest p.2 = 0 then some 0 else if fctlDest p.2 = 2 then none else some 1
  | none => if c.unmqAct then some 1 else none

/-- A received frame is not stored (R277). -/
def countRxDrop (ch : Chan) (s : State) : State := canEvent ch 4 (countCan ch 0x384 s)

/-- The end of the control field (R275, R277): the deciding pair is fixed, and the item's cells are reserved. Whether the frame
is one of Boryel sync is fixed with it (R273; log entry 91). -/
def controlField (ch : Chan) (f : CanFrame) (s0 : State) : State :=
  let s := grants [(canPoint ch + 16, false), (canPoint ch + 19, true), (canPoint ch + 5, true)] s0
  let c := canOf ch s
  let mine := isBoryel ch f s
  let pair := if mine then none else decidePair ch f s
  let set := fun (item : RxOpen) (s : State) => modCan ch (fun c => { c with rx := some ⟨headOf f, mine, pair, item⟩ }) s
  match (if mine then none else rxTarget c pair) with
  | none => set .none s
  | some k =>
    let q := rxQueue ch k
    match reserve q (cellsFor (12 + headBytes f)) (.canRx ch) 0 s with
    | some s1 => set (.opened q) s1
    | none => set .lost (countRxDrop ch (markDrop q s))

/-- A control field may end now: no other frame is being received, and the frame is of a kind that the channel
decodes (R296). -/
def mayReceive (ch : Chan) (f : CanFrame) (s : State) : Bool :=
  canListens ch s && (canOf ch s).rx.isNone && (!f.fdf || (canOf ch s).fdAct)
    && frameOk { f with data := List.replicate (headBytes f) 0 }

/-- The bytes of a receive item (Table 12-4). -/
def canItem (f : CanFrame) (pair : Option (Nat × Nat)) (sof : HubTime) : List Byte :=
  leBytes 4 (frameWord f)
    ++ leBytes 2 (f.dlc.toNat + 16 * bit f.brs + 32 * bit f.esi
        + (match pair with | some p => 256 * p.1 | none => 16384))
    ++ leBytes 6 sof.toNat ++ f.data

/-- The receive item of a valid frame is committed (R277). -/
def commitRx (ch : Chan) (f : CanFrame) (r : RxFrame) (sof : HubTime) (s : State) : State :=
  match r.item with
  | .opened q =>
    let stored := match openOf q (.canRx ch) s with | some o => !o.doomed | none => false
    let s1 := grant (canPoint ch + 2 + (q - rxQueue ch 0)) true (closeItem q (.canRx ch) (canItem f r.pair sof) 0 s)
    if stored then countCan ch 0x382 s1 else s1
  | _ => s

/-- A valid frame goes to the endpoint that its pair names (R276). -/
def frameToEndpoint (ch : Chan) (f : CanFrame) (w : Nat) (t : HubTime) (s : State) : State :=
  if epPort (running s) (fctlEp w) = chanNum ch then deliverFrame (fctlEp w) t f.data (grant (canPoint ch + 4) false s)
  else countCan ch 0x398 s

/-- The end of a frame meets starts and stops at two points (Table 12-6). -/
def frameEnds (ch : Chan) (s : State) : State := grants [(canPoint ch + 14, true), (canPoint ch + 17, false)] s

/-- A valid frame is complete (R273 to R277). -/
def completeRx (ch : Chan) (f : CanFrame) (r : RxFrame) (sof t : HubTime) (s : State) : State :=
  let s1 := recCan ch 0 0 f t sof (frameEnds ch s)
  let s2 := recAfterRx ch t (countCan ch 0x380 (modCan ch (fun c => { c with rx := none }) s1))
  if r.sync then boryelFrame f sof s2
  else
    let s3 := commitRx ch f r sof s2
    match r.pair with
    | none => if r.item = .none then countCan ch 0x386 s3 else s3
    | some p =>
      let s4 := countWord (pairAddr ch p.1 + 10) s3
      if 2 ≤ fctlDest p.2 then frameToEndpoint ch f p.2 t s4 else s4

/-! ## Read ports -/

/-- The shadow of a read port. -/
def canShadow (q : Nat) (c : CanSt) : Option ReadItem := if q = 0 then c.shadow0 else c.shadow1

/-- A read port changed. -/
def setPort (q : Nat) (front shadow : Option ReadItem) (c : CanSt) : CanSt :=
  if q = 0 then { c with front0 := front, shadow0 := shadow } else { c with front1 := front, shadow1 := shadow }

/-- The shadow becomes the front, and the header word is read (R280). -/
def takeShadow (ch : Chan) (q : Nat) (s : State) : Option (Word × State) :=
  match canShadow q (canOf ch s) with
  | none => none
  | some r => some (r.header, grant (canPoint ch + q) false (modCan ch (setPort q (some r) none) s))

/-- A read of CANx_RXQ0 or CANx_RXQ1 (R280). -/
def readRxq (ch : Chan) (q : Nat) (stallOk : Bool) (s : State) : Reply :=
  match canFront q (canOf ch s) with
  | some r =>
    let w := r.word
    answer w.1 (modQueue (rxQueue ch q) (fun x => { x with pois := x.pois || w.2 })
      (grant (canPoint ch + 2 + q) false (modCan ch (setPort q r.step (canShadow q (canOf ch s))) s)))
  | none =>
    match takeShadow ch q s with
    | some p => answer p.1 p.2
    | none =>
      if stallOk && s.pool.stallTmo != 0 then answer 0x8000 { s with rein := { s.rein with stall := some (.can ch q) } }
      else answer 0x8000 s

/-- A stalled read of a read port ends when its shadow is full (R139, R280). -/
def serveCanStall (s : State) : State :=
  match s.rein.stall with
  | some (.can ch q) =>
    match takeShadow ch q s with
    | none => s
    | some p =>
      grants [(42, true), (43, false)] { p.2 with rein := { p.2.rein with stall := none, res := p.1, adre := false } }
  | _ => s

/-- The oldest item of a receive queue goes into the empty shadow, and its cells are released (R279); in a replay once the read
port's point grants it (R48). -/
def loadShadow (ch : Chan) (q : Nat) (s : State) : State :=
  if (canShadow q (canOf ch s)).isSome || heldUp (canPoint ch + q) true s then s
  else
    match takeItem (rxQueue ch q) s with
    | none => s
    | some p =>
      serveCanStall (grant (canPoint ch + q) true
        (modCan ch (fun c => setPort q (canFront q c) (some (readItemOf p.1 [])) c) p.2))

/-- RXINFO (R281, Table 12-8). -/
def canRxInfo (ch : Chan) (s : State) : Word :=
  let c := canOf ch s
  let nw := fun (r : Option ReadItem) => match r with | some r => r.words.length | none => 0
  packWord [(nw c.shadow0, 0), (bit c.front0.isSome, 6), (nw c.shadow1, 8), (bit c.front1.isSome, 14)]

/-! ## Transmitting -/

/-- A control word is refused whatever the space: RTR, BRS without FDF, or FDF without FDEN (R283). -/
def txBad (c : CanSt) (v : Nat) : Bool := nbit v 7 || (nbit v 5 && !nbit v 4) || (nbit v 4 && !c.fden)

/-- The words of an item after its control word (R282). -/
def txWords (v : Nat) : Nat := 2 + (dlcBytes (nbit v 4) (field v 0 4) + 1) / 2

/-- A refused control word: the writes of its item are refused too (R283). -/
def refuseTx (ch : Chan) (v : Nat) (s : State) : Reply :=
  denied (canEvent ch 5 (modCan ch (fun c => { c with txSkip := txWords v }) s))

/-- The host writes one more word of its transmit item, which closes with the last (R282). -/
def growTx (ch : Chan) (v : Word) (o : TxOpen) (s : State) : State :=
  let q := txQueue ch
  if 1 < o.need then
    writeOpen q (.canTxHost ch) (leBytes 2 v.toNat)
      (modCan ch (fun c => { c with txData := v, txOpen := some { o with need := o.need - 1 } }) s)
  else
    let written := match openOf q (.canTxHost ch) s with | some i => i.bytes.length | none => o.size
    grants [(canPoint ch + 6, false), (canPoint ch + 7, false)]
      (closeItem q (.canTxHost ch) ((leBytes 2 v.toNat).take (o.size - written)) 0
        (modCan ch (fun c => { c with txData := v, txOpen := none }) s))

/-- A write of CANx_TXDATA (R282, R283, R256). -/
def txdataWrite (ch : Chan) (v : Word) (s : State) : Reply :=
  let c := canOf ch s
  let q := txQueue ch
  if 0 < c.txSkip then denied (modCan ch (fun c => { c with txSkip := c.txSkip - 1 }) s)
  else if qmgrDropped s || (queueOf q s).doom then denied s
  else
    match c.txOpen with
    | some o => wrote (growTx ch v o s)
    | none =>
      let n := v.toNat
      let size := 6 + dlcBytes (nbit n 4) (field n 0 4)
      if txBad c n then refuseTx ch n s
      else
        match reserve q (cellsFor size) (.canTxHost ch) (BitVec.ofNat 3 (field n 8 3)) s with
        | none => refuseTx ch n (markNoSpace q s)
        | some s1 => wrote (growTx ch v ⟨size, txWords n + 1⟩ s1)

/-- The channel may take an item: active, not in listen-only, to go on running, in a mode that transmits (R284,
R286). -/
def mayTake (ch : Chan) (s : State) : Bool :=
  let c := canOf ch s
  c.state == 2 && !c.lomAct && c.txBuf.isNone && canCond ch s && actMode s != .walk && s.power.pllLocked
    && passes [(canPoint ch + 8, false), (canPoint ch + 9, false)] s

/-- The channel takes the next item, each poisoned one before it discarded whole (R258, R284, R285); in a replay once its points
grant it (R48). -/
def takeTx (ch : Chan) (s0 : State) : State :=
  if mayTake ch s0 then
    let s := skipBad (queueOf (txQueue ch) s0).items.length (txQueue ch) s0
    match (takeItem (txQueue ch) s).map (fun p => (p.1, grants [(canPoint ch + 8, false), (canPoint ch + 9, false)] p.2)) with
    | none => s
    | some p =>
      let f := txFrameOf p.1.bytes
      if f.fdf && !(canOf ch p.2).fden then canEvent ch 6 (countCan ch 0x394 p.2)
      else modCan ch (fun c => { c with txBuf := some ⟨f, p.1.kind⟩ }) p.2
  else s0

/-- Publication items are discarded where the mode no longer publishes (R286). -/
def discardPubs (s : State) : State :=
  let drop := fun (ch : Chan) (s : State) =>
    let n := ((queueOf (txQueue ch) s).items.filter (fun i => i.kind == 1)).length
    if n = 0 then s
    else countWordBy (canStat ch 0x39A) n
      (modQueue (txQueue ch) (fun x => { x with items := x.items.filter (fun i => i.kind != 1) }) s)
  drop .b (drop .a s)

/-- The measured loop delay of a sent FD frame with BRS is shown, and its cap reported (R272). -/
def showDelay (ch : Chan) (d : Nat) (s : State) : State :=
  let s1 := setStatWord (canStat ch 0x396) (min d 127) s
  if 127 < min d 127 + (canOf ch s).tdcoAct then canEvent ch 8 s1 else s1

/-- The frame of the transmit buffer as it stands on the bus: an error-passive channel sends ESI recessive (R293). -/
def onBus (ch : Chan) (x : TxFrame) (s : State) : CanFrame :=
  { x.frame with esi := x.frame.fdf && canPassive (canOf ch s) }

/-- The frame in the transmit buffer has been sent (R284, R237, R293). -/
def txDone (ch : Chan) (x : TxFrame) (delay : Option Nat) (sof t : HubTime) (s : State) : State :=
  let s0 := grant (canPoint ch + 16) true (frameEnds ch s)
  let s1 := recCan ch 1 0 (onBus ch x s) t sof (countCan ch 0x38A (modCan ch (fun c => { c with txBuf := none }) s0))
  let s2 := setCounters ch ((canOf ch s1).tec - 1) (canOf ch s1).recc t s1
  let s3 := match delay with | some d => showDelay ch d s2 | none => s2
  if x.kind = 2 then syncSent sof s3 else s3

/-! ## Publication -/

/-- The address of publication entry `i` (Table 12-12). -/
def pubAddr (ch : Chan) (i : Nat) : Nat := 0x18000 + 0x4000 * chanNum ch + 0x100 * i

/-- The number of map items used; a value of 31 uses the 30 there are. -/
def pubMaps (a : Nat) (s : State) : Nat := min 30 (field (runWord (a + 8) s) 0 5)

/-- M0 to M3 of map item `k`. -/
def mapWord (a k w : Nat) (s : State) : Nat := runWord (a + 0x10 + 8 * k + 2 * w) s

/-- Slot `n` of the newest snapshot. -/
def newSlot (n : Nat) (s : State) : Slot := slotOf (newestBank s) n s

/-- The entry is built at the commit of epoch number `e` (R287). -/
def pubDue (a e : Nat) (s : State) : Bool :=
  let per := runWord (a + 6) s
  nbit (runWord a s) 0 && e % 2 ^ field per 0 3 == field per 4 7 % 2 ^ field per 0 3
    && (!nbit per 11 || (List.range (pubMaps a s)).any (fun k =>
        field (mapWord a k 0 s) 10 2 != 3 && (newSlot (field (mapWord a k 0 s) 0 8) s).qual.getLsbD 0))

/-- The constant M3, sign-extended where SGN = 1 (R289). -/
def mapConst (sgn : Bool) (m3 : Nat) : Int := if sgn then signed 16 m3 else m3

/-- The source value of a map item (R289). -/
def mapSource (m0 m2 m3 : Nat) (x : Slot) : Int :=
  let k := mapConst (nbit m2 6) m3
  if field m0 10 2 = 3 then k
  else if nbit m2 7 && (x.qual &&& 0x00EC) != 0 then k
  else if field m0 10 2 = 1 then x.qual.toNat
  else if field m0 10 2 = 2 then x.age.toNat
  else
    let v := [x.v0, x.v1, x.v2, x.v3].getD (field m0 8 2) 0
    signed 32 v.toNat

/-- The value cut to LEN bits, saturated first where SAT = 1 (R289). -/
def mapValue (m0 m2 m3 : Nat) (x : Slot) : Nat :=
  let len := field m2 0 5 + 1
  let v := mapSource m0 m2 m3 x
  let sat := if nbit m2 5 then
      (if nbit m2 6 then clamp (-(2 ^ (len - 1) : Int)) (2 ^ (len - 1) - 1) v else clamp 0 (2 ^ len - 1) v)
    else v
  (sat % (2 ^ len : Int)).toNat

/-- Payload bit `p` of the data bytes set to `b`, with the numbering of R217; a bit beyond the data is not
written (R289). -/
def putBit (be : Bool) (p : Nat) (b : Bool) (data : List Byte) : List Byte :=
  let n := if be then 7 - p % 8 else p % 8
  modifyNth (fun x => if b then x ||| BitVec.ofNat 8 (2 ^ n) else x &&& ~~~ BitVec.ofNat 8 (2 ^ n)) (p / 8) data

/-- A map item written into the data bytes (R289). -/
def applyMap (a k : Nat) (s : State) (data : List Byte) : List Byte :=
  let m0 := mapWord a k 0 s
  let m1 := mapWord a k 1 s
  let m2 := mapWord a k 2 s
  let len := field m2 0 5 + 1
  let v := mapValue m0 m2 (mapWord a k 3 s) (newSlot (field m0 0 8) s)
  (List.range len).foldl (fun d j =>
    putBit (nbit m1 9) (field m1 0 9 + j) (nbit v (if nbit m1 9 then len - 1 - j else j)) d) data

/-- The alive nibble and the CRC byte (R290). -/
def pubSafety (safe psent : Nat) (data : List Byte) : List Byte :=
  let d1 := if nbit safe 14 then
      modifyNth (fun x => (x &&& 0xF0) ||| BitVec.ofNat 8 (psent % 16)) (field safe 8 6) data
    else data
  if nbit safe 6 && decide (field safe 0 6 < data.length) then
    d1.set (field safe 0 6) (crc8 (d1.take (field safe 0 6) ++ d1.drop (field safe 0 6 + 1)))
  else d1

/-- The frame of a publication entry (R289, R290). -/
def pubFrame (a : Nat) (s : State) : CanFrame :=
  let c := runWord a s
  let n := dlcBytes (nbit c 5) (field c 8 4)
  let fill : List Byte := List.replicate n (BitVec.ofNat 8 (runWord (a + 8) s / 256))
  let data := (List.range (pubMaps a s)).foldl (fun d k => applyMap a k s d) fill
  { ide := nbit c 4, rtr := false, fdf := nbit c 5, brs := nbit c 6, esi := false
    id := BitVec.ofNat 29 (runLong (a + 2) s % (if nbit c 4 then 2 ^ 29 else 2048))
    dlc := BitVec.ofNat 4 (field c 8 4)
    data := pubSafety (runWord (a + 10) s) (statWord (a + 12) s + 1) data }

/-- One entry is built and queued, or counted as dropped (R287). -/
def buildPub (ch : Chan) (i : Nat) (s : State) : State :=
  let a := pubAddr ch i
  let prio := BitVec.ofNat 3 (field (runWord a s) 1 3)
  match putItem (txQueue ch) (.canHub ch) prio (txItem (pubFrame a s) prio) 1 s with
  | some s1 =>
    grants ((List.range 4).map (fun k => (canPoint ch + 10 + k, false)) ++ [(canPoint ch + 6, true), (canPoint ch + 7, false)])
      (countWord (a + 12) s1)
  | none => canEvent ch 10 (countWord (a + 14) (markDrop (txQueue ch) s))

/-- One entry is not built, since the word at offset `off` of the committed bank is uncorrectable (R398). -/
def losePub (ch : Chan) (i off : Nat) (s : State) : State :=
  canEvent ch 10 (countWord (pubAddr ch i + 14) (logFault 0x3C 1 0xFFFF (newestBank s * 2 ^ 28 + eccWord off) s))

/-- The publication of a commit on one channel (R287); `bad` are the builds that meet an uncorrectable word (R398). -/
def publishOn (ch : Chan) (e : Nat) (bad : List ((Chan × Fin 64) × Nat)) (s : State) : State :=
  let c := canOf ch s
  if c.state == 2 && !c.lomAct && (s.mode.cur == .canter || s.mode.cur == .leadrein) then
    (List.range 64).foldl (fun s i =>
        if pubDue (pubAddr ch i) e s then
          (match bad.find? (fun b => b.1.1 == ch && b.1.2.val == i) with
           | some b => losePub ch i b.2 s
           | none => buildPub ch i s)
        else s)
      (grants ((List.range 4).map (fun k => (canPoint ch + 10 + k, true))) s)
  else s

/-- The publication of a commit of epoch number `e` on both channels. -/
def publish (e : Nat) (bad : List ((Chan × Fin 64) × Nat)) (s : State) : State := publishOn .b e bad (publishOn .a e bad s)

/-! ## Registers -/

/-- CANx_CTRL (Table 12-7). -/
def canCtrl (ch : Chan) (s : State) : Word :=
  let c := canOf ch s
  packWord [(bit c.run, 0), (bit c.lom, 1), (bit c.fden, 2), (bit c.tdcen, 3), (c.bor.toNat, 4), (bit c.norm, 6)]

/-- CANx_STAT (Table 12-7). The model's events of a channel are the end of the control field and the end of a frame: RXACT is 1
between the two, and TXACT while a frame in the transmit buffer can be on the bus (log entry 52). -/
def canStatus (ch : Chan) (s : State) : Word :=
  let c := canOf ch s
  let rx := c.rx.isSome
  let tx := c.rx.isNone && c.txBuf.isSome && canListens ch s && !c.lomAct
  packWord [(c.state.toNat, 0), (bit (canPassive c), 2), (bit (canWarn c), 3), (bit rx, 4), (bit tx, 5),
    (bit c.txBuf.isSome, 6), (bit c.lomAct, 7), (c.lec.toNat, 8), (c.sref.toNat, 11), (bit (canAuto ch s), 14)]

/-- CANx_ERRCNT (Table 12-8). -/
def canErrcnt (ch : Chan) (s : State) : Word :=
  let c := canOf ch s
  packWord [(min 255 c.tec, 0), (min 255 c.recc, 8)]

/-! ## Commands -/

/-- CAN_START_REQUEST (R268): a write of CANx_CTRL with RUN = 1. -/
def effCanStartRequest (ch : Chan) (v : Word) (s : State) : State :=
  let w := setBit v 0
  writeRow (0x30 + 8 * chanNum ch) w (canCtrlWrite ch w) s

/-- CAN_STOP_REQUEST (R270): a write of CANx_CTRL with RUN = 0. -/
def effCanStopRequest (ch : Chan) (v : Word) (s : State) : State :=
  let w := v &&& 0xFFFE
  writeRow (0x30 + 8 * chanNum ch) w (canCtrlWrite ch w) s

/-- CAN_CHANNEL_STOP (R270): at its idle point a channel whose run condition is false stops. -/
def effCanChannelStop (ch : Chan) (s : State) : State :=
  if (canOf ch s).state != 0 && !canCond ch s && (canOf ch s).rx.isNone then stopCan ch s else s

/-- Integration is complete: the channel is active (R269). -/
def integrate (ch : Chan) (s : State) : State :=
  let c := canOf ch s
  if c.state = 1 ∧ c.recovering = false then
    settleLead (modCan ch (fun c => { c with
      state := 2, tec := if c.keep then c.tec else 0, recc := if c.keep then c.recc else 0, keep := false }) s)
  else s

/-- CAN_INTEGRATION_DONE (R269). The channel events of a replay come from the trace (R379), here and below. -/
def effCanIntegrationDone (ch : Chan) (s : State) : State := if s.replay.run then s else integrate ch s

/-- CONTROL_FIELD_END (R277). -/
def effControlFieldEnd (ch : Chan) (f : CanFrame) (s : State) : State :=
  if !s.replay.run && mayReceive ch f s then controlField ch f s else s

/-- A frame is received (R273): the frame whose control field has ended, or a whole frame at once. -/
def receiveCan (ch : Chan) (f : CanFrame) (sof : HubTime) (s : State) : State :=
  let s1 := if mayReceive ch f s then controlField ch f s else s
  match (canOf ch s1).rx with
  | none => s
  | some r => if canListens ch s1 && r.head == headOf f && frameOk f then completeRx ch f r sof s.time.now s1 else s

/-- CAN_FRAME_RECEIVED (R273). -/
def effCanFrameReceived (ch : Chan) (f : CanFrame) (sof t : HubTime) (s0 : State) : State :=
  let s := advance t s0
  if s.replay.run then s else receiveCan ch f sof s

/-- An error frame ends what is on the bus (R293, R277). -/
def canError (ch : Chan) (e : CanError) (s : State) : State :=
  let c := canOf ch s
  let s1 := recCan ch 3 e.lec.toNat e.frame s.time.now e.sof (modCan ch (fun c => { c with lec := e.lec }) (frameEnds ch s))
  let s2 := if e.transmitting then countCan ch 0x38C s1 else countCan ch 0x388 (dropRxItem ch s1)
  if c.lomAct then s2
  else if e.transmitting then setCounters ch e.tec c.recc s.time.now s2
  else setCounters ch c.tec e.recc s.time.now s2

/-- CAN_FRAME_ERROR (R293, R277). -/
def effCanFrameError (ch : Chan) (e : CanError) (t : HubTime) (s0 : State) : State :=
  let s := advance t s0
  let c := canOf ch s
  if !s.replay.run && canListens ch s && e.lec != 0 && e.lec != 7
      && (!e.transmitting || (c.txBuf.isSome && !c.lomAct && c.rx.isNone)) then
    canError ch e s
  else s

/-- A protocol exception (R296). -/
def protocolException (ch : Chan) (s : State) : State :=
  recCanEvent ch 4 s.time.now (canEvent ch 7 (countCan ch 0x392
    (modCan ch (fun c => { c with lec := 7, pexWait := true }) (grant (canPoint ch + 19) false s))))

/-- A channel without FD may have a protocol exception now (R296). -/
def mayExcept (ch : Chan) (s : State) : Bool := canListens ch s && (canOf ch s).rx.isNone && !(canOf ch s).fdAct

/-- CAN_PROTOCOL_EXCEPTION (R296). -/
def effCanProtocolException (ch : Chan) (t : HubTime) (s0 : State) : State :=
  let s := advance t s0
  if !s.replay.run && mayExcept ch s then protocolException ch s else s

/-- PROTOCOL_EXCEPTION_IDLE (R296). -/
def effProtocolExceptionIdle (ch : Chan) (s : State) : State :=
  if s.replay.run then s else modCan ch (fun c => { c with pexWait := false }) s

/-- CAN_RECOVERY_START (R294). -/
def effCanRecoveryStart (ch : Chan) (s : State) : State :=
  let c := canOf ch s
  if c.state == 3 && (c.bor == 1 || c.bor == 2) then
    grant (canPoint ch + 15) false (modCan ch (fun c => { c with state := 1, recovering := true }) s)
  else s

/-- The recovery from bus-off is complete (R294). -/
def recoverCan (ch : Chan) (s : State) : State :=
  settleLead (recCanEvent ch 6 s.time.now (canEvent ch 1 (modCan ch (fun c => { c with
    state := 2, tec := 0, recc := 0, recovering := false, wasBusOff := false }) s)))

/-- CAN_RECOVERY_DONE (R294). -/
def effCanRecoveryDone (ch : Chan) (t : HubTime) (s0 : State) : State :=
  let s := advance t s0
  if !s.replay.run && (canOf ch s).state == 1 && (canOf ch s).recovering then recoverCan ch s else s

/-- CAN_TX_TAKE (R284, R285, R286). -/
def effCanTxTake (ch : Chan) (s : State) : State := takeTx ch s

/-- The delay operand fits the frame: given exactly where TDC measures one (R272). -/
def delayFits (c : CanSt) (f : CanFrame) (delay : Option Nat) : Bool :=
  delay.isSome == (c.tdcAct && f.fdf && f.brs)

/-- CAN_FRAME_TRANSMITTED (R284). -/
def effCanFrameTransmitted (ch : Chan) (delay : Option Nat) (sof t : HubTime) (s0 : State) : State :=
  let s := advance t s0
  let c := canOf ch s
  match c.txBuf with
  | none => s
  | some x =>
    if !s.replay.run && canListens ch s && !c.lomAct && c.rx.isNone && delayFits c x.frame delay then txDone ch x delay sof s.time.now s
    else s

/-- CAN_ARBITRATION_LOST (R284): the frame stays in the buffer. -/
def effCanArbitrationLost (ch : Chan) (sof t : HubTime) (s0 : State) : State :=
  let s := advance t s0
  let c := canOf ch s
  match c.txBuf with
  | none => s
  | some x =>
    if !s.replay.run && canListens ch s && !c.lomAct && c.rx.isNone then
      recCan ch 2 0 (onBus ch x s) s.time.now sof (countCan ch 0x38E (grant (canPoint ch + 16) true s))
    else s

/-- CAN_TXDATA_WRITE (R282). -/
def effCanTxdataWrite (ch : Chan) (v : Word) (s : State) : State :=
  writeRow (0x37 + 8 * chanNum ch) v (txdataWrite ch v) s

/-- CAN_RXQ_READ (R280). -/
def effCanRxqRead (ch : Chan) (q : Fin 2) (stallOk : Bool) (t : HubTime) (s0 : State) : State :=
  readRow (0x34 + 8 * chanNum ch + q.val) (readRxq ch q.val stallOk) (advance t s0)

/-- RX_SHADOW_LOAD (R279). -/
def effRxShadowLoad (ch : Chan) (q : Fin 2) (s : State) : State := loadShadow ch q.val s

/-- The meaning of CAN_START_REQUEST. -/
def execCanStartRequest (ch : Chan) (v : Word) (s : State) : Host.Outcome State Fault Refusal :=
  .next (effCanStartRequest ch v s)
/-- The meaning of CAN_STOP_REQUEST. -/
def execCanStopRequest (ch : Chan) (v : Word) (s : State) : Host.Outcome State Fault Refusal :=
  .next (effCanStopRequest ch v s)
/-- The meaning of CAN_CHANNEL_STOP. -/
def execCanChannelStop (ch : Chan) (s : State) : Host.Outcome State Fault Refusal := .next (effCanChannelStop ch s)
/-- The meaning of CAN_INTEGRATION_DONE. -/
def execCanIntegrationDone (ch : Chan) (s : State) : Host.Outcome State Fault Refusal := .next (effCanIntegrationDone ch s)
/-- The meaning of CAN_FRAME_RECEIVED. -/
def execCanFrameReceived (ch : Chan) (f : CanFrame) (sof t : HubTime) (s : State) : Host.Outcome State Fault Refusal :=
  .next (effCanFrameReceived ch f sof t s)
/-- The meaning of CAN_FRAME_ERROR. -/
def execCanFrameError (ch : Chan) (e : CanError) (t : HubTime) (s : State) : Host.Outcome State Fault Refusal :=
  .next (effCanFrameError ch e t s)
/-- The meaning of CAN_PROTOCOL_EXCEPTION. -/
def execCanProtocolException (ch : Chan) (t : HubTime) (s : State) : Host.Outcome State Fault Refusal :=
  .next (effCanProtocolException ch t s)
/-- The meaning of CAN_RECOVERY_START. -/
def execCanRecoveryStart (ch : Chan) (s : State) : Host.Outcome State Fault Refusal := .next (effCanRecoveryStart ch s)
/-- The meaning of CAN_RECOVERY_DONE. -/
def execCanRecoveryDone (ch : Chan) (t : HubTime) (s : State) : Host.Outcome State Fault Refusal :=
  .next (effCanRecoveryDone ch t s)
/-- The meaning of CAN_TX_TAKE. -/
def execCanTxTake (ch : Chan) (s : State) : Host.Outcome State Fault Refusal := .next (effCanTxTake ch s)
/-- The meaning of CAN_FRAME_TRANSMITTED. -/
def execCanFrameTransmitted (ch : Chan) (delay : Option Nat) (sof t : HubTime) (s : State) :
    Host.Outcome State Fault Refusal := .next (effCanFrameTransmitted ch delay sof t s)
/-- The meaning of CAN_ARBITRATION_LOST. -/
def execCanArbitrationLost (ch : Chan) (sof t : HubTime) (s : State) : Host.Outcome State Fault Refusal :=
  .next (effCanArbitrationLost ch sof t s)
/-- The meaning of CAN_TXDATA_WRITE. -/
def execCanTxdataWrite (ch : Chan) (v : Word) (s : State) : Host.Outcome State Fault Refusal :=
  .next (effCanTxdataWrite ch v s)
/-- The meaning of CAN_RXQ_READ. -/
def execCanRxqRead (ch : Chan) (q : Fin 2) (stallOk : Bool) (t : HubTime) (s : State) : Host.Outcome State Fault Refusal :=
  .next (effCanRxqRead ch q stallOk t s)
/-- The meaning of RX_SHADOW_LOAD. -/
def execRxShadowLoad (ch : Chan) (q : Fin 2) (s : State) : Host.Outcome State Fault Refusal := .next (effRxShadowLoad ch q s)
/-- The meaning of CONTROL_FIELD_END. -/
def execControlFieldEnd (ch : Chan) (f : CanFrame) (s : State) : Host.Outcome State Fault Refusal :=
  .next (effControlFieldEnd ch f s)
/-- The meaning of PROTOCOL_EXCEPTION_IDLE. -/
def execProtocolExceptionIdle (ch : Chan) (s : State) : Host.Outcome State Fault Refusal :=
  .next (effProtocolExceptionIdle ch s)

end Sys2Proof.Machine
end

