-- ==== Sys2Proof/Machine/Levels.lean ====
section
/-! DEFINITION. The levels of the pins (Tables 02-3, 02-4, 02-6 and 13-2): what each function drives, what the pull or the keeper
holds, what PM_PIN.IN reads, and the phases of a function change with the idle points of Table 02-7. Inside a frame or a
transaction the levels change with its bits; a state stands between commands, where the lines are as the last bit left them. -/

namespace Sys2Proof.Machine

/-! ## What a function drives -/

/-- The bank of a multiplexed pin: 0 A, 1 B, 2 C, 3 D (Table 02-4). -/
def pinBank (i : Nat) : Nat := if i < 6 then 0 else if i < 15 then 3 else if i < 36 then 1 else if i < 52 then 2 else 1

/-- S or I port with code `n` is enabled and not dropped: its pins carry it in every mode (R25, Table 02-6). -/
def portOn (n : Nat) (s : State) : Bool :=
  nbit (runWord (portBlock n) s) 0 && !portDropped n s && s.mode.cur != .reset && !kernelOnly s

/-- Select `sel` of S port `p` is low: a frame runs on it, or CONT holds it (R307, R308). -/
def selectLow (p sel : Nat) (s : State) : Bool :=
  (sportOf p s).hold.map Fin.val == some sel
    || ((sportOf p s).out.sel == sel && (laneOnPort (2 + p) s || (sportOf p s).fill.isSome || (sportOf p s).sfdpSent))

/-- The level to which the cells of a frame last drove lane `k`, if they drove it. -/
def lastLane (k : Nat) (cells : List (List (Option Bool))) : Option Bool :=
  cells.foldl (fun l c => match c.getD k none with | some b => some b | none => l) none

/-- The first bit of the byte that a target transaction sends (R306, R318). -/
def firstBit (x : SPortSt) : Bool :=
  (byteBits x.frame.lsbf ((x.sending.bind (fun bs => bs.head?)).getD x.frame.tfill)).headD false

/-- What a controller S port drives on its pin number `k`, SCK first (Table 13-2): SCK at CPOL when no cell runs (R305, R307),
data lines at their last level (Table 02-6; log entry 84), selects high but for the one that is low. -/
def controllerPin (p k : Nat) (s : State) : Option Bool :=
  let x := sportOf p s
  if k = 0 then some (decide (2 ≤ x.frame.mode))
  else if k = 1 then some (sdoLevel p s)
  else if p = 0 ∧ k < 5 then lastLane (k - 1) x.out.cells
  else if p != 0 && k = 2 then none
  else some (!selectLow p (k - (if p = 0 then 5 else 3)) s)

/-- What a target S port drives: its data output, while the select is low (Table 13-2). -/
def targetPin (p k : Nat) (s : State) : Option Bool :=
  if k = (if p = 0 then 2 else 1) ∧ (sportOf p s).target then some (firstBit (sportOf p s)) else none

/-- What S port `p` drives on its primary pin number `k`: nothing while it is disabled (R25). -/
def sPin (p k : Nat) (s : State) : Option Bool :=
  if !portOn (2 + p) s then none else if sTarget p s then targetPin p k s else controllerPin p k s

/-- What I port `p` drives on its primary pin number `k` (SCL, SDA, BRST_N), all open-drain (R33): SCL low while the bus is held
between transactions (R348), BRST_N low in a recovery's reset pulse (R341). -/
def iPin (p k : Nat) (s : State) : Option Bool :=
  if !portOn (6 + p) s then none
  else if k = 0 then
    (if (iportOf p s).hold || s.poll.lanes.any (fun l => l.openTx && l.wait != .step (6 + p) && l.wirePort == some (6 + p))
     then some false else none)
  else if k = 2 then (if (iportOf p s).brst.isSome then some false else none)
  else none

/-- What CAN channel `ch` drives: TXD recessive whatever the channel does between frames, and STB (R25, R271). -/
def canPin (ch : Chan) (k : Nat) (s : State) : Option Bool :=
  if k = 0 then some true else if k = 2 then canStb ch s else none

/-- What the primary function drives on pin `i` (Table 02-4). -/
def primaryPin (i : Nat) (s : State) : Option Bool :=
  if i < 6 then canPin (if i < 3 then .a else .b) (i % 3) s
  else if i < 15 then sPin 0 (i - 6) s
  else if i < 36 then sPin ((i - 15) / 7 + 1) ((i - 15) % 7) s
  else if i < 48 then iPin ((i - 36) / 3) ((i - 36) % 3) s
  else none

/-- What MF pin `52 + k` drives as an extra select of S port `p`: it idles high (R23). -/
def extraSelect (p k : Nat) (s : State) : Option Bool :=
  if portOn (2 + p) s && !sTarget p s then some (!selectLow p (4 + k % 4) s) else none

/-- What the trace stream drives on its pin number `k`, TRC_CLK first: the clock rests low between packets, the data lanes stay at
the packet's last bits, and the unused ones are low (R23, R374). -/
def streamPin (k : Nat) (s : State) : Bool :=
  k != 0 && decide (k - 1 < 2 ^ s.tap.lanes.toNat) && ((s.tap.packetCells.getLastD []).getD (k - 1) false)

/-- What the function in effect gives pin `i`, supply and sleep apart (Table 02-5). -/
def pinFunction (i : Nat) (s : State) : Option Bool :=
  let p := pinOf i s
  let code := p.act.toNat
  if code = 0 then primaryPin i s
  else if code = 2 ∨ code = 3 then p.gpio
  else if code = 5 ∨ code = 6 ∨ code = 7 then extraSelect (code - 4) (i - 52) s
  else if code = 8 then some (streamPin (i - 54) s)
  else none

/-- In Stabled the keeper holds the pin at its function's idle level: every pin but the CAN pins and GPIO outputs (Table 02-6). -/
def pinSleeps (i : Nat) (s : State) : Bool :=
  s.mode.cur == .stabled && (pinOf i s).act != 2 && (pinOf i s).act != 3 && !(decide (i < 6) && (pinOf i s).act == 0)

/-- What the hub drives on multiplexed pin `i`, `none` where its driver is off: nothing in transit (R31) nor on a bank without
supply (R30). -/
def pinDrive (i : Nat) (s : State) : Option Bool :=
  if bankOut (pinBank i) s || (pinOf i s).phase == .transit || pinSleeps i s then none else pinFunction i s

/-! ## The level of a pin -/

/-- What the keeper holds while the driver is off (Table 02-6, R31): a sleeping pin's idle level, a pin in transit its last. -/
def keptLevel (i : Nat) (s : State) : Option Bool :=
  if pinSleeps i s then pinFunction i s
  else if (pinOf i s).phase == .transit then some (pinOf i s).inp
  else none

/-- The level of pin `i` is undefined: no driver, no keeper and no pull holds it (R303). -/
def pinFloats (i : Nat) (s : State) : Bool :=
  (pinDrive i s).isNone && (pinOf i s).ext.isNone && (keptLevel i s).isNone && (pinOf i s).pull == 0

/-- The level of pin `i`, which PM_PIN.IN reads: the hub's driver, else the board's, else the keeper's or the pull's; an undefined
one is free (R303; log entry 101). -/
def pinLevel (i : Nat) (s : State) : Bool :=
  match pinDrive i s with
  | some b => b
  | none =>
    match (pinOf i s).ext, keptLevel i s with
    | none, some b => b
    | _, _ => (pinOf i s).offLevel (Config.freeBool s.seed)

/-- PM_PIN as it reads (Table 02-8). -/
def pmPinRead (i : Nat) (s : State) : Word :=
  let p := pinOf i s
  packWord [(p.func.toNat, 0), (p.pull.toNat, 4), (bit p.out, 6), (bit (pinLevel i s), 7), (bit p.drv, 8), (bit p.chg, 10),
    (p.actRead.toNat, 12)]

/-- The level to which the hub drives EPOCH: active during a pulse, else idle (R27, R36); undriven without bank A (R30). -/
def epochPin (s : State) : Option Bool :=
  if bankOut 0 s then none else some (s.pins.epochActive != s.pins.epochPol)

/-- FAULT_N is pulled low; an open-drain pin is never driven high (R30, R33). -/
def faultLow (s : State) : Bool := faultPin s && !bankOut 0 s

/-- ATTN_N is pulled low. -/
def attnLow (s : State) : Bool := attnPin s && !bankOut 0 s

/-! ## Function changes (R31) -/

/-- A port is not at the idle point of Table 02-7: a lane's transaction or its run of CONT-joined ones, a frame, a transaction of
pass-through or the bus that it holds, a running channel, a SENT frame. -/
def portBusy (n : Nat) (s : State) : Bool :=
  laneTx n s
    || (isCanPort n && (canOf (if n = 0 then .a else .b) s).state != 0)
    || (isSPort n && sInFrame (n - 2) s)
    || (isIPort n && (ptOnWire (n - 6) s || (iportOf (n - 6) s).hold))
    || (isTPort n && (tportOf (n - 10) s).inFrame)

/-- The port for whose idle point a change of pin `i` waits: that of a primary pin, or of the extra select that an MF pin carries
(Table 02-7). -/
def pinPort (i : Nat) (s : State) : Option Nat :=
  if i < 52 then (if (pinOf i s).act = 0 then (List.range 14).find? (fun n => (portPins n).contains i) else none)
  else extraSelectPort (pinOf i s).act.toNat

/-- The old function of pin `i` is at its idle point (Table 02-7): at once for a CAN pin, whose channel is stopped or which is STB,
and for a stream pin, whose packet leaves with its record. -/
def pinIdle (i : Nat) (s : State) : Bool :=
  match pinPort i s with
  | some n => isCanPort n || !portBusy n s
  | none => true

/-- Transit begins (R31): the driver is off, and the keeper holds the last level. -/
def beginTransit (i : Nat) (s : State) : State :=
  if (pinOf i s).phase == .quiesce then
    grant (pinPoint i) true (drawn (modPin i (fun p => { p with phase := .transit, inp := pinLevel i s }) s))
  else s

/-- The new function is attached (R31). -/
def attachPin (i : Nat) (s : State) : State :=
  if (pinOf i s).phase == .transit then modPin i (fun p => { p with phase := .attached, act := p.func }.drive) s else s

/-- The port that pin `i` belongs to is disabled, so that its quiesce is over (Table 02-10). -/
def pinPortOff (i : Nat) (s : State) : Bool :=
  match pinPort i s with
  | some n => !isCanPort n && !nbit (runWord (portBlock n) s) 0
  | none => false

/-- What a change of the working units does to pin `i`: a driver that turns off leaves its level to the keeper, and a quiesce on a
disabled port ends (Table 02-10). -/
def settlePin (old : State) (s : State) (i : Nat) : State :=
  let s1 := match pinDrive i old, pinDrive i s with
    | some b, none => modPin i (fun p => { p with inp := b }) s
    | _, _ => s
  if pinPortOff i s1 then beginTransit i s1 else s1

/-- The pins follow a change of the working units. -/
def settlePins (old s : State) : State := (List.range 59).foldl (settlePin old) s

end Sys2Proof.Machine
end

