-- ==== Sys2Proof/Machine/Tack.lean ====
section
/-! DEFINITION. The tack store (chapter 05): its bytes, profile copies and their checks, expansion, the image
that a commit builds, write jobs, the counter ring, and the selection of profiles. -/

namespace Sys2Proof.Machine

/-! ## Bytes -/

/-- An erased byte. -/
def tackDflt (_ : Nat) : Byte := 0xFF

/-- `n` stored bytes from offset `o`. -/
def tackBytes (o n : Nat) (s : State) : List Byte := Memory.readBytes tackDflt s.tack.mem o n

/-- A little-endian number of `n` stored bytes. -/
def tackLe (o n : Nat) (s : State) : Nat := Memory.readLe tackDflt s.tack.mem o n

/-- The pages from offset `o` on, `n` bytes, are erased and the bytes `bs` programmed from `o`. -/
def tackWrite (o n : Nat) (bs : List Byte) (s : State) : State :=
  { s with tack := { s.tack with mem := Memory.writeBytes tackDflt (Memory.clear s.tack.mem o n) o bs } }

/-- The byte at offset `o` as a window read shows it (R96, R97): the key slot pages read 0, the identity bytes
are the device's own. -/
def tackShown (o : Nat) (s : State) : Byte :=
  if 0x1C000 ≤ o ∧ o < 0x1C800 then 0
  else if 0x1C800 ≤ o ∧ o < 0x1C808 then s.tack.uid.getD (o - 0x1C800) 0
  else if 0x1C808 ≤ o ∧ o < 0x1D000 then Config.trimByte o
  else if 0x1D000 ≤ o then 0xFF
  else Memory.read tackDflt s.tack.mem o

/-! ## Copies (R99 to R101) -/

/-- Where a copy begins: areas 0 to 3 with two copies each, 4 the fallback (Table 05-1). -/
def copyBase (area copy : Nat) : Nat := if area = 4 then 0x18000 else 0x6000 * area + 0x3000 * copy

/-- The size of a copy's area in the store. -/
def copySize (area : Nat) : Nat := if area = 4 then 0x2000 else 0x3000

/-- The limit of the section data (R100). -/
def sectLimit (area : Nat) : Nat := if area = 4 then 7680 else 11776

/-- The AREA byte of a header. -/
def areaCode (area : Nat) : Nat := if area = 4 then 0x0F else area

/-- A copy is marked (R101). -/
def copyMarked (area copy : Nat) (s : State) : Bool :=
  let b := copyBase area copy
  tackLe b 4 s == 0x4B434154 && tackLe (b + 4) 2 s == 1 && tackLe (b + 6) 1 s == areaCode area
    && tackLe (b + 0x1F8) 4 s == 0x3C5AA5C3 && tackLe (b + 0x1FC) 4 s + tackLe (b + 8) 4 s == 0xFFFFFFFF

/-- GEN of a copy. -/
def copyGen (area copy : Nat) (s : State) : Nat := tackLe (copyBase area copy + 8) 4 s

/-- The active copy of an area (R101). -/
def activeCopy (area : Nat) (s : State) : Option Nat :=
  let m0 := copyMarked area 0 s
  let m1 := area != 4 && copyMarked area 1 s
  if m0 && m1 then some (if copyGen area 0 s < copyGen area 1 s then 1 else 0)
  else if m0 then some 0
  else if m1 then some 1
  else none

/-- A section of a profile: the target address and its bytes. -/
structure Section where
  addr : Nat
  bytes : List Byte

/-- The sections of section data, `none` where one breaks R100. Bytes after the end section are ignored. -/
def parseSections : Nat → List Byte → Option (List Section)
  | 0, _ => none
  | fuel + 1, d =>
    let addr := leValue (d.take 4)
    let len := leValue ((d.drop 4).take 2)
    if d.length < 8 ∨ d.getD 7 0 ≠ 0 then none
    else if d.getD 6 0 = 0 then (if addr = 0 ∧ len = 0 then some [] else none)
    else if addr % 2 ≠ 0 ∨ len % 2 ≠ 0 ∨ len < 2 ∨ 4096 < len ∨ inProfileRange addr len = false then none
    else if d.getD 6 0 = 1 then
      let pad := (len + 7) / 8 * 8
      if d.length < 8 + pad ∨ ((d.drop (8 + len)).take (pad - len)).any (fun b => b != 0) = true then none
      else (parseSections fuel (d.drop (8 + pad))).map (fun ss => ⟨addr, (d.drop 8).take len⟩ :: ss)
    else if d.getD 6 0 = 2 then
      if d.length < 16 then none
      else (parseSections fuel (d.drop 16)).map (fun ss =>
        ⟨addr, (List.replicate (len / 2) ((d.drop 8).take 2)).flatten⟩ :: ss)
    else none

/-- The writable bits of a section's word at `a` enter a configuration memory. -/
def loadWord (m : Mem) (a v : Nat) : Mem := Memory.writeBytes cfgDflt m a (leBytes 2 (Nat.land v (wordSpec a).mask))

/-- The words of a section with their addresses. -/
def Section.cells (x : Section) : List (Nat × Nat) :=
  (List.range (x.bytes.length / 2)).map (fun i => (x.addr + 2 * i, leValue ((x.bytes.drop (2 * i)).take 2)))

/-- Sections written in the order stored over the reset values (R102). -/
def expandSections (ss : List Section) : Mem :=
  ss.foldl (fun m x => x.cells.foldl (fun m c => loadWord m c.1 c.2) m) []

/-- A word of script memory holds no encoding that Table 09-1 calls reserved: OP 0xF, or an SRC of GET above 1. Script memory
is no register, so a host write of one is taken, and the endpoint then fails its validation (R196; log entry 92). -/
def scriptWordOk (a v : Nat) : Bool :=
  !(decide (0x14000 ≤ a) && decide (a < 0x15000) && a % 4 == 2)
    || (field v 12 4 != 15 && (field v 12 4 != 11 || decide (field v 8 4 ≤ 1)))

/-- No word of a section sets an rsv bit or gives a field a reserved encoding (R101), with the other words as the
whole expansion leaves them. -/
def sectionOk (m : Mem) (x : Section) : Bool :=
  x.cells.all (fun c =>
    let w := wordSpec c.1
    Nat.land c.2 (0xFFFF - Nat.lor w.mask w.other) == 0 && scriptWordOk c.1 c.2
      && w.rules.all (fun r => r.ok (cfgWord m) (Nat.land c.2 w.mask) (field c.2 r.lo r.len)))

/-- Every byte is 0. -/
def allZero (bs : List Byte) : Bool := bs.all (fun b => b == 0)

/-- The header fields of an image keep their ranges (R101, Table 05-2). -/
def headerOk (h : List Byte) : Bool :=
  let at2 := fun (o : Nat) => leValue ((h.drop o).take 2)
  decide (25 ≤ at2 0x10) && decide (at2 0x12 < 256) && decide ((h.getD 0x18 0).toNat ≤ 7) && h.getD 7 0 == 0
    && allZero ((h.drop 0x0E).take 2) && allZero ((h.drop 0x19).take 7) && allZero ((h.drop 0x30).take 448)
    && allZero ((h.drop 0x1F4).take 4)

/-- A profile that has passed its check: its header and its sections. -/
structure Profile where
  header : List Byte
  sections : List Section

/-- The check of an image (R101): CRC, sections, header fields and field values. -/
def checkImage (area : Nat) (img : List Byte) : Option Profile :=
  let h := img.take 0x200
  let n := leValue ((h.drop 0x0C).take 2)
  let d := (img.drop 0x200).take n
  if n % 8 ≠ 0 ∨ sectLimit area < n ∨ (crc32 (h.take 0x1F0 ++ d)).toNat ≠ leValue ((h.drop 0x1F0).take 4)
      ∨ headerOk h = false then none
  else
    match parseSections (n / 8 + 1) d with
    | none => none
    | some ss => if ss.all (sectionOk (expandSections ss)) then some ⟨h, ss⟩ else none

/-- The active copy of an area and its bytes. -/
def activeImage (area : Nat) (s : State) : Option (Nat × List Byte) :=
  (activeCopy area s).map (fun c => (c, tackBytes (copyBase area c) (copySize area) s))

/-- The profile of an area, and PROF_SEL.WHY where it is invalid: 1 no marked copy, 2 a failed check (R101). -/
def checkArea (area : Nat) (s : State) : Except (BitVec 2) Profile :=
  match activeImage area s with
  | none => .error 1
  | some p => match checkImage area p.2 with
    | none => .error 2
    | some f => .ok f

/-! ## What a change of mode or configuration does to the units -/

/-- An I port that newly works counts its bus as busy until BIDLE has passed (R337), a SENT input that newly decodes
starts afresh (R353), and a port that no longer works lets its select go. -/
def settlePorts (old s : State) : State :=
  (List.range 4).foldl (fun s p =>
    let s1 := if iWorks p s && !iWorks p old then modIPort p (fun x => { x with idle := true }) s else s
    let s2 := if tWorks p s1 && !tWorks p old then
        modTPort p (fun x => { x with
          calibrated := false, synced := false, prev := none, next := none, stage := .search, slow := [], silent := false }) s1
      else s1
    if sWorks p old && !sWorks p s2 then releaseSelect p s2 else s2) (loadTargets s)

/-- A step `f` that may change which units work, with what follows from it. -/
def adapting (f : State → State) (s : State) : State := settleCans (settlePins s (settlePorts s (purgeHeld (f s))))

/-- The epoch being staged is to commit as a first one: every slot without a sample of it takes the first-commit
content (R232). -/
def refreshStaging (s : State) : State :=
  if stagingBank s = 0 ∨ stagedIx s = none then { s with snap := { s.snap with first := true } }
  else
    let s1 := { s with snap := { s.snap with first := true } }
    if s1.snap.fill then s1
    else
      let slots := (List.range 256).map (fun n =>
        let x := slotOf (stagingBank s1) n s1
        if x.qual.getLsbD 0 then x else firstSlot n x s1)
      modBank (stagingBank s1) (fun k => { k with slots := slots }) s1

/-- SSTAT of every select of the S ports is cleared (R329). -/
def clearSelects (s : State) : State :=
  (List.range 4).foldl (fun s p =>
    (List.range (if p = 0 then 4 else 8)).foldl (fun s i => setStatWord (0x2848 + 0x400 * p + 16 * i) 0 s) s) s

/-- The header fields of a profile enter their registers (R102, R155). -/
def loadHeader (h : List Byte) (s : State) : State :=
  let at2 := fun (o : Nat) => BitVec.ofNat 16 (leValue ((h.drop o).take 2))
  { s with
    time := { s.time with period := at2 0x10, guard := h.getD 0x12 0 }
    snap := { s.snap with ageLimit := at2 0x14 }
    attn := { s.attn with mask := at2 0x16 }
    power := { s.power with walkEps := BitVec.ofNat 3 (h.getD 0x18 0).toNat } }

/-- The user configuration is valid: faults 0x10 and 0x14 end (Table 17-1). -/
def userOk (s : State) : State := endFault 0x14 (endFault 0x10 { s with tack := { s.tack with usrOk := true } })



/-! ## The image of a commit (R109) -/

/-- The address of the block after `a`, within a range that ends at `e`. -/
def blockKept (m : Mem) (a : Nat) : Bool := m.any (fun c => decide (a ≤ c.1) && decide (c.1 < a + 64))

/-- The runs of kept blocks of a range, each of at most 64 blocks: start and number. -/
def blockRuns (m : Mem) (a : Nat) : Nat → Option (Nat × Nat) → List (Nat × Nat)
  | 0, acc => acc.toList
  | n + 1, acc =>
    if blockKept m a then
      match acc with
      | some r => if r.2 = 64 then r :: blockRuns m (a + 64) n (some (a, 1)) else blockRuns m (a + 64) n (some (r.1, r.2 + 1))
      | none => blockRuns m (a + 64) n (some (a, 1))
    else acc.toList ++ blockRuns m (a + 64) n none

/-- One data section. -/
def dataSection (m : Mem) (r : Nat × Nat) : List Byte :=
  leBytes 4 r.1 ++ leBytes 2 (64 * r.2) ++ [1, 0] ++ Memory.readBytes cfgDflt m r.1 (64 * r.2)

/-- The section data of a configuration (R109). -/
def sectionData (m : Mem) : List Byte :=
  profileRanges.flatMap (fun r => (blockRuns m r.1 (r.2 / 64) none).flatMap (dataSection m)) ++ List.replicate 8 0

/-- The image of a commit: header bytes 0x000 to 0x1F7, the marker, and the section data (R99, R110). -/
def commitImage (area gen : Nat) (tag : List Byte) (s : State) : List Byte :=
  let d := sectionData s.cfg.user
  let h := leBytes 4 0x4B434154 ++ leBytes 2 1 ++ [BitVec.ofNat 8 (areaCode area), 0] ++ leBytes 4 gen
    ++ leBytes 2 d.length ++ [0, 0] ++ leBytes 2 s.time.period.toNat ++ [s.time.guard, 0]
    ++ leBytes 2 s.snap.ageLimit.toNat ++ leBytes 2 s.attn.mask.toNat
    ++ [BitVec.ofNat 8 s.power.walkEps.toNat, 0, 0, 0, 0, 0, 0, 0] ++ padTo 16 (tag.take 16) ++ List.replicate 448 0
  h ++ leBytes 4 (crc32 (h ++ d)).toNat ++ [0, 0, 0, 0] ++ leBytes 4 0x3C5AA5C3 ++ leBytes 4 (0xFFFFFFFF - gen) ++ d

/-- MARKED, ACT1 and FB_LOCK follow the store (Table 05-4). -/
def scanCopies (s : State) : State :=
  let marks := (List.range 4).map (fun a => (bit (activeCopy a s).isSome, a))
  let ones := (List.range 4).map (fun a => (bit (activeCopy a s == some 1), a))
  { s with tack := { s.tack with
    marked := BitVec.ofNat 4 (packWord marks).toNat
    act1 := BitVec.ofNat 4 (packWord ones).toNat
    fbLock := tackLe 0x181F8 8 s != 0xFFFFFFFFFFFFFFFF } }

/-- TACK_STAT.FAIL_CODE (Table 05-6). -/
def tackFail (code : BitVec 4) (s : State) : State := { s with tack := { s.tack with failCode := code } }

/-- The copy that a commit writes (R110, R112). -/
def targetCopy (area : Nat) (s : State) : Nat := if area = 4 then 0 else if activeCopy area s = some 0 then 1 else 0

/-- The GEN that a commit writes (R110, R112). -/
def targetGen (area : Nat) (s : State) : Nat :=
  if area = 4 then 1 else match activeCopy area s with | some c => (copyGen area c s + 1) % 2 ^ 32 | none => 1

/-- A write job begins. -/
def startJob (j : TackJob) (s : State) : State := { s with tack := { s.tack with busy := true, job := some j } }

/-- The write job is over. -/
def endJob (s0 : State) : State :=
  let s := grants [(46, true), (47, true), (48, true), (24, true)] s0
  { s with tack := { s.tack with busy := false, job := none } }

/-- The pages of a job: where they begin, and how many bytes they are. -/
def TackJob.span (j : TackJob) : Nat × Nat :=
  if j.kind = 3 then (copyBase j.area 0, if j.area = 4 then 0x2000 else 0x6000) else (copyBase j.area j.copy, copySize j.area)

/-- Bytes with erased ones after them up to `n`. -/
def erasedTo (n : Nat) (bs : List Byte) : List Byte := bs ++ List.replicate (n - bs.length) 0xFF

/-- The bytes of an image without its commit marker, which is programmed last. -/
def unmarkedImage (img : List Byte) : List Byte := img.take 0x1F8 ++ List.replicate 8 0xFF ++ img.drop 0x200

/-- A commit at step 3 builds its image from the user configuration as it stands (R109, R110, Table 05-7). One that edits made
too large since the start fails then, with the pages erased (log entry 11). -/
def buildImage (j : TackJob) (s : State) : State :=
  if sectLimit j.area < (sectionData s.cfg.user).length then
    opEnd 3 8 (scanCopies (tackFail 1 (tackWrite j.span.1 j.span.2 [] (endJob s))))
  else { s with tack := { s.tack with job := some { j with image := some (commitImage j.area j.gen j.tag s) } } }

/-- A running commit has come on, by as much as is free: PROG rises to `least` at least, 0 to 127 in step 2, 128 to 239 in step
3 and from 240 in steps 4 and 5 (R110, R112). -/
def moveCommit (least : Nat) (s : State) : State :=
  match s.tack.job with
  | none => s
  | some j =>
    if j.kind = 3 then s
    else
      let s1 := drawn (opProgress (max least ((Config.freeWord s.seed).toNat % 256)) s)
      if 128 ≤ s1.op.prog.toNat ∧ j.image = none then buildImage j s1 else s1

/-- A write job stops where it stands, after the page erase or word program in progress (R111, R112, R180): as many pages are
erased, or as many words programmed, as is free; the marker only after all other words (log entry 11). -/
def tearJob (s0 : State) : State :=
  let s := moveCommit 0 s0
  match s.tack.job with
  | none => s
  | some j =>
    let n := (Config.freeWord s.seed).toNat
    let s1 := drawn (endJob s)
    scanCopies (match j.image with
      | none => tackWrite j.span.1 (512 * (n % (j.span.2 / 512 + 1))) [] s1
      | some img =>
        if 240 ≤ s.op.prog.toNat then tackWrite j.span.1 j.span.2 (if nbit n 0 then img else unmarkedImage img) s1
        else tackWrite j.span.1 j.span.2 (unmarkedImage (erasedTo 0x200 (img.take (8 * (n % (img.length / 8 + 1)))))) s1)

/-- A profile is expanded into the user configuration (R102): endpoints are validated, conditioning is reset, and the
next commit is a first one (R196, R224, R232). SSTAT of every select is cleared (R329). The flash settings are written, so the
cache is invalid (R325). -/
def expandUser (p : Profile) (s : State) : State :=
  adapting (fun s0 =>
    let s := invalidateCache (moveCommit 0 s0)
    let s1 := loadHeader p.header { s with cfg := { s.cfg with user := expandSections p.sections } }
    refreshStaging (staleWindows (resetCond (validateAll (clearSelects (clearStatuses (userOk (grant 38 true s1)))))))) s

/-! ## The counter ring (R114) -/

/-- A counter record is programmed, its page erased first where it is the page's first. -/
def storeCounter (v : Long) (s0 : State) : State :=
  let s := grant 48 false s0
  let i := s.tack.ringNext % 1024
  let m := if i % 64 = 0 then Memory.clear s.tack.mem (0x1A000 + 8 * i) 512 else s.tack.mem
  { s with tack := { s.tack with
    mem := Memory.writeBytes tackDflt m (0x1A000 + 8 * i) (leBytes 4 v.toNat ++ leBytes 4 (~~~ v).toNat)
    counter := v, ringNext := (i + 1) % 1024 } }

/-! ## Profile switches (R105 to R107) -/

/-- The cells of queue 60 that a switch holds are returned, and it waits for none. -/
def freeStaging (s : State) : State :=
  let s1 := emptyQueue 60 (abandonItem 60 .staging s)
  { s1 with pool := { s1.pool with waiting := s1.pool.waiting.filter (fun w => w.1 != .staging) } }

/-- A pending switch is cancelled (Table 05-7). -/
def cancelSwitch (s : State) : State :=
  if s.tack.swPend then
    freeStaging { s with tack := { s.tack with swPend := false, swStaged := false, swFailed := false, swFail := true, swWhy := 3 } }
  else s

/-- An accepted PROFILE_SELECT (R105, Table 05-7): staging starts, in 192 cells of queue 60. -/
def startSwitch (area : Nat) (s0 : State) : State :=
  let s := grants [(50, false), (24, true)] (cancelSwitch s0)
  let s1 := { s with tack := { s.tack with swTgt := BitVec.ofNat 2 area, swPend := true, swStaged := false, swFailed := false } }
  match reserve 60 192 .staging 0 s1 with
  | some s2 => s2
  | none => { s1 with pool := { s1.pool with waiting := s1.pool.waiting ++ [(.staging, 60, 192)] } }

/-- The image that a staged switch holds; none where its item is poisoned, which its consumer discards whole (R258). -/
def stagedImage (s : State) : List Byte :=
  match (queueOf 60 s).items with
  | i :: _ => if i.bad.isSome then [] else i.bytes
  | [] => []

/-- The profile that a staged switch holds, if its cells still hold one. -/
def stagedProfile (s : State) : Option Profile := checkImage s.tack.swTgt.toNat (stagedImage s)

/-- Fault 0x10 with its detail (Table 17-1). -/
def faultInvalid (area : Nat) (why : BitVec 2) (s : State) : State := logFault 0x10 3 0xFFFF (area + 4 * why.toNat) s

/-- The staged image has been lost from its cells after its check (R258, R263): the target counts as invalid with WHY 2, and
the hub goes to Lead-rein (R107; log entry 92). -/
def loseStaged (s : State) : State :=
  let s1 := faultInvalid s.tack.swTgt.toNat 2 { s with tack := { s.tack with usrOk := false, swFail := true, swWhy := 2 } }
  if s1.mode.cur.polls || s1.mode.cur == .halter then toLeadRein 0x10 s1 else s1

/-- The staged image is expanded, and the switch is over. -/
def applyStaged (s : State) : State :=
  let s1 := match stagedProfile s with
    | some p => expandUser p s
    | none => loseStaged s
  freeStaging { s1 with tack := { s1.tack with swPend := false, swStaged := false, expanding := false } }

/-- The boundary where a switch applies (R105, R107): PROF_STAT takes the new number. -/
def takeSelection (s0 : State) : State :=
  let s := grants [(49, false), (24, true)] s0
  { s with tack := { s.tack with sel := s.tack.swTgt, selSrc := true } }

/-- A failed switch at its boundary (R107): USR_OK falls, and fault 0x10 is raised. -/
def failSwitch (s : State) : State :=
  let s1 := takeSelection { s with tack := { s.tack with usrOk := false, swPend := false, swFailed := false } }
  faultInvalid s.tack.swTgt.toNat s.tack.swWhy s1

/-! ## Reset (R64, R104, R155) -/

/-- Step 7 of Table 04-4: both profiles are read, checked and expanded. -/
def loadProfiles (s0 : State) : State :=
  let s := scanCopies s0
  let fb := checkArea 4 s
  let usr := checkArea s.tack.sel.toNat s
  let s1 := match fb with
    | .ok p => { s with tack := { s.tack with fbOk := true }, cfg := { s.cfg with fallback := expandSections p.sections } }
    | .error _ => { s with tack := { s.tack with fbOk := false } }
  validateAll (match usr with
  | .ok p => loadHeader p.header (userOk { s1 with cfg := { s1.cfg with user := expandSections p.sections } })
  | .error why =>
    let s2 := match fb with | .ok p => loadHeader p.header s1 | .error _ => s1
    let s3 := faultInvalid s2.tack.sel.toNat why { s2 with tack := { s2.tack with usrOk := false } }
    match fb with
    | .ok _ => s3
    | .error _ => logFault 0x11 4 0xFFFF 0 s3)

/-! ## Registers -/

/-- PROF_STAT (Table 05-4). -/
def profStat (s : State) : Word :=
  let k := s.tack
  packWord [(k.sel.toNat, 0), (bit k.selSrc, 2), (bit k.usrOk, 3), (bit k.fbOk, 4), (bit k.fbLock, 5),
    (bit (s.mode.cur == .leadrein), 6), (k.marked.toNat, 8), (k.act1.toNat, 12)]

/-- PROF_SEL (Table 05-5). -/
def profSel (s : State) : Word :=
  let k := s.tack
  packWord [(k.swTgt.toNat, 0), (bit k.swPend, 2), (bit k.swStaged, 3), (bit k.swFail, 4), (k.swWhy.toNat, 5)]

/-- TACK_STAT (Table 05-6). -/
def tackStat (s : State) : Word :=
  let k := s.tack
  packWord [(bit k.busy, 0), ((match k.job with | some j => j.kind.toNat | none => 0), 1), (bit k.corr, 3), (bit k.unc, 4),
    (k.failCode.toNat, 8)]

/-! ## Commands -/

/-- PROFILE_STAGING_DONE (R105, R107): the target's active copy has been read into queue 60 and checked. -/
def effProfileStagingDone (s0 : State) : State :=
  let area := s0.tack.swTgt.toNat
  if s0.tack.swPend && (openOf 60 .staging s0).isSome then
    let s := grants [(47, false), (50, true), (51, true), (24, true)] s0
    match checkArea area s with
    | .ok _ =>
      let img := match activeImage area s with | some p => p.2 | none => []
      let s1 := closeItem 60 .staging img 0 s
      { s1 with tack := { s1.tack with swStaged := true } }
    | .error why =>
      let s1 := freeStaging { s with tack := { s.tack with swFail := true, swWhy := why } }
      if s1.mode.cur = .leadrein then { s1 with tack := { s1.tack with swPend := false, usrOk := false } }
      else { s1 with tack := { s1.tack with swFailed := true } }
  else s0

/-- PROFILE_EXPANSION_END (R105): after the cutoff of epoch N the new profile is expanded, and the lanes start. -/
def effProfileExpansionEnd (s : State) : State :=
  if s.tack.expanding && s.time.ended.isNone then dueRuns (applyStaged s) else s

/-- A page erase of a commit has failed: as many pages before it are erased as is free (log entry 11). -/
def failErase (j : TackJob) (s : State) : State :=
  scanCopies (tackFail 3 (drawn
    (tackWrite j.span.1 (512 * ((Config.freeWord s.seed).toNat % (j.span.2 / 512))) [] (endJob s))))

/-- An image of which one word other than the marker, it is free which, does not read back as programmed (log entry 11). -/
def misread (seed : Nat) (img : List Byte) : List Byte :=
  let i := (Config.freeWord seed).toNat % (img.length / 8)
  let k := if i = 63 then 0 else 8 * i
  img.take k ++ (List.range 8).map (fun i => Config.freeByte seed i) ++ img.drop (k + 8)

/-- TACK_WRITE_JOB_DONE (R110 to R113): a commit has been programmed and marked, or an area erased, or the job has
failed. -/
def effTackWriteJobDone (out : TackOutcome) (s0 : State) : State :=
  match s0.tack.job with
  | none => s0
  | some j0 =>
    if (s0.op.job == .commit && s0.op.abort) || j0.stop then s0
    else if j0.kind = 3 then
      match out with
      | .done => scanCopies (tackWrite j0.span.1 j0.span.2 [] (endJob s0))
      | .verifyFailed => s0
      | .eraseFailed => tackFail 3 (tearJob s0)
    else
      match out with
      | .eraseFailed => if j0.image.isSome then s0 else opEnd 3 8 (failErase j0 s0)
      | .done =>
        let s := moveCommit 240 s0
        match s.tack.job with
        | some j => opEnd 2 0 (opPost j.area j.copy (j.gen % 65536) (j.gen / 65536)
            (scanCopies (tackWrite j.span.1 j.span.2 (j.image.getD []) (endJob s))))
        | none => s
      | .verifyFailed =>
        let s := moveCommit 128 s0
        match s.tack.job with
        | some j => opEnd 3 8 (scanCopies (tackFail 2 (drawn
            (tackWrite j.span.1 j.span.2 (misread s.seed (unmarkedImage (j.image.getD []))) (endJob s)))))
        | none => s

/-- The meaning of PROFILE_STAGING_DONE. -/
def execProfileStagingDone (s : State) : Host.Outcome State Fault Refusal := .next (effProfileStagingDone s)
/-- The meaning of PROFILE_EXPANSION_END. -/
def execProfileExpansionEnd (s : State) : Host.Outcome State Fault Refusal := .next (effProfileExpansionEnd s)
/-- The meaning of TACK_WRITE_JOB_DONE. -/
def execTackWriteJobDone (out : TackOutcome) (s : State) : Host.Outcome State Fault Refusal :=
  .next (effTackWriteJobDone out s)

end Sys2Proof.Machine
end

