-- ==== Sys2Proof/Machine/OpEnds.lean ====
section
/-! DEFINITION. How a running long operation comes to an end, and what ends with it (R76, R177, R178, R180). -/

namespace Sys2Proof.Machine

/-- Operation code `c` may run in mode `m` (Table 08-4). -/
def opAllowed (c : Nat) (m : Mode) : Bool :=
  match m with
  | .halter => [1, 2, 3, 4, 5, 6, 7, 0xA, 0xB].contains c
  | .walk => [2, 6, 7, 8].contains c
  | .canter => [2, 6, 7, 8].contains c
  | .leadrein => [4, 5, 6, 7].contains c
  | .farrier => [1, 7, 9].contains c
  | .reset => false
  | .stabled => false

/-- A drain gives back the cell it holds on queue 49 and the block it has taken, and waits for none. -/
def freeDrain (s : State) : State :=
  let s1 := modQueue 48 (fun x => { x with read := none }) (abandonItem 49 .drain s)
  { s1 with pool := { s1.pool with waiting := s1.pool.waiting.filter (fun w => w.1 != .drain) } }

/-- What the running operation holds is let go. -/
def stopJob (s : State) : State :=
  match s.op.job with
  | .probe _ => cancelLanes (fun l => l.probe) 7 s
  | .drain .. => freeDrain s
  | .flush .. =>
    { s with pool := { s.pool with queues := s.pool.queues.map (fun x =>
      { x with flush := x.flush.map (fun f => { f with byOp := false }) }) } }
  | .commit => tearJob s
  | .replay _ => adapting endReplay s
  | _ => s

/-- The running operation ends (R178). After a flash job every line of the execute window is invalid, and a waiting
fetch starts (R325). -/
def endOp (st : BitVec 3) (why : BitVec 4) (s : State) : State :=
  let s1 := opEnd st why (stopJob s)
  if flashJob s then pumpS0 (invalidateCache s1) else s1

/-- An operation that the mode being entered does not allow is aborted (R76, R177). -/
def abortForMode (m : Mode) (s : State) : State :=
  if opRuns s && !opAllowed s.op.code.toNat m then endOp 4 11 s else s

end Sys2Proof.Machine
end

