-- ==== Sys2Proof/Machine/Commits.lean ====
section
/-! DEFINITION. ENDPOINT_COMMIT (chapter 09): the checks of R204 and the write of an accepted command (R205). -/

namespace Sys2Proof.Machine

/-- The words of a byte string enter a configuration memory from `a` on, with their writable bits (R8, R184). -/
def loadWords (m : Mem) (a : Nat) (bs : List Byte) : Mem :=
  (List.range (bs.length / 2)).foldl (fun m i => loadWord m (a + 2 * i) (leValue ((bs.drop (2 * i)).take 2))) m

/-- The configuration as it stands after the commit. -/
def commitInto (e : EpCommit) (m : Mem) : Mem :=
  loadWords (loadWords (loadWords m (epAddr e.ep) e.desc) (condAddr e.ep) e.cond) (stepAddr e.first) e.steps

/-- ECR of endpoint `n` (Table 09-2). -/
def setEcr (n code : Nat) (s : State) : State := setStatByte (epAddr n + 0x3D) code s

/-- How many steps the script at `start` has: to its first END, or the 64 steps that a run may use. -/
def scriptLength (m : Mem) (start : Nat) : Nat := match scriptOf m start with | some ws => ws.length | none => 64

/-- The steps of the commit lie within the script of another active endpoint of the user configuration (R204). -/
def sharesSteps (e : EpCommit) (m : Mem) : Bool :=
  let n := e.steps.length / 4
  n != 0 && (List.range 256).any (fun k =>
    let start := (descOf m k).script
    k != e.ep && epActive m k && decide (start < e.first + n) && decide (e.first < start + scriptLength m start))

/-- A port whose pins the board has parked, one of its primary pins at least (log entry 40), or that Lead-rein has
dropped (R204). -/
def portParked (p : Nat) (s : State) : Bool :=
  decide (p < 14) && ((portPins p).any (fun i => (pinOf i s).act == 4) || (s.mode.cur == .leadrein && portDropped p s))

/-- The ECR code with which an ENDPOINT_COMMIT is refused (R204). -/
def commitRefusal (e : EpCommit) (s : State) : Option Nat :=
  let m := commitInto e s.cfg.user
  if !endpointValid m e.ep then some 3
  else if sharesSteps e s.cfg.user then some 4
  else if e.parts.getLsbD 0 && (descOf m e.ep).ports.any (fun p => portParked p s) then some 5
  else none

/-- An accepted ENDPOINT_COMMIT is pending; in Walk and Canter until the boundary, where it replaces one that waits for
the same boundary (R205). -/
def acceptCommit (e : EpCommit) (s : State) : State :=
  let c := { e with atBoundary := (actMode s).records }
  setEcr e.ep 2 { s with poll := { s.poll with
    commits := s.poll.commits.filter (fun d => !(d.ep == e.ep && d.atBoundary)) ++ [c] } }

/-- The boundary has come (point 123): what waited for it is written next. -/
def commitsReady (s : State) : State :=
  { s with poll := { s.poll with commits := s.poll.commits.map (fun c => { c with atBoundary := false }) } }

/-- The status part of endpoint `n` is cleared (R184), but for what is there at that moment: a run, a held frame. -/
def freshStatus (n : Nat) (s : State) : State :=
  let s1 := if s.poll.held.any (fun h => h.ep == n) then setEstat n 3 true (clearStatus n s) else clearStatus n s
  if epRuns n s then setEstat n 0 true s1 else s1

/-- The effects of a commit on the endpoint in every mode: its status part, conditioning state and express window (R184,
R205, R224). -/
def freshEndpoint (e : EpCommit) (s : State) : State :=
  let s1 := if e.parts.getLsbD 0 then freshStatus e.ep s else s
  let s2 := if e.parts.getLsbD 0 || e.parts.getLsbD 1 then resetCondOf e.ep s1 else s1
  if e.parts.getLsbD 1 then staleWindow e.ep s2 else s2

/-- The slot of the endpoint takes the first-commit content (R232): in Halter the slot staging at the write, in Walk and Canter
at the forward fill of the commit of epoch N, in Lead-rein none. -/
def freshOwnSlot (e : EpCommit) (s : State) : State :=
  if e.parts.getLsbD 0 || e.parts.getLsbD 1 then freshSlot e.ep (actMode s).records s else s

/-- The commit is written, and the endpoint dispatched where it is due (R187, R205). A running PROFILE_COMMIT may have built its
image before (Table 05-7). -/
def applyCommit (e : EpCommit) (s00 : State) : State :=
  let s0 := moveCommit 0 s00
  let s := { s0 with
    cfg := { s0.cfg with user := commitInto e s0.cfg.user }
    poll := { s0.poll with commits := dropFirst (fun c => c == e) s0.poll.commits } }
  let s1 := setEcr e.ep 1 (freshEndpoint e s)
  if s.mode.cur == .leadrein then s1
  else
    let s2 := validateEp e.ep (purgeHeld (freshOwnSlot e s1))
    if (actMode s2).polls && s2.time.epochOn && !unitFailed 16 s2 && !kernelOnly s2
        && epDue e.ep (epochNumber s2.time.epochIx s2) (actMode s2) s2 then
      dispatch (sortRuns (addDue e.ep s2))
    else s2

/-- ENDPOINT_COMMIT_APPLY (R205): the boundary has come, and no run of the endpoint is active. -/
def effEndpointCommitApply (ep : Fin 256) (s : State) : State :=
  match s.poll.commits.find? (fun c => c.ep == ep.val && !c.atBoundary) with
  | none => s
  | some e => if s.mode.cur != .leadrein && epRuns ep.val s then s else applyCommit e s

/-- The meaning of ENDPOINT_COMMIT_APPLY. -/
def execEndpointCommitApply (ep : Fin 256) (s : State) : Host.Outcome State Fault Refusal :=
  .next (effEndpointCommitApply ep s)

end Sys2Proof.Machine
end

