-- ==== Sys2Proof/Machine/Keyframes.lean ====
section
/-! DEFINITION. Keyframes of the trace (R370, Table 16-2), and the start of a recording (R364). -/

namespace Sys2Proof.Machine

/-! ## Content -/

/-- The bytes of the configuration ranges, in table order, status fields as 0 (Table 16-2, CFGCRC). -/
def configBytes (m : Mem) : List Byte :=
  profileRanges.flatMap (fun r => (List.range r.2).map (fun i =>
    if isStatus (r.1 + i) then 0 else Memory.read cfgDflt m (r.1 + i)))

/-- CFGCRC. -/
def configCrc (m : Mem) : Long := crc32 (configBytes m)

/-- The GEN of the active copy of the selected profile, if it has one. -/
def selectedGen (s : State) : Option Nat :=
  (activeCopy s.tack.sel.toNat s).map (fun c => copyGen s.tack.sel.toNat c s)

/-- Two free words as one number. -/
def freeLong (k : Nat) : Nat := (Config.freeWord k).toNat + 65536 * (Config.freeWord (k + 1)).toNat

/-- SNAP_CTRL (Table 10-7). -/
def snapCtrl (s : State) : Word :=
  packWord [(bit s.snap.xoff, 0), (bit s.snap.nocrc, 1), (bit s.snap.droplate, 2)]

/-- A byte string padded with zeros to a multiple of 8. -/
def padEight (bs : List Byte) : List Byte := padTo ((bs.length + 7) / 8 * 8) bs

/-- The filter history words of an endpoint (Table 16-2): stage by stage, field 0 before field 1, oldest first. -/
def historyWords (c : CondSt) : List Int :=
  (List.range (max c.hist0.length c.hist1.length)).flatMap (fun i =>
    (c.hist0.getD i []).reverse ++ (c.hist1.getD i []).reverse)

/-- The trigger part of endpoint `n` for the epoch that starts has ended ahead (TRIG): its run waits for the rest. -/
def triggerDone (n : Nat) (s : State) : Bool :=
  s.poll.waiting.any (fun r => r.ep == n && r.readOnly && r.due == s.time.epochIx)

/-- The entry of endpoint `n` in a keyframe. -/
def keyframeEntry (n : Nat) (s : State) : List Byte :=
  let c := condOf n s
  let g := s.snap.groups.find? (fun g => g.ep == n)
  let h := s.poll.held.find? (fun h => h.ep == n)
  let held := match h with | some h => leBytes 6 h.ht.toNat ++ h.bytes | none => []
  let words := historyWords c
  let flags := bit (estat n 1 s) + 2 * bit h.isSome + 4 * bit (triggerDone n s)
    + 8 * bit c.ref.isSome + 16 * bit g.isSome
  let ref := c.ref.getD (0, 0)
  padEight ([BitVec.ofNat 8 n, BitVec.ofNat 8 flags, BitVec.ofNat 8 words.length, BitVec.ofNat 8 held.length]
    ++ leBytes 4 (if c.ref.isSome then epochNumber ref.2 s else 0)
    ++ leBytes 4 (match g with | some g => epochNumber g.due s | none => 0)
    ++ leBytes 4 (long ref.1).toNat ++ leBytes 4 (match g with | some g => (long g.value).toNat | none => 0)
    ++ Memory.readBytes zeroDflt s.cfg.status (epAddr n + 0x34) 12
    ++ slotBytes (stagedSlot n s) ++ words.flatMap (fun w => leBytes 4 (long w).toNat) ++ held)

/-- The time left on the pin in 100 µs, a part of one counted whole: none without a pin or a limit (R235; log entry 93). -/
def pinLeft (s : State) : Nat :=
  if s.snap.pinned = 0 then 0 else (1600 * s.snap.pinTmo.toNat - (s.time.now - s.snap.pinAt).toNat + 1599) / 1600

/-- E: the number of the epoch that ends at B, still being staged. Where none ends there, the table gives none. -/
def keyframeEpoch (s : State) : Nat :=
  match s.time.ended with
  | some e => epochNumber e.ix s
  | none => freeLong s.tap.seed

/-- The header of the staging bank as it stands at B: the fields that the ended epoch has fixed. -/
def stagedHdr (s : State) : BankHdr :=
  let k := bankOf (stagingBank s) s
  match s.time.ended with
  | some e => commitHeader e k.slots s
  | none => k.hdr

/-- The bytes of a keyframe at boundary B, now (Table 16-2). -/
def keyframeBytes (s : State) : List Byte :=
  let eps := (List.range 256).filter (fun n => epActive (running s) n)
  leBytes 4 (keyframeEpoch s) ++ leBytes 6 s.time.now.toNat
    ++ leBytes 2 (packWord [(s.mode.cur.code, 0), (s.tack.sel.toNat, 4), (bit s.tap.verd, 6)]).toNat
    ++ leBytes 4 s.time.baseCount.toNat ++ leBytes 4 (configCrc s.cfg.user).toNat
    ++ leBytes 4 ((selectedGen s).getD (freeLong (s.tap.seed + 2)))
    ++ leBytes 2 s.time.period.toNat ++ [s.time.guard, BitVec.ofNat 8 s.power.walkEps.toNat]
    ++ leBytes 2 s.snap.ageLimit.toNat ++ leBytes 2 (snapCtrl s).toNat
    ++ leBytes 4 (byCountAt s.time.baseCount s).toNat ++ leBytes 2 (if s.boryel.lock then s.boryel.offset else 0).toNat
    ++ [BitVec.ofNat 8 (bit s.boryel.lock), 0]
    ++ leBytes 2 (packWord [(stagingBank s, 0), (newestBank s, 2), (pinnedBank s, 4)]).toNat
    ++ leBytes 2 (pinLeft s) ++ leBytes 2 eps.length ++ List.replicate 18 0
    ++ hdrBytes { bankOf (stagingBank s) s with hdr := stagedHdr s } ++ eps.flatMap (fun n => keyframeEntry n s)

/-! ## Writing -/

/-- The parts of a keyframe: 252 bytes each, with consecutive SEQ values, so no verdict batch comes between them; MORE on every
part but the last, CONT on every part but the first (R365, R370). -/
def writeParts : Nat → Bool → List Byte → State → State
  | 0, _, _, s => s
  | fuel + 1, first, bs, s =>
    let last := (bs.drop 252).isEmpty
    let s1 := putRecord 11 ((if last then 0 else 64) + (if first then 0 else 128)) (bs.take 252) s
    if last then s1 else writeParts fuel false (bs.drop 252) s1

/-- The units that the parts of `n` bytes take. -/
def partUnits (n : Nat) : Nat := 32 * (n / 252) + (if n % 252 = 0 then 0 else (n % 252 + 11) / 8)

/-- A KEYFRAME_NOW waits. -/
def keyframeOp (s : State) : Bool := opRuns s && s.op.job == .keyframe

/-- The pending keyframe is taken (R370, R376). -/
def takeKeyframe (s0 : State) : State :=
  let s := { s0 with tap := { s0.tap with kfpend := false } }
  let bs := keyframeBytes s
  let e := keyframeEpoch s
  let done := { s with tap := { s.tap with seed := s.tap.seed + 4 } }
  if 12288 < bs.length then
    let s1 := { done with tap := { done.tap with kfbig := true } }
    if keyframeOp s1 then endOp 3 8 s1 else s1
  else
    let s1 := writeParts (bs.length / 252 + 1) true bs done
    if keyframeOp s1 then
      endOp 2 0 (opPost (e % 65536) (e / 65536) s.tap.seq.toNat (partUnits bs.length) s1)
    else s1

/-- A keyframe falls due (R370). -/
def keyframeDue (s : State) : State :=
  { s with tap := { s.tap with kfmiss := s.tap.kfmiss || s.tap.kfpend, kfpend := true } }

/-- An epoch of the recording starts: the keyframe count goes on (R370). -/
def countKeyframe (s : State) : State :=
  if s.tap.kfLeft ≤ 1 then keyframeDue { s with tap := { s.tap with kfLeft := 2 ^ s.tap.kfi } }
  else { s with tap := { s.tap with kfLeft := s.tap.kfLeft - 1 } }

/-- No lane holds a run, and no sample lies between a hand-off island and the staging bank or at the express
check (chapter 16, quiet boundary). -/
def quiet (s : State) : Bool := s.poll.lanes.all (fun l => l.wait == .free) && s.poll.pend.isEmpty && s.poll.late.isEmpty

/-- The conditions of R364 for recording. -/
def wantsRecording (s : State) : Bool := s.tap.en && s.mode.cur.records && !s.tap.frozen && !unitFailed 22 s

/-- Recording begins at a quiet boundary (R364): the settings block is read, and a Time mark with START and a keyframe
follow. No verdict waits to be written (R369). -/
def startRecording (number : Nat) (s : State) : State :=
  let kfi := field (runWord 0x1300 s) 0 4
  let strm := runWord 0x1304 s
  let s1 := { s with
    tap := { s.tap with
      recording := true, kfi := kfi, post := field (runWord 0x1302 s) 0 8, kfLeft := 2 ^ kfi, kfpend := true
      lanes := BitVec.ofNat 2 (field strm 0 2), div := BitVec.ofNat 4 (field strm 2 4) }
    verdicts := { s.verdicts with batch := [] } }
  takeKeyframe (recTime true true true false number s1)

/-- The tap at a base boundary that starts epoch `number` of a recording mode. -/
def tapEpoch (isQuiet : Bool) (number : Nat) (s : State) : State :=
  if s.tap.recording then
    let s1 := countKeyframe s
    if isQuiet && s1.tap.kfpend then takeKeyframe s1 else s1
  else if isQuiet && wantsRecording s then startRecording number s
  else s

end Sys2Proof.Machine
end

