-- ==== Sys2Proof/Machine/Modes.lean ====
section
/-! DEFINITION. The mode controller and the time base at work (chapters 04 and 10): mode requests, base boundaries and
epochs, transitions and profile switches at a boundary, cutoffs and commits. -/

namespace Sys2Proof.Machine

/-! ## Entering a mode -/

/-- MODE_STAT shows mode `m`, and nothing is pending. -/
def setMode (m : Mode) (s0 : State) : State :=
  let s := grant 18 true s0
  { s with mode := { s.mode with cur := m, tgt := m, pend := false, effective := false, hwCode := none } }

/-- The code of an active fault whose reaction is the transition to Lead-rein. -/
def reactionCode (s : State) : Byte :=
  match [0x32, 0x4C, 0x44, 0x39, 0x3B, 0x20].find? (fun c => faultActive c s) with
  | some c => BitVec.ofNat 8 c
  | none => 0x32

/-- Walk or Canter entered with a failed unit: Lead-rein follows at the end of the first epoch (R394). -/
def lateReaction (s : State) : State :=
  if s.mode.cur.records && (s.power.lrDrop0 != 0 || s.power.lrDrop1 != 0 || !s.fault.failedOther.isEmpty) then
    toLeadRein (reactionCode s) s
  else s

/-- Mode `m` is entered: what chapters 08 to 12 tie to the entry (R76, R196, R224, R232, R53, R286, R394). -/
def enterMode (m : Mode) (s0 : State) : State :=
  adapting (fun s =>
    let old := s.mode.cur
    let s1 := commitsReady (setMode m (abortForMode m s))
    let s2 := staleWindows (if m == .canter || m == .leadrein then s1 else discardPubs s1)
    let s3 := if m == .leadrein then parkFailed s2 else s2
    let s4 := if ((old == .leadrein) != (m == .leadrein)) || (m.polls && !old.polls) then validateAll (resetCond s3) else s3
    lateReaction (if m.polls && !old.polls then beginStaging s4 else s4)) s0

/-- The hub has made a transition by itself (R81, R372): HWCH, FAULT_CODE, ATTN_SRC.MODE and the tap's trigger. -/
def hardwareEntry (code : Option Byte) (s : State) : State :=
  tapTrigger 1 (attend 5 { s with
    mode := { s.mode with hwch := true }
    fault := { s.fault with code := code.getD s.fault.code } })

/-! ## Stabled entry (R85) -/

/-- A switch that is pending when Stabled entry takes effect: a staged one applies, one still staging is cancelled
(Table 05-7). While an epoch waits for its cutoff the expansion waits too. -/
def settleSwitch (s : State) : State :=
  if s.tack.swPend && s.tack.swStaged && !s.tack.expanding then
    if s.time.ended.isSome && s.mode.cur.records then
      takeSelection { s with tack := { s.tack with expanding := true } }
    else applyStaged (takeSelection s)
  else if s.tack.expanding then s
  else cancelSwitch (grant 51 false s)

/-- Stabled entry takes effect: MODE_STAT shows it until the seal, the runs end, queued publication items are discarded
(R286; log entry 81) and the ports begin to stop. -/
def beginEntry (prof : Option (Nat × Nat)) (s0 : State) : State :=
  adapting (fun s =>
    let old := s.mode.cur
    let s0 := grants [(14, true), (18, true)] s
    let s1 := { s0 with
      mode := { s0.mode with pend := true, effective := true, tgt := .stabled }
      power := { s0.power with sleep := .quiescing, earlyWake := false, wakeTarget := .halter } }
    let s2 := settleSwitch (stopRuns (discardPubs (abortForMode .stabled s1)))
    endRecording (recMode old .stabled none prof (epochNumber s2.time.epochIx s2) s2)) s0

/-! ## Requests (R74 to R80) -/

/-- A mode request is refused (R78). -/
def refuseMode (why : BitVec 3) (s : State) : State :=
  { s with mode := { s.mode with refused := true, rfs := why } }

/-- A request becomes the pending target (R74, R79). -/
def pendMode (m : Mode) (s : State) : State := { s with mode := { s.mode with pend := true, tgt := m } }

/-- A Halter request in Farrier (R77): REPLAY_RUN and SELF_TEST are aborted, and the profiles are read again. -/
def leaveFarrier (s : State) : State :=
  let s1 := if opRuns s && (s.op.code == 9 || s.op.code == 1) then endOp 4 11 s else s
  { s1 with mode := { s1.mode with pend := true, effective := true, tgt := .halter, farrierExit := true } }

/-- A request for mode `m` from a mode that Table 04-5 lets leave (R74, R76, R84). -/
def requestMode (m : Mode) (s : State) : State :=
  if m = s.mode.cur then
    (if s.mode.pend then { s with mode := { s.mode with pend := false, tgt := s.mode.cur } } else s)
  else if m = .stabled then
    if opRuns s then refuseMode 2 s
    else if s.power.wakeCfg &&& 0xFF = 0 then refuseMode 3 s
    else if s.mode.cur = .halter then beginEntry none s
    else pendMode m s
  else if m.records ∧ (s.mode.cur = .halter ∨ s.mode.cur = .leadrein) ∧ s.tack.usrOk = false then refuseMode 4 s
  else pendMode m s

/-- The mode that a REQ code names. -/
def modeOfReq (n : Nat) : Mode :=
  if n = 1 then .stabled else if n = 2 then .halter else if n = 3 then .walk else if n = 4 then .canter else .leadrein

/-- A mode request with the right key (R70, R74, R77, R79) comes to the mode controller at points 10 to 14. -/
def takeRequest (req : Nat) (s0 : State) : State :=
  let s := grants [(10, false), (11, false), (12, false), (13, false), (14, false)] s0
  if s.mode.cur == .reset || sleeping s || s.mode.effective || s.mode.hwCode.isSome then refuseMode 6 s
  else if req = 6 then refuseMode 7 s
  else if s.mode.cur = .farrier then (if req = 2 then leaveFarrier s else refuseMode 1 s)
  else requestMode (modeOfReq req) s

/-! ## Resets (Table 04-2) -/

/-- What no reset touches: the tack store with identity, key slots and counter; and the model's own counters and queue. A write
job is cut off where it stands (R111, R181; log entry 11). The pool RAM has lost its contents. -/
def keepStore (s0 base : State) : State :=
  let s := tearJob s0
  { base with
    tack := { base.tack with
      mem := s.tack.mem, uid := s.tack.uid, slots := s.tack.slots, counter := s.tack.counter, ringNext := s.tack.ringNext }
    pool := { base.pool with allocs := s.pool.allocs, era := s.pool.era + 1 }
    tap := { base.tap with seed := s.tap.seed }
    seed := s.seed
    pending := s.pending }

/-- MP_RSTCAUSE after a reset other than POR: kept, with the cause added. -/
def withCause (cause : BitVec 5) (s base : State) : State :=
  { base with power := { base.power with rstCause := s.power.rstCause ||| cause } }

/-- The fault log after a pin or soft reset (R389). -/
def keepLog (f : FaultSt) : FaultSt :=
  { resetFault with
    total := f.total, next := f.next
    log := f.log.map (fun e => if e.code = 0 then e else { e with flags := e.flags ||| 2 }) }

/-- A frozen trace ring goes through a pin or soft reset (R67): its blocks wait to be attached to queue 48 again (R262). -/
def keepRing (s base : State) : State :=
  if s.tap.frozen then
    { base with tap := { base.tap with frozen := true, kept := s.tap.kept ++ (queueOf 48 s).items } }
  else base

/-- The blocks of a kept ring are attached to queue 48 again (step 6 of Table 04-4, R262). -/
def attachRing (s : State) : State :=
  if s.tap.kept.isEmpty then s
  else modQueue 48 (fun x => { x with items := s.tap.kept }) { s with tap := { s.tap with kept := [] } }

/-- A pin or soft reset: what Table 04-2 keeps, and the cell pool RAM as it stands (R67). -/
def warmReset (cause : BitVec 5) (s : State) : State :=
  let b := withCause cause s (keepStore s State.reset)
  keepRing s { b with fault := keepLog s.fault, pool := { b.pool with ram := s.pool.ram, era := s.pool.era } }

/-- A write of MODE_REQ (R74, R78, R80). -/
def modeReqWrite (v : Word) (s0 : State) : Reply :=
  let req := field v.toNat 0 4
  let key := v.toNat / 256
  let reserved := req == 0 || req == 7 || decide (9 ≤ req)
  let s := { s0 with mode := { s0.mode with
    req := BitVec.ofNat 16 (256 * key + (if reserved then field s0.mode.req.toNat 0 4 else req)) } }
  if reserved then denied s
  else if req = 8 then wrote (if key = 0xA5 then warmReset 16 s else refuseMode 5 s)
  else if key ≠ 0x5A then wrote (refuseMode 5 s)
  else wrote (takeRequest req s)

/-- MODE_STAT (Table 04-11). -/
def modeStat (s : State) : Word :=
  let m := s.mode
  packWord [(m.cur.code, 0), (m.tgt.code, 4), (bit m.pend, 8), (bit m.hwch, 9), (bit m.refused, 10), (m.rfs.toNat, 11),
    (bit (s.power.lrDrop0 != 0 || s.power.lrDrop1 != 0), 14), (bit (kernelOnly s), 15)]

/-! ## Epochs -/

/-- 2^WALK_EPS with R72: the largest WALK_EPS that keeps the product within 65535, and whether it was reduced. -/
def walkSpan (period : Nat) : Nat → Nat × Bool
  | 0 => (0, false)
  | n + 1 => if period * 2 ^ (n + 1) ≤ 65535 then (n + 1, false) else ((walkSpan period n).1, true)

/-- The guard in ht units of 1 µs and whether it was clipped (R215): `l` is the length in µs of the next base epoch. -/
def clipGuard (g l : Nat) : Nat × Bool := if g < l then (g, false) else (l - 10, true)

/-- The epoch that runs ends at boundary `b` (R215): it waits for its cutoff. -/
def endEpoch (b : HubTime) (s0 : State) : State :=
  let s := grant 165 false s0
  let g := clipGuard (s.time.heldGuard.getD s.time.guard.toNat) (10 * s.time.period.toNat)
  { s with time := { s.time with
    ended := some { ix := s.time.epochIx, mode := actMode s, startHt := s.time.epochStart, endHt := b, guard := g.1
                    clipped := g.2, cutoff := b + BitVec.ofNat 48 (16 * g.1), byCount := s.time.epochByCount }
    epochIx := s.time.epochIx + 1
    epochOn := false
    heldGuard := none
    heldPeriod := none } }

/-- An epoch starts at boundary `b` (R71 to R73, R36). -/
def startEpoch (b : HubTime) (s : State) : State :=
  let w := walkSpan s.time.period.toNat s.power.walkEps.toNat
  let walk := actMode s == .walk
  { s with
    time := { s.time with
      epochOn := true, epochStart := b, epochByCount := byCountAt s.time.baseCount s
      walkTaken := if walk then w.1 else 0, walkLeft := if walk then 2 ^ w.1 else 1 }
    power := { s.power with clip := if walk then w.2 else s.power.clip }
    pins := { s.pins with epochActive := s.pins.epochActive || (s.pins.epochEn && !s.replay.run) } }

/-- Epochs run in the mode in force (Table 01-4). -/
def epochsRun (s : State) : Bool := (actMode s).polls && !kernelOnly s && !sleeping s

/-- The running epoch ends at the base boundary just reached: its span is over, or, in Walk with Boryel locked, the leader's
count is aligned (R71). -/
def epochEnds (s : State) : Bool :=
  s.time.epochOn && (decide (s.time.walkLeft ≤ 1)
    || (actMode s == .walk && s.boryel.lock && (byCountAt s.time.baseCount s).toNat % 2 ^ s.time.walkTaken == 0))

/-! ## What a boundary decides -/

/-- A staged switch applies at this boundary (R105, R106). -/
def switchDue (s : State) : Bool :=
  s.tack.swPend && s.tack.swStaged && !s.tack.expanding && !sleeping s
    && (s.mode.cur == .halter || s.mode.cur.polls)

/-- A staged image whose cells have lost it before the boundary counts as one whose staging failed (R258; log entry 92). -/
def checkStaged (s : State) : State :=
  if s.tack.swPend && s.tack.swStaged && !s.tack.expanding && (stagedProfile s).isNone then
    let s1 := freeStaging { s with tack := { s.tack with swStaged := false, swFail := true, swWhy := 2 } }
    if s1.mode.cur == .leadrein then { s1 with tack := { s1.tack with swPend := false, usrOk := false } }
    else { s1 with tack := { s1.tack with swFailed := true } }
  else s

/-- A switch whose staging failed acts at its boundary (R107), at point 12. -/
def failAtBoundary (s0 : State) : State :=
  let s := if switchDue s0 then checkStaged s0 else s0
  if s.tack.swFailed && (s.mode.cur == .halter || s.mode.cur.records) && !sleeping s then
    let s1 := failSwitch s
    if s1.mode.hwCode.isSome then s1 else leadReinBy [(12, true), (13, false), (15, true)] 0x10 s1
  else s

/-- The transition that takes effect at this boundary: its mode, and its FAULT_CODE where the hub makes it by itself. -/
def boundaryTurn (s : State) : Option (Mode × Option Byte) :=
  if sleeping s then none
  else
    match s.mode.hwCode with
    | some c => some (.leadrein, some c)
    | none => if s.mode.pend && !s.mode.effective then some (s.mode.tgt, none) else none

/-- A staged switch applies: at once, or after the cutoff of the epoch that has just ended in Walk or Canter (R105). The epoch
that starts at the boundary keeps the guard in force at its start (R215). -/
def applySwitch (s0 : State) : State :=
  let s := { s0 with time := { s0.time with heldGuard := some s0.time.guard.toNat } }
  if s.time.ended.isSome && (actMode s).records then
    staleWindows (takeSelection { s with
      tack := { s.tack with expanding := true }, time := { s.time with heldPeriod := some s.time.period } })
  else applyStaged (takeSelection s)

/-- The transition of a boundary takes effect (R75, R81); its Mode change record comes before the end of the recording. -/
def takeTurn (prof : Option (Nat × Nat)) (t : Mode × Option Byte) (s : State) : State :=
  if t.1 = .stabled then beginEntry prof s
  else
    let old := s.mode.cur
    let s1 := recMode old t.1 t.2 prof (epochNumber s.time.epochIx s) (enterMode t.1 s)
    let s2 := if t.2.isSome then hardwareEntry t.2 s1 else s1
    if t.1.records then s2 else endRecording s2

/-- The transition and the switch of this boundary, with their Mode change record. -/
def turnAt (turn : Option (Mode × Option Byte)) (switch : Bool) (s : State) : State :=
  let prof := if switch then some (s.tack.swTgt.toNat, leValue (((stagedImage s).drop 8).take 4)) else none
  let s1 := if switch then applySwitch (grant 123 true s) else s
  match turn with
  | some t => takeTurn prof t (grant 123 true s1)
  | none => if switch then recMode s.mode.cur s.mode.cur none prof (epochNumber s.time.epochIx s) s1 else s1

/-! ## A base boundary -/

/-- A time base reaches base boundary `b`. -/
def TimeSt.tick (b : HubTime) (x : TimeSt) : TimeSt :=
  let y := x.moveTo b
  { y with baseCount := x.baseCount + 1, recent := ((b, x.baseCount + 1) :: x.recent).take 4 }

/-- The next base boundary (R214), with the Boryel correction. -/
def setNextBoundary (b : HubTime) (period : Word) (s : State) : State :=
  let slew := bySlewNow s
  { s with
    time := { s.time with nextBoundary := some (b + BitVec.ofInt 48 (160 * (period.toNat : Int) + slew)) }
    boryel := { s.boryel with carry := s.boryel.carry - slew } }

/-- What follows at a boundary at which an epoch may start: the epoch, the tap's Time mark before it, and the due runs. -/
def openEpoch (b : HubTime) (isQuiet : Bool) (s : State) : State :=
  if epochsRun s then
    let s1 := startEpoch b s
    let s2 := if s1.mode.cur.records then tapEpoch isQuiet (epochNumber s1.time.epochIx s1) s1 else s1
    if s2.tack.expanding then s2 else dueRuns s2
  else { s with time := { s.time with heldGuard := none, heldPeriod := none } }

/-- A base boundary at `b` (R71, R75, R214): the epoch that ends, the transition and the switch that take effect, and
the epoch that starts. -/
def baseBoundary (b : HubTime) (s00 : State) : State :=
  let s0 := writeBatch (grants [(6, true), (7, true), (9, true), (49, true)] s00)
  let s1 := byApply { s0 with time := s0.time.tick b }
  let isQuiet := quiet s1
  let ends := epochEnds s1
  if ends || !s1.time.epochOn then
    let period := s1.time.period
    let s2 := if ends then endEpoch b s1 else s1
    let s3 := failAtBoundary (commitsReady s2)
    let turn := boundaryTurn s3
    let switch := switchDue s3
    let goesOn := turn.isNone && !switch
    let s4 := if ends then settleAhead goesOn s3 else s3
    let next := match turn with | some t => t.1 | none => s4.mode.cur
    let s5 := recTime false true next.records false (epochNumber s4.time.epochIx s4) s4
    let s6 := turnAt turn switch s5
    openEpoch b isQuiet (leadBoundary (setNextBoundary b period s6))
  else
    let s2 := { s1 with time := { s1.time with walkLeft := s1.time.walkLeft - 1 } }
    leadBoundary (setNextBoundary b (s2.time.heldPeriod.getD s2.time.period) (recTime false true false false 0 s2))

/-- The base boundary that the hub's clock reaches next, if it counts and no epoch still waits for its cutoff. -/
def boundaryDue (s : State) : Option HubTime :=
  let c := hubClock s
  if c.run && s.power.boot == .running && (s.power.sleep == .awake || s.power.sleep == .quiescing) && c.ended.isNone then
    c.nextBoundary
  else none

/-- BASE_EPOCH_BOUNDARY (R71, R75, R214). During a replay it only moves the hub's own clock on (R241, R379). -/
def effBaseEpochBoundary (s : State) : State :=
  match boundaryDue s with
  | none => s
  | some b =>
    if s.replay.run then
      let c := s.replay.clock.tick b
      { s with replay := { s.replay with
        clock := { c with nextBoundary := some (b + BitVec.ofNat 48 (160 * s.time.period.toNat)) } } }
    else baseBoundary b s

/-! ## Commits -/

/-- What happens at the cutoff of an ended epoch (R228, R233, R287, R398). -/
def cutoff (e : EndedEpoch) (ecc : CommitEcc) (s0 : State) : State :=
  let s := dropNotRun e.ix { s0 with time := s0.time.moveTo (e.cutoff + 1) }
  let s1 :=
    if unitFailed 17 s then { s with time := { s.time with ended := none } }
    else
      match ecc.staging with
      | some off => skipEpoch e (snapUncorrectable off s)
      | none =>
        if s.snap.recovering then skipEpoch e s
        else
          let c := commitBank e s
          if sleeping c then c else publish c.snap.epoch.toNat ecc.builds c
  if s1.time.epochOn || !(s1.poll.lanes.any (fun l => l.wait != .free)) then s1
  else cancelLanes (fun l => !l.probe) 7 s1

/-- An uncorrectable word of the running configuration (R398): of the user configuration, or of the fallback in Lead-rein, which
then serves the kernel only. -/
def configUncorrectable (w : Nat) (s : State) : State :=
  if s.mode.cur == .leadrein then
    adapting (fun s =>
      let s1 := logFault 0x14 4 0xFFFF (2 ^ 31 + eccWord w) s
      stopRuns { s1 with mode := { s1.mode with konly := true } }) s
  else userUncorrectable w s

/-- SNAPSHOT_COMMIT (R228): the cutoff of the ended epoch, with the uncorrectable words that it meets (R398). In a replay the
commit waits for its recorded verdict (R48). -/
def effSnapshotCommit (ecc : CommitEcc) (s : State) : State :=
  match s.time.ended with
  | none => s
  | some e =>
    if heldUp 154 true s then s
    else match ecc.config with
      | some w => configUncorrectable w (cutoff e ecc s)
      | none => cutoff e ecc s

/-! ## Commands -/

/-- MODE_REQUEST (R74): a write of MODE_REQ with a mode request. -/
def effModeRequest (v : Word) (s : State) : State := writeRow 0x05 v (modeReqWrite v) s

/-- RESET_REQUEST (R80): a write of MODE_REQ with REQ = 0x8 and KEY = 0xA5. -/
def effResetRequest (s : State) : State := writeRow 0x05 0xA508 (modeReqWrite 0xA508) s

/-- EPOCH_PULSE_END (R36). -/
def effEpochPulseEnd (s : State) : State := { s with pins := { s.pins with epochActive := false } }

/-- HUB_TIME_WRAP (R212): hub time passes from its largest value to 0. -/
def effHubTimeWrap (s : State) : State := if HubTime.atOrAfter 0 (hubNow s) then advance 0 s else s

/-- What a return from Farrier makes of the profiles (R77, R64, R184, R196, R329). -/
def reloadProfiles (s : State) : State :=
  let s1 := loadProfiles (clearSelects (clearStatuses s))
  resetCond { s1 with mode := { s1.mode with farrierExit := false, konly := !s1.tack.usrOk && !s1.tack.fbOk } }

/-- FARRIER_EXIT_RELOAD (R77): Halter, or Lead-rein where the user profile is invalid. The way to Lead-rein is reported as one
that the hub takes by itself, although Table 04-6 does not list it (DEDUCED, log entry 28). -/
def effFarrierExitReload (s : State) : State :=
  if s.mode.farrierExit then
    let s1 := reloadProfiles s
    if s1.tack.usrOk then enterMode .halter s1
    else hardwareEntry none (enterMode .leadrein s1)
  else s

/-- The meaning of MODE_REQUEST. -/
def execModeRequest (v : Word) (s : State) : Host.Outcome State Fault Refusal := .next (effModeRequest v s)
/-- The meaning of RESET_REQUEST. -/
def execResetRequest (s : State) : Host.Outcome State Fault Refusal := .next (effResetRequest s)
/-- The meaning of BASE_EPOCH_BOUNDARY. -/
def execBaseEpochBoundary (s : State) : Host.Outcome State Fault Refusal := .next (effBaseEpochBoundary s)
/-- The meaning of SNAPSHOT_COMMIT. -/
def execSnapshotCommit (ecc : CommitEcc) (s : State) : Host.Outcome State Fault Refusal := .next (effSnapshotCommit ecc s)
/-- The meaning of EPOCH_PULSE_END. -/
def execEpochPulseEnd (s : State) : Host.Outcome State Fault Refusal := .next (effEpochPulseEnd s)
/-- The meaning of HUB_TIME_WRAP. -/
def execHubTimeWrap (s : State) : Host.Outcome State Fault Refusal := .next (effHubTimeWrap s)
/-- The meaning of FARRIER_EXIT_RELOAD. -/
def execFarrierExitReload (s : State) : Host.Outcome State Fault Refusal := .next (effFarrierExitReload s)

end Sys2Proof.Machine
end

