-- ==== Sys2Proof/Machine/Resets.lean ====
section
/-! DEFINITION. Resets and the power-up sequence (Tables 04-2 and 04-4), the loss of the clock (R396), Stabled, the wake
sources and the wake sequence (R85 to R95). -/

namespace Sys2Proof.Machine

/-! ## Reset causes -/

/-- POWER_ON_RESET (Table 04-2). -/
def effPowerOnReset (s : State) : State := keepStore s State.reset

/-- BROWN_OUT_RESET (Table 04-2): from VSUP, or from the core LDO. -/
def effBrownOutReset (core : Bool) (s : State) : State :=
  withCause (if core then 4 else 2) s (keepStore s State.reset)

/-- RESET_PIN (Table 04-2). -/
def effResetPin (s : State) : State := warmReset 8 s

/-! ## The loss of the clock -/

/-- The PLL is unlocked, the runs end, and hub time stops (R396). -/
def stopTime (s : State) : State :=
  let s1 := loseLock (stopRuns s)
  { s1 with
    power := { s1.power with clockLost := true, pllLocked := false }
    time := { s1.time with run := false, nextBoundary := none, ended := none, epochOn := false } }

/-- Fault 0x20 (R396, R419): the time base is dropped; Walk and Canter give way to kernel-only Lead-rein, as does the target
of a sleep or a wake. -/
def clockLoss (island detail : Nat) (s0 : State) : State :=
  if s0.power.clockLost then s0
  else
    adapting (fun s =>
      let s1 := if opRuns s && s.op.code == 9 then endOp 3 8 s else s
      let s2 := setDropped 18 (logFault 0x20 4 island detail s1)
      let old := s2.mode.cur
      if sleeping s2 then stopTime { s2 with power := { s2.power with wakeTarget := .leadrein } }
      else if old.records then
        let s3 := recMode old .leadrein (some 0x20) none (epochNumber s2.time.epochIx s2)
          (enterMode .leadrein (stopTime (cancelRequest s2)))
        endRecording (hardwareEntry (some 0x20) s3)
      else stopTime s2) s0

/-- CLOCK_LOSS_TIMEOUT (R396): the PLL has stayed unlocked for 100 µs. -/
def effClockLossTimeout (t : HubTime) (s0 : State) : State :=
  let s := advance t s0
  if s.power.boot == .running && !s.power.pllLocked && (s.power.sleep == .awake || s.power.sleep == .quiescing) then
    clockLoss 7 2 s
  else s

/-- CRYSTAL_STOP (R396): no edge of the reference clock for 2 µs. -/
def effCrystalStop (t : HubTime) (s0 : State) : State :=
  let s := advance t s0
  if (s.power.boot == .running || s.power.boot == .answering) && s.power.sleep != .sealed && !s.power.crystalStopped then
    clockLoss 6 (1 + 2 * bit (!s.power.pllLocked)) { s with power := { s.power with crystalStopped := true } }
  else s

/-! ## Power-up (Table 04-4) -/

/-- RESET_RELEASE (R68, step 4): PSEL is sampled, and the kernel starts. -/
def effResetRelease (psel : BitVec 2) (s : State) : State :=
  if s.power.boot == .held then
    { s with power := { s.power with boot := .starting, psel := psel }, tack := { s.tack with sel := psel } }
  else s

/-- START_CHECKS_DONE (step 5, R63): on a pass the Rein port answers; a failed kernel island ends all service. -/
def effStartChecksDone (failed : Option (Fin 264)) (s : State) : State :=
  if s.power.boot == .starting then
    match failed with
    | none => { s with power := { s.power with boot := .answering } }
    | some i => logFault 0x34 5 i.val i.val { s with power := { s.power with boot := .dead } }
  else s

/-- The FREQ code of a measurement in kHz (R419): the supported frequency within 8 %, 0 where there is none. -/
def freqCode (kHz : Nat) : Nat :=
  match [(1, 16000), (2, 20000), (3, 24000), (4, 32000), (5, 40000)].find? (fun (p : Nat × Nat) =>
    decide (100 * kHz ≤ 108 * p.2) && decide (92 * p.2 ≤ 100 * kHz)) with
  | some p => p.1
  | none => 0

/-- The hub is at the point of a start or a wake where it measures the reference clock. -/
def measuring (s : State) : Bool :=
  !s.power.measured && !s.power.clockLost && ((s.power.boot == .answering && s.power.sleep == .awake) || s.power.sleep == .waking)

/-- REFCLK_MEASURED (R419). -/
def effRefclkMeasured (kHz : Nat) (s : State) : State :=
  if measuring s then
    let s1 := { s with power := { s.power with
      measured := true, freq := BitVec.ofNat 3 (freqCode kHz), freqBad := freqCode kHz == 0 } }
    if freqCode kHz = 0 then clockLoss 7 2 s1 else s1
  else s

/-- PLL_LOCK (steps 6 and 9): hub time starts at 0, or resumes at its value at the seal plus the sleep (R66, R86); a kept trace
ring is attached again (R262). -/
def effPllLock (slept : HubTime) (s : State) : State :=
  if s.power.measured && !s.power.pllLocked && !s.power.clockLost
      && ((s.power.boot == .answering && s.power.sleep == .awake) || s.power.sleep == .waking) then
    let now := if s.power.sleep == .waking then s.time.now + slept else 0
    attachRing { s with
      power := { s.power with pllLocked := true }
      time := { s.time with run := true, now := now, wrap := s.time.wrap || decide (now.toNat < s.time.now.toNat) } }
  else s

/-- The first base boundary: the first hub time after now that is a multiple of 160 ht, which is 0 where hub time wraps first
(R214). -/
def firstBoundary (s : State) : State :=
  let b := (s.time.now.toNat / 160 + 1) * 160
  { s with time := { s.time with
    nextBoundary := if s.time.run then some (if b < 2 ^ 48 then BitVec.ofNat 48 b else 0) else none } }

/-- RESET_PROFILE_LOAD_DONE (steps 7 and 8): the profiles are read, and Halter or Lead-rein is entered. -/
def effResetProfileLoadDone (s : State) : State :=
  if s.power.boot == .answering && (s.power.pllLocked || s.power.clockLost) then
    let s1 := loadProfiles (attachRing (grants [(10, true), (11, false), (12, false), (13, false), (15, true)] s))
    let s2 := { s1 with
      mode := { s1.mode with konly := !s1.tack.fbOk && !s1.tack.usrOk }
      power := { s1.power with boot := .running } }
    firstBoundary (hardwareEntry none
      (enterMode (if s1.tack.usrOk && !s1.power.clockLost then .halter else .leadrein) s2))
  else s

/-! ## Sealing (R85, R86) -/



/-- Every port has stopped, every pin change has attached, and the last epoch is committed: the watchers are armed
(R85). -/
def quiesced (s : State) : Bool :=
  s.time.ended.isNone && s.poll.lanes.all (fun l => l.wait == .free)
    && (List.range 14).all (fun n => !portBusy n s) && pinsPending s == 0

/-- Every queue item of the hub, for MP_STB_DROP. -/
def itemsInAll (s : State) : Nat := sumNat (s.pool.queues.map Queue.itemCount)

/-- A channel's buffers at the seal, and its watcher's counters. -/
def CanSt.seal (c : CanSt) : CanSt :=
  { c with
    txBuf := none, txOpen := none, txSkip := 0, front0 := none, front1 := none, shadow0 := none, shadow1 := none, rx := none
    wErr := 0, wFd := 0 }

/-- What Stabled does not retain is gone (R86). A stalled read that still waits ends with its empty value (log entry 94). -/
def dropVolatile (s : State) : State :=
  let p := s.pool
  { s with
    pool := { p with queues := p.queues.map Queue.discardAll, lost := 0, waiting := [], ram := [], era := p.era + 1 }
    snap := { s.snap with
      bankA := { zeroBank with slots := (List.range 256).map (fun n => { zeroSlot with sht := (lastSlot n s).sht }) }, bankB := zeroBank, bankC := zeroBank, newest := 0, staging := 0, pinned := 0, pinCommits := 0
      fill := false, early := [], written := [], fresh0 := [], fresh1 := [], missNext := [], first := true, firstNext := false }
    poll := { s.poll with pend := [], late := [], held := [], served := [] }
    tap := { s.tap with trigd := false, recording := false, kfpend := false, kept := [], lostBlocks := 0 }
    verdicts := ⟨[], []⟩
    canA := s.canA.seal
    canB := s.canB.seal
    sports := s.sports.map (fun x => { x with
      cache := [], lines := [], fill := none, prefetch := none, loaded := none, sending := none, hold := none, wcnt := 0
      target := false, stored := false, ignore := false })
    rein := { s.rein with stall := none } }

/-- The wake begins (step 8 of Table 04-9): PWR_HOLD is high again, and WFSTAT is latched (R92, R298). -/
def beginWake (s : State) : State :=
  let latch := fun (ch : Chan) (s : State) =>
    setStatWord (canStat ch 0x39C) (min 63 (canOf ch s).wErr + 256 * min 255 (canOf ch s).wFd) s
  let s1 := latch .b (latch .a s)
  grant 5 false { s1 with power := { s1.power with sleep := .waking, pwrHold := true, dropRunning := false, measured := false } }

/-- The seal (R85, step 4): CUR = 0x1, PEND clears, and a watcher that has fired already wakes the hub at once (R89). -/
def sealHub (sBefore : State) : State :=
  let s00 := grants [(14, true), (4, true), (163, false)] sBefore
  let s0 := s00.poll.commits.foldl (fun s e => applyCommit e s) s00
  let dropped := itemsInAll s0
  let s := loseLock (if s0.tack.expanding then applyStaged s0 else s0)
  let s1 := (s.poll.held).foldl (fun s h => setEstat h.ep 3 false s) s
  let s2 := setMode .stabled (dropVolatile s1)
  let s3 := { s2 with
    power := { s2.power with
      stbDrop := BitVec.ofNat 16 (min 0xFFFF dropped), sleep := .sealed, pllLocked := false, dropRunning := !s2.power.pwr.getLsbD 0 }
    time := { s2.time with run := false, nextBoundary := none, epochOn := false, recent := [] } }
  if s3.power.earlyWake then
    beginWake { s3 with power := { s3.power with wakeCause := setBit s3.power.wakeCause 6 } }
  else s3

/-- STABLED_SEAL (R85). -/
def effStabledSeal (s : State) : State :=
  if s.power.boot == .running && s.power.sleep == .quiescing && quiesced s then adapting sealHub s else s

/-! ## The abort of a transaction (R32, R321, R344) -/

/-- The target transaction of S port `p` is aborted: it stores nothing more, and its item will say so (R321). -/
def cutTarget (p : Nat) (s : State) : State :=
  if targetRuns p s then modSPort p (fun x => { x with ignore := true }) (abortFrame p s) else s

/-- The line fill and the SFDP read of S0 are aborted. -/
def cutWindow (s : State) : State :=
  let s1 := if (sportOf 0 s).fill.isSome then modSPort 0 (fun x => { x with fill := none }) (abortFrame 0 s) else s
  if (sportOf 0 s1).sfdpSent then endSfdp false (abortFrame 0 s1) else s1

/-- Whether a frame of a flash job is on the wires between its commands is free (log entry 87); where it is, the job fails. -/
def cutFlash (s : State) : State :=
  if flashJob s && (sportOf 0 s).last == .flash && !sInFrame 0 s then
    (if Config.freeBool s.seed then endOp 3 8 (drawn (abortFrame 0 s)) else drawn s)
  else s

/-- What S port `p` has on its wires ends (R321): a lane's step fails with LAST `code`, a target transaction stores nothing more,
a line fill, the SFDP read or a flash frame is lost, and a select that is held rises. -/
def cutS (p code : Nat) (s : State) : State :=
  let s1 := cutTarget p (failOnWire (2 + p) 4 code s)
  let s2 := if p = 0 then cutWindow (cutFlash s1) else s1
  if (sportOf p s2).hold.isSome then releaseSelect p s2 else s2

/-- What I port `p` has on its wires ends as a bus fault (R344), and the bus counts as busy until BIDLE has passed (R337). `res` is
what a pass-through transaction reports, if the spec says. -/
def cutI (p code : Nat) (res : Option PtResult) (s : State) : State :=
  let s1 := failOnWire (6 + p) 4 code (if ptOnWire p s then ptCut p res s else s)
  modIPort p (fun x => { x with idle := true }) (dropHold p s1)

/-- Whether the next pass-through entry of S port `p` was on the wires when its port stopped, and how far it had come, the commands
do not say (log entry 87): it is aborted, or still waits. -/
def tornEntry (p : Fin 4) (s : State) : State :=
  if hostWants p.val s && sTurn p.val .host s && Config.freeBool s.seed then
    match takeItem (38 + p.val) s with
    | none => s
    | some r =>
      let e := ptEntry r.1.bytes
      if r.1.bad.isSome || !ptFits p.val e s then s
      else
        let n := (Config.freeWord s.seed).toNat % (ptRxLen p.val e s + 1)
        drawn (runEntry p.val e true ((List.range n).map (fun k => Config.freeByte s.seed k)) r.2)
  else s

/-- The transaction on port `n` is aborted: an S or I port reports a bus fault (R321, R344), which is how it reports a timeout of
its own, and a SENT input its line timeout (R32, R85; log entry 95). -/
def abortPort (n : Nat) (s : State) : State :=
  if isCanPort n then
    (let ch : Chan := if n = 0 then .a else .b
     if (canOf ch s).state != 0 && !canCond ch s then stopCan ch s else s)
  else if isSPort n then cutS (n - 2) 5 s
  else if isIPort n then (if portBusy n s then cutI (n - 6) 5 (some .busyTimeout) s else s)
  else if isTPort n && (tportOf (n - 10) s).inFrame then lineSilent (n - 10) s
  else s

/-- STABLED_QUIESCE_TIMEOUT (R85): 10 ms after the entry every port that is not idle is aborted, and every pin change
attaches. -/
def effStabledQuiesceTimeout (s : State) : State :=
  if s.power.sleep == .quiescing then
    let s0 := (List.range 4).foldl (fun s p => tornEntry ⟨p % 4, by omega⟩ s) s
    let s1 := (List.range 14).foldl (fun s n => if portBusy n s then abortPort n s else s) s0
    let s2 := cancelLanes (fun _ => true) 7 s1
    adapting (fun s => (List.range 59).foldl (fun s i => attachPin i (beginTransit i s)) s) s2
  else s

/-- PWR_HOLD_DROP (R92): DROP_DLY after the seal. -/
def effPwrHoldDrop (s : State) : State :=
  if s.power.sleep == .sealed && s.power.dropRunning then
    grant 5 true { s with power := { s.power with pwrHold := false, dropRunning := false } }
  else s

/-! ## Wake sources (R87 to R91) -/

/-- The wake setting of a channel. -/
def wakeMode (ch : Chan) (s : State) : Nat := field s.power.wakeCfg.toNat (2 * chanNum ch) 2

/-- The target that MP_WAKE_TGT gives source `src`. -/
def wakeTargetOf (src : Nat) (s : State) : Mode :=
  let c := field s.power.wakeTgt.toNat (2 * src) 2
  if c = 1 then .walk else if c = 2 then .canter else .halter

/-- The first source sets FIRST and chooses the target, unless a fault has chosen Lead-rein already (R88, Table 04-13). -/
def firstSource (src : Nat) (s : State) : State :=
  { s with power := { s.power with
    wakeCause := (s.power.wakeCause &&& 0xF8FF) ||| BitVec.ofNat 16 (256 * src)
    wakeTarget := if s.power.wakeTarget = .leadrein then .leadrein else wakeTargetOf src s } }

/-- The cause bits of a source that fires. -/
def causeBits (src : Nat) (feo : Bool) (s : State) : State :=
  let c := setBit s.power.wakeCause src
  { s with power := { s.power with wakeCause := if feo then setBit c 5 else c } }

/-- Points 0 to 4: the way of wake source `src` (Table 03-7). -/
def wakePath (src : Nat) : List (Nat × Bool) :=
  [(0, src == 1), (1, src == 2), (2, src == 3), (3, src == 4), (4, false)].drop (src - 1)

/-- An enabled wake source fires (R87 to R89), at its points while the watchers are armed. -/
def fireWake (src : Nat) (feo : Bool) (s0 : State) : State :=
  let s := grants (wakePath src) s0
  match s0.power.sleep with
  | .awake => s0
  | .quiescing =>
    if quiesced s then
      let s1 := causeBits src feo (if s.power.earlyWake then s else firstSource src s)
      { s1 with power := { s1.power with earlyWake := true } }
    else s0
  | .sealed => beginWake (causeBits src feo (firstSource src s))
  | .waking => causeBits src feo s

/-- WAKE_DOMINANT_EDGE (Table 04-8). -/
def effWakeDominantEdge (ch : Chan) (s : State) : State :=
  if wakeMode ch s = 1 then fireWake (chanNum ch) false s else s

/-- A frame is a wake frame of the channel (R297). -/
def isWakeFrame (ch : Chan) (f : CanFrame) (s : State) : Bool :=
  let a := portBlock (chanNum ch)
  let w := runWord (a + 0x10) s
  let mask := Memory.readBytes cfgDflt (running s) (a + 0x1A) 8
  let hits := List.zipWith (fun (d m : Byte) => d &&& m != 0) f.data mask
  !f.rtr && !f.fdf && f.ide == nbit w 2 && frameOk f
    && Nat.land (Nat.xor f.id.toNat (runLong (a + 0x12) s % 2 ^ 29)) (runLong (a + 0x16) s % 2 ^ 29) == 0
    && (!nbit w 3 || (f.dlc.toNat == field w 4 4 && (mask.all (fun m => m == 0) || hits.any id)))

/-- The watcher counts a frame while the hub is sealed (R298): its frame error counter and its FD count. -/
def watchFrame (ch : Chan) (f : WatcherFrame) (s : State) : State :=
  if s.power.sleep = .sealed ∧ wakeMode ch s = 2 then
    modCan ch (fun c =>
      match f with
      | .errored => { c with wErr := c.wErr + 1 }
      | .valid => { c with wErr := c.wErr - 1 }
      | .fd => { c with wErr := c.wErr - 1, wFd := satAdd 255 c.wFd 1 }) s
  else s

/-- WAKE_FRAME (Table 04-8): a wake frame, itself a valid frame (R298), wakes the hub; any other frame is one that
WAKE_WATCHER_FRAME tells of. -/
def effWakeFrame (ch : Chan) (f : CanFrame) (s : State) : State :=
  if wakeMode ch s = 2 ∧ isWakeFrame ch f s = true then fireWake (chanNum ch) false (watchFrame ch .valid s) else s

/-- WAKE_WATCHER_FRAME (R298). -/
def effWakeWatcherFrame (ch : Chan) (f : WatcherFrame) (s : State) : State := watchFrame ch f s

/-- WAKE_FRAME_ERROR_OVERFLOW (Table 04-8): the watcher's counter has reached 32. -/
def effWakeFrameErrorOverflow (ch : Chan) (s : State) : State :=
  if wakeMode ch s = 2 ∧ 32 ≤ (canOf ch s).wErr then fireWake (chanNum ch) true s else s

/-- WAKE_PIN_EDGE (Table 04-8). -/
def effWakePinEdge (rising : Bool) (s : State) : State :=
  if nbit s.power.wakeCfg.toNat (if rising then 4 else 5) then fireWake 2 false s else s

/-- WAKE_REIN_CS (Table 04-8, R90): the frame that begins is not received, and REIN_SDO stays undriven in it (R87, R141). -/
def effWakeReinCs (s : State) : State :=
  let s1 := if s.power.sleep == .sealed then { s with rein := { s.rein with miso := none } } else s
  if s1.power.wakeCfg.getLsbD 6 then fireWake 3 false s1 else s1

/-- WAKE_TIMER (Table 04-8). -/
def effWakeTimer (s : State) : State := if s.power.wakeCfg.getLsbD 7 then fireWake 4 false s else s

/-- WAKE_TARGET_ENTRY (step 10 of Table 04-9, R88, R93): ports are enabled and bank supplies checked, and the target is
entered; Lead-rein in its place where a fault or an invalid user profile says so. -/
def effWakeTargetEntry (suppliesLow : BitVec 4) (s : State) : State :=
  if s.power.sleep == .waking && (s.power.pllLocked || s.power.clockLost) then
    let byFault := s.power.wakeTarget == .leadrein
    let target := if byFault || !s.tack.usrOk then .leadrein else s.power.wakeTarget
    let s1 := grants [(13, true), (15, true)] { s with power := { s.power with sleep := .awake, bankLow := suppliesLow } }
    let s2 := hardwareEntry (if byFault then none else some 0x01) (enterMode target s1)
    firstBoundary (if suppliesLow = 0 then endFault 0x24 s2
      else if s.power.bankLow = suppliesLow && faultActive 0x24 s2 then s2
      else logFault 0x24 1 0xFFFF suppliesLow.toNat s2)
  else s

/-- The meaning of POWER_ON_RESET. -/
def execPowerOnReset (s : State) : Host.Outcome State Fault Refusal := .next (effPowerOnReset s)
/-- The meaning of BROWN_OUT_RESET. -/
def execBrownOutReset (core : Bool) (s : State) : Host.Outcome State Fault Refusal := .next (effBrownOutReset core s)
/-- The meaning of RESET_PIN. -/
def execResetPin (s : State) : Host.Outcome State Fault Refusal := .next (effResetPin s)
/-- The meaning of CLOCK_LOSS_TIMEOUT. -/
def execClockLossTimeout (t : HubTime) (s : State) : Host.Outcome State Fault Refusal := .next (effClockLossTimeout t s)
/-- The meaning of CRYSTAL_STOP. -/
def execCrystalStop (t : HubTime) (s : State) : Host.Outcome State Fault Refusal := .next (effCrystalStop t s)
/-- The meaning of RESET_RELEASE. -/
def execResetRelease (psel : BitVec 2) (s : State) : Host.Outcome State Fault Refusal := .next (effResetRelease psel s)
/-- The meaning of START_CHECKS_DONE. -/
def execStartChecksDone (failed : Option (Fin 264)) (s : State) : Host.Outcome State Fault Refusal :=
  .next (effStartChecksDone failed s)
/-- The meaning of REFCLK_MEASURED. -/
def execRefclkMeasured (kHz : Nat) (s : State) : Host.Outcome State Fault Refusal := .next (effRefclkMeasured kHz s)
/-- The meaning of PLL_LOCK. -/
def execPllLock (slept : HubTime) (s : State) : Host.Outcome State Fault Refusal := .next (effPllLock slept s)
/-- The meaning of RESET_PROFILE_LOAD_DONE. -/
def execResetProfileLoadDone (s : State) : Host.Outcome State Fault Refusal := .next (effResetProfileLoadDone s)
/-- The meaning of STABLED_SEAL. -/
def execStabledSeal (s : State) : Host.Outcome State Fault Refusal := .next (effStabledSeal s)
/-- The meaning of STABLED_QUIESCE_TIMEOUT. -/
def execStabledQuiesceTimeout (s : State) : Host.Outcome State Fault Refusal := .next (effStabledQuiesceTimeout s)
/-- The meaning of PWR_HOLD_DROP. -/
def execPwrHoldDrop (s : State) : Host.Outcome State Fault Refusal := .next (effPwrHoldDrop s)
/-- The meaning of WAKE_DOMINANT_EDGE. -/
def execWakeDominantEdge (ch : Chan) (s : State) : Host.Outcome State Fault Refusal := .next (effWakeDominantEdge ch s)
/-- The meaning of WAKE_FRAME. -/
def execWakeFrame (ch : Chan) (f : CanFrame) (s : State) : Host.Outcome State Fault Refusal := .next (effWakeFrame ch f s)
/-- The meaning of WAKE_WATCHER_FRAME. -/
def execWakeWatcherFrame (ch : Chan) (f : WatcherFrame) (s : State) : Host.Outcome State Fault Refusal :=
  .next (effWakeWatcherFrame ch f s)
/-- The meaning of WAKE_FRAME_ERROR_OVERFLOW. -/
def execWakeFrameErrorOverflow (ch : Chan) (s : State) : Host.Outcome State Fault Refusal :=
  .next (effWakeFrameErrorOverflow ch s)
/-- The meaning of WAKE_PIN_EDGE. -/
def execWakePinEdge (rising : Bool) (s : State) : Host.Outcome State Fault Refusal := .next (effWakePinEdge rising s)
/-- The meaning of WAKE_REIN_CS. -/
def execWakeReinCs (s : State) : Host.Outcome State Fault Refusal := .next (effWakeReinCs s)
/-- The meaning of WAKE_TIMER. -/
def execWakeTimer (s : State) : Host.Outcome State Fault Refusal := .next (effWakeTimer s)
/-- The meaning of WAKE_TARGET_ENTRY. -/
def execWakeTargetEntry (suppliesLow : BitVec 4) (s : State) : Host.Outcome State Fault Refusal :=
  .next (effWakeTargetEntry suppliesLow s)

end Sys2Proof.Machine
end

