-- ==== Sys2Proof/Machine/Auth.lean ====
section
/-! DEFINITION. Authenticated commands (chapter 08): the message and its tag, the checks of Table 08-2, what each accepted
command does, and the rejection. -/

namespace Sys2Proof.Machine

/-! ## The command and its message -/

/-- OPC of a command (Table 08-5). -/
def AuthCmd.opc (c : AuthCmd) : Nat := field c.op.toNat 0 8

/-- KSLOT of a command. -/
def AuthCmd.slot (c : AuthCmd) : Nat := field c.op.toNat 8 2

/-- OP_ARG0 to OP_ARG3 as the command took them. -/
def AuthCmd.arg (c : AuthCmd) (i : Nat) : Nat := (c.args.getD i 0).toNat

/-- The length of the data block that Table 08-3 gives. -/
def AuthCmd.blockLength (c : AuthCmd) : Nat :=
  if c.opc = 0x12 ∨ c.opc = 0x14 then 16
  else if c.opc = 0x13 then
    64 * bit (nbit (c.arg 1) 0) + 32 * bit (nbit (c.arg 1) 1) + (if nbit (c.arg 1) 2 then 4 * c.arg 3 else 0)
  else 0

/-- The message of Table 08-1 (R165). -/
def authMessage (c : AuthCmd) (s : State) : List Byte :=
  s.tack.uid ++ leBytes 4 c.ctr.toNat ++ leBytes 2 c.op.toNat ++ bytesOf c.args ++ c.data

/-- A key slot. -/
def slotKey (n : Nat) (s : State) : KeySlot := s.tack.slots.getD n emptySlot

/-- The tag of a message under a key: the first 8 bytes of its CMAC (R166). -/
def authTag (key msg : List Byte) : List Byte := (cmac key msg).take 8

/-- The command as it stands at a write of AUTH_OP (R169, R170). -/
def takeCommand (win : Option Nat) (v : Word) (s : State) : AuthCmd where
  win := win
  op := v
  args := [s.op.arg0, s.op.arg1, s.op.arg2, s.op.arg3]
  ctr := s.auth.ctr
  tag := [s.auth.tag0, s.auth.tag1, s.auth.tag2, s.auth.tag3].flatMap (fun t => (leBytes 2 t.toNat).reverse)
  data := ((queueOf 61 s).items.filter (fun i => i.bad.isNone)).flatMap (fun i => i.bytes)

/-! ## The commands' own conditions (step 8 of Table 08-2) -/

/-- The mode that limits commands and operations: Stabled from the moment its entry takes effect. -/
def commandMode (s : State) : Mode := if sleeping s then .stabled else s.mode.cur

/-- Halter, Walk, Canter and Lead-rein. -/
def workMode (s : State) : Bool := commandMode s == .halter || (commandMode s).polls

/-- PROFILE_SELECT: TACK_STAT.FAIL_CODE 6 for its argument, 5 for the mode (R106). -/
def selectRefusal (c : AuthCmd) (s : State) : Option State :=
  if 4 ≤ c.arg 0 then some (tackFail 6 s) else if workMode s then none else some (tackFail 5 s)

/-- PROFILE_COMMIT: FAIL_CODE 6, 4 or 5; while an operation runs WHY 1, and while a write job runs FAIL_CODE 7, each recorded
where it holds (R110, R112, R117, Table 08-11). -/
def commitStartRefusal (c : AuthCmd) (s : State) : Option State :=
  let m := commandMode s
  if 5 ≤ c.arg 0 then some (tackFail 6 s)
  else if c.arg 0 = 4 ∧ (m ≠ .halter ∨ s.tack.fbLock = true) then some (tackFail 4 s)
  else if m ≠ .halter ∧ m ≠ .leadrein then some (tackFail 5 s)
  else if opRuns s || s.tack.busy then
    let s1 := if opRuns s then { s with op := { s.op with why := 1 } } else s
    some (if s.tack.busy then tackFail 7 s1 else s1)
  else none

/-- The endpoint part of an ENDPOINT_COMMIT. -/
def AuthCmd.commit (c : AuthCmd) : EpCommit :=
  let p := c.arg 1
  let a := 64 * bit (nbit p 0)
  let b := 32 * bit (nbit p 1)
  { ep := c.arg 0 % 256, parts := BitVec.ofNat 3 p, desc := c.data.take a, cond := (c.data.drop a).take b
    first := c.arg 2, steps := c.data.drop (a + b), atBoundary := false, owed := false }

/-- ENDPOINT_COMMIT: its mode and arguments, and the cases of R204. -/
def endpointRefusal (c : AuthCmd) (s : State) : Option State :=
  let p := c.arg 1
  if workMode s && decide (c.arg 0 < 256) && p != 0 && decide (p < 8) && decide (c.arg 2 < 1024) && decide (c.arg 3 ≤ 256)
      && (nbit p 2 || c.arg 3 == 0) && decide (c.arg 2 + c.arg 3 ≤ 1024) then
    (commitRefusal c.commit s).map (fun ecr => setEcr (c.arg 0) ecr s)
  else some s

/-- FARRIER_ENTER: RFS 1, 6 or 2. -/
def farrierRefusal (s : State) : Option State :=
  if commandMode s ≠ .halter then some (refuseMode 1 s)
  else if s.mode.pend then some (refuseMode 6 s)
  else if opRuns s then some (refuseMode 2 s)
  else none

/-- TACK_ERASE: FAIL_CODE 6, 4, 5 or 7 (R113, R117). -/
def eraseRefusal (c : AuthCmd) (s : State) : Option State :=
  if 5 ≤ c.arg 0 then some (tackFail 6 s)
  else if c.arg 0 = 4 ∧ s.tack.fbLock = true then some (tackFail 4 s)
  else if commandMode s ≠ .halter ∧ commandMode s ≠ .leadrein then some (tackFail 5 s)
  else if s.tack.busy then some (tackFail 7 s)
  else none

/-- Step 8: the RESULT of a refusal, and the state with its reason recorded. -/
def ownRefusal (c : AuthCmd) (s : State) : Option (Nat × State) :=
  let seven := fun (r : Option State) => r.map (fun s => (7, s))
  match c.opc with
  | 0x11 => seven (selectRefusal c s)
  | 0x12 => seven (commitStartRefusal c s)
  | 0x13 => seven (endpointRefusal c s)
  | 0x14 =>
    if commandMode s ≠ .halter ∨ 4 ≤ c.arg 0 ∨ 512 ≤ c.arg 1 then some (7, s)
    else if (slotKey (c.arg 0) s).state = 2 then some (10, s)
    else none
  | 0x15 => seven (farrierRefusal s)
  | 0x16 => seven (eraseRefusal c s)
  | 0x17 => if commandMode s ≠ .farrier ∨ opRuns s = true then some (7, s) else none
  | _ => if workMode s || commandMode s == .farrier then none else some (7, s)

/-! ## The decision (R171 to R173) -/

/-- The crypto unit and the tack store write path work. -/
def cryptoWorks (s : State) : Bool :=
  !unitFailed 20 s && !unitFailed 21 s && !s.fault.restarting.any (fun i => unitOf i == 20 || unitOf i == 21)

/-- The first check of Table 08-2 that fails: its RESULT and the state with the reason recorded. A record whose program or verify
failed leaves the ring as it was, so the next takes the same word (DESIGN CHOICE, log entry 97). -/
def firstFailure (c : AuthCmd) (recordFails : Bool) (s : State) : Option (Nat × State) :=
  let k := slotKey c.slot s
  if c.opc < 0x11 ∨ 0x18 < c.opc ∨ c.data.length ≠ c.blockLength then some (2, s)
  else if s.auth.hold then some (9, s)
  else if !cryptoWorks s then some (8, s)
  else if k.state = 0 then some (3, s)
  else if !k.mask.getLsbD (c.opc - 0x11) then some (4, s)
  else if c.ctr.toNat ≤ s.tack.counter.toNat then some (5, s)
  else if c.tag ≠ authTag k.key (authMessage c s) then some (6, s)
  else
    match ownRefusal c s with
    | some r => some r
    | none => if recordFails then some (8, s) else none

/-- The command data queue is emptied, and AUTH_STAT shows the decision; the tap records the write that issued the command (R142,
R170). -/
def showDecision (c : AuthCmd) (result : Nat) (s0 : State) : State :=
  let s := grants [(44, false), (45, false), (23, true)] (emptyQueue 61 (abandonItem 61 .host s0))
  recRein c.win.isSome result (if c.win.isSome then 0x16 else 0x20) c.op (c.win.getD 0) { s with auth := { s.auth with
    op := 0, pend := none, result := BitVec.ofNat 4 result, lslot := BitVec.ofNat 2 c.slot } }

/-- A rejected command (R172, R173). -/
def rejectCommand (c : AuthCmd) (r : Nat × State) : State :=
  let s := showDecision c r.1 r.2
  let s1 := attend 15 { s with auth := { s.auth with rej := true } }
  if r.1 = 6 then
    { s1 with auth := { s1.auth with fails := BitVec.ofNat 4 (satAdd 15 s1.auth.fails.toNat 1), hold := true } }
  else s1

/-! ## What the accepted commands do -/

/-- A long operation starts (R176, R178, R179). -/
def beginOp (code : Byte) (job : OpJob) (s : State) : State :=
  { s with op := { s.op with
    code := code, abort := false, state := 1, ovf := false, why := 0, prog := 0, newest := ⟨0, 0, 0, 0⟩, recs := [], job := job } }

/-- PROFILE_COMMIT starts: a write job with the image of the user configuration, or a failure before anything is erased
(R109, R110, R112). -/
def startCommit (c : AuthCmd) (s0 : State) : State :=
  let s := beginOp 4 .commit s0
  let area := c.arg 0
  if sectLimit area < (sectionData s.cfg.user).length then opEnd 3 8 (tackFail 1 s)
  else
    startJob { kind := if area = 4 then 2 else 1, area := area, copy := targetCopy area s, gen := targetGen area s
               tag := c.data, image := none, stop := false } s

/-- KEY_LOAD empties its target and starts to write it (R175). AUTH_OP stays as written until the slot is written. -/
def startKeyLoad (c : AuthCmd) (s : State) : State :=
  let key := aesDecrypt (slotKey c.slot s).key c.data
  { s with
    tack := { s.tack with slots := s.tack.slots.set (c.arg 0) emptySlot }
    auth := { s.auth with
      op := c.op &&& 0x03FF
      keyWrite := some (c.arg 0, { state := if nbit (c.arg 1) 8 then 2 else 1, key := key, mask := BitVec.ofNat 8 (c.arg 1) }) } }

/-- The replay loader starts on a trace in S0 flash (R377). -/
def startLoader (addr units : Nat) (s0 : State) : State :=
  let s := emptyQueue 50 (abandonItem 50 .loader s0)
  { s with replay := { s.replay with
    lstate := 1, why := 0, srcAddr := BitVec.ofNat 32 addr, srcUnits := BitVec.ofNat 32 units
    loaded := 0, used := 0, rest := [], lastSeq := none, ended := .going, seeking := false } }

/-- The effect of an accepted command (Table 08-3). -/
def runCommand (c : AuthCmd) (s : State) : State :=
  match c.opc with
  | 0x11 => startSwitch (c.arg 0) s
  | 0x12 => startCommit c s
  | 0x13 => acceptCommit c.commit s
  | 0x14 => startKeyLoad c s
  | 0x15 => enterMode .farrier (cancelSwitch (grants [(15, false), (51, false)] s))
  | 0x16 => startJob { kind := 3, area := c.arg 0, copy := 0, gen := 0, tag := [], image := none, stop := false } s
  | 0x17 => startLoader (c.arg 0 + 65536 * c.arg 1) (c.arg 2 + 65536 * c.arg 3) s
  | _ => { s with pins := { s.pins with lock := true } }

/-- An accepted command: its counter is stored before it takes effect (R115, R172). -/
def acceptCommand (c : AuthCmd) (s0 : State) : State :=
  let s := showDecision c 1 (storeCounter c.ctr s0)
  runCommand c { s with auth := { s.auth with fails := 0, lastAccepted := c.op &&& 0x03FF } }

/-- The pending command with OPC `opc` is decided, while the hub serves at all (R63). -/
def decideCommand (opc : Nat) (s : State) : State :=
  match s.auth.pend with
  | none => s
  | some c =>
    if c.opc = opc ∧ s.power.boot ≠ .dead then
      match firstFailure c false s with
      | some r => rejectCommand c r
      | none => acceptCommand c s
    else s

/-! ## Registers -/

/-- A write of AUTH_OP (R169, Table 08-5), by a frame or through window address `win`. The write of a new command is recorded when
it is decided. -/
def authOpWrite (win : Option Nat) (v : Word) (s0 : State) : Reply :=
  let s := closeHostData s0
  if s0.auth.op ≠ 0 ∨ s0.auth.pend.isSome = true then denied s0
  else if v &&& 0xFF = 0 then wrote s
  else wrote { s with auth := { s.auth with op := v &&& 0x03FF, pend := some (takeCommand win v s) } }

/-- A write of AUTH_OP that starts a decision, whose record waits for it (Table 16-1). One that is refused because AUTH_OP is busy
is recorded at once, with RESULT 0 (R142; log entry 96). -/
def unrecorded (a : Nat) (r : Reply) : Bool := a == 0x20 && r.s.auth.pend.isSome && !r.adre

/-- AUTH_STAT (Table 08-7). -/
def authStat (s : State) : Word :=
  let x := s.auth
  packWord [(x.result.toNat, 0), (bit x.rej, 4), (bit x.hold, 5), (x.lslot.toNat, 6), (x.fails.toNat, 8)]

/-- The key check value of a slot, byte 0 in the upper half (Table 08-10). -/
def keyCheck (k : KeySlot) : Nat :=
  let b := aesEncrypt k.key (List.replicate 16 0)
  if k.state = 0 then 0 else (b.getD 1 0).toNat + 256 * (b.getD 0 0).toNat

/-- The word at offset `o` of the authentication status block (Table 08-10). -/
def authBlock (o : Nat) (s : State) : Word :=
  if o < 8 then BitVec.ofNat 16 (leValue ((s.tack.uid.drop o).take 2))
  else if o < 0xC then BitVec.ofNat 16 (s.tack.counter.toNat / 2 ^ (8 * (o - 8)))
  else if o = 0xC then s.auth.lastAccepted
  else if 0x10 ≤ o ∧ o < 0x20 then
    let k := slotKey ((o - 0x10) / 4) s
    if o % 4 = 0 then packWord [(k.state.toNat, 0), (k.mask.toNat, 8)] else BitVec.ofNat 16 (keyCheck k)
  else 0

/-! ## Commands -/

/-- PROFILE_SELECT (R105): the pending command is decided. -/
def effProfileSelect (s : State) : State := decideCommand 0x11 s
/-- PROFILE_COMMIT (R110). -/
def effProfileCommit (s : State) : State := decideCommand 0x12 s
/-- ENDPOINT_COMMIT (R205). -/
def effEndpointCommit (s : State) : State := decideCommand 0x13 s
/-- KEY_LOAD (R175). -/
def effKeyLoad (s : State) : State := decideCommand 0x14 s
/-- FARRIER_ENTER (R174). -/
def effFarrierEnter (s : State) : State := decideCommand 0x15 s
/-- TACK_ERASE (R113). -/
def effTackErase (s : State) : State := decideCommand 0x16 s
/-- REPLAY_LOAD (R377). -/
def effReplayLoad (s : State) : State := decideCommand 0x17 s
/-- PINMUX_LOCK (R35). -/
def effPinmuxLock (s : State) : State := decideCommand 0x18 s

/-- KEY_LOAD_DONE (R175): the page marker is verified, and AUTH_OP clears. -/
def effKeyLoadDone (s : State) : State :=
  match s.auth.keyWrite with
  | none => s
  | some w => grants [(44, true), (23, true)] { s with
      tack := { s.tack with slots := s.tack.slots.set w.1 w.2 }
      auth := { s.auth with op := 0, keyWrite := none } }

/-- AUTH_HOLD_END (R173). -/
def effAuthHoldEnd (s : State) : State := { s with auth := { s.auth with hold := false } }

/-- AUTH_COMMAND_REJECTED (R169, R172): a write of AUTH_OP while it reads non-zero, or a decision that fails. -/
def effAuthCommandRejected (r : AuthRejection) (s : State) : State :=
  match r with
  | .busyWrite v =>
    if (s.auth.op ≠ 0 ∨ s.auth.pend.isSome = true) ∧ s.power.boot ≠ .dead then writeRow 0x20 v (authOpWrite none v) s else s
  | .decision recordFails =>
    match s.auth.pend with
    | none => s
    | some c =>
      if s.power.boot = .dead then s
      else
        match firstFailure c recordFails s with
        | some f => rejectCommand c f
        | none => s

/-- The meaning of PROFILE_SELECT. -/
def execProfileSelect (s : State) : Host.Outcome State Fault Refusal := .next (effProfileSelect s)
/-- The meaning of PROFILE_COMMIT. -/
def execProfileCommit (s : State) : Host.Outcome State Fault Refusal := .next (effProfileCommit s)
/-- The meaning of ENDPOINT_COMMIT. -/
def execEndpointCommit (s : State) : Host.Outcome State Fault Refusal := .next (effEndpointCommit s)
/-- The meaning of KEY_LOAD. -/
def execKeyLoad (s : State) : Host.Outcome State Fault Refusal := .next (effKeyLoad s)
/-- The meaning of KEY_LOAD_DONE. -/
def execKeyLoadDone (s : State) : Host.Outcome State Fault Refusal := .next (effKeyLoadDone s)
/-- The meaning of FARRIER_ENTER. -/
def execFarrierEnter (s : State) : Host.Outcome State Fault Refusal := .next (effFarrierEnter s)
/-- The meaning of TACK_ERASE. -/
def execTackErase (s : State) : Host.Outcome State Fault Refusal := .next (effTackErase s)
/-- The meaning of REPLAY_LOAD. -/
def execReplayLoad (s : State) : Host.Outcome State Fault Refusal := .next (effReplayLoad s)
/-- The meaning of PINMUX_LOCK. -/
def execPinmuxLock (s : State) : Host.Outcome State Fault Refusal := .next (effPinmuxLock s)
/-- The meaning of AUTH_HOLD_END. -/
def execAuthHoldEnd (s : State) : Host.Outcome State Fault Refusal := .next (effAuthHoldEnd s)
/-- The meaning of AUTH_COMMAND_REJECTED. -/
def execAuthCommandRejected (r : AuthRejection) (s : State) : Host.Outcome State Fault Refusal :=
  .next (effAuthCommandRejected r s)

end Sys2Proof.Machine
end

