-- ==== Sys2Proof/Machine/ReplayStart.lean ====
section
/-! DEFINITION. The replay loader (R377), and the start of a replay from a keyframe (R378, Table 16-2). -/

namespace Sys2Proof.Machine

/-! ## Records of a trace file -/

/-- One record of a trace file (R365): its header fields and the bytes after the header. -/
structure TraceRec where
  type : Nat
  units : Nat
  more : Bool
  cont : Bool
  seq : Word
  body : List Byte
  deriving DecidableEq, Repr

/-- The LEN values that Table 16-1 allows for a type. -/
def lenAllowed (type units : Nat) : Bool :=
  match type with
  | 1 => decide (2 ≤ units) && decide (units ≤ 32)
  | 2 => decide (3 ≤ units) && decide (units ≤ 11)
  | 3 => units == 2
  | 4 => decide (1 ≤ units) && decide (units ≤ 9)
  | 5 => units == 2
  | 6 => units == 3
  | 7 => units == 3
  | 8 => units == 2
  | 9 => units == 2
  | 10 => units == 2
  | 11 => decide (1 ≤ units) && decide (units ≤ 32)
  | _ => false

/-- The header of the record that begins a byte string, `none` where it is malformed (R365). -/
def traceHeader (bs : List Byte) : Option TraceRec :=
  let type := (bs.getD 0 0).toNat
  let len := (bs.getD 1 0).toNat
  let more := nbit len 6
  let cont := nbit len 7
  if lenAllowed type (field len 0 6) && ((!more && !cont) || type == 11) then
    some ⟨type, field len 0 6, more, cont, BitVec.ofNat 16 (leValue ((bs.drop 2).take 2)), (bs.drop 4).take (8 * field len 0 6 - 4)⟩
  else none

/-- A whole record that begins a byte string. -/
def traceRecord (bs : List Byte) : Option TraceRec :=
  match traceHeader bs with
  | none => none
  | some r => if 8 * r.units ≤ bs.length then some r else none

/-- The number of bytes after which a header can be judged. -/
def headerBytes : Nat := 4

/-! ## The chain of a keyframe -/

/-- What the bytes from the first part of a keyframe on hold: too few bytes, a broken chain, or the payload, the bytes
that the chain takes and the sequence number of its last part. -/
inductive Chain where
  | short
  | broken
  | whole (payload : List Byte) (taken : Nat) (last : Word)
  deriving DecidableEq, Repr

/-- The chain whose next part has sequence number `seq` (R370). -/
def readChain : Nat → Bool → Word → List Byte → List Byte → Nat → Chain
  | 0, _, _, _, _, _ => .broken
  | fuel + 1, first, seq, bs, got, taken =>
    if bs.length < headerBytes then .short
    else
      match traceHeader bs with
      | none => .broken
      | some r =>
        if r.type != 11 || r.cont == first || r.seq != seq then .broken
        else if bs.length < 8 * r.units then .short
        else if r.more then readChain fuel false (seq + 1) (bs.drop (8 * r.units)) (got ++ r.body) (taken + 8 * r.units)
        else .whole (got ++ r.body) (taken + 8 * r.units) seq

/-- The chain at the start of a byte string that begins with a first part; each part has at least one unit. -/
def chainOf (bs : List Byte) : Chain :=
  readChain (bs.length / 8 + 1) true (BitVec.ofNat 16 (leValue ((bs.drop 2).take 2))) bs [] 0

/-! ## The content of a keyframe -/

/-- `n` bytes at offset `o` as a number. -/
def kfNum (k : List Byte) (o n : Nat) : Nat := leValue ((k.drop o).take n)

/-- The mode that a keyframe records; a keyframe is taken in Walk or Canter only. -/
def recordedMode (c : Nat) : Option Mode := if c = 3 then some .walk else if c = 4 then some .canter else none

/-- One endpoint entry of a keyframe. -/
structure KfEntry where
  ep : Nat
  flags : Nat
  refDue : Nat
  groupDue : Nat
  ref : Int
  group : Int
  status : List Byte
  slot : List Byte
  words : List Int
  held : List Byte
  deriving DecidableEq, Repr

/-- The size of an entry with `nf` filter words and `nh` held-frame bytes. -/
def kfEntrySize (nf nh : Nat) : Nat := (64 + 4 * nf + nh + 7) / 8 * 8

/-- An entry from its bytes. -/
def kfEntry (b : List Byte) : KfEntry :=
  let nf := kfNum b 2 1
  { ep := kfNum b 0 1, flags := kfNum b 1 1, refDue := kfNum b 4 4, groupDue := kfNum b 8 4
    ref := signed 32 (kfNum b 12 4), group := signed 32 (kfNum b 16 4)
    status := (b.drop 20).take 12, slot := (b.drop 32).take 32
    words := (List.range nf).map (fun i => signed 32 (kfNum b (64 + 4 * i) 4))
    held := (b.drop (64 + 4 * nf)).take (kfNum b 3 1) }

/-- The entries of a keyframe, `none` where the bytes do not hold them. -/
def kfEntries : Nat → List Byte → Option (List KfEntry)
  | 0, _ => some []
  | n + 1, b =>
    let size := kfEntrySize (kfNum b 2 1) (kfNum b 3 1)
    if b.length < 64 ∨ b.length < size then none
    else
      match kfEntries n (b.drop size) with
      | none => none
      | some es => some (kfEntry b :: es)

/-- A slot from its 32 bytes (Table 10-3). -/
def slotFrom (b : List Byte) : Slot :=
  let l := fun (o : Nat) => BitVec.ofNat 32 (kfNum b o 4)
  { v0 := l 0, v1 := l 4, v2 := l 8, v3 := l 12, sht := BitVec.ofNat 48 (kfNum b 16 6), age := BitVec.ofNat 16 (kfNum b 22 2)
    alive := b.getD 24 0, fcnt := BitVec.ofNat 3 (kfNum b 25 1), qual := BitVec.ofNat 16 (kfNum b 26 2)
    fq0 := b.getD 28 0, fq1 := b.getD 29 0, fq2 := b.getD 30 0, fq3 := b.getD 31 0 }

/-- The header fields of a bank from its bytes 0x000 to 0x1FF (Table 10-2). -/
def hdrFrom (b : List Byte) : BankHdr :=
  { epoch := BitVec.ofNat 32 (kfNum b 0 4), flags := BitVec.ofNat 16 (kfNum b 4 2), skip := BitVec.ofNat 16 (kfNum b 6 2)
    startHt := BitVec.ofNat 48 (kfNum b 8 6), guard := b.getD 14 0, endHt := BitVec.ofNat 48 (kfNum b 16 6)
    cutoffHt := BitVec.ofNat 48 (kfNum b 24 6), commitHt := BitVec.ofNat 48 (kfNum b 32 6)
    byCount := BitVec.ofNat 32 (kfNum b 40 4), byOff := BitVec.ofNat 16 (kfNum b 44 2), grp := (b.drop 160).take 16
    crcv := BitVec.ofNat 16 (kfNum b 504 2), crc := BitVec.ofNat 32 (kfNum b 508 4) }

/-- The keyframe can be loaded: it holds its entries and records Walk or Canter. -/
def kfWhole (k : List Byte) : Bool :=
  decide (576 ≤ k.length) && (recordedMode (field (kfNum k 10 2) 0 4)).isSome && (kfEntries (kfNum k 44 2) (k.drop 576)).isSome

/-- The checks of R377 on a whole chain: RPL_STAT.WHY, 0 where it passes. -/
def kfWhy (k : List Byte) (s : State) : BitVec 4 :=
  if !kfWhole k then 2
  else if !nbit (kfNum k 10 2) 6 then 4
  else if kfNum k 16 4 != (configCrc s.cfg.user).toNat || selectedGen s != some (kfNum k 20 4) then 3
  else 0

/-! ## The loader -/

/-- The loader ends. -/
def endLoader (e : LoaderEnd) (s : State) : State := { s with replay := { s.replay with ended := e } }

/-- The loading fails before a keyframe has been found (R377). -/
def loadFails (e : LoaderEnd) (why : BitVec 4) (s : State) : State :=
  { s with replay := { s.replay with ended := e, lstate := 5, why := why } }

/-- The loader has `n` bytes less before it, the units of a record. -/
def passUnits (r : TraceRec) (s : State) : State :=
  { s with replay := { s.replay with
    rest := s.replay.rest.drop (8 * r.units), loaded := s.replay.loaded + r.units, lastSeq := some r.seq } }

/-- A record whose header follows the record passed last in SEQ order. -/
def seqFollows (r : TraceRec) (s : State) : Bool :=
  match s.replay.lastSeq with
  | none => true
  | some q => r.seq == q + 1

/-- What stands first in the bytes read: nothing yet, the end of the trace, a bad header, or a record, which may not yet be
whole. -/
inductive LoaderView where
  | wait
  | stop (e : LoaderEnd)
  | record (r : TraceRec)

/-- The loader looks at the next header (R377). -/
def loaderView (s : State) : LoaderView :=
  let r := s.replay
  if r.srcUnits.toNat ≤ r.loaded then .stop .units
  else if r.rest.length < headerBytes then .wait
  else
    match traceHeader r.rest with
    | none => .stop .malformed
    | some h =>
      if !seqFollows h s then .stop .malformed
      else if r.srcUnits.toNat < r.loaded + h.units then .stop .units
      else .record h

/-- LSTATE 1: records are skipped up to the first part of a keyframe, which is then checked (R377). -/
def scanTrace : Nat → State → State
  | 0, s => s
  | fuel + 1, s =>
    match loaderView s with
    | .wait => s
    | .stop .malformed => loadFails .malformed 5 s
    | .stop e => loadFails e 2 s
    | .record h =>
      if h.type == 11 && !h.cont then
        match chainOf s.replay.rest with
        | .short =>
          if s.replay.srcUnits.toNat ≤ s.replay.loaded + s.replay.rest.length / 8 then loadFails .units 2 s else s
        | .broken => loadFails .going 2 s
        | .whole k _ _ =>
          if kfWhy k s = 0 then { s with replay := { s.replay with lstate := 2 } } else loadFails .going (kfWhy k s) s
      else if s.replay.rest.length < 8 * h.units then s
      else
        let s1 := passUnits h s
        scanTrace fuel { s1 with replay := { s1.replay with used := s1.replay.used + h.units } }

/-- The loader waits for cells of queue 50, or no longer. -/
def loaderWaits (cells : Option Nat) (s : State) : State :=
  let rest := s.pool.waiting.filter (fun w => w.1 != .loader)
  { s with pool := { s.pool with waiting := match cells with | some n => rest ++ [(.loader, 50, n)] | none => rest } }

/-- The verdicts of a batch record, runs expanded and padding left out (Table 16-1). -/
def batchVerdicts : List Word → List Verdict
  | [] => []
  | w :: ws =>
    let n := w.toNat
    (if loggedPoint (field n 0 9) then List.replicate (field n 10 6 + 1) ⟨field n 0 9, nbit n 9⟩ else []) ++ batchVerdicts ws

/-- The verdicts of a batch record join the recorded verdicts of their points (R379) when the record has been loaded into queue
50 (Table 16-6): a batch stands behind the records of what its verdicts let happen (R369; log entry 98). -/
def joinVerdicts (r : TraceRec) (s : State) : State :=
  if r.type = 4 then
    { s with verdicts := { s.verdicts with forced := s.verdicts.forced ++ batchVerdicts (wordsOf r.body) } }
  else s

/-- LSTATE 2 and 3: records go to queue 50, one item each, as long as there is room (R377). -/
def supplyTrace : Nat → State → State
  | 0, s => s
  | fuel + 1, s =>
    match loaderView s with
    | .wait => s
    | .stop e => endLoader e s
    | .record h =>
      if s.replay.rest.length < 8 * h.units then s
      else
        match putItem 50 .loader 0 (s.replay.rest.take (8 * h.units)) 0 s with
        | none => loaderWaits (some (cellsFor (8 * h.units))) s
        | some s1 => supplyTrace fuel (passUnits h (joinVerdicts h s1))

/-- The loader goes on with what it has read. Runs that waited for a recorded verdict may then take a lane. -/
def runLoader (s0 : State) : State :=
  let s := loaderWaits none s0
  if s.replay.ended != .going then s
  else
    let n := s.replay.rest.length / 8 + 1
    let s1 := if s.replay.lstate = 1 then scanTrace n s else s
    if s1.replay.lstate = 2 ∨ s1.replay.lstate = 3 then
      let s2 := supplyTrace n s1
      if s2.replay.run then dispatch s2 else s2
    else s1

/-- The loader runs: LSTATE is scanning, ready or feeding, and it has not ended. -/
def loaderRuns (s : State) : Bool :=
  (s.replay.lstate == 1 || s.replay.lstate == 2 || s.replay.lstate == 3) && s.replay.ended == .going

/-- A read of `n` bytes at flash address `a` goes out on S0, with the read settings of the flash (R327, R377). -/
def sendRead (a n : Nat) (s : State) : State :=
  let f := frameNow 0 (flashSel s) none s
  let modeByte := if nbit (runWord 0x2A00 s) 4 then some (BitVec.ofNat 8 (runWord 0x2A04 s)) else none
  countFrame 0 (sendFrame 0 .flash f
    (phasedOut 0 f { fillDesc s with dlen := n } (field (runWord 0x2A02 s) 0 8) a modeByte [] s) s)

/-- REPLAY_LOADER_FILL (R377): the loader reads the next bytes of the trace from S0 flash, or a read that S0 cannot serve. -/
def effReplayLoaderFill (bytes : List Byte) (fails : Bool) (s : State) : State :=
  if loaderRuns s then
    if fails || !sReady 0 (flashSel s) s then
      (if s.replay.lstate = 1 then loadFails .readFailed 1 s
       else endLoader .readFailed { s with replay := { s.replay with why := 1 } })
    else if sTurn 0 .flash s then
      let limit := 8 * (s.replay.srcUnits.toNat - s.replay.loaded)
      let s1 := sendRead (s.replay.srcAddr.toNat + 8 * s.replay.loaded + s.replay.rest.length) bytes.length s
      pumpS0 (runLoader { s1 with replay := { s1.replay with rest := (s.replay.rest ++ bytes).take limit } })
    else s
  else s

/-! ## The state of a keyframe -/

/-- The list without every second entry, the first kept. -/
def everySecond {α : Type} : List α → List α
  | [] => []
  | [x] => [x]
  | x :: _ :: xs => x :: everySecond xs

/-- The conditioning state of an entry: the reference, and the history split into stages and fields as Table 16-2 orders them
(R378). -/
def kfCond (e : KfEntry) (s : State) : CondSt :=
  let f := condWord e.ep 0x10 s / 256
  let n := if field f 0 2 = 2 then 4 else if field f 0 2 = 3 then 3 else 1
  let chunks := (List.range (e.words.length / n)).map (fun i => ((e.words.drop (n * i)).take n).reverse)
  let both := decide (field f 2 2 < chunks.length)
  { ep := e.ep, ref := if nbit e.flags 3 then some (e.ref, e.refDue) else none
    hist0 := if both then everySecond chunks else chunks
    hist1 := if both then everySecond (chunks.drop 1) else [] }

/-- The status part of an entry. -/
def loadStatus (e : KfEntry) (s : State) : State :=
  { s with cfg := { s.cfg with
    status := Memory.writeBytes zeroDflt (Memory.clear s.cfg.status (epAddr e.ep + 0x34) 12) (epAddr e.ep + 0x34) e.status } }

/-- The slots of the staging bank: those of the entries, and of the other endpoints, of which a keyframe holds nothing, what an
inactive one without a sample has (log entry 90). -/
def kfSlots (es : List KfEntry) (first : Bool) (s : State) : List Slot :=
  (List.range 256).map (fun n =>
    match es.find? (fun e => e.ep == n) with
    | some e => slotFrom e.slot
    | none => if first then firstSlot n zeroSlot s else agedSlot n (firstSlot n zeroSlot s) s)

/-- A bank's place in the order of commits, by its role: the newest is younger than the one without a role. -/
def roleOrder (b staging newest : Nat) : Option Nat :=
  if newest = 0 ∨ b = staging then none else if b = newest then some 1 else some 0

/-- The banks and their roles. -/
def loadBanks (k : List Byte) (es : List KfEntry) (s : State) : State :=
  let roles := kfNum k 40 2
  let st := if field roles 0 2 = 0 then 1 else field roles 0 2
  let h := hdrFrom ((k.drop 64).take 512)
  let s1 := { s with snap := { s.snap with
    bankA := { s.snap.bankA with order := roleOrder 1 st (field roles 2 2) }
    bankB := { s.snap.bankB with order := roleOrder 2 st (field roles 2 2) }
    bankC := { s.snap.bankC with order := roleOrder 3 st (field roles 2 2) }
    staging := BitVec.ofNat 2 st, newest := BitVec.ofNat 2 (field roles 2 2), pinned := BitVec.ofNat 2 (field roles 4 2)
    pinCommits := 0, pinTmo := BitVec.ofNat 8 (min 255 (kfNum k 42 2)), pinAt := BitVec.ofNat 48 (kfNum k 4 6)
    xoff := nbit (kfNum k 30 2) 0, nocrc := nbit (kfNum k 30 2) 1, droplate := nbit (kfNum k 30 2) 2
    fill := false, early := [], written := [], fresh0 := [], fresh1 := [], missNext := [], first := h.flags.getLsbD 8, firstNext := false
    commits := 2, skips := h.skip, ageLimit := BitVec.ofNat 16 (kfNum k 28 2), recovering := false } }
  modBank st (fun b => { b with hdr := h, slots := kfSlots es s1.snap.first s1 }) s1

/-- The time base at B: epoch E has ended there, and is still being staged. -/
def loadTime (k : List Byte) (m : Mode) (s : State) : State :=
  let b := BitVec.ofNat 48 (kfNum k 4 6)
  let period := kfNum k 24 2
  let h := hdrFrom ((k.drop 64).take 512)
  let g := clipGuard (kfNum k 26 1) (10 * period)
  let lock := nbit (kfNum k 38 1) 0
  { s with
    time := { s.time with
      now := b, run := true, period := BitVec.ofNat 16 period, guard := BitVec.ofNat 8 (kfNum k 26 1)
      baseCount := BitVec.ofNat 32 (kfNum k 12 4), recent := [(b, BitVec.ofNat 32 (kfNum k 12 4))]
      nextBoundary := some (b + BitVec.ofNat 48 (160 * period)), epochOn := false, epochIx := kfNum k 0 4 + 1, skipped := 0
      heldGuard := none, heldPeriod := none
      ended := some { ix := kfNum k 0 4, mode := m, startHt := h.startHt, endHt := b, guard := g.1, clipped := g.2
                      cutoff := b + BitVec.ofNat 48 (16 * g.1), byCount := h.byCount } }
    power := { s.power with walkEps := BitVec.ofNat 3 (kfNum k 27 1) }
    boryel := { s.boryel with
      lock := lock, offset := BitVec.ofNat 16 (kfNum k 36 2), leading := false, rx := none, syncOut := none, carry := 0
      leaderBase := if lock then some (BitVec.ofNat 32 (kfNum k 12 4), BitVec.ofNat 32 (kfNum k 32 4)) else none } }

/-- A hub time of which the spec states nothing, from three words of the counter at `k`. -/
def freeTime (k : Nat) : HubTime :=
  BitVec.ofNat 48 ((Config.freeWord k).toNat + 65536 * (Config.freeWord (k + 1)).toNat
    + 4294967296 * (Config.freeWord (k + 2)).toNat)

/-- A trigger part that has ended ahead of epoch E + 1. The time of its SPLIT, whether it had started a transaction, its retries
and the sample hub time that its data steps have set are not in the keyframe (log entry 98). -/
def aheadRun (n due k : Nat) : DueRun :=
  { ep := n, due := due, readOnly := true, splitHt := freeTime k, started := Config.freeBool (k + 3)
    retries := (Config.freeWord (k + 4)).toNat % 4, sht := freeTime (k + 5), timed := Config.freeBool (k + 8)
    portData := Config.freeBool (k + 9) }

/-- What the endpoint entries give: status parts, conditioning, groups, held frames and ended trigger parts. -/
def loadEntries (due : Nat) (es : List KfEntry) (s0 : State) : State :=
  let s := { s0 with cfg := { s0.cfg with status := Memory.clear s0.cfg.status 0x10000 0x4000 } }
  let s1 := es.foldl (fun s e => loadStatus e s) s
  let trig := es.filter (fun e => nbit e.flags 2)
  { s1 with
    seed := s1.seed + 10 * trig.length
    snap := { s1.snap with
      cond := (es.map (fun e => kfCond e s1)).filter (fun c => c.ref.isSome || !c.hist0.isEmpty || !c.hist1.isEmpty)
      groups := (es.filter (fun e => nbit e.flags 4)).map (fun e => ⟨e.ep, e.group, e.groupDue⟩)
      wins := [], own := (es.filter (fun e => nbit e.flags 3)).map (fun e => e.ep) }
    poll := { s1.poll with
      lanes := s1.poll.lanes.map (fun _ => freeLane), waiting := [], triggers := []
      aheadDone := trig.mapIdx (fun i e => aheadRun e.ep due (s1.seed + 10 * i)), endedAhead := [], served := [], pend := [], late := []
      held := (es.filter (fun e => nbit e.flags 1)).map (fun e => ⟨e.ep, BitVec.ofNat 48 (kfNum e.held 0 6), e.held.drop 6⟩) } }

/-- Every express window is derived from the state (R378). -/
def allWindows (s : State) : State :=
  s.snap.own.foldl (fun s n => if isExpress n s then renewWindow n s else s) s

/-- The queues that a replay leaves alone (R378). -/
def replayKeeps (q : Nat) : Bool := q == 48 || q == 50 || q == 60 || q == 61

/-- The state of a keyframe is in force (R378): replay hub time is B, and epoch E + 1 starts there. -/
def loadKeyframe (k : List Byte) (s0 : State) : State :=
  match recordedMode (field (kfNum k 10 2) 0 4), kfEntries (kfNum k 44 2) (k.drop 576) with
  | some m, some es =>
    adapting (fun s =>
      let b := BitVec.ofNat 48 (kfNum k 4 6)
      let s1 := loadTime k m { s with
        replay := { s.replay with run := true, mode := m, diverged := false, seeking := false }
        tack := { s.tack with sel := BitVec.ofNat 2 (field (kfNum k 10 2) 4 2) } }
      let s2 := allWindows (loadEntries (kfNum k 0 4 + 1) es (loadBanks k es s1))
      dueRuns (settleAhead true (startEpoch b s2))) s0
  | _, _ => s0

/-! ## Taking a keyframe from the loader -/

/-- The items of queue 50 as the bytes that the loader would read again, the poisoned ones gone (R258). -/
def suppliedBytes (s : State) : List Byte :=
  ((queueOf 50 s).items.filter (fun i => i.bad.isNone)).flatMap (fun i => i.bytes)

/-- What the replay would take next, with the bytes not yet queued behind it. -/
def upcoming (s : State) : List Byte := suppliedBytes s ++ s.replay.rest

/-- The first `taken` bytes of what comes next are consumed; the loader queues the rest again, whose verdicts alone are then
recorded ones. -/
def consumeBytes (taken : Nat) (seq : Word) (s : State) : State :=
  let all := upcoming s
  let back := (suppliedBytes s).length / 8
  let s1 := emptyQueue 50 s
  runLoader { s1 with
    replay := { s1.replay with
      rest := all.drop taken, loaded := s1.replay.loaded - back + taken / 8, used := s1.replay.used + taken / 8
      lastSeq := some seq }
    verdicts := { s1.verdicts with forced := [] } }

/-- PROG of a replay (R383). -/
def replayProgress (s : State) : State :=
  match s.op.job with
  | .replay n =>
    if n = 0 then opProgress (if s.replay.loaded = 0 then 0 else 256 * s.replay.used / s.replay.loaded) s
    else opProgress (256 * s.replay.epochsDone / n) s
  | _ => s

/-- The keyframe at the front is taken, its state loaded. -/
def takeFrontKeyframe (s : State) : State :=
  match chainOf (upcoming s) with
  | .whole k taken last => replayProgress (loadKeyframe k (consumeBytes taken last s))
  | _ => s

/-- REPLAY_RUN starts (R378). -/
def beginReplay (epochs : Nat) (s0 : State) : State :=
  let s := beginOp 9 (.replay epochs) s0
  let s1 := { s with
    pool := { s.pool with queues := s.pool.queues.mapIdx (fun q x => if replayKeeps q then x else x.discardAll) }
    replay := { s.replay with
      lstate := 3, why := 0, clock := s.time, paused := false, epochsDone := 0, diverged := false, divPend := [], seeking := false } }
  takeFrontKeyframe s1

/-- The meaning of REPLAY_LOADER_FILL. -/
def execReplayLoaderFill (bytes : List Byte) (fails : Bool) (s : State) : Host.Outcome State Fault Refusal :=
  .next (effReplayLoaderFill bytes fails s)

end Sys2Proof.Machine
end

