-- ==== Sys2Proof/Machine/LongOps.lean ====
section
/-! DEFINITION. Long operations (R176 to R180): the start and its refusals, and each operation's work: SELF_TEST (R401),
ROLL_CALL (R207 to R209, R347), AUTO_RATE (R292), PROFILE_LOAD (R108), TRACE_DRAIN (R375), QUEUE_FLUSH (R257), KEYFRAME_NOW
(R376), REPLAY_RUN (R378), FLASH_PROGRAM (R327) and ENDPOINT_PROBE (R206). -/

namespace Sys2Proof.Machine

/-- A 32-bit argument from its two words. -/
def argLong (lo hi : Word) : Nat := lo.toNat + 65536 * hi.toNat

/-! ## ROLL_CALL -/

/-- TADDR of an address. -/
def scanTaddr (ten : Bool) (a : Nat) : Nat := a + 32768 * bit ten

/-- The scan leaves out address `a` of I port `p` (R207). -/
def scanSkips (p a : Nat) (ten : Bool) (s : State) : Bool :=
  let call := runWord (portBlock (6 + p) + 0x1C) s
  !ten && (decide (a < 8) || decide (0x78 ≤ a) || (nbit call 7 && field call 0 7 == a))

/-- The addresses from `a` to `last` that the scan probes. -/
def scanList (p a last : Nat) (ten : Bool) (s : State) : List Nat :=
  ((List.range (last + 1)).drop a).filter (fun b => !scanSkips p b ten s)

/-- The scan goes on at the first address from `next` on that it probes, or is done (R207, R208). -/
def scanFrom (port next last : Nat) (ten : Bool) (total probed : Nat) (s : State) : State :=
  match scanList (port - 6) next last ten s with
  | [] => endOp 2 0 s
  | a :: _ =>
    opProgress (256 * probed / max 1 total)
      { s with op := { s.op with job := .rollCall port a last ten total probed false } }

/-- ROLL_CALL starts: the scan generation rises (R207). -/
def startScan (port a last : Nat) (ten : Bool) (s : State) : State :=
  let g := s.poll.scanGen.getD (port - 6) 0
  let s1 := beginOp 2 .none { s with poll := { s.poll with
    scanGen := s.poll.scanGen.set (port - 6) (if g = 0xFFFF then 1 else g + 1) } }
  scanFrom port a last ten (scanList (port - 6) a last ten s).length 0 s1

/-- A descriptor of the user configuration that is active has this port and this TADDR (R209). -/
def adopted (port taddr : Nat) (s : State) : Bool :=
  (List.range 256).any (fun n =>
    epActive s.cfg.user n && epPort s.cfg.user n == port && cfgWord s.cfg.user (epAddr n + 4) == taddr)

/-- A probe may run: the port works, its bus is free, and no lane holds it or waits for it (R208, R349). -/
def probeMayRun (port : Nat) (s : State) : Bool :=
  iWorks (port - 6) s && !busHeld (port - 6) s && !portHeld port s && !lanesWait port s && !laneOnPort port s
    && !s.poll.lanes.any (fun l => l.wait == .bus port) && !(iportOf (port - 6) s).ptRun && !hubDrives (port - 6) s
    && !iStops (port - 6) s && s.power.sleep != .quiescing

/-- One probe of the scan has ended on the wire (R208, R209, R347). On a stuck bus a probe can only fail. -/
def probeEnds (port a last : Nat) (ten : Bool) (total probed : Nat) (repeated : Bool) (out : ProbeOutcome) (s0 : State) : State :=
  let p := port - 6
  let t := s0.time.now
  let stuck := (iportOf p s0).stk
  let s := if stuck then s0 else sendI p .lane (addressBytes (scanTaddr ten a) false) s0
  let input := fun (outcome : Nat) (s : State) => recPort port 3 0xFF outcome 0 [] t s
  let goOn := scanFrom port (a + 1) last ten total (probed + 1)
  match (if stuck then .torn else out) with
  | .acked =>
    let w0 := a + 1024 * bit ten + 2048 * bit (adopted port (scanTaddr ten a) s) + 4096 * port
    goOn (opPost w0 (s.poll.scanGen.getD p 0).toNat (t.toNat % 65536) (t.toNat / 65536) (countXfer p (input 0 s)))
  | .notAcked => goOn (countNack p (input 1 s))
  | .arbitrationLost => countArbLost p (input 2 s)
  | .torn =>
    let s1 := if stuck then input 3 s else declareHang p .hang (input 3 s)
    if repeated then goOn s1
    else { s1 with op := { s1.op with job := .rollCall port a last ten total probed true } }

/-- ROLL_CALL_PROBE (R208, R347): the probe of the next address. -/
def effRollCallProbe (out : ProbeOutcome) (t : HubTime) (s0 : State) : State :=
  let s := advance t s0
  match s.op.job with
  | .rollCall port a last ten total probed rep =>
    if opRuns s && probeMayRun port s then probeEnds port a last ten total probed rep out s else s
  | _ => s

/-! ## AUTO_RATE -/

/-- The rates of Table 12-5: bit time in rt, NBT0, NBT1. -/
def rateTable : List (Nat × Nat × Nat) :=
  [(80, 0x0303, 0x030E), (100, 0x0304, 0x030E), (160, 0x0307, 0x030E), (320, 0x030F, 0x030E), (640, 0x031F, 0x030E),
   (800, 0x0327, 0x030E), (960, 0x032F, 0x030E), (1600, 0x034F, 0x030E), (2400, 0x0377, 0x030E), (4000, 0x03C7, 0x030E),
   (8000, 0x07C7, 0x071E)]

/-- The candidate for a shortest interval of `x` rt: within 3 % of its bit time (R292). -/
def rateCandidate (x : Nat) : Option (Nat × Nat × Nat) :=
  rateTable.find? (fun r => decide (97 * r.1 ≤ 100 * x) && decide (100 * x ≤ 103 * r.1))

/-- AUTO_RATE_VERIFY_START (R292): the second half. -/
def effAutoRateVerifyStart (s : State) : State :=
  match s.op.job with
  | .autoRate ch ms false =>
    if opRuns s then opProgress 128 { s with op := { s.op with job := .autoRate ch ms true } } else s
  | _ => s

/-- AUTO_RATE ends with its record (R292). Where there is no candidate the record's W1 and W2 are not stated. -/
def endAutoRate (verifying : Bool) (shortest : Option Nat) (frames : Nat) (consecutive pex : Bool) (s : State) : State :=
  let w3 := fun (reason : Nat) => min 255 frames + 256 * bit pex + 512 * reason
  let failed := fun (w1 w2 reason : Nat) (s : State) => endOp 3 8 (opPost 0 w1 w2 (w3 reason) s)
  let free := (Config.freeWord s.seed).toNat
  let free2 := (Config.freeWord (s.seed + 1)).toNat
  let drew := { s with seed := s.seed + 2 }
  match shortest.filter (fun x => decide (60 ≤ x)) with
  | none => failed free free2 1 drew
  | some x =>
    match rateCandidate x with
    | none => failed free free2 2 drew
    | some r =>
      if !verifying then s
      else if consecutive && decide (2 ≤ frames) then endOp 2 0 (opPost r.1 r.2.1 r.2.2 (w3 0) s)
      else failed r.2.1 r.2.2 3 s

/-! ## SELF_TEST -/

/-- The timed islands (Table 03-1); the others are free. -/
def timedIslands : List Nat := [8, 9, 157, 158, 159, 160, 161, 170, 171, 172, 173, 174, 211, 217, 223, 229, 231, 233, 235, 237]

/-- Unit `u` is a port in use, which a self-test leaves alone: an enabled port, S0 with its window enabled too, or a CAN channel
that is not stopped (R401). -/
def unitInUse (u : Nat) (s : State) : Bool :=
  if u = 0 then (canOf .a s).state != 0
  else if u = 1 then (canOf .b s).state != 0
  else if u < 14 then nbit (runWord (portBlock u) s) 0 || (u == 2 && windowFetches s)
  else false

/-- The units that a test group covers, 15 standing for the island test (Table 17-3). -/
def groupUnits (g : Nat) : List Nat :=
  match g with
  | 0 => [18]
  | 1 => [20]
  | 2 => [21, 26]
  | 3 => [16]
  | 4 => [14]
  | 5 => [17]
  | 6 => [15]
  | 7 => [19]
  | 8 => [0, 1]
  | 9 => [2, 3, 4, 5]
  | 10 => [6, 7, 8, 9]
  | 11 => [10, 11, 12, 13]
  | 12 => [22]
  | 13 => [24]
  | 14 => [26]
  | _ => List.range 27

/-- The unit that a report concerns: that of its island, or the only one of its group. -/
def testUnit (r : TestReport) : Option Nat :=
  match r.island, groupUnits r.group.toNat with
  | some i, _ => some (unitOf i.val)
  | none, [u] => some u
  | none, _ => none

/-- The report is one of a group that the operation runs, and of a test that the group has (R401, R402): the island test times
free islands only, and tests each verdict point by its number; a skipped test is one of ports in use, a failed one concerns a
unit of its group that is not in use (log entry 108). -/
def groupSelected (mask : Word) (islandTest : Bool) (s : State) (r : TestReport) : Bool :=
  let us := groupUnits r.group.toNat
  (if r.group = 15 then
      islandTest && decide (1 ≤ r.test.toNat) && decide (r.test.toNat ≤ 3) && r.island.isSome && r.point.isSome == (r.test == 3)
        && (r.test != 1 || !(r.island.any (fun i => timedIslands.contains i.val)))
    else mask.getLsbD r.group.toNat && r.point.isNone)
    && (if r.skipped then us.any (fun u => unitInUse u s)
        else match testUnit r with
          | some u => us.contains u && (r.group == 15 || !unitInUse u s)
          | none => false)

/-- The number of groups that a self-test runs. -/
def groupCount (mask : Word) (islandTest : Bool) : Nat :=
  ((List.range 15).filter (fun i => mask.getLsbD i)).length + bit islandTest

/-- A running self-test has come on, by as much as is free: PROG is ⌊256 × groups done / groups selected⌋ (R401). -/
def moveSelfTest (s : State) : State :=
  match s.op.job with
  | .selfTest mask isl =>
    let n := groupCount mask isl
    if opRuns s && n != 0 then drawn (opProgress (256 * ((Config.freeWord s.seed).toNat % n) / n) s) else s
  | _ => s

/-- The record of a failed or skipped test (R402). -/
def postReport (r : TestReport) (s : State) : State :=
  let w1 := match r.point with
    | some p => p.val
    | none => match r.island with | some i => i.val | none => 0xFFFF
  opPost (r.group.toNat + 16 * r.test.toNat + 32768 * bit r.skipped) w1 r.measured.toNat r.limit.toNat s

/-- SELF_TEST ends as done, and each failed test then fails its unit (R401). -/
def endSelfTest (reports : List TestReport) (s : State) : State :=
  let s1 := endOp 2 0 (reports.foldl (fun s r => postReport r s) s)
  reports.foldl (fun s r =>
    match testUnit r with
    | some u => if r.skipped then s else failUnit 0x4C u (match r.island with | some i => i.val | none => 0xFFFF) s
    | none => s) s1

/-! ## TRACE_DRAIN -/

/-- The drain waits for `n` cells of queue 49, or for none. -/
def drainWaits (n : Nat) (s : State) : State :=
  let rest := s.pool.waiting.filter (fun w => w.1 != .drain)
  { s with pool := { s.pool with waiting := if n = 0 then rest else rest ++ [(.drain, 49, n)] } }

/-- The cells of queue 49 for `n` items of one cell can all be had (R248). -/
def hasRoom (n : Nat) (s : State) : Bool := n == 0 || (canReserve 49 n s && !qmgrDropped s && s.tap.kept.isEmpty)

/-- Items of one cell go to queue 49. -/
def putCellItems : Nat → List Byte → State → State
  | 0, _, s => s
  | n + 1, bs, s => putCellItems n (bs.drop 64) ((putItem 49 .drain 0 (bs.take 64) 0 s).getD s)

/-- `out` bytes of the drain to the host have been written out, `keep` remain in its own buffer, with `blocks` to take. -/
def drainMoved (blocks : Nat) (out keep : List Byte) (s : State) : State :=
  match s.op.job with
  | .drain false addr _ _ seg total done skip fz =>
    opProgress (256 * (done + out.length) / max 1 total) { s with op := { s.op with
      job := .drain false addr blocks keep (seg ++ out) total (done + out.length) skip fz } }
  | _ => s

/-- The drain to the host (R375): block after block goes to queue 49 in items of one cell, until a segment is full. A block is
dequeued only when all the cells that it fills can be had, and held by nobody while the drain waits for them (R248, R261); a bad
one is discarded whole (R258). -/
def pumpDrain : Nat → State → State
  | 0, s => s
  | fuel + 1, s =>
    match s.op.job with
    | .drain false _ blocks cur seg _ _ _ _ =>
      if 4096 ≤ seg.length then s
      else
        match (if blocks = 0 then none else takeItem 48 s) with
        | some t =>
          if t.1.bad.isSome then pumpDrain fuel (drainMoved (blocks - 1) [] cur t.2)
          else
            let bs := cur ++ t.1.bytes
            let n := bs.length / 64
            if hasRoom n s then
              pumpDrain fuel (drainMoved (blocks - 1) (bs.take (64 * n)) (bs.drop (64 * n)) (putCellItems n bs t.2))
            else drainWaits n s
        | none =>
          if cur.isEmpty then drainMoved 0 [] [] s
          else if hasRoom 1 s then drainMoved 0 cur [] (putCellItems 1 cur s)
          else drainWaits 1 s
    | _ => s

/-- The drain to the host goes on. -/
def runDrain (s : State) : State := pumpDrain ((queueOf 48 s).items.length + 2) (drainWaits 0 s)

/-- TRACE_DRAIN starts: the open block closes, and the blocks in the ring are those to drain (R375, R366). -/
def startDrain (toFlash : Bool) (addr : Nat) (s0 : State) : State :=
  let s := closeBlock s0
  let items := (queueOf 48 s).items
  let total := sumNat ((items.filter (fun i => i.bad.isNone)).map (fun i => i.bytes.length))
  let s1 := beginOp 6 (.drain toFlash addr items.length [] [] total 0 0 s.tap.frozen) s
  if toFlash then invalidateCache s1 else runDrain s1

/-- The records that begin in a segment after its first `skip` bytes: whether one is a Gap, and how many bytes the last of
them has in the next segment. -/
def segmentScan : Nat → Nat → List Byte → Bool × Nat
  | 0, _, _ => (false, 0)
  | fuel + 1, skip, bs =>
    if bs.length ≤ skip then (false, skip - bs.length)
    else
      let rest := bs.drop skip
      let n := 8 * max 1 (field (rest.getD 1 0).toNat 0 6)
      let r := segmentScan fuel n rest
      (rest.getD 0 0 == 0x0A || r.1, r.2)

/-- The record of a finished segment (R375): `at` is its flash address or stream offset. -/
def postSegment (first : Nat) (seg : List Byte) (skip : Nat) (fz err : Bool) (s : State) : State :=
  let g := (segmentScan 513 skip seg).1
  opPost (first % 65536) (first / 65536) seg.length (bit fz + 2 * bit g + 4 * bit err) s

/-- RDSROP. -/
def rdsrOp (s : State) : Nat := field (runWord 0x2A08 s) 8 8

/-- The drain to flash dequeues its next block that is not bad; the answer is its bytes, the blocks left and the state. The block
keeps its cells until it has been written out (R375). -/
def takeBlock : Nat → State → Option (List Byte × Nat × State)
  | 0, _ => none
  | n + 1, s =>
    match (queueOf 48 s).next with
    | none => none
    | some p =>
      let s1 := grants ((264, true) :: (182 + 48, false) :: bankGrants false p.1.cells)
        (modQueue 48 (fun x => { x with items := p.2, read := some (readItemOf p.1 p.1.cells) }) s)
      if p.1.bad.isSome then takeBlock n (modQueue 48 (fun x => { x with read := none }) s1) else some (p.1.bytes, n, s1)

/-- At least `need` bytes in hand, or all there are: whole blocks are dequeued (R375). The answer is the bytes, the blocks
left and the state. -/
def gather : Nat → Nat → List Byte → Nat → State → List Byte × Nat × State
  | 0, _, cur, blocks, s => (cur, blocks, s)
  | fuel + 1, need, cur, blocks, s =>
    if need ≤ cur.length then (cur, blocks, s)
    else
      match takeBlock blocks s with
      | none => (cur, 0, s)
      | some r => gather fuel need (cur ++ r.1) r.2.1 r.2.2

/-- The block in hand is written out and released. -/
def releaseBlock (cur : List Byte) (s : State) : State :=
  if cur.isEmpty then grants [(265, true), (262, true)] (modQueue 48 (fun x => { x with read := none }) s) else s

/-- The frames of one flash command: write enable, the status, the command, and the status again (R327). -/
def flashCommand (op addr : Nat) (data : List Byte) (s : State) : List (Nat × Option Nat × List Byte × Nat) :=
  [(field (runWord 0x2A08 s) 0 8, none, [], 0), (rdsrOp s, none, [], 1), (op, some addr, data, 0), (rdsrOp s, none, [], 1)]

/-- The 256-byte pages of a segment. -/
def segmentPages (seg : List Byte) : List (Nat × List Byte) :=
  (List.range ((seg.length + 255) / 256)).map (fun i => (256 * i, (seg.drop (256 * i)).take 256))

/-- The frames of a segment on its way to flash: its sector is erased, and its pages are programmed (R375). -/
def segmentFrames (addr : Nat) (seg : List Byte) (s : State) : List (Nat × Option Nat × List Byte × Nat) :=
  flashCommand (field (runWord 0x2A06 s) 8 8) addr [] s
    ++ (segmentPages seg).flatMap (fun p => flashCommand (field (runWord 0x2A06 s) 0 8) (addr + p.1) p.2 s)

/-- DRAIN_SEGMENT_DONE (R375): a segment of the stream has left; on the way to flash it is taken, erased and programmed
whole, and the record follows. How many more frames its status polls take is free, and after how many frames an error shows
(log entry 99). -/
def effDrainSegmentDone (flashError : Bool) (s : State) : State :=
  match s.op.job with
  | .drain false addr blocks cur seg total done skip fz =>
    if opRuns s && !seg.isEmpty && (decide (4096 ≤ seg.length) || (cur.isEmpty && blocks == 0)) then
      let s1 := postSegment (done - seg.length) (seg.take 4096) skip fz false s
      runDrain { s1 with op := { s1.op with
        job := .drain false addr blocks cur (seg.drop 4096) total done (segmentScan 513 skip (seg.take 4096)).2 fz } }
    else s
  | .drain true addr blocks cur _ total done skip fz =>
    if opRuns s && sReady 0 (flashSel s) s && sTurn 0 .flash s then
      let g := gather 4096 4096 cur blocks s
      let seg := g.1.take 4096
      let keep := g.1.drop 4096
      if seg.isEmpty then { g.2.2 with op := { g.2.2.op with job := .drain true addr 0 [] [] total done skip fz } }
      else if 2 ^ 24 ≤ addr then endOp 3 8 s
      else
        let frames := segmentFrames addr seg s
        let n := if flashError then (Config.freeWord (s.seed + 1)).toNat % frames.length + 1 else frames.length
        let s0 := (frames.take n).foldl (fun s f => sendFlash f.1 f.2.1 f.2.2.1 f.2.2.2 s) g.2.2
        let s1 := countWordBy 0x2B80 (Config.freeWord s.seed).toNat { releaseBlock keep s0 with seed := s.seed + 2 }
        let s2 := postSegment addr seg skip fz flashError s1
        if flashError then endOp 3 8 s2
        else
          pumpS0 (opProgress (256 * (done + seg.length) / max 1 total) { s2 with op := { s2.op with
            job := .drain true (addr + 4096) g.2.1 keep [] total (done + seg.length) (segmentScan 513 skip seg).2 fz } })
    else s
  | _ => s

/-! ## FLASH_PROGRAM -/

/-- FLASH_PROGRAM starts: write enable is sent, once S0 is free for it (R320, R327); with S0 not usable the operation fails. -/
def startFlash (addr : Nat) (erase : Bool) (data : List Byte) (s0 : State) : State :=
  let s := invalidateCache (beginOp 0xA (.flash addr erase data false false 0) (emptyQueue 61 s0))
  if sReady 0 (flashSel s) s then startEnable s else endOp 3 8 s

/-- The record of a flash job (R327). -/
def postFlash (addr done : Nat) (status : Byte) (extra : Nat) (s : State) : State :=
  opPost (addr % 65536) (addr / 65536) done (status.toNat + extra) s

/-- FLASH_STATUS_POLL (R327): the status register is read; first for WEL, then for WIP. Each frame waits its turn on S0 (R320). -/
def effFlashStatusPoll (status : Byte) (s0 : State) : State :=
  match s0.op.job with
  | .flash addr erase data true sent _ =>
    if opRuns s0 && sReady 0 (flashSel s0) s0 && sTurn 0 .flash s0 then
      let s := sendFlash (rdsrOp s0) none [] 1 s0
      let n := if erase then 4096 else data.length
      let kept := { s with op := { s.op with job := .flash addr erase data true sent status } }
      if sent then
        if status.getLsbD 0 then pumpS0 kept else endOp 2 0 (postFlash addr n status 0 s)
      else if !status.getLsbD 1 then endOp 3 8 (postFlash addr 0 status 256 s)
      else
        let s1 := if erase then sendFlash (field (runWord 0x2A06 s) 8 8) (some (addr / 4096 * 4096)) [] 0 s
          else sendFlash (field (runWord 0x2A06 s) 0 8) (some addr) data 0 s
        pumpS0 (opProgress 128 { s1 with op := { s1.op with job := .flash addr erase data true true status } })
    else s0
  | _ => s0

/-! ## QUEUE_FLUSH -/

/-- The queues of a mask. -/
def maskQueues (mask : Nat) : List Nat := (List.range 64).filter (fun q => nbit mask q)

/-- QUEUE_FLUSH starts: a flush of every queue of the mask begins, or is joined (R256, R257). -/
def startFlushOp (mask : Nat) (s : State) : State :=
  let qs := maskQueues mask
  qs.foldl (fun s q => flushQueue q false true s) (beginOp 7 (.flush qs [] qs.length) s)

/-- The records of ended flushes leave in ascending queue order. -/
def postFlushes : List Nat → List OpRecord → State → List Nat × List OpRecord × State
  | [], ended, s => ([], ended, s)
  | q :: qs, ended, s =>
    match ended.find? (fun r => r.w0.toNat == q) with
    | none => (q :: qs, ended, s)
    | some r =>
      postFlushes qs (ended.filter (fun e => e.w0.toNat != q))
        (opPost r.w0.toNat r.w1.toNat r.w2.toNat r.w3.toNat s)

/-- The flush of queue `q` ends (R256, R257). -/
def finishFlush (q : Nat) (s0 : State) : State :=
  match (queueOf q s0).flush with
  | none => s0
  | some f =>
    let s := modQueue q (fun x => { x with flush := none }) s0
    match s.op.job with
    | .flush left ended total =>
      if opRuns s && f.byOp && left.contains q then
        let r : OpRecord := ⟨BitVec.ofNat 16 q, BitVec.ofNat 16 (min f.freed 65535), BitVec.ofNat 16 (min f.dropped 65535),
          BitVec.ofNat 16 (bit f.aborted)⟩
        let p := postFlushes left (ended ++ [r]) s
        let s1 := { p.2.2 with op := { p.2.2.op with job := .flush p.1 p.2.1 total } }
        if p.1.isEmpty then endOp 2 0 s1
        else opProgress (256 * (total - p.1.length + p.2.1.length) / max 1 total) s1
      else s
    | _ => s

/-! ## The start of an operation -/

/-- The units of the model that a replay works with. -/
def replayUnits : List Nat := [14, 16, 17, 18, 19, 22]

/-- The argument of an operation is not valid: its WHY code, where the spec gives one other than 4 (R176, Table 08-4). -/
def badArgument (code : Nat) (s : State) : Option Nat :=
  let o := s.op
  let a0 := o.arg0.toNat
  let ten := nbit o.arg3.toNat 0
  let refuse := fun (b : Bool) => if b then some 4 else none
  match code with
  | 1 => refuse (nbit a0 15 || (nbit o.arg1.toNat 0 && s.mode.cur != .farrier))
  | 2 => refuse (!isIPort (field a0 0 4) || decide (o.arg2.toNat < o.arg1.toNat)
      || decide ((if ten then 0x3FF else 0x7F) < o.arg2.toNat))
  | 3 =>
    let ch : Chan := if nbit a0 0 then .b else .a
    if (canOf ch s).state != 0 then some 2
    else refuse (o.arg1 == 0 || decide (10000 < o.arg1.toNat) || !canPinsOk ch s)
  | 6 =>
    let a := argLong o.arg1 o.arg2
    refuse (nbit a0 0 && (a % 4096 != 0 || decide (2 ^ 24 ≤ a)))
  | 7 =>
    let mask := argLong o.arg0 o.arg1 + 2 ^ 32 * argLong o.arg2 o.arg3
    refuse (mask == 0 || (maskQueues mask).any noFlush)
  | 8 => if s.tap.recording then none else some 2
  | 9 => refuse (s.replay.lstate != 2)
  | 0xA =>
    let n := (takeCommand none 0 s).data.length
    let a := argLong o.arg0 o.arg1
    refuse (!(o.arg2 == 0 && n == 0) && !(o.arg2 == 1 && decide (2 ≤ n) && decide (n ≤ 256) && decide (a % 256 + n ≤ 256)))
  | 0xB => refuse (decide (256 ≤ a0) || !endpointOk (running s) (a0 % 256))
  | _ => none

/-- A unit that the operation needs is dropped (R176). -/
def needsDropped (code : Nat) (s : State) : Bool :=
  let a0 := s.op.arg0.toNat
  match code with
  | 1 => unitFailed 23 s
  | 2 => portDropped (field a0 0 4) s
  | 3 => portDropped (field a0 0 1) s
  | 6 => unitFailed 19 s || (nbit a0 0 && portDropped 2 s)
  | 7 => unitFailed 19 s
  | 8 => unitFailed 22 s
  | 9 => replayUnits.any (fun u => unitFailed u s)
  | 0xA => portDropped 2 s
  | 0xB => unitFailed 16 s || (descOf (running s) (a0 % 256)).ports.any (fun p => portDropped p s)
  | _ => false

/-- OP_STAT.WHY of a refused start, if it is refused (R176). -/
def startRefused (code : Nat) (s : State) : Option Nat :=
  if 0x0C ≤ code then some 6
  else if opRuns s then some 1
  else if code = 4 then some 3
  else if !opAllowed code (commandMode s) then some 2
  else
    match badArgument code s with
    | some w => some w
    | none => if needsDropped code s then some 5 else none

/-- ENDPOINT_PROBE takes a free lane for one attempt of the whole script (R206). -/
def startProbe (ep : Nat) (s0 : State) : State :=
  let s := beginOp 0xB (.probe ep) s0
  match (List.range 16).find? (fun i => laneFree i s) with
  | none => endOp 3 8 s
  | some i =>
    let d := descOf (running s) ep
    let s1 := modLane i (fun _ => { freeLane with ep := ep, probe := true, cfg := running s, lead := s.mode.cur == .leadrein }) s
    setStatByte (epAddr ep + 0x3E) i (startAttempt i d.script (hasSplit (running s) d.script) s1)

/-- The accepted start of an operation. -/
def startOp (code : Nat) (s : State) : State :=
  let o := s.op
  let a0 := o.arg0.toNat
  match code with
  | 1 => beginOp 1 (.selfTest o.arg0 (nbit o.arg1.toNat 0)) (grant 45 true s)
  | 2 => startScan (field a0 0 4) o.arg1.toNat o.arg2.toNat (nbit o.arg3.toNat 0) s
  | 3 => beginOp 3 (.autoRate (if nbit a0 0 then .b else .a) o.arg1.toNat false) s
  | 5 => beginOp 5 .load (grant 47 false s)
  | 6 => startDrain (nbit a0 0) (argLong o.arg1 o.arg2) s
  | 7 => startFlushOp (argLong o.arg0 o.arg1 + 2 ^ 32 * argLong o.arg2 o.arg3) s
  | 8 => keyframeDue (beginOp 8 .keyframe s)
  | 9 => beginReplay (argLong o.arg0 o.arg1) s
  | 0xA => startFlash (argLong o.arg0 o.arg1) (o.arg2 == 0) (takeCommand none 0 s).data s
  | _ => startProbe (a0 % 256) s

/-- The validation of the endpoint at the start of an ENDPOINT_PROBE (R196), where the start comes as far as its argument. -/
def validateProbe (s : State) : State :=
  let ep := s.op.arg0.toNat
  if opRuns s || !opAllowed 0xB (commandMode s) || decide (256 ≤ ep) then s
  else if endpointOk (running s) ep then passValidation ep s
  else failValidation ep s

/-- ABORT is written 1 (R180): the running operation is to end, or, with none running, a running TACK_ERASE. -/
def requestAbort (s : State) : State :=
  if opRuns s then { s with op := { s.op with abort := true } }
  else
    match s.tack.job with
    | some j => if j.kind = 3 then { s with tack := { s.tack with job := some { j with stop := true } } } else s
    | none => s

/-- The start of the operation `code`, or its refusal. A PROFILE_LOAD in a mode that does not allow it sets FAIL_CODE 5 whatever
else refuses it (R108). -/
def opStart (code : Nat) (s : State) : Reply :=
  match startRefused code s with
  | some w =>
    let s1 := { s with op := { s.op with why := BitVec.ofNat 4 w } }
    denied (if code = 5 && !opAllowed 5 (commandMode s) then tackFail 5 s1 else s1)
  | none => wrote (startOp code s)

/-- A write of OP_CMD (R176, R180, R251, Table 08-8). -/
def opCmdWrite (v : Word) (s0 : State) : Reply :=
  let s := closeHostData s0
  let code := field v.toNat 0 8
  if v.getLsbD 15 then wrote (requestAbort s)
  else if code = 0 then wrote s
  else opStart code (if code = 0xB then validateProbe s else s)

/-- A TACK_ERASE has been told to stop (R180). -/
def eraseStops (s : State) : Bool := match s.tack.job with | some j => j.stop | none => false

/-- OP_CMD as it reads: ABORT until the abort is complete (R180). -/
def opCmdRead (s : State) : Word := packWord [(s.op.code.toNat, 0), (bit (s.op.abort || eraseStops s), 15)]

/-- The work that PROG follows has come on, by as much as is free, when OP_STAT is read (R110, R178, R401). -/
def moveOp (s : State) : State := moveSelfTest (moveCommit 0 s)

/-- OP_STAT (Table 08-9). -/
def opStat (s : State) : Word :=
  packWord [(s.op.state.toNat, 0), (bit s.op.ovf, 3), (s.op.why.toNat, 4), (s.op.prog.toNat, 8)]

/-- A write of OP_CMD through a Rein frame. -/
def opCmdRow (v : Word) (s : State) : State := writeRow 0x08 v (opCmdWrite v) s

/-! ## Ends -/

/-- PROFILE_LOAD ends (R108). -/
def endLoad (s : State) : State :=
  let area := s.tack.sel.toNat
  match checkArea area s with
  | .ok p =>
    let copy := (activeCopy area s).getD 0
    let gen := copyGen area copy s
    endOp 2 0 (opPost area copy (gen % 65536) (gen / 65536) (expandUser p s))
  | .error _ => endOp 3 8 { s with tack := { s.tack with usrOk := false } }

/-- The end that the hardware reports for the operation at work, where it fits (R178). -/
def endJobWith (e : OpEnd) (s : State) : State :=
  match s.op.job, e with
  | .selfTest mask isl, .selfTest reports =>
    if s.fault.restarting.isEmpty && reports.all (groupSelected mask isl s) then endSelfTest reports s else s
  | .selfTest .., .failed => endOp 3 8 s
  | .autoRate _ _ verifying, .autoRate x n c pex => endAutoRate verifying x n c pex s
  | .load, .complete => endLoad s
  | .drain _ _ blocks cur seg _ _ _ _, .complete => if blocks = 0 ∧ cur = [] ∧ seg = [] then endOp 2 0 s else s
  | .drain toFlash .., .failed => if toFlash then endOp 3 8 s else s
  | .flash .., .failed => endOp 3 8 s
  | .keyframe, .failed => if s.tap.recording then s else endOp 3 8 s
  | _, _ => s

/-- LONG_OP_END (R178): the operation at work comes to its end; one that the host has told to abort ends so (R180), and so does a
TACK_ERASE, after the page erase in progress (log entry 34). -/
def effLongOpEnd (e : OpEnd) (s : State) : State :=
  if opRuns s then (if s.op.abort then endOp 4 10 s else endJobWith e s)
  else if eraseStops s then opEnd 4 10 (tearJob s)
  else s

/-- LONG_OP_BOUND_EXPIRY (R177): an operation at its bound ends as failed; a flash job posts its record (R327). REPLAY_RUN
has no bound. -/
def effLongOpBoundExpiry (s : State) : State :=
  if opRuns s then
    match s.op.job with
    | .replay _ => s
    | .flash addr _ _ _ _ last => endOp 3 9 (postFlash addr 0 last 512 s)
    | _ => endOp 3 9 s
  else s

/-- SELF_TEST (R401): its start. -/
def effSelfTest (s : State) : State := opCmdRow 1 s
/-- ROLL_CALL (R207): its start. -/
def effRollCall (s : State) : State := opCmdRow 2 s
/-- AUTO_RATE (R292): its start. -/
def effAutoRate (s : State) : State := opCmdRow 3 s
/-- PROFILE_LOAD (R108): its start. -/
def effProfileLoad (s : State) : State := opCmdRow 5 s
/-- TRACE_DRAIN (R375): its start. -/
def effTraceDrain (s : State) : State := opCmdRow 6 s
/-- QUEUE_FLUSH (R257): its start. -/
def effQueueFlush (s : State) : State := opCmdRow 7 s
/-- KEYFRAME_NOW (R376): its start. -/
def effKeyframeNow (s : State) : State := opCmdRow 8 s
/-- REPLAY_RUN (R378): its start. -/
def effReplayRun (s : State) : State := opCmdRow 9 s
/-- FLASH_PROGRAM (R327): its start. -/
def effFlashProgram (s : State) : State := opCmdRow 0xA s
/-- ENDPOINT_PROBE (R206): its start. -/
def effEndpointProbe (s : State) : State := opCmdRow 0xB s
/-- OP_ABORT (R180): a write of 1 to OP_CMD.ABORT. -/
def effOpAbort (s : State) : State := opCmdRow 0x8000 s

/-- The meaning of SELF_TEST. -/
def execSelfTest (s : State) : Host.Outcome State Fault Refusal := .next (effSelfTest s)
/-- The meaning of ROLL_CALL. -/
def execRollCall (s : State) : Host.Outcome State Fault Refusal := .next (effRollCall s)
/-- The meaning of ROLL_CALL_PROBE. -/
def execRollCallProbe (out : ProbeOutcome) (t : HubTime) (s : State) : Host.Outcome State Fault Refusal :=
  .next (effRollCallProbe out t s)
/-- The meaning of AUTO_RATE. -/
def execAutoRate (s : State) : Host.Outcome State Fault Refusal := .next (effAutoRate s)
/-- The meaning of AUTO_RATE_VERIFY_START. -/
def execAutoRateVerifyStart (s : State) : Host.Outcome State Fault Refusal := .next (effAutoRateVerifyStart s)
/-- The meaning of PROFILE_LOAD. -/
def execProfileLoad (s : State) : Host.Outcome State Fault Refusal := .next (effProfileLoad s)
/-- The meaning of TRACE_DRAIN. -/
def execTraceDrain (s : State) : Host.Outcome State Fault Refusal := .next (effTraceDrain s)
/-- The meaning of DRAIN_SEGMENT_DONE. -/
def execDrainSegmentDone (flashError : Bool) (s : State) : Host.Outcome State Fault Refusal :=
  .next (effDrainSegmentDone flashError s)
/-- The meaning of QUEUE_FLUSH. -/
def execQueueFlush (s : State) : Host.Outcome State Fault Refusal := .next (effQueueFlush s)
/-- The meaning of KEYFRAME_NOW. -/
def execKeyframeNow (s : State) : Host.Outcome State Fault Refusal := .next (effKeyframeNow s)
/-- The meaning of REPLAY_RUN. -/
def execReplayRun (s : State) : Host.Outcome State Fault Refusal := .next (effReplayRun s)
/-- The meaning of FLASH_PROGRAM. -/
def execFlashProgram (s : State) : Host.Outcome State Fault Refusal := .next (effFlashProgram s)
/-- The meaning of FLASH_STATUS_POLL. -/
def execFlashStatusPoll (status : Byte) (s : State) : Host.Outcome State Fault Refusal := .next (effFlashStatusPoll status s)
/-- The meaning of ENDPOINT_PROBE. -/
def execEndpointProbe (s : State) : Host.Outcome State Fault Refusal := .next (effEndpointProbe s)
/-- The meaning of OP_ABORT. -/
def execOpAbort (s : State) : Host.Outcome State Fault Refusal := .next (effOpAbort s)
/-- The meaning of LONG_OP_END. -/
def execLongOpEnd (e : OpEnd) (s : State) : Host.Outcome State Fault Refusal := .next (effLongOpEnd e s)
/-- The meaning of LONG_OP_BOUND_EXPIRY. -/
def execLongOpBoundExpiry (s : State) : Host.Outcome State Fault Refusal := .next (effLongOpBoundExpiry s)

end Sys2Proof.Machine
end

