-- ==== Sys2Proof/Machine/PoolCare.lean ====
section
/-! DEFINITION. What the queue manager does by itself (chapter 11): waiting producers and their grants (R249), the end of
flushes and their abort after 1 ms (R256, R257), and what the scrub of the cells finds (R243, R258, R259). -/

namespace Sys2Proof.Machine

/-! ## Grants -/

/-- A waiting producer goes on: the drain and the loader make their reservations as they write, a profile switch opens its
item (R249). -/
def grantTo (w : Producer × Nat × Nat) (s : State) : State :=
  match w.1 with
  | .drain => runDrain s
  | .loader => runLoader s
  | who =>
    match reserve w.2.1 w.2.2 who 0 s with
    | none => s
    | some s1 => { s1 with pool := { s1.pool with waiting := dropFirst (fun v => v == w) s1.pool.waiting } }

/-- RESERVATION_GRANT (R249): the first producer that waits for cells of queue `q` and can have them is granted them. -/
def effReservationGrant (q : Fin 64) (s : State) : State :=
  match s.pool.waiting.find? (fun w => w.2.1 == q.val && canReserve q.val w.2.2 s) with
  | none => s
  | some w => if qmgrDropped s then s else grantTo w s

/-! ## Flushes -/

/-- The producer of an open item that the hub has ended loses its transaction (R256). -/
def abortProducer (q : Nat) (who : Producer) (s : State) : State :=
  match who with
  | .host => modQueue q (fun x => { x with doom := true }) s
  | .canTxHost ch => modQueue q (fun x => { x with doom := true }) (modCan ch (fun c => { c with txOpen := none }) s)
  | .canRx ch =>
    countRxDrop ch (modCan ch (fun c => { c with rx := c.rx.map (fun r => { r with item := .lost }) }) s)
  | .sport p => modSPort p.val (fun x => { x with ignore := true }) (abortFrame p.val s)
  | .drain => (match s.op.job with | .drain .. => if opRuns s then endOp 3 8 s else s | _ => s)
  | .staging => cancelSwitch s
  | .tap => s
  | .loader => s
  | .canHub _ => s
  | .call _ => s
  | .event => s

/-- One doomed open item of queue `q` is ended and counted (R256). -/
def abortDoomed (q : Nat) (who : Producer) (s : State) : State :=
  abortProducer q who (countFlushDrop (modQueue q (fun x =>
    let y := (x.unopen who).flushDropped
    { y with flush := y.flush.map (fun f => { f with aborted := true }) }) s))

/-- FLUSH_END (R256): every doomed item has closed or been abandoned. -/
def effFlushEnd (q : Fin 64) (s : State) : State := if (queueOf q.val s).flushDone then finishFlush q.val s else s

/-- FLUSH_ABORT_TIMEOUT (R256): 1 ms after the start of a flush every doomed item still open is ended. -/
def effFlushAbortTimeout (q : Fin 64) (s : State) : State :=
  let x := queueOf q.val s
  if x.flush.isSome then
    finishFlush q.val ((x.opens.filter (fun o => o.doomed)).foldl (fun s o => abortDoomed q.val o.who s) s)
  else s

/-! ## Memory errors -/

/-- The first uncorrectable 64-bit word of an item, with one more found. -/
def worse (bad : Option Nat) (word : Nat) : Option Nat := some (match bad with | some b => min b word | none => word)

/-- The first uncorrectable word of the item at a place, as far as it was known; `none` where there is no item. -/
def badAt (x : Queue) : PoolPlace → Option (Option Nat)
  | .committed i => (x.items[i]?).map (fun t => t.bad)
  | .reading => x.read.map (fun r => r.bad)
  | .opened i => (x.opens[i]?).map (fun o => o.bad)

/-- An uncorrectable word is noted at its item. -/
def Queue.poison (word : Nat) (place : PoolPlace) (x : Queue) : Queue :=
  match place with
  | .committed i => { x with items := modifyNth (fun t => { t with bad := worse t.bad word }) i x.items }
  | .reading => { x with read := x.read.map (fun r => { r with bad := worse r.bad word }) }
  | .opened i => { x with opens := modifyNth (fun o => { o with bad := worse o.bad word }) i x.opens }

/-- An uncorrectable word of cell `cell`, found by the scrub (R258): that of the item that holds the cell. -/
def scrubPoison (cell word : Nat) (s : State) : State :=
  match holderOf cell s with
  | none => s
  | some (q, place, k) =>
    let known := ((badAt (queueOf q s) place).getD none).isSome
    let s1 := modQueue q (Queue.poison (8 * k + word) place) s
    logFault 0x38 1 (125 + cell % 16) cell { s1 with pool := { s1.pool with
      unc := true
      poisoned := if known then s1.pool.poisoned else BitVec.ofNat 6 (satAdd 63 s1.pool.poisoned.toNat 1) } }

/-- The committed items ahead of the `i`-th in its list stay. A priority queue keeps one list per level (R243, R244), so
the items of the other levels stay too (R259; log entry 77). -/
def Queue.keepAhead (i : Nat) (x : Queue) : List Item :=
  match x.items[i]? with
  | some t => x.items.take i ++ (x.items.drop (i + 1)).filter (fun j => x.prio && j.prio != t.prio)
  | none => x.items

/-- A drain to flash discards whole the block that it holds (R259). -/
def dropHeldBlock (s0 : State) : State :=
  let s := modQueue 48 (fun x => { x with read := none }) s0
  match s.op.job with
  | .drain true addr blocks _ seg total done skip fz =>
    { s with op := { s.op with job := .drain true addr blocks [] seg total done skip fz } }
  | _ => s

/-- The item whose link entry is lost, and what is lost with it (R259). -/
def loseEntry (q : Nat) (place : PoolPlace) (entry : Nat) (s : State) : State :=
  match place with
  | .committed i => modQueue q (fun x => { x with items := x.keepAhead i }) s
  | .reading => if q = 48 then dropHeldBlock s else modQueue q (Queue.poison (8 * entry) .reading) s
  | .opened i =>
    match (queueOf q s).opens[i]? with
    | none => s
    | some o => abortProducer q o.who (modQueue q (Queue.unopen o.who) s)

/-- The link entry of cell `cell` with three differing copies (R259): fault 0x39, and the queue manager is dropped. -/
def linkFault (cell : Nat) (s : State) : State :=
  match holderOf cell s with
  | none => s
  | some (q, place, k) => dropUnit 19 0x39 (logFault 0x39 3 141 cell (loseEntry q place k s))

/-- One finding of the scrub. -/
def scrubOne (s : State) : PoolFinding → State
  | .corrected => countCorr s
  | .linkRepaired => { s with pool := { s.pool with link := true } }
  | .uncorrectable cell word => scrubPoison cell.val word.val s
  | .linkLost cell => linkFault cell.val s

/-- The accesses of the scrub: every held cell, at its bank (Table 11-4). -/
def scrubGrants (s : State) : List (Nat × Bool) :=
  (s.pool.queues.flatMap Queue.cells).flatMap (fun c => [(265, false), (246 + c % 16, false)])

/-- The queue manager works: the hub is powered and awake, and the unit has not failed. -/
def poolWorks (s : State) : Bool :=
  (s.power.boot == .running || s.power.boot == .answering) && (s.power.sleep == .awake || s.power.sleep == .quiescing)
    && !qmgrDropped s

/-- POOL_SCRUB (R243, R258, R259): the scrub of every held cell, with what it finds. -/
def effPoolScrub (found : List PoolFinding) (t : HubTime) (s0 : State) : State :=
  let s := advance t s0
  if poolWorks s then adapting (fun s => found.foldl scrubOne (grants (scrubGrants s) s)) s else s

/-- The meaning of RESERVATION_GRANT. -/
def execReservationGrant (q : Fin 64) (s : State) : Host.Outcome State Fault Refusal := .next (effReservationGrant q s)
/-- The meaning of FLUSH_END. -/
def execFlushEnd (q : Fin 64) (s : State) : Host.Outcome State Fault Refusal := .next (effFlushEnd q s)
/-- The meaning of FLUSH_ABORT_TIMEOUT. -/
def execFlushAbortTimeout (q : Fin 64) (s : State) : Host.Outcome State Fault Refusal := .next (effFlushAbortTimeout q s)
/-- The meaning of POOL_SCRUB. -/
def execPoolScrub (found : List PoolFinding) (t : HubTime) (s : State) : Host.Outcome State Fault Refusal :=
  .next (effPoolScrub found t s)

end Sys2Proof.Machine
end

