-- ==== Sys2Proof/Machine/Recovery.lean ====
section
/-! DEFINITION. Faults and recovery (chapter 17): liveness and hitch faults, island restarts and what they lose, unit and
kernel failures, the PLL, the supplies, and the limit on pin changes (R32). -/

namespace Sys2Proof.Machine

/-! ## Gaps of the trace (R371) -/

/-- What a loss covers since the last Gap record (R371). -/
def gapCount (loss : GapLoss) (s : State) : Nat := (if loss.input then loss.count else 0) + s.tap.lostBlocks

/-- GAP_RECORD (R371): a Gap record and a Time mark with AFTERGAP follow a loss, and the next keyframe falls due. -/
def effGapRecord (loss : GapLoss) (s : State) : State :=
  if s.tap.recording && (loss.input || 0 < s.tap.lostBlocks) then
    let s1 := recGap loss.input (0 < s.tap.lostBlocks) (gapCount loss s) loss.first loss.last s
    let s2 := recTime false false false true 0 { s1 with tap := { s1.tap with
      lostBlocks := 0, gap := true, gaps := BitVec.ofNat 16 (satAdd 0xFFFF s1.tap.gaps.toNat 1) } }
    keyframeDue (attend 13 s2)
  else s

/-- The inputs in flight are lost when a tap island restarts (Table 17-2). How many they were is free (log entry
109). -/
def restartTap (s : State) : State :=
  if s.tap.recording then
    effGapRecord ⟨true, (Config.freeWord s.tap.seed).toNat, s.time.now, s.time.now⟩ (tapDrawn s)
  else s

/-! ## Island restart -/

/-- The lane of a poll-engine island. -/
def laneOfIsland (island : Nat) : Option Nat := if 29 ≤ island ∧ island < 77 then some ((island - 29) / 3) else none

/-- A lane's island restarts: its run ends with LAST 5 (Table 17-2). -/
def restartLane (i : Nat) (s : State) : State :=
  if (laneOf i s).probe && (laneOf i s).wait != .free then endProbe i 5 (releasePorts i s) else cancelLane i 5 s

/-- A sample in the conditioning pipeline is discarded, and its run ends without a sample. -/
def discardSample (p : PendSample) (s : State) : State :=
  let a := epAddr p.ep + 0x34
  missRun p.ep p.due 5 (setStatWord a (statWord a s + 65535) s)

/-- The conditioning pipeline restarts. -/
def restartConditioning (s : State) : State :=
  let s1 := s.poll.pend.foldl (fun s p => discardSample p s) { s with poll := { s.poll with pend := [] } }
  resetCond (staleWindows s1)

/-- The express path restarts: events in flight are lost and counted (R254). -/
def restartExpress (s : State) : State :=
  let n := (s.poll.late.filter (fun l => l.passed)).length
  { s with poll := { s.poll with late := [] }, pool := { s.pool with lost := s.pool.lost + n } }

/-- A CAN channel restarts: the frame on the wire is abandoned, and integration begins, with TEC, REC and the buffered
frame kept. -/
def restartCan (ch : Chan) (s : State) : State :=
  if (canOf ch s).state = 0 then s
  else
    let c0 := canOf ch s
    let s1 := startCan ch (dropRxItem ch s)
    settleLead (modCan ch (fun c => { c with state := if c0.state = 3 then 3 else 1, keep := c0.state == 2 || c0.keep }) s1)

/-- An S port restarts: what is in progress fails as a bus fault, a flash job with it. -/
def restartS (p : Fin 4) (s : State) : State :=
  let s1 := cutS p.val 5 (tornEntry p s)
  if p.val = 0 then (if flashJob s1 then endOp 3 8 s1 else pumpS0 s1) else s1

/-- An I port restarts: what is in progress fails as a bus fault, and the BIDLE rule applies. -/
def restartI (p : Nat) (s : State) : State := cutI p 5 none s

/-- A SENT input restarts: a frame in progress fails (Table 17-2). -/
def restartT (p : Nat) (s : State) : State := if tWorks p s then sentDiscard p s else s

/-- The crypto unit restarts: a command being decided is rejected with RESULT 8. -/
def restartCrypto (s : State) : State :=
  match s.auth.pend with
  | none => s
  | some c => rejectCommand c (8, s)

/-- The tack store write path restarts: a running write job fails with FAIL_CODE 2, torn as R111 states. -/
def restartTack (s : State) : State :=
  match s.tack.job with
  | none => s
  | some j =>
    let s1 := tackFail 2 (tearJob s)
    if j.kind ≠ 3 ∧ s1.op.job = .commit then endOp 3 8 s1 else s1

/-- The effect of an island's restart on the work of its unit (Table 17-2). -/
def restartEffect (island : Nat) (s : State) : State :=
  match unitOf island with
  | 0 => restartCan .a s
  | 1 => restartCan .b s
  | 14 => restartConditioning s
  | 15 => restartExpress s
  | 16 => (match laneOfIsland island with | some i => restartLane i s | none => s)
  | 17 => { s with snap := { s.snap with recovering := true } }
  | 18 => if island = 9 then loseLock s else s
  | 20 => restartCrypto s
  | 21 => restartTack s
  | 23 => (match s.op.job with | .selfTest .. => if opRuns s then endOp 3 8 s else s | _ => s)
  | u =>
    if 2 ≤ u ∧ u < 6 then restartS ⟨(u - 2) % 4, by omega⟩ s
    else if 6 ≤ u ∧ u < 10 then restartI (u - 6) s
    else if 10 ≤ u ∧ u < 14 then restartT (u - 10) s
    else if u = 22 then restartTap s
    else s

/-- Islands that cannot be restarted (R392). A commit is one step here, so islands 111 and 112 are never met during one. -/
def noRestart (island : Nat) : Bool := island == 8 || (decide (141 ≤ island) && decide (island ≤ 148))

/-- The latest class R fault of unit `u` lies within 1 s (R394). -/
def secondFault (u : Nat) (s : State) : Bool :=
  s.fault.lastR.any (fun e => e.1 == u && decide ((hubNow s - e.2.2).toNat ≤ 16000000))

/-- The islands of unit `u` are not restarted any more. -/
def abandonRestarts (u : Nat) (s : State) : State :=
  { s with fault := { s.fault with restarting := s.fault.restarting.filter (fun i => unitOf i != u) } }

/-- Work that a failed unit loses (R75, R394). -/
def unitLoss (u : Nat) (s : State) : State :=
  if u = 14 then restartConditioning s
  else if u = 15 then restartExpress s
  else if u = 16 then stopRuns s
  else s

/-- A unit is given up (R394): fault 0x32 and what follows. -/
def giveUp (u island : Nat) (s : State) : State :=
  adapting (fun s => settleDropped (failUnit 0x32 u island (unitLoss u (abandonRestarts u s)))) s

/-- A kernel island has failed (R63, R395): all service ends, and no transition, decision or exit goes on (Table 04-13). -/
def kernelFault (island : Nat) (s : State) : State :=
  adapting (fun s =>
    let s1 := stopRuns (logFault 0x34 5 island island s)
    let s2 := cancelLanes (fun _ => true) 7 s1
    { s2 with
      power := { s2.power with boot := .dead, sleep := .awake }
      auth := { s2.auth with pend := none }
      time := { s2.time with nextBoundary := none, ended := none, epochOn := false }
      mode := { s2.mode with pend := false, hwCode := none, tgt := s2.mode.cur, farrierExit := false, effective := false }
      rein := { s2.rein with stall := none, slowPending := none } }) s

/-- Islands are watched: in every mode but Stabled, once the start checks have passed (R390). -/
def watched (s : State) : Bool := (s.power.boot == .running || s.power.boot == .answering) && s.mode.cur != .stabled

/-- A fault of class R on an island (R390 to R394). -/
def classR (code island detail : Nat) (s : State) : State :=
  let u := unitOf island
  if u = 26 then kernelFault island s
  else if unitFailed u s then s
  else if s.fault.restarting.contains island then logFault code 2 island detail s
  else if noRestart island || secondFault u s then giveUp u island s
  else
    adapting (fun s =>
      let s1 := logFault code 2 island detail s
      let s2 := { s1 with fault := { s1.fault with
        restarting := insertOnce island s1.fault.restarting
        lastR := (u, island, hubNow s1) :: s1.fault.lastR.filter (fun e => e.1 != u) } }
      restartEffect island s2) s

/-- LIVENESS_PROBE_TIMEOUT (R390): an island has not returned its probe within 20 µs. With the test unit failed only kernel
islands are probed. -/
def effLivenessProbeTimeout (island : Fin 264) (t : HubTime) (s0 : State) : State :=
  let s := advance t s0
  if watched s && (unitOf island.val == 26 || !unitFailed 23 s) then classR 0x30 island.val island.val s else s

/-- HITCH_TIMEOUT (R391): a handshake with `receiver` has not completed within 1 µs. -/
def effHitchTimeout (receiver sender : Fin 264) (t : HubTime) (s0 : State) : State :=
  let s := advance t s0
  if watched s then classR 0x31 receiver.val (receiver.val + 65536 * sender.val) s else s

/-- ISLAND_RESTART_DONE (R392): the island rejoins its unit. -/
def effIslandRestartDone (island : Fin 264) (s : State) : State :=
  if s.fault.restarting.contains island.val then
    let rest := s.fault.restarting.filter (fun i => i != island.val)
    dispatch { s with
      fault := { s.fault with restarting := rest }
      snap := { s.snap with recovering := rest.any (fun i => unitOf i == 17) } }
  else s

/-- LIVENESS_SWEEP (R390): a sweep of every island is complete. -/
def effLivenessSweep (s : State) : State :=
  if watched s && !unitFailed 23 s then { s with fault := { s.fault with sweeps := s.fault.sweeps + 1 } } else s

/-! ## The PLL -/

/-- The frames that S port `p` has aborted (ABORTS of its statistics). -/
def abortCount (p : Nat) (s : State) : Nat := statWord (portBlock (2 + p) + 0x382) s

/-- What S port `p` has on its wires is aborted by the loss of the clock: PSUM.CLK is set (R321). -/
def clockLostS (p : Nat) (s : State) : State :=
  let s1 := cutS p 5 s
  if abortCount p s1 = abortCount p s && !sInFrame p s then s1 else stickS p 14 s1

/-- A port's frame is aborted by the loss of its clock: PSUM.CLK is set (R321, R344, Table 15-3). -/
def clockLost (n : Nat) (s : State) : State :=
  if isSPort n then clockLostS (n - 2) s
  else if isIPort n then
    let p := n - 6
    let s1 := if laneTx n s || ptOnWire p s || (iportOf p s).hold then stickI p 14 (cutI p 5 none s) else s
    modIPort p (fun x => { x with idle := true }) s1
  else if isTPort n then
    (match (tportOf (n - 10) s).stage with
     | .frame ns => sentFail (n - 10) .clock ns s
     | _ => s)
  else dropRxItem (if n = 0 then .a else .b) s

/-- PLL_UNLOCK (R396): the timed islands stop, the ports abort, a pass-through frame on the wires too, and hub time goes on from the
crystal. No frame starts while the PLL is unlocked. -/
def effPllUnlock (s : State) : State :=
  if s.power.boot == .running && s.power.pllLocked then
    adapting (fun s =>
      let s1 := (List.range 4).foldl (fun s p => tornEntry ⟨p % 4, by omega⟩ s) s
      let s2 := (List.range 14).foldl (fun t n => clockLost n t)
        { s1 with power := { s1.power with pllLocked := false } }
      loseLock ((List.range 4).foldl (fun t p =>
        if abortCount p s1 = abortCount p s then t else stickS p 14 t) s2)) s
  else s

/-- PLL_RELOCK (R396): a relock within 100 µs; `lasted` is the duration of the unlock in ht. -/
def effPllRelock (lasted : Nat) (t : HubTime) (s0 : State) : State :=
  let s := advance t s0
  if s.power.boot == .running && !s.power.pllLocked && !s.power.clockLost && s.power.sleep != .sealed
      && s.power.sleep != .waking && decide (lasted ≤ 1600) then
    (List.range 8).foldl (fun s k => pumpPort (2 + k) s)
      (adapting (fun s => logFault 0x21 1 7 lasted { s with power := { s.power with pllLocked := true } }) s)
  else s

/-! ## Supplies -/

/-- VSUP_LOW (Table 17-1): fault 0x25. -/
def effVsupLow (t : HubTime) (s0 : State) : State :=
  let s := advance t s0
  if s.power.boot = .held then s else logFault 0x25 1 0xFFFF 0 s

/-- VSUP_LOW_END (Table 17-1): the fault, which does not assert FAULT_N, ends. -/
def effVsupLowEnd (s : State) : State := endFault 0x25 s

/-- Steps on the ports of a bank that is out of range fail as port unavailable (R397); a SENT frame is lost with its line. -/
def cutBank (b : Nat) (s : State) : State :=
  (List.range 14).foldl (fun s n =>
    if portBank n != b then s
    else if isSPort n then cutS (n - 2) 10 (tornEntry ⟨(n - 2) % 4, by omega⟩ s)
    else if isIPort n then
      (List.range 16).foldl (fun s i => if (laneOf i s).wait == .bus n then failAttempt i 10 s else s) (cutI (n - 6) 10 none s)
    else s) s

/-- No bank supply is checked: PWR_HOLD is low, or a wake has not come to its step 10 (R93, R397). -/
def suppliesUnchecked (s : State) : Bool := !s.power.pwrHold || s.power.sleep == .waking

/-- BANK_SUPPLY_LOW (R30, R397): the banks' drivers turn off and fault 0x24 is raised. With PWR_HOLD low and before step 10 of a
wake no fault is raised (R93); sealed with PWR_HOLD high one is (log entry 100). -/
def effBankSupplyLow (banks : BitVec 4) (t : HubTime) (s0 : State) : State :=
  let s := advance t s0
  let all := s.power.bankLow ||| banks
  if all = s.power.bankLow ∨ s.power.boot = .held then s
  else
    adapting (fun s =>
      let new := all ^^^ s.power.bankLow
      let low := { s with power := { s.power with bankLow := all } }
      let s1 := if suppliesUnchecked s then low else logFault 0x24 1 0xFFFF all.toNat low
      (List.range 4).foldl (fun s b => if new.getLsbD b then cutBank b s else s) s1) s

/-- BANK_SUPPLY_RETURN (R388, R397): every supply is back in range; the drivers return and the fault ends, in Stabled only
at the wake. -/
def effBankSupplyReturn (s : State) : State :=
  if s.power.bankLow = 0 then s
  else adapting (fun s =>
    let s1 := { s with power := { s.power with bankLow := 0 } }
    if s.power.sleep == .sealed || s.power.sleep == .waking then s1 else endFault 0x24 s1) s

/-! ## Pin changes -/

/-- PIN_QUIESCE_DONE (R31): the old function has reached its idle point. -/
def effPinQuiesceDone (i : Fin 59) (s : State) : State := if pinIdle i.val s then beginTransit i.val s else s

/-- PIN_ATTACH (R31): what works on the pin's port may begin (R353). -/
def effPinAttach (i : Fin 59) (s : State) : State := adapting (attachPin i.val) s

/-- PIN_QUIESCE_TIMEOUT (R32): 10 ms after the write the old function's transaction is aborted, and the transit starts. -/
def effPinQuiesceTimeout (i : Fin 59) (s : State) : State :=
  if (pinOf i.val s).phase == .quiesce then
    beginTransit i.val (match pinPort i.val s with
      | some n => abortPort n (if isSPort n then tornEntry ⟨(n - 2) % 4, by omega⟩ s else s)
      | none => s)
  else s

/-- The meaning of LIVENESS_PROBE_TIMEOUT. -/
def execLivenessProbeTimeout (island : Fin 264) (t : HubTime) (s : State) : Host.Outcome State Fault Refusal :=
  .next (effLivenessProbeTimeout island t s)
/-- The meaning of HITCH_TIMEOUT. -/
def execHitchTimeout (receiver sender : Fin 264) (t : HubTime) (s : State) : Host.Outcome State Fault Refusal :=
  .next (effHitchTimeout receiver sender t s)
/-- The meaning of ISLAND_RESTART_DONE. -/
def execIslandRestartDone (island : Fin 264) (s : State) : Host.Outcome State Fault Refusal :=
  .next (effIslandRestartDone island s)
/-- The meaning of LIVENESS_SWEEP. -/
def execLivenessSweep (s : State) : Host.Outcome State Fault Refusal := .next (effLivenessSweep s)
/-- The meaning of PLL_UNLOCK. -/
def execPllUnlock (s : State) : Host.Outcome State Fault Refusal := .next (effPllUnlock s)
/-- The meaning of PLL_RELOCK. -/
def execPllRelock (lasted : Nat) (t : HubTime) (s : State) : Host.Outcome State Fault Refusal :=
  .next (effPllRelock lasted t s)
/-- The meaning of VSUP_LOW. -/
def execVsupLow (t : HubTime) (s : State) : Host.Outcome State Fault Refusal := .next (effVsupLow t s)
/-- The meaning of VSUP_LOW_END. -/
def execVsupLowEnd (s : State) : Host.Outcome State Fault Refusal := .next (effVsupLowEnd s)
/-- The meaning of BANK_SUPPLY_LOW. -/
def execBankSupplyLow (banks : BitVec 4) (t : HubTime) (s : State) : Host.Outcome State Fault Refusal :=
  .next (effBankSupplyLow banks t s)
/-- The meaning of BANK_SUPPLY_RETURN. -/
def execBankSupplyReturn (s : State) : Host.Outcome State Fault Refusal := .next (effBankSupplyReturn s)
/-- The meaning of PIN_QUIESCE_DONE. -/
def execPinQuiesceDone (i : Fin 59) (s : State) : Host.Outcome State Fault Refusal := .next (effPinQuiesceDone i s)
/-- The meaning of PIN_ATTACH. -/
def execPinAttach (i : Fin 59) (s : State) : Host.Outcome State Fault Refusal := .next (effPinAttach i s)
/-- The meaning of PIN_QUIESCE_TIMEOUT. -/
def execPinQuiesceTimeout (i : Fin 59) (s : State) : Host.Outcome State Fault Refusal := .next (effPinQuiesceTimeout i s)

end Sys2Proof.Machine
end

