-- ==== Sys2Proof/Machine/Access.lean ====
section
/-! DEFINITION. The host's accesses (chapters 06 and 07): every direct register, the direct mirror and the extended
space, the Rein frame that carries them, and the commands of the Rein port and the register file. -/

namespace Sys2Proof.Machine

/-! ## Reads of direct registers -/

/-- A read without a side effect. -/
def shows (v : Word) (s : State) : Reply := answer v s

/-- FAULT_CODE (Table 07-7). -/
def faultCodeReg (s : State) : Word :=
  packWord [(s.fault.code.toNat, 0), (s.fault.count.toNat, 8), (bit (s.fault.active != 0), 15)]

/-- Bits 31 to 16 and 15 to 0 of a 32-bit value. -/
def highWord (v : Long) : Word := BitVec.ofNat 16 (v.toNat / 65536)
/-- Bits 15 to 0. -/
def lowWord (v : Long) : Word := BitVec.ofNat 16 v.toNat

/-- REIN_RPT, the window registers but WIN_DATA (Tables 06-5 to 06-9). -/
def readWindowReg (a : Nat) (s : State) : Word :=
  if a = 0x13 then s.rein.rptOld
  else if a = 0x14 then highWord s.rein.winAddr
  else if a = 0x15 then lowWord s.rein.winAddr
  else packWord [(bit s.rein.ainc, 0), (bit s.rein.werr, 8)]

/-- A read of SNAP_EPOCH_HI latches SNAP_EPOCH_LO (R152). -/
def readEpochHi (s : State) : Reply :=
  answer (highWord s.snap.epoch) { s with snap := { s.snap with epochLatch := lowWord s.snap.epoch } }

/-- A read of HT_HI latches HT_MID and HT_LO (R152). -/
def readHubTime (s : State) : Reply :=
  let t := (hubNow s).toNat
  answer (BitVec.ofNat 16 (t / 2 ^ 32)) { s with time := { s.time with
    midLatch := BitVec.ofNat 16 (t / 65536), loLatch := BitVec.ofNat 16 t } }

/-- A read of RPL_DIV_HI latches RPL_DIV_LO (R152). -/
def readDivHi (s : State) : Reply :=
  answer (highWord s.replay.divEpoch) { s with replay := { s.replay with divLatch := lowWord s.replay.divEpoch } }

/-- The registers of the kernel: system, modes, long operations, snapshots, authentication, profiles (0x00 to 0x2A). -/
def readKernelReg (a : Nat) (s : State) : Reply :=
  match a with
  | 0x00 => shows 0x0256 s
  | 0x01 => shows 0x0A01 s
  | 0x02 => shows (hubStat s) s
  | 0x03 => shows (attnSrc s) s
  | 0x04 => shows s.attn.mask s
  | 0x05 => shows s.mode.req s
  | 0x06 => shows (modeStat s) s
  | 0x07 => shows (faultCodeReg s) s
  | 0x08 => shows (opCmdRead s) s
  | 0x09 => shows (opStat (moveOp s)) (moveOp s)
  | 0x0A => shows s.op.arg0 s
  | 0x0B => shows s.op.arg1 s
  | 0x0C => shows s.op.arg2 s
  | 0x0D => shows s.op.arg3 s
  | 0x0E => shows s.op.newest.w0 s
  | 0x0F => shows s.op.newest.w1 s
  | 0x10 => shows s.op.newest.w2 s
  | 0x11 => shows s.op.newest.w3 s
  | 0x12 => shows (BitVec.ofNat 16 s.op.recs.length) s
  | 0x13 => shows (readWindowReg 0x13 s) s
  | 0x14 => shows (readWindowReg 0x14 s) s
  | 0x15 => shows (readWindowReg 0x15 s) s
  | 0x17 => shows (readWindowReg 0x17 s) s
  | 0x18 => shows (snapCtrl s) s
  | 0x19 => shows (snapStat s) s
  | 0x1A => readEpochHi s
  | 0x1B => shows s.snap.epochLatch s
  | 0x1C => shows (snapPin s) s
  | 0x1D => shows s.time.period s
  | 0x1E => shows (BitVec.ofNat 16 s.time.guard.toNat) s
  | 0x1F => shows s.snap.ageLimit s
  | 0x20 => shows s.auth.op s
  | 0x21 => shows (highWord s.auth.ctr) s
  | 0x22 => shows (lowWord s.auth.ctr) s
  | 0x23 => shows s.auth.tag0 s
  | 0x24 => shows s.auth.tag1 s
  | 0x25 => shows s.auth.tag2 s
  | 0x26 => shows s.auth.tag3 s
  | 0x27 => shows (authStat s) s
  | 0x28 => shows (profStat s) s
  | 0x29 => shows (profSel s) s
  | 0x2A => shows (tackStat s) s
  | _ => denied s

/-- The registers of CAN channel `ch`, register `r` (0 to 7) of its eight (Tables 12-7, 12-8). -/
def readCanReg (ch : Chan) (r : Nat) (stallOk : Bool) (s : State) : Reply :=
  match r with
  | 0 => shows (canCtrl ch s) s
  | 1 => shows (canStatus ch s) s
  | 2 => shows (canErrcnt ch s) s
  | 3 => shows (canOf ch s).evt s
  | 4 => readRxq ch 0 stallOk s
  | 5 => readRxq ch 1 stallOk s
  | 6 => shows (canRxInfo ch s) s
  | _ => shows (canOf ch s).txData s

/-- The queue manager's registers (Table 11-5). -/
def readQueueReg (a : Nat) (stallOk : Bool) (ecc : Ecc) (s : State) : Reply :=
  let q := selQueue s
  let x := queueOf q s
  match a with
  | 0x40 => shows (packWord [(q, 0), (s.pool.hpri.toNat, 8)]) s
  | 0x41 => shows (qmCfg q s) s
  | 0x42 => shows (BitVec.ofNat 16 x.rsv) s
  | 0x43 => shows (BitVec.ofNat 16 x.wm) s
  | 0x44 => shows (BitVec.ofNat 16 x.hyst) s
  | 0x45 => shows (BitVec.ofNat 16 x.level) s
  | 0x46 => shows (qmStat q s) s
  | 0x47 => shows (BitVec.ofNat 16 x.xcnt) s
  | 0x48 => readQueue q stallOk ecc s
  | 0x49 => shows s.pool.enqData s
  | 0x4A => shows (BitVec.ofNat 16 (bit (flushGo s))) s
  | 0x4B => shows s.pool.flushDrop s
  | 0x4C => shows s.pool.stallTmo s
  | 0x4D => shows (BitVec.ofNat 16 (freeCells s)) s
  | 0x4E => shows (qmEcc s) s
  | _ => shows (qmWmSum s) s

/-- TB_STAT (Table 10-8). -/
def tbStat (s : State) : Word :=
  packWord [(bit (hubClock s).run, 0), (bit (hubClock s).wrap, 1), (bit s.time.epstep, 2)]

/-- TAP_CTRL: ARM and FRZ act at once and read 0 (Table 16-3). -/
def tapCtrl (s : State) : Word :=
  packWord [(bit s.tap.en, 0), (bit s.tap.mode, 1), (bit s.tap.verd, 2), (bit s.tap.strm, 3)]

/-- TAP_STAT (Table 16-3). -/
def tapStat (s : State) : Word :=
  let x := s.tap
  packWord [(bit x.recording, 0), (bit x.armed, 1), (bit x.trigd, 2), (bit x.frozen, 3), (bit x.gap, 4), (bit x.kfmiss, 5),
    (bit x.kfbig, 6), (bit x.sovr, 7), (x.fcause.toNat, 8), (bit x.kfpend, 12)]

/-- RPL_CTRL: GO acts at once and reads 0 (Table 16-4). -/
def rplCtrl (s : State) : Word :=
  packWord [(bit s.replay.pause, 0), (bit s.replay.resync, 2), (bit s.replay.stopdiv, 3)]

/-- RPL_STAT (Table 16-4). -/
def rplStat (s : State) : Word :=
  let x := s.replay
  packWord [(x.lstate.toNat, 0), (bit x.paused, 3), (bit x.div, 4), (bit x.run, 5),
    ((if x.run then x.mode.code % 8 else 0), 6), (x.why.toNat, 9)]



/-- The port summaries, the time base, the tap, the replay, the event queue and the scratch words (0x50 to 0x7F). -/
def readOtherReg (a : Nat) (stallOk : Bool) (ecc : Ecc) (s : State) : Reply :=
  if a < 0x54 then shows (psumS (a - 0x50) s) s
  else if a < 0x58 then shows (psumI (a - 0x54) s) s
  else if a < 0x5C then shows (psumT (a - 0x58) s) s
  else if 0x78 ≤ a then shows (s.attn.scratch.getD (a - 0x78) 0) s
  else
    match a with
    | 0x5C => shows (psumAttn s) s
    | 0x60 => readHubTime s
    | 0x61 => shows s.time.midLatch s
    | 0x62 => shows s.time.loLatch s
    | 0x63 => shows (tbStat s) s
    | 0x64 => shows (BitVec.ofNat 16 s.boryel.ctrlNext.toNat) s
    | 0x65 => shows (byStat s) s
    | 0x66 => shows s.boryel.offset s
    | 0x67 => shows (BitVec.ofNat 16 s.boryel.nodeNext.toNat) s
    | 0x68 => shows (tapCtrl s) s
    | 0x69 => shows (tapStat s) s
    | 0x6A => shows s.tap.trig s
    | 0x6B => shows s.tap.gaps s
    | 0x6C => shows (rplCtrl s) s
    | 0x6D => shows (rplStat s) s
    | 0x6E => readDivHi s
    | 0x6F => shows s.replay.divLatch s
    | 0x70 => readQueue 56 stallOk ecc s
    | 0x71 => shows (evqInfo s) s
    | 0x72 => shows (BitVec.ofNat 16 (queueOf 56 s).items.length) s
    | 0x73 => shows (BitVec.ofNat 16 (bit s.pool.dropOld)) s
    | _ => denied s

/-- The dequeuing registers (R153). -/
def dequeues (a : Nat) : Bool := [0x34, 0x35, 0x3C, 0x3D, 0x48, 0x70].contains a

/-- A read of a direct register but WIN_DATA (Table 07-3, R138, R380a). -/
def readReg (a : Nat) (stallOk : Bool) (ecc : Ecc) (s : State) : Reply :=
  if s.replay.run && dequeues a then denied s
  else if a < 0x30 then readKernelReg a s
  else if a < 0x38 then readCanReg .a (a - 0x30) stallOk s
  else if a < 0x40 then readCanReg .b (a - 0x38) stallOk s
  else if a < 0x50 then readQueueReg a stallOk ecc s
  else readOtherReg a stallOk ecc s

/-! ## Writes of direct registers -/

/-- A write to a register with ro fields only (R7, R138). -/
def ignored (s : State) : Reply := wrote s

/-- A w1c word after a write. -/
def w1c (mask v old : Word) : Word := old &&& ~~~(v &&& mask)

/-- A write of WIN_ADDR_HI, WIN_ADDR_LO or WIN_CTRL (R135, Table 06-9). -/
def writeWindowReg (a : Nat) (v : Word) (s : State) : Reply :=
  let w := s.rein.winAddr.toNat
  if a = 0x14 then
    wrote { s with rein := { s.rein with winAddr := BitVec.ofNat 32 (v.toNat * 65536 + w % 65536) } }
  else if a = 0x15 then
    if v.getLsbD 0 then denied s
    else wrote { s with rein := { s.rein with winAddr := BitVec.ofNat 32 (w / 65536 * 65536 + v.toNat) } }
  else wrote { s with rein := { s.rein with ainc := v.getLsbD 0, werr := s.rein.werr && !v.getLsbD 8 } }

/-- A write of MODE_STAT: the w1c bits HWCH and REFUSED. -/
def modeStatWrite (v : Word) (s : State) : State :=
  { s with mode := { s.mode with hwch := s.mode.hwch && !v.getLsbD 9, refused := s.mode.refused && !v.getLsbD 10 } }

/-- A write of SNAP_STAT: the w1c bits NEW, SKIP and LATEDROP. -/
def snapStatWrite (v : Word) (s : State) : State :=
  { s with snap := { s.snap with
    new := s.snap.new && !v.getLsbD 0, skipSeen := s.snap.skipSeen && !v.getLsbD 6
    lateDrop := s.snap.lateDrop && !v.getLsbD 9 } }

/-- A write of TACK_STAT: the w1c bits CORR and UNC. -/
def tackStatWrite (v : Word) (s : State) : State :=
  { s with tack := { s.tack with corr := s.tack.corr && !v.getLsbD 3, unc := s.tack.unc && !v.getLsbD 4 } }

/-- A write to the registers 0x00 to 0x2A. -/
def writeKernelReg (a : Nat) (v : Word) (s : State) : Reply :=
  match a with
  | 0x03 => wrote { s with attn := { s.attn with src := w1c 0xFDF7 v s.attn.src } }
  | 0x04 => wrote { s with attn := { s.attn with mask := v } }
  | 0x05 => modeReqWrite v s
  | 0x06 => wrote (modeStatWrite v s)
  | 0x07 => wrote { s with fault := { s.fault with count := BitVec.ofNat 6 (v.toNat / 256) } }
  | 0x08 => opCmdWrite v s
  | 0x0A => wrote { s with op := { s.op with arg0 := v } }
  | 0x0B => wrote { s with op := { s.op with arg1 := v } }
  | 0x0C => wrote { s with op := { s.op with arg2 := v } }
  | 0x0D => wrote { s with op := { s.op with arg3 := v } }
  | 0x14 => writeWindowReg 0x14 v s
  | 0x15 => writeWindowReg 0x15 v s
  | 0x17 => writeWindowReg 0x17 v s
  | 0x18 => wrote (grant 164 false { s with snap := { s.snap with
      xoff := v.getLsbD 0, nocrc := v.getLsbD 1, droplate := v.getLsbD 2 } })
  | 0x19 => wrote (snapStatWrite v s)
  | 0x1C => snapPinWrite v s
  | 0x1D => if v.toNat < 25 then denied s else wrote { s with time := { s.time with period := v } }
  | 0x1E => wrote (grant 165 true { s with time := { s.time with guard := BitVec.ofNat 8 v.toNat } })
  | 0x1F => wrote { s with snap := { s.snap with ageLimit := v } }
  | 0x20 => authOpWrite none v s
  | 0x21 => wrote { s with auth := { s.auth with ctr := BitVec.ofNat 32 (v.toNat * 65536 + s.auth.ctr.toNat % 65536) } }
  | 0x22 => wrote { s with auth := { s.auth with ctr := BitVec.ofNat 32 (s.auth.ctr.toNat / 65536 * 65536 + v.toNat) } }
  | 0x23 => wrote { s with auth := { s.auth with tag0 := v } }
  | 0x24 => wrote { s with auth := { s.auth with tag1 := v } }
  | 0x25 => wrote { s with auth := { s.auth with tag2 := v } }
  | 0x26 => wrote { s with auth := { s.auth with tag3 := v } }
  | 0x27 => wrote { s with auth := { s.auth with rej := s.auth.rej && !v.getLsbD 4 } }
  | 0x29 => wrote { s with tack := { s.tack with swFail := s.tack.swFail && !v.getLsbD 4 } }
  | 0x2A => wrote (tackStatWrite v s)
  | _ => if a < 0x2B then ignored s else denied s

/-- A write to the registers of CAN channel `ch`. -/
def writeCanReg (ch : Chan) (r : Nat) (v : Word) (s : State) : Reply :=
  match r with
  | 0 => canCtrlWrite ch v s
  | 3 => wrote (modCan ch (fun c => { c with evt := w1c 0x07FF v c.evt }) s)
  | 7 => txdataWrite ch v s
  | _ => ignored s

/-- A write to the queue manager's registers. -/
def writeQueueReg (a : Nat) (v : Word) (s : State) : Reply :=
  let q := selQueue s
  match a with
  | 0x40 => qmSelWrite v s
  | 0x41 => qmCfgWrite v s
  | 0x42 => qmRsvWrite v s
  | 0x43 => wrote (modQueue q (fun x => { x with wm := field v.toNat 0 12 }) s)
  | 0x44 => wrote (modQueue q (fun x => { x with hyst := field v.toNat 0 8 }) s)
  | 0x46 => qmStatWrite v s
  | 0x47 => wrote (modQueue q (fun x => { x with xcnt := field v.toNat 0 8 }) s)
  | 0x49 => enqWrite v s
  | 0x4A => if v.getLsbD 0 then flushWrite s else wrote s
  | 0x4B => wrote { s with pool := { s.pool with flushDrop := v } }
  | 0x4C => wrote { s with pool := { s.pool with stallTmo := v } }
  | 0x4E => wrote (qmEccWrite v s)
  | _ => ignored s

/-- ARM (R373): FROZEN clears, and the freeze ring is armed in freeze mode. -/
def tapArmNow (s : State) : State := { s with tap := { s.tap with frozen := false, armed := s.tap.armed || s.tap.mode } }

/-- A write of TAP_CTRL (R372, R373, R164): ARM before FRZ. The commands of a dropped tap start nothing. -/
def tapCtrlWrite (v : Word) (s0 : State) : Reply :=
  let s := { s0 with tap := { s0.tap with
    en := v.getLsbD 0, mode := v.getLsbD 1, verd := v.getLsbD 2, strm := v.getLsbD 3 } }
  if unitFailed 22 s && (v.getLsbD 4 || v.getLsbD 5) then ⟨0, true, s⟩
  else
    let s1 := if v.getLsbD 4 then tapArmNow s else s
    wrote (if v.getLsbD 5 then freeze 1 s1 else s1)

/-- A write of TAP_STAT: the w1c bits GAP, KFMISS, KFBIG and SOVR. -/
def tapStatWrite (v : Word) (s : State) : State :=
  { s with tap := { s.tap with
    gap := s.tap.gap && !v.getLsbD 4, kfmiss := s.tap.kfmiss && !v.getLsbD 5
    kfbig := s.tap.kfbig && !v.getLsbD 6, sovr := s.tap.sovr && !v.getLsbD 7 } }

/-- A write of RPL_CTRL (R384, R164): GO resumes a paused replay. -/
def rplCtrlWrite (v : Word) (s0 : State) : Reply :=
  let s := { s0 with replay := { s0.replay with pause := v.getLsbD 0, resync := v.getLsbD 2, stopdiv := v.getLsbD 3 } }
  if v.getLsbD 1 then
    if unitFailed 22 s then ⟨0, true, s⟩ else wrote { s with replay := { s.replay with paused := false } }
  else wrote s

/-- A write of TB_STAT: the w1c bits WRAP and EPSTEP. -/
def tbStatWrite (v : Word) (s : State) : State :=
  { s with time := { s.time with wrap := s.time.wrap && !v.getLsbD 1, epstep := s.time.epstep && !v.getLsbD 2 } }

/-- A write of BY_STAT: the w1c bits GAIN, LOSS, STEP and CONFL. -/
def byStatWrite (v : Word) (s : State) : State :=
  { s with boryel := { s.boryel with
    gain := s.boryel.gain && !v.getLsbD 2, loss := s.boryel.loss && !v.getLsbD 3
    step := s.boryel.step && !v.getLsbD 4, confl := s.boryel.confl && !v.getLsbD 5 } }

/-- A write to the registers 0x50 to 0x7F. -/
def writeOtherReg (a : Nat) (v : Word) (s : State) : Reply :=
  if a < 0x54 then wrote (modSPort (a - 0x50) (fun x => { x with sticky := w1c 0x7F00 v x.sticky }) s)
  else if a < 0x58 then wrote (modIPort (a - 0x54) (fun x => { x with sticky := w1c 0x7F00 v x.sticky }) s)
  else if a < 0x5C then wrote (modTPort (a - 0x58) (fun x => { x with sticky := w1c 0x7F00 v x.sticky }) s)
  else if 0x78 ≤ a then wrote { s with attn := { s.attn with scratch := s.attn.scratch.set (a - 0x78) v } }
  else
    match a with
    | 0x63 => wrote (tbStatWrite v s)
    | 0x64 => wrote (byCtrlWrite v s)
    | 0x65 => wrote (byStatWrite v s)
    | 0x67 => wrote { s with boryel := { s.boryel with nodeNext := BitVec.ofNat 7 v.toNat } }
    | 0x68 => tapCtrlWrite v s
    | 0x69 => wrote (tapStatWrite v s)
    | 0x6A => wrote { s with tap := { s.tap with trig := v &&& 0xFF7F } }
    | 0x6B => wrote { s with tap := { s.tap with gaps := v } }
    | 0x6C => rplCtrlWrite v s
    | 0x6D => wrote { s with replay := { s.replay with div := s.replay.div && !v.getLsbD 4 } }
    | 0x73 => wrote { s with pool := { s.pool with dropOld := v.getLsbD 0 } }
    | _ =>
      if a = 0x5C ∨ (0x60 ≤ a ∧ a < 0x74) then ignored s else denied s

/-- A write of a direct register but WIN_DATA (Table 07-3, R7 to R9, R138). -/
def writeReg (a : Nat) (v : Word) (s : State) : Reply :=
  if a < 0x30 then writeKernelReg a v s
  else if a < 0x38 then writeCanReg .a (a - 0x30) v s
  else if a < 0x40 then writeCanReg .b (a - 0x38) v s
  else if a < 0x50 then writeQueueReg a v s
  else writeOtherReg a v s

/-- A write of a direct register by the present host: while REPLAY_RUN runs most are refused (R380a). -/
def hostWriteReg (a : Nat) (v : Word) (s : State) : Reply :=
  if s.replay.run && !replayAllows a v then refusedInReplay a v s else writeReg a v (hostAt (groupPoint a) s)

/-! ## The mode and power block (Table 04-12) -/

/-- A word of the mode and power block. -/
def mpRead (o : Nat) (s : State) : Word :=
  let p := s.power
  match o with
  | 0x00 => packWord [(p.rstCause.toNat, 0), (p.psel.toNat, 8)]
  | 0x02 => p.pwr
  | 0x04 => packWord [(p.walkEps.toNat, 0), (bit p.clip, 3)]
  | 0x06 => p.wakeCfg
  | 0x08 => p.wakeTgt
  | 0x0A => p.wakeCause
  | 0x0C => BitVec.ofNat 16 p.aotUnit.toNat
  | 0x0E => p.aotCnt
  | 0x10 => p.lrDrop0
  | 0x12 => p.lrDrop1
  | 0x14 => p.stbDrop
  | _ => 0

/-- A word of 2-bit fields in which the code 3 is reserved: the fields at the places `los` that were given it keep their
value (R9). -/
def keepThrees (old : Nat) : List Nat → Nat × Bool → Nat × Bool
  | [], acc => acc
  | lo :: los, acc =>
    keepThrees old los (if field acc.1 lo 2 = 3 then (acc.1 - 3 * 2 ^ lo + field old lo 2 * 2 ^ lo, true) else acc)

/-- A write to the mode and power block. -/
def mpWrite (o : Nat) (v : Word) (s : State) : Reply :=
  let p := s.power
  let n := v.toNat
  match o with
  | 0x00 => wrote { s with power := { p with rstCause := p.rstCause &&& ~~~ BitVec.ofNat 5 n } }
  | 0x02 => wrote { s with power := { p with pwr := v } }
  | 0x04 => wrote { s with power := { p with walkEps := BitVec.ofNat 3 n } }
  | 0x06 =>
    let r := keepThrees p.wakeCfg.toNat [0, 2] (n % 4096, false)
    ⟨0, r.2, { s with power := { p with wakeCfg := BitVec.ofNat 16 r.1 } }⟩
  | 0x08 =>
    let r := keepThrees p.wakeTgt.toNat [0, 2, 4, 6, 8] (n % 1024, false)
    ⟨0, r.2, { s with power := { p with wakeTgt := BitVec.ofNat 16 r.1 } }⟩
  | 0x0A => wrote { s with power := { p with wakeCause := w1c 0x007F v p.wakeCause } }
  | 0x0C => wrote { s with power := { p with aotUnit := BitVec.ofNat 2 n } }
  | 0x0E => if n = 0 then denied s else wrote { s with power := { p with aotCnt := v } }
  | 0x14 => wrote { s with power := { p with stbDrop := v } }
  | _ => ignored s

/-! ## The fault record and the result window -/

/-- How many faults that assert FAULT_N are active. -/
def activeFaults (s : State) : Nat := ((List.range 64).filter (fun i => s.fault.active.getLsbD i)).length

/-- The 16 bytes of a fault log entry (Table 17-4). -/
def entryBytes (e : FaultEntry) : List Byte :=
  [e.code, e.flags] ++ leBytes 2 e.island.toNat ++ leBytes 6 e.ht.toNat ++ leBytes 4 e.detail.toNat ++ leBytes 2 e.epoch.toNat

/-- The fault record region (Table 17-4). -/
def faultRecord (s : State) : List Byte :=
  let f := s.fault
  leBytes 2 f.total.toNat ++ [BitVec.ofNat 8 f.next, BitVec.ofNat 8 (activeFaults s)] ++ leBytes 8 f.active.toNat
    ++ leBytes 4 f.sweeps.toNat ++ f.log.flatMap entryBytes

/-- The word at offset `o` of a byte string. -/
def wordAt (bs : List Byte) (o : Nat) : Word := BitVec.ofNat 16 ((bs.getD o 0).toNat + 256 * (bs.getD (o + 1) 0).toNat)

/-- The result window (R179): a record's words, 0 at and above the count, and the authentication status block. -/
def resultWord (o : Nat) (s : State) : Word :=
  if 0x1F00 ≤ o then authBlock (o - 0x1F00) s
  else
    match s.op.recs[o / 8]? with
    | none => 0
    | some r => if o % 8 = 0 then r.w0 else if o % 8 = 2 then r.w1 else if o % 8 = 4 then r.w2 else r.w3

/-! ## The configuration ranges (Table 05-3) -/

/-- An I port's PT_CTL. -/
def isPtCtl (w : Nat) : Bool := decide (0x3800 ≤ w) && decide (w < 0x4800) && w % 0x400 == 0x20

/-- A word of the ranges of Table 05-3: the user configuration and the status fields (R161, R162, R184). -/
def cfgRead (w : Nat) (s : State) : Word :=
  if w = 0x1210 then packWord [(s.power.freq.toNat, 0), (bit s.power.freqBad, 3), (bit s.power.pllLocked, 4)]
  else if w = 0x2A00 then wctrlRead s
  else if isPtCtl w then BitVec.ofNat 16 (cfgWord s.cfg.user w + bit (iportOf ((w - 0x3800) / 0x400) s).ptRun)
  else if isStatus w then BitVec.ofNat 16 (statWord w s)
  else BitVec.ofNat 16 (cfgWord s.cfg.user w)

/-- A write to a settings word of a select clears the select's SSTAT (R329). -/
def clearSstat (w : Nat) (s : State) : State :=
  let o := w % 0x400
  if 0x2800 ≤ w ∧ w < 0x3800 ∧ 0x40 ≤ o ∧ o < (if w < 0x2C00 then 0x80 else 0xC0) ∧ o % 16 < 8 then
    setStatWord (w / 16 * 16 + 8) 0 s
  else s

/-- The verdict points at which a write of a port's settings is ordered against their use: an S port's PCFG and select blocks and
the flash settings (Table 13-9), an I port's PCFG, timing and CCFG (Table 14-3), a CAN channel's filter pairs (Table 12-6). -/
def cfgPoints (w : Nat) : List (Nat × Bool) :=
  let o := w % 0x400
  if 0x2000 ≤ w ∧ w < 0x2800 then
    let ch : Chan := if w < 0x2400 then .a else .b
    if 0x80 ≤ o ∧ o < 0x380 then [(canPoint ch + 5, false)] else []
  else if 0x2800 ≤ w ∧ w < 0x3800 then
    let p := (w - 0x2800) / 0x400
    if w = 0x2A0A then [(317, false)]
    else if 0x2A00 ≤ w ∧ w < 0x2A0A then [(315, false)]
    else if o < 2 then [(sPoint p + (if p = 0 then 3 else 1), true)]
    else if 0x40 ≤ o ∧ o < (if p = 0 then 0x80 else 0xC0) then [(sPoint p + (if p = 0 then 4 else 2) + (o - 0x40) / 16, true)]
    else []
  else if 0x3800 ≤ w ∧ w < 0x4800 then
    let p := (w - 0x3800) / 0x400
    if o < 2 then [(iPoint p + 7, false)]
    else if o < 0x14 then [(iPoint p + 5, false)]
    else if 0x1C ≤ o ∧ o < 0x1E then [(iPoint p + 4, true)]
    else []
  else []

/-- A write to the ranges of Table 05-3 (R8, R9, R325, R329). A running commit has come on, by as much as is free, before it (R110). -/
def cfgWrite (w : Nat) (v : Word) (s0 : State) : Reply :=
  let s := grants (cfgPoints w) (moveCommit 0 s0)
  if w = 0x2A00 then wctrlWrite v s
  else if isPtCtl w then ptCtlWrite ((w - 0x3800) / 0x400) v s
  else
    let r := writeCfg s.cfg.user w v.toNat
    let s1 := adapting (fun s => { s with cfg := { s.cfg with user := r.1 } }) s
    let s2 := if 0x2A02 ≤ w ∧ w < 0x2A0C then invalidateCache s1 else s1
    ⟨0, r.2, clearSstat w s2⟩

/-! ## The raw cell pool (R263) -/



/-- The byte of an item at a place, changed. -/
def Queue.setPlace (place : PoolPlace) (b : Nat) (v : Byte) (x : Queue) : Queue :=
  match place with
  | .committed i => { x with items := modifyNth (fun t => { t with bytes := t.bytes.set b v }) i x.items }
  | .reading => { x with read := x.read.map (fun r => { r with words := wordsOf ((bytesOf r.words).set b v) }) }
  | .opened i => { x with opens := modifyNth (fun o => { o with bytes := o.bytes.set b v }) i x.opens }

/-- A byte of the pool RAM (R263): byte `o % 64` of cell `o / 64`. -/
def rawByte (o : Nat) (s : State) : Byte := Memory.read (poolDflt s.pool.era) s.pool.ram o

/-- The item that holds a cell takes the byte at `b` of the cell, where its payload reaches that far. -/
def setItemByte (o : Nat) (v : Byte) (s : State) : State :=
  match holderOf (o / 64) s with
  | some (q, place, k) => modQueue q (Queue.setPlace place (64 * k + o % 64) v) s
  | none => s

/-- A byte written through the raw pool: it is in the RAM, and in the item whose cell that is. -/
def rawSet (o : Nat) (v : Byte) (s0 : State) : State :=
  let s := setItemByte o v s0
  { s with pool := { s.pool with ram := Memory.write (poolDflt s.pool.era) s.pool.ram o v } }

/-- A word of the raw pool. -/
def rawWord (o : Nat) (s : State) : Word := BitVec.ofNat 16 ((rawByte o s).toNat + 256 * (rawByte (o + 1) s).toNat)

/-- The cell's bank is accessed (Table 11-4). -/
def rawAccess (b : Bool) (o : Nat) (s : State) : State := grants (bankGrants b [o / 64]) s

/-- An uncorrectable word is found in the raw pool (R258): it poisons the item that holds its cell. -/
def rawPoison (o : Nat) (s : State) : State :=
  let s1 := scrubPoison (o / 64) (o % 64 / 8) s
  { s1 with pool := { s1.pool with unc := true } }

/-- A raw-pool read (R258, R263). -/
def rawRead (o : Nat) (ecc : Ecc) (s0 : State) : Reply :=
  let s := rawAccess false o s0
  match ecc with
  | .uncorrectable => denied (rawPoison o s)
  | .corrected => shows (rawWord o s) (countCorr s)
  | .ok => shows (rawWord o s) s

/-- A raw-pool write. -/
def rawWrite (o : Nat) (v : Word) (s0 : State) : Reply :=
  let s := rawAccess true o s0
  wrote (rawSet (o + 1) (BitVec.ofNat 8 (v.toNat / 256)) (rawSet o (BitVec.ofNat 8 v.toNat) s))

/-! ## Window reads -/

/-- A read of bank `b` (R231, R398): an uncorrectable word reads 0x0000 with ADRE, and fault 0x3C is raised. -/
def bankRead (b o : Nat) (ecc : Ecc) (s : State) : Reply :=
  match bankWord b o s with
  | none => denied s
  | some v =>
    match ecc with
    | .uncorrectable => denied (logFault 0x3C 1 0xFFFF (b * 2 ^ 28 + eccWord o) s)
    | _ => shows v s

/-- A read of the ranges of Table 05-3. What one of an uncorrectable word returns is not stated (R398). -/
def cfgRegion (w : Nat) (ecc : Ecc) (s : State) : Reply :=
  match ecc with
  | .uncorrectable =>
    if isStatus w || w == 0x1210 then shows (cfgRead w s) s else answer (Config.freeWord s.seed) (userUncorrectable w (drawn s))
  | _ => shows (cfgRead w s) s

/-- A read of the execute window (R161, R323): a hit is ready at once, a miss waits for its fill, and one that cannot be
fetched is refused. With WEN = 0 the region is refused. -/
def windowRead (w : Nat) (s : State) : Reply :=
  match readCached (w - 0x10000000) s with
  | some p => if nbit (runWord 0x2A00 s) 0 then answer p.1 (countWord 0x2B8A p.2) else denied s
  | none =>
    if windowFetches s then
      answer 0 (startFill (countWord 0x2B8C { s with rein := { s.rein with slowPending := some (BitVec.ofNat 32 w) } }))
    else denied (stickS 0 13 s)

/-- Which regions are readable now (R161, R164, R431). The register file's own are served always, the fault record and the
tack store from the first frame on. Between the steps 8 and 10 of a wake, where CUR still reads Stabled and Table 07-8 has no
column, reads are served like those of the other modes, and writes to the ranges of Table 05-3 are refused (DESIGN CHOICE, log
entry 102). -/
def winReadable (w : Nat) (s : State) : Bool :=
  if (0x1400 ≤ w ∧ w < 0x1500) ∨ (0x100000 ≤ w ∧ w < 0x120000) then true
  else if s.power.boot != .running || kernelOnly s || regionDropped w s then false
  else if 0x40000 ≤ w ∧ w < 0x80000 then s.mode.cur == .farrier
  else true

/-- A read of an address above the register file's own blocks that is readable. -/
def readRegion (w : Nat) (ecc : Ecc) (s : State) : Reply :=
  if 0x1400 ≤ w ∧ w < 0x1500 then shows (wordAt (faultRecord s) (w - 0x1400)) s
  else if inProfileRange w 2 then cfgRegion w ecc s
  else if 0x6000 ≤ w ∧ w < 0x8000 then shows (resultWord (w - 0x6000) s) s
  else if 0x20000 ≤ w ∧ w < 0x26600 then bankRead ((w - 0x20000) / 0x2200 + 1) ((w - 0x20000) % 0x2200) ecc s
  else if 0x28000 ≤ w ∧ w < 0x2A200 then bankRead (pinnedBank s) (w - 0x28000) ecc s
  else if 0x40000 ≤ w ∧ w < 0x80000 then rawRead (w - 0x40000) ecc s
  else if 0x100000 ≤ w ∧ w < 0x120000 then
    answer 0 { s with rein := { s.rein with slowPending := some (BitVec.ofNat 32 w) } }
  else if 0x10000000 ≤ w ∧ w < 0x11000000 then windowRead w s
  else denied s

/-- A read of PM_PIN; a floating pin's level is drawn (R303). -/
def pinRead (i : Nat) (s : State) : Reply := answer (pmPinRead i s) (if pinFloats i s then drawn s else s)

/-- A window read at address `w` (R136, R137, R154, R160). -/
def winReadAt (w : Nat) (ecc : Ecc) (s : State) : Reply :=
  if w < 0x100 then
    if 0x26 ≤ w ∧ w < 0x30 then denied s else readReg (w / 2) false ecc s
  else if w < 0x1000 then denied s
  else if w < 0x1100 then shows (mpRead (w - 0x1000) s) s
  else if w < 0x1180 then (if w < 0x1176 then pinRead ((w - 0x1100) / 2) s else shows 0 s)
  else if w < 0x1200 then shows (pinCtrlRead (w - 0x1180) s) s
  else if winReadable w s then readRegion w ecc s
  else denied s

/-- A read of WIN_DATA at the window address (R136). -/
def winDataRead (ecc : Ecc) (s : State) : Reply := winDone s.rein.winAddr.toNat (winReadAt s.rein.winAddr.toNat ecc s)

/-- A good read of a direct register by the host. -/
def hostRead (a : Nat) (stallOk : Bool) (ecc : Ecc) (s : State) : State :=
  intoReply (if a = 0x16 then winDataRead ecc (hostAt (20 :: windowPoint s.rein.winAddr.toNat) s)
    else readReg a stallOk ecc (hostAt (groupPoint a) s))

/-! ## Window writes -/

/-- A write of the host at window address `w` through WIN_DATA (R136, R137, R154, R160 to R164). -/
def winWriteAt (w : Nat) (v : Word) (s : State) : Reply :=
  if s.replay.run then denied s
  else if w < 0x100 then
    if 0x26 ≤ w ∧ w < 0x30 then denied s
    else if w / 2 = 0x20 then authOpWrite (some w) v s
    else writeReg (w / 2) v s
  else if !winWritable w s then denied s
  else if w < 0x1100 then mpWrite (w - 0x1000) v s
  else if w < 0x1180 then (if w < 0x1176 then pmPinWrite ((w - 0x1100) / 2) v s else ignored s)
  else if w < 0x1200 then pinCtrlWrite (w - 0x1180) v s
  else if w < 0x40000 then cfgWrite w v s
  else rawWrite (w - 0x40000) v s

/-- A good write of WIN_DATA by the host (R136, R142). -/
def hostWinWrite (v : Word) (s : State) : State :=
  let w := s.rein.winAddr.toNat
  let r := winDone w (winWriteAt w v (hostAt (20 :: windowPoint w) s))
  if decide (w < 0x100) && unrecorded (w / 2) r then writeReply v r else goodWinWrite w v r

/-- A good write of a direct register by the host. -/
def hostWrite (a : Nat) (v : Word) (s : State) : State :=
  if a = 0x16 then hostWinWrite v s
  else
    let r := hostWriteReg a v s
    if unrecorded a r then writeReply v r else goodWrite a v r

/-! ## The Rein frame -/

/-- The busy pattern (R131). -/
def busyPattern : List Byte := [0xC3, 0x3C, 0xC3, 0x3C, 0xC3]

/-- A genuine reply (Table 06-2). -/
def genuineReply (s : State) : List Byte :=
  let r := s.rein
  let bs := [statusSummary s, BitVec.ofNat 8 (r.res.toNat / 256), BitVec.ofNat 8 r.res.toNat,
    BitVec.ofNat 8 (16 * r.dalv.toNat + 8 * bit r.crce + 4 * bit r.alve + 2 * bit r.adre + bit r.lene)]
  bs ++ [crc8 bs]

/-- REIN_SDO stays undriven: reset is held, the hub is sealed, or bank A has no supply (R140, R141). -/
def reinSilent (s : State) : Bool := s.power.boot == .held || s.power.sleep == .sealed || bankOut 0 s

/-- The busy pattern is sent in place of a reply (R131). -/
def reinBusy (gap : CsGap) (s : State) : Bool :=
  s.power.boot == .starting || s.power.boot == .dead || s.rein.slowPending.isSome || s.rein.stall.isSome
    || (match gap with | .normal => false | .short => true | .between b => b)

/-- What REIN_SDO carries of five bytes while `edges` SCK edges come, as bytes: low after the 40th bit, and in a shorter frame only
the bits that were clocked, with zeros after them (R121). -/
def sentBytes (edges : Nat) (bs : List Byte) : List Byte :=
  if edges = 40 then bs
  else (List.range ((edges + 7) / 8)).map (fun k =>
    let n := 8 - min 8 (edges - 8 * k)
    BitVec.ofNat 8 ((bs.getD k 0).toNat / 2 ^ n * 2 ^ n))

/-- A genuine reply goes out: DALV moves on, and each flag has been shown once (R126, R127). -/
def sendReply (edges : Nat) (s : State) : State :=
  { s with rein := { s.rein with
    miso := some (sentBytes edges (genuineReply s)), dalv := s.rein.dalv + 1, rptOld := s.rein.rptNew, rptNew := s.rein.res
    crce := false, alve := false, adre := false, lene := false } }

/-- A frame whose length, CRC and ALV are good takes effect (R122, R128, R139). -/
def goodFrame (bytes : List Byte) (ecc : Ecc) (s : State) : State :=
  let b0 := (bytes.getD 0 0).toNat
  let a := b0 % 128
  if b0 < 128 then hostRead a ((bytes.getD 3 0).getLsbD 3) ecc s
  else hostWrite a (BitVec.ofNat 16 ((bytes.getD 1 0).toNat * 256 + (bytes.getD 2 0).toNat)) s

/-- A received frame is checked for length, CRC and ALV, in this order (R122, R124). -/
def receiveFrame (bytes : List Byte) (edges : Nat) (ecc : Ecc) (s : State) : State :=
  let alv : BitVec 4 := BitVec.ofNat 4 ((bytes.getD 3 0).toNat / 16)
  if edges ≠ 40 then { s with rein := { s.rein with lene := true } }
  else if crc8 (bytes.take 4) ≠ bytes.getD 4 0 then
    { s with rein := { s.rein with crce := true, expAlv := s.rein.expAlv + 1 } }
  else
    let s1 := { s with rein := { s.rein with expAlv := alv + 1, anyAlv := false } }
    if s.rein.anyAlv = false ∧ alv ≠ s.rein.expAlv then { s1 with rein := { s1.rein with alve := true } }
    else goodFrame bytes ecc s1

/-- REIN_FRAME (R118 to R142): what the hub sends while the frame is clocked, and what the frame does at the rise of
REIN_CS_N. A low pulse without an edge is no frame (R120). -/
def effReinFrame (bytes : List Byte) (edges : Nat) (gap : CsGap) (ecc : Ecc) (t : HubTime) (s0 : State) : State :=
  let s := advance t s0
  if edges = 0 then s
  else if reinSilent s then { s with rein := { s.rein with miso := none } }
  else if reinBusy gap s then { s with rein := { s.rein with miso := some (sentBytes edges busyPattern) } }
  else receiveFrame bytes edges ecc (sendReply edges (hostAt [40, 41, 42, 43] s))

/-! ## The rows for single accesses -/

/-- REGISTER_WRITE (R7 to R9, R150): a good write of a direct register through a Rein frame. -/
def effRegisterWrite (a : BitVec 7) (v : Word) (t : HubTime) (s0 : State) : State :=
  let s := advance t s0
  if reinListens s then hostWrite a.toNat v s else s

/-- WIN_DATA_READ (R136). -/
def effWinDataRead (ecc : Ecc) (t : HubTime) (s0 : State) : State :=
  let s := advance t s0
  if reinListens s then hostRead 0x16 false ecc s else s

/-- WIN_DATA_WRITE (R136). -/
def effWinDataWrite (v : Word) (t : HubTime) (s0 : State) : State :=
  let s := advance t s0
  if reinListens s then hostWrite 0x16 v s else s

/-- The address of a latching register. -/
def latchAddr : LatchReg → Nat
  | .snapEpochHi => 0x1A
  | .htHi => 0x60
  | .rplDivHi => 0x6E

/-- LATCHING_READ (R152). -/
def effLatchingRead (r : LatchReg) (t : HubTime) (s0 : State) : State :=
  let s := advance t s0
  if reinListens s then hostRead (latchAddr r) false .ok s else s

/-- The waiting slow read ends with a value, or with ADRE and WERR (R132, R133, R137). -/
def endSlow (v : Word) (adre : Bool) (s : State) : State :=
  { s with rein := { s.rein with slowPending := none, res := v, adre := adre, werr := s.rein.werr || adre } }

/-- Offset `o` of the store lies in the pages that a running write job erases and programs (R98). -/
def jobCovers (o : Nat) (s : State) : Bool :=
  match s.tack.job with
  | some j => decide (j.span.1 ≤ o) && decide (o < j.span.1 + j.span.2)
  | none => false

/-- A word of the tack store as it is read, and the state after it (R96 to R98): the key slot pages read 0x0000, and a page being
erased or programmed what it holds at that moment, which is free. -/
def tackWordAt (o : Nat) (s : State) : Word × State :=
  if jobCovers o s then (Config.freeWord s.seed, drawn s)
  else (BitVec.ofNat 16 ((tackShown o s).toNat + 256 * (tackShown (o + 1) s).toNat), s)

/-- A read of the tack store (R97): a corrected word sets CORR, an uncorrectable one UNC, and fault 0x12 is raised; its value is
not stated, but on the key slot pages. -/
def tackRead (o : Nat) (ecc : Ecc) (s : State) : Word × State :=
  match ecc with
  | .ok => tackWordAt o s
  | .corrected => let r := tackWordAt o s; (r.1, { r.2 with tack := { r.2.tack with corr := true } })
  | .uncorrectable =>
    (if 0x1C000 ≤ o ∧ o < 0x1C800 then 0 else Config.freeWord s.seed,
      drawn (logFault 0x12 1 0xFFFF (eccWord o) { s with tack := { s.tack with unc := true } }))

/-- SLOW_READ_COMPLETE (R132): the tack store answers, or the line of a waiting window read is in the cache. -/
def effSlowReadComplete (ecc : Ecc) (s : State) : State :=
  match s.rein.slowPending with
  | none => s
  | some w =>
    match windowFlash w.toNat with
    | none =>
      let r := tackRead (w.toNat - 0x100000) ecc (grant 40 true s)
      endSlow r.1 false r.2
    | some a =>
      match readCached a s with
      | some p => endSlow p.1 false (grant 41 true p.2)
      | none => s

/-- SLOW_READ_TIMEOUT (R133): 2 ms after its frame the read ends with 0x0000 and ADRE. -/
def effSlowReadTimeout (s : State) : State := if s.rein.slowPending.isSome then endSlow 0 true s else s

/-- STALL_TIMEOUT (R139): QM_STALL_TMO has passed, and the next reply carries the empty value. -/
def effStallTimeout (s : State) : State :=
  if s.rein.stall.isSome then grant 43 true { s with rein := { s.rein with stall := none, res := 0x8000, adre := false } } else s

/-! ## The tap's rows -/

/-- TAP_CTRL as it stands with more bits set. -/
def tapCtrlWith (bits : Word) (s : State) : Word := tapCtrl s ||| bits

/-- TAP_ARM (R373): a write of TAP_CTRL with ARM = 1, the other fields kept. -/
def effTapArm (s : State) : State :=
  let v := tapCtrlWith 0x10 s
  writeRow 0x68 v (tapCtrlWrite v) s

/-- TAP_FRZ (R372): a write of TAP_CTRL with FRZ = 1, the other fields kept. -/
def effTapFrz (s : State) : State :=
  let v := tapCtrlWith 0x20 s
  writeRow 0x68 v (tapCtrlWrite v) s

/-- The meaning of REIN_FRAME. -/
def execReinFrame (bytes : List Byte) (edges : Nat) (gap : CsGap) (ecc : Ecc) (t : HubTime) (s : State) :
    Host.Outcome State Fault Refusal := .next (effReinFrame bytes edges gap ecc t s)
/-- The meaning of REGISTER_WRITE. -/
def execRegisterWrite (a : BitVec 7) (v : Word) (t : HubTime) (s : State) : Host.Outcome State Fault Refusal :=
  .next (effRegisterWrite a v t s)
/-- The meaning of WIN_DATA_READ. -/
def execWinDataRead (ecc : Ecc) (t : HubTime) (s : State) : Host.Outcome State Fault Refusal :=
  .next (effWinDataRead ecc t s)
/-- The meaning of WIN_DATA_WRITE. -/
def execWinDataWrite (v : Word) (t : HubTime) (s : State) : Host.Outcome State Fault Refusal :=
  .next (effWinDataWrite v t s)
/-- The meaning of LATCHING_READ. -/
def execLatchingRead (r : LatchReg) (t : HubTime) (s : State) : Host.Outcome State Fault Refusal :=
  .next (effLatchingRead r t s)
/-- The meaning of SLOW_READ_COMPLETE. -/
def execSlowReadComplete (ecc : Ecc) (s : State) : Host.Outcome State Fault Refusal := .next (effSlowReadComplete ecc s)
/-- The meaning of SLOW_READ_TIMEOUT. -/
def execSlowReadTimeout (s : State) : Host.Outcome State Fault Refusal := .next (effSlowReadTimeout s)
/-- The meaning of STALL_TIMEOUT. -/
def execStallTimeout (s : State) : Host.Outcome State Fault Refusal := .next (effStallTimeout s)
/-- The meaning of TAP_ARM. -/
def execTapArm (s : State) : Host.Outcome State Fault Refusal := .next (effTapArm s)
/-- The meaning of TAP_FRZ. -/
def execTapFrz (s : State) : Host.Outcome State Fault Refusal := .next (effTapFrz s)
/-- The meaning of GAP_RECORD. -/
def execGapRecord (loss : GapLoss) (s : State) : Host.Outcome State Fault Refusal := .next (effGapRecord loss s)

end Sys2Proof.Machine
end

