-- ==== Sys2Proof/Machine/Replay.lean ====
section
/-! DEFINITION. Running a replay (R379 to R384): what each record of the trace does at its replay hub time, phantom requests,
divergence, and how a replay pauses and ends. The forced points themselves stand in Verdicts.lean. -/

namespace Sys2Proof.Machine

/-! ## Phantom requests (R380) -/

/-- Point `p` waits for input a. -/
def waitsForA (p : Nat) (s : State) : Bool := match forcedFirst p s with | some v => !v.winB | none => false

/-- The points whose input a is a dequeuing read of the host: the queues that it reads, and the CAN read ports (Tables 11-4
and 12-6). -/
def hostReadPoints : List Nat :=
  ((List.range 64).filter hostReadable).map (fun q => 182 + q) ++ [266, 267, 286, 287]

/-- A phantom dequeue takes an item if there is one (R380). -/
def phantomDequeue (p : Nat) (s : State) : State :=
  if p < 246 then (match takeItem (p - 182) s with | some r => r.2 | none => s)
  else
    let ch : Chan := if p < 286 then .a else .b
    modCan ch (fun c => setPort (p % 2) (canFront (p % 2) c) none c) s

/-- The phantom requests of one point, as long as its next recorded verdict names the host's read. -/
def phantomsAt : Nat → Nat → State → State
  | 0, _, s => s
  | fuel + 1, p, s => if waitsForA p s then phantomsAt fuel p (phantomDequeue p (dropForced p s)) else s

/-- The verdict names an input that no record drives and whose phantom changes nothing (R380): a Rein access at the register
groups, at the start of a reply, at the tack store, at the banks and at the alias, the expiry of a stall, or a fetch of the S0
execute window. These inputs keep no request of another waiting here, so their phantoms need no order of their own
(log entry 103). -/
def idlePhantom (v : Verdict) : Bool :=
  let p := v.point
  (decide (16 ≤ p) && decide (p < 40) && !v.winB) || (decide (40 ≤ p) && decide (p < 44))
    || ((p == 46 || p == 160 || p == 161) && !v.winB) || p == 314 || p == 315 || p == 316 || p == 317 || (p == 318 && v.winB)

/-- Every phantom request that the recorded verdicts ask for (R380). -/
def supplyPhantoms (s0 : State) : State :=
  let s := { s0 with verdicts := { s0.verdicts with forced := s0.verdicts.forced.filter (fun v => !idlePhantom v) } }
  hostReadPoints.foldl (fun s p => phantomsAt s.verdicts.forced.length p s) s

/-- VERDICT_BATCH_WRITE (R369): the batch is written before it is full, at the latest 50 µs after its first entry. -/
def effVerdictBatchWrite (t : HubTime) (s0 : State) : State :=
  let s := advance t s0
  if s.tap.recording && s.tap.verd then writeBatch s else s

/-! ## The fields of a record (Table 16-1) -/

/-- Bytes `a` to `a + n - 1` of a record, counted from its header, as a number. -/
def TraceRec.num (r : TraceRec) (a n : Nat) : Nat := leValue ((r.body.drop (a - 4)).take n)

/-- The place of HT[31:0] in a record that has one. -/
def htPlace (type : Nat) : Option Nat :=
  match type with
  | 1 => some 8
  | 2 => some 12
  | 3 => some 12
  | 5 => some 12
  | 9 => some 8
  | _ => none

/-- The full hub time of HT[31:0] (R367): the base boundaries stand for the Time marks. -/
def fullTime (v : Nat) (s : State) : HubTime :=
  let m := match s.time.recent with | b :: _ => b.1 | [] => s.time.now
  m + BitVec.ofNat 48 ((BitVec.ofNat 32 v - BitVec.ofNat 32 m.toNat).toNat)

/-- The hub time of a start of frame, at most 2^32 ht before the event that ends the frame. -/
def sofTime (v : Nat) (t : HubTime) : HubTime := t - BitVec.ofNat 48 ((BitVec.ofNat 32 t.toNat - BitVec.ofNat 32 v).toNat)

/-- The replay hub time of a record, if it has one. -/
def recordTime (r : TraceRec) (s : State) : Option HubTime :=
  if r.type = 7 then some (BitVec.ofNat 48 (r.num 8 6))
  else if r.type = 6 then some (BitVec.ofNat 48 (r.num 16 6))
  else (htPlace r.type).map (fun o => fullTime (r.num o 4) s)

/-- A Time mark at a base boundary. -/
def TraceRec.isBound (r : TraceRec) : Bool := r.type == 7 && nbit (r.num 4 1) 1

/-! ## What stands ahead -/

/-- The bytes of the records that the loader has read and still supplies. -/
def ahead (s : State) : List Byte := if s.replay.ended = .going then upcoming s else suppliedBytes s

/-- The whole records at the start of a byte string. -/
def recordsIn : Nat → List Byte → List TraceRec
  | 0, _ => []
  | fuel + 1, bs =>
    match traceRecord bs with
    | none => []
    | some r => r :: recordsIn fuel (bs.drop (8 * r.units))

/-- The records ahead. -/
def recordsAhead (s : State) : List TraceRec := recordsIn ((ahead s).length / 8 + 1) (ahead s)

/-- The loader can bring no more records for now: it has ended, or queue 50 is full. -/
def loaderStands (s : State) : Bool := s.replay.ended != .going || s.pool.waiting.any (fun w => w.1 == .loader)

/-- An epoch marker is among the records. -/
def markerIn (rs : List TraceRec) : Bool := rs.any (fun r => r.type == 6)

/-- The Mode change record of the boundary whose Time mark comes first among these records. -/
def turnAhead (rs : List TraceRec) : Option TraceRec :=
  match (rs.drop 1).find? (fun r => r.type != 4 && r.type != 9) with
  | some r => if r.type = 8 then some r else none
  | none => none

/-- What follows a Time mark at the boundary has been loaded. -/
def turnKnown (rs : List TraceRec) (s : State) : Bool :=
  (rs.drop 1).any (fun r => r.type != 4 && r.type != 9) || loaderStands s

/-! ## Divergence (R381, R382) -/

/-- The number of the epoch in which the replay stands. -/
def replayEpoch (s : State) : Nat :=
  if s.time.epochOn then epochNumber s.time.epochIx s
  else match stagedIx s with | some ix => epochNumber ix s | none => 0

/-- A divergence of epoch `e` has been reported, or waits to be. -/
def reported (e : Nat) (s : State) : Bool :=
  s.replay.divPend.any (fun d => d.1 == e) || s.op.recs.any (fun r => r.w0.toNat + 65536 * r.w1.toNat == e)

/-- The bank with the replayed snapshot of epoch `e`. -/
def replayedBank (e : Nat) (s : State) : Option Bank :=
  let k := bankOf (newestBank s) s
  if s.snap.newest != 0 && s.snap.skips == 0 && k.hdr.epoch.toNat == e then some k else none

/-- The result record of a divergence (R381). Where the epoch has not been committed, its CRC is not stated. -/
def postDivergence (d : Nat × Nat × Nat) (s : State) : State :=
  match replayedBank d.1 s with
  | some k => opPost (d.1 % 65536) (d.1 / 65536) (d.2.1 + 16 * d.2.2) ((bankCrc k).toNat % 65536) s
  | none =>
    drawn (opPost (d.1 % 65536) (d.1 / 65536) (d.2.1 + 16 * d.2.2) (Config.freeWord s.seed).toNat s)

/-- The records that wait are posted: those of epoch `e`, or all of them. -/
def postPending (e : Option Nat) (s0 : State) : State :=
  let mine := fun (d : Nat × Nat × Nat) => match e with | some n => d.1 == n | none => true
  let s := { s0 with replay := { s0.replay with divPend := s0.replay.divPend.filter (fun d => !mine d) } }
  (s0.replay.divPend.filter mine).foldl (fun s d => postDivergence d s) s

/-- The replay ends, with RPL_STAT.WHY where it has one (R382, R383). -/
def finishReplay (st : BitVec 3) (opWhy why : BitVec 4) (s0 : State) : State :=
  let s := postPending none s0
  endOp st opWhy { s with replay := { s.replay with why := if why = 0 then s.replay.why else why } }

/-- The replay diverges in epoch `e` (R381): the first time it latches RPL_DIV. With STOPDIV it ends there (R382). -/
def diverge (e kind point : Nat) (s0 : State) : State :=
  let s := { s0 with replay := { s0.replay with diverged := true } }
  let s1 := if s.op.recs.isEmpty && s.replay.divPend.isEmpty then
      attend 13 { s with replay := { s.replay with div := true, divEpoch := BitVec.ofNat 32 e } }
    else s
  let s2 := if reported e s1 then s1
    else { s1 with replay := { s1.replay with divPend := s1.replay.divPend ++ [(e, kind, point)] } }
  if s2.replay.stopdiv then finishReplay 2 0 7 s2 else s2

/-- A port input, CAN or SENT record does not fit (KIND 3). -/
def disorder (s : State) : State := diverge (replayEpoch s) 3 0 s

/-- Point `p` has stalled (KIND 2): with neither STOPDIV nor RESYNC it grants the requesting input and discards the verdict
it waited for. A run that waited there for its lane takes it. -/
def stall (p : Nat) (s : State) : State :=
  let s1 := diverge (replayEpoch s) 2 p s
  if s.replay.stopdiv || s.replay.resync then s1 else dispatch (supplyPhantoms (dropForced p s1))

/-! ## Port inputs -/

/-- The outcome of a lane's transaction from the byte of its record (Table 16-1). -/
def outcomeOf (c : Nat) : PortOutcome :=
  if c = 0 then .done else if c = 1 then .noAnswer else if c = 2 then .arbitrationLost else .busFault

/-- A port input block of a lane (KIND 0). It waits for the lane to come to its transaction; `misfit` says that it never does.
A block that an attempt timeout of the replay has already answered only informs. -/
def laneInput (r : TraceRec) (s : State) : State :=
  let i := r.num 12 1 % 16
  let p := field (r.num 4 1) 0 4
  let rx1 := (r.body.drop 12).take (r.num 7 1)
  let rx := match stepOf i s with | some st => received p st rx1 s | none => rx1
  let l := laneOf i s
  if l.wait = .step p ∧ l.ep = r.num 5 1 then
    if r.num 6 1 = 3 && isSPort p then disorder s
    else if r.num 6 1 = 3 then
      failOnWire p 3 5 (grant (iPoint (p - 6) + 3) false (countWord (portBlock p + 0x386) (stickI (p - 6) 9 s)))
    else if wireFits i (outcomeOf (r.num 6 1)) rx s then laneEnds i (outcomeOf (r.num 6 1)) rx s
    else disorder s
  else if r.num 6 1 = 4 then s
  else disorder s

/-- A lane input waits: its lane runs the endpoint but has no transaction on the wire yet. -/
def laneInputWaits (r : TraceRec) (s : State) : Bool :=
  let l := laneOf (r.num 12 1 % 16) s
  r.num 6 1 != 4 && l.wait != .free && !l.cancelled && l.ep == r.num 5 1
    && (match l.wait with | .step _ => false | _ => true)

/-- A whole target transaction (KIND 2). The hub time of the select's fall is not in the trace. -/
def targetInput (p : Fin 4) (r : TraceRec) (s : State) : State :=
  let rx := (r.body.drop 12).take (r.num 7 1)
  if servesTarget p.val s then
    let s1 := targetFall p (freeTime s.seed) { s with seed := s.seed + 3 }
    targetRise p ((sportOf p.val s1).frame.sampled rx) rx.length (r.num 6 1 == 5) s1
  else disorder s

/-- A call (KIND 1). The pins of the replaying hub have no part in it. -/
def callInput (p : Nat) (r : TraceRec) (s : State) : State :=
  if iWorks p s && nbit (runWord (portBlock (6 + p) + 0x1C) s) 7 then
    callEnds p ((r.body.drop 12).take (r.num 7 1)) (grants [(iPoint p, true), (iPoint p + 4, false)] s)
  else disorder s

/-- A probe of a scan (KIND 3): no scan runs beside a replay, so only the port's counts follow (R336, R339). -/
def probeInput (p : Nat) (r : TraceRec) (s : State) : State :=
  match r.num 6 1 with
  | 0 => countXfer p s
  | 1 => countNack p s
  | 2 => countWord (portBlock (6 + p) + 0x384) (stickI p 8 s)
  | _ => countWord (portBlock (6 + p) + 0x386) (stickI p 9 s)

/-- A port input block acts. -/
def portInput (r : TraceRec) (s : State) : State :=
  let p := field (r.num 4 1) 0 4
  match field (r.num 4 1) 4 4 with
  | 0 => laneInput r s
  | 1 => if isIPort p then callInput (p - 6) r s else disorder s
  | 2 => if isSPort p then targetInput ⟨(p - 2) % 4, by omega⟩ r s else disorder s
  | _ => if isIPort p then probeInput (p - 6) r s else disorder s

/-! ## CAN and SENT records -/

/-- The frame of a CAN record. -/
def recordFrame (r : TraceRec) : CanFrame :=
  let w := r.num 8 4
  let d := r.num 5 1
  let f : CanFrame :=
    { ide := nbit w 29, rtr := nbit w 30, fdf := nbit w 31, brs := nbit d 4, esi := nbit d 5
      id := BitVec.ofNat 29 (field w 0 29), dlc := BitVec.ofNat 4 d, data := [] }
  { f with data := (r.body.drop 16).take (headBytes f) }

/-- The bus has come to idle since the channel's last event: integration and a protocol exception's wait are over. -/
def settleBus (ch : Chan) (s : State) : State := modCan ch (fun c => { c with pexWait := false }) (integrate ch s)

/-- An error frame of the trace. Who transmitted and the counters after it are not in the trace: they are free values. -/
def canErrorInput (ch : Chan) (lec : Nat) (r : TraceRec) (t : HubTime) (s : State) : State :=
  let e : CanError :=
    { transmitting := Config.freeBool s.seed, frame := recordFrame r, sof := sofTime (r.num 16 4) t, lec := BitVec.ofNat 3 lec
      tec := (Config.freeByte (s.seed + 1) 0).toNat, recc := (Config.freeByte (s.seed + 2) 0).toNat }
  canError ch e { s with seed := s.seed + 3 }

/-- A frame that the channel sent in the recording (R379): the frame that the replay has in its transmit buffer, or takes now, is
the one, and its loop delay is not in the trace. Of a publication, which a replay does not queue (R378), only the channel's
counts follow. -/
def sentInput (ch : Chan) (f : CanFrame) (sof : HubTime) (s0 : State) : State :=
  let s := takeTx ch s0
  match (canOf ch s).txBuf with
  | some x =>
    if headOf { x.frame with esi := f.esi } = headOf f then txDone ch x none sof s.time.now s
    else setCounters ch ((canOf ch s).tec - 1) (canOf ch s).recc s.time.now (countCan ch 0x38A s)
  | none => setCounters ch ((canOf ch s).tec - 1) (canOf ch s).recc s.time.now (countCan ch 0x38A s)

/-- The channel events of Table 16-1, where the channel is in a state to have them (R379, R381). -/
def canInput (r : TraceRec) (s0 : State) : State :=
  let ch : Chan := if nbit (r.num 4 1) 0 then .b else .a
  let evt := field (r.num 4 1) 1 3
  let s := if evt < 5 then settleBus ch s0 else s0
  let c := canOf ch s
  let f := recordFrame r
  match evt with
  | 0 => if mayReceive ch f s && frameOk f then receiveCan ch f (sofTime (r.num 16 4) s.time.now) s else disorder s0
  | 1 => if canListens ch s && !c.lomAct then sentInput ch f (sofTime (r.num 16 4) s.time.now) s else disorder s0
  | 2 => if canListens ch s && !c.lomAct then countCan ch 0x38E s else disorder s0
  | 3 =>
    let lec := field (r.num 6 1) 0 3
    if canListens ch s && lec != 0 && lec != 7 then canErrorInput ch lec r s.time.now s else disorder s0
  | 4 => if mayExcept ch s then protocolException ch s else disorder s0
  | 5 => if c.state = 2 then setCounters ch 256 c.recc s.time.now s else if c.state = 3 then s else disorder s0
  | 6 => if c.state = 3 ∨ (c.state = 1 ∧ c.recovering = true) then recoverCan ch s else disorder s0
  | _ => disorder s0

/-- SENT input `p` takes frames from the trace: it is enabled and works in the replayed mode. Its pin, which Farrier ignores, has no
part in it (R353, Table 02-6). -/
def tReplays (p : Nat) (s : State) : Bool :=
  nbit (runWord (portBlock (10 + p)) s) 0 && !portDropped (10 + p) s && (actMode s).polls && !kernelOnly s

/-- A SENT record: the frame, the message or the error of its class (Tables 15-3 and 16-1). -/
def sentRecord (r : TraceRec) (s : State) : State :=
  let p := field (r.num 4 1) 0 4 - 10
  let bytes := (r.body.drop 1).take 6
  let nib := field (runWord (portBlock (10 + p)) s) 4 3
  let nibbles : List (BitVec 4) :=
    BitVec.ofNat 4 (r.num 8 1) :: (List.range nib).map (fun k => BitVec.ofNat 4 (r.num 5 3 / 16 ^ (nib - 1 - k)))
  if isTPort (field (r.num 4 1) 0 4) && tReplays p s then
    match field (r.num 4 1) 4 4 with
    | 0 => fastDone p (r.num 8 1 % 16) bytes (setStatWord (tStat p 0x390) (r.num 9 2) (modTPort p (fun x => { x with synced := true }) s))
    | 1 => slowDone p bytes s
    | 2 => sentFail p .calibration nibbles s
    | 3 => sentFail p .nibble nibbles s
    | 4 => sentFail p .crc nibbles s
    | 5 => sentFail p .pause nibbles s
    | 6 => slowError p bytes s
    | 7 => lineSilent p s
    | _ => disorder s
  else disorder s

/-! ## Rein writes (R380a, R182) -/

/-- Recorded writes of these registers are not applied: ATTN_SRC, ATTN_MASK, MODE_REQ, the window registers, tap and
replay. -/
def replayLeaves (a : Nat) : Bool :=
  [0x03, 0x04, 0x05, 0x14, 0x15, 0x16, 0x17].contains a || (decide (0x68 ≤ a) && decide (a < 0x70))

/-- A recorded AUTH_OP write (R182): with RESULT 1 the command's effect, without a check; else only AUTH_STAT changes. A trace
is recorded in Walk and Canter, where no commands but PROFILE_SELECT, ENDPOINT_COMMIT and PINMUX_LOCK are accepted. -/
def authInput (v : Word) (result : Nat) (s0 : State) : State :=
  let s := if result = 1 then closeHostData s0 else s0
  let c := takeCommand none v s
  let stat := fun (s : State) => { s with auth := { s.auth with
    result := BitVec.ofNat 4 result, lslot := BitVec.ofNat 2 c.slot
    rej := s.auth.rej || result != 1, hold := s.auth.hold || result == 6
    fails := if result = 1 then 0 else if result = 6 then BitVec.ofNat 4 (satAdd 15 s.auth.fails.toNat 1) else s.auth.fails } }
  if result = 1 then
    let s1 := stat (emptyQueue 61 (abandonItem 61 .host s))
    if [0x11, 0x13, 0x18].contains c.opc then runCommand c s1 else s1
  else stat s

/-- A recorded write of a direct register, through its own address or the mirror. -/
def directInput (a : Nat) (v : Word) (result : Nat) (s : State) : State :=
  if replayLeaves a then s else if a = 0x20 then authInput v result s else (writeReg a v s).s

/-- A recorded write: a direct register, or a window word at its recorded address. In Walk and Canter only the mirror of the
direct registers and blocks that a replay leaves alone take window writes (R161, R162). The write requests at the points of its
register groups. -/
def reinInput (r : TraceRec) (s : State) : State :=
  let v := BitVec.ofNat 16 (r.num 6 2)
  let result := field (r.num 4 1) 4 4
  let ask := fun (points : List Nat) => grants (points.map (fun p => (p, false))) s
  if nbit (r.num 4 1) 0 then
    let s1 := ask (20 :: windowPoint (r.num 8 4))
    if r.num 8 4 < 0x100 then directInput (r.num 8 4 / 2) v result s1 else s1
  else directInput (r.num 5 1 % 128) v result (ask (groupPoint (r.num 5 1 % 128)))

/-! ## Boundaries and modes -/

/-- The mode with a code. -/
def modeOfCode (n : Nat) : Mode :=
  match n with
  | 1 => .stabled
  | 2 => .halter
  | 3 => .walk
  | 4 => .canter
  | 5 => .leadrein
  | 6 => .farrier
  | _ => .reset

/-- The replayed mode changes, and its entry makes every express window stale (R53). -/
def replayMode (r : TraceRec) (s : State) : State :=
  adapting (fun s => staleWindows { s with replay := { s.replay with mode := modeOfCode (field (r.num 4 1) 4 4) } }) s

/-- GEN of the copy that a replayed switch has staged, if one is staged. -/
def stagedGen (s : State) : Option Nat :=
  if s.tack.swPend && s.tack.swStaged && !s.tack.expanding then some (leValue (((stagedImage s).drop 8).take 4)) else none

/-- The Mode change record at its boundary (R379): a staged switch applies, and the replayed mode changes. A switch whose
staged copy is not the recorded one diverges (KIND 5). -/
def replayTurn (r : TraceRec) (s : State) : State :=
  if nbit (r.num 5 1) 1 then
    let s1 := if (stagedGen s).isSome then applySwitch s else s
    let s2 := replayMode r s1
    if stagedGen s = some (r.num 12 4) then s2 else diverge (replayEpoch s2) 5 0 s2
  else replayMode r s

/-- A base boundary of the trace (R241, R379): the epoch that ends, the turn, and with EPOCH the epoch that starts. -/
def replayBoundary (r : TraceRec) (turn : Option TraceRec) (s0 : State) : State :=
  let b := BitVec.ofNat 48 (r.num 8 6)
  let starts := nbit (r.num 4 1) 2
  let s1 := byApply { s0 with time := { s0.time.tick b with
    baseCount := BitVec.ofNat 32 (r.num 16 4), recent := ((b, BitVec.ofNat 32 (r.num 16 4)) :: s0.time.recent).take 4 } }
  let ends := s1.time.epochOn && (starts || turn.isSome)
  let s2 := if ends then endEpoch b s1 else { s1 with time := { s1.time with walkLeft := s1.time.walkLeft - 1 } }
  let period := s2.time.period
  let s3 := if ends then settleAhead turn.isNone (commitsReady s2) else s2
  let s4 := match turn with | some t => replayTurn t s3 | none => s3
  if s4.replay.run then
    let s5 := setNextBoundary b period s4
    if starts then
      let s6 := startEpoch b s5
      if s6.tack.expanding then s6 else dueRuns s6
    else s5
  else s4

/-! ## Epoch markers (R381, R384) -/

/-- The comparison of an epoch marker with the replayed commit. -/
def compareMarker (r : TraceRec) (s : State) : State :=
  let e := r.num 8 4
  let skipped := nbit (r.num 4 1) 6
  let replayedSkip := s.snap.skips != 0
  let crcOk := match replayedBank e s with | some k => (bankCrc k).toNat == r.num 12 4 | none => false
  if skipped != replayedSkip then diverge e 4 0 s
  else if nbit (r.num 4 1) 4 && !crcOk then diverge e 1 0 s
  else s

/-- The epochs that the replay has still to commit, by ARG1:ARG0 (R383): all of them are done. -/
def epochsReached (s : State) : Bool :=
  match s.op.job with
  | .replay n => n != 0 && decide (n ≤ s.replay.epochsDone)
  | _ => false

/-- An epoch marker (R381, R383, R384): comparison, result record, end and pause. -/
def markerInput (r : TraceRec) (s0 : State) : State :=
  let s := compareMarker r s0
  if s.replay.run then
    let s1 := postPending (some (r.num 8 4)) s
    let s2 := if s1.snap.skips = 0 then { s1 with replay := { s1.replay with epochsDone := s1.replay.epochsDone + 1 } } else s1
    if epochsReached s2 then finishReplay 2 0 0 s2
    else if s2.snap.skips = 0 then { s2 with replay := { s2.replay with paused := s2.replay.pause } }
    else s2
  else s

/-! ## One record -/

/-- A Gap record (R382): the replay fails, or goes on at the next keyframe. -/
def gapInput (s : State) : State :=
  if s.replay.resync then
    let s1 := postPending none s
    { s1 with replay := { s1.replay with seeking := true }, verdicts := { s1.verdicts with forced := [] } }
  else finishReplay 3 8 6 s

/-- A record acts at its replay hub time (R379). -/
def actOn (r : TraceRec) (turn : Option TraceRec) (stalled : Option (Fin 412)) (misfit : Bool) (s0 : State) : State :=
  let s := match recordTime r s0 with | some t => { s0 with time := s0.time.moveTo t } | none => s0
  if misfit && decide (r.type ≤ 3) then disorder s
  else
    match r.type with
    | 1 => portInput r s
    | 2 => canInput r s
    | 3 => sentRecord r s
    | 4 => supplyPhantoms s
    | 5 => reinInput r s
    | 6 => markerInput r s
    | 7 =>
      if r.isBound then
        let s1 := match stalled with
          | some p => if loggedPoint p.val && (forcedFirst p.val s).isSome then stall p.val s else s
          | none => s
        if s1.replay.run then replayBoundary r turn s1 else s1
      else s
    | 8 => replayMode r s
    | 10 => gapInput s
    | _ => s

/-- The units of a record are consumed, and the loader goes on with the room in queue 50. -/
def consumeRecord (r : TraceRec) (s : State) : State :=
  runLoader { s with replay := { s.replay with used := s.replay.used + r.units } }

/-- The replay loads the keyframe whose first part is `r` (R382). -/
def wantsKeyframe (r : TraceRec) (s : State) : Bool :=
  r.type == 11 && !r.cont && (s.replay.seeking || (s.replay.resync && s.replay.diverged))

/-- The record has to wait: for a commit whose cutoff comes first, for a lane, for the rest of a keyframe, or for records that
say what follows. -/
def recordWaits (r : TraceRec) (rs : List TraceRec) (misfit : Bool) (s : State) : Bool :=
  if s.replay.seeking || wantsKeyframe r s then
    wantsKeyframe r s && chainOf (ahead s) == .short && !loaderStands s
  else
    (match s.time.ended, recordTime r s with
      | some e, some t => HubTime.atOrAfter t (if r.type = 6 then e.cutoff else e.cutoff + 1)
      | _, _ => false)
    || (r.isBound && !turnKnown rs s)
    || (r.type == 1 && field (r.num 4 1) 4 4 == 0 && !misfit && laneInputWaits r s)

/-- Nothing has been supplied: the replay waits, or the loader's end ends it (R383). -/
def runsOut (s : State) : State :=
  match s.replay.ended with
  | .going => s
  | .units => finishReplay 2 0 0 s
  | .malformed => finishReplay 3 8 5 s
  | .readFailed => finishReplay 3 8 1 s

/-- The next record is taken. -/
def takeRecord (stalled : Option (Fin 412)) (misfit : Bool) (rs : List TraceRec) (s : State) : State :=
  match takeGood (queueOf 50 s).items.length 50 s with
  | none => runsOut s
  | some p =>
    match traceRecord p.1.bytes with
    | none => s
    | some r =>
      if recordWaits r rs misfit s then s
      else
        let whole := match chainOf (ahead s) with | .whole .. => true | _ => false
        if wantsKeyframe r s && whole then takeFrontKeyframe (postPending none s)
        else
          let s1 := consumeRecord r p.2
          if s.replay.seeking && r.type != 10 then replayProgress s1
          else replayProgress (actOn r (if r.isBound then turnAhead rs else none) stalled misfit s1)

/-- The epoch of the last epoch marker that the loader supplied has been committed, and the replay is over (R383). -/
def endAtLastMarker (s : State) : State :=
  if s.replay.run && s.replay.ended == .units && !s.replay.seeking && !markerIn (recordsAhead s) then finishReplay 2 0 0 s
  else s

/-- REPLAY_RECORD (R379): the replay engine takes the next record. As long as the loader may bring an epoch marker, it waits
for one, since records after the last marker have no effect (R383). -/
def effReplayRecord (stalled : Option (Fin 412)) (misfit : Bool) (s0 : State) : State :=
  let s := endAtLastMarker s0
  if s.replay.run && !s.replay.paused then
    let rs := recordsAhead s
    if markerIn rs || s.replay.seeking || loaderStands s then endAtLastMarker (takeRecord stalled misfit rs s) else s
  else s

/-- REPLAY_GO (R384): a write of RPL_CTRL with GO = 1, the other fields kept. -/
def effReplayGo (s : State) : State :=
  let v := rplCtrl s ||| 2
  writeRow 0x6C v (rplCtrlWrite v) s

/-- The meaning of VERDICT_BATCH_WRITE. -/
def execVerdictBatchWrite (t : HubTime) (s : State) : Host.Outcome State Fault Refusal := .next (effVerdictBatchWrite t s)
/-- The meaning of REPLAY_RECORD. -/
def execReplayRecord (stalled : Option (Fin 412)) (misfit : Bool) (s : State) : Host.Outcome State Fault Refusal :=
  .next (effReplayRecord stalled misfit s)
/-- The meaning of REPLAY_GO. -/
def execReplayGo (s : State) : Host.Outcome State Fault Refusal := .next (effReplayGo s)

end Sys2Proof.Machine
end

