-- ==== Sys2Proof/Machine/Dispatch.lean ====
section
/-! DEFINITION. One arm per command: each is one direct call of its meaning. -/

namespace Sys2Proof.Machine

def exec (i : Instr) (s : State) : Host.Outcome State Fault Refusal :=
  match i with
  | .powerOnReset => Sys2Proof.Machine.execPowerOnReset s
  | .brownOutReset core => Sys2Proof.Machine.execBrownOutReset core s
  | .resetPin => Sys2Proof.Machine.execResetPin s
  | .resetRelease psel => Sys2Proof.Machine.execResetRelease psel s
  | .startChecksDone failed => Sys2Proof.Machine.execStartChecksDone failed s
  | .refclkMeasured kHz => Sys2Proof.Machine.execRefclkMeasured kHz s
  | .pllLock slept => Sys2Proof.Machine.execPllLock slept s
  | .resetProfileLoadDone => Sys2Proof.Machine.execResetProfileLoadDone s
  | .modeRequest v => Sys2Proof.Machine.execModeRequest v s
  | .resetRequest => Sys2Proof.Machine.execResetRequest s
  | .baseEpochBoundary => Sys2Proof.Machine.execBaseEpochBoundary s
  | .stabledQuiesceTimeout => Sys2Proof.Machine.execStabledQuiesceTimeout s
  | .stabledSeal => Sys2Proof.Machine.execStabledSeal s
  | .pwrHoldDrop => Sys2Proof.Machine.execPwrHoldDrop s
  | .wakeDominantEdge ch => Sys2Proof.Machine.execWakeDominantEdge ch s
  | .wakeFrame ch f => Sys2Proof.Machine.execWakeFrame ch f s
  | .wakeFrameErrorOverflow ch => Sys2Proof.Machine.execWakeFrameErrorOverflow ch s
  | .wakePinEdge rising => Sys2Proof.Machine.execWakePinEdge rising s
  | .wakeReinCs => Sys2Proof.Machine.execWakeReinCs s
  | .wakeTimer => Sys2Proof.Machine.execWakeTimer s
  | .wakeTargetEntry suppliesLow => Sys2Proof.Machine.execWakeTargetEntry suppliesLow s
  | .farrierExitReload => Sys2Proof.Machine.execFarrierExitReload s
  | .epochPulseEnd => Sys2Proof.Machine.execEpochPulseEnd s
  | .hubTimeWrap => Sys2Proof.Machine.execHubTimeWrap s
  | .snapshotCommit ecc => Sys2Proof.Machine.execSnapshotCommit ecc s
  | .forwardFillEnd => Sys2Proof.Machine.execForwardFillEnd s
  | .bankCrcWritten => Sys2Proof.Machine.execBankCrcWritten s
  | .snapPinSet tmo clearLost => Sys2Proof.Machine.execSnapPinSet tmo clearLost s
  | .snapPinRelease tmo clearLost => Sys2Proof.Machine.execSnapPinRelease tmo clearLost s
  | .snapPinExpiry => Sys2Proof.Machine.execSnapPinExpiry s
  | .boryelLockLossTimeout => Sys2Proof.Machine.execBoryelLockLossTimeout s
  | .boryelLeadResume => Sys2Proof.Machine.execBoryelLeadResume s
  | .reinFrame bytes edges gap ecc t => Sys2Proof.Machine.execReinFrame bytes edges gap ecc t s
  | .registerWrite a v t => Sys2Proof.Machine.execRegisterWrite a v t s
  | .winDataRead ecc t => Sys2Proof.Machine.execWinDataRead ecc t s
  | .winDataWrite v t => Sys2Proof.Machine.execWinDataWrite v t s
  | .latchingRead r t => Sys2Proof.Machine.execLatchingRead r t s
  | .slowReadComplete ecc => Sys2Proof.Machine.execSlowReadComplete ecc s
  | .slowReadTimeout => Sys2Proof.Machine.execSlowReadTimeout s
  | .stallTimeout => Sys2Proof.Machine.execStallTimeout s
  | .qmDataRead stallOk ecc t => Sys2Proof.Machine.execQmDataRead stallOk ecc t s
  | .evqDataRead stallOk ecc t => Sys2Proof.Machine.execEvqDataRead stallOk ecc t s
  | .qmEnqWrite v => Sys2Proof.Machine.execQmEnqWrite v s
  | .qmSelWrite v => Sys2Proof.Machine.execQmSelWrite v s
  | .qmClose => Sys2Proof.Machine.execQmClose s
  | .qmDisc => Sys2Proof.Machine.execQmDisc s
  | .reservationGrant q => Sys2Proof.Machine.execReservationGrant q s
  | .qmFlushGo => Sys2Proof.Machine.execQmFlushGo s
  | .flushEnd q => Sys2Proof.Machine.execFlushEnd q s
  | .flushAbortTimeout q => Sys2Proof.Machine.execFlushAbortTimeout q s
  | .poolScrub found t => Sys2Proof.Machine.execPoolScrub found t s
  | .pmPinWrite k v => Sys2Proof.Machine.execPmPinWrite k v s
  | .pinQuiesceDone k => Sys2Proof.Machine.execPinQuiesceDone k s
  | .pinQuiesceTimeout k => Sys2Proof.Machine.execPinQuiesceTimeout k s
  | .pinAttach k => Sys2Proof.Machine.execPinAttach k s
  | .captureEdge n rising t => Sys2Proof.Machine.execCaptureEdge n rising t s
  | .bankSupplyLow banks t => Sys2Proof.Machine.execBankSupplyLow banks t s
  | .bankSupplyReturn => Sys2Proof.Machine.execBankSupplyReturn s
  | .profileSelect => Sys2Proof.Machine.execProfileSelect s
  | .profileStagingDone => Sys2Proof.Machine.execProfileStagingDone s
  | .profileExpansionEnd => Sys2Proof.Machine.execProfileExpansionEnd s
  | .profileCommit => Sys2Proof.Machine.execProfileCommit s
  | .tackWriteJobDone out => Sys2Proof.Machine.execTackWriteJobDone out s
  | .endpointCommit => Sys2Proof.Machine.execEndpointCommit s
  | .endpointCommitApply ep => Sys2Proof.Machine.execEndpointCommitApply ep s
  | .keyLoad => Sys2Proof.Machine.execKeyLoad s
  | .keyLoadDone => Sys2Proof.Machine.execKeyLoadDone s
  | .farrierEnter => Sys2Proof.Machine.execFarrierEnter s
  | .tackErase => Sys2Proof.Machine.execTackErase s
  | .replayLoad => Sys2Proof.Machine.execReplayLoad s
  | .pinmuxLock => Sys2Proof.Machine.execPinmuxLock s
  | .authHoldEnd => Sys2Proof.Machine.execAuthHoldEnd s
  | .selfTest => Sys2Proof.Machine.execSelfTest s
  | .rollCall => Sys2Proof.Machine.execRollCall s
  | .rollCallProbe out t => Sys2Proof.Machine.execRollCallProbe out t s
  | .autoRate => Sys2Proof.Machine.execAutoRate s
  | .autoRateVerifyStart => Sys2Proof.Machine.execAutoRateVerifyStart s
  | .profileLoad => Sys2Proof.Machine.execProfileLoad s
  | .traceDrain => Sys2Proof.Machine.execTraceDrain s
  | .drainSegmentDone flashError => Sys2Proof.Machine.execDrainSegmentDone flashError s
  | .queueFlush => Sys2Proof.Machine.execQueueFlush s
  | .keyframeNow => Sys2Proof.Machine.execKeyframeNow s
  | .replayRun => Sys2Proof.Machine.execReplayRun s
  | .flashProgram => Sys2Proof.Machine.execFlashProgram s
  | .flashStatusPoll status => Sys2Proof.Machine.execFlashStatusPoll status s
  | .endpointProbe => Sys2Proof.Machine.execEndpointProbe s
  | .opAbort => Sys2Proof.Machine.execOpAbort s
  | .longOpEnd e => Sys2Proof.Machine.execLongOpEnd e s
  | .longOpBoundExpiry => Sys2Proof.Machine.execLongOpBoundExpiry s
  | .runAheadDispatch ep => Sys2Proof.Machine.execRunAheadDispatch ep s
  | .endStep lane => Sys2Proof.Machine.execEndStep lane s
  | .acq lane => Sys2Proof.Machine.execAcq lane s
  | .portGrant lane => Sys2Proof.Machine.execPortGrant lane s
  | .rel lane => Sys2Proof.Machine.execRel lane s
  | .send lane => Sys2Proof.Machine.execSend lane s
  | .recv lane => Sys2Proof.Machine.execRecv lane s
  | .xfer lane => Sys2Proof.Machine.execXfer lane s
  | .frame lane => Sys2Proof.Machine.execFrame lane s
  | .portStepComplete lane out rx t => Sys2Proof.Machine.execPortStepComplete lane out rx t s
  | .wait lane => Sys2Proof.Machine.execWait lane s
  | .waitt lane => Sys2Proof.Machine.execWaitt lane s
  | .waitExpiry lane => Sys2Proof.Machine.execWaitExpiry lane s
  | .waitpin lane => Sys2Proof.Machine.execWaitpin lane s
  | .waitpinMatch lane => Sys2Proof.Machine.execWaitpinMatch lane s
  | .waitfrm lane => Sys2Proof.Machine.execWaitfrm lane s
  | .get lane t => Sys2Proof.Machine.execGet lane t s
  | .getSampleReady lane t => Sys2Proof.Machine.execGetSampleReady lane t s
  | .split lane t => Sys2Proof.Machine.execSplit lane t s
  | .flush lane => Sys2Proof.Machine.execFlush lane s
  | .skip lane => Sys2Proof.Machine.execSkip lane s
  | .attemptTimeout lane => Sys2Proof.Machine.execAttemptTimeout lane s
  | .retryGapExpiry lane => Sys2Proof.Machine.execRetryGapExpiry lane s
  | .sampleCompletion t => Sys2Proof.Machine.execSampleCompletion t s
  | .lateExpressRoute t => Sys2Proof.Machine.execLateExpressRoute t s
  | .canStartRequest ch v => Sys2Proof.Machine.execCanStartRequest ch v s
  | .canStopRequest ch v => Sys2Proof.Machine.execCanStopRequest ch v s
  | .canChannelStop ch => Sys2Proof.Machine.execCanChannelStop ch s
  | .canIntegrationDone ch => Sys2Proof.Machine.execCanIntegrationDone ch s
  | .canFrameReceived ch f sof t => Sys2Proof.Machine.execCanFrameReceived ch f sof t s
  | .canFrameError ch e t => Sys2Proof.Machine.execCanFrameError ch e t s
  | .canProtocolException ch t => Sys2Proof.Machine.execCanProtocolException ch t s
  | .canRecoveryStart ch => Sys2Proof.Machine.execCanRecoveryStart ch s
  | .canRecoveryDone ch t => Sys2Proof.Machine.execCanRecoveryDone ch t s
  | .canTxTake ch => Sys2Proof.Machine.execCanTxTake ch s
  | .canFrameTransmitted ch delay sof t => Sys2Proof.Machine.execCanFrameTransmitted ch delay sof t s
  | .canArbitrationLost ch sof t => Sys2Proof.Machine.execCanArbitrationLost ch sof t s
  | .canTxdataWrite ch v => Sys2Proof.Machine.execCanTxdataWrite ch v s
  | .canRxqRead ch q stallOk t => Sys2Proof.Machine.execCanRxqRead ch q stallOk t s
  | .rxShadowLoad ch q => Sys2Proof.Machine.execRxShadowLoad ch q s
  | .passThroughEntry p aborted rx t => Sys2Proof.Machine.execPassThroughEntry p aborted rx t s
  | .targetSelectFall p t => Sys2Proof.Machine.execTargetSelectFall p t s
  | .targetSelectRise p rx clocked partialByte t => Sys2Proof.Machine.execTargetSelectRise p rx clocked partialByte t s
  | .lineFillDone line => Sys2Proof.Machine.execLineFillDone line s
  | .linePrefetch => Sys2Proof.Machine.execLinePrefetch s
  | .cacheInvalidate => Sys2Proof.Machine.execCacheInvalidate s
  | .sfdpRead => Sys2Proof.Machine.execSfdpRead s
  | .sfdpDone table => Sys2Proof.Machine.execSfdpDone table s
  | .busFree p => Sys2Proof.Machine.execBusFree p s
  | .i2cArbitrationLost p t => Sys2Proof.Machine.execI2cArbitrationLost p t s
  | .i2cHang p h => Sys2Proof.Machine.execI2cHang p h s
  | .i2cRecoveryDone p sdaLowAfterPulse linesHigh t => Sys2Proof.Machine.execI2cRecoveryDone p sdaLowAfterPulse linesHigh t s
  | .i2cStuckRetry p => Sys2Proof.Machine.execI2cStuckRetry p s
  | .i2cCall p addr bytes t => Sys2Proof.Machine.execI2cCall p addr bytes t s
  | .ptGo p res done rx => Sys2Proof.Machine.execPtGo p res done rx s
  | .ptHoldExpiry p => Sys2Proof.Machine.execPtHoldExpiry p s
  | .sentFrame p before low len t => Sys2Proof.Machine.execSentFrame p before low len t s
  | .sentError p before last t => Sys2Proof.Machine.execSentError p before last t s
  | .sentLineTimeout p t => Sys2Proof.Machine.execSentLineTimeout p t s
  | .verdictBatchWrite t => Sys2Proof.Machine.execVerdictBatchWrite t s
  | .gapRecord loss => Sys2Proof.Machine.execGapRecord loss s
  | .tapArm => Sys2Proof.Machine.execTapArm s
  | .tapFrz => Sys2Proof.Machine.execTapFrz s
  | .replayLoaderFill bytes fails => Sys2Proof.Machine.execReplayLoaderFill bytes fails s
  | .replayRecord stalled misfit => Sys2Proof.Machine.execReplayRecord stalled misfit s
  | .replayGo => Sys2Proof.Machine.execReplayGo s
  | .livenessProbeTimeout island t => Sys2Proof.Machine.execLivenessProbeTimeout island t s
  | .hitchTimeout receiver sender t => Sys2Proof.Machine.execHitchTimeout receiver sender t s
  | .islandRestartDone island => Sys2Proof.Machine.execIslandRestartDone island s
  | .pllUnlock => Sys2Proof.Machine.execPllUnlock s
  | .pllRelock lasted t => Sys2Proof.Machine.execPllRelock lasted t s
  | .clockLossTimeout t => Sys2Proof.Machine.execClockLossTimeout t s
  | .crystalStop t => Sys2Proof.Machine.execCrystalStop t s
  | .vsupLow t => Sys2Proof.Machine.execVsupLow t s
  | .vsupLowEnd => Sys2Proof.Machine.execVsupLowEnd s
  | .authCommandRejected r => Sys2Proof.Machine.execAuthCommandRejected r s
  | .wakeWatcherFrame ch f => Sys2Proof.Machine.execWakeWatcherFrame ch f s
  | .controlFieldEnd ch f => Sys2Proof.Machine.execControlFieldEnd ch f s
  | .protocolExceptionIdle ch => Sys2Proof.Machine.execProtocolExceptionIdle ch s
  | .sentSync p run => Sys2Proof.Machine.execSentSync p run s
  | .busBusy p => Sys2Proof.Machine.execBusBusy p s
  | .livenessSweep => Sys2Proof.Machine.execLivenessSweep s

end Sys2Proof.Machine
end

