-- ==== Sys2Proof/Safety.lean ====
section
/-! DEFINITION. What counts as a safe state: the invariants that the statements use. -/

namespace Sys2Proof.Safety

open Sys2Proof.Machine

/-- Every byte memory of the state has its canonical form. -/
def memoriesWf (s : State) : Bool :=
  Memory.wf cfgDflt s.cfg.user && Memory.wf cfgDflt s.cfg.fallback && Memory.wf zeroDflt s.cfg.status
    && Memory.wf tackDflt s.tack.mem && Memory.wf (poolDflt s.pool.era) s.pool.ram

/-- How many there are of what the spec numbers: poll lanes, port scan generations, queues, pins, scratch words,
fault log entries, key slots, identity bytes, S ports, I ports, SENT inputs, and the slots of the three banks. -/
def shape (s : State) : List Nat :=
  [s.poll.lanes.length, s.poll.scanGen.length, s.pool.queues.length, s.pins.pins.length, s.attn.scratch.length,
    s.fault.log.length, s.tack.slots.length, s.tack.uid.length, s.sports.length, s.iports.length, s.tports.length,
    s.snap.bankA.slots.length, s.snap.bankB.slots.length, s.snap.bankC.slots.length]

/-- Those numbers as the spec gives them (R183, R337, Table 11-1, Table 02-8, Table 07-5, Table 17-4, R167, R165,
Table 03-2, Table 10-3). -/
def specShape : List Nat := [16, 4, 64, 59, 8, 15, 4, 8, 4, 4, 4, 256, 256, 256]

/-- No key slot that waits to be written is locked (R167, R175). -/
def keyWriteOpen (s : State) : Prop :=
  ∀ (w : Nat × KeySlot) (k : KeySlot), s.auth.keyWrite = some w → s.tack.slots[w.1]? = some k → k.state ≠ 2

/-- THE INVARIANT: the memories are canonical, every numbered part has its spec's count, and no locked key slot
waits for a write. -/
structure Inv (s : State) : Prop where
  memories : memoriesWf s = true
  counts : shape s = specShape
  keys : keyWriteOpen s

/-- `t` differs from `u` at most in records: the fault log, the attention registers, the Rein port's next reply, the
running long operation, the queues, the tap and the model's own counter. Every other field is the same. -/
structure OnlyRecords (u t : State) : Prop where
  power : t.power = u.power
  mode : t.mode = u.mode
  pins : t.pins = u.pins
  auth : t.auth = u.auth
  tack : t.tack = u.tack
  cfg : t.cfg = u.cfg
  poll : t.poll = u.poll
  snap : t.snap = u.snap
  time : t.time = u.time
  boryel : t.boryel = u.boryel
  canA : t.canA = u.canA
  canB : t.canB = u.canB
  sports : t.sports = u.sports
  iports : t.iports = u.iports
  tports : t.tports = u.tports
  replay : t.replay = u.replay
  pending : t.pending = u.pending

/-- The command has one answer, the state `u`, but for the verdicts that its grants leave or use up (R46, R48). -/
def Gives (c : Instr) (s u : State) : Prop := ∃ v, exec c s = .next { u with verdicts := v }

/-- `t` is the hub after a power-on or brown-out reset of `s`, with reset causes `cause` (Table 04-2): everything but the
tack store, and the model's own counters and queue, at its reset value. A write job in progress is cut off (R111). -/
structure ColdReset (cause : BitVec 5) (s t : State) : Prop where
  fields : t = { State.reset with
    power := { State.reset.power with rstCause := cause }
    tack := { State.reset.tack with
      mem := t.tack.mem, uid := s.tack.uid, slots := s.tack.slots, counter := s.tack.counter, ringNext := s.tack.ringNext }
    pool := { State.reset.pool with allocs := t.pool.allocs, era := t.pool.era }
    tap := { State.reset.tap with seed := t.tap.seed }
    seed := t.seed
    pending := s.pending }
  store : s.tack.job = none → t.tack.mem = s.tack.mem

/-- `t` is the hub after a pin or soft reset of `s` that adds `cause` (Table 04-2): the fault log, the tack store, the cell
pool RAM and the blocks of a frozen trace ring stay (R67, R389), and everything else starts again. -/
structure WarmReset (cause : BitVec 5) (s t : State) : Prop where
  power : t.power = { State.reset.power with rstCause := s.power.rstCause ||| cause }
  mode : t.mode = State.reset.mode
  pins : t.pins = State.reset.pins
  cfg : t.cfg = State.reset.cfg
  poll : t.poll = State.reset.poll
  snap : t.snap = State.reset.snap
  time : t.time = State.reset.time
  rein : t.rein = State.reset.rein
  op : t.op = State.reset.op
  auth : t.auth = State.reset.auth
  queues : t.pool.queues = State.reset.pool.queues
  ram : t.pool.ram = s.pool.ram
  frozen : t.tap.frozen = s.tap.frozen
  ring : t.tap.kept = if s.tap.frozen then s.tap.kept ++ (queueOf 48 s).items else []
  faults : t.fault.total = s.fault.total
  log : t.fault.log.map (fun e => (e.code, e.island, e.ht, e.detail, e.epoch))
    = s.fault.log.map (fun e => (e.code, e.island, e.ht, e.detail, e.epoch))
  slots : t.tack.slots = s.tack.slots
  counter : t.tack.counter = s.tack.counter
  uid : t.tack.uid = s.tack.uid
  store : s.tack.job = none → t.tack.mem = s.tack.mem
  pending : t.pending = s.pending

/-- A good frame of the host is served: the Rein port listens (R131, R140, R141), and no replay turns host accesses away
(R380a). -/
def HostServed (s : State) : Prop := reinListens s = true ∧ s.replay.run = false

/-- The mode controller can take a mode request: no start-up, sleep, entry or hardware transition stands in its way (R70,
R79, R81). -/
def RequestsOpen (s : State) : Prop :=
  s.mode.cur ≠ .reset ∧ s.power.sleep = .awake ∧ s.mode.effective = false ∧ s.mode.hwCode = none

/-- `t` is `s` after a served MODE_REQ write of `v` that gives the mode controller the value `m`. -/
def AfterModeReq (v : Word) (m : ModeSt) (s t : State) : Prop :=
  OnlyRecords { s with mode := { m with req := v &&& 0xFF0F } } t

/-- The state in which an accepted command `c` takes effect: its counter stored, AUTH_OP clear, RESULT 1 (R115, R172, Table
08-7). -/
def accepted (c : AuthCmd) (s : State) : State :=
  { storeCounter c.ctr s with auth := { s.auth with
    op := 0, pend := none, result := 1, lslot := BitVec.ofNat 2 c.slot, fails := 0, lastAccepted := c.op &&& 0x03FF } }

/-- The hub is not dead, `c` is the command being decided, its OPC is `opc`, and every check of Table 08-2 passes. -/
def WillAccept (c : AuthCmd) (opc : Nat) (s : State) : Prop :=
  s.power.boot ≠ .dead ∧ s.auth.pend = some c ∧ c.opc = opc ∧ firstFailure c false s = none

/-- The codes of the long operations that OP_CMD starts (Table 08-4). -/
def opCodes : List Nat := [1, 2, 3, 5, 6, 7, 8, 9, 0xA, 0xB]

/-- The row of the table that starts the operation of a code. -/
def opRow (code : Nat) : Instr :=
  match code with
  | 1 => .selfTest
  | 2 => .rollCall
  | 3 => .autoRate
  | 5 => .profileLoad
  | 6 => .traceDrain
  | 7 => .queueFlush
  | 8 => .keyframeNow
  | 9 => .replayRun
  | 0xA => .flashProgram
  | _ => .endpointProbe

/-- The commands that decide an authenticated command (Table 08-3). -/
def decidesCommand (c : Instr) : Bool :=
  match c with
  | .profileSelect .. => true
  | .profileCommit .. => true
  | .endpointCommit .. => true
  | .keyLoad .. => true
  | .farrierEnter .. => true
  | .tackErase .. => true
  | .replayLoad .. => true
  | .pinmuxLock .. => true
  | _ => false

/-- The commands after which the tack store may hold other bytes: a stored counter (R172) and a write job (R110, R113). -/
def writesTack (c : Instr) : Bool :=
  match c with
  | .profileSelect .. => true
  | .profileCommit .. => true
  | .endpointCommit .. => true
  | .keyLoad .. => true
  | .farrierEnter .. => true
  | .tackErase .. => true
  | .replayLoad .. => true
  | .pinmuxLock .. => true
  | .tackWriteJobDone .. => true
  | _ => false

/-- The commands that change a key slot (R175). -/
def writesSlot (c : Instr) : Bool :=
  match c with
  | .keyLoad .. => true
  | .keyLoadDone .. => true
  | _ => false

/-- The commands after which PM_CTRL.LOCK may have changed: PINMUX_LOCK (R35), recorded ones among them, and what can reset the hub. -/
def setsLock (c : Instr) : Bool :=
  match c with
  | .pinmuxLock .. => true
  | .replayRecord .. => true
  | .powerOnReset .. => true
  | .brownOutReset .. => true
  | .resetPin .. => true
  | .resetRequest .. => true
  | .modeRequest .. => true
  | .reinFrame .. => true
  | .registerWrite .. => true
  | .winDataWrite .. => true
  | _ => false

/-- The commands that can enter a mode (R64, R69 to R93): what can reset the hub, the first mode, a boundary, the seal, a wake, Farrier and the way
back, and a lost clock; a replay record is listed for the recorded writes that it carries. -/
def entersMode (c : Instr) : Bool :=
  match c with
  | .powerOnReset .. => true
  | .brownOutReset .. => true
  | .resetPin .. => true
  | .resetRequest .. => true
  | .modeRequest .. => true
  | .reinFrame .. => true
  | .registerWrite .. => true
  | .winDataWrite .. => true
  | .refclkMeasured .. => true
  | .resetProfileLoadDone .. => true
  | .baseEpochBoundary .. => true
  | .stabledSeal .. => true
  | .wakeTargetEntry .. => true
  | .farrierExitReload .. => true
  | .farrierEnter .. => true
  | .clockLossTimeout .. => true
  | .crystalStop .. => true
  | .replayRecord .. => true
  | _ => false

/-- Lane `i` is ready and stands at step `st` of its script. -/
def StandsAt (i : Nat) (st : Step) (s : State) : Prop := (laneOf i s).wait = .ready ∧ stepOf i s = some st

/-- The conditions of R200 for the trigger part of endpoint `n` in the epoch before its due epoch. -/
def MayRunAhead (n : Nat) (s : State) : Prop :=
  let d := descOf (running s) n
  d.ra = true ∧ d.port ≠ 0xE ∧ hasSplit (running s) d.script = true ∧ s.time.epochOn = true ∧ (actMode s).polls = true ∧
  s.poll.waiting = [] ∧ aheadBarred s = false ∧ commitWaits n s = false ∧ epRuns n s = false ∧
  n ∉ s.poll.endedAhead ∧ unitFailed 16 s = false ∧
  epDue n (epochNumber (s.time.epochIx + 1) s) (actMode s) s = true

/-- A frame of `CanFrame` may end a reception of channel `ch` that begins now, and is not one of Boryel sync (R273). -/
def PlainReception (ch : Chan) (f : CanFrame) (s : State) : Prop :=
  s.replay.run = false ∧ mayReceive ch f s = true ∧ frameOk f = true ∧ isBoryel ch f s = false

/-- `t` is the sealed hub `s` whose wake has begun by source `src`, for a frame-error overflow if `feo` (R88, Table 04-12). -/
def Woken (src : Nat) (feo : Bool) (s t : State) : Prop :=
  let c := setBit ((s.power.wakeCause &&& 0xF8FF) ||| BitVec.ofNat 16 (256 * src)) src
  t = { s with
    power := { s.power with
      sleep := .waking, pwrHold := true, dropRunning := false, measured := false
      wakeCause := if feo then setBit c 5 else c
      wakeTarget := if s.power.wakeTarget = .leadrein then .leadrein else wakeTargetOf src s }
    cfg := { s.cfg with status := t.cfg.status }
    verdicts := t.verdicts }

end Sys2Proof.Safety
end

