-- ==== Sys2Proof/Certificates/Slice0/Obligations.lean ====
section
/-! DEFINITION. The statements for the provers. Each says what one or more commands do, or what every step keeps; its
docstring names the rules of the spec that it draws on, or the log entries it rests on. -/

open Sys2Proof Sys2Proof.Machine Sys2Proof.Safety

/-! ## The machine as a whole -/

/-- A step takes the command at the front of the queue: it is `exec` of that command on the hub with the rest waiting. -/
def Obligations.StepRunsTheFrontCommand : Prop :=
  ∀ (s : State) (c : Instr) (rest : List Instr), s.pending = c :: rest → step s = exec c { s with pending := rest }

/-- With nothing waiting the hub idles (the model's choice, log entry 1), and no command is ever turned away. -/
def Obligations.NothingIsTurnedAway : Prop :=
  (∀ s : State, s.pending = [] → step s = .next s) ∧ ∀ (c : Instr) (s : State), ∃ t, exec c s = .next t

/-- The state after a power-on reset meets the invariant: canonical memories, the counts of the spec, no key slot waiting.
-/
def Obligations.ResetMeetsInvariant : Prop := Inv State.reset

/-- Every step keeps the invariant, from every state that meets it. -/
def Obligations.StepKeepsInvariant : Prop := ∀ s t : State, Inv s → step s = .next t → Inv t

/-- R167: a locked slot is never changed again. -/
def Obligations.LockedSlotNeverChanges : Prop :=
  ∀ (s t : State) (i : Nat) (k : KeySlot), Inv s → step s = .next t → s.tack.slots[i]? = some k → k.state = 2 →
    t.tack.slots[i]? = some k

/-- The stored counter never falls, the identity never changes, and a command leaves the queue behind it as it is (R168,
R172, chapter 05; the queue is the model's). -/
def Obligations.StepKeepsCounterIdentityQueue : Prop :=
  ∀ s t : State, Inv s → step s = .next t →
    s.tack.counter.toNat ≤ t.tack.counter.toNat ∧ t.tack.uid = s.tack.uid ∧ t.pending = s.pending.tail

/-- R35, R64, R69 to R93, R110, R113, R172, R175: which commands can change the mode, the tack store, a key slot, the stored
counter and PM_CTRL.LOCK. Every other command leaves them as they are; the tack store, while no write job is in progress. -/
def Obligations.OnlyTheseChange : Prop :=
  ∀ (c : Instr) (s t : State), exec c s = .next t →
    (entersMode c = false → t.mode.cur = s.mode.cur) ∧
    (writesTack c = false → s.tack.job = none → t.tack.mem = s.tack.mem) ∧
    (writesSlot c = false → t.tack.slots = s.tack.slots) ∧
    (decidesCommand c = false → t.tack.counter = s.tack.counter) ∧
    (setsLock c = false → t.pins.lock = s.pins.lock)

/-! ## Resets and power-up (chapter 04) -/

/-- R66, R67, R80, R389, Table 04-2: every reset completes. From every state, POWER_ON_RESET and BROWN_OUT_RESET put everything
but the tack store at its reset value, with RSTCAUSE 1 after a power-on, and a brown-out's cause added to RSTCAUSE.
RESET_PIN from every state, and RESET_REQUEST (MODE_REQ with REQ 8 and KEY 0xA5) whatever the mode and whatever runs, where
the Rein port receives frames: each adds its cause to RSTCAUSE and keeps the fault log, the tack store, the cell pool RAM
and a frozen trace ring, while everything else starts again. -/
def Obligations.Resets : Prop :=
  ((∀ s : State, ∃ t, exec .powerOnReset s = .next t ∧ ColdReset 1 s t) ∧
   ∀ (core : Bool) (s : State), ∃ t, exec (.brownOutReset core) s = .next t ∧
     ColdReset (s.power.rstCause ||| (if core then 4 else 2)) s t) ∧
  (∀ s : State, ∃ t, exec .resetPin s = .next t ∧ WarmReset 8 s t) ∧
  ∀ s : State, reinListens s = true → ∃ t, exec .resetRequest s = .next t ∧ WarmReset 16 s t

/-- Table 04-4, R262: the steps of the start-up, each from the phase before it; with the lock of the PLL hub time starts, and
the blocks of a kept trace ring are attached to queue 48 again. -/
def Obligations.StartUp : Prop :=
  (∀ psel s, s.power.boot = .held → exec (.resetRelease psel) s = .next { s with
    power := { s.power with boot := .starting, psel := psel }, tack := { s.tack with sel := psel } }) ∧
  (∀ s, s.power.boot = .starting →
    exec (.startChecksDone none) s = .next { s with power := { s.power with boot := .answering } }) ∧
  (∀ i s, s.power.boot = .starting → ∃ t, exec (.startChecksDone (some i)) s = .next t ∧
    OnlyRecords { s with power := { s.power with boot := .dead } } t ∧ t.fault.code = 0x34) ∧
  (∀ kHz s, measuring s = true → freqCode kHz ≠ 0 → exec (.refclkMeasured kHz) s = .next { s with
    power := { s.power with measured := true, freq := BitVec.ofNat 3 (freqCode kHz), freqBad := false } }) ∧
  ∀ slept s, s.power.boot = .answering → s.power.sleep = .awake → s.power.measured = true → s.power.pllLocked = false →
    s.power.clockLost = false → s.time.now = 0 → ∃ t, exec (.pllLock slept) s = .next t ∧
      t = { s with
        power := { s.power with pllLocked := true }, time := { s.time with run := true }, pool := t.pool
        tap := { s.tap with kept := [] } } ∧
      (s.tap.kept = [] → t.pool = s.pool) ∧
      (s.tap.kept ≠ [] → s.pool.queues.length = 64 → (queueOf 48 t).items = s.tap.kept)

/-- R64, R69, R77, R88, R93, step 10 of Table 04-9: with the profiles read the hub runs, and Halter is entered, or Lead-rein
where no user profile is valid or the clock is lost; a wake enters its target, or Lead-rein where a fault has chosen it or
the user profile is invalid; a return from Farrier reads the profiles again and enters Halter, or Lead-rein. -/
def Obligations.ModeEntries : Prop :=
  (∀ s, s.power.boot = .answering → (s.power.pllLocked = true ∨ s.power.clockLost = true) →
     ∃ t, exec .resetProfileLoadDone s = .next t ∧ t.power.boot = .running ∧ t.mode.hwch = true ∧
       t.mode.cur = (if (loadProfiles s).tack.usrOk && !s.power.clockLost then Mode.halter else Mode.leadrein)) ∧
  (∀ low s, s.power.sleep = .waking → (s.power.pllLocked = true ∨ s.power.clockLost = true) →
     ∃ t, exec (.wakeTargetEntry low) s = .next t ∧ t.power.sleep = .awake ∧ t.power.bankLow = low ∧ t.mode.hwch = true ∧
       t.mode.cur = (if s.power.wakeTarget = .leadrein ∨ s.tack.usrOk = false then Mode.leadrein else s.power.wakeTarget)) ∧
  (∀ s, s.mode.farrierExit = true → ∃ t, exec .farrierExitReload s = .next t ∧ t.mode.farrierExit = false ∧
     t.power.sleep = s.power.sleep ∧
     t.mode.cur = (if (reloadProfiles s).tack.usrOk then Mode.halter else .leadrein))

/-! ## Stabled and wake (chapter 04) -/

/-- R87, R88, R91, Table 04-8: while sealed, an enabled source begins the wake, sets its cause bit and FIRST, and its target
is the one that MP_WAKE_TGT names for it unless a fault has chosen Lead-rein; a source that is not enabled does nothing. A
wake frame reaches no queue, and counts as a valid frame of its watcher (R298); REIN_SDO stays undriven in the waking
frame (R141). -/
def Obligations.WakeSources : Prop :=
  ∀ (s : State) (ch : Chan), s.power.sleep = .sealed →
    (∃ t, exec (.wakeDominantEdge ch) s = .next t ∧ if wakeMode ch s = 1 then Woken (chanNum ch) false s t else t = s) ∧
    (∀ f, ∃ t, exec (.wakeFrame ch f) s = .next t ∧
      if wakeMode ch s = 2 ∧ isWakeFrame ch f s = true then Woken (chanNum ch) false (watchFrame ch .valid s) t else t = s) ∧
    (∃ t, exec (.wakeFrameErrorOverflow ch) s = .next t ∧
      if wakeMode ch s = 2 ∧ 32 ≤ (canOf ch s).wErr then Woken (chanNum ch) true s t else t = s) ∧
    (∀ rising, ∃ t, exec (.wakePinEdge rising) s = .next t ∧
      if s.power.wakeCfg.getLsbD (if rising then 4 else 5) then Woken 2 false s t else t = s) ∧
    (let u := { s with rein := { s.rein with miso := none } }
     ∃ t, exec .wakeReinCs s = .next t ∧ if s.power.wakeCfg.getLsbD 6 then Woken 3 false u t else t = u) ∧
    (∃ t, exec .wakeTimer s = .next t ∧ if s.power.wakeCfg.getLsbD 7 then Woken 4 false s t else t = s)

/-- R85, R86, R92, R298: 10 ms after a Stabled entry every pin change that waits attaches; when everything has stopped the
hub is sealed: MODE_STAT shows Stabled with nothing pending, hub time stops at its value, no bank has a snapshot, and with a
watcher that has fired the wake begins at once; DROP_DLY after the seal PWR_HOLD goes low; a watcher frame moves the
counters of its channel's watcher and nothing else. -/
def Obligations.StabledEntry : Prop :=
  (∀ s, s.power.sleep = .quiescing → s.pins.pins.length = 59 → ∃ t, exec .stabledQuiesceTimeout s = .next t ∧
     pinsPending t = 0 ∧ t.power.sleep = .quiescing ∧ t.mode.cur = s.mode.cur) ∧
  (∀ s, s.power.boot = .running → s.power.sleep = .quiescing → quiesced s = true → ∃ t, exec .stabledSeal s = .next t ∧
     t.mode.cur = .stabled ∧ t.mode.tgt = .stabled ∧ t.mode.pend = false ∧
     t.power.sleep = (if s.power.earlyWake then SleepPhase.waking else .sealed) ∧
     t.time.run = false ∧ t.time.now = s.time.now ∧ t.snap.newest = 0 ∧ t.snap.staging = 0 ∧
     t.pending = s.pending) ∧
  ((∀ s, s.power.sleep = .sealed → s.power.dropRunning = true →
     Gives .pwrHoldDrop s { s with power := { s.power with pwrHold := false, dropRunning := false } }) ∧
   ∀ (ch : Chan) (s : State), s.power.sleep = .sealed → wakeMode ch s = 2 →
     exec (.wakeWatcherFrame ch .errored) s = .next (modCan ch (fun c => { c with wErr := c.wErr + 1 }) s) ∧
     exec (.wakeWatcherFrame ch .valid) s = .next (modCan ch (fun c => { c with wErr := c.wErr - 1 }) s) ∧
     exec (.wakeWatcherFrame ch .fd) s =
       .next (modCan ch (fun c => { c with wErr := c.wErr - 1, wFd := min 255 (c.wFd + 1) }) s))

/-! ## Mode requests (R70, R74 to R84) -/

/-- R70, R74, R76 to R79, R84: which mode requests are refused, and with which reason. A refused request changes neither CUR
nor a pending transition. -/
def Obligations.ModeRequestRefused : Prop :=
  ∀ (v : Word) (s : State), HostServed s →
    let req := v.toNat % 16
    let refused := fun (why : BitVec 3) => ∃ t, exec (.modeRequest v) s = .next t ∧
      AfterModeReq v { s.mode with refused := true, rfs := why } s t
    1 ≤ req → req ≤ 6 →
    (v.toNat / 256 ≠ 0x5A → refused 5) ∧
    (v.toNat / 256 = 0x5A →
      (¬ RequestsOpen s → refused 6) ∧
      (RequestsOpen s →
        (req = 6 → refused 7) ∧
        (s.mode.cur = .farrier → req ≠ 2 → req ≠ 6 → refused 1) ∧
        (s.mode.cur ≠ .farrier → s.mode.cur ≠ .stabled → req = 1 → opRuns s = true → refused 2) ∧
        (s.mode.cur ≠ .farrier → s.mode.cur ≠ .stabled → req = 1 → opRuns s = false → s.power.wakeCfg &&& 0xFF = 0 →
          refused 3) ∧
        (s.mode.cur = .halter ∨ s.mode.cur = .leadrein → req = 3 ∨ req = 4 → s.tack.usrOk = false → refused 4)))

/-- R74, R77, R79: a request that is accepted becomes the pending target; one for the current mode cancels what is pending.
-/
def Obligations.ModeRequestAccepted : Prop :=
  ∀ (v : Word) (s : State), HostServed s → RequestsOpen s → v.toNat / 256 = 0x5A →
    let req := v.toNat % 16
    let becomes := fun (m : ModeSt) => ∃ t, exec (.modeRequest v) s = .next t ∧ AfterModeReq v m s t
    (s.mode.cur ≠ .farrier → 1 ≤ req → req ≤ 5 → modeOfReq req = s.mode.cur →
      becomes { s.mode with pend := false, tgt := if s.mode.pend then s.mode.cur else s.mode.tgt }) ∧
    (s.mode.cur ≠ .farrier → 2 ≤ req → req ≤ 5 → modeOfReq req ≠ s.mode.cur → s.tack.usrOk = true →
      becomes { s.mode with pend := true, tgt := modeOfReq req }) ∧
    (s.mode.cur = .canter ∨ s.mode.cur = .walk ∨ s.mode.cur = .leadrein → req = 1 → opRuns s = false →
      s.power.wakeCfg &&& 0xFF ≠ 0 → becomes { s.mode with pend := true, tgt := .stabled }) ∧
    (s.mode.cur = .farrier → req = 2 → ∃ t, exec (.modeRequest v) s = .next t ∧ t.power = s.power ∧ t.fault = s.fault ∧
      t.mode = { s.mode with
        req := v &&& 0xFF0F, pend := true, effective := true, tgt := .halter, farrierExit := true }) ∧
    (s.mode.cur = .halter → req = 1 → opRuns s = false → s.power.wakeCfg &&& 0xFF ≠ 0 →
      ∃ t, exec (.modeRequest v) s = .next t ∧ t.power.sleep = .quiescing ∧ t.mode.cur = .halter)

/-! ## Hub time, epochs and snapshots (chapter 10) -/

/-- R214, R71, R241: inside an epoch a base boundary moves the time base on and counts down the epoch's span; at the end of
an epoch with no transition or switch due, that epoch waits for its cutoff; in a replay only the hub's own clock moves. -/
def Obligations.BaseBoundary : Prop :=
  ∀ (b : HubTime) (s : State), boundaryDue s = some b →
    let s1 := byApply { s with time := s.time.tick b }
    (s.replay.run = true → exec .baseEpochBoundary s = .next { s with replay := { s.replay with
      clock := { s.replay.clock.tick b with nextBoundary := some (b + BitVec.ofNat 48 (160 * s.time.period.toNat)) } } }) ∧
    (s.replay.run = false → s.time.epochOn = true → epochEnds s1 = false → ∃ t, exec .baseEpochBoundary s = .next t ∧
      t.time.baseCount = s.time.baseCount + 1 ∧ t.time.now = (s.time.moveTo b).now ∧ t.time.epochOn = true ∧
      t.time.epochIx = s.time.epochIx ∧ t.time.walkLeft = s.time.walkLeft - 1 ∧ t.mode.cur = s.mode.cur) ∧
    (s.replay.run = false → s.time.epochOn = true → epochEnds s1 = true → s.mode.pend = false → s.mode.hwCode = none →
      s.tack.swPend = false → s.tack.swFailed = false → ∃ t, exec .baseEpochBoundary s = .next t ∧
      t.time.baseCount = s.time.baseCount + 1 ∧ t.time.now = (s.time.moveTo b).now ∧ t.time.epochIx = s.time.epochIx + 1 ∧
      t.mode.cur = s.mode.cur ∧ ∃ e, t.time.ended = some e ∧ e.ix = s.time.epochIx ∧ e.endHt = b ∧
        e.startHt = s.time.epochStart ∧ e.cutoff = b + BitVec.ofNat 48 (16 * e.guard))

/-- R48, R228, R233, R398: at the cutoff the staging bank becomes the newest; with the snapshot commit unit recovering the
epoch is skipped instead, as it is where its bank has an uncorrectable word; one of the running configuration raises fault 0x14,
and ends USR_OK, or in Lead-rein all service but the kernel's; in a replay nothing happens before the recorded verdict of point
154 names the commit. -/
def Obligations.SnapshotCommit : Prop :=
  (∀ (ecc : CommitEcc) (s : State), heldUp 154 true s = true → exec (.snapshotCommit ecc) s = .next s) ∧
  ∀ (e : EndedEpoch) (s : State), s.time.ended = some e → s.power.sleep = .awake → s.power.lrDrop1.getLsbD 1 = false →
    heldUp 154 true s = false →
    (s.snap.recovering = false → ∀ bad, ∃ t, exec (.snapshotCommit ⟨none, bad, none⟩) s = .next t ∧
      t.snap.newest = s.snap.staging ∧ t.snap.commits = s.snap.commits + 1 ∧ t.time.ended = none ∧
      t.time.skipped = s.time.skipped ∧ t.mode.cur = s.mode.cur) ∧
    (s.snap.recovering = true → ∀ bad, ∃ t, exec (.snapshotCommit ⟨none, bad, none⟩) s = .next t ∧
      t.snap.newest = s.snap.newest ∧ t.snap.commits = s.snap.commits ∧ t.time.ended = none ∧
      t.time.skipped = s.time.skipped + 1 ∧ t.mode.cur = s.mode.cur) ∧
    (∀ off bad, ∃ t, exec (.snapshotCommit ⟨some off, bad, none⟩) s = .next t ∧
      t.snap.newest = s.snap.newest ∧ t.snap.commits = s.snap.commits ∧ t.time.ended = none ∧
      t.time.skipped = s.time.skipped + 1) ∧
    ∀ st bad w, ∃ t, exec (.snapshotCommit ⟨st, bad, some w⟩) s = .next t ∧
      (s.mode.cur = .leadrein → t.mode.konly = true ∧ t.fault.active.getLsbD 4 = true) ∧
      (s.mode.cur ≠ .leadrein → t.tack.usrOk = false ∧ t.fault.active.getLsbD 4 = true)

/-- R229, R230: the forward fill writes every slot of the staging bank that has not been written since the commit, and
touches nothing else; the CRC of the newest bank is written once, and CRCV becomes 1. -/
def Obligations.BankUpkeep : Prop :=
  (∀ s, s.snap.fill = true → s.snap.staging ≠ 0 → ∃ t, exec .forwardFillEnd s = .next t ∧
     t = { s with snap := t.snap, verdicts := t.verdicts } ∧ t.snap.fill = false ∧ t.snap.early = [] ∧ t.snap.newest = s.snap.newest ∧
     (∀ n, n < 256 → slotOf (stagingBank s) n t = stagedSlot n s) ∧
     ∀ k, k ≠ stagingBank s → bankOf k t = bankOf k s) ∧
  (∀ s, s.snap.newest ≠ 0 → (bankOf (newestBank s) s).hdr.crcv = 0 → ∃ t, exec .bankCrcWritten s = .next t ∧
     OnlyRecords (modBank (newestBank s)
       (fun k => { k with hdr := { k.hdr with crc := bankCrc (bankOf (newestBank s) s), crcv := 1 } }) s) t)

/-- R234, R235: the pin is set on the newest bank, or refused with ADRE while there is none; it is released by the host, or
by its time limit, which reports PIN_LOST. -/
def Obligations.SnapshotPin : Prop :=
  (∀ (tmo : Byte) (clear : Bool) (s : State), HostServed s →
    let kept := { s.snap with pinTmo := tmo, pinLost := s.snap.pinLost && !clear }
    (∃ t, exec (.snapPinSet tmo clear) s = .next t ∧
      if s.snap.newest = 0 then OnlyRecords { s with snap := kept } t ∧ t.rein.adre = true
      else OnlyRecords { s with snap :=
          { kept with pinned := s.snap.newest, pinCommits := 0, pinAt := s.time.now, new := false } } t ∧
        t.rein.adre = false) ∧
    ∃ t, exec (.snapPinRelease tmo clear) s = .next t ∧
      OnlyRecords { s with snap := { kept with pinned := 0, pinCommits := 0 } } t ∧ t.rein.adre = false) ∧
  ∀ s, s.snap.pinTmo ≠ 0 → s.snap.pinned ≠ 0 → ∃ t, exec .snapPinExpiry s = .next t ∧
    OnlyRecords { s with snap := { s.snap with pinned := 0, pinCommits := 0, pinLost := true } } t ∧
    t.attn.src = setBit s.attn.src 14

/-- R36, R212, R239, R241: the EPOCH pulse ends; hub time wraps from its largest value to 0 and records it; a follower that
has heard no valid pair for LOSS_N intervals loses lock; a leader that had yielded leads again while it may lead. -/
def Obligations.PulseWrapAndBoryel : Prop :=
  ((∀ s, exec .epochPulseEnd s = .next { s with pins := { s.pins with epochActive := false } }) ∧
   ∀ s, s.replay.run = false → s.time.run = true → s.power.lrDrop1.getLsbD 2 = false → s.time.now = 0xFFFF_FFFF_FFFF →
     exec .hubTimeWrap s = .next { s with time := { s.time with now := 0, wrap := true } }) ∧
  ((∀ s, s.boryel.leading = false → s.boryel.lock = true → ∃ t, exec .boryelLockLossTimeout s = .next t ∧
     OnlyRecords { s with boryel := { s.boryel with lock := false, loss := true, pairs := 0 } } t ∧
     t.attn.src = setBit s.attn.src 12) ∧
   (∀ s, s.boryel.leading = true → exec .boryelLockLossTimeout s = .next s) ∧
   ∀ s, s.boryel.yielded = true → s.boryel.leading = false →
     let resumed := { s with boryel := { s.boryel with yielded := false, rx := none } }
     exec .boryelLeadResume s = .next (if mayLead resumed
       then gainLock { resumed with boryel := { resumed.boryel with leading := true, pairs := 0 } } else resumed))

/-! ## Faults and recovery (chapter 17) -/

/-- R396, R419: a lost clock drops the time base, stops hub time and turns Walk and Canter into Lead-rein; an unlocked PLL
clears its lock, and a relock within 100 µs brings it back with fault 0x21, while the mode stays. -/
def Obligations.ClockAndPll : Prop :=
  (∀ (t0 : HubTime) (s : State), s.power.boot = .running → s.power.clockLost = false →
     let lost := fun (t : State) =>
       t.power.clockLost = true ∧ t.power.pllLocked = false ∧ t.power.lrDrop1.getLsbD 2 = true ∧
       t.fault.code = 0x20 ∧ faultActive 0x20 t = true ∧
       (s.replay.run = false → t.time.run = false) ∧
       t.mode.cur = (if s.power.sleep = .awake ∧ s.mode.cur.records = true then Mode.leadrein else s.mode.cur)
     (s.power.pllLocked = false → s.power.sleep = .awake ∨ s.power.sleep = .quiescing →
       ∃ t, exec (.clockLossTimeout t0) s = .next t ∧ lost t) ∧
     (s.power.crystalStopped = false → s.power.sleep ≠ .sealed →
       ∃ t, exec (.crystalStop t0) s = .next t ∧ lost t ∧ t.power.crystalStopped = true)) ∧
  ((∀ s, s.power.boot = .running → s.power.pllLocked = true → ∃ t, exec .pllUnlock s = .next t ∧
     t.power.pllLocked = false ∧ t.fault = s.fault ∧ t.mode.cur = s.mode.cur) ∧
   ∀ lasted t0 s, s.power.boot = .running → s.power.pllLocked = false → s.power.clockLost = false → s.power.sleep = .awake →
     lasted ≤ 1600 → ∃ t, exec (.pllRelock lasted t0) s = .next t ∧
       t.power.pllLocked = true ∧ t.fault.code = 0x21 ∧ t.fault.active = s.fault.active ∧ t.mode.cur = s.mode.cur)

/-- Table 17-1, R30, R388, R397: the supply faults. A low VSUP only logs fault 0x25; a bank out of range is remembered with
fault 0x24, which ends when every supply is back, but not in Stabled. -/
def Obligations.Supplies : Prop :=
  (∀ t0 s, s.power.boot ≠ .held → ∃ t, exec (.vsupLow t0) s = .next t ∧ OnlyRecords (advance t0 s) t ∧ t.fault.code = 0x25 ∧
    t.fault.active = s.fault.active) ∧
  (∀ s, ∃ t, exec .vsupLowEnd s = .next t ∧ t = { s with fault := { s.fault with active := t.fault.active } } ∧
    faultActive 0x25 t = false ∧ ∀ c, 0x10 ≤ c → c < 0x50 → c ≠ 0x25 → faultActive c t = faultActive c s) ∧
  (∀ low t0 s, s.power.boot ≠ .held → s.power.sleep = .awake → s.power.pwrHold = true →
    s.power.bankLow ||| low ≠ s.power.bankLow →
    ∃ t, exec (.bankSupplyLow low t0) s = .next t ∧
      t.power.bankLow = s.power.bankLow ||| low ∧ t.fault.code = 0x24 ∧ faultActive 0x24 t = true ∧ t.mode.cur = s.mode.cur) ∧
  ∀ s, s.power.bankLow ≠ 0 → ∃ t, exec .bankSupplyReturn s = .next t ∧ t.power.bankLow = 0 ∧ t.mode.cur = s.mode.cur ∧
    faultActive 0x24 t = (if s.power.sleep = .sealed ∨ s.power.sleep = .waking then faultActive 0x24 s else false)

/-- R390 to R395: an island that misses its probe or a handshake is restarted; a kernel island ends all service; an island
that cannot be restarted fails its unit. A restart that is done lets the island rejoin, and a sweep is counted. -/
def Obligations.IslandWatch : Prop :=
  let hit := fun (island : Fin 264) (s : State) (t : State) =>
    let u := unitOf island.val
    (u = 26 → t.power.boot = .dead ∧ t.mode.cur = s.mode.cur) ∧
    (u ≠ 26 → unitFailed u s = false → island.val ∉ s.fault.restarting →
      (noRestart island.val = true → unitFailed u t = true) ∧
      (noRestart island.val = false → secondFault u s = false → island.val ∈ t.fault.restarting))
  (∀ island t0 s, watched s = true → (unitOf island.val = 26 ∨ unitFailed 23 s = false) →
    ∃ t, exec (.livenessProbeTimeout island t0) s = .next t ∧ hit island (advance t0 s) t) ∧
  (∀ receiver sender t0 s, watched s = true →
    ∃ t, exec (.hitchTimeout receiver sender t0) s = .next t ∧ hit receiver (advance t0 s) t) ∧
  (∀ island s, island.val ∈ s.fault.restarting → ∃ t, exec (.islandRestartDone island) s = .next t ∧
    t.fault = { s.fault with restarting := s.fault.restarting.filter (fun i => i != island.val) } ∧
    t.mode.cur = s.mode.cur) ∧
  ∀ s, watched s = true → unitFailed 23 s = false →
    exec .livenessSweep s = .next { s with fault := { s.fault with sweeps := s.fault.sweeps + 1 } }

/-! ## The Rein port (chapter 06) -/

/-- R120 to R122, R124, R127, R128, R131, R140, R141: what the hub sends in a frame: nothing at all, the busy pattern, or a
genuine reply, which carries the result and the flags of the frame before, low after the 40th bit; a frame of correct length with a wrong CRC, or
with a wrong ALV, changes nothing but its own flag and the expected ALV; a good frame that writes a scratch register writes
it, and its result goes to the next reply. -/
def Obligations.ReinFrames : Prop :=
  (∀ (bytes : List Byte) (edges : Nat) (gap : CsGap) (ecc : Ecc) (t0 : HubTime) (s : State),
     let u := advance t0 s
     let c := Instr.reinFrame bytes edges gap ecc t0
     (edges = 0 → exec c s = .next u) ∧
     (edges ≠ 0 → reinSilent u = true → exec c s = .next { u with rein := { u.rein with miso := none } }) ∧
     (edges ≠ 0 → reinSilent u = false → reinBusy gap u = true →
       exec c s = .next { u with rein := { u.rein with
         miso := some (sentBytes edges [0xC3, 0x3C, 0xC3, 0x3C, 0xC3]) } }) ∧
     (edges ≠ 0 → reinSilent u = false → reinBusy gap u = false → edges ≠ 40 →
       Gives c s { u with rein := { u.rein with
         miso := some (sentBytes edges (genuineReply u)), dalv := u.rein.dalv + 1, rptOld := u.rein.rptNew
         rptNew := u.rein.res, crce := false, alve := false, adre := false, lene := true } })) ∧
  (∀ (bytes : List Byte) (gap : CsGap) (ecc : Ecc) (t0 : HubTime) (s : State),
     let u := advance t0 s
     let c := Instr.reinFrame bytes 40 gap ecc t0
     let alv := BitVec.ofNat 4 ((bytes.getD 3 0).toNat / 16)
     let replied := { u.rein with
       miso := some (genuineReply u), dalv := u.rein.dalv + 1, rptOld := u.rein.rptNew, rptNew := u.rein.res
       crce := false, alve := false, adre := false, lene := false }
     reinSilent u = false → reinBusy gap u = false →
     (crc8 (bytes.take 4) ≠ bytes.getD 4 0 →
       Gives c s { u with rein := { replied with crce := true, expAlv := u.rein.expAlv + 1 } }) ∧
     (crc8 (bytes.take 4) = bytes.getD 4 0 → u.rein.anyAlv = false → alv ≠ u.rein.expAlv →
       Gives c s { u with rein := { replied with alve := true, expAlv := alv + 1, anyAlv := false } })) ∧
  (∀ (bytes : List Byte) (gap : CsGap) (ecc : Ecc) (t0 : HubTime) (s : State) (k : Nat),
     let u := advance t0 s
     let alv := BitVec.ofNat 4 ((bytes.getD 3 0).toNat / 16)
     let v := BitVec.ofNat 16 ((bytes.getD 1 0).toNat * 256 + (bytes.getD 2 0).toNat)
     k < 8 → (bytes.getD 0 0).toNat = 0xF8 + k → crc8 (bytes.take 4) = bytes.getD 4 0 →
     (u.rein.anyAlv = true ∨ alv = u.rein.expAlv) → reinSilent u = false → reinBusy gap u = false → s.tap.recording = false →
     exec (.reinFrame bytes 40 gap ecc t0) s = .next { u with
       rein := { u.rein with
         miso := some (genuineReply u), dalv := u.rein.dalv + 1, rptOld := u.rein.rptNew, rptNew := u.rein.res
         crce := false, alve := false, adre := false, lene := false, expAlv := alv + 1, anyAlv := false, res := v }
       attn := { u.attn with scratch := u.attn.scratch.set k v } })

/-! ## The register file (chapter 07) -/

/-- R8, R138, R156, Tables 07-3 and 07-5 to 07-7: register writes of the host: a scratch word, the attention mask, the
arguments of a long operation and AGE_LIMIT take the value, as EPOCH_PERIOD does from 25 on; a write of an unassigned
address is refused with ADRE and changes nothing. -/
def Obligations.RegisterWrites : Prop :=
  ∀ (v : Word) (t0 : HubTime) (s : State), HostServed s →
    let u := advance t0 s
    let writes := fun (a : BitVec 7) (r : State → Prop) => ∃ t, exec (.registerWrite a v t0) s = .next t ∧ r t
    (∀ k, k < 8 → writes (BitVec.ofNat 7 (0x78 + k)) fun t => OnlyRecords u t ∧ t.attn.scratch = s.attn.scratch.set k v) ∧
    (writes 0x04 fun t => OnlyRecords u t ∧ t.attn.mask = v) ∧
    (writes 0x0A fun t => OnlyRecords u t ∧ t.op.arg0 = v) ∧
    (writes 0x0B fun t => OnlyRecords u t ∧ t.op.arg1 = v) ∧
    (writes 0x0C fun t => OnlyRecords u t ∧ t.op.arg2 = v) ∧
    (writes 0x0D fun t => OnlyRecords u t ∧ t.op.arg3 = v) ∧
    (writes 0x1F fun t => OnlyRecords { u with snap := { u.snap with ageLimit := v } } t) ∧
    (writes 0x1D fun t => OnlyRecords (if v.toNat < 25 then u else { u with time := { u.time with period := v } }) t) ∧
    ∀ a : BitVec 7, (0x2B ≤ a ∧ a ≤ 0x2F) ∨ (0x5D ≤ a ∧ a ≤ 0x5F) ∨ (0x74 ≤ a ∧ a ≤ 0x77) → writes a fun t => OnlyRecords u t ∧
      t.rein.adre = true ∧ (s.tap.recording = false → t.attn = u.attn ∧ t.op = u.op ∧ t.pool = u.pool)

/-- R135: WIN_ADDR_HI and WIN_ADDR_LO are the two halves of the window address; a write changes only its own half, and one
of WIN_ADDR_LO with bit 0 set is refused with ADRE. And of two window accesses (R136, R137): at the address of MP_PWR the
access takes that register, at one between the mirror and 0x1000 a read gives 0 and each is refused with ADRE and WERR; the
window address moves on if AINC is set. -/
def Obligations.WindowAccess : Prop :=
  ∀ (v : Word) (ecc : Ecc) (t0 : HubTime) (s : State), HostServed s →
    let u := advance t0 s
    let half := fun (a : BitVec 7) (w : Long) => ∃ t, exec (.registerWrite a v t0) s = .next t ∧ OnlyRecords u t ∧
      t.rein.winAddr = w
    let moved := if s.rein.ainc then s.rein.winAddr + 2 else s.rein.winAddr
    (s.rein.winAddr = 0x1002 →
      Gives (.winDataRead ecc t0) s { u with rein := { u.rein with
        res := s.power.pwr, adre := false, winAddr := moved } } ∧
      ∃ t, exec (.winDataWrite v t0) s = .next t ∧ OnlyRecords { u with power := { u.power with pwr := v } } t ∧
        t.rein.winAddr = moved ∧ t.rein.werr = s.rein.werr) ∧
    (0x100 ≤ s.rein.winAddr.toNat → s.rein.winAddr.toNat < 0x1000 →
      Gives (.winDataRead ecc t0) s { u with rein := { u.rein with
        res := 0, adre := true, werr := true, winAddr := moved } } ∧
      ∃ t, exec (.winDataWrite v t0) s = .next t ∧ OnlyRecords u t ∧ t.rein.winAddr = moved ∧ t.rein.werr = true) ∧
    half 0x14 (v ++ s.rein.winAddr.extractLsb' 0 16) ∧
    (v.getLsbD 0 = false → half 0x15 (s.rein.winAddr.extractLsb' 16 16 ++ v)) ∧
    (v.getLsbD 0 = true → half 0x15 s.rein.winAddr ∧
      ∃ t, exec (.registerWrite 0x15 v t0) s = .next t ∧ t.rein.adre = true)

/-- R97, R132, R133, R139, R152: a read of the highest word of an epoch or a hub time latches the lower ones; a waiting read
ends with its word from the tack store, outside the pages that a write job is changing (R98), or from the line cache, or at
its time limit with 0x0000 and ADRE, or with the empty value of a queue. -/
def Obligations.ReadCommands : Prop :=
  (∀ (t0 : HubTime) (s : State), HostServed s →
     let u := advance t0 s
     let now := (hubNow u).toNat
     Gives (.latchingRead .snapEpochHi t0) s { u with
       snap := { u.snap with epochLatch := BitVec.ofNat 16 u.snap.epoch.toNat }
       rein := { u.rein with res := BitVec.ofNat 16 (u.snap.epoch.toNat / 65536), adre := false } } ∧
     Gives (.latchingRead .htHi t0) s { u with
       time := { u.time with midLatch := BitVec.ofNat 16 (now / 65536), loLatch := BitVec.ofNat 16 now }
       rein := { u.rein with res := BitVec.ofNat 16 (now / 2 ^ 32), adre := false } } ∧
     Gives (.latchingRead .rplDivHi t0) s { u with
       replay := { u.replay with divLatch := BitVec.ofNat 16 u.replay.divEpoch.toNat }
       rein := { u.rein with res := BitVec.ofNat 16 (u.replay.divEpoch.toNat / 65536), adre := false } }) ∧
  ((∀ (w : Long) (s : State), s.rein.slowPending = some w → 0x100000 ≤ w.toNat → w.toNat < 0x120000 →
     jobCovers (w.toNat - 0x100000) s = false →
     Gives (.slowReadComplete .ok) s { s with rein := { s.rein with
       slowPending := none, adre := false
       res := BitVec.ofNat 16 ((tackShown (w.toNat - 0x100000) s).toNat
         + 256 * (tackShown (w.toNat - 0x100000 + 1) s).toNat) } }) ∧
   (∀ (w : Long) (ecc : Ecc) (s : State), s.rein.slowPending = some w → 0x10000000 ≤ w.toNat → w.toNat < 0x11000000 →
     ∀ (bs : List Byte), cachedLine (lineOf (w.toNat - 0x10000000)) s = some bs →
     ∃ t, exec (.slowReadComplete ecc) s = .next t ∧ t.rein = { s.rein with
       slowPending := none, adre := false
       res := BitVec.ofNat 16 ((bs.getD (w.toNat % 32) 0).toNat + 256 * (bs.getD (w.toNat % 32 + 1) 0).toNat) }) ∧
   (∀ (w : Long) (s : State), s.rein.slowPending = some w → exec .slowReadTimeout s =
     .next { s with rein := { s.rein with slowPending := none, res := 0, adre := true, werr := true } }) ∧
   ∀ (q : StallSrc) (s : State), s.rein.stall = some q → Gives .stallTimeout s
     { s with rein := { s.rein with stall := none, res := 0x8000, adre := false } })

/-! ## The queues (chapter 11) -/

/-- R250: on a queue in priority order the item taken has the highest priority present, and every item committed before it
has a lower one; on any other queue it is the oldest. Taking an item loses no other. -/
def Obligations.DequeueOrder : Prop :=
  ∀ (x : Queue) (i : Item) (rest : List Item), x.next = some (i, rest) →
    ∃ before after, x.items = before ++ i :: after ∧ rest = before ++ after ∧
      if x.prio then (∀ j ∈ before, j.prio.toNat < i.prio.toNat) ∧ ∀ j ∈ after, j.prio.toNat ≤ i.prio.toNat
      else before = []

/-- R139, R252: a read of QM_DATA or EVQ_DATA returns the next word of the read item, or dequeues an item and returns its
header, or answers an empty queue: with the empty value, or by a stall. A queue that the host may not read answers ADRE. -/
def Obligations.QueueReads : Prop :=
  ∀ (stallOk : Bool) (t0 : HubTime) (s : State), HostServed s →
    let u := advance t0 s
    let reads := fun (c : Instr) (q : Nat) =>
      (qmgrDropped s = true ∨ hostReadable q = false → Gives c s (intoReply ⟨0, true, u⟩)) ∧
      (qmgrDropped s = false → hostReadable q = true →
        (∀ r, (queueOf q s).read = some r → Gives c s (intoReply ⟨r.word.1, false,
          modQueue q (fun x => { x with read := r.step, pois := x.pois || r.word.2 }) u⟩)) ∧
        ((queueOf q s).read = none → ∀ p, (queueOf q s).dequeueRead = some p →
          Gives c s (intoReply ⟨p.1, false, modQueue q (fun _ => p.2) u⟩)) ∧
        ((queueOf q s).read = none → (queueOf q s).dequeueRead = none → Gives c s (intoReply ⟨0x8000, false,
          if stallOk && s.pool.stallTmo != 0 then { u with rein := { u.rein with stall := some (.queue q) } } else u⟩)))
    reads (.qmDataRead stallOk .ok t0) (selQueue s) ∧ reads (.evqDataRead stallOk .ok t0) 56

/-- R245, R246, R251, R252, R256: a word enqueued by the host goes to its open item, which closes at 64 bytes, or opens an
item of one cell with priority HPRI, and is refused with NOSPACE where the reservation fails; a selection and CLOSE close
the host's open item, DISC ends the read item, GO starts a flush; a queue number or a flush that the spec excludes is
refused. -/
def Obligations.QueueWrites : Prop :=
  (∀ (v : Word) (s : State), HostServed s → s.tap.recording = false →
     let q := selQueue s
     let c := Instr.qmEnqWrite v
     (qmgrDropped s = true ∨ hostWritable q = false ∨ (queueOf q s).doom = true ∨ (queueOf q s).en = false →
       exec c s = .next (intoReply ⟨v, true, s⟩)) ∧
     (qmgrDropped s = false → hostWritable q = true → (queueOf q s).doom = false → (queueOf q s).en = true →
       (hostOpen s = none → canReserve q 1 s = true → s.tap.kept = [] →
         exec c s = .next (intoReply ⟨v, false, growHost q v (openItem q 1 .host s.pool.hpri s)⟩)) ∧
       (hostOpen s = none → canReserve q 1 s = false ∨ s.tap.kept ≠ [] →
         exec c s = .next (intoReply ⟨v, true, modQueue q (fun x => { x with nospace := true }) s⟩)) ∧
       ∀ p, hostOpen s = some p →
         exec c s = .next (intoReply ⟨v, false,
           if ((openOf p .host (growHost p v s)).map (fun o => o.bytes.length)).getD 0 ≥ 64 then closeHost (growHost p v s)
           else growHost p v s⟩))) ∧
  (∀ (v : Word) (s : State), HostServed s → s.tap.recording = false →
     let c := closeHost s
     let w := { c with pool := { c.pool with hpri := BitVec.ofNat 3 (v.toNat / 256) } }
     (queueExists (v.toNat % 64) = true → exec (.qmSelWrite v) s =
       .next (intoReply ⟨v, false, { w with pool := { w.pool with sel := BitVec.ofNat 6 v.toNat } }⟩)) ∧
     (queueExists (v.toNat % 64) = false → exec (.qmSelWrite v) s = .next (intoReply ⟨v, true, w⟩)) ∧
     (qmgrDropped s = false →
       exec .qmClose s = .next (intoReply ⟨0x0100, false, qmClose s⟩) ∧
       exec .qmDisc s = .next (intoReply ⟨0x0200, false, endRead (selQueue s) s⟩) ∧
       (noFlush (selQueue s) = false →
         exec .qmFlushGo s = .next (intoReply ⟨1, false, flushQueue (selQueue s) true false s⟩)) ∧
       (noFlush (selQueue s) = true → exec .qmFlushGo s = .next (intoReply ⟨1, true, s⟩))))

/-- R249, R256: the first waiting producer of a queue that can have its cells is granted them; a flush with nothing left to
wait for ends; after 1 ms a flush of the host's own item ends it as doomed. -/
def Obligations.GrantsAndFlushes : Prop :=
  (∀ (q : Fin 64) (who : Producer) (n : Nat) (s : State), qmgrDropped s = false → s.tap.kept = [] → who ≠ .drain →
    who ≠ .loader →
    s.pool.waiting.find? (fun w => w.2.1 == q.val && canReserve q.val w.2.2 s) = some (who, q.val, n) →
    ∃ t, exec (.reservationGrant q) s = .next t ∧ OnlyRecords s t ∧
      t.pool.waiting = dropFirst (fun w => w == (who, q.val, n)) s.pool.waiting ∧
      t.pool.queues = (openItem q.val n who 0 s).pool.queues) ∧
  (∀ (q : Fin 64) (s : State), (queueOf q.val s).flushDone = true → opRuns s = false →
    exec (.flushEnd q) s = .next (modQueue q.val (fun x => { x with flush := none }) s)) ∧
  ∀ (q : Fin 64) (o : OpenItem) (s : State), (queueOf q.val s).flush.isSome = true →
    (queueOf q.val s).opens = [o] → o.who = .host → o.doomed = true → opRuns s = false → s.pool.queues.length = 64 →
    ∃ t, exec (.flushAbortTimeout q) s = .next t ∧ OnlyRecords s t ∧ (queueOf q.val t).opens = [] ∧
      (queueOf q.val t).doom = true ∧ (queueOf q.val t).flush = none ∧
      t.pool.flushDrop = BitVec.ofNat 16 (min 0xFFFF (s.pool.flushDrop.toNat + 1))

/-- R243, R258, R259: POOL_SCRUB completes from every state, whatever it finds, and the mode stays: with the queue manager at
work, a corrected word is counted, a repaired link copy shown, an uncorrectable word in a cell that an item holds poisons
the item with fault 0x38, a lost link entry of such a cell drops the queue manager with fault 0x39, and a finding in a free
cell of either kind raises nothing; with the queue manager not at work only time goes on. -/
def Obligations.PoolScrub : Prop :=
  (∀ (found : List PoolFinding) (t0 : HubTime) (s : State),
     ∃ t, exec (.poolScrub found t0) s = .next t ∧ t.mode.cur = s.mode.cur ∧
       (poolWorks (advance t0 s) = false → t = advance t0 s)) ∧
  ∀ (t0 : HubTime) (s : State), poolWorks s = true →
    let scrub := fun (f : PoolFinding) (r : State → Prop) => ∃ t, exec (.poolScrub [f] t0) s = .next t ∧ r t
    scrub .corrected (fun t => t.pool.corr = BitVec.ofNat 8 (min 255 (s.pool.corr.toNat + 1)) ∧ t.fault = s.fault) ∧
    scrub .linkRepaired (fun t => t.pool.link = true ∧ t.fault = s.fault) ∧
    ∀ cell : Fin 4096,
      (holderOf cell.val s = none →
        (∀ word, scrub (.uncorrectable cell word) (fun t => t.pool.unc = s.pool.unc ∧ t.fault = s.fault)) ∧
        scrub (.linkLost cell) (fun t => t.power.lrDrop1 = s.power.lrDrop1 ∧ t.fault = s.fault)) ∧
      ∀ h, holderOf cell.val s = some h →
        (∀ word, scrub (.uncorrectable cell word) (fun t => t.pool.unc = true ∧ t.fault.code = 0x38)) ∧
        scrub (.linkLost cell) (fun t => qmgrDropped t = true ∧ t.fault.code = 0x39)

/-! ## Pins (chapter 02) -/

/-- R31, R34, R35: a PM_PIN write that nothing refuses sets the pads and starts a function change; a refused one is recorded
in PM_REFUSE, and only what the refusal leaves is applied: OUT under the lock, the pads with a reserved code, nothing else.
A function code that Table 02-4 does not give the pin is refused with WHY 3, and a change under PM_CTRL.LOCK with WHY 1. -/
def Obligations.PinWrites : Prop :=
  (∀ (i : Fin 59) (v : Word) (s : State), HostServed s → ∃ t, exec (.pmPinWrite i v) s = .next t ∧
     match pinRefusal i.val v s with
     | none => OnlyRecords (modPin i.val (fun p => ((p.setPads v).setFunc (BitVec.ofNat 4 v.toNat)).drive) s) t
     | some why =>
       let r := { s with pins := { s.pins with refPin := BitVec.ofNat 6 i.val, refWhy := BitVec.ofNat 3 why, refValid := true } }
       OnlyRecords (if why = 1 then modPin i.val (fun p => { p with out := v.getLsbD 6 }.drive) r
         else if why = 3 then modPin i.val (fun p => (p.setPads v).drive) r else r) t ∧
       (s.tap.recording = false → t.rein.adre = true)) ∧
  (∀ (i : Fin 59) (v : Word) (s : State),
     (s.pins.lock = false → pinAllows i.val (v.toNat % 16) = false → pinRefusal i.val v s = some 3) ∧
     (s.pins.lock = true → v.toNat % 16 ≠ (pinOf i.val s).func.toNat → pinRefusal i.val v s = some 1) ∧
     (s.pins.lock = true → v.toNat % 16 = (pinOf i.val s).func.toNat → v.getLsbD 8 ≠ (pinOf i.val s).drv →
       pinRefusal i.val v s = some 1))

/-- R31, R32, R37: the old function's idle point or its limit begins the transit of a function change, in which the keeper
holds the pin's level, and the end of the transit attaches the new function; an edge that a capture channel waits for latches hub time, or sets OVR while the latched
one has not been read, and any other edge only changes the level. -/
def Obligations.PinEvents : Prop :=
  (∀ (i : Fin 59) (s : State),
     ((pinOf i.val s).phase = .quiesce →
       (pinIdle i.val s = true → ∃ t, exec (.pinQuiesceDone i) s = .next t ∧
         OnlyRecords (modPin i.val (fun p => { p with phase := .transit, inp := pinLevel i.val s }) s) t) ∧
       (pinIdle i.val s = false → exec (.pinQuiesceDone i) s = .next s) ∧
       ∃ t, exec (.pinQuiesceTimeout i) s = .next t ∧ t.mode.cur = s.mode.cur ∧ (pinOf i.val t).phase = .transit) ∧
     ((pinOf i.val s).phase = .transit → ∃ t, exec (.pinAttach i) s = .next t ∧ t.mode.cur = s.mode.cur ∧
       (pinOf i.val t).phase = .attached ∧ (pinOf i.val t).act = (pinOf i.val s).func) ∧
     ((pinOf i.val s).phase = .attached →
       exec (.pinQuiesceDone i) s = .next s ∧ exec (.pinQuiesceTimeout i) s = .next s)) ∧
  (∀ (rising : Bool) (t0 : HubTime) (s : State) (n : Fin 2) (i : Nat), capturePin n.val s = some i → pinsSampled s = true →
     bankOut 1 s = false →
     let u := advance t0 s
     let p := modPin i (PinSt.board rising) u
     let c := if n = 0 then s.pins.cap0 else s.pins.cap1
     let waited := if rising then c.edge.getLsbD 0 else c.edge.getLsbD 1
     let c' := if waited then (if c.new then { c with ovr := true } else { c with new := true, time := hubNow u }) else c
     ∃ t, exec (.captureEdge n rising t0) s = .next t ∧
       OnlyRecords { p with pins := if n = 0 then { p.pins with cap0 := c' } else { p.pins with cap1 := c' } } t)

/-! ## Authenticated commands and the tack store (chapters 05 and 08) -/

/-- R169, R173, R175: a write of AUTH_OP takes the command as its registers and queue 61 stand, or is refused with ADRE
while another is being decided; the end of a hold; the end of a key write. -/
def Obligations.AuthSequence : Prop :=
  (∀ (v : Word) (t0 : HubTime) (s : State), HostServed s → s.auth.op = 0 → s.auth.pend = none → v &&& 0xFF ≠ 0 →
    let u := closeHostData (advance t0 s)
    ∃ t, exec (.registerWrite 0x20 v t0) s = .next t ∧
      OnlyRecords { u with auth := { u.auth with op := v &&& 0x03FF, pend := some (takeCommand none v u) } } t) ∧
  (∀ (v : Word) (s : State), HostServed s → s.auth.op ≠ 0 → ∃ t, exec (.authCommandRejected (.busyWrite v)) s = .next t ∧
    OnlyRecords s t ∧ (s.tap.recording = false → t.rein = { s.rein with res := v, adre := true })) ∧
  (∀ s, exec .authHoldEnd s = .next { s with auth := { s.auth with hold := false } }) ∧
  ∀ (i : Nat) (k : KeySlot) (s : State), s.auth.keyWrite = some (i, k) → Gives .keyLoadDone s { s with
    tack := { s.tack with slots := s.tack.slots.set i k }, auth := { s.auth with op := 0, keyWrite := none } }

/-- R168, R171 to R173: the checks of Table 08-2 in their order; a rejected command has no effect but its result, its reason
and, after a wrong tag, FAILS and the hold. -/
def Obligations.AuthRejections : Prop :=
  (∀ (c : AuthCmd) (s : State), c.data.length = c.blockLength → 0x11 ≤ c.opc → c.opc ≤ 0x18 →
     let fails := fun (n : Nat) => firstFailure c false s = some (n, s)
     let k := slotKey c.slot s
     (s.auth.hold = true → fails 9) ∧
     (s.auth.hold = false → cryptoWorks s = false → fails 8) ∧
     (s.auth.hold = false → cryptoWorks s = true →
       (k.state = 0 → fails 3) ∧
       (k.state ≠ 0 →
         (k.mask.getLsbD (c.opc - 0x11) = false → fails 4) ∧
         (k.mask.getLsbD (c.opc - 0x11) = true →
           (c.ctr.toNat ≤ s.tack.counter.toNat → fails 5) ∧
           (s.tack.counter.toNat < c.ctr.toNat → c.tag ≠ authTag k.key (authMessage c s) → fails 6))))) ∧
  (∀ (c : AuthCmd) (recordFails : Bool) (s : State) (r : Nat × State), s.power.boot ≠ .dead → s.auth.pend = some c →
     firstFailure c recordFails s = some r →
     let a := { r.2.auth with op := 0, pend := none, result := BitVec.ofNat 4 r.1, lslot := BitVec.ofNat 2 c.slot, rej := true }
     (∃ t, exec (.authCommandRejected (.decision recordFails)) s = .next t ∧
       OnlyRecords { r.2 with auth := if r.1 = 6
         then { a with fails := BitVec.ofNat 4 (min 15 (r.2.auth.fails.toNat + 1)), hold := true } else a } t) ∧
     r.2.tack.counter = s.tack.counter ∧ r.2.tack.slots = s.tack.slots ∧ r.2.tack.mem = s.tack.mem ∧
     (r.1 ≠ 7 → r.2 = s))

/-- R105, R109, R110, R115, R172, R174, R205, Table 08-3: what an accepted command does, its counter stored first:
TACK_ERASE starts its job, KEY_LOAD empties its slot and holds the new key, REPLAY_LOAD starts the loader, PINMUX_LOCK sets
the lock, PROFILE_SELECT makes the switch pending, PROFILE_COMMIT starts its write job or fails for its size before anything
is erased, ENDPOINT_COMMIT is pending with ECR 2, FARRIER_ENTER enters Farrier. -/
def Obligations.AuthAccepted : Prop :=
  (∀ (c : AuthCmd) (s : State),
     let a := accepted c s
     (WillAccept c 0x16 s → ∃ t, exec .tackErase s = .next t ∧ OnlyRecords { a with tack := { a.tack with
       busy := true
       job := some { kind := 3, area := c.arg 0, copy := 0, gen := 0, tag := [], image := none, stop := false } } } t) ∧
     (WillAccept c 0x14 s → ∃ t, exec .keyLoad s = .next t ∧ OnlyRecords { a with
       tack := { a.tack with slots := a.tack.slots.set (c.arg 0) emptySlot }
       auth := { a.auth with
         op := c.op &&& 0x03FF
         keyWrite := some (c.arg 0, ⟨if nbit (c.arg 1) 8 then 2 else 1, aesDecrypt (slotKey c.slot s).key c.data,
           BitVec.ofNat 8 (c.arg 1)⟩) } } t) ∧
     (WillAccept c 0x17 s → ∃ t, exec .replayLoad s = .next t ∧ OnlyRecords { a with replay := { a.replay with
       lstate := 1, why := 0, srcAddr := BitVec.ofNat 32 (c.arg 0 + 65536 * c.arg 1)
       srcUnits := BitVec.ofNat 32 (c.arg 2 + 65536 * c.arg 3)
       loaded := 0, used := 0, rest := [], lastSeq := none, ended := .going, seeking := false } } t) ∧
     (WillAccept c 0x18 s → ∃ t, exec .pinmuxLock s = .next t ∧
       OnlyRecords { a with pins := { a.pins with lock := true } } t)) ∧
  (∀ (c : AuthCmd) (s : State),
     let a := accepted c s
     (WillAccept c 0x11 s → s.tack.swPend = false → ∃ t, exec .profileSelect s = .next t ∧
       OnlyRecords { a with tack := { a.tack with
         swTgt := BitVec.ofNat 2 (c.arg 0), swPend := true, swStaged := false, swFailed := false } } t) ∧
     (WillAccept c 0x11 s → s.tack.swPend = true → ∃ t, exec .profileSelect s = .next t ∧
       OnlyRecords { a with tack := { a.tack with
         swTgt := BitVec.ofNat 2 (c.arg 0), swPend := true, swStaged := false, swFailed := false, swFail := true, swWhy := 3 } } t) ∧
     (WillAccept c 0x12 s → sectLimit (c.arg 0) < (sectionData s.cfg.user).length →
       ∃ t, exec .profileCommit s = .next t ∧ OnlyRecords { a with tack := { a.tack with failCode := 1 } } t ∧
         t.op.state = 3 ∧ t.op.why = 8) ∧
     (WillAccept c 0x12 s → (sectionData s.cfg.user).length ≤ sectLimit (c.arg 0) →
       ∃ t, exec .profileCommit s = .next t ∧ OnlyRecords { a with tack := { a.tack with busy := true, job := t.tack.job } } t ∧
         t.op.state = 1 ∧ t.op.code = 4 ∧
         ∃ j, t.tack.job = some j ∧ j.area = c.arg 0 ∧ j.tag = c.data ∧ j.image = none ∧ j.stop = false ∧
           j.kind = if c.arg 0 = 4 then 2 else 1) ∧
     (WillAccept c 0x13 s → ∃ t, exec .endpointCommit s = .next t ∧ OnlyRecords { a with
       cfg := { a.cfg with status := t.cfg.status }
       poll := { a.poll with commits := a.poll.commits.filter (fun d => !(d.ep == c.commit.ep && d.atBoundary))
         ++ [{ c.commit with atBoundary := (actMode s).records }] } } t ∧
       statByte (epAddr c.commit.ep + 0x3D) t = 2) ∧
     (WillAccept c 0x15 s → ∃ t, exec .farrierEnter s = .next t ∧ t.mode.cur = .farrier ∧
       t.tack.counter = c.ctr ∧ t.power.sleep = s.power.sleep))

/-- R105 to R107, R205: at the end of staging a good image is staged, while an invalid one sets FAIL and WHY and waits for
its boundary but in Lead-rein, where it clears USR_OK; after the cutoff the expansion ends the switch. With no run of its
endpoint active, the oldest ENDPOINT_COMMIT that waits for no boundary is written. -/
def Obligations.ConfigChanges : Prop :=
  ((∀ s, s.tack.swPend = true → (openOf 60 .staging s).isSome = true →
     (∀ p, checkArea s.tack.swTgt.toNat s = .ok p → ∃ t, exec .profileStagingDone s = .next t ∧
       OnlyRecords { s with tack := { s.tack with swStaged := true } } t) ∧
     ∀ why, checkArea s.tack.swTgt.toNat s = .error why → ∃ t, exec .profileStagingDone s = .next t ∧
       OnlyRecords { s with tack := if s.mode.cur = .leadrein
         then { s.tack with swFail := true, swWhy := why, swPend := false, usrOk := false }
         else { s.tack with swFail := true, swWhy := why, swFailed := true } } t) ∧
   ∀ s, s.tack.expanding = true → s.time.ended = none → ∃ t, exec .profileExpansionEnd s = .next t ∧
     t.tack.expanding = false ∧ t.tack.swPend = false ∧ t.mode.cur = s.mode.cur ∧
     ∀ p, checkImage s.tack.swTgt.toNat (stagedImage s) = some p → t.cfg.user = expandSections p.sections) ∧
  (∀ (ep : Fin 256) (e : EpCommit) (s : State), s.poll.commits.find? (fun c => c.ep == ep.val && !c.atBoundary) = some e →
     (s.mode.cur = .leadrein ∨ epRuns ep.val s = false) → ∃ t, exec (.endpointCommitApply ep) s = .next t ∧
       t.cfg.user = commitInto e s.cfg.user ∧ t.cfg.fallback = s.cfg.fallback ∧ t.mode.cur = s.mode.cur ∧
       (s.tack.job = none → t.tack = s.tack))

/-- R110, R112, R113: the end of a write job: the area erased or the copy's image in its place, which is the one built
from the user configuration (R109) where the job had not come so far; or the job's failure code. -/
def Obligations.WriteJobEnd : Prop :=
  ∀ (j : TackJob) (s : State), s.tack.job = some j → j.stop = false → (s.op.job = .commit → s.op.abort = false) →
    let img := j.image.getD (commitImage j.area j.gen j.tag s)
    let fits := j.image = none → (sectionData s.cfg.user).length ≤ sectLimit j.area
    let done := fun (out : TackOutcome) (r : State → Prop) => ∃ t, exec (.tackWriteJobDone out) s = .next t ∧
      OnlyRecords { s with tack := t.tack } t ∧ t.tack.busy = false ∧ t.tack.job = none ∧
      t.tack.slots = s.tack.slots ∧ t.tack.counter = s.tack.counter ∧ r t
    (j.kind = 3 →
      done .done (fun t => t.op = s.op ∧ tackBytes (copyBase j.area 0) (if j.area = 4 then 0x2000 else 0x6000) t =
        List.replicate (if j.area = 4 then 0x2000 else 0x6000) 0xFF) ∧
      done .eraseFailed (fun t => t.op = s.op ∧ t.tack.failCode = 3)) ∧
    (j.kind ≠ 3 →
      (fits → Memory.wf tackDflt s.tack.mem = true → img.length ≤ copySize j.area → done .done (fun t =>
        t.op.state = 2 ∧ t.op.why = 0 ∧ tackBytes (copyBase j.area j.copy) img.length t = img)) ∧
      (fits → done .verifyFailed (fun t => t.op.state = 3 ∧ t.op.why = 8 ∧ t.tack.failCode = 2)) ∧
      (j.image = none → done .eraseFailed (fun t => t.op.state = 3 ∧ t.op.why = 8 ∧ t.tack.failCode = 3)))

/-! ## Long operations (chapter 08) -/

/-- R108, R176, R196: an operation that may not start is refused: WHY takes the reason, while STATE, PROG and the results
stay. A PROFILE_LOAD in a mode that does not allow it sets FAIL_CODE 5 as well, and an ENDPOINT_PROBE shows what the check
of its endpoint found. -/
def Obligations.LongOpRefused : Prop :=
  ∀ (code w : Nat) (s : State), code ∈ opCodes → HostServed s →
    let u := if code = 0xB then validateProbe (closeHostData s) else closeHostData s
    startRefused code u = some w → ∃ t, exec (opRow code) s = .next t ∧
      OnlyRecords (if code = 5 ∧ opAllowed 5 (commandMode u) = false then { u with tack := { u.tack with failCode := 5 } }
        else u) t ∧
      t.op.why = BitVec.ofNat 4 w ∧ t.op.state = u.op.state ∧ t.op.prog = u.op.prog ∧ t.op.recs = u.op.recs ∧
      (s.tap.recording = false → t.rein.adre = true)

/-- R176, R178, R179: an operation that starts shows its code and STATE 1, with WHY 0, and changes besides only what its
work begins with: a scan its generation, a probe its lane. -/
def Obligations.LongOpStarts : Prop :=
  ∀ (s : State), HostServed s →
    let u := closeHostData s
    let starts := fun (code : Nat) (r : State → Prop) => startRefused code u = none → ∃ t, exec (opRow code) s = .next t ∧
      t.op.state = 1 ∧ t.op.code = BitVec.ofNat 8 code ∧ t.op.why = 0 ∧ t.mode.cur = s.mode.cur ∧ r t
    let a0 := s.op.arg0.toNat
    starts 1 (fun t => OnlyRecords u t ∧ t.op.recs = []) ∧
    starts 3 (fun t => OnlyRecords u t ∧ t.op.recs = []) ∧
    starts 5 (fun t => OnlyRecords u t ∧ t.op.recs = []) ∧
    starts 7 (fun t => OnlyRecords { u with sports := t.sports } t ∧ t.op.recs = []) ∧
    starts 8 (fun t => OnlyRecords u t ∧ t.op.recs = []) ∧
    starts 6 (fun t => t.op.recs = [] ∧ if a0 % 2 = 0 then OnlyRecords u t else OnlyRecords (invalidateCache u) t) ∧
    starts 9 (fun t => t.op.recs = []) ∧
    (sReady 0 (flashSel u) u = true → starts 0xA (fun t => t.op.recs = [] ∧
      (s.sports.length = 4 → sInFrame 0 u = false → laneTx 2 u = false → ptHolds 2 u = false →
        (sportOf 0 u).last ≠ .flash → (sportOf 0 t).out.cmd = field (runWord 0x2A08 u) 0 8))) ∧
    (∀ k, (List.range 16).find? (fun i => laneFree i u) = some k → startRefused 0xB (validateProbe u) = none →
      ∃ t, exec .endpointProbe s = .next t ∧ t.op.state = 1 ∧ t.op.code = 0xB ∧ t.op.why = 0 ∧ t.mode.cur = s.mode.cur ∧
        t.op.recs = [] ∧ t.poll = (modLane k (fun _ => laneOf k t) (validateProbe u)).poll ∧
        (s.poll.lanes.length = 16 → (laneOf k t).ep = a0 % 256 ∧ (laneOf k t).probe = true)) ∧
    (let p := a0 % 16 - 6
     let g := u.poll.scanGen.getD p 0
     let scanned := { u with poll := { u.poll with scanGen := u.poll.scanGen.set p (if g = 0xFFFF then 1 else g + 1) } }
     scanList p s.op.arg1.toNat s.op.arg2.toNat (s.op.arg3.getLsbD 0) u ≠ [] →
      starts 2 (fun t => t.op.recs = [] ∧ OnlyRecords scanned t))

/-- R108, R177, R178, R180, R292, R401: an abort request ends the running operation as aborted at its next safe point, or a
running TACK_ERASE after the page in progress, and one that runs into its bound ends as failed; each sets OPDONE. The ends that the hardware reports: a failure, a PROFILE_LOAD
by its check, the record of AUTO_RATE with its candidate, and SELF_TEST without a failed test. -/
def Obligations.LongOpEnds : Prop :=
  ((∀ s, HostServed s →
     let u := closeHostData s
     let asks := fun (x : State) (r : State → Prop) => ∃ t, exec .opAbort s = .next t ∧ OnlyRecords x t ∧
       t.op.state = s.op.state ∧ r t
     (opRuns s = true → asks u (fun t => s.tap.recording = false → t.op.abort = true)) ∧
     (opRuns s = false →
       (∀ j, s.tack.job = some j → j.kind = 3 →
         asks { u with tack := { u.tack with job := some { j with stop := true } } } (fun _ => True)) ∧
       ((∀ j, s.tack.job = some j → j.kind ≠ 3) → asks u (fun t => t.op.abort = s.op.abort)))) ∧
   (∀ e s j, opRuns s = false → s.tack.job = some j → j.stop = true → ∃ t, exec (.longOpEnd e) s = .next t ∧
     t.op.state = 4 ∧ t.op.why = 10 ∧ t.tack.job = none ∧ t.tack.busy = false ∧ t.mode.cur = s.mode.cur) ∧
   (∀ e s, opRuns s = true → s.op.abort = true → ∃ t, exec (.longOpEnd e) s = .next t ∧
     t.op.state = 4 ∧ t.op.why = 10 ∧ t.op.code = 0 ∧ t.op.abort = false ∧
     t.attn.src.getLsbD 4 = true ∧ t.mode.cur = s.mode.cur) ∧
   ∀ s, opRuns s = true → (∀ n, s.op.job ≠ .replay n) → ∃ t, exec .longOpBoundExpiry s = .next t ∧
     t.op.state = 3 ∧ t.op.why = 9 ∧ t.op.code = 0 ∧ t.attn.src.getLsbD 4 = true ∧ t.mode.cur = s.mode.cur) ∧
  (∀ s, opRuns s = true → s.op.abort = false →
     let ends := fun (e : OpEnd) (r : State → Prop) => ∃ t, exec (.longOpEnd e) s = .next t ∧ t.mode.cur = s.mode.cur ∧ r t
     (s.op.job = .load → (∀ p, checkArea s.tack.sel.toNat s = .ok p →
         ends .complete (fun t => t.op.state = 2 ∧ t.op.why = 0 ∧ t.op.prog = 255 ∧ t.cfg.user = expandSections p.sections)) ∧
       ∀ why, checkArea s.tack.sel.toNat s = .error why →
         ends .complete (fun t => t.op.state = 3 ∧ t.op.why = 8 ∧ t.tack.usrOk = false ∧ t.cfg = s.cfg)) ∧
     (∀ m isl, s.op.job = .selfTest m isl →
       (s.fault.restarting = [] → ends (.selfTest []) (fun t => OnlyRecords s t ∧ t.op.state = 2 ∧ t.op.prog = 255)) ∧
       ends .failed (fun t => OnlyRecords s t ∧ t.op.state = 3 ∧ t.op.why = 8)) ∧
     ∀ ch ms x frames, s.op.job = .autoRate ch ms true → 2 ≤ frames → frames < 256 → 60 ≤ x →
       ∀ bt n0 n1, rateCandidate x = some (bt, n0, n1) → s.op.recs.length < 992 →
       ends (.autoRate (some x) frames true false) (fun t => OnlyRecords s t ∧ t.op.state = 2 ∧
         t.op.newest = ⟨BitVec.ofNat 16 bt, BitVec.ofNat 16 n0, BitVec.ofNat 16 n1, BitVec.ofNat 16 frames⟩))

/-- R208, R209, R292, R327, R375: the steps of running operations: a probe of the scan, the second half of AUTO_RATE, a
segment of a drain, and the status polls of a flash job. -/
def Obligations.LongOpSteps : Prop :=
  ∀ s, opRuns s = true →
    (∀ port a last ten total probed rep t0, s.op.job = .rollCall port a last ten total probed rep →
      probeMayRun port s = true → (iportOf (port - 6) s).stk = false → s.op.recs.length < 992 →
      (∃ t, exec (.rollCallProbe .acked t0) s = .next t ∧ t.op.recs.length = s.op.recs.length + 1 ∧ t.mode.cur = s.mode.cur ∧
        t.op.newest.w0.toNat % 1024 = a % 1024) ∧
      ∃ t, exec (.rollCallProbe .notAcked t0) s = .next t ∧ t.op.recs = s.op.recs ∧ t.mode.cur = s.mode.cur) ∧
    (∀ ch ms, s.op.job = .autoRate ch ms false → Gives .autoRateVerifyStart s
      { s with op := { s.op with
        job := .autoRate ch ms true, prog := BitVec.ofNat 8 (min 255 (max s.op.prog.toNat 128)) } }) ∧
    (∀ addr blocks cur seg total done skip fz, s.op.job = .drain false addr blocks cur seg total done skip fz →
      seg ≠ [] → 4096 ≤ seg.length ∨ (cur = [] ∧ blocks = 0) → s.op.recs.length < 992 →
      ∃ t, exec (.drainSegmentDone false) s = .next t ∧ OnlyRecords s t ∧ t.op.state = 1 ∧
        t.op.recs.length = s.op.recs.length + 1 ∧ t.op.newest.w2 = BitVec.ofNat 16 (min 4096 seg.length)) ∧
    ∀ addr erase data sent last (status : Byte), s.op.job = .flash addr erase data true sent last →
      sReady 0 (flashSel s) s = true → sTurn 0 .flash s = true →
      ∃ t, exec (.flashStatusPoll status) s = .next t ∧ t.mode.cur = s.mode.cur ∧
        (t.op.state, t.op.why) = (if sent then (if status.getLsbD 0 then (s.op.state, s.op.why) else (2, 0))
          else if status.getLsbD 1 then (s.op.state, s.op.why) else (3, 8))

/-! ## The poll engine (chapter 09) -/

/-- R48, R185, R189 to R191, R202: the steps of a lane that move nothing on a bus: WAIT, WAITT, WAITPIN, FLUSH and SKIP, and
the ends of their waits; ACQ waits for the first port of the endpoint that the lane does not hold, a grant in the lane's turn
adds that port and goes on, in a replay once the recorded verdicts grant it, and REL lets every port go and raises the held
selects. -/
def Obligations.LaneSteps : Prop :=
  (∀ (i : Fin 16) (s : State),
     let run := laneOf i.val s
     let goes := modLane i.val (fun l => { l with pc := l.pc + 1, wait := .ready, discard := false }) s
     let waits := fun (w : LaneWait) => modLane i.val (fun l => { l with wait := w }) s
     (∀ us, StandsAt i.val (.wait us) s → exec (.wait i) s = .next (waits .time)) ∧
     (∀ us, StandsAt i.val (.waitt us) s → exec (.waitt i) s =
       .next (if 16 * us ≤ (s.time.now - run.splitHt).toNat then goes else waits .time)) ∧
     (run.wait = .time → exec (.waitExpiry i) s = .next goes) ∧
     (∀ level mf, StandsAt i.val (.waitpin level mf) s →
       exec (.waitpin i) s = .next (drawn (if mfReads mf level s then goes else waits (.pin mf level)))) ∧
     (∀ level mf, run.wait = .pin mf level →
       exec (.waitpinMatch i) s = .next (if mfWatched mf s then modPin (52 + mf) (PinSt.board level) goes else s)) ∧
     (∀ always, StandsAt i.val (.flush always) s → exec (.flush i) s =
       .next (if always || estat run.ep 1 s then modLane i.val (fun l => { l with discard := true }) goes
         else modLane i.val (fun l => { l with pc := l.pc + 2 }) s)) ∧
     ∀ n sense off mask val, StandsAt i.val (.skip n sense off mask val) s → exec (.skip i) s =
       .next (modLane i.val (fun l => { l with
         pc := l.pc + 1 + (if (Nat.land (run.buf.getD off 0).toNat mask == val) != sense then n else 0) }) s)) ∧
  (∀ (i : Fin 16) (s : State),
     let run := laneOf i.val s
     let ports := (descOf run.cfg run.ep).ports
     let goes := fun (held : List Nat) => match ports.find? (fun p => !held.contains p) with
       | some p => { run with held := held, wait := .port p }
       | none => { run with held := held, pc := run.pc + 1, wait := .ready, discard := false }
     let becomes := fun (c : Instr) (l : Lane) (r : State → Prop) => ∃ t, exec c s = .next t ∧
       laneOf i.val t = l ∧ (∀ j, j ≠ i.val → laneOf j t = laneOf j s) ∧ r t
     s.poll.lanes.length = 16 →
     (StandsAt i.val .acq s → becomes (.acq i) (goes run.held) (fun t => t = { s with poll := t.poll })) ∧
     (∀ p, run.wait = .port p →
       (portHeld p s = false → fairTurn i.val p s = true → passes (portAsks i.val p) s = true →
         becomes (.portGrant i) (goes (run.held ++ [p])) (fun t => t = { s with poll := t.poll, verdicts := t.verdicts })) ∧
       (portHeld p s = true ∨ fairTurn i.val p s = false ∨ passes (portAsks i.val p) s = false →
         exec (.portGrant i) s = .next s)) ∧
     (StandsAt i.val .rel s →
       becomes (.rel i) { run with held := [], openTx := false, pc := run.pc + 1, wait := .ready, discard := false }
         (fun t => t = { s with poll := t.poll, sports := t.sports, iports := t.iports, op := t.op
                                cfg := { s.cfg with status := t.cfg.status }, verdicts := t.verdicts } ∧
           ∀ p, 2 ≤ p → p < 6 → p ∈ run.held → (sportOf (p - 2) t).hold = none)))

/-- R48, R185, R192 to R194: GET copies the hub time or a field of a sample, or waits for the sample, in a replay until the
recorded verdict of its point; WAITFRM takes the held frame, or waits. -/
def Obligations.LaneData : Prop :=
  ∀ (i : Fin 16) (s : State), Inv s →
    let run := laneOf i.val s
    let filled := fun (off : Nat) (bytes : List Byte) (l : Lane) =>
      let bs := bytes.take (32 - off)
      { l with
        buf := (run.buf.take off ++ bs ++ run.buf.drop (off + bs.length)).take 32
        high := if bs.isEmpty then run.high else max run.high (off + bs.length)
        pc := run.pc + 1, wait := .ready, discard := false }
    let got := fun (u : State) (off : Nat) (bs : List Byte) =>
      filled off bs (if run.portData then run else { run with sht := u.time.now, timed := true })
    let ends := fun (c : Instr) (u : State) (l : Lane) => ∃ t, exec c s = .next t ∧
      t = { u with poll := t.poll, cfg := { u.cfg with status := t.cfg.status }, verdicts := t.verdicts } ∧
      laneOf i.val t = l
    (∀ t0 f off n, let u := advance t0 s
      (StandsAt i.val (.get 0 f off n) s → ends (.get i t0) u (got u off (leBytes 6 u.time.now.toNat))) ∧
      (StandsAt i.val (.get 1 f off n) s →
        (run.probe = true ∨ sampleAwaited n u = false →
          ends (.get i t0) u (got u off (leBytes 4 (stagedField n f u).toNat))) ∧
        (run.probe = false → sampleAwaited n u = true → ends (.get i t0) u { run with wait := .sample n }))) ∧
    (∀ t0 src f off n m, let u := advance t0 s
      run.wait = .sample n → stepOf i.val s = some (.get src f off m) →
        (sampleAwaited n u = false → heldUp (107 + i.val) false s = false →
          ends (.getSampleReady i t0) u (got u off (leBytes 4 (stagedField m f u).toNat))) ∧
        (sampleAwaited n u = true ∨ heldUp (107 + i.val) false s = true → exec (.getSampleReady i t0) s = .next u)) ∧
    ∀ len off, StandsAt i.val (.waitfrm len off) s →
      (portDropped (descOf run.cfg run.ep).port s = true → exec (.waitfrm i) s = .next (failAttempt i.val 10 s)) ∧
      (portDropped (descOf run.cfg run.ep).port s = false →
        (s.poll.held.find? (fun h => h.ep == run.ep) = none → ends (.waitfrm i) s { run with wait := .frm }) ∧
        ∀ h, s.poll.held.find? (fun h => h.ep == run.ep) = some h → ∃ t, exec (.waitfrm i) s = .next t ∧
          laneOf i.val t = filled off (h.bytes.take len) { run with sht := h.ht, timed := true, portData := true } ∧
          t.poll.held = s.poll.held.filter (fun h => h.ep != run.ep) ∧ estat run.ep 3 t = false)

/-- R48, R185, R194, R197, R199 to R201: SPLIT clears the buffer and begins the read part, the run's sample hub time kept, or
ends a trigger part that ran ahead; END hands the buffer to conditioning, with SAMPLES counted and LAST 1, or ends a probe,
in a replay once the recorded verdict of its point grants it. -/
def Obligations.RunEnds : Prop :=
  ∀ (i : Fin 16) (s : State), Inv s →
    let run := laneOf i.val s
    (∀ t0, StandsAt i.val .split s → let u := advance t0 s
      let letsGo := fun (t : State) => t = { u with
        poll := t.poll, sports := t.sports, iports := t.iports, op := t.op
        cfg := { u.cfg with status := t.cfg.status }, verdicts := t.verdicts }
      (run.ahead = false → run.probe = false → ∃ t, exec (.split i t0) s = .next t ∧
        letsGo t ∧ laneOf i.val t = { run with
          held := [], openTx := false, splitHt := u.time.now, pc := run.pc + 1, buf := List.replicate 32 0, high := 0
          wait := .ready, trig := false, discard := false }) ∧
      (run.ahead = false → run.probe = true → ∃ t, exec (.split i t0) s = .next t ∧
        letsGo t ∧ laneOf i.val t = { run with
          held := [], openTx := false, splitHt := u.time.now, pc := run.pc + 1, wait := .ready, trig := false
          discard := false }) ∧
      (run.ahead = true → ∃ t, exec (.split i t0) s = .next t ∧ t.mode.cur = s.mode.cur ∧
        t.poll.aheadDone = s.poll.aheadDone ++
          [⟨run.ep, run.due, true, u.time.now, run.started, run.retries, run.sht, run.timed, run.portData⟩])) ∧
    (StandsAt i.val .endRun s → heldUp (52 + i.val) true s = true → exec (.endStep i) s = .next s) ∧
    (StandsAt i.val .endRun s → heldUp (52 + i.val) true s = false →
      (run.probe = false → ∃ t, exec (.endStep i) s = .next t ∧ t.mode.cur = s.mode.cur ∧
        statByte (epAddr run.ep + 0x3B) t = 1 ∧
        statWord (epAddr run.ep + 0x34) t = (statWord (epAddr run.ep + 0x34) s + 1) % 65536 ∧
        ∃ ht win, t.poll.pend = s.poll.pend ++ [⟨run.ep, run.due, i.val, ht, run.buf, win, s.snap.groups, run.lead⟩] ∧
          (run.timed = true → ht = run.sht)) ∧
      (run.probe = true → ∃ t, exec (.endStep i) s = .next t ∧ t.mode.cur = s.mode.cur ∧ t.op.state = 2 ∧ t.op.why = 0 ∧
        laneOf i.val t = freeLane))

/-- R191, R197, R309, R311, R320, R335, R337, R342, R349: a wire step goes onto its port with what the spec has it send,
waits for a busy bus or for its turn on the port, or fails at once on an unavailable or stuck port. A read that FLUSH
discards clears OPEND. -/
def Obligations.WireSteps : Prop :=
  ∀ (i : Fin 16) (st : Step) (c : Bool × Bool) (s : State), Inv s → StandsAt i.val st s → st.wire = some c →
    let run := laneOf i.val s
    let d := descOf run.cfg run.ep
    let p := d.named c.2
    let sel := field d.taddr 0 3
    let cmd := match st with | .send .. => Instr.send i | .recv .. => .recv i | .xfer .. => .xfer i | _ => .frame i
    let goesOut := fun (r : State → Prop) => ∃ t, exec cmd s = .next t ∧ t.mode.cur = s.mode.cur ∧
      laneOf i.val t = { run with wait := .step p, started := true } ∧
      (run.discard = true → run.probe = false → estat run.ep 1 t = false) ∧ r t
    (isSPort p = true →
      (sReady (p - 2) sel s = false ∨ frameStillOk (p - 2) st s = false →
        exec cmd s = .next (failAttempt i.val 10 s)) ∧
      (sReady (p - 2) sel s = true → frameStillOk (p - 2) st s = true →
        (laneTurn p sel s = false → exec cmd s = .next s) ∧
        (laneTurn p sel s = true → goesOut (fun t => s.replay.run = false →
          (sportOf (p - 2) t).out = sendOut (p - 2) (frameNow (p - 2) sel st.fd s) d st s)))) ∧
    (isSPort p = false →
      (iWorks (p - 6) s = false → exec cmd s = .next (failAttempt i.val 10 s)) ∧
      (iWorks (p - 6) s = true → (iportOf (p - 6) s).stk = true → s.replay.run = false →
        exec cmd s = .next (failAttempt i.val 5 (recPort p 0 run.ep 3 i.val [] s.time.now s))) ∧
      (iWorks (p - 6) s = true → (iportOf (p - 6) s).stk = false ∨ s.replay.run = true →
        (busHeld (p - 6) s = true → exec cmd s = .next (modLane i.val (fun l => { l with wait := .bus p }) s)) ∧
        (busHeld (p - 6) s = false →
          (laneTurn p sel s = false → exec cmd s = .next s) ∧
          (laneTurn p sel s = true →
            goesOut (fun t => isIPort p = true → (iportOf (p - 6) t).out = wireBytes d st)))))

/-- R194, R195, R197: a transaction ends well: its bytes go to the buffer unless they are discarded, and the lane goes on
with the next step; or it fails, and the attempt waits for its retry with every port let go. -/
def Obligations.PortStepEnds : Prop :=
  ∀ (i : Fin 16) (out : PortOutcome) (rx : List Byte) (t0 : HubTime) (s : State) (p : Nat) (st : Step), Inv s →
    let u := advance t0 s
    let run := laneOf i.val s
    let d := descOf run.cfg run.ep
    run.wait = .step p → stepOf i.val s = some st → s.replay.run = false → wireFits i.val out rx u = true →
    run.cancelled = false → run.expired = false → portDropped p s = false →
    let got := payload st (received p st rx s)
    let ends := fun (l : Lane) => ∃ t, exec (.portStepComplete i out rx t0) s = .next t ∧ laneOf i.val t = l ∧
      t.mode.cur = s.mode.cur
    (endedWell out = true → (isSPort p = true → (sportOf (p - 2) s).frame.safe = false) →
      (st.boff = none → ends { run with pc := run.pc + 1, wait := .ready, discard := false, openTx := st.cont }) ∧
      (∀ off, st.boff = some off → (st.busyBit && d.isBusy got) = false →
        let bs := got.take (32 - off)
        ends { run with
          buf := if run.discard then run.buf else (run.buf.take off ++ bs ++ run.buf.drop (off + bs.length)).take 32
          high := if run.discard || bs.isEmpty then run.high else max run.high (off + bs.length)
          pc := run.pc + 1, wait := .ready, discard := false, openTx := st.cont
          sht := u.time.now, timed := true, portData := true })) ∧
    (endedWell out = false → run.probe = false → mayRetry i.val u = true →
      ends { run with held := [], openTx := false, wait := .gap, lastFail := BitVec.ofNat 8 (failCode out) })

/-- R197 to R200: an attempt that times out counts TIMEOUTS and waits for its retry, or ends the run with LAST 3, with a
transaction on the wire only once that has ended; the retry begins the attempt afresh and counts RETRIES, or the run ends as
a miss; a trigger part that may run ahead gets a run. -/
def Obligations.AttemptsAndRuns : Prop :=
  (∀ (i : Fin 16) (s : State), Inv s →
    let run := laneOf i.val s
    let d := descOf run.cfg run.ep
    let stat := fun (o : Nat) (x : State) => statByte (epAddr run.ep + o) x
    (run.wait ≠ .free → run.wait ≠ .gap → run.cancelled = false → run.expired = false → run.probe = false →
      ∃ t, exec (.attemptTimeout i) s = .next t ∧ t.mode.cur = s.mode.cur ∧ stat 0x37 t = (stat 0x37 s + 1) % 256 ∧
        ((∃ p, run.wait = .step p) → laneOf i.val t = { run with expired := true }) ∧
        ((∀ p, run.wait ≠ .step p) →
          (mayRetry i.val s = true →
            laneOf i.val t = { run with held := [], openTx := false, wait := .gap, lastFail := 3 }) ∧
          (mayRetry i.val s = false → stat 0x3B t = 3 ∧ stat 0x3A t = (stat 0x3A s + 1) % 256))) ∧
    (run.wait = .gap →
      ∃ t, exec (.retryGapExpiry i) s = .next t ∧ t.mode.cur = s.mode.cur ∧
        let whole := run.trig || d.rstart
        (mayRetry i.val s = true → stat 0x36 t = (stat 0x36 s + 1) % 256 ∧ laneOf i.val t = { run with
          retries := run.retries + 1, pc := if whole then d.script else readStart run.cfg d.script
          buf := List.replicate 32 0, high := 0, wait := .ready, trig := whole && hasSplit run.cfg d.script
          discard := false }) ∧
        (mayRetry i.val s = false → stat 0x3B t = run.lastFail.toNat ∧ stat 0x3A t = (stat 0x3A s + 1) % 256))) ∧
  ∀ (ep : Fin 256) (b : HubTime) (s : State), Inv s → s.time.nextBoundary = some b → MayRunAhead ep.val s →
    ∃ t, exec (.runAheadDispatch ep) s = .next t ∧ epRuns ep.val t = true ∧ t.mode.cur = s.mode.cur ∧
      t.time.epochIx = s.time.epochIx

/-- R48, R50, R53, R227: the oldest sample on its way is conditioned; that of an endpoint outside the express path changes only
the snapshot unit, and in its due epoch it stands in the staging slot of its endpoint, FRESH, with AGE 0 and ALIVE one
higher. A sample held at the express check posts its event if it passed. -/
def Obligations.SampleRoutes : Prop :=
  (∀ (t0 : HubTime) (p : PendSample) (ps : List PendSample) (s : State), s.poll.pend = p :: ps →
    nbit (cfgByte (if p.lead then s.cfg.fallback else s.cfg.user) (epAddr p.ep)) 2 = false →
    let u := advance t0 s
    passes (sampleAsks p u) u = true → ∃ t, exec (.sampleCompletion t0) s = .next t ∧
      OnlyRecords { u with poll := { u.poll with pend := ps }, snap := t.snap } t ∧
      (stagedIx u = none → t.snap.lateDrop = true) ∧
      (Inv s → stagedIx u = some p.due → unitFailed 17 s = false → s.snap.staging ≠ 0 → p.ep < 256 →
        let x := slotOf (stagingBank s) p.ep t
        x.sht = p.ht ∧ x.age = 0 ∧ x.qual.getLsbD 0 = true ∧ x.alive = (stagedSlot p.ep s).alive + 1)) ∧
  ∀ (t0 : HubTime) (l : LateSample) (ls : List LateSample) (s : State), s.poll.late = l :: ls → heldUp 179 false s = false →
    let u := { advance t0 s with poll := { s.poll with late := ls } }
    (l.passed = true → expressOn s = true → ∃ t, exec (.lateExpressRoute t0) s = .next t ∧ OnlyRecords u t ∧
      t.attn.src.getLsbD 0 = true) ∧
    (l.passed = false ∨ expressOn s = false → Gives (.lateExpressRoute t0) s u)

/-! ## The CAN channels (chapter 12) -/

/-- R267 to R271, R293 to R296: a start request starts a stopped channel or records why it may not; a stop request clears
RUN, and the channel stops at its idle point; integration and recovery bring it to its active state. An error frame sets LEC
and moves the counter that it concerns, and the channel is bus-off when TEC passes 255; in listen-only mode the counters
stay. A protocol exception sets LEC 7, and the channel waits for the bus to be idle. -/
def Obligations.CanChannels : Prop :=
  (∀ (ch : Chan) (s : State),
     let c := canOf ch s
     let becomes := fun (i : Instr) (r : CanSt → Prop) => ∃ t, exec i s = .next t ∧ t.mode.cur = s.mode.cur ∧ r (canOf ch t)
     (∀ v, HostServed s → c.state = 0 →
       let fd := nbit (setBit v 0).toNat 2
       let why := startRefusal ch (modCan ch (fun c => { c with fden := fd }) s)
       (why = 0 → becomes (.canStartRequest ch v) (fun x => x.run = true ∧ x.fdAct = fd ∧
         x.lomAct = nbit (setBit v 0).toNat 1 ∧ x.state = if c.wasBusOff then 3 else 1)) ∧
       (why ≠ 0 → becomes (.canStartRequest ch v) (fun x => x.run = c.run ∧ x.sref = why ∧ x.state = 0 ∧
         x.evt.getLsbD 9 = true))) ∧
     (∀ v, HostServed s → c.state ≠ 0 ∨ canAutoCond ch s = false →
       becomes (.canStopRequest ch v) (fun x => x.run = false ∧ x.state = c.state)) ∧
     (c.state ≠ 0 → c.rx = none →
       (canCond ch s = true → exec (.canChannelStop ch) s = .next s) ∧
       (canCond ch s = false → becomes (.canChannelStop ch) (fun x => x.state = 0 ∧ x.txBuf = none ∧
         x.recovering = false ∧ x.wasBusOff = (c.state == 3 || c.recovering) ∧
         x.tec = if c.state == 3 || c.recovering then 255 else c.tec))) ∧
     (s.replay.run = false → c.state = 1 → c.recovering = false → becomes (.canIntegrationDone ch) (fun x => x.state = 2 ∧
       x.tec = (if c.keep then c.tec else 0) ∧ x.recc = (if c.keep then c.recc else 0) ∧ x.keep = false)) ∧
     (c.state = 3 →
       (c.bor = 1 ∨ c.bor = 2 →
         Gives (.canRecoveryStart ch) s (modCan ch (fun c => { c with state := 1, recovering := true }) s)) ∧
       (c.bor ≠ 1 → c.bor ≠ 2 → exec (.canRecoveryStart ch) s = .next s)) ∧
     ∀ t0, s.replay.run = false → c.state = 1 → c.recovering = true → becomes (.canRecoveryDone ch t0) (fun x =>
       x.state = 2 ∧ x.tec = 0 ∧ x.recc = 0 ∧ x.recovering = false ∧ x.evt.getLsbD 1 = true)) ∧
  (∀ (ch : Chan) (t0 : HubTime) (s : State), s.replay.run = false →
     let c := canOf ch s
     let becomes := fun (i : Instr) (r : CanSt → Prop) => ∃ t, exec i s = .next t ∧ t.mode.cur = s.mode.cur ∧ r (canOf ch t)
     (canListens ch s = true →
       (∀ e : CanError, e.lec ≠ 0 → e.lec ≠ 7 →
         (e.transmitting = true → c.txBuf.isSome = true ∧ c.lomAct = false ∧ c.rx = none) →
         let tec := if e.transmitting then e.tec else c.tec
         becomes (.canFrameError ch e t0) (fun x => x.lec = e.lec ∧
           x.tec = (if c.lomAct then c.tec else tec) ∧
           x.recc = (if c.lomAct || e.transmitting then c.recc else e.recc) ∧
           x.state = (if c.lomAct = false ∧ 255 < tec then 3 else 2) ∧
           (e.transmitting = false → x.rx = none))) ∧
       (c.rx = none → c.fdAct = false → becomes (.canProtocolException ch t0) (fun x => x.lec = 7 ∧ x.pexWait = true ∧
         x.state = 2 ∧ x.evt.getLsbD 7 = true))) ∧
     exec (.protocolExceptionIdle ch) s = .next (modCan ch (fun c => { c with pexWait := false }) s))

/-- R48, R258, R272, R284 to R286: an active channel takes the next item of its queue, each poisoned one before it discarded,
but no FD frame without FDEN, in a replay once its recorded verdicts grant it; a sent frame leaves the buffer and lowers
TEC; a frame that has lost arbitration stays. -/
def Obligations.CanTransmission : Prop :=
  ∀ (ch : Chan) (s : State), Inv s →
    let c := canOf ch s
    let q := txQueue ch
    let count := fun (o : Nat) (x : State) => statWord (canStat ch o) x
    (mayTake ch s = false → exec (.canTxTake ch) s = .next s) ∧
    (mayTake ch s = true →
      let u := skipBad (queueOf q s).items.length q s
      (takeItem q u = none → exec (.canTxTake ch) s = .next u) ∧
      ∀ i w, takeItem q u = some (i, w) →
        let f := txFrameOf i.bytes
        (f.fdf = false ∨ c.fden = true →
          Gives (.canTxTake ch) s (modCan ch (fun c => { c with txBuf := some ⟨f, i.kind⟩ }) w)) ∧
        (f.fdf = true → c.fden = false → ∃ t, exec (.canTxTake ch) s = .next t ∧ (canOf ch t).txBuf = none ∧
          (canOf ch t).evt.getLsbD 6 = true ∧ count 0x394 t = (count 0x394 s + 1) % 65536)) ∧
    ∀ x, c.txBuf = some x → s.replay.run = false → canListens ch s = true → c.lomAct = false → c.rx = none →
      (∀ delay sof t0, delayFits c x.frame delay = true → ∃ t, exec (.canFrameTransmitted ch delay sof t0) s = .next t ∧
        (canOf ch t).txBuf = none ∧ (canOf ch t).tec = c.tec - 1 ∧ (canOf ch t).recc = c.recc ∧
        count 0x38A t = (count 0x38A s + 1) % 65536 ∧ t.mode.cur = s.mode.cur) ∧
      ∀ sof t0, ∃ t, exec (.canArbitrationLost ch sof t0) s = .next t ∧ OnlyRecords (countCan ch 0x38E (advance t0 s)) t

/-- R275 to R277: at the end of the control field the deciding pair is fixed and the item's cells are reserved, or the frame
is lost; a valid frame that no pair takes is counted as ignored, and one for a receive queue is committed there with its
time. -/
def Obligations.CanReception : Prop :=
  ∀ (ch : Chan) (f : CanFrame) (s : State), Inv s →
    let c := canOf ch s
    let count := fun (o : Nat) (x : State) => statWord (canStat ch o) x
    let mine := isBoryel ch f s
    let pair := if mine then none else decidePair ch f s
    let target := if mine then none else rxTarget c pair
    let receives := fun (item : RxOpen) (u : State) =>
      modCan ch (fun c => { c with rx := some ⟨headOf f, mine, pair, item⟩ }) u
    (s.replay.run = false → mayReceive ch f s = true →
      (target = none → Gives (.controlFieldEnd ch f) s (receives .none s)) ∧
      ∀ k, target = some k → let q := rxQueue ch k
        (∀ u, reserve q (cellsFor (12 + headBytes f)) (.canRx ch) 0 s = some u →
          Gives (.controlFieldEnd ch f) s (receives (.opened q) u)) ∧
        (reserve q (cellsFor (12 + headBytes f)) (.canRx ch) 0 s = none → k < 2 →
          ∃ t, exec (.controlFieldEnd ch f) s = .next t ∧ (canOf ch t).rx = some ⟨headOf f, mine, pair, .lost⟩ ∧
            (queueOf q t).drop = true ∧ (canOf ch t).evt.getLsbD 4 = true ∧ count 0x384 t = (count 0x384 s + 1) % 65536)) ∧
    ∀ sof t0, PlainReception ch f s →
      let received := fun (r : State → Prop) => ∃ t, exec (.canFrameReceived ch f sof t0) s = .next t ∧
        (canOf ch t).rx = none ∧ count 0x380 t = (count 0x380 s + 1) % 65536 ∧ t.mode.cur = s.mode.cur ∧ r t
      (target = none → pair = none → received (fun t => count 0x386 t = (count 0x386 s + 1) % 65536)) ∧
      (∀ i w, pair = some (i, w) → target = none →
        received (fun t => statWord (pairAddr ch i + 10) t = (statWord (pairAddr ch i + 10) s + 1) % 65536)) ∧
      ∀ k, target = some k → k < 2 → let q := rxQueue ch k
        canReserve q (cellsFor (12 + headBytes f)) s = true → qmgrDropped s = false → s.tap.kept = [] →
        openOf q (.canRx ch) s = none → s.rein.stall ≠ some (.queue q) →
        received (fun t => ∃ i ∈ (queueOf q t).items, i.bytes = canItem f pair sof)

/-- R48, R279, R280, R282, R283: the read ports and the transmit data register: a read gives the next word of the front item,
or makes the shadow the front; the shadow takes the next item of its queue, in a replay once its recorded verdict grants it;
a control word reserves the cells of its item, each word goes there, and the last one closes it. -/
def Obligations.CanPorts : Prop :=
  ∀ (ch : Chan) (s : State),
    let c := canOf ch s
    (∀ (q : Fin 2) stallOk t0, HostServed s → let u := advance t0 s
      let reads := fun (v : Word) (x : State) => Gives (.canRxqRead ch q stallOk t0) s (intoReply ⟨v, false, x⟩)
      (∀ r, canFront q.val c = some r → reads r.word.1 (modQueue (rxQueue ch q.val) (fun x => { x with
        pois := x.pois || r.word.2 }) (modCan ch (setPort q.val r.step (canShadow q.val c)) u))) ∧
      (canFront q.val c = none →
        (∀ r, canShadow q.val c = some r → reads r.header (modCan ch (setPort q.val (some r) none) u)) ∧
        (canShadow q.val c = none → reads 0x8000
          (if stallOk && s.pool.stallTmo != 0 then { u with rein := { u.rein with stall := some (.can ch q.val) } } else u)))) ∧
    (∀ q : Fin 2,
      (canShadow q.val c ≠ none ∨ heldUp (canPoint ch + q.val) true s = true → exec (.rxShadowLoad ch q) s = .next s) ∧
      (canShadow q.val c = none → heldUp (canPoint ch + q.val) true s = false →
        (takeItem (rxQueue ch q.val) s = none → exec (.rxShadowLoad ch q) s = .next s) ∧
        ∀ i u, takeItem (rxQueue ch q.val) s = some (i, u) → let r := readItemOf i []
          (s.rein.stall = none → Gives (.rxShadowLoad ch q) s
            (modCan ch (fun c => setPort q.val (canFront q.val c) (some r) c) u)) ∧
          (s.rein.stall = some (.can ch q.val) → ∃ t, exec (.rxShadowLoad ch q) s = .next t ∧
            t.rein = { s.rein with stall := none, res := r.header, adre := false } ∧
            canFront q.val (canOf ch t) = some r ∧ canShadow q.val (canOf ch t) = none))) ∧
    ∀ v, HostServed s → s.tap.recording = false →
      let writes := fun (adre : Bool) (x : State) => exec (.canTxdataWrite ch v) s = .next (intoReply ⟨v, adre, x⟩)
      let q := txQueue ch
      (c.txSkip ≠ 0 → writes true (modCan ch (fun c => { c with txSkip := c.txSkip - 1 }) s)) ∧
      (c.txSkip = 0 → qmgrDropped s = true ∨ (queueOf q s).doom = true → writes true s) ∧
      (c.txSkip = 0 → qmgrDropped s = false → (queueOf q s).doom = false →
        let goesOn := fun (o : TxOpen) (x : State) => writeOpen q (.canTxHost ch) (leBytes 2 v.toNat)
          (modCan ch (fun c => { c with txData := v, txOpen := some o }) x)
        (∀ o, c.txOpen = some o →
          (1 < o.need → writes false (goesOn { o with need := o.need - 1 } s)) ∧
          (o.need ≤ 1 → ∀ i, openOf q (.canTxHost ch) s = some i →
            writes false (closeItem q (.canTxHost ch) ((leBytes 2 v.toNat).take (o.size - i.bytes.length)) 0
              (modCan ch (fun c => { c with txData := v, txOpen := none }) s)))) ∧
        (c.txOpen = none →
          let size := 6 + dlcBytes (nbit v.toNat 4) (field v.toNat 0 4)
          let prio := BitVec.ofNat 3 (field v.toNat 8 3)
          (txBad c v.toNat = true ∨ reserve q (cellsFor size) (.canTxHost ch) prio s = none →
            ∃ t, exec (.canTxdataWrite ch v) s = .next t ∧ t.rein.adre = true ∧
              (canOf ch t).txSkip = txWords v.toNat ∧ (canOf ch t).evt.getLsbD 5 = true) ∧
          (txBad c v.toNat = false → ∀ u, reserve q (cellsFor size) (.canTxHost ch) prio s = some u →
            writes false (goesOn ⟨size, txWords v.toNat⟩ u))))

/-! ## The serial ports (chapter 13) -/

/-- R258, R308, R315, R316, R318 to R321: a pass-through entry whose turn has come is sent as its select and bytes, an aborted
one lets the select rise, and one that cannot be run sets its sticky bit; the select of a target transaction falls and
rises, and the item loaded at the fall is what goes out. -/
def Obligations.SerialTransfers : Prop :=
  ∀ (p : Fin 4) (t0 : HubTime) (s : State), Inv s →
    let u := advance t0 s
    let a := portBlock (2 + p.val)
    let count := fun (o : Nat) (x : State) => statWord (a + o) x
    (∀ i w, s.mode.cur = .halter → nbit (runWord a s) 2 = true → sWorks p.val s = true → sTarget p.val s = false →
      sTurn p.val .host s = true →
      let x := settleHold p.val (skipBad (queueOf (38 + p.val) u).items.length (38 + p.val) u)
      takeItem (38 + p.val) x = some (i, w) →
      let e := ptEntry i.bytes
      sStops p.val e.sel.val x = false →
      let ends := fun (aborted : Bool) (rx : List Byte) (r : State → Prop) =>
        ∃ t, exec (.passThroughEntry p aborted rx t0) s = .next t ∧ t.mode.cur = s.mode.cur ∧ r t
      (ptFits p.val e s = true → ∀ rx, rx.length = ptRxLen p.val e s →
        ends false rx (fun t => othersWant p.val .host s = false → (sportOf p.val t).out.sel = e.sel.val ∧
          (sportOf p.val t).out.bytes = (if e.frm then (frameOut p.val (ptFrame p.val e s) e.data w).bytes
            else withTrailer p.val (ptFrame p.val e s) e.data w) ∧
          count 0x380 t = (count 0x380 s + 1) % 65536)) ∧
      (ptFits p.val e s = true → ∀ rx, rx.length ≤ ptRxLen p.val e s →
        ends true rx (fun t => (sportOf p.val t).hold = none ∧ count 0x382 t = (count 0x382 s + 1) % 65536)) ∧
      (ptFits p.val e s = false → ∀ aborted rx,
        ends aborted rx (fun t => (sportOf p.val t).hold = none ∧ (sportOf p.val t).sticky.getLsbD 12 = true))) ∧
    (s.replay.run = false → servesTarget p.val s = true → (sportOf p.val s).target = false →
      targetAttached p.val s = true → sStops p.val 0 s = false → s.power.sleep ≠ .quiescing →
      ∃ t, exec (.targetSelectFall p t0) s = .next t ∧ (sportOf p.val t).target = true ∧
        (sportOf p.val t).ignore = false ∧ (sportOf p.val t).loaded = none ∧ t.mode.cur = s.mode.cur ∧
        (sportOf p.val t).sending = (sportOf p.val (loadTarget p.val s)).loaded) ∧
    ∀ rx clocked part, s.replay.run = false → (sportOf p.val s).target = true →
      let item := (sportOf p.val s).sending.getD []
      let fill := (sportOf p.val s).frame.tfill
      ∃ t, exec (.targetSelectRise p rx clocked part t0) s = .next t ∧ (sportOf p.val t).target = false ∧
        (sportOf p.val t).out.bytes = item.take clocked ++ List.replicate (clocked - item.length) fill ∧
        count 0x384 t = (count 0x384 s + 1) % 65536 ∧ t.mode.cur = s.mode.cur

/-- R320, R322 to R326: a filled line enters the cache unless it was invalidated meanwhile; a prefetch begins on an idle port
with the read opcode and the next line's address; a write of WCTRL with INV empties the cache, one with SFDP starts the read
in Halter, whose table gives the settings or SFDPERR, once the read has had the port. -/
def Obligations.ExecuteWindow : Prop :=
  ∀ s : State, Inv s →
    let x := sportOf 0 s
    let becomes := fun (c : Instr) (r : State → SPortSt → Prop) => ∃ t, exec c s = .next t ∧ t.mode.cur = s.mode.cur ∧
      r t (sportOf 0 t)
    (∀ f line, x.fill = some f → line.length = 32 →
      (f.2.1 = true → becomes (.lineFillDone line) (fun t _ => cachedLine f.1 t = some line ∧
        (flashWants s = false → statWord 0x2B80 t = (statWord 0x2B80 s + 1) % 65536))) ∧
      (f.2.1 = false → becomes (.lineFillDone line) (fun _ y => y.cache = x.cache))) ∧
    (∀ l, x.prefetch = some l → l + 32 < 2 ^ 24 → nbit (runWord 0x2A0A s) ((l + 32) / 2 ^ 20) = true →
      cachedLine (l + 32) s = none → s0Idle s = true → windowFetches s = true → s.power.sleep ≠ .quiescing →
      becomes .linePrefetch (fun t y => y.fill = some (l + 32, true, false) ∧ y.prefetch = none ∧
        y.out.cmd = field (runWord 0x2A02 s) 0 8 ∧ y.out.addr = l + 32 ∧
        statWord 0x2B8E t = (statWord 0x2B8E s + 1) % 65536)) ∧
    (HostServed s → winWritable 0x2A00 s = true →
      becomes .cacheInvalidate (fun _ y => y.cache = [] ∧ y.prefetch = none) ∧
      (nbit (cfgWord s.cfg.user 0x2A00) 6 = false →
        (s.mode.cur = .halter → becomes .sfdpRead (fun _ y => y.cache = [] ∧ y.sfdpRun = true)) ∧
        (s.mode.cur ≠ .halter → becomes .sfdpRead (fun t y => y.sfdpRun = x.sfdpRun ∧ t.rein.adre = true)))) ∧
    (x.sfdpRun = true → x.sfdpSent = false → sReady 0 (flashSel s) s = true →
      ∀ table, exec (.sfdpDone table) s = .next s) ∧
    (x.sfdpRun = true → x.sfdpSent = false → sReady 0 (flashSel s) s = false →
      becomes (.sfdpDone none) (fun t y => y.sfdpOk = false ∧ y.sfdpErr = true ∧ t.cfg.user = s.cfg.user)) ∧
    (x.sfdpSent = true →
      (∀ dw : List Long, 9 ≤ dw.length → becomes (.sfdpDone (some dw)) (fun _ y => y.sfdpOk = true ∧ y.sfdpErr = false ∧
        y.cache = [] ∧ y.sfdpRun = x.sfdpAgain)) ∧
      becomes (.sfdpDone none) (fun t y => y.sfdpOk = false ∧ y.sfdpErr = true ∧ t.cfg.user = s.cfg.user ∧
        y.sfdpRun = x.sfdpAgain))

/-! ## The two-wire ports (chapter 14) -/

/-- R337, R339 to R343: the bus that another controller takes and frees, with a waiting pass-through transaction starting; a
lost arbitration; a hang, its recovery with the reset pulse, and a recovery that fails and is repeated. -/
def Obligations.TwoWireBus : Prop :=
  ∀ (p : Fin 4) (s : State), Inv s → s.replay.run = false →
    let x := iportOf p.val s
    let a := portBlock (6 + p.val)
    let becomes := fun (c : Instr) (r : State → IPortSt → Prop) => ∃ t, exec c s = .next t ∧ t.mode.cur = s.mode.cur ∧
      r t (iportOf p.val t)
    let counts := fun (o : Nat) (t : State) => statWord (a + o) t = (statWord (a + o) s + 1) % 65536
    (iWorks p.val s = true → linesSeen p.val s = true → hubDrives p.val s = false → x.recov = false →
      exec (.busBusy p) s = .next (modIPort p.val (fun x => { x with ext := true }) s)) ∧
    (x.recov = false → iWorks p.val s = true →
      becomes (.busFree p) (fun _ y => y.ext = false ∧ y.idle = false ∧ y.stk = false) ∧
      ((∀ i < 16, (laneOf i s).wait ≠ .bus (6 + p.val)) →
        (ptWants p.val s = false → exec (.busFree p) s =
          .next (modIPort p.val (fun x => { x with ext := false, idle := false, stk := false }) s)) ∧
        (ptWants p.val s = true → laneTx (6 + p.val) s = false → laneWaits p.val s = false →
          becomes (.busFree p) (fun t y => ptOnWire p.val t = true ∧ y.hold = false ∧ y.out = ptWire p.val s)))) ∧
    (∀ t0 i, laneOn (6 + p.val) s = some i → (stepOf i s).isSome = true → portDropped (6 + p.val) s = false →
      becomes (.i2cArbitrationLost p t0) (fun t y => y.ext = true ∧ counts 0x384 t ∧
        ((laneOf i s).cancelled = false → (laneOf i s).expired = false → (laneOf i s).probe = false →
          mayRetry i (advance t0 s) = true → (laneOf i t).wait = .gap ∧ (laneOf i t).lastFail = 5))) ∧
    (∀ busy t0, iWorks p.val s = true → x.recov = false →
      (if busy then runWord (a + 0x16) s ≠ 0 ∧ busBusy p.val s = true else linesSeen p.val s = true) →
      becomes (.i2cHang p ⟨busy, t0⟩) (fun t y => y.recov = true ∧ y.hold = false ∧ y.sticky.getLsbD 9 = true ∧
        counts 0x386 t ∧ (ptOnWire p.val s = true → y.ptRun = false ∧
          statWord (a + 0x24) t % 8 = if busy then 6 else 5))) ∧
    (∀ low t0, x.recov = true →
      becomes (.i2cRecoveryDone p low false t0) (fun t y => y.recov = false ∧ y.brst = none ∧ y.stk = true ∧ y.ptRun = false ∧
        counts 0x38C t ∧ (x.brst.isSome = true → counts 0x388 t) ∧ t.fault.code = 0x48) ∧
      becomes (.i2cRecoveryDone p low true t0) (fun t y => y.recov = false ∧ y.brst = none ∧ y.stk = x.stk ∧
        (x.brst.isSome = true → counts 0x388 t) ∧ (low = true → counts 0x38A t) ∧
        (x.stk = false → y.ext = false ∧ y.idle = false))) ∧
    (x.stk = true → x.recov = false → iWorks p.val s = true →
      Gives (.i2cStuckRetry p) s (modIPort p.val (fun x => { x with
        recov := true
        brst := if nbit (runWord a s) 1 && pinCarries (38 + 3 * p.val) 0 s then some s.time.now else none }) s))

/-- R340, R342, R345, R346, R348: a transaction to the call address is posted as an event, or only counted where it reads or is
empty, and one to another address is not the port's; a pass-through transaction in Halter ends with its result in PT_STAT,
by a hang too, and at once on a stuck bus; the bus that it holds is let go. -/
def Obligations.TwoWireCalls : Prop :=
  ∀ (p : Fin 4) (s : State), Inv s →
    let a := portBlock (6 + p.val)
    let counts := fun (o : Nat) (t : State) => statWord (a + o) t = (statWord (a + o) s + 1) % 65536
    (∀ (addr : Byte) t0, s.replay.run = false → takesCalls p.val s = true → let u := advance t0 s
      (addr.toNat / 2 ≠ field (runWord (a + 0x1C) s) 0 7 → ∀ bytes, exec (.i2cCall p addr bytes t0) s = .next u) ∧
      (addr.toNat / 2 = field (runWord (a + 0x1C) s) 0 7 →
        (addr.getLsbD 0 = true → ∀ bytes, Gives (.i2cCall p addr bytes t0) s (countWord (a + 0x392) u)) ∧
        (addr.getLsbD 0 = false →
          (∃ t, exec (.i2cCall p addr [] t0) s = .next t ∧ OnlyRecords (countWord (a + 0x392) u) t) ∧
          ∀ bytes, bytes ≠ [] → bytes.length ≤ 16 → s.tap.kept = [] →
            let r := recPort (6 + p.val) 1 0xFF 0 0 (bytes.take 16) u.time.now
              (grants [(iPoint p.val, true), (iPoint p.val + 4, false)] u)
            canReserve 56 (if s.pool.lost = 0 then 1 else 2) r = true → qmgrDropped s = false →
            ∃ t, exec (.i2cCall p addr bytes t0) s = .next t ∧ t.attn.src.getLsbD 10 = true ∧ counts 0x38E t ∧
              t.mode.cur = s.mode.cur))) ∧
    (∀ done rx,
      let v := BitVec.ofNat 16 (cfgWord s.cfg.user (a + 0x20) + 1)
      let u := if (iportOf p.val s).ptRun then startPt p.val s else winWriteRow (a + 0x20) v (ptCtlWrite p.val v) s
      let w := runWord (a + 0x20) u
      let ends := fun (res : PtResult) (r : State → IPortSt → Prop) => ∃ t, exec (.ptGo p res done rx) s = .next t ∧
        t.mode.cur = s.mode.cur ∧ (iportOf p.val t).ptRun = false ∧ r t (iportOf p.val t)
      (ptOnWire p.val u = true →
        (∀ res, res ≠ .hang → res ≠ .busyTimeout → nbit w 1 = false ∨ rx.length = ptBytes p.val res done u →
          ends res (fun t y => y.hold = (res == .done && nbit w 2) ∧ statWord (a + 0x24) t =
            ptCode res + 8 * bit (res == .done && nbit w 2) + 256 * ptBytes p.val res done u)) ∧
        ends .hang (fun t y => y.recov = true ∧ statWord (a + 0x24) t % 8 = 5) ∧
        (runWord (a + 0x16) u ≠ 0 → ends .busyTimeout (fun t y => y.recov = true ∧ statWord (a + 0x24) t % 8 = 6))) ∧
      (HostServed s → winWritable (a + 0x20) s = true → s.mode.cur = .halter → iWorks p.val s = true →
        (iportOf p.val s).ptRun = false → (iportOf p.val s).stk = true → nbit (cfgWord s.cfg.user (a + 0x20)) 0 = false →
        ∀ res, ends res (fun t _ => statWord (a + 0x24) t = 5))) ∧
    ((iportOf p.val s).hold = true → ∃ t, exec (.ptHoldExpiry p) s = .next t ∧ (iportOf p.val t).hold = false ∧
      t.mode.cur = s.mode.cur ∧ ((∀ i < 16, (laneOf i s).wait ≠ .bus (6 + p.val)) → ptWants p.val s = false →
        t = { s with iports := t.iports, cfg := { s.cfg with status := t.cfg.status }, verdicts := t.verdicts })) ∧
    ((iportOf p.val s).hold = false → exec (.ptHoldExpiry p) s = .next s)

/-! ## The SENT inputs (chapter 15) -/

/-- R354 to R358, R362: what one pulse of the line does: a valid sync pulse sets the tick and begins a frame, also where it comes
early, in the middle of another; a nibble joins the frame, and the last one ends it well, with its status nibble shown, or as
a CRC error; a pause pulse leads to the next sync pulse; a pulse that fits nothing is the error of its place, with its counter
and sticky bit; a silent line is counted once. -/
def Obligations.SentInputs : Prop :=
  ∀ (p : Fin 4) (s : State), Inv s → s.replay.run = false →
    let x := tportOf p.val s
    let c := x.next.getD (tSettings p.val s)
    let becomes := fun (c : Instr) (r : State → TPortSt → Prop) => ∃ t, exec c s = .next t ∧ t.mode.cur = s.mode.cur ∧
      r t (tportOf p.val t)
    let counts := fun (o : Nat) (t : State) => statWord (tStat p.val o) t = (statWord (tStat p.val o) s + 1) % 65536
    (takesPulses p.val s = true → ∀ (len low : Nat) (t0 : HubTime),
      let u := advance t0 s
      let one : SentPulse := { len := len, low := low }
      let cand := syncCandidate x len
      let goesBy := fun (stage : SentStage) => exec (.sentSync p ⟨[one], t0⟩) s = .next (modTPort p.val (fun y => { y with
        stage := stage, next := some (tSettings p.val u), silent := false }) u)
      let synced := fun (r : State → Prop) => becomes (.sentSync p ⟨[one], t0⟩) (fun t y =>
        y.tick = (2 * len + 7) / 14 ∧ y.synced = true ∧ y.stage = .frame [] ∧ y.prev = some len ∧ y.set = c ∧
        y.silent = false ∧ statWord (tStat p.val 0x390) t = min ((2 * len + 7) / 14) 0xFFFF ∧ r t)
      let fails := fun (o b : Nat) => becomes (.sentError p [] one t0) (fun t y => y.stage = .search ∧ y.prev = none ∧
        y.slow = [] ∧ y.silent = false ∧ y.sticky.getLsbD b = true ∧ counts o t)
      (x.stage = .search ∨ x.stage = .sync → cand = true →
        (syncValid x c len = true → synced (fun _ => True)) ∧ (syncValid x c len = false → fails 0x382 8)) ∧
      (x.stage = .search → cand = false → goesBy .search) ∧
      (x.stage = .sync → cand = false → fails 0x384 9) ∧
      (x.stage = .pause → (inTicks x.tick 768 len = true → goesBy .sync) ∧ (inTicks x.tick 768 len = false → fails 0x388 11)) ∧
      ∀ ns, x.stage = .frame ns →
        (cand = true → syncValid { x with prev := none } c len = true → synced (counts 0x384)) ∧
        (cand = false → inTicks x.tick 27 len = false → fails 0x384 9) ∧
        (cand = false → inTicks x.tick 27 len = true →
          let nibbles := ns ++ [nibbleOf x.tick len]
          (ns.length + 1 < x.set.nib + 2 → goesBy (.frame nibbles)) ∧
          (x.set.nib + 2 ≤ ns.length + 1 →
            (some (sentCrc x.set.crcrec (nibbles.drop 1).dropLast) = nibbles.getLast? →
              becomes (.sentFrame p [] low len t0) (fun t y => y.stage = (if x.set.pause then .pause else .sync) ∧ counts 0x380 t ∧
                statWord (tStat p.val 0x392) t = (nibbles.headD 0).toNat)) ∧
            (some (sentCrc x.set.crcrec (nibbles.drop 1).dropLast) ≠ nibbles.getLast? → fails 0x386 10)))) ∧
    ∀ t0, tWorks p.val s = true → x.silent = false → lineLimit p.val s ≠ 0 →
      becomes (.sentLineTimeout p t0) (fun t y => y.silent = true ∧ y.stage = .search ∧ y.prev = none ∧
        y.sticky.getLsbD 13 = true ∧ counts 0x38E t)

/-! ## The tap and replay (chapter 16) -/

/-- R48, R369, R371 to R373: a loss is recorded with a Gap record, and the next keyframe falls due; ARM and FRZ; the writing of
a verdict batch changes nothing but records; a verdict joins the run of its point where it has the same winner and the run is
shorter than 64, and the verdicts of each point keep their order. -/
def Obligations.TapCommands : Prop :=
  (∀ (loss : GapLoss) (s : State), s.tap.recording = true → loss.input = true ∨ 0 < s.tap.lostBlocks →
    ∃ t, exec (.gapRecord loss) s = .next t ∧ OnlyRecords s t ∧ t.tap.gap = true ∧ t.tap.kfpend = true ∧
      t.tap.gaps = BitVec.ofNat 16 (min 0xFFFF (s.tap.gaps.toNat + 1)) ∧ t.attn.src.getLsbD 13 = true) ∧
  (∀ s, HostServed s → unitFailed 22 s = false →
    ((s.tap.recording = true → s.tap.en = true) → ∃ t, exec .tapArm s = .next t ∧ OnlyRecords s t ∧ t.tap.frozen = false ∧
      t.tap.armed = (s.tap.armed || s.tap.mode)) ∧
    (s.tap.frozen = false → ∃ t, exec .tapFrz s = .next t ∧ OnlyRecords s t ∧ t.tap.frozen = true ∧ t.tap.fcause = 1 ∧
      t.tap.recording = false)) ∧
  (∀ s t0, ∃ t, exec (.verdictBatchWrite t0) s = .next t ∧ OnlyRecords (advance t0 s) t ∧
    (s.tap.recording = false ∨ s.tap.verd = false ∨ s.verdicts.batch = [] → t = advance t0 s)) ∧
  ∀ (v : Verdict) (b : List (Verdict × Nat)),
    let told := fun (b : List (Verdict × Nat)) (p : Nat) =>
      (b.reverse.flatMap (fun e => List.replicate e.2 e.1)).filter (fun w => w.point == p)
    (∀ p, told (addVerdict v b) p = told b p ++ (if v.point = p then [v] else [])) ∧
    ((∀ e ∈ b, 1 ≤ e.2 ∧ e.2 ≤ 64) → ∀ e ∈ addVerdict v b, 1 ≤ e.2 ∧ e.2 ≤ 64) ∧
    (addVerdict v b).length ≤ b.length + 1

/-- R320, R377, R379, R382 to R384: a read of the loader that fails ends it with WHY 1, and one waits while S0 is another's turn;
GO resumes a paused replay; a record that need not wait acts, with the loader's room and the progress that follow; a replay
ends at its last epoch marker, and at a gap unless it resynchronises. -/
def Obligations.ReplayCommands : Prop :=
  (∀ (bytes : List Byte) (fails : Bool) (s : State), loaderRuns s = true →
    (∃ t, exec (.replayLoaderFill bytes fails) s = .next t ∧ t.replay.run = s.replay.run ∧ t.mode.cur = s.mode.cur) ∧
    (fails = true ∨ sReady 0 (flashSel s) s = false → exec (.replayLoaderFill bytes fails) s = .next { s with replay :=
      { s.replay with why := 1, ended := .readFailed, lstate := if s.replay.lstate = 1 then 5 else s.replay.lstate } }) ∧
    (sReady 0 (flashSel s) s = true → sTurn 0 .flash s = false → exec (.replayLoaderFill bytes false) s = .next s)) ∧
  (∀ s, reinListens s = true → unitFailed 22 s = false → ∃ t, exec .replayGo s = .next t ∧
    t.replay.paused = false ∧ t.replay.run = s.replay.run ∧ t.replay.pause = s.replay.pause ∧ t.mode.cur = s.mode.cur) ∧
  ∀ (stalled : Option (Fin 412)) (misfit : Bool) (s : State), s.replay.run = true → s.replay.paused = false →
    let rs := recordsAhead s
    (s.replay.ended = .units → s.replay.seeking = false → markerIn rs = false → (∃ n, s.op.job = .replay n) →
      ∃ t, exec (.replayRecord stalled misfit) s = .next t ∧ t.replay.run = false ∧ t.op.state = 2 ∧ t.op.why = 0) ∧
    ∀ i u r, s.replay.ended ≠ .units → s.replay.seeking = false → (markerIn rs || loaderStands s) = true →
      takeGood (queueOf 50 s).items.length 50 s = some (i, u) → traceRecord i.bytes = some r → r.type ≠ 11 →
      recordWaits r rs misfit s = false →
      exec (.replayRecord stalled misfit) s = .next (endAtLastMarker (replayProgress
        (actOn r (if r.isBound then turnAhead rs else none) stalled misfit (consumeRecord r u)))) ∧
      (r.type = 10 → s.replay.resync = false → (∃ n, s.op.job = .replay n) → ∃ t, exec (.replayRecord stalled misfit) s = .next t ∧
        t.replay.run = false ∧ t.op.state = 3 ∧ t.op.why = 8)
end

