-- ==== Sys2Proof/Laws/Records.lean ====
section
/-! SUPPORT. Operations that change records only: for each shared operation that logs a fault, posts an event, writes the
trace, uses a queue or answers the host, one lemma says that everything else stays. -/

namespace Sys2Proof.Laws

set_option Elab.async false

open Sys2Proof.Machine Sys2Proof.Safety

variable {b0 s t : State}

theorem OnlyRecords.refl : OnlyRecords s s := ⟨rfl, rfl, rfl, rfl, rfl, rfl, rfl, rfl, rfl, rfl, rfl, rfl, rfl, rfl, rfl, rfl, rfl⟩

theorem OnlyRecords.trans (h : OnlyRecords b0 s) (k : OnlyRecords s t) : OnlyRecords b0 t :=
  ⟨k.power.trans h.power, k.mode.trans h.mode, k.pins.trans h.pins, k.auth.trans h.auth, k.tack.trans h.tack,
    k.cfg.trans h.cfg, k.poll.trans h.poll, k.snap.trans h.snap, k.time.trans h.time, k.boryel.trans h.boryel,
    k.canA.trans h.canA, k.canB.trans h.canB, k.sports.trans h.sports, k.iports.trans h.iports, k.tports.trans h.tports,
    k.replay.trans h.replay, k.pending.trans h.pending⟩

/-- An update of a record changes records only. -/
theorem OnlyRecords.upd (h : OnlyRecords b0 s) (e : OnlyRecords s t := by
    with_reducible exact ⟨rfl, rfl, rfl, rfl, rfl, rfl, rfl, rfl, rfl, rfl, rfl, rfl, rfl, rfl, rfl, rfl, rfl⟩) : OnlyRecords b0 t :=
  OnlyRecords.trans h e

theorem OnlyRecords.ite {c : Prop} [Decidable c] (hs : OnlyRecords b0 s) (ht : OnlyRecords b0 t) : OnlyRecords b0 (if c then s else t) := by
  split <;> assumption

theorem OnlyRecords.iteR {c : Prop} [Decidable c] {r q : Reply} (hr : OnlyRecords b0 r.s) (hq : OnlyRecords b0 q.s) :
    OnlyRecords b0 (if c then r else q).s := by
  split <;> assumption

theorem OnlyRecords.foldl {α : Type} {f : State → α → State} (hf : ∀ x a, OnlyRecords b0 x → OnlyRecords b0 (f x a)) {l : List α} :
    ∀ {s : State}, OnlyRecords b0 s → OnlyRecords b0 (l.foldl f s) := by
  induction l with
  | nil => exact fun h => h
  | cons a l ih => exact fun h => ih (hf _ a h)

theorem modQueue_apart {q f s} (K : OnlyRecords b0 s) : OnlyRecords b0 (modQueue q f s) := by
  unfold modQueue; exact OnlyRecords.upd K

theorem keepRing_apart {s base} (K : OnlyRecords b0 s) (hbase : OnlyRecords b0 base) : OnlyRecords b0 (keepRing s base) := by
  unfold keepRing; exact OnlyRecords.ite (OnlyRecords.upd hbase) hbase

theorem countFlushDrop_apart {s} (K : OnlyRecords b0 s) : OnlyRecords b0 (countFlushDrop s) := by
  unfold countFlushDrop; exact OnlyRecords.upd K

theorem dropForced_apart {p s} (K : OnlyRecords b0 s) : OnlyRecords b0 (dropForced p s) := by
  unfold dropForced; exact OnlyRecords.upd K

theorem grant_apart {p b s} (K : OnlyRecords b0 s) : OnlyRecords b0 (grant p b s) := by
  unfold grant; exact OnlyRecords.ite (OnlyRecords.ite (dropForced_apart K) K) (OnlyRecords.ite (OnlyRecords.upd K) K)

theorem grants_apart {l s} (K : OnlyRecords b0 s) : OnlyRecords b0 (grants l s) := by
  unfold grants; exact OnlyRecords.foldl (fun _ _ h1 => grant_apart h1) K

theorem hostDequeued_apart {q x s} (K : OnlyRecords b0 s) : OnlyRecords b0 (hostDequeued q x s) := by
  unfold hostDequeued; exact grants_apart (modQueue_apart K)

theorem serveStall_apart {s} (K : OnlyRecords b0 s) : OnlyRecords b0 (serveStall s) := by
  unfold serveStall
  split
  · split
    · exact K
    · exact grant_apart (hostDequeued_apart (OnlyRecords.upd K))
  · exact K

theorem drawn_apart {s} (K : OnlyRecords b0 s) : OnlyRecords b0 (drawn s) := by
  unfold drawn; exact OnlyRecords.upd K

theorem putCells_apart {cells i bs s} (K : OnlyRecords b0 s) : OnlyRecords b0 (putCells cells i bs s) := by
  unfold putCells; exact OnlyRecords.upd K

theorem writeOpen_apart {q who bs s} (K : OnlyRecords b0 s) : OnlyRecords b0 (writeOpen q who bs s) := by
  unfold writeOpen
  split
  · exact K
  · extract_lets +onlyGivenNames _ _
    exact grants_apart (putCells_apart (modQueue_apart K))

theorem closeItem_apart {q who bytes kind s} (K : OnlyRecords b0 s) : OnlyRecords b0 (closeItem q who bytes kind s) := by
  unfold closeItem
  extract_lets +onlyGivenNames s1
  have hs1 : OnlyRecords b0 s1 := writeOpen_apart K
  clear_value s1
  split
  · exact hs1
  · exact OnlyRecords.ite (grant_apart (countFlushDrop_apart (modQueue_apart hs1))) (by
        extract_lets +onlyGivenNames _ s11
        have hs11 : OnlyRecords b0 s11 := modQueue_apart hs1
        clear_value s11
        exact serveStall_apart (grant_apart (OnlyRecords.ite (grant_apart hs11) hs11)))

theorem abandonItem_apart {q who s} (K : OnlyRecords b0 s) : OnlyRecords b0 (abandonItem q who s) := by
  unfold abandonItem; exact grant_apart (modQueue_apart K)

theorem closeBlock_apart {s} (K : OnlyRecords b0 s) : OnlyRecords b0 (closeBlock s) := by
  unfold closeBlock; exact OnlyRecords.ite (abandonItem_apart K) (closeItem_apart K)

theorem attend_apart {n s} (K : OnlyRecords b0 s) : OnlyRecords b0 (attend n s) := by
  unfold attend
  extract_lets +onlyGivenNames s1
  have hs1 : OnlyRecords b0 s1 := OnlyRecords.ite (grant_apart (grant_apart K)) K
  clear_value s1
  exact grant_apart (OnlyRecords.upd hs1)

theorem freeze_apart {cause s} (K : OnlyRecords b0 s) : OnlyRecords b0 (freeze cause s) := by
  unfold freeze
  split
  · exact K
  · extract_lets +onlyGivenNames s1
    have hs1 : OnlyRecords b0 s1 := closeBlock_apart K
    clear_value s1
    exact attend_apart (OnlyRecords.upd hs1)

theorem tapTrigger_apart {n s} (K : OnlyRecords b0 s) : OnlyRecords b0 (tapTrigger n s) := by
  unfold tapTrigger; exact OnlyRecords.ite (OnlyRecords.ite (freeze_apart K) (OnlyRecords.upd K)) K

theorem openItem_apart {q n who prio s} (K : OnlyRecords b0 s) : OnlyRecords b0 (openItem q n who prio s) := by
  unfold openItem
  extract_lets +onlyGivenNames _
  exact modQueue_apart (OnlyRecords.upd K)

theorem tapDrawn_apart {s} (K : OnlyRecords b0 s) : OnlyRecords b0 (tapDrawn s) := by
  unfold tapDrawn; exact OnlyRecords.upd K

theorem streamOut_apart {bs s} (K : OnlyRecords b0 s) : OnlyRecords b0 (streamOut bs s) := by
  unfold streamOut; exact OnlyRecords.ite (OnlyRecords.ite (tapDrawn_apart (OnlyRecords.upd K)) (tapDrawn_apart (OnlyRecords.upd K))) K

theorem reserve_apart {q n who prio s t} (h : OnlyRecords b0 s) (e : reserve q n who prio s = some t) : OnlyRecords b0 t := by
  unfold reserve at e
  split at e
  · cases e
    exact grants_apart (openItem_apart h)
  · cases e

theorem dropOldest_apart {q rest s} (K : OnlyRecords b0 s) : OnlyRecords b0 (dropOldest q rest s) := by
  unfold dropOldest; exact grants_apart (modQueue_apart K)

theorem makeRingRoom_apart {n s} (h : OnlyRecords b0 s) : OnlyRecords b0 (makeRingRoom n s) := by
  induction n generalizing s with
  | zero => exact h
  | succ n ih =>
    unfold makeRingRoom; split
    · exact h
    · split
      · exact h
      · exact ih (OnlyRecords.upd (dropOldest_apart h))

theorem haveBlock_apart {s t} (h : OnlyRecords b0 s) (e : haveBlock s = some t) : OnlyRecords b0 t := by
  unfold haveBlock at e
  split at e
  · cases e
    exact h
  · exact reserve_apart (makeRingRoom_apart h) ‹_›

theorem putRecord_apart {type flags body s} (K : OnlyRecords b0 s) : OnlyRecords b0 (putRecord type flags body s) := by
  unfold putRecord
  extract_lets +onlyGivenNames _
  split
  · exact K
  · extract_lets +onlyGivenNames s2
    have hs2 : OnlyRecords b0 s2 := writeOpen_apart (haveBlock_apart (OnlyRecords.ite (closeBlock_apart K) K) ‹_›)
    clear_value s2
    exact streamOut_apart (OnlyRecords.upd hs2)

theorem recVerdicts_apart {es s} (K : OnlyRecords b0 s) : OnlyRecords b0 (recVerdicts es s) := by
  unfold recVerdicts
  extract_lets +onlyGivenNames _ _
  exact putRecord_apart K

theorem writeFull_apart {n s} (h : OnlyRecords b0 s) : OnlyRecords b0 (writeFull n s) := by
  induction n generalizing s with
  | zero => exact h
  | succ n ih =>
    unfold writeFull; dsimp only; split
    · exact h
    · exact ih (recVerdicts_apart (OnlyRecords.upd h))

theorem tapAppend_apart {type flags body s} (K : OnlyRecords b0 s) : OnlyRecords b0 (tapAppend type flags body s) := by
  unfold tapAppend; exact OnlyRecords.ite (putRecord_apart (writeFull_apart K)) K

theorem recFault_apart {code island detail s} (K : OnlyRecords b0 s) : OnlyRecords b0 (recFault code island detail s) := by
  unfold recFault; exact tapAppend_apart K

theorem logFault_apart {code cls island detail s0} (K : OnlyRecords b0 s0) : OnlyRecords b0 (logFault code cls island detail s0) := by
  unfold logFault
  extract_lets +onlyGivenNames _ _ s1
  have hs1 : OnlyRecords b0 s1 := OnlyRecords.upd K
  clear_value s1
  exact tapTrigger_apart (recFault_apart (attend_apart (grant_apart (grant_apart hs1))))

theorem opEnd_apart {st why s} (K : OnlyRecords b0 s) : OnlyRecords b0 (opEnd st why s) := by
  unfold opEnd; exact attend_apart (grant_apart (OnlyRecords.upd K))

theorem freeDrain_apart {s} (K : OnlyRecords b0 s) : OnlyRecords b0 (freeDrain s) := by
  unfold freeDrain
  extract_lets +onlyGivenNames s1
  have hs1 : OnlyRecords b0 s1 := modQueue_apart (abandonItem_apart K)
  clear_value s1
  exact OnlyRecords.upd hs1

theorem recMode_apart {old new hw prof first s} (K : OnlyRecords b0 s) : OnlyRecords b0 (recMode old new hw prof first s) := by
  unfold recMode; exact tapAppend_apart K

theorem endRecording_apart {s} (K : OnlyRecords b0 s) : OnlyRecords b0 (endRecording s) := by
  unfold endRecording; exact OnlyRecords.ite (OnlyRecords.ite (freeze_apart K) (OnlyRecords.upd K)) K

theorem endFault_apart {code s} (K : OnlyRecords b0 s) : OnlyRecords b0 (endFault code s) := by
  unfold endFault; exact OnlyRecords.upd K

theorem faultInvalid_apart {area why s} (K : OnlyRecords b0 s) : OnlyRecords b0 (faultInvalid area why s) := by
  unfold faultInvalid; exact logFault_apart K

theorem endIfDisabled_apart {s} (K : OnlyRecords b0 s) : OnlyRecords b0 (endIfDisabled s) := by
  unfold endIfDisabled; exact OnlyRecords.ite (endRecording_apart K) K

theorem recRein_apart {win result a v winAddr s} (K : OnlyRecords b0 s) : OnlyRecords b0 (recRein win result a v winAddr s) := by
  unfold recRein; exact tapAppend_apart K

theorem intoReply_apart {r} (hr : OnlyRecords b0 r.s) : OnlyRecords b0 (intoReply r) := by
  unfold intoReply
  extract_lets +onlyGivenNames src
  have hsrc : OnlyRecords b0 src := hr
  clear_value src
  exact OnlyRecords.upd hsrc

theorem writeReply_apart {v r} (hr : OnlyRecords b0 r.s) : OnlyRecords b0 (writeReply v r) := by
  unfold writeReply; exact OnlyRecords.ite hr (intoReply_apart hr)

theorem goodWrite_apart {a v r} (hr : OnlyRecords b0 r.s) : OnlyRecords b0 (goodWrite a v r) := by
  unfold goodWrite; exact endIfDisabled_apart (recRein_apart (writeReply_apart hr))

theorem denied_apart {s} (K : OnlyRecords b0 s) : OnlyRecords b0 (denied s).s := by
  unfold denied; exact K

theorem wrote_apart {s} (K : OnlyRecords b0 s) : OnlyRecords b0 (wrote s).s := by
  unfold wrote; exact K

theorem emptyQueue_apart {q s} (K : OnlyRecords b0 s) : OnlyRecords b0 (emptyQueue q s) := by
  unfold emptyQueue; exact grant_apart (modQueue_apart K)

theorem freeStaging_apart {s} (K : OnlyRecords b0 s) : OnlyRecords b0 (freeStaging s) := by
  unfold freeStaging
  extract_lets +onlyGivenNames s1
  have hs1 : OnlyRecords b0 s1 := emptyQueue_apart (abandonItem_apart K)
  clear_value s1
  exact OnlyRecords.upd hs1

theorem recTime_apart {start bound epoch afterGap number s0} (K : OnlyRecords b0 s0) : OnlyRecords b0 (recTime start bound epoch afterGap number s0) := by
  unfold recTime
  extract_lets +onlyGivenNames s
  have hs : OnlyRecords b0 s := OnlyRecords.ite (closeBlock_apart K) K
  clear_value s
  exact tapAppend_apart hs

theorem keyframeDue_apart {s} (K : OnlyRecords b0 s) : OnlyRecords b0 (keyframeDue s) := by
  unfold keyframeDue; exact OnlyRecords.upd K

theorem countKeyframe_apart {s} (K : OnlyRecords b0 s) : OnlyRecords b0 (countKeyframe s) := by
  unfold countKeyframe; exact OnlyRecords.ite (keyframeDue_apart (OnlyRecords.upd K)) (OnlyRecords.upd K)

theorem opPost_apart {w0 w1 w2 w3 s} (K : OnlyRecords b0 s) : OnlyRecords b0 (opPost w0 w1 w2 w3 s) := by
  unfold opPost
  extract_lets +onlyGivenNames _
  exact OnlyRecords.ite (grant_apart (grant_apart (OnlyRecords.upd K))) (grant_apart (OnlyRecords.upd K))

theorem markDrop_apart {q s} (K : OnlyRecords b0 s) : OnlyRecords b0 (markDrop q s) := by
  unfold markDrop; exact modQueue_apart K

theorem putItem_apart {q who prio bytes kind s t} (h : OnlyRecords b0 s) (e : putItem q who prio bytes kind s = some t) : OnlyRecords b0 t := by
  unfold putItem at e; split at e
  · cases e
  · cases e; exact closeItem_apart (reserve_apart h ‹_›)

theorem queueBoryel_apart {o kind data s} (K : OnlyRecords b0 s) : OnlyRecords b0 (queueBoryel o kind data s) := by
  unfold queueBoryel
  extract_lets +onlyGivenNames _ _ _
  split
  · exact markDrop_apart K
  · exact grant_apart (putItem_apart K ‹_›)

theorem recPort_apart {port kind ep outcome lane rx t s} (K : OnlyRecords b0 s) : OnlyRecords b0 (recPort port kind ep outcome lane rx t s) := by
  unfold recPort; exact tapAppend_apart K

theorem recEpoch_apart {mode crcv clipped skipped guard skip number crc cutoff s} (K : OnlyRecords b0 s) : OnlyRecords b0 (recEpoch mode crcv clipped skipped guard skip number crc cutoff s) := by
  unfold recEpoch; exact tapAppend_apart K

theorem dropTap_apart {s} (K : OnlyRecords b0 s) : OnlyRecords b0 (dropTap s) := by
  unfold dropTap; exact OnlyRecords.ite (OnlyRecords.upd K) K

theorem countPost_apart {s} (K : OnlyRecords b0 s) : OnlyRecords b0 (countPost s) := by
  unfold countPost; exact OnlyRecords.ite (OnlyRecords.ite (freeze_apart K) (OnlyRecords.upd K)) K

theorem recCommitted_apart {k crcv s} (K : OnlyRecords b0 s) : OnlyRecords b0 (recCommitted k crcv s) := by
  unfold recCommitted; exact recEpoch_apart K

theorem winDone_apart {w r} (hr : OnlyRecords b0 r.s) : OnlyRecords b0 (winDone w r).s := by
  unfold winDone
  split
  · exact hr
  · extract_lets +onlyGivenNames src
    have hsrc : OnlyRecords b0 src := hr
    clear_value src
    exact OnlyRecords.upd hsrc

theorem answer_apart {v s} (K : OnlyRecords b0 s) : OnlyRecords b0 (answer v s).s := by
  unfold answer; exact K

theorem shows_apart {v s} (K : OnlyRecords b0 s) : OnlyRecords b0 (shows v s).s := by
  unfold shows; exact answer_apart K

theorem countCorr_apart {s} (K : OnlyRecords b0 s) : OnlyRecords b0 (countCorr s) := by
  unfold countCorr; exact OnlyRecords.upd K

theorem poisonRead_apart {q s} (K : OnlyRecords b0 s) : OnlyRecords b0 (poisonRead q s) := by
  unfold poisonRead
  split
  · exact K
  · extract_lets +onlyGivenNames _ _ s1
    have hs1 : OnlyRecords b0 s1 := modQueue_apart K
    clear_value s1
    extract_lets +onlyGivenNames _ s2
    have hs2 : OnlyRecords b0 s2 := OnlyRecords.upd hs1
    clear_value s2
    exact logFault_apart hs2

theorem readEcc_apart {q ecc s} (K : OnlyRecords b0 s) : OnlyRecords b0 (readEcc q ecc s) := by
  unfold readEcc
  split
  · exact K
  · exact countCorr_apart K
  · exact poisonRead_apart K

theorem readWord_apart {q ecc s0} (K : OnlyRecords b0 s0) : OnlyRecords b0 (readWord q ecc s0).s := by
  unfold readWord
  extract_lets +onlyGivenNames s
  have hs : OnlyRecords b0 s := readEcc_apart K
  clear_value s
  split
  · exact denied_apart hs
  · extract_lets +onlyGivenNames _ s1
    have hs1 : OnlyRecords b0 s1 := modQueue_apart hs
    clear_value s1
    exact answer_apart (grants_apart hs1)

theorem readQueue_apart {q stallOk ecc s} (K : OnlyRecords b0 s) : OnlyRecords b0 (readQueue q stallOk ecc s).s := by
  unfold readQueue
  exact OnlyRecords.iteR (denied_apart K) (OnlyRecords.iteR (readWord_apart K) (by
      split
      · exact answer_apart (hostDequeued_apart K)
      · exact OnlyRecords.iteR (answer_apart (OnlyRecords.upd K)) (answer_apart K)))

theorem readQueueReg_apart {a stallOk ecc s} (K : OnlyRecords b0 s) : OnlyRecords b0 (readQueueReg a stallOk ecc s).s := by
  unfold readQueueReg
  extract_lets +onlyGivenNames q x
  split
  · exact shows_apart K
  · exact shows_apart K
  · exact shows_apart K
  · exact shows_apart K
  · exact shows_apart K
  · exact shows_apart K
  · exact shows_apart K
  · exact shows_apart K
  · exact readQueue_apart K
  · exact shows_apart K
  · exact shows_apart K
  · exact shows_apart K
  · exact shows_apart K
  · exact shows_apart K
  · exact shows_apart K
  · exact shows_apart K

theorem bankRead_apart {b o ecc s} (K : OnlyRecords b0 s) : OnlyRecords b0 (bankRead b o ecc s).s := by
  unfold bankRead
  split
  · exact denied_apart K
  · split
    · exact denied_apart (logFault_apart K)
    · exact shows_apart K

theorem scrubPoison_apart {cell word s} (K : OnlyRecords b0 s) : OnlyRecords b0 (scrubPoison cell word s) := by
  unfold scrubPoison
  split
  · exact K
  · extract_lets +onlyGivenNames _ s1
    have hs1 : OnlyRecords b0 s1 := modQueue_apart K
    clear_value s1
    exact logFault_apart (OnlyRecords.upd hs1)

theorem rawAccess_apart {b o s} (K : OnlyRecords b0 s) : OnlyRecords b0 (rawAccess b o s) := by
  unfold rawAccess; exact grants_apart K

theorem rawPoison_apart {o s} (K : OnlyRecords b0 s) : OnlyRecords b0 (rawPoison o s) := by
  unfold rawPoison
  extract_lets +onlyGivenNames s1
  have hs1 : OnlyRecords b0 s1 := scrubPoison_apart K
  clear_value s1
  exact OnlyRecords.upd hs1

theorem rawRead_apart {o ecc s} (K : OnlyRecords b0 s) : OnlyRecords b0 (rawRead o ecc s).s := by
  unfold rawRead
  extract_lets +onlyGivenNames s1
  have hs1 : OnlyRecords b0 s1 := rawAccess_apart K
  clear_value s1
  split
  · exact denied_apart (rawPoison_apart hs1)
  · exact shows_apart (countCorr_apart hs1)
  · exact shows_apart hs1

theorem beginOp_apart {code job s} (K : OnlyRecords b0 s) : OnlyRecords b0 (beginOp code job s) := by
  unfold beginOp; exact OnlyRecords.upd K

theorem opProgress_apart {n s} (K : OnlyRecords b0 s) : OnlyRecords b0 (opProgress n s) := by
  unfold opProgress; exact grant_apart (OnlyRecords.upd K)

theorem drainWaits_apart {on s} (K : OnlyRecords b0 s) : OnlyRecords b0 (drainWaits on s) := by
  unfold drainWaits
  extract_lets +onlyGivenNames rest
  exact OnlyRecords.upd K

theorem releaseBlock_apart {cur s} (K : OnlyRecords b0 s) : OnlyRecords b0 (releaseBlock cur s) := by
  unfold releaseBlock; exact OnlyRecords.ite (grants_apart (modQueue_apart K)) K

theorem startFlush_apart {q byHost byOp s} (K : OnlyRecords b0 s) : OnlyRecords b0 (startFlush q byHost byOp s) := by
  unfold startFlush; exact grants_apart (modQueue_apart K)

theorem replayProgress_apart {s} (K : OnlyRecords b0 s) : OnlyRecords b0 (replayProgress s) := by
  unfold replayProgress
  split
  · exact OnlyRecords.ite (opProgress_apart K) (opProgress_apart K)
  · exact K

theorem loaderWaits_apart {cells s} (K : OnlyRecords b0 s) : OnlyRecords b0 (loaderWaits cells s) := by
  unfold loaderWaits
  extract_lets +onlyGivenNames rest
  exact OnlyRecords.upd K

theorem writeWindowReg_apart {a v s} (K : OnlyRecords b0 s) : OnlyRecords b0 (writeWindowReg a v s).s := by
  unfold writeWindowReg
  extract_lets +onlyGivenNames w
  exact OnlyRecords.iteR (wrote_apart (OnlyRecords.upd K)) (OnlyRecords.iteR (OnlyRecords.iteR (denied_apart K) (wrote_apart (OnlyRecords.upd K))) (wrote_apart (OnlyRecords.upd K)))

theorem ignored_apart {s} (K : OnlyRecords b0 s) : OnlyRecords b0 (ignored s).s := by
  unfold ignored; exact wrote_apart K

theorem markNoSpace_apart {q s} (K : OnlyRecords b0 s) : OnlyRecords b0 (markNoSpace q s) := by
  unfold markNoSpace; exact modQueue_apart K

theorem qmCfgWrite_apart {v s} (K : OnlyRecords b0 s) : OnlyRecords b0 (qmCfgWrite v s).s := by
  unfold qmCfgWrite
  extract_lets +onlyGivenNames q x n cap enOk prioOk capOk
  exact modQueue_apart K

theorem qmRsvWrite_apart {v s} (K : OnlyRecords b0 s) : OnlyRecords b0 (qmRsvWrite v s).s := by
  unfold qmRsvWrite
  extract_lets +onlyGivenNames q x r others
  exact OnlyRecords.iteR (wrote_apart (modQueue_apart K)) (denied_apart K)

theorem growHost_apart {q v s0} (K : OnlyRecords b0 s0) : OnlyRecords b0 (growHost q v s0) := by
  unfold growHost
  extract_lets +onlyGivenNames _ s
  have hs : OnlyRecords b0 s := OnlyRecords.upd K
  clear_value s
  exact grant_apart (writeOpen_apart hs)

theorem qmEccWrite_apart {v s} (K : OnlyRecords b0 s) : OnlyRecords b0 (qmEccWrite v s) := by
  unfold qmEccWrite
  extract_lets +onlyGivenNames n
  exact OnlyRecords.upd K

theorem tapArmNow_apart {s} (K : OnlyRecords b0 s) : OnlyRecords b0 (tapArmNow s) := by
  unfold tapArmNow; exact OnlyRecords.upd K

theorem tapCtrlWrite_apart {v s0} (K : OnlyRecords b0 s0) : OnlyRecords b0 (tapCtrlWrite v s0).s := by
  unfold tapCtrlWrite
  extract_lets +onlyGivenNames _ s
  have hs : OnlyRecords b0 s := OnlyRecords.upd K
  clear_value s
  split
  · exact hs
  · extract_lets +onlyGivenNames s1
    have hs1 : OnlyRecords b0 s1 := OnlyRecords.ite (tapArmNow_apart hs) hs
    clear_value s1
    exact wrote_apart (OnlyRecords.ite (freeze_apart hs1) hs1)

theorem tapStatWrite_apart {v s} (K : OnlyRecords b0 s) : OnlyRecords b0 (tapStatWrite v s) := by
  unfold tapStatWrite; exact OnlyRecords.upd K

theorem setItemByte_apart {o v s} (K : OnlyRecords b0 s) : OnlyRecords b0 (setItemByte o v s) := by
  unfold setItemByte
  split
  · exact modQueue_apart K
  · exact K

theorem rawSet_apart {o v s} (K : OnlyRecords b0 s) : OnlyRecords b0 (rawSet o v s) := by
  unfold rawSet
  extract_lets +onlyGivenNames s1
  have hs1 : OnlyRecords b0 s1 := setItemByte_apart K
  clear_value s1
  exact OnlyRecords.upd hs1

theorem rawWrite_apart {o v s} (K : OnlyRecords b0 s) : OnlyRecords b0 (rawWrite o v s).s := by
  unfold rawWrite
  extract_lets +onlyGivenNames s1
  have hs1 : OnlyRecords b0 s1 := rawAccess_apart K
  clear_value s1
  exact wrote_apart (rawSet_apart (rawSet_apart hs1))

theorem goodWinWrite_apart {w v r} (hr : OnlyRecords b0 r.s) : OnlyRecords b0 (goodWinWrite w v r) := by
  unfold goodWinWrite; exact endIfDisabled_apart (recRein_apart (writeReply_apart hr))

theorem sendReply_apart {edges s} (K : OnlyRecords b0 s) : OnlyRecords b0 (sendReply edges s) := by
  unfold sendReply; exact OnlyRecords.upd K

theorem endSlow_apart {v adre s} (K : OnlyRecords b0 s) : OnlyRecords b0 (endSlow v adre s) := by
  unfold endSlow; exact OnlyRecords.upd K

theorem postSegment_apart {first seg skip fz err s} (K : OnlyRecords b0 s) : OnlyRecords b0 (postSegment first seg skip fz err s) := by
  unfold postSegment
  extract_lets +onlyGivenNames g
  exact opPost_apart K

theorem postFlash_apart {addr done status extra s} (K : OnlyRecords b0 s) : OnlyRecords b0 (postFlash addr done status extra s) := by
  unfold postFlash; exact opPost_apart K

theorem postReport_apart {r s} (K : OnlyRecords b0 s) : OnlyRecords b0 (postReport r s) := by
  unfold postReport
  extract_lets +onlyGivenNames w1
  exact opPost_apart K

theorem recCan_apart {ch evt lec f t sof s} (K : OnlyRecords b0 s) : OnlyRecords b0 (recCan ch evt lec f t sof s) := by
  unfold recCan; exact tapAppend_apart K

theorem recCanEvent_apart {ch evt t s} (K : OnlyRecords b0 s) : OnlyRecords b0 (recCanEvent ch evt t s) := by
  unfold recCanEvent; exact tapAppend_apart K

theorem closeTarget_apart {p rx part aborted s} (K : OnlyRecords b0 s) : OnlyRecords b0 (closeTarget p rx part aborted s) := by
  unfold closeTarget
  extract_lets +onlyGivenNames _ _
  exact closeItem_apart K

theorem recSent_apart {p cls bytes t s} (K : OnlyRecords b0 s) : OnlyRecords b0 (recSent p cls bytes t s) := by
  unfold recSent; exact tapAppend_apart K

theorem recGap_apart {input block count first last s} (K : OnlyRecords b0 s) : OnlyRecords b0 (recGap input block count first last s) := by
  unfold recGap; exact tapAppend_apart K

theorem postDivergence_apart {d s} (K : OnlyRecords b0 s) : OnlyRecords b0 (postDivergence d s) := by
  unfold postDivergence
  split
  · exact opPost_apart K
  · exact drawn_apart (opPost_apart K)

theorem abandonRestarts_apart {u s} (K : OnlyRecords b0 s) : OnlyRecords b0 (abandonRestarts u s) := by
  unfold abandonRestarts; exact OnlyRecords.upd K

theorem lost_apart {n s} (K : OnlyRecords b0 s) : OnlyRecords b0 { s with pool := { s.pool with lost := n } } := OnlyRecords.upd K

theorem makeEventRoom_apart {n s} (K : OnlyRecords b0 s) : OnlyRecords b0 (makeEventRoom n s) := by
  induction n generalizing s with
  | zero => exact K
  | succ n ih =>
    unfold makeEventRoom; refine OnlyRecords.ite K ?_
    split
    · exact K
    · exact ih (lost_apart (dropOldest_apart K))

theorem writeParts_apart {n first bs s} (h : OnlyRecords b0 s) : OnlyRecords b0 (writeParts n first bs s) := by
  induction n generalizing first bs s with
  | zero => exact h
  | succ n ih => unfold writeParts; exact OnlyRecords.ite (putRecord_apart h) (ih (putRecord_apart h))

theorem probeRecords_apart {buf high n off s} (h : OnlyRecords b0 s) : OnlyRecords b0 (probeRecords buf high n off s) := by
  induction n generalizing off s with
  | zero => exact h
  | succ n ih => unfold probeRecords; exact OnlyRecords.ite h (ih (opPost_apart h))

theorem recBatches_apart {bs : List (List (Verdict × Nat))} {s} (h : OnlyRecords b0 s) :
    OnlyRecords b0 (bs.foldl (fun s es => recVerdicts es s) s) :=
  OnlyRecords.foldl (fun _ _ h0 => recVerdicts_apart h0) h

theorem takeItem_apart {q s x t} (h : OnlyRecords b0 s) (e : takeItem q s = some (x, t)) : OnlyRecords b0 t := by
  unfold takeItem at e
  split at e
  · cases e
  · split at e
    · cases e
      exact grants_apart (modQueue_apart h)
    · cases e

theorem skipBad_apart {n q s} (h : OnlyRecords b0 s) : OnlyRecords b0 (skipBad n q s) := by
  induction n generalizing s with
  | zero => exact h
  | succ n ih =>
    unfold skipBad; split
    · exact h
    · split
      · exact ih (takeItem_apart h ‹_›)
      · exact h

theorem takeGood_apart {n q s x t} (h : OnlyRecords b0 s) (e : takeGood n q s = some (x, t)) : OnlyRecords b0 t := by
  unfold takeGood at e
  exact takeItem_apart (skipBad_apart h) ‹_›

theorem postFlushes_apart {qs ended s x y t} (h : OnlyRecords b0 s) (e : postFlushes qs ended s = (x, y, t)) : OnlyRecords b0 t := by
  induction qs generalizing ended s with
  | nil => cases e; exact h
  | cons q qs ih =>
    unfold postFlushes at e; split at e
    · cases e; exact h
    · exact ih (opPost_apart h) e

theorem takeBlock_apart {n s x y t} (h : OnlyRecords b0 s) (e : takeBlock n s = some (x, y, t)) : OnlyRecords b0 t := by
  induction n generalizing s with
  | zero => cases e
  | succ n ih =>
    unfold takeBlock at e; split at e
    · cases e
    · dsimp only at e; split at e
      · exact ih (modQueue_apart (grants_apart (modQueue_apart h))) e
      · cases e; exact grants_apart (modQueue_apart h)

theorem gather_apart {n need cur blocks s x y t} (h : OnlyRecords b0 s) (e : gather n need cur blocks s = (x, y, t)) : OnlyRecords b0 t := by
  induction n generalizing cur blocks s with
  | zero => cases e; exact h
  | succ n ih =>
    unfold gather at e; split at e
    · cases e; exact h
    · split at e
      · cases e; exact h
      · exact ih (takeBlock_apart h ‹_›) e

end Sys2Proof.Laws
end

