-- ==== Sys2Proof/Laws/Memory.lean ====
section
/-! SUPPORT. Byte memories: what a read gives after a write, and that every operation keeps the canonical form. -/

namespace Sys2Proof.Laws

set_option Elab.async false

open Sys2Proof.Machine

theorem wfFrom_mono {d : Nat → Byte} {m : Mem} {lo hi : Nat} (h : Memory.wfFrom d hi m = true) (le : lo ≤ hi) :
    Memory.wfFrom d lo m = true := by
  cases m with
  | nil => rfl
  | cons c cs =>
    simp only [Memory.wfFrom, Bool.and_eq_true, decide_eq_true_eq] at *
    exact ⟨⟨by omega, h.1.2⟩, h.2⟩

/-- Below the lowest cell every address reads as unlisted. -/
theorem read_below {d : Nat → Byte} {m : Mem} {lo a : Nat} (h : Memory.wfFrom d lo m = true) (lt : a < lo) :
    Memory.read d m a = d a := by
  cases m with
  | nil => rfl
  | cons c cs =>
    simp only [Memory.wfFrom, Bool.and_eq_true, decide_eq_true_eq] at h
    have : c.1 ≠ a := by omega
    simp [Memory.read, this, show a < c.1 by omega]

theorem read_write_from {d : Nat → Byte} {m : Mem} {lo : Nat} (h : Memory.wfFrom d lo m = true) (a x : Nat) (v : Byte) :
    Memory.read d (Memory.write d m a v) x = if x = a then v else Memory.read d m x := by
  induction m generalizing lo with
  | nil =>
    simp only [Memory.write, Memory.read]
    split <;> split <;> simp_all [Memory.read]; omega
  | cons c cs ih =>
    simp only [Memory.wfFrom, Bool.and_eq_true, decide_eq_true_eq] at h
    obtain ⟨⟨hlo, _⟩, hcs⟩ := h
    have ih := ih hcs
    have hb := read_below (a := a) hcs
    simp only [Memory.write]
    by_cases h1 : c.1 < a
    · simp only [h1, if_true, Memory.read, ih]
      by_cases hx : c.1 = x
      · simp [hx, show x ≠ a by omega]
      · simp only [hx, if_false]; by_cases h2 : x < c.1
        · simp [h2, show x ≠ a by omega]
        · simp [h2]
    · simp only [h1, if_false]
      by_cases h2 : c.1 = a
      · simp only [h2, if_true]
        by_cases h3 : v = d a
        · simp only [h3, if_true, Memory.read, h2]
          by_cases hx : x = a
          · simp [hx, hb (by omega)]
          · simp only [hx, if_false, show ¬ a = x from fun e => hx e.symm]
            by_cases h4 : x < a
            · simp [h4, read_below hcs (show x < c.1 + 1 by omega)]
            · simp [h4]
        · simp only [h3, if_false, Memory.read, h2]
          by_cases hx : x = a
          · simp [hx]
          · simp [hx, show ¬ a = x from fun e => hx e.symm]
      · simp only [h2, if_false]
        by_cases h3 : v = d a
        · simp only [h3, if_true, Memory.read]
          by_cases hx : x = a
          · simp [hx, h2, show a < c.1 by omega]
          · simp [hx]
        · simp only [h3, if_false, Memory.read]
          by_cases hx : x = a
          · simp [hx]
          · simp only [hx, if_false, show ¬ a = x from fun e => hx e.symm]
            by_cases h4 : x < a
            · simp [h4, show ¬ c.1 = x by omega, show x < c.1 by omega]
            · simp [h4]

/-- A read after a write: the written byte at its address, the old one elsewhere. -/
theorem read_write {d : Nat → Byte} {m : Mem} (h : Memory.wf d m = true) (a x : Nat) (v : Byte) :
    Memory.read d (Memory.write d m a v) x = if x = a then v else Memory.read d m x :=
  read_write_from h a x v

theorem wf_nil {d : Nat → Byte} : Memory.wf d [] = true := rfl

theorem wfFrom_write {d : Nat → Byte} {m : Mem} {lo a : Nat} {v : Byte} (h : Memory.wfFrom d lo m = true) (le : lo ≤ a) :
    Memory.wfFrom d lo (Memory.write d m a v) = true := by
  induction m generalizing lo with
  | nil => simp only [Memory.write]; split <;> simp_all [Memory.wfFrom]
  | cons c cs ih =>
    simp only [Memory.wfFrom, Bool.and_eq_true, decide_eq_true_eq] at h
    obtain ⟨⟨hlo, hne⟩, hcs⟩ := h
    simp only [Memory.write]
    split
    · next h1 => simp only [Memory.wfFrom, Bool.and_eq_true, decide_eq_true_eq]; exact ⟨⟨hlo, hne⟩, ih hcs h1⟩
    · split
      · split
        · exact wfFrom_mono hcs (by omega)
        · next e h3 => subst e; simp_all [Memory.wfFrom]
      · split
        · simp_all [Memory.wfFrom]
        · simp_all [Memory.wfFrom]; omega

theorem wf_write {d : Nat → Byte} {m : Mem} {a : Nat} {v : Byte} (h : Memory.wf d m = true) :
    Memory.wf d (Memory.write d m a v) = true := wfFrom_write h (Nat.zero_le a)

theorem wf_writeBytes {d : Nat → Byte} {bs : List Byte} : ∀ {m : Mem} {a : Nat}, Memory.wf d m = true →
    Memory.wf d (Memory.writeBytes d m a bs) = true := by
  induction bs with
  | nil => exact fun h => h
  | cons b bs ih => exact fun h => ih (wf_write h)

theorem wfFrom_filter {d : Nat → Byte} {m : Mem} {p : Host.Cell → Bool} : ∀ {lo : Nat}, Memory.wfFrom d lo m = true →
    Memory.wfFrom d lo (m.filter p) = true := by
  induction m with
  | nil => exact fun h => h
  | cons c cs ih =>
    intro lo h
    simp only [Memory.wfFrom, Bool.and_eq_true, decide_eq_true_eq] at h
    rw [List.filter_cons]
    split
    · simp only [Memory.wfFrom, Bool.and_eq_true, decide_eq_true_eq]; exact ⟨h.1, ih h.2⟩
    · exact wfFrom_mono (ih h.2) (by omega)

theorem wf_clear {d : Nat → Byte} {m : Mem} {a n : Nat} (h : Memory.wf d m = true) :
    Memory.wf d (Memory.clear m a n) = true := wfFrom_filter h

/-- Bytes outside a written string keep what they read. -/
theorem read_writeBytes_other {d : Nat → Byte} {x : Nat} {bs : List Byte} : ∀ {m : Mem} {a : Nat}, Memory.wf d m = true →
    (x < a ∨ a + bs.length ≤ x) → Memory.read d (Memory.writeBytes d m a bs) x = Memory.read d m x := by
  induction bs with
  | nil => exact fun _ _ => rfl
  | cons b bs ih =>
    intro m a h hx
    simp only [List.length_cons] at hx
    simp only [Memory.writeBytes]
    rw [ih (wf_write h) (by omega), read_write h, if_neg (by omega)]

theorem wf_foldl {α : Type} {d : Nat → Byte} {f : Mem → α → Mem} (hf : ∀ m x, Memory.wf d m = true → Memory.wf d (f m x) = true)
    {l : List α} : ∀ {m : Mem}, Memory.wf d m = true → Memory.wf d (l.foldl f m) = true := by
  induction l with
  | nil => exact fun h => h
  | cons x l ih => exact fun h => ih (hf _ x h)

@[simp] theorem modifyNth_length {α : Type} {f : α → α} {n : Nat} {l : List α} : (modifyNth f n l).length = l.length := by
  induction l generalizing n with
  | nil => cases n <;> rfl
  | cons x l ih => cases n <;> simp [modifyNth, ih]

end Sys2Proof.Laws
end

