-- ==== Sys2Proof/Laws/State.lean ====
section
/-! SUPPORT. The named updates of the state: what each leaves of every field, and what it makes of the entry it changes. -/

namespace Sys2Proof.Laws

set_option Elab.async false

open Sys2Proof.Machine

variable {s : State}

@[simp] theorem modQueue_power {q f} : (modQueue q f s).power = s.power := rfl
@[simp] theorem modQueue_mode {q f} : (modQueue q f s).mode = s.mode := rfl
@[simp] theorem modQueue_fault {q f} : (modQueue q f s).fault = s.fault := rfl
@[simp] theorem modQueue_pins {q f} : (modQueue q f s).pins = s.pins := rfl
@[simp] theorem modQueue_rein {q f} : (modQueue q f s).rein = s.rein := rfl
@[simp] theorem modQueue_attn {q f} : (modQueue q f s).attn = s.attn := rfl
@[simp] theorem modQueue_op {q f} : (modQueue q f s).op = s.op := rfl
@[simp] theorem modQueue_auth {q f} : (modQueue q f s).auth = s.auth := rfl
@[simp] theorem modQueue_tack {q f} : (modQueue q f s).tack = s.tack := rfl
@[simp] theorem modQueue_cfg {q f} : (modQueue q f s).cfg = s.cfg := rfl
@[simp] theorem modQueue_poll {q f} : (modQueue q f s).poll = s.poll := rfl
@[simp] theorem modQueue_snap {q f} : (modQueue q f s).snap = s.snap := rfl
@[simp] theorem modQueue_time {q f} : (modQueue q f s).time = s.time := rfl
@[simp] theorem modQueue_boryel {q f} : (modQueue q f s).boryel = s.boryel := rfl
@[simp] theorem modQueue_canA {q f} : (modQueue q f s).canA = s.canA := rfl
@[simp] theorem modQueue_canB {q f} : (modQueue q f s).canB = s.canB := rfl
@[simp] theorem modQueue_sports {q f} : (modQueue q f s).sports = s.sports := rfl
@[simp] theorem modQueue_iports {q f} : (modQueue q f s).iports = s.iports := rfl
@[simp] theorem modQueue_tports {q f} : (modQueue q f s).tports = s.tports := rfl
@[simp] theorem modQueue_tap {q f} : (modQueue q f s).tap = s.tap := rfl
@[simp] theorem modQueue_replay {q f} : (modQueue q f s).replay = s.replay := rfl
@[simp] theorem modQueue_verdicts {q f} : (modQueue q f s).verdicts = s.verdicts := rfl
@[simp] theorem modQueue_seed {q f} : (modQueue q f s).seed = s.seed := rfl
@[simp] theorem modQueue_pending {q f} : (modQueue q f s).pending = s.pending := rfl
@[simp] theorem modSPort_power {p f} : (modSPort p f s).power = s.power := rfl
@[simp] theorem modSPort_mode {p f} : (modSPort p f s).mode = s.mode := rfl
@[simp] theorem modSPort_fault {p f} : (modSPort p f s).fault = s.fault := rfl
@[simp] theorem modSPort_pins {p f} : (modSPort p f s).pins = s.pins := rfl
@[simp] theorem modSPort_rein {p f} : (modSPort p f s).rein = s.rein := rfl
@[simp] theorem modSPort_attn {p f} : (modSPort p f s).attn = s.attn := rfl
@[simp] theorem modSPort_op {p f} : (modSPort p f s).op = s.op := rfl
@[simp] theorem modSPort_auth {p f} : (modSPort p f s).auth = s.auth := rfl
@[simp] theorem modSPort_tack {p f} : (modSPort p f s).tack = s.tack := rfl
@[simp] theorem modSPort_cfg {p f} : (modSPort p f s).cfg = s.cfg := rfl
@[simp] theorem modSPort_poll {p f} : (modSPort p f s).poll = s.poll := rfl
@[simp] theorem modSPort_snap {p f} : (modSPort p f s).snap = s.snap := rfl
@[simp] theorem modSPort_time {p f} : (modSPort p f s).time = s.time := rfl
@[simp] theorem modSPort_boryel {p f} : (modSPort p f s).boryel = s.boryel := rfl
@[simp] theorem modSPort_pool {p f} : (modSPort p f s).pool = s.pool := rfl
@[simp] theorem modSPort_canA {p f} : (modSPort p f s).canA = s.canA := rfl
@[simp] theorem modSPort_canB {p f} : (modSPort p f s).canB = s.canB := rfl
@[simp] theorem modSPort_iports {p f} : (modSPort p f s).iports = s.iports := rfl
@[simp] theorem modSPort_tports {p f} : (modSPort p f s).tports = s.tports := rfl
@[simp] theorem modSPort_tap {p f} : (modSPort p f s).tap = s.tap := rfl
@[simp] theorem modSPort_replay {p f} : (modSPort p f s).replay = s.replay := rfl
@[simp] theorem modSPort_verdicts {p f} : (modSPort p f s).verdicts = s.verdicts := rfl
@[simp] theorem modSPort_seed {p f} : (modSPort p f s).seed = s.seed := rfl
@[simp] theorem modSPort_pending {p f} : (modSPort p f s).pending = s.pending := rfl
@[simp] theorem modIPort_power {p f} : (modIPort p f s).power = s.power := rfl
@[simp] theorem modIPort_mode {p f} : (modIPort p f s).mode = s.mode := rfl
@[simp] theorem modIPort_fault {p f} : (modIPort p f s).fault = s.fault := rfl
@[simp] theorem modIPort_pins {p f} : (modIPort p f s).pins = s.pins := rfl
@[simp] theorem modIPort_rein {p f} : (modIPort p f s).rein = s.rein := rfl
@[simp] theorem modIPort_attn {p f} : (modIPort p f s).attn = s.attn := rfl
@[simp] theorem modIPort_op {p f} : (modIPort p f s).op = s.op := rfl
@[simp] theorem modIPort_auth {p f} : (modIPort p f s).auth = s.auth := rfl
@[simp] theorem modIPort_tack {p f} : (modIPort p f s).tack = s.tack := rfl
@[simp] theorem modIPort_cfg {p f} : (modIPort p f s).cfg = s.cfg := rfl
@[simp] theorem modIPort_poll {p f} : (modIPort p f s).poll = s.poll := rfl
@[simp] theorem modIPort_snap {p f} : (modIPort p f s).snap = s.snap := rfl
@[simp] theorem modIPort_time {p f} : (modIPort p f s).time = s.time := rfl
@[simp] theorem modIPort_boryel {p f} : (modIPort p f s).boryel = s.boryel := rfl
@[simp] theorem modIPort_pool {p f} : (modIPort p f s).pool = s.pool := rfl
@[simp] theorem modIPort_canA {p f} : (modIPort p f s).canA = s.canA := rfl
@[simp] theorem modIPort_canB {p f} : (modIPort p f s).canB = s.canB := rfl
@[simp] theorem modIPort_sports {p f} : (modIPort p f s).sports = s.sports := rfl
@[simp] theorem modIPort_tports {p f} : (modIPort p f s).tports = s.tports := rfl
@[simp] theorem modIPort_tap {p f} : (modIPort p f s).tap = s.tap := rfl
@[simp] theorem modIPort_replay {p f} : (modIPort p f s).replay = s.replay := rfl
@[simp] theorem modIPort_verdicts {p f} : (modIPort p f s).verdicts = s.verdicts := rfl
@[simp] theorem modIPort_seed {p f} : (modIPort p f s).seed = s.seed := rfl
@[simp] theorem modIPort_pending {p f} : (modIPort p f s).pending = s.pending := rfl
@[simp] theorem modTPort_power {p f} : (modTPort p f s).power = s.power := rfl
@[simp] theorem modTPort_mode {p f} : (modTPort p f s).mode = s.mode := rfl
@[simp] theorem modTPort_fault {p f} : (modTPort p f s).fault = s.fault := rfl
@[simp] theorem modTPort_pins {p f} : (modTPort p f s).pins = s.pins := rfl
@[simp] theorem modTPort_rein {p f} : (modTPort p f s).rein = s.rein := rfl
@[simp] theorem modTPort_attn {p f} : (modTPort p f s).attn = s.attn := rfl
@[simp] theorem modTPort_op {p f} : (modTPort p f s).op = s.op := rfl
@[simp] theorem modTPort_auth {p f} : (modTPort p f s).auth = s.auth := rfl
@[simp] theorem modTPort_tack {p f} : (modTPort p f s).tack = s.tack := rfl
@[simp] theorem modTPort_cfg {p f} : (modTPort p f s).cfg = s.cfg := rfl
@[simp] theorem modTPort_poll {p f} : (modTPort p f s).poll = s.poll := rfl
@[simp] theorem modTPort_snap {p f} : (modTPort p f s).snap = s.snap := rfl
@[simp] theorem modTPort_time {p f} : (modTPort p f s).time = s.time := rfl
@[simp] theorem modTPort_boryel {p f} : (modTPort p f s).boryel = s.boryel := rfl
@[simp] theorem modTPort_pool {p f} : (modTPort p f s).pool = s.pool := rfl
@[simp] theorem modTPort_canA {p f} : (modTPort p f s).canA = s.canA := rfl
@[simp] theorem modTPort_canB {p f} : (modTPort p f s).canB = s.canB := rfl
@[simp] theorem modTPort_sports {p f} : (modTPort p f s).sports = s.sports := rfl
@[simp] theorem modTPort_iports {p f} : (modTPort p f s).iports = s.iports := rfl
@[simp] theorem modTPort_tap {p f} : (modTPort p f s).tap = s.tap := rfl
@[simp] theorem modTPort_replay {p f} : (modTPort p f s).replay = s.replay := rfl
@[simp] theorem modTPort_verdicts {p f} : (modTPort p f s).verdicts = s.verdicts := rfl
@[simp] theorem modTPort_seed {p f} : (modTPort p f s).seed = s.seed := rfl
@[simp] theorem modTPort_pending {p f} : (modTPort p f s).pending = s.pending := rfl
@[simp] theorem modPin_power {i f} : (modPin i f s).power = s.power := rfl
@[simp] theorem modPin_mode {i f} : (modPin i f s).mode = s.mode := rfl
@[simp] theorem modPin_fault {i f} : (modPin i f s).fault = s.fault := rfl
@[simp] theorem modPin_rein {i f} : (modPin i f s).rein = s.rein := rfl
@[simp] theorem modPin_attn {i f} : (modPin i f s).attn = s.attn := rfl
@[simp] theorem modPin_op {i f} : (modPin i f s).op = s.op := rfl
@[simp] theorem modPin_auth {i f} : (modPin i f s).auth = s.auth := rfl
@[simp] theorem modPin_tack {i f} : (modPin i f s).tack = s.tack := rfl
@[simp] theorem modPin_cfg {i f} : (modPin i f s).cfg = s.cfg := rfl
@[simp] theorem modPin_poll {i f} : (modPin i f s).poll = s.poll := rfl
@[simp] theorem modPin_snap {i f} : (modPin i f s).snap = s.snap := rfl
@[simp] theorem modPin_time {i f} : (modPin i f s).time = s.time := rfl
@[simp] theorem modPin_boryel {i f} : (modPin i f s).boryel = s.boryel := rfl
@[simp] theorem modPin_pool {i f} : (modPin i f s).pool = s.pool := rfl
@[simp] theorem modPin_canA {i f} : (modPin i f s).canA = s.canA := rfl
@[simp] theorem modPin_canB {i f} : (modPin i f s).canB = s.canB := rfl
@[simp] theorem modPin_sports {i f} : (modPin i f s).sports = s.sports := rfl
@[simp] theorem modPin_iports {i f} : (modPin i f s).iports = s.iports := rfl
@[simp] theorem modPin_tports {i f} : (modPin i f s).tports = s.tports := rfl
@[simp] theorem modPin_tap {i f} : (modPin i f s).tap = s.tap := rfl
@[simp] theorem modPin_replay {i f} : (modPin i f s).replay = s.replay := rfl
@[simp] theorem modPin_verdicts {i f} : (modPin i f s).verdicts = s.verdicts := rfl
@[simp] theorem modPin_seed {i f} : (modPin i f s).seed = s.seed := rfl
@[simp] theorem modPin_pending {i f} : (modPin i f s).pending = s.pending := rfl
@[simp] theorem modLane_power {i f} : (modLane i f s).power = s.power := rfl
@[simp] theorem modLane_mode {i f} : (modLane i f s).mode = s.mode := rfl
@[simp] theorem modLane_fault {i f} : (modLane i f s).fault = s.fault := rfl
@[simp] theorem modLane_pins {i f} : (modLane i f s).pins = s.pins := rfl
@[simp] theorem modLane_rein {i f} : (modLane i f s).rein = s.rein := rfl
@[simp] theorem modLane_attn {i f} : (modLane i f s).attn = s.attn := rfl
@[simp] theorem modLane_op {i f} : (modLane i f s).op = s.op := rfl
@[simp] theorem modLane_auth {i f} : (modLane i f s).auth = s.auth := rfl
@[simp] theorem modLane_tack {i f} : (modLane i f s).tack = s.tack := rfl
@[simp] theorem modLane_cfg {i f} : (modLane i f s).cfg = s.cfg := rfl
@[simp] theorem modLane_snap {i f} : (modLane i f s).snap = s.snap := rfl
@[simp] theorem modLane_time {i f} : (modLane i f s).time = s.time := rfl
@[simp] theorem modLane_boryel {i f} : (modLane i f s).boryel = s.boryel := rfl
@[simp] theorem modLane_pool {i f} : (modLane i f s).pool = s.pool := rfl
@[simp] theorem modLane_canA {i f} : (modLane i f s).canA = s.canA := rfl
@[simp] theorem modLane_canB {i f} : (modLane i f s).canB = s.canB := rfl
@[simp] theorem modLane_sports {i f} : (modLane i f s).sports = s.sports := rfl
@[simp] theorem modLane_iports {i f} : (modLane i f s).iports = s.iports := rfl
@[simp] theorem modLane_tports {i f} : (modLane i f s).tports = s.tports := rfl
@[simp] theorem modLane_tap {i f} : (modLane i f s).tap = s.tap := rfl
@[simp] theorem modLane_replay {i f} : (modLane i f s).replay = s.replay := rfl
@[simp] theorem modLane_verdicts {i f} : (modLane i f s).verdicts = s.verdicts := rfl
@[simp] theorem modLane_seed {i f} : (modLane i f s).seed = s.seed := rfl
@[simp] theorem modLane_pending {i f} : (modLane i f s).pending = s.pending := rfl
/-- A grant touches the verdicts only. -/
theorem grant_eq {p b} : grant p b s = { s with verdicts := (grant p b s).verdicts } := by
  unfold grant dropForced; repeat (first | rfl | split)
@[simp] theorem grant_power {p b} : (grant p b s).power = s.power := by rw [grant_eq]
@[simp] theorem grant_mode {p b} : (grant p b s).mode = s.mode := by rw [grant_eq]
@[simp] theorem grant_fault {p b} : (grant p b s).fault = s.fault := by rw [grant_eq]
@[simp] theorem grant_pins {p b} : (grant p b s).pins = s.pins := by rw [grant_eq]
@[simp] theorem grant_rein {p b} : (grant p b s).rein = s.rein := by rw [grant_eq]
@[simp] theorem grant_attn {p b} : (grant p b s).attn = s.attn := by rw [grant_eq]
@[simp] theorem grant_op {p b} : (grant p b s).op = s.op := by rw [grant_eq]
@[simp] theorem grant_auth {p b} : (grant p b s).auth = s.auth := by rw [grant_eq]
@[simp] theorem grant_tack {p b} : (grant p b s).tack = s.tack := by rw [grant_eq]
@[simp] theorem grant_cfg {p b} : (grant p b s).cfg = s.cfg := by rw [grant_eq]
@[simp] theorem grant_poll {p b} : (grant p b s).poll = s.poll := by rw [grant_eq]
@[simp] theorem grant_snap {p b} : (grant p b s).snap = s.snap := by rw [grant_eq]
@[simp] theorem grant_time {p b} : (grant p b s).time = s.time := by rw [grant_eq]
@[simp] theorem grant_boryel {p b} : (grant p b s).boryel = s.boryel := by rw [grant_eq]
@[simp] theorem grant_pool {p b} : (grant p b s).pool = s.pool := by rw [grant_eq]
@[simp] theorem grant_canA {p b} : (grant p b s).canA = s.canA := by rw [grant_eq]
@[simp] theorem grant_canB {p b} : (grant p b s).canB = s.canB := by rw [grant_eq]
@[simp] theorem grant_sports {p b} : (grant p b s).sports = s.sports := by rw [grant_eq]
@[simp] theorem grant_iports {p b} : (grant p b s).iports = s.iports := by rw [grant_eq]
@[simp] theorem grant_tports {p b} : (grant p b s).tports = s.tports := by rw [grant_eq]
@[simp] theorem grant_tap {p b} : (grant p b s).tap = s.tap := by rw [grant_eq]
@[simp] theorem grant_replay {p b} : (grant p b s).replay = s.replay := by rw [grant_eq]
@[simp] theorem grant_seed {p b} : (grant p b s).seed = s.seed := by rw [grant_eq]
@[simp] theorem grant_pending {p b} : (grant p b s).pending = s.pending := by rw [grant_eq]
/-- So do several. -/
theorem grants_eq {l} : grants l s = { s with verdicts := (grants l s).verdicts } := by
  unfold grants; induction l generalizing s with
  | nil => rfl
  | cons g l ih => rw [List.foldl_cons, ih]; simp
@[simp] theorem grants_power {l} : (grants l s).power = s.power := by rw [grants_eq]
@[simp] theorem grants_mode {l} : (grants l s).mode = s.mode := by rw [grants_eq]
@[simp] theorem grants_fault {l} : (grants l s).fault = s.fault := by rw [grants_eq]
@[simp] theorem grants_pins {l} : (grants l s).pins = s.pins := by rw [grants_eq]
@[simp] theorem grants_rein {l} : (grants l s).rein = s.rein := by rw [grants_eq]
@[simp] theorem grants_attn {l} : (grants l s).attn = s.attn := by rw [grants_eq]
@[simp] theorem grants_op {l} : (grants l s).op = s.op := by rw [grants_eq]
@[simp] theorem grants_auth {l} : (grants l s).auth = s.auth := by rw [grants_eq]
@[simp] theorem grants_tack {l} : (grants l s).tack = s.tack := by rw [grants_eq]
@[simp] theorem grants_cfg {l} : (grants l s).cfg = s.cfg := by rw [grants_eq]
@[simp] theorem grants_poll {l} : (grants l s).poll = s.poll := by rw [grants_eq]
@[simp] theorem grants_snap {l} : (grants l s).snap = s.snap := by rw [grants_eq]
@[simp] theorem grants_time {l} : (grants l s).time = s.time := by rw [grants_eq]
@[simp] theorem grants_boryel {l} : (grants l s).boryel = s.boryel := by rw [grants_eq]
@[simp] theorem grants_pool {l} : (grants l s).pool = s.pool := by rw [grants_eq]
@[simp] theorem grants_canA {l} : (grants l s).canA = s.canA := by rw [grants_eq]
@[simp] theorem grants_canB {l} : (grants l s).canB = s.canB := by rw [grants_eq]
@[simp] theorem grants_sports {l} : (grants l s).sports = s.sports := by rw [grants_eq]
@[simp] theorem grants_iports {l} : (grants l s).iports = s.iports := by rw [grants_eq]
@[simp] theorem grants_tports {l} : (grants l s).tports = s.tports := by rw [grants_eq]
@[simp] theorem grants_tap {l} : (grants l s).tap = s.tap := by rw [grants_eq]
@[simp] theorem grants_replay {l} : (grants l s).replay = s.replay := by rw [grants_eq]
@[simp] theorem grants_seed {l} : (grants l s).seed = s.seed := by rw [grants_eq]
@[simp] theorem grants_pending {l} : (grants l s).pending = s.pending := by rw [grants_eq]
/-- An event sets its bit of ATTN_SRC and is granted at its points; nothing else changes. -/
theorem attend_eq {n} : attend n s = { s with
    attn := { s.attn with src := setBit s.attn.src n }, verdicts := (attend n s).verdicts } := by
  unfold attend; split <;> rw [grant_eq] <;> simp
@[simp] theorem attend_power {n} : (attend n s).power = s.power := by rw [attend_eq]
@[simp] theorem attend_mode {n} : (attend n s).mode = s.mode := by rw [attend_eq]
@[simp] theorem attend_fault {n} : (attend n s).fault = s.fault := by rw [attend_eq]
@[simp] theorem attend_pins {n} : (attend n s).pins = s.pins := by rw [attend_eq]
@[simp] theorem attend_rein {n} : (attend n s).rein = s.rein := by rw [attend_eq]
@[simp] theorem attend_op {n} : (attend n s).op = s.op := by rw [attend_eq]
@[simp] theorem attend_auth {n} : (attend n s).auth = s.auth := by rw [attend_eq]
@[simp] theorem attend_tack {n} : (attend n s).tack = s.tack := by rw [attend_eq]
@[simp] theorem attend_cfg {n} : (attend n s).cfg = s.cfg := by rw [attend_eq]
@[simp] theorem attend_poll {n} : (attend n s).poll = s.poll := by rw [attend_eq]
@[simp] theorem attend_snap {n} : (attend n s).snap = s.snap := by rw [attend_eq]
@[simp] theorem attend_time {n} : (attend n s).time = s.time := by rw [attend_eq]
@[simp] theorem attend_boryel {n} : (attend n s).boryel = s.boryel := by rw [attend_eq]
@[simp] theorem attend_pool {n} : (attend n s).pool = s.pool := by rw [attend_eq]
@[simp] theorem attend_canA {n} : (attend n s).canA = s.canA := by rw [attend_eq]
@[simp] theorem attend_canB {n} : (attend n s).canB = s.canB := by rw [attend_eq]
@[simp] theorem attend_sports {n} : (attend n s).sports = s.sports := by rw [attend_eq]
@[simp] theorem attend_iports {n} : (attend n s).iports = s.iports := by rw [attend_eq]
@[simp] theorem attend_tports {n} : (attend n s).tports = s.tports := by rw [attend_eq]
@[simp] theorem attend_tap {n} : (attend n s).tap = s.tap := by rw [attend_eq]
@[simp] theorem attend_replay {n} : (attend n s).replay = s.replay := by rw [attend_eq]
@[simp] theorem attend_seed {n} : (attend n s).seed = s.seed := by rw [attend_eq]
@[simp] theorem attend_pending {n} : (attend n s).pending = s.pending := by rw [attend_eq]
@[simp] theorem drawn_power : (drawn s).power = s.power := rfl
@[simp] theorem drawn_mode : (drawn s).mode = s.mode := rfl
@[simp] theorem drawn_fault : (drawn s).fault = s.fault := rfl
@[simp] theorem drawn_pins : (drawn s).pins = s.pins := rfl
@[simp] theorem drawn_rein : (drawn s).rein = s.rein := rfl
@[simp] theorem drawn_attn : (drawn s).attn = s.attn := rfl
@[simp] theorem drawn_op : (drawn s).op = s.op := rfl
@[simp] theorem drawn_auth : (drawn s).auth = s.auth := rfl
@[simp] theorem drawn_tack : (drawn s).tack = s.tack := rfl
@[simp] theorem drawn_cfg : (drawn s).cfg = s.cfg := rfl
@[simp] theorem drawn_poll : (drawn s).poll = s.poll := rfl
@[simp] theorem drawn_snap : (drawn s).snap = s.snap := rfl
@[simp] theorem drawn_time : (drawn s).time = s.time := rfl
@[simp] theorem drawn_boryel : (drawn s).boryel = s.boryel := rfl
@[simp] theorem drawn_pool : (drawn s).pool = s.pool := rfl
@[simp] theorem drawn_canA : (drawn s).canA = s.canA := rfl
@[simp] theorem drawn_canB : (drawn s).canB = s.canB := rfl
@[simp] theorem drawn_sports : (drawn s).sports = s.sports := rfl
@[simp] theorem drawn_iports : (drawn s).iports = s.iports := rfl
@[simp] theorem drawn_tports : (drawn s).tports = s.tports := rfl
@[simp] theorem drawn_tap : (drawn s).tap = s.tap := rfl
@[simp] theorem drawn_replay : (drawn s).replay = s.replay := rfl
@[simp] theorem drawn_verdicts : (drawn s).verdicts = s.verdicts := rfl
@[simp] theorem drawn_pending : (drawn s).pending = s.pending := rfl
@[simp] theorem setStatByte_power {a v} : (setStatByte a v s).power = s.power := rfl
@[simp] theorem setStatByte_mode {a v} : (setStatByte a v s).mode = s.mode := rfl
@[simp] theorem setStatByte_fault {a v} : (setStatByte a v s).fault = s.fault := rfl
@[simp] theorem setStatByte_pins {a v} : (setStatByte a v s).pins = s.pins := rfl
@[simp] theorem setStatByte_rein {a v} : (setStatByte a v s).rein = s.rein := rfl
@[simp] theorem setStatByte_attn {a v} : (setStatByte a v s).attn = s.attn := rfl
@[simp] theorem setStatByte_op {a v} : (setStatByte a v s).op = s.op := rfl
@[simp] theorem setStatByte_auth {a v} : (setStatByte a v s).auth = s.auth := rfl
@[simp] theorem setStatByte_tack {a v} : (setStatByte a v s).tack = s.tack := rfl
@[simp] theorem setStatByte_poll {a v} : (setStatByte a v s).poll = s.poll := rfl
@[simp] theorem setStatByte_snap {a v} : (setStatByte a v s).snap = s.snap := rfl
@[simp] theorem setStatByte_time {a v} : (setStatByte a v s).time = s.time := rfl
@[simp] theorem setStatByte_boryel {a v} : (setStatByte a v s).boryel = s.boryel := rfl
@[simp] theorem setStatByte_pool {a v} : (setStatByte a v s).pool = s.pool := rfl
@[simp] theorem setStatByte_canA {a v} : (setStatByte a v s).canA = s.canA := rfl
@[simp] theorem setStatByte_canB {a v} : (setStatByte a v s).canB = s.canB := rfl
@[simp] theorem setStatByte_sports {a v} : (setStatByte a v s).sports = s.sports := rfl
@[simp] theorem setStatByte_iports {a v} : (setStatByte a v s).iports = s.iports := rfl
@[simp] theorem setStatByte_tports {a v} : (setStatByte a v s).tports = s.tports := rfl
@[simp] theorem setStatByte_tap {a v} : (setStatByte a v s).tap = s.tap := rfl
@[simp] theorem setStatByte_replay {a v} : (setStatByte a v s).replay = s.replay := rfl
@[simp] theorem setStatByte_verdicts {a v} : (setStatByte a v s).verdicts = s.verdicts := rfl
@[simp] theorem setStatByte_seed {a v} : (setStatByte a v s).seed = s.seed := rfl
@[simp] theorem setStatByte_pending {a v} : (setStatByte a v s).pending = s.pending := rfl
@[simp] theorem setStatWord_power {a v} : (setStatWord a v s).power = s.power := rfl
@[simp] theorem setStatWord_mode {a v} : (setStatWord a v s).mode = s.mode := rfl
@[simp] theorem setStatWord_fault {a v} : (setStatWord a v s).fault = s.fault := rfl
@[simp] theorem setStatWord_pins {a v} : (setStatWord a v s).pins = s.pins := rfl
@[simp] theorem setStatWord_rein {a v} : (setStatWord a v s).rein = s.rein := rfl
@[simp] theorem setStatWord_attn {a v} : (setStatWord a v s).attn = s.attn := rfl
@[simp] theorem setStatWord_op {a v} : (setStatWord a v s).op = s.op := rfl
@[simp] theorem setStatWord_auth {a v} : (setStatWord a v s).auth = s.auth := rfl
@[simp] theorem setStatWord_tack {a v} : (setStatWord a v s).tack = s.tack := rfl
@[simp] theorem setStatWord_poll {a v} : (setStatWord a v s).poll = s.poll := rfl
@[simp] theorem setStatWord_snap {a v} : (setStatWord a v s).snap = s.snap := rfl
@[simp] theorem setStatWord_time {a v} : (setStatWord a v s).time = s.time := rfl
@[simp] theorem setStatWord_boryel {a v} : (setStatWord a v s).boryel = s.boryel := rfl
@[simp] theorem setStatWord_pool {a v} : (setStatWord a v s).pool = s.pool := rfl
@[simp] theorem setStatWord_canA {a v} : (setStatWord a v s).canA = s.canA := rfl
@[simp] theorem setStatWord_canB {a v} : (setStatWord a v s).canB = s.canB := rfl
@[simp] theorem setStatWord_sports {a v} : (setStatWord a v s).sports = s.sports := rfl
@[simp] theorem setStatWord_iports {a v} : (setStatWord a v s).iports = s.iports := rfl
@[simp] theorem setStatWord_tports {a v} : (setStatWord a v s).tports = s.tports := rfl
@[simp] theorem setStatWord_tap {a v} : (setStatWord a v s).tap = s.tap := rfl
@[simp] theorem setStatWord_replay {a v} : (setStatWord a v s).replay = s.replay := rfl
@[simp] theorem setStatWord_verdicts {a v} : (setStatWord a v s).verdicts = s.verdicts := rfl
@[simp] theorem setStatWord_seed {a v} : (setStatWord a v s).seed = s.seed := rfl
@[simp] theorem setStatWord_pending {a v} : (setStatWord a v s).pending = s.pending := rfl
@[simp] theorem markDrop_power {q} : (markDrop q s).power = s.power := rfl
@[simp] theorem markDrop_mode {q} : (markDrop q s).mode = s.mode := rfl
@[simp] theorem markDrop_fault {q} : (markDrop q s).fault = s.fault := rfl
@[simp] theorem markDrop_pins {q} : (markDrop q s).pins = s.pins := rfl
@[simp] theorem markDrop_rein {q} : (markDrop q s).rein = s.rein := rfl
@[simp] theorem markDrop_attn {q} : (markDrop q s).attn = s.attn := rfl
@[simp] theorem markDrop_op {q} : (markDrop q s).op = s.op := rfl
@[simp] theorem markDrop_auth {q} : (markDrop q s).auth = s.auth := rfl
@[simp] theorem markDrop_tack {q} : (markDrop q s).tack = s.tack := rfl
@[simp] theorem markDrop_cfg {q} : (markDrop q s).cfg = s.cfg := rfl
@[simp] theorem markDrop_poll {q} : (markDrop q s).poll = s.poll := rfl
@[simp] theorem markDrop_snap {q} : (markDrop q s).snap = s.snap := rfl
@[simp] theorem markDrop_time {q} : (markDrop q s).time = s.time := rfl
@[simp] theorem markDrop_boryel {q} : (markDrop q s).boryel = s.boryel := rfl
@[simp] theorem markDrop_canA {q} : (markDrop q s).canA = s.canA := rfl
@[simp] theorem markDrop_canB {q} : (markDrop q s).canB = s.canB := rfl
@[simp] theorem markDrop_sports {q} : (markDrop q s).sports = s.sports := rfl
@[simp] theorem markDrop_iports {q} : (markDrop q s).iports = s.iports := rfl
@[simp] theorem markDrop_tports {q} : (markDrop q s).tports = s.tports := rfl
@[simp] theorem markDrop_tap {q} : (markDrop q s).tap = s.tap := rfl
@[simp] theorem markDrop_replay {q} : (markDrop q s).replay = s.replay := rfl
@[simp] theorem markDrop_verdicts {q} : (markDrop q s).verdicts = s.verdicts := rfl
@[simp] theorem markDrop_seed {q} : (markDrop q s).seed = s.seed := rfl
@[simp] theorem markDrop_pending {q} : (markDrop q s).pending = s.pending := rfl
@[simp] theorem setMode_power {m} : (setMode m s).power = s.power := by simp [setMode]
@[simp] theorem setMode_fault {m} : (setMode m s).fault = s.fault := by simp [setMode]
@[simp] theorem setMode_pins {m} : (setMode m s).pins = s.pins := by simp [setMode]
@[simp] theorem setMode_rein {m} : (setMode m s).rein = s.rein := by simp [setMode]
@[simp] theorem setMode_attn {m} : (setMode m s).attn = s.attn := by simp [setMode]
@[simp] theorem setMode_op {m} : (setMode m s).op = s.op := by simp [setMode]
@[simp] theorem setMode_auth {m} : (setMode m s).auth = s.auth := by simp [setMode]
@[simp] theorem setMode_tack {m} : (setMode m s).tack = s.tack := by simp [setMode]
@[simp] theorem setMode_cfg {m} : (setMode m s).cfg = s.cfg := by simp [setMode]
@[simp] theorem setMode_poll {m} : (setMode m s).poll = s.poll := by simp [setMode]
@[simp] theorem setMode_snap {m} : (setMode m s).snap = s.snap := by simp [setMode]
@[simp] theorem setMode_time {m} : (setMode m s).time = s.time := by simp [setMode]
@[simp] theorem setMode_boryel {m} : (setMode m s).boryel = s.boryel := by simp [setMode]
@[simp] theorem setMode_pool {m} : (setMode m s).pool = s.pool := by simp [setMode]
@[simp] theorem setMode_canA {m} : (setMode m s).canA = s.canA := by simp [setMode]
@[simp] theorem setMode_canB {m} : (setMode m s).canB = s.canB := by simp [setMode]
@[simp] theorem setMode_sports {m} : (setMode m s).sports = s.sports := by simp [setMode]
@[simp] theorem setMode_iports {m} : (setMode m s).iports = s.iports := by simp [setMode]
@[simp] theorem setMode_tports {m} : (setMode m s).tports = s.tports := by simp [setMode]
@[simp] theorem setMode_tap {m} : (setMode m s).tap = s.tap := by simp [setMode]
@[simp] theorem setMode_replay {m} : (setMode m s).replay = s.replay := by simp [setMode]
@[simp] theorem setMode_seed {m} : (setMode m s).seed = s.seed := by simp [setMode]
@[simp] theorem setMode_pending {m} : (setMode m s).pending = s.pending := by simp [setMode]
@[simp] theorem modCan_power {ch f} : (modCan ch f s).power = s.power := by cases ch <;> rfl
@[simp] theorem modCan_mode {ch f} : (modCan ch f s).mode = s.mode := by cases ch <;> rfl
@[simp] theorem modCan_fault {ch f} : (modCan ch f s).fault = s.fault := by cases ch <;> rfl
@[simp] theorem modCan_pins {ch f} : (modCan ch f s).pins = s.pins := by cases ch <;> rfl
@[simp] theorem modCan_rein {ch f} : (modCan ch f s).rein = s.rein := by cases ch <;> rfl
@[simp] theorem modCan_attn {ch f} : (modCan ch f s).attn = s.attn := by cases ch <;> rfl
@[simp] theorem modCan_op {ch f} : (modCan ch f s).op = s.op := by cases ch <;> rfl
@[simp] theorem modCan_auth {ch f} : (modCan ch f s).auth = s.auth := by cases ch <;> rfl
@[simp] theorem modCan_tack {ch f} : (modCan ch f s).tack = s.tack := by cases ch <;> rfl
@[simp] theorem modCan_cfg {ch f} : (modCan ch f s).cfg = s.cfg := by cases ch <;> rfl
@[simp] theorem modCan_poll {ch f} : (modCan ch f s).poll = s.poll := by cases ch <;> rfl
@[simp] theorem modCan_snap {ch f} : (modCan ch f s).snap = s.snap := by cases ch <;> rfl
@[simp] theorem modCan_time {ch f} : (modCan ch f s).time = s.time := by cases ch <;> rfl
@[simp] theorem modCan_boryel {ch f} : (modCan ch f s).boryel = s.boryel := by cases ch <;> rfl
@[simp] theorem modCan_pool {ch f} : (modCan ch f s).pool = s.pool := by cases ch <;> rfl
@[simp] theorem modCan_sports {ch f} : (modCan ch f s).sports = s.sports := by cases ch <;> rfl
@[simp] theorem modCan_iports {ch f} : (modCan ch f s).iports = s.iports := by cases ch <;> rfl
@[simp] theorem modCan_tports {ch f} : (modCan ch f s).tports = s.tports := by cases ch <;> rfl
@[simp] theorem modCan_tap {ch f} : (modCan ch f s).tap = s.tap := by cases ch <;> rfl
@[simp] theorem modCan_replay {ch f} : (modCan ch f s).replay = s.replay := by cases ch <;> rfl
@[simp] theorem modCan_verdicts {ch f} : (modCan ch f s).verdicts = s.verdicts := by cases ch <;> rfl
@[simp] theorem modCan_seed {ch f} : (modCan ch f s).seed = s.seed := by cases ch <;> rfl
@[simp] theorem modCan_pending {ch f} : (modCan ch f s).pending = s.pending := by cases ch <;> rfl
@[simp] theorem advance_power {t} : (advance t s).power = s.power := by unfold advance; repeat (first | rfl | split)
@[simp] theorem advance_mode {t} : (advance t s).mode = s.mode := by unfold advance; repeat (first | rfl | split)
@[simp] theorem advance_fault {t} : (advance t s).fault = s.fault := by unfold advance; repeat (first | rfl | split)
@[simp] theorem advance_pins {t} : (advance t s).pins = s.pins := by unfold advance; repeat (first | rfl | split)
@[simp] theorem advance_rein {t} : (advance t s).rein = s.rein := by unfold advance; repeat (first | rfl | split)
@[simp] theorem advance_attn {t} : (advance t s).attn = s.attn := by unfold advance; repeat (first | rfl | split)
@[simp] theorem advance_op {t} : (advance t s).op = s.op := by unfold advance; repeat (first | rfl | split)
@[simp] theorem advance_auth {t} : (advance t s).auth = s.auth := by unfold advance; repeat (first | rfl | split)
@[simp] theorem advance_tack {t} : (advance t s).tack = s.tack := by unfold advance; repeat (first | rfl | split)
@[simp] theorem advance_cfg {t} : (advance t s).cfg = s.cfg := by unfold advance; repeat (first | rfl | split)
@[simp] theorem advance_poll {t} : (advance t s).poll = s.poll := by unfold advance; repeat (first | rfl | split)
@[simp] theorem advance_snap {t} : (advance t s).snap = s.snap := by unfold advance; repeat (first | rfl | split)
@[simp] theorem advance_boryel {t} : (advance t s).boryel = s.boryel := by unfold advance; repeat (first | rfl | split)
@[simp] theorem advance_pool {t} : (advance t s).pool = s.pool := by unfold advance; repeat (first | rfl | split)
@[simp] theorem advance_canA {t} : (advance t s).canA = s.canA := by unfold advance; repeat (first | rfl | split)
@[simp] theorem advance_canB {t} : (advance t s).canB = s.canB := by unfold advance; repeat (first | rfl | split)
@[simp] theorem advance_sports {t} : (advance t s).sports = s.sports := by unfold advance; repeat (first | rfl | split)
@[simp] theorem advance_iports {t} : (advance t s).iports = s.iports := by unfold advance; repeat (first | rfl | split)
@[simp] theorem advance_tports {t} : (advance t s).tports = s.tports := by unfold advance; repeat (first | rfl | split)
@[simp] theorem advance_tap {t} : (advance t s).tap = s.tap := by unfold advance; repeat (first | rfl | split)
@[simp] theorem advance_seed {t} : (advance t s).seed = s.seed := by unfold advance; repeat (first | rfl | split)
@[simp] theorem advance_pending {t} : (advance t s).pending = s.pending := by unfold advance; repeat (first | rfl | split)
@[simp] theorem modBank_power {b f} : (modBank b f s).power = s.power := by unfold modBank; repeat (first | rfl | split)
@[simp] theorem modBank_mode {b f} : (modBank b f s).mode = s.mode := by unfold modBank; repeat (first | rfl | split)
@[simp] theorem modBank_fault {b f} : (modBank b f s).fault = s.fault := by unfold modBank; repeat (first | rfl | split)
@[simp] theorem modBank_pins {b f} : (modBank b f s).pins = s.pins := by unfold modBank; repeat (first | rfl | split)
@[simp] theorem modBank_rein {b f} : (modBank b f s).rein = s.rein := by unfold modBank; repeat (first | rfl | split)
@[simp] theorem modBank_attn {b f} : (modBank b f s).attn = s.attn := by unfold modBank; repeat (first | rfl | split)
@[simp] theorem modBank_op {b f} : (modBank b f s).op = s.op := by unfold modBank; repeat (first | rfl | split)
@[simp] theorem modBank_auth {b f} : (modBank b f s).auth = s.auth := by unfold modBank; repeat (first | rfl | split)
@[simp] theorem modBank_tack {b f} : (modBank b f s).tack = s.tack := by unfold modBank; repeat (first | rfl | split)
@[simp] theorem modBank_cfg {b f} : (modBank b f s).cfg = s.cfg := by unfold modBank; repeat (first | rfl | split)
@[simp] theorem modBank_poll {b f} : (modBank b f s).poll = s.poll := by unfold modBank; repeat (first | rfl | split)
@[simp] theorem modBank_time {b f} : (modBank b f s).time = s.time := by unfold modBank; repeat (first | rfl | split)
@[simp] theorem modBank_boryel {b f} : (modBank b f s).boryel = s.boryel := by unfold modBank; repeat (first | rfl | split)
@[simp] theorem modBank_pool {b f} : (modBank b f s).pool = s.pool := by unfold modBank; repeat (first | rfl | split)
@[simp] theorem modBank_canA {b f} : (modBank b f s).canA = s.canA := by unfold modBank; repeat (first | rfl | split)
@[simp] theorem modBank_canB {b f} : (modBank b f s).canB = s.canB := by unfold modBank; repeat (first | rfl | split)
@[simp] theorem modBank_sports {b f} : (modBank b f s).sports = s.sports := by unfold modBank; repeat (first | rfl | split)
@[simp] theorem modBank_iports {b f} : (modBank b f s).iports = s.iports := by unfold modBank; repeat (first | rfl | split)
@[simp] theorem modBank_tports {b f} : (modBank b f s).tports = s.tports := by unfold modBank; repeat (first | rfl | split)
@[simp] theorem modBank_tap {b f} : (modBank b f s).tap = s.tap := by unfold modBank; repeat (first | rfl | split)
@[simp] theorem modBank_replay {b f} : (modBank b f s).replay = s.replay := by unfold modBank; repeat (first | rfl | split)
@[simp] theorem modBank_verdicts {b f} : (modBank b f s).verdicts = s.verdicts := by unfold modBank; repeat (first | rfl | split)
@[simp] theorem modBank_seed {b f} : (modBank b f s).seed = s.seed := by unfold modBank; repeat (first | rfl | split)
@[simp] theorem modBank_pending {b f} : (modBank b f s).pending = s.pending := by unfold modBank; repeat (first | rfl | split)

@[simp] theorem attend_src {n} : (attend n s).attn.src = setBit s.attn.src n := by rw [attend_eq]
@[simp] theorem attend_mask {n} : (attend n s).attn.mask = s.attn.mask := by rw [attend_eq]
@[simp] theorem drawn_seed : (drawn s).seed = s.seed + 1 := rfl
@[simp] theorem modSPort_sports {p f} : (modSPort p f s).sports = modifyNth f p s.sports := rfl
@[simp] theorem modIPort_iports {p f} : (modIPort p f s).iports = modifyNth f p s.iports := rfl
@[simp] theorem modTPort_tports {p f} : (modTPort p f s).tports = modifyNth f p s.tports := rfl
@[simp] theorem modPin_pins {i f} : (modPin i f s).pins.pins = modifyNth f i s.pins.pins := rfl
@[simp] theorem modLane_lanes {i f} : (modLane i f s).poll.lanes = modifyNth f i s.poll.lanes := rfl
@[simp] theorem modCan_self {ch f} : canOf ch (modCan ch f s) = f (canOf ch s) := by cases ch <;> rfl
@[simp] theorem advance_run {t} : (advance t s).replay.run = s.replay.run := by
  unfold advance; repeat' split
  all_goals first | rfl | simp_all
@[simp] theorem setMode_cur {m} : (setMode m s).mode.cur = m := rfl

theorem modifyNth_getD {α : Type} {f : α → α} {d : α} {n : Nat} {l : List α} (h : n < l.length) :
    (modifyNth f n l).getD n d = f (l.getD n d) := by
  induction l generalizing n with
  | nil => cases h
  | cons x l ih => cases n with
    | zero => rfl
    | succ n => simpa [modifyNth] using ih (Nat.lt_of_succ_lt_succ h)

theorem modifyNth_getD_ne {α : Type} {f : α → α} {d : α} {n m : Nat} {l : List α} (h : m ≠ n) :
    (modifyNth f n l).getD m d = l.getD m d := by
  induction l generalizing n m with
  | nil => cases n <;> rfl
  | cons x l ih => cases n with
    | zero => cases m with
      | zero => exact absurd rfl h
      | succ m => rfl
    | succ n => cases m with
      | zero => rfl
      | succ m => simpa [modifyNth] using ih (fun e : m = n => h (congrArg Nat.succ e))

/-- The changed lane. -/
theorem laneOf_modLane {i f} (h : i < s.poll.lanes.length) : laneOf i (modLane i f s) = f (laneOf i s) := modifyNth_getD h
/-- Every other lane. -/
theorem laneOf_modLane_ne {i j f} (h : j ≠ i) : laneOf j (modLane i f s) = laneOf j s := modifyNth_getD_ne h
/-- The changed S port. -/
theorem sportOf_modSPort {p f} (h : p < s.sports.length) : sportOf p (modSPort p f s) = f (sportOf p s) := modifyNth_getD h
/-- The changed I port. -/
theorem iportOf_modIPort {p f} (h : p < s.iports.length) : iportOf p (modIPort p f s) = f (iportOf p s) := modifyNth_getD h
/-- The changed SENT input. -/
theorem tportOf_modTPort {p f} (h : p < s.tports.length) : tportOf p (modTPort p f s) = f (tportOf p s) := modifyNth_getD h
/-- The changed pin. -/
theorem pinOf_modPin {i f} (h : i < s.pins.pins.length) : pinOf i (modPin i f s) = f (pinOf i s) := modifyNth_getD h
/-- Every other pin. -/
theorem pinOf_modPin_ne {i j f} (h : j ≠ i) : pinOf j (modPin i f s) = pinOf j s := modifyNth_getD_ne h
/-- The changed queue, with the watermark rule (R255). -/
theorem queueOf_modQueue {q f} (h : q < s.pool.queues.length) :
    queueOf q (modQueue q f s) = (queueOf q s).after (f (queueOf q s)) := modifyNth_getD h
/-- Every other queue. -/
theorem queueOf_modQueue_ne {q r f} (h : r ≠ q) : queueOf r (modQueue q f s) = queueOf r s := modifyNth_getD_ne h

end Sys2Proof.Laws
end

