-- ==== Sys2Proof/Laws/Kept.lean ====
section
/-! SUPPORT. What every effect of the hub keeps. `Kept b0 s` says that `s` has come from `b0` by effects that leave
the queue of commands, the identity and the key slots alone, never lower the stored counter, and keep the
invariant. `Held b0 s` asks of the key slots only that the locked ones stay: the two commands that write a key slot
have that. The lemmas here are those for building `Kept`; the files `Kept1` onward have one for each operation of the
model. -/

namespace Sys2Proof.Laws

set_option Elab.async false

open Sys2Proof.Machine Sys2Proof.Safety

/-- `s` keeps what every effect from `b0` must keep. -/
structure Kept (b0 s : State) : Prop where
  pending : s.pending = b0.pending
  uid : s.tack.uid = b0.tack.uid
  counter : b0.tack.counter.toNat ≤ s.tack.counter.toNat
  slots : s.tack.slots = b0.tack.slots
  inv : Inv s

/-- `s` keeps what every command from `b0` must keep. -/
structure Held (b0 s : State) : Prop where
  pending : s.pending = b0.pending
  uid : s.tack.uid = b0.tack.uid
  counter : b0.tack.counter.toNat ≤ s.tack.counter.toNat
  locked : ∀ (i : Nat) (k : KeySlot), b0.tack.slots[i]? = some k → k.state = 2 → s.tack.slots[i]? = some k
  inv : Inv s

/-- A grant touches no field of it. -/
theorem Held.grants {l : List (Nat × Bool)} {b s : State} (h : Held b s) : Held b (grants l s) := by
  rw [grants_eq]
  exact ⟨h.pending, h.uid, h.counter, h.locked, ⟨h.inv.memories, h.inv.counts, h.inv.keys⟩⟩

/-- The fields that `Kept` speaks of. -/
structure Core where
  pending : List Instr
  mem : Mem
  uid : List Byte
  slots : List KeySlot
  counter : Long
  keyWrite : Option (Nat × KeySlot)
  user : Mem
  fallback : Mem
  status : Mem
  ram : Mem
  era : Nat
  shape : List Nat

/-- Those fields of a state. -/
@[reducible] def core (s : State) : Core :=
  ⟨s.pending, s.tack.mem, s.tack.uid, s.tack.slots, s.tack.counter, s.auth.keyWrite, s.cfg.user, s.cfg.fallback, s.cfg.status,
    s.pool.ram, s.pool.era,
    [s.poll.lanes.length, s.poll.scanGen.length, s.pool.queues.length, s.pins.pins.length, s.attn.scratch.length,
    s.fault.log.length, s.tack.slots.length, s.tack.uid.length, s.sports.length, s.iports.length, s.tports.length,
    s.snap.bankA.slots.length, s.snap.bankB.slots.length, s.snap.bankC.slots.length]⟩

variable {b0 s t : State}

theorem Kept.refl (h : Inv s) : Kept s s := ⟨rfl, rfl, Nat.le_refl _, rfl, h⟩

theorem Kept.held (h : Kept b0 s) : Held b0 s := ⟨h.pending, h.uid, h.counter, fun _ _ e _ => h.slots ▸ e, h.inv⟩

/-- An update of other fields keeps. -/
theorem Kept.upd (h : Kept b0 s) (e : core t = core s := by with_reducible rfl) : Kept b0 t := by
  injection e with e1 e2 e3 e4 e5 e6 e7 e8 e9 e11 e12 e10
  refine ⟨e1 ▸ h.pending, e3 ▸ h.uid, e5 ▸ h.counter, e4 ▸ h.slots, ?_, e10.trans h.inv.counts, ?_⟩
  · have := h.inv.memories; unfold memoriesWf at *; rw [e2, e7, e8, e9, e11, e12]; exact this
  · have := h.inv.keys; unfold keyWriteOpen at *; rw [e4, e6]; exact this

theorem Kept.ite {c : Prop} [Decidable c] (hs : Kept b0 s) (ht : Kept b0 t) : Kept b0 (if c then s else t) := by
  split <;> assumption

theorem Kept.iteR {c : Prop} [Decidable c] {r q : Reply} (hr : Kept b0 r.s) (hq : Kept b0 q.s) :
    Kept b0 (if c then r else q).s := by
  split <;> assumption

theorem Kept.foldl {α : Type} {f : State → α → State} (hf : ∀ x a, Kept b0 x → Kept b0 (f x a)) {l : List α} :
    ∀ {s : State}, Kept b0 s → Kept b0 (l.foldl f s) := by
  induction l with
  | nil => exact fun h => h
  | cons a l ih => exact fun h => ih (hf _ a h)

theorem Kept.user_wf (h : Kept b0 s) : Memory.wf cfgDflt s.cfg.user = true := by
  have := h.inv.memories; simp only [memoriesWf, Bool.and_eq_true] at this; exact this.1.1.1.1

theorem Kept.fallback_wf (h : Kept b0 s) : Memory.wf cfgDflt s.cfg.fallback = true := by
  have := h.inv.memories; simp only [memoriesWf, Bool.and_eq_true] at this; exact this.1.1.1.2

theorem Kept.status_wf (h : Kept b0 s) : Memory.wf zeroDflt s.cfg.status = true := by
  have := h.inv.memories; simp only [memoriesWf, Bool.and_eq_true] at this; exact this.1.1.2

theorem Kept.mem_wf (h : Kept b0 s) : Memory.wf tackDflt s.tack.mem = true := by
  have := h.inv.memories; simp only [memoriesWf, Bool.and_eq_true] at this; exact this.1.2

theorem Kept.ram_wf (h : Kept b0 s) : Memory.wf (poolDflt s.pool.era) s.pool.ram = true := by
  have := h.inv.memories; simp only [memoriesWf, Bool.and_eq_true] at this; exact this.2

/-- An update of the configuration memories keeps if they stay canonical. -/
theorem Kept.cfg (h : Kept b0 s) (hu : Memory.wf cfgDflt t.cfg.user = true) (hf : Memory.wf cfgDflt t.cfg.fallback = true)
    (hs : Memory.wf zeroDflt t.cfg.status = true)
    (e : { core t with user := [], fallback := [], status := [] } = { core s with user := [], fallback := [], status := [] } := by
      with_reducible rfl) : Kept b0 t := by
  have e1 : t.pending = s.pending := congrArg Core.pending e
  have e2 : t.tack.mem = s.tack.mem := congrArg Core.mem e
  have e3 : t.tack.uid = s.tack.uid := congrArg Core.uid e
  have e4 : t.tack.slots = s.tack.slots := congrArg Core.slots e
  have e5 : t.tack.counter = s.tack.counter := congrArg Core.counter e
  have e6 : t.auth.keyWrite = s.auth.keyWrite := congrArg Core.keyWrite e
  have e11 : t.pool.ram = s.pool.ram := congrArg Core.ram e
  have e12 : t.pool.era = s.pool.era := congrArg Core.era e
  refine ⟨e1 ▸ h.pending, e3 ▸ h.uid, e5 ▸ h.counter, e4 ▸ h.slots, ?_, (congrArg Core.shape e).trans h.inv.counts, ?_⟩
  · have := h.mem_wf; unfold memoriesWf; rw [hu, hf, hs, e2, this, e11, e12, h.ram_wf]; rfl
  · have := h.inv.keys; unfold keyWriteOpen at *; rw [e4, e6]; exact this

/-- An update of the tack store's bytes keeps if they stay canonical. -/
theorem Kept.mem (h : Kept b0 s) (hm : Memory.wf tackDflt t.tack.mem = true)
    (e : { core t with mem := [] } = { core s with mem := [] } := by with_reducible rfl) : Kept b0 t := by
  have e1 : t.pending = s.pending := congrArg Core.pending e
  have e3 : t.tack.uid = s.tack.uid := congrArg Core.uid e
  have e4 : t.tack.slots = s.tack.slots := congrArg Core.slots e
  have e5 : t.tack.counter = s.tack.counter := congrArg Core.counter e
  have e6 : t.auth.keyWrite = s.auth.keyWrite := congrArg Core.keyWrite e
  have e7 : t.cfg.user = s.cfg.user := congrArg Core.user e
  have e8 : t.cfg.fallback = s.cfg.fallback := congrArg Core.fallback e
  have e9 : t.cfg.status = s.cfg.status := congrArg Core.status e
  have e11 : t.pool.ram = s.pool.ram := congrArg Core.ram e
  have e12 : t.pool.era = s.pool.era := congrArg Core.era e
  refine ⟨e1 ▸ h.pending, e3 ▸ h.uid, e5 ▸ h.counter, e4 ▸ h.slots, ?_, (congrArg Core.shape e).trans h.inv.counts, ?_⟩
  · unfold memoriesWf; rw [hm, e7, e8, e9, e11, e12, h.user_wf, h.fallback_wf, h.status_wf, h.ram_wf]; rfl
  · have := h.inv.keys; unfold keyWriteOpen at *; rw [e4, e6]; exact this

/-- An update of the pool's payload bytes keeps if they stay canonical. -/
theorem Kept.ram (h : Kept b0 s) (hm : Memory.wf (poolDflt t.pool.era) t.pool.ram = true)
    (e : { core t with ram := [], era := 0 } = { core s with ram := [], era := 0 } := by with_reducible rfl) : Kept b0 t := by
  have e1 : t.pending = s.pending := congrArg Core.pending e
  have e2 : t.tack.mem = s.tack.mem := congrArg Core.mem e
  have e3 : t.tack.uid = s.tack.uid := congrArg Core.uid e
  have e4 : t.tack.slots = s.tack.slots := congrArg Core.slots e
  have e5 : t.tack.counter = s.tack.counter := congrArg Core.counter e
  have e6 : t.auth.keyWrite = s.auth.keyWrite := congrArg Core.keyWrite e
  have e7 : t.cfg.user = s.cfg.user := congrArg Core.user e
  have e8 : t.cfg.fallback = s.cfg.fallback := congrArg Core.fallback e
  have e9 : t.cfg.status = s.cfg.status := congrArg Core.status e
  refine ⟨e1 ▸ h.pending, e3 ▸ h.uid, e5 ▸ h.counter, e4 ▸ h.slots, ?_, (congrArg Core.shape e).trans h.inv.counts, ?_⟩
  · unfold memoriesWf; rw [hm, e2, e7, e8, e9, h.user_wf, h.fallback_wf, h.status_wf, h.mem_wf]; rfl
  · have := h.inv.keys; unfold keyWriteOpen at *; rw [e4, e6]; exact this

/-- An update of the lists whose lengths are fixed keeps if they keep their lengths. -/
theorem Kept.lists (h : Kept b0 s) (hl : (core t).shape = (core s).shape)
    (e : { core t with shape := [] } = { core s with shape := [] } := by with_reducible rfl) : Kept b0 t := by
  have e1 : t.pending = s.pending := congrArg Core.pending e
  have e2 : t.tack.mem = s.tack.mem := congrArg Core.mem e
  have e3 : t.tack.uid = s.tack.uid := congrArg Core.uid e
  have e4 : t.tack.slots = s.tack.slots := congrArg Core.slots e
  have e5 : t.tack.counter = s.tack.counter := congrArg Core.counter e
  have e6 : t.auth.keyWrite = s.auth.keyWrite := congrArg Core.keyWrite e
  have e7 : t.cfg.user = s.cfg.user := congrArg Core.user e
  have e8 : t.cfg.fallback = s.cfg.fallback := congrArg Core.fallback e
  have e9 : t.cfg.status = s.cfg.status := congrArg Core.status e
  have e11 : t.pool.ram = s.pool.ram := congrArg Core.ram e
  have e12 : t.pool.era = s.pool.era := congrArg Core.era e
  refine ⟨e1 ▸ h.pending, e3 ▸ h.uid, e5 ▸ h.counter, e4 ▸ h.slots, ?_, hl.trans h.inv.counts, ?_⟩
  · have := h.inv.memories; unfold memoriesWf at *; rw [e2, e7, e8, e9, e11, e12]; exact this
  · have := h.inv.keys; unfold keyWriteOpen at *; rw [e4, e6]; exact this

end Sys2Proof.Laws
end

