-- ==== Sys2Proof/Laws/Steady.lean ====
section
/-! SUPPORT. What follows a mode entry, a base boundary, a commit or a fault leaves the mode, the power-up and sleep phase,
hub time, the epoch count, the newest bank, the replay and authentication alone: one lemma for
each such operation. -/

namespace Sys2Proof.Laws

set_option Elab.async false

open Sys2Proof.Machine

/-- `t` has the same mode, phases, hub time, epoch, newest bank, replay and authentication as `u`. -/
structure Steady (u t : State) : Prop where
  cur : t.mode.cur = u.mode.cur
  boot : t.power.boot = u.power.boot
  sleep : t.power.sleep = u.power.sleep
  clockLost : t.power.clockLost = u.power.clockLost
  pllLocked : t.power.pllLocked = u.power.pllLocked
  rstCause : t.power.rstCause = u.power.rstCause
  bankLow : t.power.bankLow = u.power.bankLow
  now : t.time.now = u.time.now
  baseCount : t.time.baseCount = u.time.baseCount
  run : t.time.run = u.time.run
  epochIx : t.time.epochIx = u.time.epochIx
  epochOn : t.time.epochOn = u.time.epochOn
  newest : t.snap.newest = u.snap.newest
  commits : t.snap.commits = u.snap.commits
  pinned : t.snap.pinned = u.snap.pinned
  replay : t.replay = u.replay
  auth : t.auth = u.auth
  farrierExit : t.mode.farrierExit = u.mode.farrierExit
  konly : t.mode.konly = u.mode.konly
  lrDrop0 : t.power.lrDrop0 = u.power.lrDrop0
  lrDrop1 : t.power.lrDrop1 = u.power.lrDrop1
  ended : t.time.ended = u.time.ended
  epochStart : t.time.epochStart = u.time.epochStart
  skipped : t.time.skipped = u.time.skipped
  walkLeft : t.time.walkLeft = u.time.walkLeft
  recovering : t.snap.recovering = u.snap.recovering
  slots : t.tack.slots = u.tack.slots
  pending : t.pending = u.pending

variable {b0 s t : State}

theorem Steady.refl : Steady s s := ⟨rfl, rfl, rfl, rfl, rfl, rfl, rfl, rfl, rfl, rfl, rfl, rfl, rfl, rfl, rfl, rfl, rfl, rfl, rfl, rfl, rfl, rfl, rfl, rfl, rfl, rfl, rfl, rfl⟩

theorem Steady.trans (h : Steady b0 s) (k : Steady s t) : Steady b0 t :=
  ⟨k.cur.trans h.cur, k.boot.trans h.boot, k.sleep.trans h.sleep, k.clockLost.trans h.clockLost, k.pllLocked.trans h.pllLocked, k.rstCause.trans h.rstCause, k.bankLow.trans h.bankLow, k.now.trans h.now, k.baseCount.trans h.baseCount, k.run.trans h.run, k.epochIx.trans h.epochIx, k.epochOn.trans h.epochOn, k.newest.trans h.newest, k.commits.trans h.commits, k.pinned.trans h.pinned, k.replay.trans h.replay, k.auth.trans h.auth, k.farrierExit.trans h.farrierExit, k.konly.trans h.konly, k.lrDrop0.trans h.lrDrop0, k.lrDrop1.trans h.lrDrop1, k.ended.trans h.ended, k.epochStart.trans h.epochStart, k.skipped.trans h.skipped, k.walkLeft.trans h.walkLeft, k.recovering.trans h.recovering, k.slots.trans h.slots, k.pending.trans h.pending⟩

/-- An update of other fields. -/
theorem Steady.upd (h : Steady b0 s) (e : Steady s t := by with_reducible exact ⟨rfl, rfl, rfl, rfl, rfl, rfl, rfl, rfl, rfl, rfl, rfl, rfl, rfl, rfl, rfl, rfl, rfl, rfl, rfl, rfl, rfl, rfl, rfl, rfl, rfl, rfl, rfl, rfl⟩) : Steady b0 t :=
  Steady.trans h e

theorem Steady.ite {c : Prop} [Decidable c] (hs : Steady b0 s) (ht : Steady b0 t) : Steady b0 (if c then s else t) := by
  split <;> assumption

theorem Steady.foldl {α : Type} {f : State → α → State} (hf : ∀ x a, Steady b0 x → Steady b0 (f x a)) {l : List α} :
    ∀ {s : State}, Steady b0 s → Steady b0 (l.foldl f s) := by
  induction l with
  | nil => exact fun h => h
  | cons a l ih => exact fun h => ih (hf _ a h)

theorem modQueue_steady {q f s} (K : Steady b0 s) : Steady b0 (modQueue q f s) := by
  unfold modQueue; exact Steady.upd K

theorem countFlushDrop_steady {s} (K : Steady b0 s) : Steady b0 (countFlushDrop s) := by
  unfold countFlushDrop; exact Steady.upd K

theorem dropForced_steady {p s} (K : Steady b0 s) : Steady b0 (dropForced p s) := by
  unfold dropForced; exact Steady.upd K

theorem grant_steady {p b s} (K : Steady b0 s) : Steady b0 (grant p b s) := by
  unfold grant; exact Steady.ite (Steady.ite (dropForced_steady K) K) (Steady.ite (Steady.upd K) K)

theorem grants_steady {l s} (K : Steady b0 s) : Steady b0 (grants l s) := by
  unfold grants; exact Steady.foldl (fun _ _ h1 => grant_steady h1) K

theorem hostDequeued_steady {q x s} (K : Steady b0 s) : Steady b0 (hostDequeued q x s) := by
  unfold hostDequeued; exact grants_steady (modQueue_steady K)

theorem serveStall_steady {s} (K : Steady b0 s) : Steady b0 (serveStall s) := by
  unfold serveStall
  split
  · split
    · exact K
    · exact grant_steady (hostDequeued_steady (Steady.upd K))
  · exact K

theorem drawn_steady {s} (K : Steady b0 s) : Steady b0 (drawn s) := by
  unfold drawn; exact Steady.upd K

theorem putCells_steady {cells i bs s} (K : Steady b0 s) : Steady b0 (putCells cells i bs s) := by
  unfold putCells; exact Steady.upd K

theorem writeOpen_steady {q who bs s} (K : Steady b0 s) : Steady b0 (writeOpen q who bs s) := by
  unfold writeOpen
  split
  · exact K
  · extract_lets +onlyGivenNames _ _
    exact grants_steady (putCells_steady (modQueue_steady K))

theorem closeItem_steady {q who bytes kind s} (K : Steady b0 s) : Steady b0 (closeItem q who bytes kind s) := by
  unfold closeItem
  extract_lets +onlyGivenNames s1
  have hs1 : Steady b0 s1 := writeOpen_steady K
  clear_value s1
  split
  · exact hs1
  · exact Steady.ite (grant_steady (countFlushDrop_steady (modQueue_steady hs1))) (by
        extract_lets +onlyGivenNames _ s11
        have hs11 : Steady b0 s11 := modQueue_steady hs1
        clear_value s11
        exact serveStall_steady (grant_steady (Steady.ite (grant_steady hs11) hs11)))

theorem abandonItem_steady {q who s} (K : Steady b0 s) : Steady b0 (abandonItem q who s) := by
  unfold abandonItem; exact grant_steady (modQueue_steady K)

theorem closeBlock_steady {s} (K : Steady b0 s) : Steady b0 (closeBlock s) := by
  unfold closeBlock; exact Steady.ite (abandonItem_steady K) (closeItem_steady K)

theorem attend_steady {n s} (K : Steady b0 s) : Steady b0 (attend n s) := by
  unfold attend
  extract_lets +onlyGivenNames s1
  have hs1 : Steady b0 s1 := Steady.ite (grant_steady (grant_steady K)) K
  clear_value s1
  exact grant_steady (Steady.upd hs1)

theorem freeze_steady {cause s} (K : Steady b0 s) : Steady b0 (freeze cause s) := by
  unfold freeze
  split
  · exact K
  · extract_lets +onlyGivenNames s1
    have hs1 : Steady b0 s1 := closeBlock_steady K
    clear_value s1
    exact attend_steady (Steady.upd hs1)

theorem tapTrigger_steady {n s} (K : Steady b0 s) : Steady b0 (tapTrigger n s) := by
  unfold tapTrigger; exact Steady.ite (Steady.ite (freeze_steady K) (Steady.upd K)) K

theorem openItem_steady {q n who prio s} (K : Steady b0 s) : Steady b0 (openItem q n who prio s) := by
  unfold openItem
  extract_lets +onlyGivenNames _
  exact modQueue_steady (Steady.upd K)

theorem tapDrawn_steady {s} (K : Steady b0 s) : Steady b0 (tapDrawn s) := by
  unfold tapDrawn; exact Steady.upd K

theorem streamOut_steady {bs s} (K : Steady b0 s) : Steady b0 (streamOut bs s) := by
  unfold streamOut; exact Steady.ite (Steady.ite (tapDrawn_steady (Steady.upd K)) (tapDrawn_steady (Steady.upd K))) K

theorem reserve_steady {q n who prio s t} (h : Steady b0 s) (e : reserve q n who prio s = some t) : Steady b0 t := by
  unfold reserve at e
  split at e
  · cases e
    exact grants_steady (openItem_steady h)
  · cases e

theorem dropOldest_steady {q rest s} (K : Steady b0 s) : Steady b0 (dropOldest q rest s) := by
  unfold dropOldest; exact grants_steady (modQueue_steady K)

theorem makeRingRoom_steady {n s} (h : Steady b0 s) : Steady b0 (makeRingRoom n s) := by
  induction n generalizing s with
  | zero => exact h
  | succ n ih =>
    unfold makeRingRoom; split
    · exact h
    · split
      · exact h
      · exact ih (Steady.upd (dropOldest_steady h))

theorem haveBlock_steady {s t} (h : Steady b0 s) (e : haveBlock s = some t) : Steady b0 t := by
  unfold haveBlock at e
  split at e
  · cases e
    exact h
  · exact reserve_steady (makeRingRoom_steady h) ‹_›

theorem putRecord_steady {type flags body s} (K : Steady b0 s) : Steady b0 (putRecord type flags body s) := by
  unfold putRecord
  extract_lets +onlyGivenNames _
  split
  · exact K
  · extract_lets +onlyGivenNames s2
    have hs2 : Steady b0 s2 := writeOpen_steady (haveBlock_steady (Steady.ite (closeBlock_steady K) K) ‹_›)
    clear_value s2
    exact streamOut_steady (Steady.upd hs2)

theorem recVerdicts_steady {es s} (K : Steady b0 s) : Steady b0 (recVerdicts es s) := by
  unfold recVerdicts
  extract_lets +onlyGivenNames _ _
  exact putRecord_steady K

theorem writeFull_steady {n s} (h : Steady b0 s) : Steady b0 (writeFull n s) := by
  induction n generalizing s with
  | zero => exact h
  | succ n ih =>
    unfold writeFull; dsimp only; split
    · exact h
    · exact ih (recVerdicts_steady (Steady.upd h))

theorem tapAppend_steady {type flags body s} (K : Steady b0 s) : Steady b0 (tapAppend type flags body s) := by
  unfold tapAppend; exact Steady.ite (putRecord_steady (writeFull_steady K)) K

theorem recFault_steady {code island detail s} (K : Steady b0 s) : Steady b0 (recFault code island detail s) := by
  unfold recFault; exact tapAppend_steady K

theorem logFault_steady {code cls island detail s0} (K : Steady b0 s0) : Steady b0 (logFault code cls island detail s0) := by
  unfold logFault
  extract_lets +onlyGivenNames _ _ s1
  have hs1 : Steady b0 s1 := Steady.upd K
  clear_value s1
  exact tapTrigger_steady (recFault_steady (attend_steady (grant_steady (grant_steady hs1))))

theorem gainLock_steady {s} (K : Steady b0 s) : Steady b0 (gainLock s) := by
  unfold gainLock; exact Steady.ite K (attend_steady (Steady.upd K))

theorem loseLock_steady {s} (K : Steady b0 s) : Steady b0 (loseLock s) := by
  unfold loseLock; exact Steady.ite (attend_steady (Steady.upd K)) (Steady.upd K)

theorem modCan_steady {ch f s} (K : Steady b0 s) : Steady b0 (modCan ch f s) := by
  unfold modCan; split <;> exact Steady.upd K

theorem withdrawSync_steady {s} (K : Steady b0 s) : Steady b0 (withdrawSync s) := by
  unfold withdrawSync
  extract_lets +onlyGivenNames drop
  have hdrop {ch} {s} (hs' : Steady b0 s) : Steady b0 (drop ch s) := by
    dsimp -zeta only [drop]
    extract_lets +onlyGivenNames s1
    have hs1 : Steady b0 s1 := modQueue_steady hs'
    clear_value s1
    exact modCan_steady hs1
  clear_value drop
  extract_lets +onlyGivenNames s1
  have hs1 : Steady b0 s1 := hdrop (hdrop (Steady.ite (grants_steady K) K))
  clear_value s1
  exact Steady.upd hs1

theorem settleLead_steady {s} (K : Steady b0 s) : Steady b0 (settleLead s) := by
  unfold settleLead
  split
  · extract_lets +onlyGivenNames _ s1
    have hs1 : Steady b0 s1 := Steady.upd K
    clear_value s1
    exact Steady.ite (gainLock_steady hs1) (loseLock_steady hs1)
  · exact Steady.ite (withdrawSync_steady (loseLock_steady (Steady.upd K))) K

theorem startCan_steady {ch s} (K : Steady b0 s) : Steady b0 (startCan ch s) := by
  unfold startCan
  extract_lets +onlyGivenNames _ s1
  have hs1 : Steady b0 s1 := grant_steady K
  clear_value s1
  exact modCan_steady hs1

theorem canEvent_steady {ch n s} (K : Steady b0 s) : Steady b0 (canEvent ch n s) := by
  unfold canEvent; exact attend_steady (modCan_steady K)

theorem refuseStart_steady {ch why s} (K : Steady b0 s) : Steady b0 (refuseStart ch why s) := by
  unfold refuseStart; exact canEvent_steady (modCan_steady K)

theorem settleCan_steady {ch s} (K : Steady b0 s) : Steady b0 (settleCan ch s) := by
  unfold settleCan
  extract_lets +onlyGivenNames on s1
  have hs1 : Steady b0 s1 := modCan_steady K
  clear_value s1
  exact Steady.ite (Steady.ite (startCan_steady hs1) (refuseStart_steady hs1)) hs1

theorem settleCans_steady {s} (K : Steady b0 s) : Steady b0 (settleCans s) := by
  unfold settleCans; exact settleLead_steady (settleCan_steady (settleCan_steady K))

theorem modIPort_steady {p f s} (K : Steady b0 s) : Steady b0 (modIPort p f s) := by
  unfold modIPort; exact Steady.upd K

theorem modTPort_steady {p f s} (K : Steady b0 s) : Steady b0 (modTPort p f s) := by
  unfold modTPort; exact Steady.upd K

theorem modSPort_steady {p f s} (K : Steady b0 s) : Steady b0 (modSPort p f s) := by
  unfold modSPort; exact Steady.upd K

theorem releaseSelect_steady {p s} (K : Steady b0 s) : Steady b0 (releaseSelect p s) := by
  unfold releaseSelect; exact modSPort_steady K

theorem takeItem_steady {q s x t} (h : Steady b0 s) (e : takeItem q s = some (x, t)) : Steady b0 t := by
  unfold takeItem at e
  split at e
  · cases e
  · split at e
    · cases e
      exact grants_steady (modQueue_steady h)
    · cases e

theorem skipBad_steady {n q s} (h : Steady b0 s) : Steady b0 (skipBad n q s) := by
  induction n generalizing s with
  | zero => exact h
  | succ n ih =>
    unfold skipBad; split
    · exact h
    · split
      · exact ih (takeItem_steady h ‹_›)
      · exact h

theorem takeGood_steady {n q s x t} (h : Steady b0 s) (e : takeGood n q s = some (x, t)) : Steady b0 t := by
  unfold takeGood at e
  exact takeItem_steady (skipBad_steady h) ‹_›

theorem loadTarget_steady {p s} (K : Steady b0 s) : Steady b0 (loadTarget p s) := by
  unfold loadTarget
  split
  · split
    · exact K
    · extract_lets +onlyGivenNames n
      exact modSPort_steady (takeGood_steady K ‹_›)
  · exact K

theorem loadTargets_steady {s} (K : Steady b0 s) : Steady b0 (loadTargets s) := by
  unfold loadTargets; exact Steady.foldl (fun _ _ h0 => (loadTarget_steady h0)) K

theorem settlePorts_steady {old s} (hs : Steady b0 s) : Steady b0 (settlePorts old s) := by
  unfold settlePorts
  refine Steady.foldl (fun _ _ h0 => ?_) (loadTargets_steady hs)
  extract_lets +onlyGivenNames s1
  have hs1 : Steady b0 s1 := Steady.ite (modIPort_steady h0) h0
  clear_value s1
  extract_lets +onlyGivenNames s2
  have hs2 : Steady b0 s2 := Steady.ite (modTPort_steady hs1) hs1
  clear_value s2
  exact Steady.ite (releaseSelect_steady hs2) hs2

theorem setStatByte_steady {a v s} (K : Steady b0 s) : Steady b0 (setStatByte a v s) := by
  unfold setStatByte; exact Steady.upd K

theorem setEstat_steady {n b on s} (K : Steady b0 s) : Steady b0 (setEstat n b on s) := by
  unfold setEstat
  extract_lets +onlyGivenNames v
  exact setStatByte_steady K

theorem purgeHeld_steady {s} (K : Steady b0 s) : Steady b0 (purgeHeld s) := by
  unfold purgeHeld
  extract_lets +onlyGivenNames gone
  exact Steady.foldl (fun _ _ h0 => (setEstat_steady h0)) (Steady.upd K)

theorem setLast_steady {n code s} (K : Steady b0 s) : Steady b0 (setLast n code s) := by
  unfold setLast; exact setStatByte_steady K

theorem countByte_steady {a s} (K : Steady b0 s) : Steady b0 (countByte a s) := by
  unfold countByte; exact setStatByte_steady K

theorem countEp_steady {n o s} (K : Steady b0 s) : Steady b0 (countEp n o s) := by
  unfold countEp; exact countByte_steady K

theorem orphanRun_steady {n started s} (K : Steady b0 s) : Steady b0 (orphanRun n started s) := by
  unfold orphanRun
  extract_lets +onlyGivenNames s1
  have hs1 : Steady b0 s1 := setLast_steady (setEstat_steady K)
  clear_value s1
  exact Steady.ite (setEstat_steady (countEp_steady hs1)) hs1

theorem modBank_steady {b f s} (K : Steady b0 s) : Steady b0 (modBank b f s) := by
  unfold modBank; exact Steady.ite (Steady.upd K) (Steady.ite (Steady.upd K) (Steady.ite (Steady.upd K) K))

theorem putSlot_steady {b n x s} (K : Steady b0 s) : Steady b0 (putSlot b n x s) := by
  unfold putSlot; exact modBank_steady K

theorem markMiss_steady {n due s} (K : Steady b0 s) : Steady b0 (markMiss n due s) := by
  unfold markMiss
  split
  · exact K
  · exact Steady.ite (Steady.ite (Steady.upd K) (putSlot_steady K)) (Steady.upd K)

theorem missRun_steady {n due code s} (K : Steady b0 s) : Steady b0 (missRun n due code s) := by
  unfold missRun
  extract_lets +onlyGivenNames s1
  have hs1 : Steady b0 s1 := markMiss_steady (setLast_steady (countEp_steady (setEstat_steady K)))
  clear_value s1
  exact Steady.ite (tapTrigger_steady hs1) hs1

theorem modLane_steady {i f s} (K : Steady b0 s) : Steady b0 (modLane i f s) := by
  unfold modLane; exact Steady.upd K

theorem openFrame_steady {p who f s} (K : Steady b0 s) : Steady b0 (openFrame p who f s) := by
  unfold openFrame; exact grants_steady (modSPort_steady K)

theorem sendFrame_steady {p who f out s} (K : Steady b0 s) : Steady b0 (sendFrame p who f out s) := by
  unfold sendFrame; exact modSPort_steady (openFrame_steady K)

theorem sendFill_steady {l s} (K : Steady b0 s) : Steady b0 (sendFill l s) := by
  unfold sendFill
  extract_lets +onlyGivenNames _ _
  exact sendFrame_steady K

theorem beginFill_steady {l waited s} (K : Steady b0 s) : Steady b0 (beginFill l waited s) := by
  unfold beginFill; exact modSPort_steady (sendFill_steady K)

theorem startFill_steady {s} (K : Steady b0 s) : Steady b0 (startFill s) := by
  unfold startFill
  split
  · exact Steady.ite (beginFill_steady K) K
  · exact K

theorem setStatWord_steady {a v s} (K : Steady b0 s) : Steady b0 (setStatWord a v s) := by
  unfold setStatWord; exact Steady.upd K

theorem countWord_steady {a s} (K : Steady b0 s) : Steady b0 (countWord a s) := by
  unfold countWord; exact setStatWord_steady K

theorem countFrame_steady {p s} (K : Steady b0 s) : Steady b0 (countFrame p s) := by
  unfold countFrame; exact countWord_steady K

theorem sendFlash_steady {op addr data reads s} (K : Steady b0 s) : Steady b0 (sendFlash op addr data reads s) := by
  unfold sendFlash
  extract_lets +onlyGivenNames _ _
  exact countFrame_steady (sendFrame_steady K)

theorem startEnable_steady {s} (K : Steady b0 s) : Steady b0 (startEnable s) := by
  unfold startEnable
  split
  · exact Steady.ite (by
        extract_lets +onlyGivenNames s1
        have hs1 : Steady b0 s1 := sendFlash_steady K
        clear_value s1
        exact Steady.upd hs1) K
  · exact K

theorem sendSfdp_steady {addr reads s} (K : Steady b0 s) : Steady b0 (sendSfdp addr reads s) := by
  unfold sendSfdp
  extract_lets +onlyGivenNames _ _
  exact sendFrame_steady K

theorem startSfdp_steady {s} (K : Steady b0 s) : Steady b0 (startSfdp s) := by
  unfold startSfdp; exact Steady.ite (modSPort_steady (sendSfdp_steady K)) K

theorem pumpS0_steady {s} (K : Steady b0 s) : Steady b0 (pumpS0 s) := by
  unfold pumpS0; exact startFill_steady (startEnable_steady (startSfdp_steady K))

theorem dropHold_steady {p s} (K : Steady b0 s) : Steady b0 (dropHold p s) := by
  unfold dropHold
  exact Steady.ite (by
      extract_lets +onlyGivenNames _
      exact setStatWord_steady (modIPort_steady K)) K

theorem sendI_steady {p who bs s} (K : Steady b0 s) : Steady b0 (sendI p who bs s) := by
  unfold sendI; exact grants_steady (modIPort_steady K)

theorem startPt_steady {p s} (K : Steady b0 s) : Steady b0 (startPt p s) := by
  unfold startPt; exact Steady.ite (modIPort_steady (dropHold_steady (sendI_steady K))) K

theorem pumpPort_steady {n s} (K : Steady b0 s) : Steady b0 (pumpPort n s) := by
  unfold pumpPort; exact Steady.ite (pumpS0_steady K) (Steady.ite (startPt_steady K) K)

theorem releasePorts_steady {i s} (K : Steady b0 s) : Steady b0 (releasePorts i s) := by
  unfold releasePorts
  extract_lets +onlyGivenNames _ s1
  have hs1 : Steady b0 s1 := Steady.foldl (fun _ _ h2 => Steady.ite (releaseSelect_steady h2) h2) K
  clear_value s1
  extract_lets +onlyGivenNames s2
  have hs2 : Steady b0 s2 := modLane_steady hs1
  clear_value s2
  exact Steady.foldl (fun _ _ h2 => pumpPort_steady h2) (grants_steady hs2)

theorem clearLane_steady {i s} (K : Steady b0 s) : Steady b0 (clearLane i s) := by
  unfold clearLane; exact grant_steady (modLane_steady K)

theorem cancelLane_steady {i code s} (K : Steady b0 s) : Steady b0 (cancelLane i code s) := by
  unfold cancelLane
  extract_lets +onlyGivenNames _
  exact Steady.ite K (by
      extract_lets +onlyGivenNames s1
      have hs1 : Steady b0 s1 := Steady.ite K (Steady.ite (grant_steady (orphanRun_steady K)) (missRun_steady K))
      clear_value s1
      split
      · exact modLane_steady hs1
      · exact clearLane_steady (releasePorts_steady hs1))

theorem cancelLanes_steady {p code s} (K : Steady b0 s) : Steady b0 (cancelLanes p code s) := by
  unfold cancelLanes; exact Steady.foldl (fun _ _ h0 => (Steady.ite (cancelLane_steady h0) h0)) K

theorem invalidateCache_steady {s} (K : Steady b0 s) : Steady b0 (invalidateCache s) := by
  unfold invalidateCache; exact grant_steady (modSPort_steady K)

theorem recMode_steady {old new hw prof first s} (K : Steady b0 s) : Steady b0 (recMode old new hw prof first s) := by
  unfold recMode; exact tapAppend_steady K

theorem commitsReady_steady {s} (K : Steady b0 s) : Steady b0 (commitsReady s) := by
  unfold commitsReady; exact Steady.upd K

theorem staleWindows_steady {s} (K : Steady b0 s) : Steady b0 (staleWindows s) := by
  unfold staleWindows; exact Steady.upd K

theorem countWordBy_steady {a n s} (K : Steady b0 s) : Steady b0 (countWordBy a n s) := by
  unfold countWordBy; exact setStatWord_steady K

theorem discardPubs_steady {s} (K : Steady b0 s) : Steady b0 (discardPubs s) := by
  unfold discardPubs
  extract_lets +onlyGivenNames drop
  have hdrop {ch} {s} (hs' : Steady b0 s) : Steady b0 (drop ch s) := by
    dsimp -zeta only [drop]
    extract_lets +onlyGivenNames n
    exact Steady.ite hs' (countWordBy_steady (modQueue_steady hs'))
  clear_value drop
  exact hdrop (hdrop K)

theorem modPin_steady {i f s} (K : Steady b0 s) : Steady b0 (modPin i f s) := by
  unfold modPin; exact Steady.upd K

theorem parkPin_steady {i s} (K : Steady b0 s) : Steady b0 (parkPin i s) := by
  unfold parkPin; exact modPin_steady K

theorem parkPort_steady {n s} (K : Steady b0 s) : Steady b0 (parkPort n s) := by
  unfold parkPort
  extract_lets +onlyGivenNames s1
  have hs1 : Steady b0 s1 := Steady.foldl (fun _ _ h1 => (Steady.ite (parkPin_steady h1) h1)) K
  clear_value s1
  exact Steady.foldl (fun _ _ h0 => (Steady.ite (parkPin_steady h0) h0)) hs1

theorem parkFailed_steady {s} (K : Steady b0 s) : Steady b0 (parkFailed s) := by
  unfold parkFailed; exact Steady.foldl (fun _ _ h0 => (Steady.ite (parkPort_steady h0) h0)) K

theorem passValidation_steady {n s} (K : Steady b0 s) : Steady b0 (passValidation n s) := by
  unfold passValidation; exact Steady.ite (setLast_steady (setEstat_steady (Steady.upd K))) K

theorem failValidation_steady {n s} (K : Steady b0 s) : Steady b0 (failValidation n s) := by
  unfold failValidation
  extract_lets +onlyGivenNames _ s1
  have hs1 : Steady b0 s1 := Steady.ite K (Steady.upd K)
  clear_value s1
  exact setLast_steady (setEstat_steady hs1)

theorem validateEp_steady {n s} (K : Steady b0 s) : Steady b0 (validateEp n s) := by
  unfold validateEp; exact Steady.ite (passValidation_steady K) (failValidation_steady K)

theorem validateAll_steady {s} (K : Steady b0 s) : Steady b0 (validateAll s) := by
  unfold validateAll; exact Steady.foldl (fun _ _ h0 => (validateEp_steady h0)) K

theorem resetCond_steady {s} (K : Steady b0 s) : Steady b0 (resetCond s) := by
  unfold resetCond; exact Steady.upd K

theorem cancelRequest_steady {s} (K : Steady b0 s) : Steady b0 (cancelRequest s) := by
  unfold cancelRequest; exact Steady.ite (Steady.upd K) K

theorem leadReinBy_steady {path code s0} (K : Steady b0 s0) : Steady b0 (leadReinBy path code s0) := by
  unfold leadReinBy
  extract_lets +onlyGivenNames s
  have hs : Steady b0 s := grants_steady K
  clear_value s
  exact Steady.ite hs (Steady.ite (Steady.upd hs) (by
      extract_lets +onlyGivenNames s1
      have hs1 : Steady b0 s1 := cancelRequest_steady hs
      clear_value s1
      exact Steady.upd hs1))

theorem toLeadRein_steady {code s} (K : Steady b0 s) : Steady b0 (toLeadRein code s) := by
  unfold toLeadRein; exact leadReinBy_steady K

theorem lateReaction_steady {s} (K : Steady b0 s) : Steady b0 (lateReaction s) := by
  unfold lateReaction; exact Steady.ite (toLeadRein_steady K) K

theorem beginStaging_steady {s} (K : Steady b0 s) : Steady b0 (beginStaging s) := by
  unfold beginStaging
  extract_lets +onlyGivenNames b _ s1
  have hs1 : Steady b0 s1 := Steady.upd K
  clear_value s1
  exact modBank_steady hs1

theorem endRecording_steady {s} (K : Steady b0 s) : Steady b0 (endRecording s) := by
  unfold endRecording; exact Steady.ite (Steady.ite (freeze_steady K) (Steady.upd K)) K

theorem hardwareEntry_steady {code s} (K : Steady b0 s) : Steady b0 (hardwareEntry code s) := by
  unfold hardwareEntry; exact tapTrigger_steady (attend_steady (Steady.upd K))

theorem scanCopies_steady {s} (K : Steady b0 s) : Steady b0 (scanCopies s) := by
  unfold scanCopies
  extract_lets +onlyGivenNames marks ones
  exact Steady.upd K

theorem loadHeader_steady {h s} (K : Steady b0 s) : Steady b0 (loadHeader h s) := by
  unfold loadHeader
  extract_lets +onlyGivenNames at2
  exact Steady.upd K

theorem endFault_steady {code s} (K : Steady b0 s) : Steady b0 (endFault code s) := by
  unfold endFault; exact Steady.upd K

theorem userOk_steady {s} (K : Steady b0 s) : Steady b0 (userOk s) := by
  unfold userOk; exact endFault_steady (endFault_steady (Steady.upd K))

theorem faultInvalid_steady {area why s} (K : Steady b0 s) : Steady b0 (faultInvalid area why s) := by
  unfold faultInvalid; exact logFault_steady K

theorem loadProfiles_steady {s0} (K : Steady b0 s0) : Steady b0 (loadProfiles s0) := by
  unfold loadProfiles
  extract_lets +onlyGivenNames s
  have hs : Steady b0 s := scanCopies_steady K
  clear_value s
  dsimp only
  generalize hfb : checkArea 4 s = fb
  have h1 : Steady b0 (match fb with
      | .ok p => { s with tack := { s.tack with fbOk := true }, cfg := { s.cfg with fallback := expandSections p.sections } }
      | .error _ => { s with tack := { s.tack with fbOk := false } }) := by
    split
    · exact Steady.upd hs
    · exact Steady.upd hs
  refine validateAll_steady ?_
  revert h1
  cases fb <;> dsimp only <;> intro h1 <;> split
  · exact loadHeader_steady (userOk_steady (Steady.upd h1))
  · exact logFault_steady (faultInvalid_steady (Steady.upd h1))
  · exact loadHeader_steady (userOk_steady (Steady.upd h1))
  · generalize hl : loadHeader _ _ = s2
    have h2 : Steady b0 s2 := hl ▸ loadHeader_steady h1
    exact faultInvalid_steady (Steady.upd h2)

theorem firstBoundary_steady {s} (K : Steady b0 s) : Steady b0 (firstBoundary s) := by
  unfold firstBoundary; exact Steady.upd K

theorem takeSelection_steady {s} (K : Steady b0 s) : Steady b0 (takeSelection s) := by
  unfold takeSelection
  extract_lets +onlyGivenNames s1
  have hs1 : Steady b0 s1 := grants_steady K
  clear_value s1
  exact Steady.upd hs1

theorem refreshStaging_steady {s} (K : Steady b0 s) : Steady b0 (refreshStaging s) := by
  unfold refreshStaging
  split
  · exact Steady.upd K
  · extract_lets +onlyGivenNames _ s1
    have hs1 : Steady b0 s1 := Steady.upd K
    clear_value s1
    split
    · exact hs1
    · extract_lets +onlyGivenNames slots
      exact modBank_steady hs1

theorem clearStatuses_steady {s} (K : Steady b0 s) : Steady b0 (clearStatuses s) := by
  unfold clearStatuses
  exact Steady.foldl (fun _ _ h => Steady.ite (setEstat_steady h) h)
    (Steady.foldl (fun _ _ h => setEstat_steady h) (Steady.upd K))

theorem beginTransit_steady {i s} (K : Steady b0 s) : Steady b0 (beginTransit i s) := by
  unfold beginTransit; exact Steady.ite (grant_steady (drawn_steady (modPin_steady K))) K

theorem settlePin_steady {old s i} (hs : Steady b0 s) : Steady b0 (settlePin old s i) := by
  unfold settlePin
  extract_lets +onlyGivenNames s1
  have hs1 : Steady b0 s1 := by
    dsimp only [s1]
    split
    · exact modPin_steady hs
    · exact hs
  clear_value s1
  exact Steady.ite (beginTransit_steady hs1) hs1

theorem settlePins_steady {old s} (hs : Steady b0 s) : Steady b0 (settlePins old s) := by
  unfold settlePins; exact Steady.foldl (fun _ _ h1 => settlePin_steady h1) hs

theorem adapting_steady {f s} (hf : ∀ x, Steady b0 x → Steady b0 (f x)) (h : Steady b0 s) : Steady b0 (adapting f s) := by
  unfold adapting; exact settleCans_steady (settlePins_steady (settlePorts_steady (purgeHeld_steady (hf _ h))))

theorem opProgress_steady {n s} (K : Steady b0 s) : Steady b0 (opProgress n s) := by
  unfold opProgress; exact grant_steady (Steady.upd K)

theorem opEnd_steady {st why s} (K : Steady b0 s) : Steady b0 (opEnd st why s) := by
  unfold opEnd; exact attend_steady (grant_steady (Steady.upd K))

theorem tackFail_steady {code s} (K : Steady b0 s) : Steady b0 (tackFail code s) := by
  unfold tackFail; exact Steady.upd K

theorem tackWrite_steady {o n bs s} (K : Steady b0 s) : Steady b0 (tackWrite o n bs s) := by
  unfold tackWrite; exact Steady.upd K

theorem endJob_steady {s0} (K : Steady b0 s0) : Steady b0 (endJob s0) := by
  unfold endJob
  extract_lets +onlyGivenNames s
  have hs : Steady b0 s := grants_steady K
  clear_value s
  exact Steady.upd hs

theorem buildImage_steady {j s} (K : Steady b0 s) : Steady b0 (buildImage j s) := by
  unfold buildImage; exact Steady.ite (opEnd_steady (scanCopies_steady (tackFail_steady (tackWrite_steady (endJob_steady K))))) (Steady.upd K)

theorem moveCommit_steady {least s} (K : Steady b0 s) : Steady b0 (moveCommit least s) := by
  unfold moveCommit
  split
  · exact K
  · exact Steady.ite K (by
        extract_lets +onlyGivenNames s1
        have hs1 : Steady b0 s1 := drawn_steady (opProgress_steady K)
        clear_value s1
        exact Steady.ite (buildImage_steady hs1) hs1)

theorem clearSelects_steady {s} (K : Steady b0 s) : Steady b0 (clearSelects s) := by
  unfold clearSelects; exact Steady.foldl (fun _ _ h1 => Steady.foldl (fun _ _ h2 => setStatWord_steady h2) h1) K

theorem expandUser_steady {p s} (K : Steady b0 s) : Steady b0 (expandUser p s) := by
  unfold expandUser
  exact adapting_steady (fun _ h1 => by
      extract_lets +onlyGivenNames s1
      have hs1 : Steady b0 s1 := invalidateCache_steady (moveCommit_steady h1)
      clear_value s1
      extract_lets +onlyGivenNames _ s11
      have hs11 : Steady b0 s11 := loadHeader_steady (Steady.upd hs1)
      clear_value s11
      exact refreshStaging_steady (staleWindows_steady (resetCond_steady (validateAll_steady (clearSelects_steady (clearStatuses_steady (userOk_steady (grant_steady hs11)))))))) K

theorem emptyQueue_steady {q s} (K : Steady b0 s) : Steady b0 (emptyQueue q s) := by
  unfold emptyQueue; exact grant_steady (modQueue_steady K)

theorem freeStaging_steady {s} (K : Steady b0 s) : Steady b0 (freeStaging s) := by
  unfold freeStaging
  extract_lets +onlyGivenNames s1
  have hs1 : Steady b0 s1 := emptyQueue_steady (abandonItem_steady K)
  clear_value s1
  exact Steady.upd hs1

theorem loseStaged_steady {s} (K : Steady b0 s) : Steady b0 (loseStaged s) := by
  unfold loseStaged
  extract_lets +onlyGivenNames _ s1
  have hs1 : Steady b0 s1 := faultInvalid_steady (Steady.upd K)
  clear_value s1
  exact Steady.ite (toLeadRein_steady hs1) hs1

theorem applyStaged_steady {s} (K : Steady b0 s) : Steady b0 (applyStaged s) := by
  unfold applyStaged
  extract_lets +onlyGivenNames s1
  have hs1 : Steady b0 s1 := by
    dsimp only [s1]
    split
    · exact expandUser_steady K
    · exact loseStaged_steady K
  clear_value s1
  exact freeStaging_steady (Steady.upd hs1)

theorem cancelSwitch_steady {s} (K : Steady b0 s) : Steady b0 (cancelSwitch s) := by
  unfold cancelSwitch; exact Steady.ite (freeStaging_steady (Steady.upd K)) K

theorem byApply_steady {s} (K : Steady b0 s) : Steady b0 (byApply s) := by
  unfold byApply
  extract_lets +onlyGivenNames s1
  have hs1 : Steady b0 s1 := Steady.ite K (grant_steady K)
  clear_value s1
  exact settleLead_steady (Steady.upd hs1)

theorem failSwitch_steady {s} (K : Steady b0 s) : Steady b0 (failSwitch s) := by
  unfold failSwitch
  extract_lets +onlyGivenNames _ s1
  have hs1 : Steady b0 s1 := takeSelection_steady (Steady.upd K)
  clear_value s1
  exact faultInvalid_steady hs1

theorem checkStaged_steady {s} (K : Steady b0 s) : Steady b0 (checkStaged s) := by
  unfold checkStaged
  exact Steady.ite (by
      extract_lets +onlyGivenNames _ s1
      have hs1 : Steady b0 s1 := freeStaging_steady (Steady.upd K)
      clear_value s1
      exact Steady.ite (Steady.upd hs1) (Steady.upd hs1)) K

theorem failAtBoundary_steady {s} (K : Steady b0 s) : Steady b0 (failAtBoundary s) := by
  unfold failAtBoundary
  extract_lets +onlyGivenNames s1
  have hs1 : Steady b0 s1 := Steady.ite (checkStaged_steady K) K
  clear_value s1
  exact Steady.ite (by
      extract_lets +onlyGivenNames s11
      have hs11 : Steady b0 s11 := failSwitch_steady hs1
      clear_value s11
      exact Steady.ite hs11 (leadReinBy_steady hs11)) hs1

theorem settleAhead_steady {keep s} (K : Steady b0 s) : Steady b0 (settleAhead keep s) := by
  unfold settleAhead
  extract_lets +onlyGivenNames ix goesOn _ s1
  have hs1 : Steady b0 s1 := Steady.upd K
  clear_value s1
  extract_lets +onlyGivenNames s2
  have hs2 : Steady b0 s2 := Steady.foldl (fun _ _ h1 => (Steady.ite (Steady.upd h1) (orphanRun_steady h1))) hs1
  clear_value s2
  refine Steady.foldl (fun _ _ h0 => ?_) hs2
  extract_lets +onlyGivenNames l
  exact Steady.ite (Steady.ite (modLane_steady h0) (cancelLane_steady h0)) h0

theorem recTime_steady {start bound epoch afterGap number s0} (K : Steady b0 s0) : Steady b0 (recTime start bound epoch afterGap number s0) := by
  unfold recTime
  extract_lets +onlyGivenNames s
  have hs : Steady b0 s := Steady.ite (closeBlock_steady K) K
  clear_value s
  exact tapAppend_steady hs

theorem keyframeDue_steady {s} (K : Steady b0 s) : Steady b0 (keyframeDue s) := by
  unfold keyframeDue; exact Steady.upd K

theorem addDue_steady {n s} (K : Steady b0 s) : Steady b0 (addDue n s) := by
  unfold addDue
  extract_lets +onlyGivenNames _
  exact Steady.ite K (Steady.ite K (Steady.ite (Steady.upd K) (Steady.ite (countEp_steady K) (Steady.upd K))))

theorem startAttempt_steady {i pc trig s} (K : Steady b0 s) : Steady b0 (startAttempt i pc trig s) := by
  unfold startAttempt; exact modLane_steady K

theorem startRun_steady {i r ahead s} (K : Steady b0 s) : Steady b0 (startRun i r ahead s) := by
  unfold startRun; exact setEstat_steady (setStatByte_steady (startAttempt_steady (modLane_steady K)))

theorem dispatch_steady {s} (K : Steady b0 s) : Steady b0 (dispatch s) := by
  unfold dispatch
  exact Steady.foldl (fun _ _ h1 => Steady.ite (by
      split
      · exact Steady.ite h1 (startRun_steady (grant_steady (Steady.upd h1)))
      · split
        · exact Steady.ite h1 (startRun_steady (grant_steady (Steady.upd h1)))
        · exact h1) h1) K

theorem missOwed_steady {s} (K : Steady b0 s) : Steady b0 (missOwed s) := by
  unfold missOwed
  extract_lets +onlyGivenNames _
  exact Steady.foldl (fun _ _ h2 => countEp_steady h2) (Steady.upd K)

theorem sortRuns_steady {s} (K : Steady b0 s) : Steady b0 (sortRuns s) := by
  unfold sortRuns
  extract_lets +onlyGivenNames _
  exact Steady.upd K

theorem dueRuns_steady {s} (K : Steady b0 s) : Steady b0 (dueRuns s) := by
  unfold dueRuns
  extract_lets +onlyGivenNames s1
  have hs1 : Steady b0 s1 := missOwed_steady K
  clear_value s1
  exact Steady.ite (by
      extract_lets +onlyGivenNames _ s11
      have hs11 : Steady b0 s11 := Steady.foldl (fun _ _ h4 => Steady.ite (addDue_steady h4) h4) (grant_steady hs1)
      clear_value s11
      exact dispatch_steady (sortRuns_steady (Steady.upd hs11))) hs1

theorem markDrop_steady {q s} (K : Steady b0 s) : Steady b0 (markDrop q s) := by
  unfold markDrop; exact modQueue_steady K

theorem putItem_steady {q who prio bytes kind s t} (h : Steady b0 s) (e : putItem q who prio bytes kind s = some t) : Steady b0 t := by
  unfold putItem at e; split at e
  · cases e
  · cases e; exact closeItem_steady (reserve_steady h ‹_›)

theorem queueBoryel_steady {o kind data s} (K : Steady b0 s) : Steady b0 (queueBoryel o kind data s) := by
  unfold queueBoryel
  extract_lets +onlyGivenNames _ _ _
  split
  · exact markDrop_steady K
  · exact grant_steady (putItem_steady K ‹_›)

theorem leadBoundary_steady {s0} (K : Steady b0 s0) : Steady b0 (leadBoundary s0) := by
  unfold leadBoundary
  extract_lets +onlyGivenNames s
  have hs : Steady b0 s := withdrawSync_steady K
  clear_value s
  exact Steady.ite (by
      split
      · exact hs
      · extract_lets +onlyGivenNames s1
        have hs1 : Steady b0 s1 := Steady.ite (gainLock_steady hs) hs
        clear_value s1
        extract_lets +onlyGivenNames _ _ s2
        have hs2 : Steady b0 s2 := Steady.upd hs1
        clear_value s2
        exact queueBoryel_steady (grant_steady hs2)) hs

theorem setNextBoundary_steady {b period s} (K : Steady b0 s) : Steady b0 (setNextBoundary b period s) := by
  unfold setNextBoundary
  extract_lets +onlyGivenNames slew
  exact Steady.upd K

theorem setEcr_steady {n code s} (K : Steady b0 s) : Steady b0 (setEcr n code s) := by
  unfold setEcr; exact setStatByte_steady K

theorem clearStatus_steady {n s} (K : Steady b0 s) : Steady b0 (clearStatus n s) := by
  unfold clearStatus; exact Steady.upd K

theorem setStaging_steady {n x s} (K : Steady b0 s) : Steady b0 (setStaging n x s) := by
  unfold setStaging
  extract_lets +onlyGivenNames s1
  have hs1 : Steady b0 s1 := putSlot_steady K
  clear_value s1
  exact Steady.ite (Steady.upd hs1) hs1

theorem freshSlot_steady {n atNextFill s} (K : Steady b0 s) : Steady b0 (freshSlot n atNextFill s) := by
  unfold freshSlot
  exact Steady.ite (Steady.upd K) (Steady.ite K (by
      extract_lets +onlyGivenNames s1
      have hs1 : Steady b0 s1 := setStaging_steady K
      clear_value s1
      exact Steady.upd hs1))

theorem resetCondOf_steady {n s} (K : Steady b0 s) : Steady b0 (resetCondOf n s) := by
  unfold resetCondOf; exact Steady.upd K

theorem staleWindow_steady {n s} (K : Steady b0 s) : Steady b0 (staleWindow n s) := by
  unfold staleWindow; exact Steady.upd K

theorem freshStatus_steady {n s} (K : Steady b0 s) : Steady b0 (freshStatus n s) := by
  unfold freshStatus
  extract_lets +onlyGivenNames s1
  have hs1 : Steady b0 s1 := Steady.ite (setEstat_steady (clearStatus_steady K)) (clearStatus_steady K)
  clear_value s1
  exact Steady.ite (setEstat_steady hs1) hs1

theorem freshEndpoint_steady {e s} (K : Steady b0 s) : Steady b0 (freshEndpoint e s) := by
  unfold freshEndpoint
  extract_lets +onlyGivenNames s1
  have hs1 : Steady b0 s1 := Steady.ite (freshStatus_steady K) K
  clear_value s1
  extract_lets +onlyGivenNames s2
  have hs2 : Steady b0 s2 := Steady.ite (resetCondOf_steady hs1) hs1
  clear_value s2
  exact Steady.ite (staleWindow_steady hs2) hs2

theorem freshOwnSlot_steady {e s} (K : Steady b0 s) : Steady b0 (freshOwnSlot e s) := by
  unfold freshOwnSlot; exact Steady.ite (freshSlot_steady K) K

theorem applyCommit_steady {e s0} (K : Steady b0 s0) : Steady b0 (applyCommit e s0) := by
  unfold applyCommit
  extract_lets +onlyGivenNames s01
  have hs01 : Steady b0 s01 := moveCommit_steady K
  clear_value s01
  extract_lets +onlyGivenNames _ _ s
  have hs : Steady b0 s := Steady.upd hs01
  clear_value s
  extract_lets +onlyGivenNames s1
  have hs1 : Steady b0 s1 := setEcr_steady (freshEndpoint_steady hs)
  clear_value s1
  exact Steady.ite hs1 (by
      extract_lets +onlyGivenNames s2
      have hs2 : Steady b0 s2 := validateEp_steady (purgeHeld_steady (freshOwnSlot_steady hs1))
      clear_value s2
      exact Steady.ite (dispatch_steady (sortRuns_steady (addDue_steady hs2))) hs2)

theorem dropNotRun_steady {ix s} (K : Steady b0 s) : Steady b0 (dropNotRun ix s) := by
  unfold dropNotRun
  extract_lets +onlyGivenNames late
  exact Steady.foldl (fun _ _ h0 => (missRun_steady h0)) (Steady.upd K)

theorem recEpoch_steady {mode crcv clipped skipped guard skip number crc cutoff s} (K : Steady b0 s) : Steady b0 (recEpoch mode crcv clipped skipped guard skip number crc cutoff s) := by
  unfold recEpoch; exact tapAppend_steady K

theorem buildPub_steady {ch i s} (K : Steady b0 s) : Steady b0 (buildPub ch i s) := by
  unfold buildPub
  extract_lets +onlyGivenNames _ _
  split
  · exact grants_steady (countWord_steady (putItem_steady K ‹_›))
  · exact canEvent_steady (countWord_steady (markDrop_steady K))

theorem losePub_steady {ch i off s} (K : Steady b0 s) : Steady b0 (losePub ch i off s) := by
  unfold losePub; exact canEvent_steady (countWord_steady (logFault_steady K))

theorem publishOn_steady {ch e bad s} (K : Steady b0 s) : Steady b0 (publishOn ch e bad s) := by
  unfold publishOn
  extract_lets +onlyGivenNames _
  refine Steady.ite (Steady.foldl (fun _ _ h3 => Steady.ite ?_ h3) (grants_steady K)) K
  split
  · exact losePub_steady h3
  · exact buildPub_steady h3

theorem publish_steady {e bad s} (K : Steady b0 s) : Steady b0 (publish e bad s) := by
  unfold publish; exact publishOn_steady (publishOn_steady K)

end Sys2Proof.Laws
end

