-- ==== Sys2Proof/Laws/Traced.lean ====
section
/-! SUPPORT. What writing a record to the trace, a trigger, a freeze or the end of a host write leaves alone besides what
`Records` says: the fault log, the scratch words, the operation's registers, the host's queue selection and the window. -/

namespace Sys2Proof.Laws

set_option Elab.async false

open Sys2Proof.Machine

/-- `t` has the fault log, the attention mask and scratch words, the operation registers, the selected queue, the trace settings
and the window of `u`. -/
structure Traced (u t : State) : Prop where
  fault : t.fault = u.fault
  mask : t.attn.mask = u.attn.mask
  scratch : t.attn.scratch = u.attn.scratch
  opCode : t.op.code = u.op.code
  opState : t.op.state = u.op.state
  opWhy : t.op.why = u.op.why
  opProg : t.op.prog = u.op.prog
  opNewest : t.op.newest = u.op.newest
  opRecs : t.op.recs = u.op.recs
  arg0 : t.op.arg0 = u.op.arg0
  arg1 : t.op.arg1 = u.op.arg1
  arg2 : t.op.arg2 = u.op.arg2
  arg3 : t.op.arg3 = u.op.arg3
  sel : t.pool.sel = u.pool.sel
  hpri : t.pool.hpri = u.pool.hpri
  stallTmo : t.pool.stallTmo = u.pool.stallTmo
  lost : t.pool.lost = u.pool.lost
  trig : t.tap.trig = u.tap.trig
  en : t.tap.en = u.tap.en
  winAddr : t.rein.winAddr = u.rein.winAddr
  werr : t.rein.werr = u.rein.werr
  slowPending : t.rein.slowPending = u.rein.slowPending
  miso : t.rein.miso = u.rein.miso

variable {b0 s t : State}

theorem Traced.refl : Traced s s := ⟨rfl, rfl, rfl, rfl, rfl, rfl, rfl, rfl, rfl, rfl, rfl, rfl, rfl, rfl, rfl, rfl, rfl, rfl, rfl, rfl, rfl, rfl, rfl⟩

theorem Traced.trans (h : Traced b0 s) (k : Traced s t) : Traced b0 t :=
  ⟨k.fault.trans h.fault, k.mask.trans h.mask, k.scratch.trans h.scratch, k.opCode.trans h.opCode, k.opState.trans h.opState, k.opWhy.trans h.opWhy, k.opProg.trans h.opProg, k.opNewest.trans h.opNewest, k.opRecs.trans h.opRecs, k.arg0.trans h.arg0, k.arg1.trans h.arg1, k.arg2.trans h.arg2, k.arg3.trans h.arg3, k.sel.trans h.sel, k.hpri.trans h.hpri, k.stallTmo.trans h.stallTmo, k.lost.trans h.lost, k.trig.trans h.trig, k.en.trans h.en, k.winAddr.trans h.winAddr, k.werr.trans h.werr, k.slowPending.trans h.slowPending, k.miso.trans h.miso⟩

/-- An update of other fields. -/
theorem Traced.upd (h : Traced b0 s) (e : Traced s t := by with_reducible exact ⟨rfl, rfl, rfl, rfl, rfl, rfl, rfl, rfl, rfl, rfl, rfl, rfl, rfl, rfl, rfl, rfl, rfl, rfl, rfl, rfl, rfl, rfl, rfl⟩) : Traced b0 t :=
  Traced.trans h e

theorem Traced.ite {c : Prop} [Decidable c] (hs : Traced b0 s) (ht : Traced b0 t) : Traced b0 (if c then s else t) := by
  split <;> assumption

theorem Traced.iteR {c : Prop} [Decidable c] {r q : Reply} (hr : Traced b0 r.s) (hq : Traced b0 q.s) :
    Traced b0 (if c then r else q).s := by
  split <;> assumption

theorem Traced.foldl {α : Type} {f : State → α → State} (hf : ∀ x a, Traced b0 x → Traced b0 (f x a)) {l : List α} :
    ∀ {s : State}, Traced b0 s → Traced b0 (l.foldl f s) := by
  induction l with
  | nil => exact fun h => h
  | cons a l ih => exact fun h => ih (hf _ a h)

theorem modQueue_traced {q f s} (K : Traced b0 s) : Traced b0 (modQueue q f s) := by
  unfold modQueue; exact Traced.upd K

theorem countFlushDrop_traced {s} (K : Traced b0 s) : Traced b0 (countFlushDrop s) := by
  unfold countFlushDrop; exact Traced.upd K

theorem dropForced_traced {p s} (K : Traced b0 s) : Traced b0 (dropForced p s) := by
  unfold dropForced; exact Traced.upd K

theorem grant_traced {p b s} (K : Traced b0 s) : Traced b0 (grant p b s) := by
  unfold grant; exact Traced.ite (Traced.ite (dropForced_traced K) K) (Traced.ite (Traced.upd K) K)

theorem grants_traced {l s} (K : Traced b0 s) : Traced b0 (grants l s) := by
  unfold grants; exact Traced.foldl (fun _ _ h1 => grant_traced h1) K

theorem hostDequeued_traced {q x s} (K : Traced b0 s) : Traced b0 (hostDequeued q x s) := by
  unfold hostDequeued; exact grants_traced (modQueue_traced K)

theorem serveStall_traced {s} (K : Traced b0 s) : Traced b0 (serveStall s) := by
  unfold serveStall
  split
  · split
    · exact K
    · exact grant_traced (hostDequeued_traced (Traced.upd K))
  · exact K

theorem drawn_traced {s} (K : Traced b0 s) : Traced b0 (drawn s) := by
  unfold drawn; exact Traced.upd K

theorem putCells_traced {cells i bs s} (K : Traced b0 s) : Traced b0 (putCells cells i bs s) := by
  unfold putCells; exact Traced.upd K

theorem writeOpen_traced {q who bs s} (K : Traced b0 s) : Traced b0 (writeOpen q who bs s) := by
  unfold writeOpen
  split
  · exact K
  · extract_lets +onlyGivenNames _ _
    exact grants_traced (putCells_traced (modQueue_traced K))

theorem closeItem_traced {q who bytes kind s} (K : Traced b0 s) : Traced b0 (closeItem q who bytes kind s) := by
  unfold closeItem
  extract_lets +onlyGivenNames s1
  have hs1 : Traced b0 s1 := writeOpen_traced K
  clear_value s1
  split
  · exact hs1
  · exact Traced.ite (grant_traced (countFlushDrop_traced (modQueue_traced hs1))) (by
        extract_lets +onlyGivenNames _ s11
        have hs11 : Traced b0 s11 := modQueue_traced hs1
        clear_value s11
        exact serveStall_traced (grant_traced (Traced.ite (grant_traced hs11) hs11)))

theorem abandonItem_traced {q who s} (K : Traced b0 s) : Traced b0 (abandonItem q who s) := by
  unfold abandonItem; exact grant_traced (modQueue_traced K)

theorem closeBlock_traced {s} (K : Traced b0 s) : Traced b0 (closeBlock s) := by
  unfold closeBlock; exact Traced.ite (abandonItem_traced K) (closeItem_traced K)

theorem attend_traced {n s} (K : Traced b0 s) : Traced b0 (attend n s) := by
  unfold attend
  extract_lets +onlyGivenNames s1
  have hs1 : Traced b0 s1 := Traced.ite (grant_traced (grant_traced K)) K
  clear_value s1
  exact grant_traced (Traced.upd hs1)

theorem freeze_traced {cause s} (K : Traced b0 s) : Traced b0 (freeze cause s) := by
  unfold freeze
  split
  · exact K
  · extract_lets +onlyGivenNames s1
    have hs1 : Traced b0 s1 := closeBlock_traced K
    clear_value s1
    exact attend_traced (Traced.upd hs1)

theorem tapTrigger_traced {n s} (K : Traced b0 s) : Traced b0 (tapTrigger n s) := by
  unfold tapTrigger; exact Traced.ite (Traced.ite (freeze_traced K) (Traced.upd K)) K

theorem openItem_traced {q n who prio s} (K : Traced b0 s) : Traced b0 (openItem q n who prio s) := by
  unfold openItem
  extract_lets +onlyGivenNames _
  exact modQueue_traced (Traced.upd K)

theorem tapDrawn_traced {s} (K : Traced b0 s) : Traced b0 (tapDrawn s) := by
  unfold tapDrawn; exact Traced.upd K

theorem streamOut_traced {bs s} (K : Traced b0 s) : Traced b0 (streamOut bs s) := by
  unfold streamOut; exact Traced.ite (Traced.ite (tapDrawn_traced (Traced.upd K)) (tapDrawn_traced (Traced.upd K))) K

theorem reserve_traced {q n who prio s t} (h : Traced b0 s) (e : reserve q n who prio s = some t) : Traced b0 t := by
  unfold reserve at e
  split at e
  · cases e
    exact grants_traced (openItem_traced h)
  · cases e

theorem dropOldest_traced {q rest s} (K : Traced b0 s) : Traced b0 (dropOldest q rest s) := by
  unfold dropOldest; exact grants_traced (modQueue_traced K)

theorem makeRingRoom_traced {n s} (h : Traced b0 s) : Traced b0 (makeRingRoom n s) := by
  induction n generalizing s with
  | zero => exact h
  | succ n ih =>
    unfold makeRingRoom; split
    · exact h
    · split
      · exact h
      · exact ih (Traced.upd (dropOldest_traced h))

theorem haveBlock_traced {s t} (h : Traced b0 s) (e : haveBlock s = some t) : Traced b0 t := by
  unfold haveBlock at e
  split at e
  · cases e
    exact h
  · exact reserve_traced (makeRingRoom_traced h) ‹_›

theorem putRecord_traced {type flags body s} (K : Traced b0 s) : Traced b0 (putRecord type flags body s) := by
  unfold putRecord
  extract_lets +onlyGivenNames _
  split
  · exact K
  · extract_lets +onlyGivenNames s2
    have hs2 : Traced b0 s2 := writeOpen_traced (haveBlock_traced (Traced.ite (closeBlock_traced K) K) ‹_›)
    clear_value s2
    exact streamOut_traced (Traced.upd hs2)

theorem recVerdicts_traced {es s} (K : Traced b0 s) : Traced b0 (recVerdicts es s) := by
  unfold recVerdicts
  extract_lets +onlyGivenNames _ _
  exact putRecord_traced K

theorem writeFull_traced {n s} (h : Traced b0 s) : Traced b0 (writeFull n s) := by
  induction n generalizing s with
  | zero => exact h
  | succ n ih =>
    unfold writeFull; dsimp only; split
    · exact h
    · exact ih (recVerdicts_traced (Traced.upd h))

theorem tapAppend_traced {type flags body s} (K : Traced b0 s) : Traced b0 (tapAppend type flags body s) := by
  unfold tapAppend; exact Traced.ite (putRecord_traced (writeFull_traced K)) K

theorem recFault_traced {code island detail s} (K : Traced b0 s) : Traced b0 (recFault code island detail s) := by
  unfold recFault; exact tapAppend_traced K

theorem recMode_traced {old new hw prof first s} (K : Traced b0 s) : Traced b0 (recMode old new hw prof first s) := by
  unfold recMode; exact tapAppend_traced K

theorem endRecording_traced {s} (K : Traced b0 s) : Traced b0 (endRecording s) := by
  unfold endRecording; exact Traced.ite (Traced.ite (freeze_traced K) (Traced.upd K)) K

theorem endIfDisabled_traced {s} (K : Traced b0 s) : Traced b0 (endIfDisabled s) := by
  unfold endIfDisabled; exact Traced.ite (endRecording_traced K) K

theorem recRein_traced {win result a v winAddr s} (K : Traced b0 s) : Traced b0 (recRein win result a v winAddr s) := by
  unfold recRein; exact tapAppend_traced K

theorem intoReply_traced {r} (hr : Traced b0 r.s) : Traced b0 (intoReply r) := by
  unfold intoReply; exact Traced.upd hr

theorem writeReply_traced {v r} (hr : Traced b0 r.s) : Traced b0 (writeReply v r) := by
  unfold writeReply; exact Traced.ite hr (intoReply_traced hr)

theorem goodWrite_traced {a v r} (hr : Traced b0 r.s) : Traced b0 (goodWrite a v r) := by
  unfold goodWrite; exact endIfDisabled_traced (recRein_traced (writeReply_traced hr))

theorem recTime_traced {start bound epoch afterGap number s0} (K : Traced b0 s0) : Traced b0 (recTime start bound epoch afterGap number s0) := by
  unfold recTime
  extract_lets +onlyGivenNames s
  have hs : Traced b0 s := Traced.ite (closeBlock_traced K) K
  clear_value s
  exact tapAppend_traced hs

theorem keyframeDue_traced {s} (K : Traced b0 s) : Traced b0 (keyframeDue s) := by
  unfold keyframeDue; exact Traced.upd K

theorem countKeyframe_traced {s} (K : Traced b0 s) : Traced b0 (countKeyframe s) := by
  unfold countKeyframe; exact Traced.ite (keyframeDue_traced (Traced.upd K)) (Traced.upd K)

theorem recPort_traced {port kind ep outcome lane rx t s} (K : Traced b0 s) : Traced b0 (recPort port kind ep outcome lane rx t s) := by
  unfold recPort; exact tapAppend_traced K

theorem recEpoch_traced {mode crcv clipped skipped guard skip number crc cutoff s} (K : Traced b0 s) : Traced b0 (recEpoch mode crcv clipped skipped guard skip number crc cutoff s) := by
  unfold recEpoch; exact tapAppend_traced K

theorem countPost_traced {s} (K : Traced b0 s) : Traced b0 (countPost s) := by
  unfold countPost; exact Traced.ite (Traced.ite (freeze_traced K) (Traced.upd K)) K

theorem recCommitted_traced {k crcv s} (K : Traced b0 s) : Traced b0 (recCommitted k crcv s) := by
  unfold recCommitted; exact recEpoch_traced K

theorem goodWinWrite_traced {w v r} (hr : Traced b0 r.s) : Traced b0 (goodWinWrite w v r) := by
  unfold goodWinWrite; exact endIfDisabled_traced (recRein_traced (writeReply_traced hr))

theorem recCan_traced {ch evt lec f t sof s} (K : Traced b0 s) : Traced b0 (recCan ch evt lec f t sof s) := by
  unfold recCan; exact tapAppend_traced K

theorem recSent_traced {p cls bytes t s} (K : Traced b0 s) : Traced b0 (recSent p cls bytes t s) := by
  unfold recSent; exact tapAppend_traced K

theorem recGap_traced {input block count first last s} (K : Traced b0 s) : Traced b0 (recGap input block count first last s) := by
  unfold recGap; exact tapAppend_traced K

end Sys2Proof.Laws
end

