-- ==== Sys2Proof/Laws/Unmoved.lean ====
section
/-! SUPPORT. What the end of a long operation, whatever it works on, leaves alone: the power and mode controllers, the fault log,
authentication, and the attention mask and scratch words. -/

namespace Sys2Proof.Laws

set_option Elab.async false

open Sys2Proof.Machine

/-- `t` has the power and mode controllers, the fault log, authentication, and the attention mask and scratch words of `u`. -/
structure Unmoved (u t : State) : Prop where
  power : t.power = u.power
  mode : t.mode = u.mode
  fault : t.fault = u.fault
  auth : t.auth = u.auth
  mask : t.attn.mask = u.attn.mask
  scratch : t.attn.scratch = u.attn.scratch
  pending : t.pending = u.pending

variable {b0 s t : State}

theorem Unmoved.refl : Unmoved s s := ⟨rfl, rfl, rfl, rfl, rfl, rfl, rfl⟩

theorem Unmoved.trans (h : Unmoved b0 s) (k : Unmoved s t) : Unmoved b0 t :=
  ⟨k.power.trans h.power, k.mode.trans h.mode, k.fault.trans h.fault, k.auth.trans h.auth, k.mask.trans h.mask, k.scratch.trans h.scratch, k.pending.trans h.pending⟩

/-- An update of other fields. -/
theorem Unmoved.upd (h : Unmoved b0 s) (e : Unmoved s t := by with_reducible exact ⟨rfl, rfl, rfl, rfl, rfl, rfl, rfl⟩) : Unmoved b0 t :=
  Unmoved.trans h e

theorem Unmoved.ite {c : Prop} [Decidable c] (hs : Unmoved b0 s) (ht : Unmoved b0 t) : Unmoved b0 (if c then s else t) := by
  split <;> assumption

theorem Unmoved.iteR {c : Prop} [Decidable c] {r q : Reply} (hr : Unmoved b0 r.s) (hq : Unmoved b0 q.s) :
    Unmoved b0 (if c then r else q).s := by
  split <;> assumption

theorem Unmoved.foldl {α : Type} {f : State → α → State} (hf : ∀ x a, Unmoved b0 x → Unmoved b0 (f x a)) {l : List α} :
    ∀ {s : State}, Unmoved b0 s → Unmoved b0 (l.foldl f s) := by
  induction l with
  | nil => exact fun h => h
  | cons a l ih => exact fun h => ih (hf _ a h)

theorem modQueue_unmoved {q f s} (K : Unmoved b0 s) : Unmoved b0 (modQueue q f s) := by
  unfold modQueue; exact Unmoved.upd K

theorem countFlushDrop_unmoved {s} (K : Unmoved b0 s) : Unmoved b0 (countFlushDrop s) := by
  unfold countFlushDrop; exact Unmoved.upd K

theorem dropForced_unmoved {p s} (K : Unmoved b0 s) : Unmoved b0 (dropForced p s) := by
  unfold dropForced; exact Unmoved.upd K

theorem grant_unmoved {p b s} (K : Unmoved b0 s) : Unmoved b0 (grant p b s) := by
  unfold grant; exact Unmoved.ite (Unmoved.ite (dropForced_unmoved K) K) (Unmoved.ite (Unmoved.upd K) K)

theorem grants_unmoved {l s} (K : Unmoved b0 s) : Unmoved b0 (grants l s) := by
  unfold grants; exact Unmoved.foldl (fun _ _ h1 => grant_unmoved h1) K

theorem hostDequeued_unmoved {q x s} (K : Unmoved b0 s) : Unmoved b0 (hostDequeued q x s) := by
  unfold hostDequeued; exact grants_unmoved (modQueue_unmoved K)

theorem serveStall_unmoved {s} (K : Unmoved b0 s) : Unmoved b0 (serveStall s) := by
  unfold serveStall
  split
  · split
    · exact K
    · exact grant_unmoved (hostDequeued_unmoved (Unmoved.upd K))
  · exact K

theorem drawn_unmoved {s} (K : Unmoved b0 s) : Unmoved b0 (drawn s) := by
  unfold drawn; exact Unmoved.upd K

theorem putCells_unmoved {cells i bs s} (K : Unmoved b0 s) : Unmoved b0 (putCells cells i bs s) := by
  unfold putCells; exact Unmoved.upd K

theorem writeOpen_unmoved {q who bs s} (K : Unmoved b0 s) : Unmoved b0 (writeOpen q who bs s) := by
  unfold writeOpen
  split
  · exact K
  · extract_lets +onlyGivenNames _ _
    exact grants_unmoved (putCells_unmoved (modQueue_unmoved K))

theorem closeItem_unmoved {q who bytes kind s} (K : Unmoved b0 s) : Unmoved b0 (closeItem q who bytes kind s) := by
  unfold closeItem
  extract_lets +onlyGivenNames s1
  have hs1 : Unmoved b0 s1 := writeOpen_unmoved K
  clear_value s1
  split
  · exact hs1
  · exact Unmoved.ite (grant_unmoved (countFlushDrop_unmoved (modQueue_unmoved hs1))) (by
        extract_lets +onlyGivenNames _ s11
        have hs11 : Unmoved b0 s11 := modQueue_unmoved hs1
        clear_value s11
        exact serveStall_unmoved (grant_unmoved (Unmoved.ite (grant_unmoved hs11) hs11)))

theorem abandonItem_unmoved {q who s} (K : Unmoved b0 s) : Unmoved b0 (abandonItem q who s) := by
  unfold abandonItem; exact grant_unmoved (modQueue_unmoved K)

theorem closeBlock_unmoved {s} (K : Unmoved b0 s) : Unmoved b0 (closeBlock s) := by
  unfold closeBlock; exact Unmoved.ite (abandonItem_unmoved K) (closeItem_unmoved K)

theorem attend_unmoved {n s} (K : Unmoved b0 s) : Unmoved b0 (attend n s) := by
  unfold attend
  extract_lets +onlyGivenNames s1
  have hs1 : Unmoved b0 s1 := Unmoved.ite (grant_unmoved (grant_unmoved K)) K
  clear_value s1
  exact grant_unmoved (Unmoved.upd hs1)

theorem freeze_unmoved {cause s} (K : Unmoved b0 s) : Unmoved b0 (freeze cause s) := by
  unfold freeze
  split
  · exact K
  · extract_lets +onlyGivenNames s1
    have hs1 : Unmoved b0 s1 := closeBlock_unmoved K
    clear_value s1
    exact attend_unmoved (Unmoved.upd hs1)

theorem tapTrigger_unmoved {n s} (K : Unmoved b0 s) : Unmoved b0 (tapTrigger n s) := by
  unfold tapTrigger; exact Unmoved.ite (Unmoved.ite (freeze_unmoved K) (Unmoved.upd K)) K

theorem openItem_unmoved {q n who prio s} (K : Unmoved b0 s) : Unmoved b0 (openItem q n who prio s) := by
  unfold openItem
  extract_lets +onlyGivenNames _
  exact modQueue_unmoved (Unmoved.upd K)

theorem tapDrawn_unmoved {s} (K : Unmoved b0 s) : Unmoved b0 (tapDrawn s) := by
  unfold tapDrawn; exact Unmoved.upd K

theorem streamOut_unmoved {bs s} (K : Unmoved b0 s) : Unmoved b0 (streamOut bs s) := by
  unfold streamOut; exact Unmoved.ite (Unmoved.ite (tapDrawn_unmoved (Unmoved.upd K)) (tapDrawn_unmoved (Unmoved.upd K))) K

theorem reserve_unmoved {q n who prio s t} (h : Unmoved b0 s) (e : reserve q n who prio s = some t) : Unmoved b0 t := by
  unfold reserve at e
  split at e
  · cases e
    exact grants_unmoved (openItem_unmoved h)
  · cases e

theorem dropOldest_unmoved {q rest s} (K : Unmoved b0 s) : Unmoved b0 (dropOldest q rest s) := by
  unfold dropOldest; exact grants_unmoved (modQueue_unmoved K)

theorem makeRingRoom_unmoved {n s} (h : Unmoved b0 s) : Unmoved b0 (makeRingRoom n s) := by
  induction n generalizing s with
  | zero => exact h
  | succ n ih =>
    unfold makeRingRoom; split
    · exact h
    · split
      · exact h
      · exact ih (Unmoved.upd (dropOldest_unmoved h))

theorem haveBlock_unmoved {s t} (h : Unmoved b0 s) (e : haveBlock s = some t) : Unmoved b0 t := by
  unfold haveBlock at e
  split at e
  · cases e
    exact h
  · exact reserve_unmoved (makeRingRoom_unmoved h) ‹_›

theorem putRecord_unmoved {type flags body s} (K : Unmoved b0 s) : Unmoved b0 (putRecord type flags body s) := by
  unfold putRecord
  extract_lets +onlyGivenNames _
  split
  · exact K
  · extract_lets +onlyGivenNames s2
    have hs2 : Unmoved b0 s2 := writeOpen_unmoved (haveBlock_unmoved (Unmoved.ite (closeBlock_unmoved K) K) ‹_›)
    clear_value s2
    exact streamOut_unmoved (Unmoved.upd hs2)

theorem recVerdicts_unmoved {es s} (K : Unmoved b0 s) : Unmoved b0 (recVerdicts es s) := by
  unfold recVerdicts
  extract_lets +onlyGivenNames _ _
  exact putRecord_unmoved K

theorem writeFull_unmoved {n s} (h : Unmoved b0 s) : Unmoved b0 (writeFull n s) := by
  induction n generalizing s with
  | zero => exact h
  | succ n ih =>
    unfold writeFull; dsimp only; split
    · exact h
    · exact ih (recVerdicts_unmoved (Unmoved.upd h))

theorem tapAppend_unmoved {type flags body s} (K : Unmoved b0 s) : Unmoved b0 (tapAppend type flags body s) := by
  unfold tapAppend; exact Unmoved.ite (putRecord_unmoved (writeFull_unmoved K)) K

theorem gainLock_unmoved {s} (K : Unmoved b0 s) : Unmoved b0 (gainLock s) := by
  unfold gainLock; exact Unmoved.ite K (attend_unmoved (Unmoved.upd K))

theorem loseLock_unmoved {s} (K : Unmoved b0 s) : Unmoved b0 (loseLock s) := by
  unfold loseLock; exact Unmoved.ite (attend_unmoved (Unmoved.upd K)) (Unmoved.upd K)

theorem modCan_unmoved {ch f s} (K : Unmoved b0 s) : Unmoved b0 (modCan ch f s) := by
  unfold modCan; split <;> exact Unmoved.upd K

theorem withdrawSync_unmoved {s} (K : Unmoved b0 s) : Unmoved b0 (withdrawSync s) := by
  unfold withdrawSync
  extract_lets +onlyGivenNames drop
  have hdrop {ch} {s} (hs' : Unmoved b0 s) : Unmoved b0 (drop ch s) := by
    dsimp -zeta only [drop]
    extract_lets +onlyGivenNames s1
    have hs1 : Unmoved b0 s1 := modQueue_unmoved hs'
    clear_value s1
    exact modCan_unmoved hs1
  clear_value drop
  extract_lets +onlyGivenNames s1
  have hs1 : Unmoved b0 s1 := hdrop (hdrop (Unmoved.ite (grants_unmoved K) K))
  clear_value s1
  exact Unmoved.upd hs1

theorem settleLead_unmoved {s} (K : Unmoved b0 s) : Unmoved b0 (settleLead s) := by
  unfold settleLead
  split
  · extract_lets +onlyGivenNames _ s1
    have hs1 : Unmoved b0 s1 := Unmoved.upd K
    clear_value s1
    exact Unmoved.ite (gainLock_unmoved hs1) (loseLock_unmoved hs1)
  · exact Unmoved.ite (withdrawSync_unmoved (loseLock_unmoved (Unmoved.upd K))) K

theorem startCan_unmoved {ch s} (K : Unmoved b0 s) : Unmoved b0 (startCan ch s) := by
  unfold startCan
  extract_lets +onlyGivenNames _ s1
  have hs1 : Unmoved b0 s1 := grant_unmoved K
  clear_value s1
  exact modCan_unmoved hs1

theorem canEvent_unmoved {ch n s} (K : Unmoved b0 s) : Unmoved b0 (canEvent ch n s) := by
  unfold canEvent; exact attend_unmoved (modCan_unmoved K)

theorem refuseStart_unmoved {ch why s} (K : Unmoved b0 s) : Unmoved b0 (refuseStart ch why s) := by
  unfold refuseStart; exact canEvent_unmoved (modCan_unmoved K)

theorem settleCan_unmoved {ch s} (K : Unmoved b0 s) : Unmoved b0 (settleCan ch s) := by
  unfold settleCan
  extract_lets +onlyGivenNames on s1
  have hs1 : Unmoved b0 s1 := modCan_unmoved K
  clear_value s1
  exact Unmoved.ite (Unmoved.ite (startCan_unmoved hs1) (refuseStart_unmoved hs1)) hs1

theorem settleCans_unmoved {s} (K : Unmoved b0 s) : Unmoved b0 (settleCans s) := by
  unfold settleCans; exact settleLead_unmoved (settleCan_unmoved (settleCan_unmoved K))

theorem modIPort_unmoved {p f s} (K : Unmoved b0 s) : Unmoved b0 (modIPort p f s) := by
  unfold modIPort; exact Unmoved.upd K

theorem modTPort_unmoved {p f s} (K : Unmoved b0 s) : Unmoved b0 (modTPort p f s) := by
  unfold modTPort; exact Unmoved.upd K

theorem modSPort_unmoved {p f s} (K : Unmoved b0 s) : Unmoved b0 (modSPort p f s) := by
  unfold modSPort; exact Unmoved.upd K

theorem releaseSelect_unmoved {p s} (K : Unmoved b0 s) : Unmoved b0 (releaseSelect p s) := by
  unfold releaseSelect; exact modSPort_unmoved K

theorem takeItem_unmoved {q s x t} (h : Unmoved b0 s) (e : takeItem q s = some (x, t)) : Unmoved b0 t := by
  unfold takeItem at e
  split at e
  · cases e
  · split at e
    · cases e
      exact grants_unmoved (modQueue_unmoved h)
    · cases e

theorem skipBad_unmoved {n q s} (h : Unmoved b0 s) : Unmoved b0 (skipBad n q s) := by
  induction n generalizing s with
  | zero => exact h
  | succ n ih =>
    unfold skipBad; split
    · exact h
    · split
      · exact ih (takeItem_unmoved h ‹_›)
      · exact h

theorem takeGood_unmoved {n q s x t} (h : Unmoved b0 s) (e : takeGood n q s = some (x, t)) : Unmoved b0 t := by
  unfold takeGood at e
  exact takeItem_unmoved (skipBad_unmoved h) ‹_›

theorem loadTarget_unmoved {p s} (K : Unmoved b0 s) : Unmoved b0 (loadTarget p s) := by
  unfold loadTarget
  split
  · split
    · exact K
    · extract_lets +onlyGivenNames n
      exact modSPort_unmoved (takeGood_unmoved K ‹_›)
  · exact K

theorem loadTargets_unmoved {s} (K : Unmoved b0 s) : Unmoved b0 (loadTargets s) := by
  unfold loadTargets; exact Unmoved.foldl (fun _ _ h0 => (loadTarget_unmoved h0)) K

theorem settlePorts_unmoved {old s} (hs : Unmoved b0 s) : Unmoved b0 (settlePorts old s) := by
  unfold settlePorts
  refine Unmoved.foldl (fun _ _ h0 => ?_) (loadTargets_unmoved hs)
  extract_lets +onlyGivenNames s1
  have hs1 : Unmoved b0 s1 := Unmoved.ite (modIPort_unmoved h0) h0
  clear_value s1
  extract_lets +onlyGivenNames s2
  have hs2 : Unmoved b0 s2 := Unmoved.ite (modTPort_unmoved hs1) hs1
  clear_value s2
  exact Unmoved.ite (releaseSelect_unmoved hs2) hs2

theorem setStatByte_unmoved {a v s} (K : Unmoved b0 s) : Unmoved b0 (setStatByte a v s) := by
  unfold setStatByte; exact Unmoved.upd K

theorem setEstat_unmoved {n b on s} (K : Unmoved b0 s) : Unmoved b0 (setEstat n b on s) := by
  unfold setEstat
  extract_lets +onlyGivenNames v
  exact setStatByte_unmoved K

theorem purgeHeld_unmoved {s} (K : Unmoved b0 s) : Unmoved b0 (purgeHeld s) := by
  unfold purgeHeld
  extract_lets +onlyGivenNames gone
  exact Unmoved.foldl (fun _ _ h0 => (setEstat_unmoved h0)) (Unmoved.upd K)

theorem opEnd_unmoved {st why s} (K : Unmoved b0 s) : Unmoved b0 (opEnd st why s) := by
  unfold opEnd; exact attend_unmoved (grant_unmoved (Unmoved.upd K))

theorem setLast_unmoved {n code s} (K : Unmoved b0 s) : Unmoved b0 (setLast n code s) := by
  unfold setLast; exact setStatByte_unmoved K

theorem countByte_unmoved {a s} (K : Unmoved b0 s) : Unmoved b0 (countByte a s) := by
  unfold countByte; exact setStatByte_unmoved K

theorem countEp_unmoved {n o s} (K : Unmoved b0 s) : Unmoved b0 (countEp n o s) := by
  unfold countEp; exact countByte_unmoved K

theorem orphanRun_unmoved {n started s} (K : Unmoved b0 s) : Unmoved b0 (orphanRun n started s) := by
  unfold orphanRun
  extract_lets +onlyGivenNames s1
  have hs1 : Unmoved b0 s1 := setLast_unmoved (setEstat_unmoved K)
  clear_value s1
  exact Unmoved.ite (setEstat_unmoved (countEp_unmoved hs1)) hs1

theorem modBank_unmoved {b f s} (K : Unmoved b0 s) : Unmoved b0 (modBank b f s) := by
  unfold modBank; exact Unmoved.ite (Unmoved.upd K) (Unmoved.ite (Unmoved.upd K) (Unmoved.ite (Unmoved.upd K) K))

theorem putSlot_unmoved {b n x s} (K : Unmoved b0 s) : Unmoved b0 (putSlot b n x s) := by
  unfold putSlot; exact modBank_unmoved K

theorem markMiss_unmoved {n due s} (K : Unmoved b0 s) : Unmoved b0 (markMiss n due s) := by
  unfold markMiss
  split
  · exact K
  · exact Unmoved.ite (Unmoved.ite (Unmoved.upd K) (putSlot_unmoved K)) (Unmoved.upd K)

theorem missRun_unmoved {n due code s} (K : Unmoved b0 s) : Unmoved b0 (missRun n due code s) := by
  unfold missRun
  extract_lets +onlyGivenNames s1
  have hs1 : Unmoved b0 s1 := markMiss_unmoved (setLast_unmoved (countEp_unmoved (setEstat_unmoved K)))
  clear_value s1
  exact Unmoved.ite (tapTrigger_unmoved hs1) hs1

theorem modLane_unmoved {i f s} (K : Unmoved b0 s) : Unmoved b0 (modLane i f s) := by
  unfold modLane; exact Unmoved.upd K

theorem openFrame_unmoved {p who f s} (K : Unmoved b0 s) : Unmoved b0 (openFrame p who f s) := by
  unfold openFrame; exact grants_unmoved (modSPort_unmoved K)

theorem sendFrame_unmoved {p who f out s} (K : Unmoved b0 s) : Unmoved b0 (sendFrame p who f out s) := by
  unfold sendFrame; exact modSPort_unmoved (openFrame_unmoved K)

theorem sendFill_unmoved {l s} (K : Unmoved b0 s) : Unmoved b0 (sendFill l s) := by
  unfold sendFill
  extract_lets +onlyGivenNames _ _
  exact sendFrame_unmoved K

theorem beginFill_unmoved {l waited s} (K : Unmoved b0 s) : Unmoved b0 (beginFill l waited s) := by
  unfold beginFill; exact modSPort_unmoved (sendFill_unmoved K)

theorem startFill_unmoved {s} (K : Unmoved b0 s) : Unmoved b0 (startFill s) := by
  unfold startFill
  split
  · exact Unmoved.ite (beginFill_unmoved K) K
  · exact K

theorem setStatWord_unmoved {a v s} (K : Unmoved b0 s) : Unmoved b0 (setStatWord a v s) := by
  unfold setStatWord; exact Unmoved.upd K

theorem countWord_unmoved {a s} (K : Unmoved b0 s) : Unmoved b0 (countWord a s) := by
  unfold countWord; exact setStatWord_unmoved K

theorem countFrame_unmoved {p s} (K : Unmoved b0 s) : Unmoved b0 (countFrame p s) := by
  unfold countFrame; exact countWord_unmoved K

theorem sendFlash_unmoved {op addr data reads s} (K : Unmoved b0 s) : Unmoved b0 (sendFlash op addr data reads s) := by
  unfold sendFlash
  extract_lets +onlyGivenNames _ _
  exact countFrame_unmoved (sendFrame_unmoved K)

theorem startEnable_unmoved {s} (K : Unmoved b0 s) : Unmoved b0 (startEnable s) := by
  unfold startEnable
  split
  · exact Unmoved.ite (by
        extract_lets +onlyGivenNames s1
        have hs1 : Unmoved b0 s1 := sendFlash_unmoved K
        clear_value s1
        exact Unmoved.upd hs1) K
  · exact K

theorem sendSfdp_unmoved {addr reads s} (K : Unmoved b0 s) : Unmoved b0 (sendSfdp addr reads s) := by
  unfold sendSfdp
  extract_lets +onlyGivenNames _ _
  exact sendFrame_unmoved K

theorem startSfdp_unmoved {s} (K : Unmoved b0 s) : Unmoved b0 (startSfdp s) := by
  unfold startSfdp; exact Unmoved.ite (modSPort_unmoved (sendSfdp_unmoved K)) K

theorem pumpS0_unmoved {s} (K : Unmoved b0 s) : Unmoved b0 (pumpS0 s) := by
  unfold pumpS0; exact startFill_unmoved (startEnable_unmoved (startSfdp_unmoved K))

theorem dropHold_unmoved {p s} (K : Unmoved b0 s) : Unmoved b0 (dropHold p s) := by
  unfold dropHold
  split
  · extract_lets +onlyGivenNames v
    exact setStatWord_unmoved (modIPort_unmoved K)
  · exact K

theorem sendI_unmoved {p who bs s} (K : Unmoved b0 s) : Unmoved b0 (sendI p who bs s) := by
  unfold sendI; exact grants_unmoved (modIPort_unmoved K)

theorem startPt_unmoved {p s} (K : Unmoved b0 s) : Unmoved b0 (startPt p s) := by
  unfold startPt; exact Unmoved.ite (modIPort_unmoved (dropHold_unmoved (sendI_unmoved K))) K

theorem pumpPort_unmoved {n s} (K : Unmoved b0 s) : Unmoved b0 (pumpPort n s) := by
  unfold pumpPort; exact Unmoved.ite (pumpS0_unmoved K) (Unmoved.ite (startPt_unmoved K) K)

theorem releasePorts_unmoved {i s} (K : Unmoved b0 s) : Unmoved b0 (releasePorts i s) := by
  unfold releasePorts
  extract_lets +onlyGivenNames _ s1
  have hs1 : Unmoved b0 s1 := Unmoved.foldl (fun _ _ h2 => Unmoved.ite (releaseSelect_unmoved h2) h2) K
  clear_value s1
  extract_lets +onlyGivenNames s2
  have hs2 : Unmoved b0 s2 := modLane_unmoved hs1
  clear_value s2
  exact Unmoved.foldl (fun _ _ h2 => pumpPort_unmoved h2) (grants_unmoved hs2)

theorem clearLane_unmoved {i s} (K : Unmoved b0 s) : Unmoved b0 (clearLane i s) := by
  unfold clearLane; exact grant_unmoved (modLane_unmoved K)

theorem cancelLane_unmoved {i code s} (K : Unmoved b0 s) : Unmoved b0 (cancelLane i code s) := by
  unfold cancelLane
  extract_lets +onlyGivenNames _
  exact Unmoved.ite K (by
      extract_lets +onlyGivenNames s1
      have hs1 : Unmoved b0 s1 := Unmoved.ite K (Unmoved.ite (grant_unmoved (orphanRun_unmoved K)) (missRun_unmoved K))
      clear_value s1
      split
      · exact modLane_unmoved hs1
      · exact clearLane_unmoved (releasePorts_unmoved hs1))

theorem cancelLanes_unmoved {p code s} (K : Unmoved b0 s) : Unmoved b0 (cancelLanes p code s) := by
  unfold cancelLanes; exact Unmoved.foldl (fun _ _ h0 => (Unmoved.ite (cancelLane_unmoved h0) h0)) K

theorem freeDrain_unmoved {s} (K : Unmoved b0 s) : Unmoved b0 (freeDrain s) := by
  unfold freeDrain
  extract_lets +onlyGivenNames s1
  have hs1 : Unmoved b0 s1 := modQueue_unmoved (abandonItem_unmoved K)
  clear_value s1
  exact Unmoved.upd hs1

theorem endJob_unmoved {s} (K : Unmoved b0 s) : Unmoved b0 (endJob s) := by
  unfold endJob
  extract_lets +onlyGivenNames s1
  have hs1 : Unmoved b0 s1 := grants_unmoved K
  clear_value s1
  exact Unmoved.upd hs1

theorem clearRun_unmoved {n s} (K : Unmoved b0 s) : Unmoved b0 (clearRun n s) := by
  unfold clearRun
  extract_lets +onlyGivenNames v
  exact setStatByte_unmoved K

theorem endReplay_unmoved {s} (K : Unmoved b0 s) : Unmoved b0 (endReplay s) := by
  unfold endReplay
  split
  · extract_lets +onlyGivenNames eps t s1
    have hs1 : Unmoved b0 s1 := Unmoved.foldl (fun _ _ h1 => clearRun_unmoved h1) K
    clear_value s1
    exact Unmoved.upd hs1
  · exact K

theorem modPin_unmoved {i f s} (K : Unmoved b0 s) : Unmoved b0 (modPin i f s) := by
  unfold modPin; exact Unmoved.upd K

theorem beginTransit_unmoved {i s} (K : Unmoved b0 s) : Unmoved b0 (beginTransit i s) := by
  unfold beginTransit; exact Unmoved.ite (grant_unmoved (drawn_unmoved (modPin_unmoved K))) K

theorem settlePin_unmoved {old s i} (hs : Unmoved b0 s) : Unmoved b0 (settlePin old s i) := by
  unfold settlePin
  extract_lets +onlyGivenNames s1
  have hs1 : Unmoved b0 s1 := by
    dsimp only [s1]
    split
    · exact modPin_unmoved hs
    · exact hs
  clear_value s1
  exact Unmoved.ite (beginTransit_unmoved hs1) hs1

theorem settlePins_unmoved {old s} (hs : Unmoved b0 s) : Unmoved b0 (settlePins old s) := by
  unfold settlePins; exact Unmoved.foldl (fun _ _ h1 => settlePin_unmoved h1) hs

theorem adapting_unmoved {f s} (hf : ∀ x, Unmoved b0 x → Unmoved b0 (f x)) (h : Unmoved b0 s) : Unmoved b0 (adapting f s) := by
  unfold adapting; exact settleCans_unmoved (settlePins_unmoved (settlePorts_unmoved (purgeHeld_unmoved (hf _ h))))

theorem opProgress_unmoved {n s} (K : Unmoved b0 s) : Unmoved b0 (opProgress n s) := by
  unfold opProgress; exact grant_unmoved (Unmoved.upd K)

theorem scanCopies_unmoved {s} (K : Unmoved b0 s) : Unmoved b0 (scanCopies s) := by
  unfold scanCopies
  extract_lets +onlyGivenNames _ _
  exact Unmoved.upd K

theorem tackFail_unmoved {code s} (K : Unmoved b0 s) : Unmoved b0 (tackFail code s) := by
  unfold tackFail; exact Unmoved.upd K

theorem tackWrite_unmoved {o n bs s} (K : Unmoved b0 s) : Unmoved b0 (tackWrite o n bs s) := by
  unfold tackWrite; exact Unmoved.upd K

theorem buildImage_unmoved {j s} (K : Unmoved b0 s) : Unmoved b0 (buildImage j s) := by
  unfold buildImage; exact Unmoved.ite (opEnd_unmoved (scanCopies_unmoved (tackFail_unmoved (tackWrite_unmoved (endJob_unmoved K))))) (Unmoved.upd K)

theorem moveCommit_unmoved {least s} (K : Unmoved b0 s) : Unmoved b0 (moveCommit least s) := by
  unfold moveCommit
  split
  · exact K
  · exact Unmoved.ite K (by
        extract_lets +onlyGivenNames s1
        have hs1 : Unmoved b0 s1 := drawn_unmoved (opProgress_unmoved K)
        clear_value s1
        exact Unmoved.ite (buildImage_unmoved hs1) hs1)

theorem tearJob_unmoved {s0} (K : Unmoved b0 s0) : Unmoved b0 (tearJob s0) := by
  unfold tearJob
  extract_lets +onlyGivenNames s
  have hs : Unmoved b0 s := moveCommit_unmoved K
  clear_value s
  split
  · exact hs
  · extract_lets +onlyGivenNames _ s1
    have hs1 : Unmoved b0 s1 := drawn_unmoved (endJob_unmoved hs)
    clear_value s1
    exact scanCopies_unmoved (by
        split
        · exact tackWrite_unmoved hs1
        · exact Unmoved.ite (tackWrite_unmoved hs1) (tackWrite_unmoved hs1))

theorem stopJob_unmoved {s} (K : Unmoved b0 s) : Unmoved b0 (stopJob s) := by
  unfold stopJob
  split
  · exact cancelLanes_unmoved K
  · exact freeDrain_unmoved K
  · exact Unmoved.upd K
  · exact tearJob_unmoved K
  · exact adapting_unmoved (fun _ h2 => endReplay_unmoved h2) K
  · exact K

theorem invalidateCache_unmoved {s} (K : Unmoved b0 s) : Unmoved b0 (invalidateCache s) := by
  unfold invalidateCache; exact grant_unmoved (modSPort_unmoved K)

theorem endOp_unmoved {st why s} (K : Unmoved b0 s) : Unmoved b0 (endOp st why s) := by
  unfold endOp
  extract_lets +onlyGivenNames s1
  have hs1 : Unmoved b0 s1 := opEnd_unmoved (stopJob_unmoved K)
  clear_value s1
  exact Unmoved.ite (pumpS0_unmoved (invalidateCache_unmoved hs1)) hs1

theorem stopRuns_unmoved {s} (K : Unmoved b0 s) : Unmoved b0 (stopRuns s) := by
  unfold stopRuns
  extract_lets +onlyGivenNames _ s1
  have hs1 : Unmoved b0 s1 := Unmoved.upd K
  clear_value s1
  extract_lets +onlyGivenNames s2
  have hs2 : Unmoved b0 s2 := Unmoved.foldl (fun _ _ h1 => (missRun_unmoved h1)) hs1
  clear_value s2
  extract_lets +onlyGivenNames s3
  have hs3 : Unmoved b0 s3 := Unmoved.foldl (fun _ _ h1 => (orphanRun_unmoved h1)) hs2
  clear_value s3
  exact cancelLanes_unmoved hs3

theorem abortForMode_unmoved {m s} (K : Unmoved b0 s) : Unmoved b0 (abortForMode m s) := by
  unfold abortForMode; exact Unmoved.ite (endOp_unmoved K) K

theorem opPost_unmoved {w0 w1 w2 w3 s} (K : Unmoved b0 s) : Unmoved b0 (opPost w0 w1 w2 w3 s) := by
  unfold opPost
  extract_lets +onlyGivenNames _
  exact Unmoved.ite (grant_unmoved (grant_unmoved (Unmoved.upd K))) (grant_unmoved (Unmoved.upd K))

theorem startAttempt_unmoved {i pc trig s} (K : Unmoved b0 s) : Unmoved b0 (startAttempt i pc trig s) := by
  unfold startAttempt; exact modLane_unmoved K

theorem startRun_unmoved {i r ahead s} (K : Unmoved b0 s) : Unmoved b0 (startRun i r ahead s) := by
  unfold startRun; exact setEstat_unmoved (setStatByte_unmoved (startAttempt_unmoved (modLane_unmoved K)))

theorem dispatch_unmoved {s} (K : Unmoved b0 s) : Unmoved b0 (dispatch s) := by
  unfold dispatch
  exact Unmoved.foldl (fun _ _ h1 => Unmoved.ite (by
      split
      · exact Unmoved.ite h1 (startRun_unmoved (grant_unmoved (Unmoved.upd h1)))
      · split
        · exact Unmoved.ite h1 (startRun_unmoved (grant_unmoved (Unmoved.upd h1)))
        · exact h1) h1) K

theorem countCan_unmoved {ch o s} (K : Unmoved b0 s) : Unmoved b0 (countCan ch o s) := by
  unfold countCan; exact countWord_unmoved K

theorem discardTx_unmoved {ch s} (K : Unmoved b0 s) : Unmoved b0 (discardTx ch s) := by
  unfold discardTx; exact Unmoved.ite (canEvent_unmoved (countCan_unmoved (modCan_unmoved K))) K

theorem dropRxItem_unmoved {ch s} (K : Unmoved b0 s) : Unmoved b0 (dropRxItem ch s) := by
  unfold dropRxItem
  extract_lets +onlyGivenNames s1
  have hs1 : Unmoved b0 s1 := by
    dsimp -zeta only [s1]
    split
    · split
      · exact abandonItem_unmoved K
      · exact K
    · exact K
  clear_value s1
  exact modCan_unmoved hs1

theorem stopCan_unmoved {ch s} (K : Unmoved b0 s) : Unmoved b0 (stopCan ch s) := by
  unfold stopCan
  extract_lets +onlyGivenNames s1
  have hs1 : Unmoved b0 s1 := discardTx_unmoved (dropRxItem_unmoved K)
  clear_value s1
  exact settleLead_unmoved (grants_unmoved (modCan_unmoved hs1))

theorem recPort_unmoved {port kind ep outcome lane rx t s} (K : Unmoved b0 s) : Unmoved b0 (recPort port kind ep outcome lane rx t s) := by
  unfold recPort; exact tapAppend_unmoved K

theorem freeLaneAt_unmoved {i s} (K : Unmoved b0 s) : Unmoved b0 (freeLaneAt i s) := by
  unfold freeLaneAt; exact dispatch_unmoved (clearLane_unmoved K)

theorem probeRecords_unmoved {buf high n off s} (h : Unmoved b0 s) : Unmoved b0 (probeRecords buf high n off s) := by
  induction n generalizing off s with
  | zero => exact h
  | succ n ih => unfold probeRecords; exact Unmoved.ite h (ih (opPost_unmoved h))

theorem endProbe_unmoved {i code s} (K : Unmoved b0 s) : Unmoved b0 (endProbe i code s) := by
  unfold endProbe
  extract_lets +onlyGivenNames _ s1
  have hs1 : Unmoved b0 s1 := setLast_unmoved (probeRecords_unmoved K)
  clear_value s1
  extract_lets +onlyGivenNames s2
  have hs2 : Unmoved b0 s2 := purgeHeld_unmoved (clearLane_unmoved hs1)
  clear_value s2
  exact Unmoved.ite (opEnd_unmoved hs2) (opEnd_unmoved hs2)

theorem endMissed_unmoved {i code s} (K : Unmoved b0 s) : Unmoved b0 (endMissed i code s) := by
  unfold endMissed
  extract_lets +onlyGivenNames l s1
  have hs1 : Unmoved b0 s1 := missRun_unmoved K
  clear_value s1
  extract_lets +onlyGivenNames _ s2
  have hs2 : Unmoved b0 s2 := Unmoved.ite (Unmoved.upd hs1) hs1
  clear_value s2
  exact freeLaneAt_unmoved hs2

theorem failAttempt_unmoved {i code s0} (K : Unmoved b0 s0) : Unmoved b0 (failAttempt i code s0) := by
  unfold failAttempt
  extract_lets +onlyGivenNames s
  have hs : Unmoved b0 s := releasePorts_unmoved K
  clear_value s
  exact Unmoved.ite (freeLaneAt_unmoved hs) (Unmoved.ite (endProbe_unmoved hs) (Unmoved.ite (modLane_unmoved hs) (endMissed_unmoved hs)))

theorem stickS_unmoved {p n s} (K : Unmoved b0 s) : Unmoved b0 (stickS p n s) := by
  unfold stickS; exact modSPort_unmoved K

theorem abortFrame_unmoved {p s} (K : Unmoved b0 s) : Unmoved b0 (abortFrame p s) := by
  unfold abortFrame; exact countWord_unmoved (stickS_unmoved (releaseSelect_unmoved K))

theorem stickI_unmoved {p n s} (K : Unmoved b0 s) : Unmoved b0 (stickI p n s) := by
  unfold stickI; exact modIPort_unmoved K

theorem countNack_unmoved {p s} (K : Unmoved b0 s) : Unmoved b0 (countNack p s) := by
  unfold countNack; exact countWord_unmoved K

theorem countArbLost_unmoved {p s} (K : Unmoved b0 s) : Unmoved b0 (countArbLost p s) := by
  unfold countArbLost; exact countWord_unmoved (stickI_unmoved (modIPort_unmoved K))

theorem setPtStat_unmoved {p res done hold s} (K : Unmoved b0 s) : Unmoved b0 (setPtStat p res done hold s) := by
  unfold setPtStat; exact setStatWord_unmoved K

theorem ptCut_unmoved {p res s} (K : Unmoved b0 s) : Unmoved b0 (ptCut p res s) := by
  unfold ptCut
  extract_lets +onlyGivenNames a ctl w done code rx _ s1
  have hs1 : Unmoved b0 s1 := Unmoved.ite (Unmoved.upd K) K
  clear_value s1
  exact drawn_unmoved (stickI_unmoved (setPtStat_unmoved (modIPort_unmoved hs1)))

theorem cutTarget_unmoved {p s} (K : Unmoved b0 s) : Unmoved b0 (cutTarget p s) := by
  unfold cutTarget; exact Unmoved.ite (modSPort_unmoved (abortFrame_unmoved K)) K

theorem recTorn_unmoved {i p outcome s} (K : Unmoved b0 s) : Unmoved b0 (recTorn i p outcome s) := by
  unfold recTorn
  extract_lets +onlyGivenNames s1
  have hs1 : Unmoved b0 s1 := recPort_unmoved K
  clear_value s1
  exact Unmoved.upd hs1

theorem failOnWire_unmoved {p outcome code s} (K : Unmoved b0 s) : Unmoved b0 (failOnWire p outcome code s) := by
  unfold failOnWire
  split
  · exact K
  · extract_lets +onlyGivenNames s1
    have hs1 : Unmoved b0 s1 := recTorn_unmoved K
    clear_value s1
    extract_lets +onlyGivenNames s2
    have hs2 : Unmoved b0 s2 := Unmoved.ite (abortFrame_unmoved hs1) hs1
    clear_value s2
    exact failAttempt_unmoved (modLane_unmoved hs2)

theorem endSfdp_unmoved {good s} (K : Unmoved b0 s) : Unmoved b0 (endSfdp good s) := by
  unfold endSfdp; exact pumpS0_unmoved (modSPort_unmoved K)

theorem cutWindow_unmoved {s} (K : Unmoved b0 s) : Unmoved b0 (cutWindow s) := by
  unfold cutWindow
  extract_lets +onlyGivenNames s1
  have hs1 : Unmoved b0 s1 := Unmoved.ite (modSPort_unmoved (abortFrame_unmoved K)) K
  clear_value s1
  exact Unmoved.ite (endSfdp_unmoved (abortFrame_unmoved hs1)) hs1

theorem cutFlash_unmoved {s} (K : Unmoved b0 s) : Unmoved b0 (cutFlash s) := by
  unfold cutFlash; exact Unmoved.ite (Unmoved.ite (endOp_unmoved (drawn_unmoved (abortFrame_unmoved K))) (drawn_unmoved K)) K

theorem cutS_unmoved {p code s} (K : Unmoved b0 s) : Unmoved b0 (cutS p code s) := by
  unfold cutS
  extract_lets +onlyGivenNames s1
  have hs1 : Unmoved b0 s1 := cutTarget_unmoved (failOnWire_unmoved K)
  clear_value s1
  extract_lets +onlyGivenNames s2
  have hs2 : Unmoved b0 s2 := Unmoved.ite (cutWindow_unmoved (cutFlash_unmoved hs1)) hs1
  clear_value s2
  exact Unmoved.ite (releaseSelect_unmoved hs2) hs2

theorem cutI_unmoved {p code res s} (K : Unmoved b0 s) : Unmoved b0 (cutI p code res s) := by
  unfold cutI
  extract_lets +onlyGivenNames s1
  have hs1 : Unmoved b0 s1 := failOnWire_unmoved (Unmoved.ite (ptCut_unmoved K) K)
  clear_value s1
  exact modIPort_unmoved (dropHold_unmoved hs1)

theorem stickT_unmoved {p n s} (K : Unmoved b0 s) : Unmoved b0 (stickT p n s) := by
  unfold stickT; exact modTPort_unmoved K

theorem sentSearch_unmoved {p s} (K : Unmoved b0 s) : Unmoved b0 (sentSearch p s) := by
  unfold sentSearch; exact modTPort_unmoved K

theorem sentFailWaiting_unmoved {p slow s} (K : Unmoved b0 s) : Unmoved b0 (sentFailWaiting p slow s) := by
  unfold sentFailWaiting
  exact Unmoved.foldl (fun _ _ h1 => by
      extract_lets +onlyGivenNames _
      exact Unmoved.ite (failAttempt_unmoved h1) h1) K

theorem recSent_unmoved {p cls bytes t s} (K : Unmoved b0 s) : Unmoved b0 (recSent p cls bytes t s) := by
  unfold recSent; exact tapAppend_unmoved K

theorem slowError_unmoved {p bytes s} (K : Unmoved b0 s) : Unmoved b0 (slowError p bytes s) := by
  unfold slowError
  extract_lets +onlyGivenNames s1
  have hs1 : Unmoved b0 s1 := modTPort_unmoved K
  clear_value s1
  exact sentFailWaiting_unmoved (recSent_unmoved (countWord_unmoved (stickT_unmoved hs1)))

theorem sentDiscard_unmoved {p s} (K : Unmoved b0 s) : Unmoved b0 (sentDiscard p s) := by
  unfold sentDiscard
  extract_lets +onlyGivenNames s1
  have hs1 : Unmoved b0 s1 := sentSearch_unmoved K
  clear_value s1
  exact sentFailWaiting_unmoved (Unmoved.ite hs1 (slowError_unmoved hs1))

theorem lineSilent_unmoved {p s} (K : Unmoved b0 s) : Unmoved b0 (lineSilent p s) := by
  unfold lineSilent
  extract_lets +onlyGivenNames s1
  have hs1 : Unmoved b0 s1 := countWord_unmoved (stickT_unmoved (modTPort_unmoved K))
  clear_value s1
  exact sentDiscard_unmoved (recSent_unmoved hs1)

theorem abortPort_unmoved {n s} (K : Unmoved b0 s) : Unmoved b0 (abortPort n s) := by
  unfold abortPort
  exact Unmoved.ite (by
      extract_lets +onlyGivenNames _
      exact Unmoved.ite (stopCan_unmoved K) K) (Unmoved.ite (cutS_unmoved K) (Unmoved.ite (Unmoved.ite (cutI_unmoved K) K) (Unmoved.ite (lineSilent_unmoved K) K)))

end Sys2Proof.Laws
end

