-- ==== Sys2Proof/Laws/Entry.lean ====
section
/-! SUPPORT. What entering a mode does to the mode controller and to power: the facts that a statement about a transition
cites in place of `enterMode`'s many parts. -/

namespace Sys2Proof.Laws

set_option Elab.async false

open Sys2Proof.Machine Sys2Proof.Safety

variable {b0 s t : State} {m : Mode}

/-- Everything that follows a mode entry leaves what `Steady` names as it is once the operation is aborted and CUR is set. -/
theorem enterMode_steady : Steady (setMode m (abortForMode m s)) (enterMode m s) := by
  unfold enterMode
  unfold adapting
  refine settleCans_steady (settlePins_steady (settlePorts_steady (purgeHeld_steady (lateReaction_steady ?_))))
  have h1 : Steady (setMode m (abortForMode m s)) (commitsReady (setMode m (abortForMode m s))) :=
    commitsReady_steady Steady.refl
  have h2 : Steady (setMode m (abortForMode m s)) (staleWindows (if m == .canter || m == .leadrein then
      commitsReady (setMode m (abortForMode m s)) else discardPubs (commitsReady (setMode m (abortForMode m s))))) :=
    staleWindows_steady (Steady.ite h1 (discardPubs_steady h1))
  have h3 := Steady.ite (c := (m == .leadrein) = true) (parkFailed_steady h2) h2
  have h4 := Steady.ite (c := ((s.mode.cur == .leadrein) != (m == .leadrein) || (m.polls && !s.mode.cur.polls)) = true)
    (validateAll_steady (resetCond_steady h3)) h3
  exact Steady.ite (beginStaging_steady h4) h4

theorem enterMode_cur : (enterMode m s).mode.cur = m := enterMode_steady.cur

theorem enterMode_boot : (enterMode m s).power.boot = s.power.boot := by
  rw [enterMode_steady.boot, setMode_power, (abortForMode_unmoved Unmoved.refl).power]

theorem enterMode_sleep : (enterMode m s).power.sleep = s.power.sleep := by
  rw [enterMode_steady.sleep, setMode_power, (abortForMode_unmoved Unmoved.refl).power]

theorem enterMode_bankLow : (enterMode m s).power.bankLow = s.power.bankLow := by
  rw [enterMode_steady.bankLow, setMode_power, (abortForMode_unmoved Unmoved.refl).power]

theorem enterMode_pll : (enterMode m s).power.pllLocked = s.power.pllLocked := by
  rw [enterMode_steady.pllLocked, setMode_power, (abortForMode_unmoved Unmoved.refl).power]

theorem enterMode_clockLost : (enterMode m s).power.clockLost = s.power.clockLost := by
  rw [enterMode_steady.clockLost, setMode_power, (abortForMode_unmoved Unmoved.refl).power]

/-- With no operation running nothing is aborted. -/
theorem abortForMode_idle (h : opRuns s = false) : abortForMode m s = s := by simp [abortForMode, h]

theorem hardwareEntry_hwch {c : Option Byte} : (hardwareEntry c s).mode.hwch = true := by
  unfold hardwareEntry; rw [(tapTrigger_apart OnlyRecords.refl).mode, attend_mode]

theorem hardwareEntry_code {c : Option Byte} : (hardwareEntry c s).fault.code = c.getD s.fault.code := by
  unfold hardwareEntry; rw [(tapTrigger_traced Traced.refl).fault, attend_fault]

/-! ## The end of KEYFRAME_NOW at the boundary that takes its keyframe -/

theorem endOp_keyframe {st w} (h : keyframeOp s = true) (K : OnlyRecords b0 s) : OnlyRecords b0 (endOp st w s) := by
  have hj : s.op.job = .keyframe := by simp [keyframeOp] at h; exact h.2
  simp only [endOp, stopJob, flashJob, hj]
  simpa using opEnd_apart K

theorem takeKeyframe_apart (K : OnlyRecords b0 s) : OnlyRecords b0 (takeKeyframe s) := by
  unfold takeKeyframe
  extract_lets +onlyGivenNames _ u bs e _ done _ u1
  have hd : OnlyRecords b0 done := OnlyRecords.upd K
  have h1 : OnlyRecords b0 u1 := OnlyRecords.upd hd
  clear_value done u1
  split
  · split
    · exact endOp_keyframe ‹_› h1
    · exact h1
  · extract_lets +onlyGivenNames w
    have hw : OnlyRecords b0 w := writeParts_apart hd
    clear_value w
    split
    · refine endOp_keyframe ?_ (opPost_apart hw)
      unfold opPost; split <;> simpa [keyframeOp, opRuns] using ‹keyframeOp w = true›
    · exact hw

theorem tapEpoch_apart {q n} (K : OnlyRecords b0 s) : OnlyRecords b0 (tapEpoch q n s) := by
  unfold tapEpoch
  split
  · exact OnlyRecords.ite (takeKeyframe_apart (countKeyframe_apart K)) (countKeyframe_apart K)
  · split
    · unfold startRecording
      exact takeKeyframe_apart (recTime_apart (OnlyRecords.upd K))
    · exact K

end Sys2Proof.Laws
end

