-- ==== Sys2Proof/Laws/Kept1.lean ====
section
/-! SUPPORT. What every operation of the model keeps, part 1 of 4: one lemma for each, in the order of use. -/

namespace Sys2Proof.Laws

set_option Elab.async false

open Sys2Proof.Machine Sys2Proof.Safety

variable {b0 : State}

theorem zeroBank_slots : zeroBank.slots.length = 256 := List.length_replicate

theorem lost_kept {n s} (K : Kept b0 s) : Kept b0 { s with pool := { s.pool with lost := n } } := Kept.upd K

theorem wf_loadWord {m : Mem} {a v : Nat} (h : Memory.wf cfgDflt m = true) : Memory.wf cfgDflt (loadWord m a v) = true :=
  wf_writeBytes h

theorem wf_expandSections {ss : List Section} : Memory.wf cfgDflt (expandSections ss) = true :=
  wf_foldl (fun _ _ h => wf_foldl (fun _ _ h => wf_loadWord h) h) wf_nil

theorem wf_loadWords {m : Mem} {a : Nat} {bs : List Byte} (h : Memory.wf cfgDflt m = true) :
    Memory.wf cfgDflt (loadWords m a bs) = true := wf_foldl (fun _ _ h => wf_loadWord h) h

theorem wf_commitInto {e : EpCommit} {m : Mem} (h : Memory.wf cfgDflt m = true) : Memory.wf cfgDflt (commitInto e m) = true :=
  wf_loadWords (wf_loadWords (wf_loadWords h))

theorem wf_writeCfg {m : Mem} {a v : Nat} (h : Memory.wf cfgDflt m = true) : Memory.wf cfgDflt (writeCfg m a v).1 = true :=
  wf_writeBytes h

theorem drawn_kept {s} (K : Kept b0 s) : Kept b0 (drawn s) := by
  unfold drawn; exact Kept.upd K

theorem dropForced_kept {p s} (K : Kept b0 s) : Kept b0 (dropForced p s) := by
  unfold dropForced; exact Kept.upd K

theorem grant_kept {p b s} (K : Kept b0 s) : Kept b0 (grant p b s) := by
  unfold grant; exact Kept.ite (Kept.ite (dropForced_kept K) K) (Kept.ite (Kept.upd K) K)

theorem opProgress_kept {n s} (K : Kept b0 s) : Kept b0 (opProgress n s) := by
  unfold opProgress; exact grant_kept (Kept.upd K)

theorem attend_kept {n s} (K : Kept b0 s) : Kept b0 (attend n s) := by
  unfold attend
  extract_lets +onlyGivenNames s1
  have hs1 : Kept b0 s1 := Kept.ite (grant_kept (grant_kept K)) K
  clear_value s1
  exact grant_kept (Kept.upd hs1)

theorem opEnd_kept {st why s} (K : Kept b0 s) : Kept b0 (opEnd st why s) := by
  unfold opEnd; exact attend_kept (grant_kept (Kept.upd K))

theorem scanCopies_kept {s} (K : Kept b0 s) : Kept b0 (scanCopies s) := by
  unfold scanCopies
  extract_lets +onlyGivenNames marks ones
  exact Kept.upd K

theorem tackFail_kept {code s} (K : Kept b0 s) : Kept b0 (tackFail code s) := by
  unfold tackFail; exact Kept.upd K

theorem tackWrite_kept {o n bs s} (K : Kept b0 s) : Kept b0 (tackWrite o n bs s) := by
  unfold tackWrite; exact Kept.mem K (wf_writeBytes (wf_clear K.mem_wf))

theorem grants_kept {l s} (K : Kept b0 s) : Kept b0 (grants l s) := by
  unfold grants; exact Kept.foldl (fun _ _ h1 => grant_kept h1) K

theorem endJob_kept {s} (K : Kept b0 s) : Kept b0 (endJob s) := by
  unfold endJob
  extract_lets +onlyGivenNames s1
  have hs1 : Kept b0 s1 := grants_kept K
  clear_value s1
  exact Kept.upd hs1

theorem buildImage_kept {j s} (K : Kept b0 s) : Kept b0 (buildImage j s) := by
  unfold buildImage; exact Kept.ite (opEnd_kept (scanCopies_kept (tackFail_kept (tackWrite_kept (endJob_kept K))))) (Kept.upd K)

theorem moveCommit_kept {least s} (K : Kept b0 s) : Kept b0 (moveCommit least s) := by
  unfold moveCommit
  split
  · exact K
  · exact Kept.ite K (by
        extract_lets +onlyGivenNames s1
        have hs1 : Kept b0 s1 := drawn_kept (opProgress_kept K)
        clear_value s1
        exact Kept.ite (buildImage_kept hs1) hs1)

theorem tearJob_kept {s0} (K : Kept b0 s0) : Kept b0 (tearJob s0) := by
  unfold tearJob
  extract_lets +onlyGivenNames s
  have hs : Kept b0 s := moveCommit_kept K
  clear_value s
  split
  · exact hs
  · extract_lets +onlyGivenNames _ s1
    have hs1 : Kept b0 s1 := drawn_kept (endJob_kept hs)
    clear_value s1
    exact scanCopies_kept (by
        split
        · exact tackWrite_kept hs1
        · exact Kept.ite (tackWrite_kept hs1) (tackWrite_kept hs1))

theorem keepStore_kept {s0 base} (K : Kept b0 s0) (hc : base.cfg = resetCfg) (hn : base.auth.keyWrite = none)
    (hr : base.pool.ram = []) (hs : shape base = specShape) : Kept b0 (keepStore s0 base) := by
  unfold keepStore
  extract_lets +onlyGivenNames s
  have h : Kept b0 s := tearJob_kept K
  clear_value s
  refine ⟨h.pending, h.uid, h.counter, h.slots, ?_, ?_, ?_⟩
  · have := h.mem_wf; simp only [memoriesWf, hc, hr, this]; rfl
  · have := h.inv.counts; simp only [shape, specShape, List.cons.injEq] at *; simp [hs, this]
  · intro w k e; simp [hn] at e

theorem refuseMode_kept {why s} (K : Kept b0 s) : Kept b0 (refuseMode why s) := by
  unfold refuseMode; exact Kept.upd K

theorem setStatByte_kept {a v s} (K : Kept b0 s) : Kept b0 (setStatByte a v s) := by
  unfold setStatByte; exact Kept.cfg K K.user_wf K.fallback_wf (wf_write K.status_wf)

theorem setEcr_kept {n code s} (K : Kept b0 s) : Kept b0 (setEcr n code s) := by
  unfold setEcr; exact setStatByte_kept K

theorem selectRefusal_kept {c s t} (h : Kept b0 s) (e : selectRefusal c s = some t) : Kept b0 t := by
  unfold selectRefusal at e; repeat' split at e
  all_goals cases e
  all_goals exact tackFail_kept h

theorem commitStartRefusal_kept {c s t} (h : Kept b0 s) (e : commitStartRefusal c s = some t) : Kept b0 t := by
  unfold commitStartRefusal at e
  dsimp only at e
  split at e
  · cases e
    exact tackFail_kept h
  · split at e
    · cases e
      exact tackFail_kept h
    · split at e
      · cases e
        exact tackFail_kept h
      · split at e
        · cases e
          exact Kept.ite (tackFail_kept (Kept.ite (Kept.upd h) h)) (Kept.ite (Kept.upd h) h)
        · cases e

theorem endpointRefusal_kept {c s t} (h : Kept b0 s) (e : endpointRefusal c s = some t) : Kept b0 t := by
  unfold endpointRefusal at e; dsimp only at e; split at e
  · obtain ⟨n, -, rfl⟩ := Option.map_eq_some_iff.1 e; exact setEcr_kept h
  · cases e; exact h

theorem farrierRefusal_kept {s t} (h : Kept b0 s) (e : farrierRefusal s = some t) : Kept b0 t := by
  unfold farrierRefusal at e; repeat' split at e
  all_goals cases e
  all_goals exact refuseMode_kept h

theorem eraseRefusal_kept {c s t} (h : Kept b0 s) (e : eraseRefusal c s = some t) : Kept b0 t := by
  unfold eraseRefusal at e; repeat' split at e
  all_goals cases e
  all_goals exact tackFail_kept h

theorem ownRefusal_kept {c s x t} (h : Kept b0 s) (e : ownRefusal c s = some (x, t)) : Kept b0 t := by
  unfold ownRefusal at e; dsimp only at e; repeat' split at e
  all_goals first
    | (cases e; done)
    | (cases e; exact h)
    | (obtain ⟨t', e', he⟩ := Option.map_eq_some_iff.1 e; cases he
       first
        | exact selectRefusal_kept h e' | exact commitStartRefusal_kept h e' | exact endpointRefusal_kept h e'
        | exact farrierRefusal_kept h e' | exact eraseRefusal_kept h e')

theorem firstFailure_kept {c rf s r} (h : Kept b0 s) (e : firstFailure c rf s = some r) : Kept b0 r.2 := by
  unfold firstFailure at e; dsimp only at e; repeat' split at e
  all_goals first
    | (cases e; done)
    | (cases e; exact h)
    | (cases e; exact ownRefusal_kept h ‹_›)

theorem conditionSample_kept {p s x t} (h : Kept b0 s) (e : conditionSample p s = (x, t)) : Kept b0 t := by
  have : t = (conditionSample p s).2 := (congrArg Prod.snd e).symm
  subst this; unfold conditionSample; dsimp only; split
  · exact Kept.upd h
  · exact h

theorem modSPort_kept {p f s} (K : Kept b0 s) : Kept b0 (modSPort p f s) := by
  unfold modSPort; exact Kept.lists K (by simp)

theorem stickS_kept {p n s} (K : Kept b0 s) : Kept b0 (stickS p n s) := by
  unfold stickS; exact modSPort_kept K

theorem setStatWord_kept {a v s} (K : Kept b0 s) : Kept b0 (setStatWord a v s) := by
  unfold setStatWord; exact Kept.cfg K K.user_wf K.fallback_wf (wf_writeBytes K.status_wf)

theorem safetySent_kept {p sel failed s} (K : Kept b0 s) : Kept b0 (safetySent p sel failed s) := by
  unfold safetySent
  extract_lets +onlyGivenNames st
  exact setStatWord_kept K

theorem countByte_kept {a s} (K : Kept b0 s) : Kept b0 (countByte a s) := by
  unfold countByte; exact setStatByte_kept K

theorem countSelect_kept {p sel o s} (K : Kept b0 s) : Kept b0 (countSelect p sel o s) := by
  unfold countSelect; exact countByte_kept K

theorem checkTrailer_kept {p sel len rx s x t} (h : Kept b0 s) (e : checkTrailer p sel len rx s = (x, t)) : Kept b0 t := by
  unfold checkTrailer at e
  dsimp only at e
  split at e
  · cases e; exact Kept.ite (countSelect_kept (Kept.ite (countSelect_kept (setStatWord_kept h)) (setStatWord_kept h)))
      (Kept.ite (countSelect_kept (setStatWord_kept h)) (setStatWord_kept h))
  · cases e; exact countSelect_kept h

theorem endByteFrame_kept {p sel len rx s x t} (h : Kept b0 s) (e : endByteFrame p sel len rx s = (x, t)) : Kept b0 t := by
  unfold endByteFrame at e
  split at e
  · cases e; exact Kept.ite (safetySent_kept (checkTrailer_kept h rfl)) (stickS_kept (safetySent_kept (checkTrailer_kept h rfl)))
  · cases e; exact h

theorem releaseSelect_kept {p s} (K : Kept b0 s) : Kept b0 (releaseSelect p s) := by
  unfold releaseSelect; exact modSPort_kept K

theorem countWord_kept {a s} (K : Kept b0 s) : Kept b0 (countWord a s) := by
  unfold countWord; exact setStatWord_kept K

theorem countFrame_kept {p s} (K : Kept b0 s) : Kept b0 (countFrame p s) := by
  unfold countFrame; exact countWord_kept K

theorem holdSelect_kept {p sel cont len s} (K : Kept b0 s) : Kept b0 (holdSelect p sel cont len s) := by
  unfold holdSelect; exact modSPort_kept K

theorem abortFrame_kept {p s} (K : Kept b0 s) : Kept b0 (abortFrame p s) := by
  unfold abortFrame; exact countWord_kept (stickS_kept (releaseSelect_kept K))

theorem sEnd_kept {p sel st out rx s x t} (h : Kept b0 s) (e : sEnd p sel st out rx s = (x, t)) : Kept b0 t := by
  unfold sEnd at e
  split at e <;> cases e
  · refine holdSelect_kept ?_
    split
    · exact endByteFrame_kept (countFrame_kept h) rfl
    · exact countFrame_kept h
  · exact abortFrame_kept h
  all_goals exact releaseSelect_kept h

theorem modQueue_kept {q f s} (K : Kept b0 s) : Kept b0 (modQueue q f s) := by
  unfold modQueue; exact Kept.lists K (by simp)

theorem takeBlock_kept {n s x y t} (h : Kept b0 s) (e : takeBlock n s = some (x, y, t)) : Kept b0 t := by
  induction n generalizing s with
  | zero => cases e
  | succ n ih =>
    unfold takeBlock at e; split at e
    · cases e
    · dsimp only at e; split at e
      · exact ih (modQueue_kept (grants_kept (modQueue_kept h))) e
      · cases e; exact grants_kept (modQueue_kept h)

theorem gather_kept {n need cur blocks s x y t} (h : Kept b0 s) (e : gather n need cur blocks s = (x, y, t)) : Kept b0 t := by
  induction n generalizing cur blocks s with
  | zero => cases e; exact h
  | succ n ih =>
    unfold gather at e; split at e
    · cases e; exact h
    · split at e
      · cases e; exact h
      · exact ih (takeBlock_kept h ‹_›) e

theorem opPost_kept {w0 w1 w2 w3 s} (K : Kept b0 s) : Kept b0 (opPost w0 w1 w2 w3 s) := by
  unfold opPost
  extract_lets +onlyGivenNames _
  exact Kept.ite (grant_kept (grant_kept (Kept.upd K))) (grant_kept (Kept.upd K))

theorem postFlushes_kept {qs ended s x y t} (h : Kept b0 s) (e : postFlushes qs ended s = (x, y, t)) : Kept b0 t := by
  induction qs generalizing ended s with
  | nil => cases e; exact h
  | cons q qs ih =>
    unfold postFlushes at e; split at e
    · cases e; exact h
    · exact ih (opPost_kept h) e

theorem tapDrawn_kept {s} (K : Kept b0 s) : Kept b0 (tapDrawn s) := by
  unfold tapDrawn; exact Kept.upd K

theorem streamOut_kept {bs s} (K : Kept b0 s) : Kept b0 (streamOut bs s) := by
  unfold streamOut; exact Kept.ite (Kept.ite (tapDrawn_kept (Kept.upd K)) (tapDrawn_kept (Kept.upd K))) K

theorem dropOldest_kept {q rest s} (K : Kept b0 s) : Kept b0 (dropOldest q rest s) := by
  unfold dropOldest; exact grants_kept (modQueue_kept K)

theorem makeRingRoom_kept {n s} (h : Kept b0 s) : Kept b0 (makeRingRoom n s) := by
  induction n generalizing s with
  | zero => exact h
  | succ n ih =>
    unfold makeRingRoom; split
    · exact h
    · split
      · exact h
      · exact ih (Kept.upd (dropOldest_kept h))

theorem openItem_kept {q n who prio s} (K : Kept b0 s) : Kept b0 (openItem q n who prio s) := by
  unfold openItem
  extract_lets +onlyGivenNames _
  exact modQueue_kept (Kept.upd K)

theorem reserve_kept {q n who prio s t} (h : Kept b0 s) (e : reserve q n who prio s = some t) : Kept b0 t := by
  unfold reserve at e
  split at e
  · cases e
    exact grants_kept (openItem_kept h)
  · cases e

theorem haveBlock_kept {s t} (h : Kept b0 s) (e : haveBlock s = some t) : Kept b0 t := by
  unfold haveBlock at e
  split at e
  · cases e
    exact h
  · exact reserve_kept (makeRingRoom_kept h) ‹_›

theorem hostDequeued_kept {q x s} (K : Kept b0 s) : Kept b0 (hostDequeued q x s) := by
  unfold hostDequeued; exact grants_kept (modQueue_kept K)

theorem serveStall_kept {s} (K : Kept b0 s) : Kept b0 (serveStall s) := by
  unfold serveStall
  split
  · split
    · exact K
    · exact grant_kept (hostDequeued_kept (Kept.upd K))
  · exact K

theorem countFlushDrop_kept {s} (K : Kept b0 s) : Kept b0 (countFlushDrop s) := by
  unfold countFlushDrop; exact Kept.upd K

theorem wf_writeCells {d : Nat → Byte} {cells : List Nat} {bs : List Byte} : ∀ {i : Nat} {m : Mem}, Memory.wf d m = true →
    Memory.wf d (writeCells d cells i bs m) = true := by
  induction bs with
  | nil => exact fun h => h
  | cons b bs ih => exact fun h => ih (wf_write h)

theorem putCells_kept {cells i bs s} (K : Kept b0 s) : Kept b0 (putCells cells i bs s) := by
  unfold putCells; exact Kept.ram K (wf_writeCells K.ram_wf)

theorem writeOpen_kept {q who bs s} (K : Kept b0 s) : Kept b0 (writeOpen q who bs s) := by
  unfold writeOpen
  split
  · exact K
  · extract_lets +onlyGivenNames _ _
    exact grants_kept (putCells_kept (modQueue_kept K))

theorem closeItem_kept {q who bytes kind s} (K : Kept b0 s) : Kept b0 (closeItem q who bytes kind s) := by
  unfold closeItem
  extract_lets +onlyGivenNames s1
  have hs1 : Kept b0 s1 := writeOpen_kept K
  clear_value s1
  split
  · exact hs1
  · exact Kept.ite (grant_kept (countFlushDrop_kept (modQueue_kept hs1))) (by
        extract_lets +onlyGivenNames _ s11
        have hs11 : Kept b0 s11 := modQueue_kept hs1
        clear_value s11
        exact serveStall_kept (grant_kept (Kept.ite (grant_kept hs11) hs11)))

theorem abandonItem_kept {q who s} (K : Kept b0 s) : Kept b0 (abandonItem q who s) := by
  unfold abandonItem; exact grant_kept (modQueue_kept K)

theorem closeBlock_kept {s} (K : Kept b0 s) : Kept b0 (closeBlock s) := by
  unfold closeBlock; exact Kept.ite (abandonItem_kept K) (closeItem_kept K)

theorem putRecord_kept {type flags body s} (K : Kept b0 s) : Kept b0 (putRecord type flags body s) := by
  unfold putRecord
  extract_lets +onlyGivenNames _
  split
  · exact K
  · extract_lets +onlyGivenNames s2
    have hs2 : Kept b0 s2 := writeOpen_kept (haveBlock_kept (Kept.ite (closeBlock_kept K) K) ‹_›)
    clear_value s2
    exact streamOut_kept (Kept.upd hs2)

theorem recVerdicts_kept {es s} (K : Kept b0 s) : Kept b0 (recVerdicts es s) := by
  unfold recVerdicts
  extract_lets +onlyGivenNames _ _
  exact putRecord_kept K

theorem writeFull_kept {n s} (h : Kept b0 s) : Kept b0 (writeFull n s) := by
  induction n generalizing s with
  | zero => exact h
  | succ n ih =>
    unfold writeFull; dsimp only; split
    · exact h
    · exact ih (recVerdicts_kept (Kept.upd h))

theorem tapAppend_kept {type flags body s} (K : Kept b0 s) : Kept b0 (tapAppend type flags body s) := by
  unfold tapAppend; exact Kept.ite (putRecord_kept (writeFull_kept K)) K

theorem recFault_kept {code island detail s} (K : Kept b0 s) : Kept b0 (recFault code island detail s) := by
  unfold recFault; exact tapAppend_kept K

theorem freeze_kept {cause s} (K : Kept b0 s) : Kept b0 (freeze cause s) := by
  unfold freeze
  split
  · exact K
  · extract_lets +onlyGivenNames s1
    have hs1 : Kept b0 s1 := closeBlock_kept K
    clear_value s1
    exact attend_kept (Kept.upd hs1)

theorem tapTrigger_kept {n s} (K : Kept b0 s) : Kept b0 (tapTrigger n s) := by
  unfold tapTrigger; exact Kept.ite (Kept.ite (freeze_kept K) (Kept.upd K)) K

theorem logFault_kept {code cls island detail s0} (K : Kept b0 s0) : Kept b0 (logFault code cls island detail s0) := by
  unfold logFault
  exact tapTrigger_kept (recFault_kept (attend_kept (grant_kept (grant_kept (Kept.lists K (by simp))))))

theorem tackWordAt_kept {o s x' t'} (K : Kept b0 s) (e : tackWordAt o s = (x', t')) : Kept b0 t' := by
  unfold tackWordAt at e
  split at e
  · cases e
    exact drawn_kept K
  · cases e
    exact K

theorem tackRead_kept {o ecc s x t} (h : Kept b0 s) (e : tackRead o ecc s = (x, t)) : Kept b0 t := by
  have hw : Kept b0 (tackWordAt o s).2 := tackWordAt_kept h rfl
  unfold tackRead at e; split at e
  · rw [e] at hw; exact hw
  · generalize tackWordAt o s = r at e hw; cases e; exact Kept.upd hw
  · cases e; exact drawn_kept (logFault_kept (Kept.upd h))

theorem readCached_kept {a s x t} (h : Kept b0 s) (e : readCached a s = some (x, t)) : Kept b0 t := by
  unfold readCached at e
  split at e
  · cases e
  · cases e
    exact grants_kept (modSPort_kept h)

theorem modCan_kept {ch f s} (K : Kept b0 s) : Kept b0 (modCan ch f s) := by
  unfold modCan; split <;> exact Kept.upd K

theorem takeShadow_kept {ch q s x t} (h : Kept b0 s) (e : takeShadow ch q s = some (x, t)) : Kept b0 t := by
  unfold takeShadow at e
  split at e
  · cases e
  · cases e
    exact grant_kept (modCan_kept h)

theorem takeItem_kept {q s x t} (h : Kept b0 s) (e : takeItem q s = some (x, t)) : Kept b0 t := by
  unfold takeItem at e
  split at e
  · cases e
  · split at e
    · cases e
      exact grants_kept (modQueue_kept h)
    · cases e

theorem skipBad_kept {n q s} (h : Kept b0 s) : Kept b0 (skipBad n q s) := by
  induction n generalizing s with
  | zero => exact h
  | succ n ih =>
    unfold skipBad; split
    · exact h
    · split
      · exact ih (takeItem_kept h ‹_›)
      · exact h

theorem takeGood_kept {n q s x t} (h : Kept b0 s) (e : takeGood n q s = some (x, t)) : Kept b0 t := by
  unfold takeGood at e
  exact takeItem_kept (skipBad_kept h) ‹_›

theorem putItem_kept {q who prio bytes kind s t} (h : Kept b0 s) (e : putItem q who prio bytes kind s = some t) : Kept b0 t := by
  unfold putItem at e; split at e
  · cases e
  · cases e; exact closeItem_kept (reserve_kept h ‹_›)

theorem resetState_kept {s} (K : Kept b0 s) : Kept b0 (keepStore s State.reset) := by
  refine keepStore_kept K rfl rfl rfl ?_
  simp only [shape, specShape, State.reset, resetSnap, zeroBank_slots, resetPoll, resetPool, resetPins, List.length_map,
    List.length_range, List.length_replicate]
  rfl

theorem effPowerOnReset_kept {s} (K : Kept b0 s) : Kept b0 (effPowerOnReset s) := by
  unfold effPowerOnReset; exact resetState_kept K

theorem withCause_kept {cause s base} (K : Kept b0 s) (hbase : Kept b0 base) : Kept b0 (withCause cause s base) := by
  unfold withCause; exact Kept.upd hbase

theorem effBrownOutReset_kept {core s} (K : Kept b0 s) : Kept b0 (effBrownOutReset core s) := by
  unfold effBrownOutReset; exact withCause_kept K (resetState_kept K)

theorem keepRing_kept {s base} (K : Kept b0 s) (hbase : Kept b0 base) : Kept b0 (keepRing s base) := by
  unfold keepRing; exact Kept.ite (Kept.upd hbase) hbase

theorem warmReset_kept {cause s} (K : Kept b0 s) : Kept b0 (warmReset cause s) := by
  unfold warmReset
  have hb : Kept b0 (withCause cause s (keepStore s State.reset)) := withCause_kept K (resetState_kept K)
  generalize withCause cause s (keepStore s State.reset) = b at hb
  refine keepRing_kept K (Kept.ram (s := { b with fault := keepLog s.fault }) (Kept.lists hb ?_) K.ram_wf)
  have h1 := K.inv.counts; have h2 := hb.inv.counts
  simp only [shape, specShape, List.cons.injEq] at h1 h2
  simp [keepLog, h1, h2]

theorem effResetPin_kept {s} (K : Kept b0 s) : Kept b0 (effResetPin s) := by
  unfold effResetPin; exact warmReset_kept K

theorem effResetRelease_kept {psel s} (K : Kept b0 s) : Kept b0 (effResetRelease psel s) := by
  unfold effResetRelease; exact Kept.ite (Kept.upd K) K

theorem effStartChecksDone_kept {failed s} (K : Kept b0 s) : Kept b0 (effStartChecksDone failed s) := by
  unfold effStartChecksDone
  split
  · split
    · exact Kept.upd K
    · exact logFault_kept (Kept.upd K)
  · exact K

theorem gainLock_kept {s} (K : Kept b0 s) : Kept b0 (gainLock s) := by
  unfold gainLock; exact Kept.ite K (attend_kept (Kept.upd K))

theorem loseLock_kept {s} (K : Kept b0 s) : Kept b0 (loseLock s) := by
  unfold loseLock; exact Kept.ite (attend_kept (Kept.upd K)) (Kept.upd K)

theorem withdrawSync_kept {s} (K : Kept b0 s) : Kept b0 (withdrawSync s) := by
  unfold withdrawSync
  extract_lets +onlyGivenNames drop
  have hdrop {ch} {s} (hs' : Kept b0 s) : Kept b0 (drop ch s) := by
    dsimp -zeta only [drop]
    extract_lets +onlyGivenNames s1
    have hs1 : Kept b0 s1 := modQueue_kept hs'
    clear_value s1
    exact modCan_kept hs1
  clear_value drop
  extract_lets +onlyGivenNames s1
  have hs1 : Kept b0 s1 := hdrop (hdrop (Kept.ite (grants_kept K) K))
  clear_value s1
  exact Kept.upd hs1

theorem settleLead_kept {s} (K : Kept b0 s) : Kept b0 (settleLead s) := by
  unfold settleLead
  split
  · extract_lets +onlyGivenNames _ s1
    have hs1 : Kept b0 s1 := Kept.upd K
    clear_value s1
    exact Kept.ite (gainLock_kept hs1) (loseLock_kept hs1)
  · exact Kept.ite (withdrawSync_kept (loseLock_kept (Kept.upd K))) K

theorem startCan_kept {ch s} (K : Kept b0 s) : Kept b0 (startCan ch s) := by
  unfold startCan
  extract_lets +onlyGivenNames _ s1
  have hs1 : Kept b0 s1 := grant_kept K
  clear_value s1
  exact modCan_kept hs1

theorem canEvent_kept {ch n s} (K : Kept b0 s) : Kept b0 (canEvent ch n s) := by
  unfold canEvent; exact attend_kept (modCan_kept K)

theorem refuseStart_kept {ch why s} (K : Kept b0 s) : Kept b0 (refuseStart ch why s) := by
  unfold refuseStart; exact canEvent_kept (modCan_kept K)

theorem settleCan_kept {ch s} (K : Kept b0 s) : Kept b0 (settleCan ch s) := by
  unfold settleCan
  extract_lets +onlyGivenNames on s1
  have hs1 : Kept b0 s1 := modCan_kept K
  clear_value s1
  exact Kept.ite (Kept.ite (startCan_kept hs1) (refuseStart_kept hs1)) hs1

theorem settleCans_kept {s} (K : Kept b0 s) : Kept b0 (settleCans s) := by
  unfold settleCans; exact settleLead_kept (settleCan_kept (settleCan_kept K))

theorem modIPort_kept {p f s} (K : Kept b0 s) : Kept b0 (modIPort p f s) := by
  unfold modIPort; exact Kept.lists K (by simp)

theorem modTPort_kept {p f s} (K : Kept b0 s) : Kept b0 (modTPort p f s) := by
  unfold modTPort; exact Kept.lists K (by simp)

theorem loadTarget_kept {p s} (K : Kept b0 s) : Kept b0 (loadTarget p s) := by
  unfold loadTarget
  split
  · split
    · exact K
    · extract_lets +onlyGivenNames n
      exact modSPort_kept (takeGood_kept K ‹_›)
  · exact K

theorem loadTargets_kept {s} (K : Kept b0 s) : Kept b0 (loadTargets s) := by
  unfold loadTargets; exact Kept.foldl (fun _ _ h0 => (loadTarget_kept h0)) K

theorem settlePorts_kept {old s} (K : Kept b0 old) (hs : Kept b0 s) : Kept b0 (settlePorts old s) := by
  unfold settlePorts
  refine Kept.foldl (fun _ _ h0 => ?_) (loadTargets_kept hs)
  extract_lets +onlyGivenNames s1
  have hs1 : Kept b0 s1 := Kept.ite (modIPort_kept h0) h0
  clear_value s1
  extract_lets +onlyGivenNames s2
  have hs2 : Kept b0 s2 := Kept.ite (modTPort_kept hs1) hs1
  clear_value s2
  exact Kept.ite (releaseSelect_kept hs2) hs2

theorem setEstat_kept {n b on s} (K : Kept b0 s) : Kept b0 (setEstat n b on s) := by
  unfold setEstat
  extract_lets +onlyGivenNames v
  exact setStatByte_kept K

theorem purgeHeld_kept {s} (K : Kept b0 s) : Kept b0 (purgeHeld s) := by
  unfold purgeHeld
  extract_lets +onlyGivenNames gone
  exact Kept.foldl (fun _ _ h0 => (setEstat_kept h0)) (Kept.upd K)

theorem modPin_kept {i f s} (K : Kept b0 s) : Kept b0 (modPin i f s) := by
  unfold modPin; exact Kept.lists K (by simp)

theorem beginTransit_kept {i s} (K : Kept b0 s) : Kept b0 (beginTransit i s) := by
  unfold beginTransit; exact Kept.ite (grant_kept (drawn_kept (modPin_kept K))) K

theorem settlePin_kept {old s i} (K : Kept b0 old) (hs : Kept b0 s) : Kept b0 (settlePin old s i) := by
  unfold settlePin
  extract_lets +onlyGivenNames s1
  have hs1 : Kept b0 s1 := by
    dsimp only [s1]
    split
    · exact modPin_kept hs
    · exact hs
  clear_value s1
  exact Kept.ite (beginTransit_kept hs1) hs1

theorem settlePins_kept {old s} (K : Kept b0 old) (hs : Kept b0 s) : Kept b0 (settlePins old s) := by
  unfold settlePins; exact Kept.foldl (fun _ _ h1 => settlePin_kept K h1) hs

theorem adapting_kept {f s} (hf : ∀ x, Kept b0 x → Kept b0 (f x)) (h : Kept b0 s) : Kept b0 (adapting f s) := by
  unfold adapting; exact settleCans_kept (settlePins_kept h (settlePorts_kept h (purgeHeld_kept (hf _ h))))

theorem setLast_kept {n code s} (K : Kept b0 s) : Kept b0 (setLast n code s) := by
  unfold setLast; exact setStatByte_kept K

theorem countEp_kept {n o s} (K : Kept b0 s) : Kept b0 (countEp n o s) := by
  unfold countEp; exact countByte_kept K

theorem orphanRun_kept {n started s} (K : Kept b0 s) : Kept b0 (orphanRun n started s) := by
  unfold orphanRun
  extract_lets +onlyGivenNames s1
  have hs1 : Kept b0 s1 := setLast_kept (setEstat_kept K)
  clear_value s1
  exact Kept.ite (setEstat_kept (countEp_kept hs1)) hs1

theorem modBank_kept {b f s} (K : Kept b0 s)
    (hf : ∀ x : Bank, x.slots.length = 256 → (f x).slots.length = 256 := by intro _ hx; simp +zetaDelta [hx]) :
    Kept b0 (modBank b f s) := by
  have hc := K.inv.counts
  simp only [shape, specShape, List.cons.injEq] at hc
  unfold modBank; repeat' split
  all_goals first | exact K | exact Kept.lists K (by simp [hf, hc])

theorem putSlot_kept {b n x s} (K : Kept b0 s) : Kept b0 (putSlot b n x s) := by
  unfold putSlot; exact modBank_kept K

theorem markMiss_kept {n due s} (K : Kept b0 s) : Kept b0 (markMiss n due s) := by
  unfold markMiss
  split
  · exact K
  · exact Kept.ite (Kept.ite (Kept.upd K) (putSlot_kept K)) (Kept.upd K)

theorem missRun_kept {n due code s} (K : Kept b0 s) : Kept b0 (missRun n due code s) := by
  unfold missRun
  extract_lets +onlyGivenNames s1
  have hs1 : Kept b0 s1 := markMiss_kept (setLast_kept (countEp_kept (setEstat_kept K)))
  clear_value s1
  exact Kept.ite (tapTrigger_kept hs1) hs1

theorem modLane_kept {i f s} (K : Kept b0 s) : Kept b0 (modLane i f s) := by
  unfold modLane; exact Kept.lists K (by simp)

theorem openFrame_kept {p who f s} (K : Kept b0 s) : Kept b0 (openFrame p who f s) := by
  unfold openFrame; exact grants_kept (modSPort_kept K)

theorem sendFrame_kept {p who f out s} (K : Kept b0 s) : Kept b0 (sendFrame p who f out s) := by
  unfold sendFrame; exact modSPort_kept (openFrame_kept K)

theorem sendFill_kept {l s} (K : Kept b0 s) : Kept b0 (sendFill l s) := by
  unfold sendFill
  extract_lets +onlyGivenNames _ _
  exact sendFrame_kept K

theorem beginFill_kept {l waited s} (K : Kept b0 s) : Kept b0 (beginFill l waited s) := by
  unfold beginFill; exact modSPort_kept (sendFill_kept K)

theorem startFill_kept {s} (K : Kept b0 s) : Kept b0 (startFill s) := by
  unfold startFill
  split
  · exact Kept.ite (beginFill_kept K) K
  · exact K

theorem sendFlash_kept {op addr data reads s} (K : Kept b0 s) : Kept b0 (sendFlash op addr data reads s) := by
  unfold sendFlash
  extract_lets +onlyGivenNames _ _
  exact countFrame_kept (sendFrame_kept K)

theorem startEnable_kept {s} (K : Kept b0 s) : Kept b0 (startEnable s) := by
  unfold startEnable
  split
  · exact Kept.ite (by
        extract_lets +onlyGivenNames s1
        have hs1 : Kept b0 s1 := sendFlash_kept K
        clear_value s1
        exact Kept.upd hs1) K
  · exact K

theorem sendSfdp_kept {addr reads s} (K : Kept b0 s) : Kept b0 (sendSfdp addr reads s) := by
  unfold sendSfdp
  extract_lets +onlyGivenNames _ _
  exact sendFrame_kept K

theorem startSfdp_kept {s} (K : Kept b0 s) : Kept b0 (startSfdp s) := by
  unfold startSfdp; exact Kept.ite (modSPort_kept (sendSfdp_kept K)) K

theorem pumpS0_kept {s} (K : Kept b0 s) : Kept b0 (pumpS0 s) := by
  unfold pumpS0; exact startFill_kept (startEnable_kept (startSfdp_kept K))

theorem dropHold_kept {p s} (K : Kept b0 s) : Kept b0 (dropHold p s) := by
  unfold dropHold
  split
  · extract_lets +onlyGivenNames v
    exact setStatWord_kept (modIPort_kept K)
  · exact K

theorem sendI_kept {p who bs s} (K : Kept b0 s) : Kept b0 (sendI p who bs s) := by
  unfold sendI; exact grants_kept (modIPort_kept K)

theorem startPt_kept {p s} (K : Kept b0 s) : Kept b0 (startPt p s) := by
  unfold startPt; exact Kept.ite (modIPort_kept (dropHold_kept (sendI_kept K))) K

theorem pumpPort_kept {n s} (K : Kept b0 s) : Kept b0 (pumpPort n s) := by
  unfold pumpPort; exact Kept.ite (pumpS0_kept K) (Kept.ite (startPt_kept K) K)

theorem releasePorts_kept {i s} (K : Kept b0 s) : Kept b0 (releasePorts i s) := by
  unfold releasePorts
  extract_lets +onlyGivenNames _ s1
  have hs1 : Kept b0 s1 := Kept.foldl (fun _ _ h2 => Kept.ite (releaseSelect_kept h2) h2) K
  clear_value s1
  extract_lets +onlyGivenNames s2
  have hs2 : Kept b0 s2 := modLane_kept hs1
  clear_value s2
  exact Kept.foldl (fun _ _ h2 => pumpPort_kept h2) (grants_kept hs2)

theorem clearLane_kept {i s} (K : Kept b0 s) : Kept b0 (clearLane i s) := by
  unfold clearLane; exact grant_kept (modLane_kept K)

theorem cancelLane_kept {i code s} (K : Kept b0 s) : Kept b0 (cancelLane i code s) := by
  unfold cancelLane
  extract_lets +onlyGivenNames _
  exact Kept.ite K (by
      extract_lets +onlyGivenNames s1
      have hs1 : Kept b0 s1 := Kept.ite K (Kept.ite (grant_kept (orphanRun_kept K)) (missRun_kept K))
      clear_value s1
      split
      · exact modLane_kept hs1
      · exact clearLane_kept (releasePorts_kept hs1))

theorem cancelLanes_kept {p code s} (K : Kept b0 s) : Kept b0 (cancelLanes p code s) := by
  unfold cancelLanes; exact Kept.foldl (fun _ _ h0 => (Kept.ite (cancelLane_kept h0) h0)) K

theorem freeDrain_kept {s} (K : Kept b0 s) : Kept b0 (freeDrain s) := by
  unfold freeDrain
  extract_lets +onlyGivenNames s1
  have hs1 : Kept b0 s1 := modQueue_kept (abandonItem_kept K)
  clear_value s1
  exact Kept.upd hs1

theorem clearRun_kept {n s} (K : Kept b0 s) : Kept b0 (clearRun n s) := by
  unfold clearRun
  extract_lets +onlyGivenNames v
  exact setStatByte_kept K

theorem endReplay_kept {s} (K : Kept b0 s) : Kept b0 (endReplay s) := by
  unfold endReplay
  split
  · extract_lets +onlyGivenNames eps t s1
    have hs1 : Kept b0 s1 := Kept.foldl (fun _ _ h1 => clearRun_kept h1) K
    clear_value s1
    exact Kept.lists hs1 (by simp)
  · exact K

theorem stopJob_kept {s} (K : Kept b0 s) : Kept b0 (stopJob s) := by
  unfold stopJob
  split
  · exact cancelLanes_kept K
  · exact freeDrain_kept K
  · exact Kept.lists K (by simp)
  · exact tearJob_kept K
  · exact adapting_kept (fun _ h2 => endReplay_kept h2) K
  · exact K

theorem invalidateCache_kept {s} (K : Kept b0 s) : Kept b0 (invalidateCache s) := by
  unfold invalidateCache; exact grant_kept (modSPort_kept K)

theorem endOp_kept {st why s} (K : Kept b0 s) : Kept b0 (endOp st why s) := by
  unfold endOp
  extract_lets +onlyGivenNames s1
  have hs1 : Kept b0 s1 := opEnd_kept (stopJob_kept K)
  clear_value s1
  exact Kept.ite (pumpS0_kept (invalidateCache_kept hs1)) hs1

theorem setDropped_kept {u s} (K : Kept b0 s) : Kept b0 (setDropped u s) := by
  unfold setDropped; exact Kept.ite (Kept.upd K) (Kept.ite (Kept.upd K) (Kept.upd K))

theorem stopRuns_kept {s} (K : Kept b0 s) : Kept b0 (stopRuns s) := by
  unfold stopRuns
  extract_lets +onlyGivenNames _ s1
  have hs1 : Kept b0 s1 := Kept.upd K
  clear_value s1
  extract_lets +onlyGivenNames s2
  have hs2 : Kept b0 s2 := Kept.foldl (fun _ _ h1 => (missRun_kept h1)) hs1
  clear_value s2
  extract_lets +onlyGivenNames s3
  have hs3 : Kept b0 s3 := Kept.foldl (fun _ _ h1 => (orphanRun_kept h1)) hs2
  clear_value s3
  exact cancelLanes_kept hs3

theorem stopTime_kept {s} (K : Kept b0 s) : Kept b0 (stopTime s) := by
  unfold stopTime
  extract_lets +onlyGivenNames s1
  have hs1 : Kept b0 s1 := loseLock_kept (stopRuns_kept K)
  clear_value s1
  exact Kept.upd hs1

theorem recMode_kept {old new hw prof first s} (K : Kept b0 s) : Kept b0 (recMode old new hw prof first s) := by
  unfold recMode; exact tapAppend_kept K

theorem commitsReady_kept {s} (K : Kept b0 s) : Kept b0 (commitsReady s) := by
  unfold commitsReady; exact Kept.upd K

theorem setMode_kept {m s} (K : Kept b0 s) : Kept b0 (setMode m s) := by
  unfold setMode
  extract_lets +onlyGivenNames s1
  have hs1 : Kept b0 s1 := grant_kept K
  clear_value s1
  exact Kept.upd hs1

theorem abortForMode_kept {m s} (K : Kept b0 s) : Kept b0 (abortForMode m s) := by
  unfold abortForMode; exact Kept.ite (endOp_kept K) K

theorem staleWindows_kept {s} (K : Kept b0 s) : Kept b0 (staleWindows s) := by
  unfold staleWindows; exact Kept.upd K

theorem countWordBy_kept {a n s} (K : Kept b0 s) : Kept b0 (countWordBy a n s) := by
  unfold countWordBy; exact setStatWord_kept K

theorem discardPubs_kept {s} (K : Kept b0 s) : Kept b0 (discardPubs s) := by
  unfold discardPubs
  extract_lets +onlyGivenNames drop
  have hdrop {ch} {s} (hs' : Kept b0 s) : Kept b0 (drop ch s) := by
    dsimp -zeta only [drop]
    extract_lets +onlyGivenNames n
    exact Kept.ite hs' (countWordBy_kept (modQueue_kept hs'))
  clear_value drop
  exact hdrop (hdrop K)

theorem parkPin_kept {i s} (K : Kept b0 s) : Kept b0 (parkPin i s) := by
  unfold parkPin; exact modPin_kept K

theorem parkPort_kept {n s} (K : Kept b0 s) : Kept b0 (parkPort n s) := by
  unfold parkPort
  extract_lets +onlyGivenNames s1
  have hs1 : Kept b0 s1 := Kept.foldl (fun _ _ h1 => (Kept.ite (parkPin_kept h1) h1)) K
  clear_value s1
  exact Kept.foldl (fun _ _ h0 => (Kept.ite (parkPin_kept h0) h0)) hs1

theorem parkFailed_kept {s} (K : Kept b0 s) : Kept b0 (parkFailed s) := by
  unfold parkFailed; exact Kept.foldl (fun _ _ h0 => (Kept.ite (parkPort_kept h0) h0)) K

theorem passValidation_kept {n s} (K : Kept b0 s) : Kept b0 (passValidation n s) := by
  unfold passValidation; exact Kept.ite (setLast_kept (setEstat_kept (Kept.upd K))) K

theorem failValidation_kept {n s} (K : Kept b0 s) : Kept b0 (failValidation n s) := by
  unfold failValidation
  extract_lets +onlyGivenNames _ s1
  have hs1 : Kept b0 s1 := Kept.ite K (Kept.upd K)
  clear_value s1
  exact setLast_kept (setEstat_kept hs1)

theorem validateEp_kept {n s} (K : Kept b0 s) : Kept b0 (validateEp n s) := by
  unfold validateEp; exact Kept.ite (passValidation_kept K) (failValidation_kept K)

theorem validateAll_kept {s} (K : Kept b0 s) : Kept b0 (validateAll s) := by
  unfold validateAll; exact Kept.foldl (fun _ _ h0 => (validateEp_kept h0)) K

theorem resetCond_kept {s} (K : Kept b0 s) : Kept b0 (resetCond s) := by
  unfold resetCond; exact Kept.upd K

theorem cancelRequest_kept {s} (K : Kept b0 s) : Kept b0 (cancelRequest s) := by
  unfold cancelRequest; exact Kept.ite (Kept.upd K) K

theorem leadReinBy_kept {path code s0} (K : Kept b0 s0) : Kept b0 (leadReinBy path code s0) := by
  unfold leadReinBy
  extract_lets +onlyGivenNames s
  have hs : Kept b0 s := grants_kept K
  clear_value s
  exact Kept.ite hs (Kept.ite (Kept.upd hs) (by
      extract_lets +onlyGivenNames s1
      have hs1 : Kept b0 s1 := cancelRequest_kept hs
      clear_value s1
      exact Kept.upd hs1))

theorem toLeadRein_kept {code s} (K : Kept b0 s) : Kept b0 (toLeadRein code s) := by
  unfold toLeadRein; exact leadReinBy_kept K

theorem lateReaction_kept {s} (K : Kept b0 s) : Kept b0 (lateReaction s) := by
  unfold lateReaction; exact Kept.ite (toLeadRein_kept K) K

theorem beginStaging_kept {s} (K : Kept b0 s) : Kept b0 (beginStaging s) := by
  unfold beginStaging
  extract_lets +onlyGivenNames b _ s1
  have hs1 : Kept b0 s1 := Kept.upd K
  clear_value s1
  exact modBank_kept hs1

theorem enterMode_kept {m s0} (K : Kept b0 s0) : Kept b0 (enterMode m s0) := by
  unfold enterMode; exact (adapting_kept (fun _ h0 => (by
        extract_lets +onlyGivenNames old s1
        have hs1 : Kept b0 s1 := commitsReady_kept (setMode_kept (abortForMode_kept h0))
        clear_value s1
        extract_lets +onlyGivenNames s2
        have hs2 : Kept b0 s2 := staleWindows_kept (Kept.ite hs1 (discardPubs_kept hs1))
        clear_value s2
        extract_lets +onlyGivenNames s3
        have hs3 : Kept b0 s3 := Kept.ite (parkFailed_kept hs2) hs2
        clear_value s3
        extract_lets +onlyGivenNames s4
        have hs4 : Kept b0 s4 := Kept.ite (validateAll_kept (resetCond_kept hs3)) hs3
        clear_value s4
        exact (lateReaction_kept (Kept.ite (beginStaging_kept hs4) hs4)))) K)

theorem endRecording_kept {s} (K : Kept b0 s) : Kept b0 (endRecording s) := by
  unfold endRecording; exact Kept.ite (Kept.ite (freeze_kept K) (Kept.upd K)) K

theorem hardwareEntry_kept {code s} (K : Kept b0 s) : Kept b0 (hardwareEntry code s) := by
  unfold hardwareEntry; exact tapTrigger_kept (attend_kept (Kept.upd K))

theorem clockLoss_kept {island detail s0} (K : Kept b0 s0) : Kept b0 (clockLoss island detail s0) := by
  unfold clockLoss; exact (Kept.ite K (adapting_kept (fun _ h0 => (by
        extract_lets +onlyGivenNames s1
        have hs1 : Kept b0 s1 := Kept.ite (endOp_kept h0) h0
        clear_value s1
        extract_lets +onlyGivenNames s2
        have hs2 : Kept b0 s2 := setDropped_kept (logFault_kept hs1)
        clear_value s2
        extract_lets +onlyGivenNames old
        split
        · exact stopTime_kept (Kept.upd hs2)
        · split
          · extract_lets +onlyGivenNames s3
            have hs3 : Kept b0 s3 := recMode_kept (enterMode_kept (stopTime_kept (cancelRequest_kept hs2)))
            clear_value s3
            exact endRecording_kept (hardwareEntry_kept hs3)
          · exact (stopTime_kept hs2))) K))

theorem effRefclkMeasured_kept {kHz s} (K : Kept b0 s) : Kept b0 (effRefclkMeasured kHz s) := by
  unfold effRefclkMeasured
  split
  · extract_lets +onlyGivenNames _ s1
    have hs1 : Kept b0 s1 := Kept.upd K
    clear_value s1
    exact Kept.ite (clockLoss_kept hs1) hs1
  · exact K

theorem attachRing_kept {s} (K : Kept b0 s) : Kept b0 (attachRing s) := by
  unfold attachRing; exact Kept.ite K (modQueue_kept (Kept.upd K))

theorem effPllLock_kept {slept s} (K : Kept b0 s) : Kept b0 (effPllLock slept s) := by
  unfold effPllLock
  exact Kept.ite (by
      extract_lets +onlyGivenNames _
      exact attachRing_kept (Kept.upd K)) K

theorem loadHeader_kept {h s} (K : Kept b0 s) : Kept b0 (loadHeader h s) := by
  unfold loadHeader
  extract_lets +onlyGivenNames at2
  exact Kept.upd K

theorem endFault_kept {code s} (K : Kept b0 s) : Kept b0 (endFault code s) := by
  unfold endFault; exact Kept.upd K

theorem userOk_kept {s} (K : Kept b0 s) : Kept b0 (userOk s) := by
  unfold userOk; exact endFault_kept (endFault_kept (Kept.upd K))

theorem faultInvalid_kept {area why s} (K : Kept b0 s) : Kept b0 (faultInvalid area why s) := by
  unfold faultInvalid; exact logFault_kept K

theorem loadProfiles_kept {s0} (K : Kept b0 s0) : Kept b0 (loadProfiles s0) := by
  unfold loadProfiles
  extract_lets +onlyGivenNames s
  have hs : Kept b0 s := scanCopies_kept K
  clear_value s
  dsimp only
  generalize hfb : checkArea 4 s = fb
  have h1 : Kept b0 (match fb with
      | .ok p => { s with tack := { s.tack with fbOk := true }, cfg := { s.cfg with fallback := expandSections p.sections } }
      | .error _ => { s with tack := { s.tack with fbOk := false } }) := by
    split
    · exact Kept.cfg hs hs.user_wf wf_expandSections hs.status_wf
    · exact Kept.upd hs
  refine validateAll_kept ?_
  revert h1
  cases fb <;> dsimp only <;> intro h1 <;> split
  · exact loadHeader_kept (userOk_kept (Kept.cfg h1 wf_expandSections h1.fallback_wf h1.status_wf))
  · exact logFault_kept (faultInvalid_kept (Kept.upd h1))
  · exact loadHeader_kept (userOk_kept (Kept.cfg h1 wf_expandSections h1.fallback_wf h1.status_wf))
  · generalize hl : loadHeader _ _ = s2
    have h2 : Kept b0 s2 := hl ▸ loadHeader_kept h1
    exact faultInvalid_kept (Kept.upd h2)

theorem firstBoundary_kept {s} (K : Kept b0 s) : Kept b0 (firstBoundary s) := by
  unfold firstBoundary; exact Kept.upd K

theorem konly_kept {s b} (K : Kept b0 s) :
    Kept b0 { s with mode := { s.mode with konly := !s.tack.fbOk && !s.tack.usrOk }, power := { s.power with boot := b } } :=
  Kept.upd K

theorem effResetProfileLoadDone_kept {s} (K : Kept b0 s) : Kept b0 (effResetProfileLoadDone s) := by
  unfold effResetProfileLoadDone
  exact Kept.ite (firstBoundary_kept (hardwareEntry_kept (enterMode_kept (konly_kept
    (loadProfiles_kept (attachRing_kept (grants_kept K))))))) K

theorem endIfDisabled_kept {s} (K : Kept b0 s) : Kept b0 (endIfDisabled s) := by
  unfold endIfDisabled; exact Kept.ite (endRecording_kept K) K

theorem recRein_kept {win result a v winAddr s} (K : Kept b0 s) : Kept b0 (recRein win result a v winAddr s) := by
  unfold recRein; exact tapAppend_kept K

theorem intoReply_kept {r} (hr : Kept b0 r.s) : Kept b0 (intoReply r) := by
  unfold intoReply
  extract_lets +onlyGivenNames src
  have hsrc : Kept b0 src := hr
  clear_value src
  exact Kept.upd hsrc

theorem writeReply_kept {v r} (hr : Kept b0 r.s) : Kept b0 (writeReply v r) := by
  unfold writeReply; exact Kept.ite hr (intoReply_kept hr)

theorem goodWrite_kept {a v r} (hr : Kept b0 r.s) : Kept b0 (goodWrite a v r) := by
  unfold goodWrite; exact endIfDisabled_kept (recRein_kept (writeReply_kept hr))

theorem denied_kept {s} (K : Kept b0 s) : Kept b0 (denied s).s := by
  unfold denied; exact K

theorem refusedInReplay_kept {a v s} (K : Kept b0 s) : Kept b0 (refusedInReplay a v s).s := by
  unfold refusedInReplay; exact denied_kept (Kept.ite (Kept.upd K) K)

theorem hostAt_kept {points s} (K : Kept b0 s) : Kept b0 (hostAt points s) := by
  unfold hostAt; exact Kept.ite K (grants_kept K)

theorem writeRow_kept {a v f s} (hf : ∀ x, Kept b0 x → Kept b0 (f x).s) (h : Kept b0 s) : Kept b0 (writeRow a v f s) := by
  unfold writeRow; exact Kept.ite (goodWrite_kept (Kept.iteR (refusedInReplay_kept h) (hf _ (hostAt_kept h)))) h

theorem wrote_kept {s} (K : Kept b0 s) : Kept b0 (wrote s).s := by
  unfold wrote; exact K

theorem leaveFarrier_kept {s} (K : Kept b0 s) : Kept b0 (leaveFarrier s) := by
  unfold leaveFarrier
  extract_lets +onlyGivenNames s1
  have hs1 : Kept b0 s1 := Kept.ite (endOp_kept K) K
  clear_value s1
  exact Kept.upd hs1

theorem takeSelection_kept {s} (K : Kept b0 s) : Kept b0 (takeSelection s) := by
  unfold takeSelection
  extract_lets +onlyGivenNames s1
  have hs1 : Kept b0 s1 := grants_kept K
  clear_value s1
  exact Kept.upd hs1

theorem refreshStaging_kept {s} (K : Kept b0 s) : Kept b0 (refreshStaging s) := by
  unfold refreshStaging
  split
  · exact Kept.upd K
  · extract_lets +onlyGivenNames _ s1
    have hs1 : Kept b0 s1 := Kept.upd K
    clear_value s1
    split
    · exact hs1
    · extract_lets +onlyGivenNames slots
      exact modBank_kept hs1

theorem clearStatuses_kept {s} (K : Kept b0 s) : Kept b0 (clearStatuses s) := by
  unfold clearStatuses
  exact Kept.foldl (fun _ _ h => Kept.ite (setEstat_kept h) h)
    (Kept.foldl (fun _ _ h => setEstat_kept h) (Kept.cfg K K.user_wf K.fallback_wf (wf_clear K.status_wf)))

theorem clearSelects_kept {s} (K : Kept b0 s) : Kept b0 (clearSelects s) := by
  unfold clearSelects; exact Kept.foldl (fun _ _ h1 => Kept.foldl (fun _ _ h2 => setStatWord_kept h2) h1) K

theorem expandUser_kept {p s} (K : Kept b0 s) : Kept b0 (expandUser p s) := by
  unfold expandUser
  refine adapting_kept (fun x h => ?_) K
  extract_lets +onlyGivenNames s
  have hs : Kept b0 s := invalidateCache_kept (moveCommit_kept h)
  clear_value s
  exact refreshStaging_kept (staleWindows_kept (resetCond_kept (validateAll_kept (clearSelects_kept (clearStatuses_kept
    (userOk_kept (grant_kept (loadHeader_kept (Kept.cfg hs wf_expandSections hs.fallback_wf hs.status_wf)))))))))

theorem emptyQueue_kept {q s} (K : Kept b0 s) : Kept b0 (emptyQueue q s) := by
  unfold emptyQueue; exact grant_kept (modQueue_kept K)

theorem freeStaging_kept {s} (K : Kept b0 s) : Kept b0 (freeStaging s) := by
  unfold freeStaging
  extract_lets +onlyGivenNames s1
  have hs1 : Kept b0 s1 := emptyQueue_kept (abandonItem_kept K)
  clear_value s1
  exact Kept.upd hs1

theorem loseStaged_kept {s} (K : Kept b0 s) : Kept b0 (loseStaged s) := by
  unfold loseStaged
  extract_lets +onlyGivenNames _ s1
  have hs1 : Kept b0 s1 := faultInvalid_kept (Kept.upd K)
  clear_value s1
  exact Kept.ite (toLeadRein_kept hs1) hs1

theorem applyStaged_kept {s} (K : Kept b0 s) : Kept b0 (applyStaged s) := by
  unfold applyStaged
  extract_lets +onlyGivenNames s1
  have hs1 : Kept b0 s1 := by
    dsimp only [s1]
    split
    · exact expandUser_kept K
    · exact loseStaged_kept K
  clear_value s1
  exact freeStaging_kept (Kept.upd hs1)

theorem cancelSwitch_kept {s} (K : Kept b0 s) : Kept b0 (cancelSwitch s) := by
  unfold cancelSwitch; exact Kept.ite (freeStaging_kept (Kept.upd K)) K

theorem settleSwitch_kept {s} (K : Kept b0 s) : Kept b0 (settleSwitch s) := by
  unfold settleSwitch; exact Kept.ite (Kept.ite (takeSelection_kept (Kept.upd K)) (applyStaged_kept (takeSelection_kept K))) (Kept.ite K (cancelSwitch_kept (grant_kept K)))

theorem beginEntry_kept {prof s0} (K : Kept b0 s0) : Kept b0 (beginEntry prof s0) := by
  unfold beginEntry
  exact adapting_kept (fun _ h1 => by
      extract_lets +onlyGivenNames _ s01
      have hs01 : Kept b0 s01 := grants_kept h1
      clear_value s01
      extract_lets +onlyGivenNames _ _ s1
      have hs1 : Kept b0 s1 := Kept.upd hs01
      clear_value s1
      extract_lets +onlyGivenNames s2
      have hs2 : Kept b0 s2 := settleSwitch_kept (stopRuns_kept (discardPubs_kept (abortForMode_kept hs1)))
      clear_value s2
      exact endRecording_kept (recMode_kept hs2)) K

theorem pendMode_kept {m s} (K : Kept b0 s) : Kept b0 (pendMode m s) := by
  unfold pendMode; exact Kept.upd K

theorem requestMode_kept {m s} (K : Kept b0 s) : Kept b0 (requestMode m s) := by
  unfold requestMode; exact Kept.ite (Kept.ite (Kept.upd K) K) (Kept.ite (Kept.ite (refuseMode_kept K) (Kept.ite (refuseMode_kept K) (Kept.ite (beginEntry_kept K) (pendMode_kept K)))) (Kept.ite (refuseMode_kept K) (pendMode_kept K)))

theorem takeRequest_kept {req s} (K : Kept b0 s) : Kept b0 (takeRequest req s) := by
  unfold takeRequest
  extract_lets +onlyGivenNames s1
  have hs1 : Kept b0 s1 := grants_kept K
  clear_value s1
  exact Kept.ite (refuseMode_kept hs1) (Kept.ite (refuseMode_kept hs1) (Kept.ite (Kept.ite (leaveFarrier_kept hs1) (refuseMode_kept hs1)) (requestMode_kept hs1)))

theorem modeReqWrite_kept {v s0} (K : Kept b0 s0) : Kept b0 (modeReqWrite v s0).s := by
  unfold modeReqWrite
  extract_lets +onlyGivenNames req key reserved _ s
  have hs : Kept b0 s := Kept.upd K
  clear_value s
  exact Kept.iteR (denied_kept hs) (Kept.iteR (wrote_kept (Kept.ite (warmReset_kept hs) (refuseMode_kept hs))) (Kept.iteR (wrote_kept (refuseMode_kept hs)) (wrote_kept (takeRequest_kept hs))))

theorem effModeRequest_kept {v s} (K : Kept b0 s) : Kept b0 (effModeRequest v s) := by
  unfold effModeRequest; exact writeRow_kept (fun _ h => modeReqWrite_kept h) K

theorem effResetRequest_kept {s} (K : Kept b0 s) : Kept b0 (effResetRequest s) := by
  unfold effResetRequest; exact writeRow_kept (fun _ h => modeReqWrite_kept h) K

theorem byApply_kept {s} (K : Kept b0 s) : Kept b0 (byApply s) := by
  unfold byApply
  extract_lets +onlyGivenNames s1
  have hs1 : Kept b0 s1 := Kept.ite K (grant_kept K)
  clear_value s1
  exact settleLead_kept (Kept.upd hs1)

theorem endEpoch_kept {b s} (K : Kept b0 s) : Kept b0 (endEpoch b s) := by
  unfold endEpoch
  extract_lets +onlyGivenNames s1
  have hs1 : Kept b0 s1 := grant_kept K
  clear_value s1
  extract_lets +onlyGivenNames _
  exact Kept.upd hs1

theorem failSwitch_kept {s} (K : Kept b0 s) : Kept b0 (failSwitch s) := by
  unfold failSwitch
  extract_lets +onlyGivenNames _ s1
  have hs1 : Kept b0 s1 := takeSelection_kept (Kept.upd K)
  clear_value s1
  exact faultInvalid_kept hs1

theorem checkStaged_kept {s} (K : Kept b0 s) : Kept b0 (checkStaged s) := by
  unfold checkStaged
  exact Kept.ite (by
      extract_lets +onlyGivenNames _ s1
      have hs1 : Kept b0 s1 := freeStaging_kept (Kept.upd K)
      clear_value s1
      exact Kept.ite (Kept.upd hs1) (Kept.upd hs1)) K

theorem failAtBoundary_kept {s} (K : Kept b0 s) : Kept b0 (failAtBoundary s) := by
  unfold failAtBoundary
  extract_lets +onlyGivenNames s1
  have hs1 : Kept b0 s1 := Kept.ite (checkStaged_kept K) K
  clear_value s1
  exact Kept.ite (by
      extract_lets +onlyGivenNames s11
      have hs11 : Kept b0 s11 := failSwitch_kept hs1
      clear_value s11
      exact Kept.ite hs11 (leadReinBy_kept hs11)) hs1

theorem settleAhead_kept {keep s} (K : Kept b0 s) : Kept b0 (settleAhead keep s) := by
  unfold settleAhead
  extract_lets +onlyGivenNames ix goesOn _ s1
  have hs1 : Kept b0 s1 := Kept.upd K
  clear_value s1
  extract_lets +onlyGivenNames s2
  have hs2 : Kept b0 s2 := Kept.foldl (fun _ _ h1 => (Kept.ite (Kept.upd h1) (orphanRun_kept h1))) hs1
  clear_value s2
  refine Kept.foldl (fun _ _ h0 => ?_) hs2
  extract_lets +onlyGivenNames l
  exact Kept.ite (Kept.ite (modLane_kept h0) (cancelLane_kept h0)) h0

theorem recTime_kept {start bound epoch afterGap number s0} (K : Kept b0 s0) : Kept b0 (recTime start bound epoch afterGap number s0) := by
  unfold recTime
  extract_lets +onlyGivenNames s
  have hs : Kept b0 s := Kept.ite (closeBlock_kept K) K
  clear_value s
  exact tapAppend_kept hs

theorem applySwitch_kept {s} (K : Kept b0 s) : Kept b0 (applySwitch s) := by
  unfold applySwitch
  extract_lets +onlyGivenNames _ s1
  have hs1 : Kept b0 s1 := Kept.upd K
  clear_value s1
  exact Kept.ite (staleWindows_kept (takeSelection_kept (Kept.upd hs1))) (applyStaged_kept (takeSelection_kept hs1))

theorem takeTurn_kept {prof t s} (K : Kept b0 s) : Kept b0 (takeTurn prof t s) := by
  unfold takeTurn
  split
  · exact beginEntry_kept K
  · extract_lets +onlyGivenNames old s1
    have hs1 : Kept b0 s1 := recMode_kept (enterMode_kept K)
    clear_value s1
    extract_lets +onlyGivenNames s2
    have hs2 : Kept b0 s2 := Kept.ite (hardwareEntry_kept hs1) hs1
    clear_value s2
    exact Kept.ite hs2 (endRecording_kept hs2)

theorem turnAt_kept {turn switch s} (K : Kept b0 s) : Kept b0 (turnAt turn switch s) := by
  unfold turnAt
  extract_lets +onlyGivenNames _ s1
  have hs1 : Kept b0 s1 := Kept.ite (applySwitch_kept (grant_kept K)) K
  clear_value s1
  split
  · exact takeTurn_kept (grant_kept hs1)
  · exact Kept.ite (recMode_kept hs1) hs1

theorem startEpoch_kept {b s} (K : Kept b0 s) : Kept b0 (startEpoch b s) := by
  unfold startEpoch
  extract_lets +onlyGivenNames w walk
  exact Kept.upd K

theorem keyframeDue_kept {s} (K : Kept b0 s) : Kept b0 (keyframeDue s) := by
  unfold keyframeDue; exact Kept.upd K

theorem countKeyframe_kept {s} (K : Kept b0 s) : Kept b0 (countKeyframe s) := by
  unfold countKeyframe; exact Kept.ite (keyframeDue_kept (Kept.upd K)) (Kept.upd K)

theorem writeParts_kept {n first bs s} (h : Kept b0 s) : Kept b0 (writeParts n first bs s) := by
  induction n generalizing first bs s with
  | zero => exact h
  | succ n ih => unfold writeParts; exact Kept.ite (putRecord_kept h) (ih (putRecord_kept h))

theorem takeKeyframe_kept {s0} (K : Kept b0 s0) : Kept b0 (takeKeyframe s0) := by
  unfold takeKeyframe
  extract_lets +onlyGivenNames _ s
  have hs : Kept b0 s := Kept.upd K
  clear_value s
  extract_lets +onlyGivenNames _ _ _ done
  have hdone : Kept b0 done := Kept.upd hs
  clear_value done
  exact Kept.ite (by
      extract_lets +onlyGivenNames _ s1
      have hs1 : Kept b0 s1 := Kept.upd hdone
      clear_value s1
      exact Kept.ite (endOp_kept hs1) hs1) (by
      extract_lets +onlyGivenNames s1
      have hs1 : Kept b0 s1 := writeParts_kept hdone
      clear_value s1
      exact Kept.ite (endOp_kept (opPost_kept hs1)) hs1)

theorem startRecording_kept {number s} (K : Kept b0 s) : Kept b0 (startRecording number s) := by
  unfold startRecording
  extract_lets +onlyGivenNames _ _ _ _ s1
  have hs1 : Kept b0 s1 := Kept.upd K
  clear_value s1
  exact takeKeyframe_kept (recTime_kept hs1)

theorem tapEpoch_kept {isQuiet number s} (K : Kept b0 s) : Kept b0 (tapEpoch isQuiet number s) := by
  unfold tapEpoch
  split
  · extract_lets +onlyGivenNames s1
    have hs1 : Kept b0 s1 := countKeyframe_kept K
    clear_value s1
    exact Kept.ite (takeKeyframe_kept hs1) hs1
  · exact Kept.ite (startRecording_kept K) K

theorem addDue_kept {n s} (K : Kept b0 s) : Kept b0 (addDue n s) := by
  unfold addDue
  extract_lets +onlyGivenNames _
  exact Kept.ite K (Kept.ite K (Kept.ite (Kept.upd K) (Kept.ite (countEp_kept K) (Kept.upd K))))

theorem startAttempt_kept {i pc trig s} (K : Kept b0 s) : Kept b0 (startAttempt i pc trig s) := by
  unfold startAttempt; exact modLane_kept K

theorem startRun_kept {i r ahead s} (K : Kept b0 s) : Kept b0 (startRun i r ahead s) := by
  unfold startRun; exact setEstat_kept (setStatByte_kept (startAttempt_kept (modLane_kept K)))

theorem dispatch_kept {s} (K : Kept b0 s) : Kept b0 (dispatch s) := by
  unfold dispatch
  exact Kept.foldl (fun _ _ h1 => Kept.ite (by
      split
      · exact Kept.ite h1 (startRun_kept (grant_kept (Kept.upd h1)))
      · split
        · exact Kept.ite h1 (startRun_kept (grant_kept (Kept.upd h1)))
        · exact h1) h1) K

theorem missOwed_kept {s} (K : Kept b0 s) : Kept b0 (missOwed s) := by
  unfold missOwed
  extract_lets +onlyGivenNames _
  exact Kept.foldl (fun _ _ h2 => countEp_kept h2) (Kept.upd K)

theorem sortRuns_kept {s} (K : Kept b0 s) : Kept b0 (sortRuns s) := by
  unfold sortRuns
  extract_lets +onlyGivenNames _
  exact Kept.upd K

theorem dueRuns_kept {s} (K : Kept b0 s) : Kept b0 (dueRuns s) := by
  unfold dueRuns
  extract_lets +onlyGivenNames s1
  have hs1 : Kept b0 s1 := missOwed_kept K
  clear_value s1
  exact Kept.ite (by
      extract_lets +onlyGivenNames _ s11
      have hs11 : Kept b0 s11 := Kept.foldl (fun _ _ h4 => Kept.ite (addDue_kept h4) h4) (grant_kept hs1)
      clear_value s11
      exact dispatch_kept (sortRuns_kept (Kept.upd hs11))) hs1

theorem openEpoch_kept {b isQuiet s} (K : Kept b0 s) : Kept b0 (openEpoch b isQuiet s) := by
  unfold openEpoch
  split
  · extract_lets +onlyGivenNames s1
    have hs1 : Kept b0 s1 := startEpoch_kept K
    clear_value s1
    extract_lets +onlyGivenNames s2
    have hs2 : Kept b0 s2 := Kept.ite (tapEpoch_kept hs1) hs1
    clear_value s2
    exact Kept.ite hs2 (dueRuns_kept hs2)
  · exact Kept.upd K

theorem markDrop_kept {q s} (K : Kept b0 s) : Kept b0 (markDrop q s) := by
  unfold markDrop; exact modQueue_kept K

theorem queueBoryel_kept {o kind data s} (K : Kept b0 s) : Kept b0 (queueBoryel o kind data s) := by
  unfold queueBoryel
  extract_lets +onlyGivenNames _ _ _
  split
  · exact markDrop_kept K
  · exact grant_kept (putItem_kept K ‹_›)

theorem leadBoundary_kept {s0} (K : Kept b0 s0) : Kept b0 (leadBoundary s0) := by
  unfold leadBoundary
  extract_lets +onlyGivenNames s
  have hs : Kept b0 s := withdrawSync_kept K
  clear_value s
  exact Kept.ite (by
      split
      · exact hs
      · extract_lets +onlyGivenNames s1
        have hs1 : Kept b0 s1 := Kept.ite (gainLock_kept hs) hs
        clear_value s1
        extract_lets +onlyGivenNames _ _ s2
        have hs2 : Kept b0 s2 := Kept.upd hs1
        clear_value s2
        exact queueBoryel_kept (grant_kept hs2)) hs

theorem setNextBoundary_kept {b period s} (K : Kept b0 s) : Kept b0 (setNextBoundary b period s) := by
  unfold setNextBoundary
  extract_lets +onlyGivenNames slew
  exact Kept.upd K

theorem writeBatch_kept {s} (K : Kept b0 s) : Kept b0 (writeBatch s) := by
  unfold writeBatch; exact Kept.ite K (recVerdicts_kept (Kept.upd K))

theorem baseBoundary_kept {b s0} (K : Kept b0 s0) : Kept b0 (baseBoundary b s0) := by
  unfold baseBoundary
  extract_lets +onlyGivenNames s01
  have hs01 : Kept b0 s01 := writeBatch_kept (grants_kept K)
  clear_value s01
  extract_lets +onlyGivenNames s1
  have hs1 : Kept b0 s1 := byApply_kept (Kept.upd hs01)
  clear_value s1
  extract_lets +onlyGivenNames _ _
  exact Kept.ite (by
      extract_lets +onlyGivenNames _ s2
      have hs2 : Kept b0 s2 := Kept.ite (endEpoch_kept hs1) hs1
      clear_value s2
      extract_lets +onlyGivenNames s3
      have hs3 : Kept b0 s3 := failAtBoundary_kept (commitsReady_kept hs2)
      clear_value s3
      extract_lets +onlyGivenNames _ _ _ s4
      have hs4 : Kept b0 s4 := Kept.ite (settleAhead_kept hs3) hs3
      clear_value s4
      extract_lets +onlyGivenNames _ s5
      have hs5 : Kept b0 s5 := recTime_kept hs4
      clear_value s5
      extract_lets +onlyGivenNames s6
      have hs6 : Kept b0 s6 := turnAt_kept hs5
      clear_value s6
      exact openEpoch_kept (leadBoundary_kept (setNextBoundary_kept hs6))) (by
      extract_lets +onlyGivenNames _ s2
      have hs2 : Kept b0 s2 := Kept.upd hs1
      clear_value s2
      exact leadBoundary_kept (setNextBoundary_kept (recTime_kept hs2)))

theorem effBaseEpochBoundary_kept {s} (K : Kept b0 s) : Kept b0 (effBaseEpochBoundary s) := by
  unfold effBaseEpochBoundary
  split
  · exact K
  · split
    · extract_lets +onlyGivenNames c
      exact Kept.upd K
    · exact baseBoundary_kept K

theorem countCan_kept {ch o s} (K : Kept b0 s) : Kept b0 (countCan ch o s) := by
  unfold countCan; exact countWord_kept K

theorem discardTx_kept {ch s} (K : Kept b0 s) : Kept b0 (discardTx ch s) := by
  unfold discardTx; exact Kept.ite (canEvent_kept (countCan_kept (modCan_kept K))) K

end Sys2Proof.Laws
end

