-- ==== Sys2Proof/Laws/Kept2.lean ====
section
/-! SUPPORT. What every operation of the model keeps, part 2 of 4: one lemma for each, in the order of use. -/

namespace Sys2Proof.Laws

set_option Elab.async false

open Sys2Proof.Machine Sys2Proof.Safety

variable {b0 : State}

theorem dropRxItem_kept {ch s} (K : Kept b0 s) : Kept b0 (dropRxItem ch s) := by
  unfold dropRxItem
  extract_lets +onlyGivenNames s1
  have hs1 : Kept b0 s1 := by
    dsimp -zeta only [s1]
    split
    · split
      · exact abandonItem_kept K
      · exact K
    · exact K
  clear_value s1
  exact modCan_kept hs1

theorem stopCan_kept {ch s} (K : Kept b0 s) : Kept b0 (stopCan ch s) := by
  unfold stopCan
  extract_lets +onlyGivenNames s1
  have hs1 : Kept b0 s1 := discardTx_kept (dropRxItem_kept K)
  clear_value s1
  exact settleLead_kept (grants_kept (modCan_kept hs1))

theorem recPort_kept {port kind ep outcome lane rx t s} (K : Kept b0 s) : Kept b0 (recPort port kind ep outcome lane rx t s) := by
  unfold recPort; exact tapAppend_kept K

theorem freeLaneAt_kept {i s} (K : Kept b0 s) : Kept b0 (freeLaneAt i s) := by
  unfold freeLaneAt; exact dispatch_kept (clearLane_kept K)

theorem probeRecords_kept {buf high n off s} (h : Kept b0 s) : Kept b0 (probeRecords buf high n off s) := by
  induction n generalizing off s with
  | zero => exact h
  | succ n ih => unfold probeRecords; exact Kept.ite h (ih (opPost_kept h))

theorem endProbe_kept {i code s} (K : Kept b0 s) : Kept b0 (endProbe i code s) := by
  unfold endProbe
  extract_lets +onlyGivenNames _ s1
  have hs1 : Kept b0 s1 := setLast_kept (probeRecords_kept K)
  clear_value s1
  extract_lets +onlyGivenNames s2
  have hs2 : Kept b0 s2 := purgeHeld_kept (clearLane_kept hs1)
  clear_value s2
  exact Kept.ite (opEnd_kept hs2) (opEnd_kept hs2)

theorem endMissed_kept {i code s} (K : Kept b0 s) : Kept b0 (endMissed i code s) := by
  unfold endMissed
  extract_lets +onlyGivenNames l s1
  have hs1 : Kept b0 s1 := missRun_kept K
  clear_value s1
  extract_lets +onlyGivenNames _ s2
  have hs2 : Kept b0 s2 := Kept.ite (Kept.upd hs1) hs1
  clear_value s2
  exact freeLaneAt_kept hs2

theorem failAttempt_kept {i code s0} (K : Kept b0 s0) : Kept b0 (failAttempt i code s0) := by
  unfold failAttempt
  extract_lets +onlyGivenNames s
  have hs : Kept b0 s := releasePorts_kept K
  clear_value s
  exact Kept.ite (freeLaneAt_kept hs) (Kept.ite (endProbe_kept hs) (Kept.ite (modLane_kept hs) (endMissed_kept hs)))

theorem countXfer_kept {p s} (K : Kept b0 s) : Kept b0 (countXfer p s) := by
  unfold countXfer; exact countWord_kept K

theorem stickI_kept {p n s} (K : Kept b0 s) : Kept b0 (stickI p n s) := by
  unfold stickI; exact modIPort_kept K

theorem countNack_kept {p s} (K : Kept b0 s) : Kept b0 (countNack p s) := by
  unfold countNack; exact countWord_kept K

theorem countArbLost_kept {p s} (K : Kept b0 s) : Kept b0 (countArbLost p s) := by
  unfold countArbLost; exact countWord_kept (stickI_kept (modIPort_kept K))

theorem ptCount_kept {p res s} (K : Kept b0 s) : Kept b0 (ptCount p res s) := by
  unfold ptCount
  split
  · exact countWord_kept (countXfer_kept K)
  · exact stickI_kept (countNack_kept K)
  · exact stickI_kept (countNack_kept K)
  · exact stickI_kept (countArbLost_kept K)
  · exact stickI_kept K

theorem setPtStat_kept {p res done hold s} (K : Kept b0 s) : Kept b0 (setPtStat p res done hold s) := by
  unfold setPtStat; exact setStatWord_kept K

theorem ptEnd_kept {p res done0 rx s} (K : Kept b0 s) : Kept b0 (ptEnd p res done0 rx s) := by
  unfold ptEnd
  exact ptCount_kept (setPtStat_kept (modIPort_kept (Kept.ite
    (Kept.cfg K (wf_writeBytes K.user_wf) K.fallback_wf K.status_wf) K)))

theorem ptCut_kept {p res s} (K : Kept b0 s) : Kept b0 (ptCut p res s) := by
  unfold ptCut
  extract_lets +onlyGivenNames a ctl w done code rx _ s1
  have hs1 : Kept b0 s1 := Kept.ite (Kept.cfg K (wf_writeBytes K.user_wf) K.fallback_wf K.status_wf) K
  clear_value s1
  exact drawn_kept (stickI_kept (setPtStat_kept (modIPort_kept hs1)))

theorem recTorn_kept {i p outcome s} (K : Kept b0 s) : Kept b0 (recTorn i p outcome s) := by
  unfold recTorn
  extract_lets +onlyGivenNames s1
  have hs1 : Kept b0 s1 := recPort_kept K
  clear_value s1
  exact Kept.upd hs1

theorem failOnWire_kept {p outcome code s} (K : Kept b0 s) : Kept b0 (failOnWire p outcome code s) := by
  unfold failOnWire
  split
  · exact K
  · extract_lets +onlyGivenNames s1
    have hs1 : Kept b0 s1 := recTorn_kept K
    clear_value s1
    extract_lets +onlyGivenNames s2
    have hs2 : Kept b0 s2 := Kept.ite (abortFrame_kept hs1) hs1
    clear_value s2
    exact failAttempt_kept (modLane_kept hs2)

theorem cutTarget_kept {p s} (K : Kept b0 s) : Kept b0 (cutTarget p s) := by
  unfold cutTarget; exact Kept.ite (modSPort_kept (abortFrame_kept K)) K

theorem endSfdp_kept {good s} (K : Kept b0 s) : Kept b0 (endSfdp good s) := by
  unfold endSfdp; exact pumpS0_kept (modSPort_kept K)

theorem cutWindow_kept {s} (K : Kept b0 s) : Kept b0 (cutWindow s) := by
  unfold cutWindow
  extract_lets +onlyGivenNames s1
  have hs1 : Kept b0 s1 := Kept.ite (modSPort_kept (abortFrame_kept K)) K
  clear_value s1
  exact Kept.ite (endSfdp_kept (abortFrame_kept hs1)) hs1

theorem cutFlash_kept {s} (K : Kept b0 s) : Kept b0 (cutFlash s) := by
  unfold cutFlash; exact Kept.ite (Kept.ite (endOp_kept (drawn_kept (abortFrame_kept K))) (drawn_kept K)) K

theorem cutS_kept {p code s} (K : Kept b0 s) : Kept b0 (cutS p code s) := by
  unfold cutS
  extract_lets +onlyGivenNames s1
  have hs1 : Kept b0 s1 := cutTarget_kept (failOnWire_kept K)
  clear_value s1
  extract_lets +onlyGivenNames s2
  have hs2 : Kept b0 s2 := Kept.ite (cutWindow_kept (cutFlash_kept hs1)) hs1
  clear_value s2
  exact Kept.ite (releaseSelect_kept hs2) hs2

theorem cutI_kept {p code res s} (K : Kept b0 s) : Kept b0 (cutI p code res s) := by
  unfold cutI
  extract_lets +onlyGivenNames s1
  have hs1 : Kept b0 s1 := failOnWire_kept (Kept.ite (ptCut_kept K) K)
  clear_value s1
  exact modIPort_kept (dropHold_kept hs1)

theorem stickT_kept {p n s} (K : Kept b0 s) : Kept b0 (stickT p n s) := by
  unfold stickT; exact modTPort_kept K

theorem sentSearch_kept {p s} (K : Kept b0 s) : Kept b0 (sentSearch p s) := by
  unfold sentSearch; exact modTPort_kept K

theorem sentFailWaiting_kept {p slow s} (K : Kept b0 s) : Kept b0 (sentFailWaiting p slow s) := by
  unfold sentFailWaiting
  refine Kept.foldl (fun _ _ h0 => ?_) K
  extract_lets +onlyGivenNames d
  exact Kept.ite (failAttempt_kept h0) h0

theorem recSent_kept {p cls bytes t s} (K : Kept b0 s) : Kept b0 (recSent p cls bytes t s) := by
  unfold recSent; exact tapAppend_kept K

theorem slowError_kept {p bytes s} (K : Kept b0 s) : Kept b0 (slowError p bytes s) := by
  unfold slowError
  extract_lets +onlyGivenNames s1
  have hs1 : Kept b0 s1 := modTPort_kept K
  clear_value s1
  exact sentFailWaiting_kept (recSent_kept (countWord_kept (stickT_kept hs1)))

theorem sentDiscard_kept {p s} (K : Kept b0 s) : Kept b0 (sentDiscard p s) := by
  unfold sentDiscard
  extract_lets +onlyGivenNames s1
  have hs1 : Kept b0 s1 := sentSearch_kept K
  clear_value s1
  exact sentFailWaiting_kept (Kept.ite hs1 (slowError_kept hs1))

theorem lineSilent_kept {p s} (K : Kept b0 s) : Kept b0 (lineSilent p s) := by
  unfold lineSilent
  extract_lets +onlyGivenNames s1
  have hs1 : Kept b0 s1 := countWord_kept (stickT_kept (modTPort_kept K))
  clear_value s1
  exact sentDiscard_kept (recSent_kept hs1)

theorem abortPort_kept {n s} (K : Kept b0 s) : Kept b0 (abortPort n s) := by
  unfold abortPort
  exact Kept.ite (by
      extract_lets +onlyGivenNames _
      exact Kept.ite (stopCan_kept K) K) (Kept.ite (cutS_kept K) (Kept.ite (Kept.ite (cutI_kept K) K) (Kept.ite (lineSilent_kept K) K)))

theorem attachPin_kept {i s} (K : Kept b0 s) : Kept b0 (attachPin i s) := by
  unfold attachPin; exact Kept.ite (modPin_kept K) K

theorem putRx_kept {p bytes s} (K : Kept b0 s) : Kept b0 (putRx p bytes s) := by
  unfold putRx
  split
  · exact putItem_kept K ‹_›
  · exact markDrop_kept (stickS_kept K)

theorem runEntry_kept {p e aborted rx s} (K : Kept b0 s) : Kept b0 (runEntry p e aborted rx s) := by
  unfold runEntry
  extract_lets +onlyGivenNames _
  exact Kept.ite (by
      extract_lets +onlyGivenNames _ _ s1
      have hs1 : Kept b0 s1 := sendFrame_kept K
      clear_value s1
      exact Kept.ite (by
          extract_lets +onlyGivenNames _
          exact putRx_kept (abortFrame_kept hs1)) (by
          extract_lets +onlyGivenNames _ r
          have hr : Kept b0 r.2 := by
            dsimp only [r]
            split
            · exact hs1
            · exact endByteFrame_kept hs1 rfl
          clear_value r
          extract_lets +onlyGivenNames s2
          have hs2 : Kept b0 s2 := holdSelect_kept (countWord_kept (countFrame_kept hr))
          clear_value s2
          extract_lets +onlyGivenNames _
          exact putRx_kept hs2)) (putRx_kept (stickS_kept (releaseSelect_kept K)))

theorem tornEntry_kept {p s} (K : Kept b0 s) : Kept b0 (tornEntry p s) := by
  unfold tornEntry
  exact Kept.ite (by
      split
      · exact K
      · extract_lets +onlyGivenNames _
        exact Kept.ite K (by
            extract_lets +onlyGivenNames _
            exact drawn_kept (runEntry_kept (takeItem_kept K ‹_›)))) K

theorem effStabledQuiesceTimeout_kept {s} (K : Kept b0 s) : Kept b0 (effStabledQuiesceTimeout s) := by
  unfold effStabledQuiesceTimeout
  exact Kept.ite (by
      extract_lets +onlyGivenNames s0
      have hs0 : Kept b0 s0 := Kept.foldl (fun _ _ h3 => tornEntry_kept h3) K
      clear_value s0
      extract_lets +onlyGivenNames s1
      have hs1 : Kept b0 s1 := Kept.foldl (fun _ _ h3 => Kept.ite (abortPort_kept h3) h3) hs0
      clear_value s1
      extract_lets +onlyGivenNames s2
      have hs2 : Kept b0 s2 := cancelLanes_kept hs1
      clear_value s2
      exact adapting_kept (fun _ h3 => Kept.foldl (fun _ _ h4 => attachPin_kept (beginTransit_kept h4)) h3) hs2) K

theorem clearStatus_kept {n s} (K : Kept b0 s) : Kept b0 (clearStatus n s) := by
  unfold clearStatus; exact Kept.cfg K K.user_wf K.fallback_wf (wf_clear K.status_wf)

theorem setStaging_kept {n x s} (K : Kept b0 s) : Kept b0 (setStaging n x s) := by
  unfold setStaging
  extract_lets +onlyGivenNames s1
  have hs1 : Kept b0 s1 := putSlot_kept K
  clear_value s1
  exact Kept.ite (Kept.upd hs1) hs1

theorem freshSlot_kept {n atNextFill s} (K : Kept b0 s) : Kept b0 (freshSlot n atNextFill s) := by
  unfold freshSlot
  exact Kept.ite (Kept.upd K) (Kept.ite K (by
      extract_lets +onlyGivenNames s1
      have hs1 : Kept b0 s1 := setStaging_kept K
      clear_value s1
      exact Kept.upd hs1))

theorem resetCondOf_kept {n s} (K : Kept b0 s) : Kept b0 (resetCondOf n s) := by
  unfold resetCondOf; exact Kept.upd K

theorem staleWindow_kept {n s} (K : Kept b0 s) : Kept b0 (staleWindow n s) := by
  unfold staleWindow; exact Kept.upd K

theorem freshStatus_kept {n s} (K : Kept b0 s) : Kept b0 (freshStatus n s) := by
  unfold freshStatus
  extract_lets +onlyGivenNames s1
  have hs1 : Kept b0 s1 := Kept.ite (setEstat_kept (clearStatus_kept K)) (clearStatus_kept K)
  clear_value s1
  exact Kept.ite (setEstat_kept hs1) hs1

theorem freshEndpoint_kept {e s} (K : Kept b0 s) : Kept b0 (freshEndpoint e s) := by
  unfold freshEndpoint
  extract_lets +onlyGivenNames s1
  have hs1 : Kept b0 s1 := Kept.ite (freshStatus_kept K) K
  clear_value s1
  extract_lets +onlyGivenNames s2
  have hs2 : Kept b0 s2 := Kept.ite (resetCondOf_kept hs1) hs1
  clear_value s2
  exact Kept.ite (staleWindow_kept hs2) hs2

theorem freshOwnSlot_kept {e s} (K : Kept b0 s) : Kept b0 (freshOwnSlot e s) := by
  unfold freshOwnSlot; exact Kept.ite (freshSlot_kept K) K

theorem applyCommit_kept {e s00} (K : Kept b0 s00) : Kept b0 (applyCommit e s00) := by
  unfold applyCommit
  extract_lets +onlyGivenNames s0
  have hs0 : Kept b0 s0 := moveCommit_kept K
  clear_value s0
  have h1 : Kept b0 { s0 with
      cfg := { s0.cfg with user := commitInto e s0.cfg.user }
      poll := { s0.poll with commits := dropFirst (fun c => c == e) s0.poll.commits } } :=
    Kept.cfg hs0 (wf_commitInto hs0.user_wf) hs0.fallback_wf hs0.status_wf
  revert h1
  generalize { s0 with
      cfg := { s0.cfg with user := commitInto e s0.cfg.user }
      poll := { s0.poll with commits := dropFirst (fun c => c == e) s0.poll.commits } } = s
  intro hs
  extract_lets +onlyGivenNames _ s1
  have hs1 : Kept b0 s1 := setEcr_kept (freshEndpoint_kept hs)
  clear_value s1
  extract_lets +onlyGivenNames s2
  have hs2 : Kept b0 s2 := validateEp_kept (purgeHeld_kept (freshOwnSlot_kept hs1))
  clear_value s2
  exact Kept.ite hs1 (Kept.ite (dispatch_kept (sortRuns_kept (addDue_kept hs2))) hs2)

theorem dropVolatile_kept {s} (K : Kept b0 s) : Kept b0 (dropVolatile s) := by
  unfold dropVolatile
  refine ⟨K.pending, K.uid, K.counter, K.slots, ?_, ?_, K.inv.keys⟩
  · have := K.inv.memories; simp only [memoriesWf, Bool.and_eq_true] at this ⊢; exact ⟨this.1, rfl⟩
  · have := K.inv.counts
    simp only [shape, specShape, List.cons.injEq] at *
    simp [zeroBank_slots, this]

theorem beginWake_kept {s} (K : Kept b0 s) : Kept b0 (beginWake s) := by
  unfold beginWake
  extract_lets +onlyGivenNames latch
  have hlatch {ch} {s} (hs' : Kept b0 s) : Kept b0 (latch ch s) := by
    dsimp -zeta only [latch]
    exact setStatWord_kept hs'
  clear_value latch
  extract_lets +onlyGivenNames s1
  have hs1 : Kept b0 s1 := hlatch (hlatch K)
  clear_value s1
  exact grant_kept (Kept.upd hs1)

theorem sealHub_kept {sBefore} (K : Kept b0 sBefore) : Kept b0 (sealHub sBefore) := by
  unfold sealHub
  extract_lets +onlyGivenNames s00
  have hs00 : Kept b0 s00 := grants_kept K
  clear_value s00
  extract_lets +onlyGivenNames s0
  have hs0 : Kept b0 s0 := Kept.foldl (fun _ _ h2 => applyCommit_kept h2) hs00
  clear_value s0
  extract_lets +onlyGivenNames _ s
  have hs : Kept b0 s := loseLock_kept (Kept.ite (applyStaged_kept hs0) hs0)
  clear_value s
  extract_lets +onlyGivenNames s1
  have hs1 : Kept b0 s1 := Kept.foldl (fun _ _ h2 => setEstat_kept h2) hs
  clear_value s1
  extract_lets +onlyGivenNames s2
  have hs2 : Kept b0 s2 := setMode_kept (dropVolatile_kept hs1)
  clear_value s2
  extract_lets +onlyGivenNames _ _ s3
  have hs3 : Kept b0 s3 := Kept.upd hs2
  clear_value s3
  exact Kept.ite (beginWake_kept (Kept.upd hs3)) hs3

theorem effStabledSeal_kept {s} (K : Kept b0 s) : Kept b0 (effStabledSeal s) := by
  unfold effStabledSeal; exact Kept.ite (adapting_kept (fun _ h2 => sealHub_kept h2) K) K

theorem effPwrHoldDrop_kept {s} (K : Kept b0 s) : Kept b0 (effPwrHoldDrop s) := by
  unfold effPwrHoldDrop; exact Kept.ite (grant_kept (Kept.upd K)) K

theorem causeBits_kept {src feo s} (K : Kept b0 s) : Kept b0 (causeBits src feo s) := by
  unfold causeBits
  extract_lets +onlyGivenNames c
  exact Kept.upd K

theorem firstSource_kept {src s} (K : Kept b0 s) : Kept b0 (firstSource src s) := by
  unfold firstSource; exact Kept.upd K

theorem fireWake_kept {src feo s} (K : Kept b0 s) : Kept b0 (fireWake src feo s) := by
  unfold fireWake
  extract_lets +onlyGivenNames s1
  have hs1 : Kept b0 s1 := grants_kept K
  clear_value s1
  split
  · exact K
  · exact Kept.ite (by
        extract_lets +onlyGivenNames s11
        have hs11 : Kept b0 s11 := causeBits_kept (Kept.ite hs1 (firstSource_kept hs1))
        clear_value s11
        exact Kept.upd hs11) K
  · exact beginWake_kept (causeBits_kept (firstSource_kept hs1))
  · exact causeBits_kept hs1

theorem effWakeDominantEdge_kept {ch s} (K : Kept b0 s) : Kept b0 (effWakeDominantEdge ch s) := by
  unfold effWakeDominantEdge; exact Kept.ite (fireWake_kept K) K

theorem watchFrame_kept {ch f s} (K : Kept b0 s) : Kept b0 (watchFrame ch f s) := by
  unfold watchFrame; exact Kept.ite (modCan_kept K) K

theorem effWakeFrame_kept {ch f s} (K : Kept b0 s) : Kept b0 (effWakeFrame ch f s) := by
  unfold effWakeFrame; exact Kept.ite (fireWake_kept (watchFrame_kept K)) K

theorem effWakeFrameErrorOverflow_kept {ch s} (K : Kept b0 s) : Kept b0 (effWakeFrameErrorOverflow ch s) := by
  unfold effWakeFrameErrorOverflow; exact Kept.ite (fireWake_kept K) K

theorem effWakePinEdge_kept {rising s} (K : Kept b0 s) : Kept b0 (effWakePinEdge rising s) := by
  unfold effWakePinEdge; exact Kept.ite (fireWake_kept K) K

theorem effWakeReinCs_kept {s} (K : Kept b0 s) : Kept b0 (effWakeReinCs s) := by
  unfold effWakeReinCs
  extract_lets +onlyGivenNames _ s1
  have hs1 : Kept b0 s1 := Kept.ite (Kept.upd K) K
  clear_value s1
  exact Kept.ite (fireWake_kept hs1) hs1

theorem effWakeTimer_kept {s} (K : Kept b0 s) : Kept b0 (effWakeTimer s) := by
  unfold effWakeTimer; exact Kept.ite (fireWake_kept K) K

theorem effWakeTargetEntry_kept {suppliesLow s} (K : Kept b0 s) : Kept b0 (effWakeTargetEntry suppliesLow s) := by
  unfold effWakeTargetEntry
  exact Kept.ite (by
      extract_lets +onlyGivenNames _ _ _ s1
      have hs1 : Kept b0 s1 := grants_kept (Kept.upd K)
      clear_value s1
      extract_lets +onlyGivenNames s2
      have hs2 : Kept b0 s2 := hardwareEntry_kept (enterMode_kept hs1)
      clear_value s2
      exact firstBoundary_kept (Kept.ite (endFault_kept hs2) (Kept.ite hs2 (logFault_kept hs2)))) K

theorem exit_konly_kept {s} (K : Kept b0 s) :
    Kept b0 { s with mode := { s.mode with farrierExit := false, konly := !s.tack.usrOk && !s.tack.fbOk } } := Kept.upd K

theorem reloadProfiles_kept {s} (K : Kept b0 s) : Kept b0 (reloadProfiles s) := by
  unfold reloadProfiles
  exact resetCond_kept (exit_konly_kept (loadProfiles_kept (clearSelects_kept (clearStatuses_kept K))))

theorem effFarrierExitReload_kept {s} (K : Kept b0 s) : Kept b0 (effFarrierExitReload s) := by
  unfold effFarrierExitReload
  split
  · extract_lets +onlyGivenNames s1
    have hs1 : Kept b0 s1 := reloadProfiles_kept K
    clear_value s1
    exact Kept.ite (enterMode_kept hs1) (hardwareEntry_kept (enterMode_kept hs1))
  · exact K

theorem effEpochPulseEnd_kept {s} (K : Kept b0 s) : Kept b0 (effEpochPulseEnd s) := by
  unfold effEpochPulseEnd; exact Kept.upd K

theorem advance_kept {t s} (K : Kept b0 s) : Kept b0 (advance t s) := by
  unfold advance; exact Kept.ite K (Kept.ite (Kept.upd K) (Kept.upd K))

theorem effHubTimeWrap_kept {s} (K : Kept b0 s) : Kept b0 (effHubTimeWrap s) := by
  unfold effHubTimeWrap; exact Kept.ite (advance_kept K) K

theorem dropNotRun_kept {ix s} (K : Kept b0 s) : Kept b0 (dropNotRun ix s) := by
  unfold dropNotRun
  extract_lets +onlyGivenNames late
  exact Kept.foldl (fun _ _ h0 => (missRun_kept h0)) (Kept.upd K)

theorem finishFill_kept {s} (K : Kept b0 s) : Kept b0 (finishFill s) := by
  unfold finishFill
  exact Kept.ite (by
      extract_lets +onlyGivenNames _ s1
      have hs1 : Kept b0 s1 := modBank_kept (grants_kept K)
      clear_value s1
      exact Kept.upd hs1) K

theorem recEpoch_kept {mode crcv clipped skipped guard skip number crc cutoff s} (K : Kept b0 s) : Kept b0 (recEpoch mode crcv clipped skipped guard skip number crc cutoff s) := by
  unfold recEpoch; exact tapAppend_kept K

theorem skipEpoch_kept {e s0} (K : Kept b0 s0) : Kept b0 (skipEpoch e s0) := by
  unfold skipEpoch
  extract_lets +onlyGivenNames s
  have hs : Kept b0 s := grants_kept (finishFill_kept K)
  clear_value s
  extract_lets +onlyGivenNames _ _ _ _ s1
  have hs1 : Kept b0 s1 := modBank_kept (Kept.upd hs)
  clear_value s1
  exact recEpoch_kept hs1

theorem reactToFailure_kept {code s} (K : Kept b0 s) : Kept b0 (reactToFailure code s) := by
  unfold reactToFailure
  split
  · split
    · exact Kept.ite (opEnd_kept (endReplay_kept K)) K
    · exact Kept.ite (opEnd_kept K) K
    · exact K
  · exact Kept.ite (toLeadRein_kept (Kept.ite K (parkFailed_kept K))) (Kept.ite (parkFailed_kept K) K)

theorem dropTap_kept {s} (K : Kept b0 s) : Kept b0 (dropTap s) := by
  unfold dropTap; exact Kept.ite (Kept.upd K) K

theorem dropUnit_kept {u code s} (K : Kept b0 s) : Kept b0 (dropUnit u code s) := by
  unfold dropUnit; exact Kept.ite K (reactToFailure_kept (dropTap_kept (setDropped_kept K)))

theorem snapUncorrectable_kept {off s} (K : Kept b0 s) : Kept b0 (snapUncorrectable off s) := by
  unfold snapUncorrectable
  extract_lets +onlyGivenNames det _ s1
  have hs1 : Kept b0 s1 := logFault_kept (Kept.upd K)
  clear_value s1
  exact Kept.ite (dropUnit_kept (logFault_kept hs1)) hs1

theorem countPost_kept {s} (K : Kept b0 s) : Kept b0 (countPost s) := by
  unfold countPost; exact Kept.ite (Kept.ite (freeze_kept K) (Kept.upd K)) K

theorem recCommitted_kept {k crcv s} (K : Kept b0 s) : Kept b0 (recCommitted k crcv s) := by
  unfold recCommitted; exact recEpoch_kept K

theorem releasePin_kept {s} (K : Kept b0 s) : Kept b0 (releasePin s) := by
  unfold releasePin; exact Kept.upd K

theorem expirePin_kept {s} (K : Kept b0 s) : Kept b0 (expirePin s) := by
  unfold expirePin
  exact Kept.ite K (by
      extract_lets +onlyGivenNames s1
      have hs1 : Kept b0 s1 := releasePin_kept K
      clear_value s1
      exact grants_kept (attend_kept (Kept.upd hs1)))

theorem commitBank_kept {e s0} (K : Kept b0 s0) : Kept b0 (commitBank e s0) := by
  unfold commitBank
  extract_lets +onlyGivenNames s
  have hs : Kept b0 s := finishFill_kept K
  clear_value s
  extract_lets +onlyGivenNames _ _ s1
  have hs1 : Kept b0 s1 := modBank_kept hs
  clear_value s1
  extract_lets +onlyGivenNames _ s2
  have hs2 : Kept b0 s2 := Kept.upd hs1
  clear_value s2
  extract_lets +onlyGivenNames _ _ s3
  have hs3 : Kept b0 s3 := grants_kept (attend_kept (Kept.upd hs2))
  clear_value s3
  extract_lets +onlyGivenNames s4
  have hs4 : Kept b0 s4 := Kept.ite (countPost_kept (recCommitted_kept hs3)) hs3
  clear_value s4
  exact Kept.ite (Kept.ite (expirePin_kept hs4) (Kept.upd hs4)) hs4

theorem buildPub_kept {ch i s} (K : Kept b0 s) : Kept b0 (buildPub ch i s) := by
  unfold buildPub
  extract_lets +onlyGivenNames _ _
  split
  · exact grants_kept (countWord_kept (putItem_kept K ‹_›))
  · exact canEvent_kept (countWord_kept (markDrop_kept K))

theorem losePub_kept {ch i off s} (K : Kept b0 s) : Kept b0 (losePub ch i off s) := by
  unfold losePub; exact canEvent_kept (countWord_kept (logFault_kept K))

theorem publishOn_kept {ch e bad s} (K : Kept b0 s) : Kept b0 (publishOn ch e bad s) := by
  unfold publishOn
  extract_lets +onlyGivenNames _
  refine Kept.ite (Kept.foldl (fun _ _ h3 => Kept.ite ?_ h3) (grants_kept K)) K
  split
  · exact losePub_kept h3
  · exact buildPub_kept h3

theorem publish_kept {e bad s} (K : Kept b0 s) : Kept b0 (publish e bad s) := by
  unfold publish; exact publishOn_kept (publishOn_kept K)

theorem cutoff_kept {e ecc s0} (K : Kept b0 s0) : Kept b0 (cutoff e ecc s0) := by
  unfold cutoff
  extract_lets +onlyGivenNames s
  have hs : Kept b0 s := dropNotRun_kept (Kept.upd K)
  clear_value s
  have h1 : Kept b0 (if unitFailed 17 s then { s with time := { s.time with ended := none } }
      else match ecc.staging with
        | some off => skipEpoch e (snapUncorrectable off s)
        | none => if s.snap.recovering then skipEpoch e s
          else if sleeping (commitBank e s) then commitBank e s
          else publish (commitBank e s).snap.epoch.toNat ecc.builds (commitBank e s)) := by
    refine Kept.ite (Kept.upd hs) ?_
    split
    · exact skipEpoch_kept (snapUncorrectable_kept hs)
    · exact Kept.ite (skipEpoch_kept hs) (Kept.ite (commitBank_kept hs) (publish_kept (commitBank_kept hs)))
  exact Kept.ite h1 (cancelLanes_kept h1)

theorem userUncorrectable_kept {w s0} (K : Kept b0 s0) : Kept b0 (userUncorrectable w s0) := by
  unfold userUncorrectable
  extract_lets +onlyGivenNames _ s
  have hs : Kept b0 s := logFault_kept (Kept.upd K)
  clear_value s
  exact Kept.ite (toLeadRein_kept hs) hs

theorem configUncorrectable_kept {w s} (K : Kept b0 s) : Kept b0 (configUncorrectable w s) := by
  unfold configUncorrectable
  exact Kept.ite (adapting_kept (fun _ h => stopRuns_kept (Kept.upd (logFault_kept h))) K) (userUncorrectable_kept K)

theorem effSnapshotCommit_kept {ecc s} (K : Kept b0 s) : Kept b0 (effSnapshotCommit ecc s) := by
  unfold effSnapshotCommit
  split
  · exact K
  · refine Kept.ite K ?_
    split
    · exact configUncorrectable_kept (cutoff_kept K)
    · exact cutoff_kept K

theorem effForwardFillEnd_kept {s} (K : Kept b0 s) : Kept b0 (effForwardFillEnd s) := by
  unfold effForwardFillEnd; exact finishFill_kept K

theorem effBankCrcWritten_kept {s} (K : Kept b0 s) : Kept b0 (effBankCrcWritten s) := by
  unfold effBankCrcWritten
  extract_lets +onlyGivenNames b
  split
  · exact K
  · extract_lets +onlyGivenNames s1
    have hs1 : Kept b0 s1 := modBank_kept K
    clear_value s1
    exact countPost_kept (recCommitted_kept hs1)

theorem snapPinWrite_kept {v s0} (K : Kept b0 s0) : Kept b0 (snapPinWrite v s0).s := by
  unfold snapPinWrite
  extract_lets +onlyGivenNames _ _ s
  have hs : Kept b0 s := grants_kept (Kept.upd K)
  clear_value s
  exact Kept.iteR (Kept.iteR (denied_kept hs) (wrote_kept (Kept.upd hs))) (wrote_kept (releasePin_kept hs))

theorem effSnapPinSet_kept {tmo clearLost s} (K : Kept b0 s) : Kept b0 (effSnapPinSet tmo clearLost s) := by
  unfold effSnapPinSet
  extract_lets +onlyGivenNames v
  exact writeRow_kept (fun _ h => snapPinWrite_kept h) K

theorem effSnapPinRelease_kept {tmo clearLost s} (K : Kept b0 s) : Kept b0 (effSnapPinRelease tmo clearLost s) := by
  unfold effSnapPinRelease
  extract_lets +onlyGivenNames v
  exact writeRow_kept (fun _ h => snapPinWrite_kept h) K

theorem effSnapPinExpiry_kept {s} (K : Kept b0 s) : Kept b0 (effSnapPinExpiry s) := by
  unfold effSnapPinExpiry; exact Kept.ite K (expirePin_kept K)

theorem effBoryelLockLossTimeout_kept {s} (K : Kept b0 s) : Kept b0 (effBoryelLockLossTimeout s) := by
  unfold effBoryelLockLossTimeout; exact Kept.ite K (loseLock_kept K)

theorem effBoryelLeadResume_kept {s} (K : Kept b0 s) : Kept b0 (effBoryelLeadResume s) := by
  unfold effBoryelLeadResume; exact Kept.ite (settleLead_kept (Kept.upd K)) K

theorem winDone_kept {w r} (hr : Kept b0 r.s) : Kept b0 (winDone w r).s := by
  unfold winDone
  split
  · exact hr
  · extract_lets +onlyGivenNames src
    have hsrc : Kept b0 src := hr
    clear_value src
    exact Kept.upd hsrc

theorem answer_kept {v s} (K : Kept b0 s) : Kept b0 (answer v s).s := by
  unfold answer; exact K

theorem shows_kept {v s} (K : Kept b0 s) : Kept b0 (shows v s).s := by
  unfold shows; exact answer_kept K

theorem readEpochHi_kept {s} (K : Kept b0 s) : Kept b0 (readEpochHi s).s := by
  unfold readEpochHi; exact answer_kept (Kept.upd K)

theorem moveSelfTest_kept {s} (K : Kept b0 s) : Kept b0 (moveSelfTest s) := by
  unfold moveSelfTest
  split
  · extract_lets +onlyGivenNames _
    exact Kept.ite (drawn_kept (opProgress_kept K)) K
  · exact K

theorem moveOp_kept {s} (K : Kept b0 s) : Kept b0 (moveOp s) := by
  unfold moveOp; exact moveSelfTest_kept (moveCommit_kept K)

theorem readKernelReg_kept {a s} (K : Kept b0 s) : Kept b0 (readKernelReg a s).s := by
  unfold readKernelReg
  split
  · exact shows_kept K
  · exact shows_kept K
  · exact shows_kept K
  · exact shows_kept K
  · exact shows_kept K
  · exact shows_kept K
  · exact shows_kept K
  · exact shows_kept K
  · exact shows_kept K
  · exact shows_kept (moveOp_kept K)
  · exact shows_kept K
  · exact shows_kept K
  · exact shows_kept K
  · exact shows_kept K
  · exact shows_kept K
  · exact shows_kept K
  · exact shows_kept K
  · exact shows_kept K
  · exact shows_kept K
  · exact shows_kept K
  · exact shows_kept K
  · exact shows_kept K
  · exact shows_kept K
  · exact shows_kept K
  · exact shows_kept K
  · exact readEpochHi_kept K
  · exact shows_kept K
  · exact shows_kept K
  · exact shows_kept K
  · exact shows_kept K
  · exact shows_kept K
  · exact shows_kept K
  · exact shows_kept K
  · exact shows_kept K
  · exact shows_kept K
  · exact shows_kept K
  · exact shows_kept K
  · exact shows_kept K
  · exact shows_kept K
  · exact shows_kept K
  · exact shows_kept K
  · exact shows_kept K
  · exact denied_kept K

theorem readRxq_kept {ch q stallOk s} (K : Kept b0 s) : Kept b0 (readRxq ch q stallOk s).s := by
  unfold readRxq
  split
  · extract_lets +onlyGivenNames _
    exact answer_kept (modQueue_kept (grant_kept (modCan_kept K)))
  · split
    · exact answer_kept (takeShadow_kept K ‹_›)
    · exact Kept.iteR (answer_kept (Kept.upd K)) (answer_kept K)

theorem readCanReg_kept {ch r stallOk s} (K : Kept b0 s) : Kept b0 (readCanReg ch r stallOk s).s := by
  unfold readCanReg
  split
  · exact shows_kept K
  · exact answer_kept (Kept.upd K)
  · exact shows_kept K
  · exact shows_kept K
  · exact readRxq_kept K
  · exact readRxq_kept K
  · exact shows_kept K
  · exact shows_kept K

theorem countCorr_kept {s} (K : Kept b0 s) : Kept b0 (countCorr s) := by
  unfold countCorr; exact Kept.upd K

theorem poisonRead_kept {q s} (K : Kept b0 s) : Kept b0 (poisonRead q s) := by
  unfold poisonRead
  split
  · exact K
  · extract_lets +onlyGivenNames _ _ s1
    have hs1 : Kept b0 s1 := modQueue_kept K
    clear_value s1
    extract_lets +onlyGivenNames _ s2
    have hs2 : Kept b0 s2 := Kept.upd hs1
    clear_value s2
    exact logFault_kept hs2

theorem readEcc_kept {q ecc s} (K : Kept b0 s) : Kept b0 (readEcc q ecc s) := by
  unfold readEcc
  split
  · exact K
  · exact countCorr_kept K
  · exact poisonRead_kept K

theorem readWord_kept {q ecc s0} (K : Kept b0 s0) : Kept b0 (readWord q ecc s0).s := by
  unfold readWord
  extract_lets +onlyGivenNames s
  have hs : Kept b0 s := readEcc_kept K
  clear_value s
  split
  · exact denied_kept hs
  · extract_lets +onlyGivenNames _ s1
    have hs1 : Kept b0 s1 := modQueue_kept hs
    clear_value s1
    exact answer_kept (grants_kept hs1)

theorem readQueue_kept {q stallOk ecc s} (K : Kept b0 s) : Kept b0 (readQueue q stallOk ecc s).s := by
  unfold readQueue
  exact Kept.iteR (denied_kept K) (Kept.iteR (readWord_kept K) (by
      split
      · exact answer_kept (hostDequeued_kept K)
      · exact Kept.iteR (answer_kept (Kept.upd K)) (answer_kept K)))

theorem readQueueReg_kept {a stallOk ecc s} (K : Kept b0 s) : Kept b0 (readQueueReg a stallOk ecc s).s := by
  unfold readQueueReg
  extract_lets +onlyGivenNames q x
  split
  · exact shows_kept K
  · exact shows_kept K
  · exact shows_kept K
  · exact shows_kept K
  · exact shows_kept K
  · exact shows_kept K
  · exact shows_kept K
  · exact shows_kept K
  · exact readQueue_kept K
  · exact shows_kept K
  · exact shows_kept K
  · exact shows_kept K
  · exact shows_kept K
  · exact shows_kept K
  · exact shows_kept K
  · exact shows_kept K

theorem readHubTime_kept {s} (K : Kept b0 s) : Kept b0 (readHubTime s).s := by
  unfold readHubTime
  extract_lets +onlyGivenNames t
  exact answer_kept (Kept.upd K)

theorem readDivHi_kept {s} (K : Kept b0 s) : Kept b0 (readDivHi s).s := by
  unfold readDivHi; exact answer_kept (Kept.upd K)

theorem readOtherReg_kept {a stallOk ecc s} (K : Kept b0 s) : Kept b0 (readOtherReg a stallOk ecc s).s := by
  unfold readOtherReg
  exact Kept.iteR (shows_kept K) (Kept.iteR (shows_kept K) (Kept.iteR (shows_kept K) (Kept.iteR (shows_kept K) (by
      split
      · exact shows_kept K
      · exact readHubTime_kept K
      · exact shows_kept K
      · exact shows_kept K
      · exact shows_kept K
      · exact shows_kept K
      · exact shows_kept K
      · exact shows_kept K
      · exact shows_kept K
      · exact shows_kept K
      · exact shows_kept K
      · exact shows_kept K
      · exact shows_kept K
      · exact shows_kept K
      · exact shows_kept K
      · exact readDivHi_kept K
      · exact shows_kept K
      · exact readQueue_kept K
      · exact shows_kept K
      · exact shows_kept K
      · exact shows_kept K
      · exact denied_kept K))))

theorem readReg_kept {a stallOk ecc s} (K : Kept b0 s) : Kept b0 (readReg a stallOk ecc s).s := by
  unfold readReg; exact Kept.iteR (denied_kept K) (Kept.iteR (readKernelReg_kept K) (Kept.iteR (readCanReg_kept K) (Kept.iteR (readCanReg_kept K) (Kept.iteR (readQueueReg_kept K) (readOtherReg_kept K)))))

theorem cfgRegion_kept {w ecc s} (K : Kept b0 s) : Kept b0 (cfgRegion w ecc s).s := by
  unfold cfgRegion
  split
  · exact Kept.iteR (shows_kept K) (answer_kept (userUncorrectable_kept (drawn_kept K)))
  · exact shows_kept K

theorem bankRead_kept {b o ecc s} (K : Kept b0 s) : Kept b0 (bankRead b o ecc s).s := by
  unfold bankRead
  split
  · exact denied_kept K
  · split
    · exact denied_kept (logFault_kept K)
    · exact shows_kept K

theorem scrubPoison_kept {cell word s} (K : Kept b0 s) : Kept b0 (scrubPoison cell word s) := by
  unfold scrubPoison
  split
  · exact K
  · extract_lets +onlyGivenNames _ s1
    have hs1 : Kept b0 s1 := modQueue_kept K
    clear_value s1
    exact logFault_kept (Kept.upd hs1)

theorem rawAccess_kept {b o s} (K : Kept b0 s) : Kept b0 (rawAccess b o s) := by
  unfold rawAccess; exact grants_kept K

theorem rawPoison_kept {o s} (K : Kept b0 s) : Kept b0 (rawPoison o s) := by
  unfold rawPoison
  extract_lets +onlyGivenNames s1
  have hs1 : Kept b0 s1 := scrubPoison_kept K
  clear_value s1
  exact Kept.upd hs1

theorem rawRead_kept {o ecc s} (K : Kept b0 s) : Kept b0 (rawRead o ecc s).s := by
  unfold rawRead
  extract_lets +onlyGivenNames s1
  have hs1 : Kept b0 s1 := rawAccess_kept K
  clear_value s1
  split
  · exact denied_kept (rawPoison_kept hs1)
  · exact shows_kept (countCorr_kept hs1)
  · exact shows_kept hs1

theorem windowRead_kept {w s} (K : Kept b0 s) : Kept b0 (windowRead w s).s := by
  unfold windowRead
  split
  · exact Kept.iteR (answer_kept (countWord_kept (readCached_kept K ‹_›))) (denied_kept K)
  · exact Kept.iteR (answer_kept (startFill_kept (countWord_kept (Kept.upd K)))) (denied_kept (stickS_kept K))

theorem readRegion_kept {w ecc s} (K : Kept b0 s) : Kept b0 (readRegion w ecc s).s := by
  unfold readRegion; exact Kept.iteR (shows_kept K) (Kept.iteR (cfgRegion_kept K) (Kept.iteR (shows_kept K) (Kept.iteR (bankRead_kept K) (Kept.iteR (bankRead_kept K) (Kept.iteR (rawRead_kept K) (Kept.iteR (answer_kept (Kept.upd K)) (Kept.iteR (windowRead_kept K) (denied_kept K))))))))

theorem pinRead_kept {i s} (K : Kept b0 s) : Kept b0 (pinRead i s).s := by
  unfold pinRead; exact answer_kept (Kept.ite (drawn_kept K) K)

theorem winReadAt_kept {w ecc s} (K : Kept b0 s) : Kept b0 (winReadAt w ecc s).s := by
  unfold winReadAt; exact Kept.iteR (Kept.iteR (denied_kept K) (readReg_kept K)) (Kept.iteR (denied_kept K) (Kept.iteR (shows_kept K) (Kept.iteR (Kept.iteR (pinRead_kept K) (shows_kept K)) (Kept.iteR (shows_kept K) (Kept.iteR (readRegion_kept K) (denied_kept K))))))

theorem winDataRead_kept {ecc s} (K : Kept b0 s) : Kept b0 (winDataRead ecc s).s := by
  unfold winDataRead; exact winDone_kept (winReadAt_kept K)

theorem hostRead_kept {a stallOk ecc s} (K : Kept b0 s) : Kept b0 (hostRead a stallOk ecc s) := by
  unfold hostRead; exact intoReply_kept (Kept.iteR (winDataRead_kept (hostAt_kept K)) (readReg_kept (hostAt_kept K)))

theorem modeStatWrite_kept {v s} (K : Kept b0 s) : Kept b0 (modeStatWrite v s) := by
  unfold modeStatWrite; exact Kept.upd K

theorem closeHost_kept {s} (K : Kept b0 s) : Kept b0 (closeHost s) := by
  unfold closeHost
  split
  · exact K
  · split
    · exact K
    · split
      · exact abandonItem_kept K
      · extract_lets +onlyGivenNames s1
        have hs1 : Kept b0 s1 := closeItem_kept K
        clear_value s1
        exact Kept.ite (loadTarget_kept hs1) hs1

theorem closeHostData_kept {s} (K : Kept b0 s) : Kept b0 (closeHostData s) := by
  unfold closeHostData; exact Kept.ite (closeHost_kept K) K

theorem beginOp_kept {code job s} (K : Kept b0 s) : Kept b0 (beginOp code job s) := by
  unfold beginOp; exact Kept.upd K

theorem scanFrom_kept {port next last ten total probed s} (K : Kept b0 s) : Kept b0 (scanFrom port next last ten total probed s) := by
  unfold scanFrom
  split
  · exact endOp_kept K
  · exact opProgress_kept (Kept.upd K)

theorem startScan_kept {port a last ten s} (K : Kept b0 s) : Kept b0 (startScan port a last ten s) := by
  unfold startScan; exact scanFrom_kept (beginOp_kept (Kept.lists K (by simp)))

theorem drainWaits_kept {on s} (K : Kept b0 s) : Kept b0 (drainWaits on s) := by
  unfold drainWaits
  extract_lets +onlyGivenNames rest
  exact Kept.upd K

theorem releaseBlock_kept {cur s} (K : Kept b0 s) : Kept b0 (releaseBlock cur s) := by
  unfold releaseBlock; exact Kept.ite (grants_kept (modQueue_kept K)) K

theorem drainMoved_kept {blocks out keep s} (K : Kept b0 s) : Kept b0 (drainMoved blocks out keep s) := by
  unfold drainMoved
  split
  · exact opProgress_kept (Kept.upd K)
  · exact K

theorem putCellItems_kept {n bs s} (K : Kept b0 s) : Kept b0 (putCellItems n bs s) := by
  induction n generalizing bs s with
  | zero => exact K
  | succ n ih =>
    unfold putCellItems; refine ih ?_
    cases e : putItem 49 .drain 0 (bs.take 64) 0 s with
    | none => exact K
    | some t => exact putItem_kept K e

theorem pumpDrain_kept {n s} (h : Kept b0 s) : Kept b0 (pumpDrain n s) := by
  induction n generalizing s with
  | zero => exact h
  | succ n ih =>
    unfold pumpDrain; split
    · split
      · exact h
      · split
        · next t e =>
          have ht : Kept b0 t.2 := by
            split at e
            · cases e
            · exact takeItem_kept h e
          split
          · exact ih (drainMoved_kept ht)
          · dsimp only
            split
            · exact ih (drainMoved_kept (putCellItems_kept ht))
            · exact drainWaits_kept h
        · exact Kept.ite (drainMoved_kept h) (Kept.ite (drainMoved_kept (putCellItems_kept h)) (drainWaits_kept h))
    · exact h

theorem runDrain_kept {s} (K : Kept b0 s) : Kept b0 (runDrain s) := by
  unfold runDrain; exact pumpDrain_kept (drainWaits_kept K)

theorem startDrain_kept {toFlash addr s0} (K : Kept b0 s0) : Kept b0 (startDrain toFlash addr s0) := by
  unfold startDrain
  extract_lets +onlyGivenNames s
  have hs : Kept b0 s := closeBlock_kept K
  clear_value s
  extract_lets +onlyGivenNames items total s1
  have hs1 : Kept b0 s1 := beginOp_kept hs
  clear_value s1
  exact Kept.ite (invalidateCache_kept hs1) (runDrain_kept hs1)

theorem startFlush_kept {q byHost byOp s} (K : Kept b0 s) : Kept b0 (startFlush q byHost byOp s) := by
  unfold startFlush; exact grants_kept (modQueue_kept K)

theorem settleHold_kept {p s} (K : Kept b0 s) : Kept b0 (settleHold p s) := by
  unfold settleHold
  split
  · exact Kept.ite (releaseSelect_kept K) K
  · exact K

theorem flushQueue_kept {q byHost byOp s} (K : Kept b0 s) : Kept b0 (flushQueue q byHost byOp s) := by
  unfold flushQueue
  extract_lets +onlyGivenNames s1
  have hs1 : Kept b0 s1 := startFlush_kept K
  clear_value s1
  exact Kept.ite (settleHold_kept hs1) hs1

theorem startFlushOp_kept {mask s} (K : Kept b0 s) : Kept b0 (startFlushOp mask s) := by
  unfold startFlushOp
  extract_lets +onlyGivenNames _
  exact Kept.foldl (fun _ _ h2 => flushQueue_kept h2) (beginOp_kept K)

theorem replayProgress_kept {s} (K : Kept b0 s) : Kept b0 (replayProgress s) := by
  unfold replayProgress
  split
  · exact Kept.ite (opProgress_kept K) (opProgress_kept K)
  · exact K

theorem loadTime_kept {k m s} (K : Kept b0 s) : Kept b0 (loadTime k m s) := by
  unfold loadTime
  extract_lets +onlyGivenNames b period h g lock
  exact Kept.upd K

theorem renewWindow_kept {n s} (K : Kept b0 s) : Kept b0 (renewWindow n s) := by
  unfold renewWindow
  extract_lets +onlyGivenNames rest
  exact Kept.upd K

theorem allWindows_kept {s} (K : Kept b0 s) : Kept b0 (allWindows s) := by
  unfold allWindows; exact Kept.foldl (fun _ _ h0 => (Kept.ite (renewWindow_kept h0) h0)) K

theorem loadStatus_kept {e s} (K : Kept b0 s) : Kept b0 (loadStatus e s) := by
  unfold loadStatus; exact Kept.cfg K K.user_wf K.fallback_wf (wf_writeBytes (wf_clear K.status_wf))

theorem loadEntries_kept {due es s0} (K : Kept b0 s0) : Kept b0 (loadEntries due es s0) := by
  unfold loadEntries
  have h1 : Kept b0 (es.foldl (fun s e => loadStatus e s)
      { s0 with cfg := { s0.cfg with status := Memory.clear s0.cfg.status 0x10000 0x4000 } }) :=
    Kept.foldl (fun _ _ h => loadStatus_kept h) (Kept.cfg K K.user_wf K.fallback_wf (wf_clear K.status_wf))
  exact Kept.lists h1 (by simp)

theorem loadBanks_kept {k es s} (K : Kept b0 s) : Kept b0 (loadBanks k es s) := by
  unfold loadBanks
  exact modBank_kept (Kept.upd K) (by intro _ _; simp [kfSlots])

theorem loadKeyframe_kept {k s0} (K : Kept b0 s0) : Kept b0 (loadKeyframe k s0) := by
  unfold loadKeyframe
  split
  · exact adapting_kept (fun _ h2 => by
        extract_lets +onlyGivenNames _ _ _ s1
        have hs1 : Kept b0 s1 := loadTime_kept (Kept.upd h2)
        clear_value s1
        extract_lets +onlyGivenNames s2
        have hs2 : Kept b0 s2 := allWindows_kept (loadEntries_kept (loadBanks_kept hs1))
        clear_value s2
        exact dueRuns_kept (settleAhead_kept (startEpoch_kept hs2))) K
  · exact K

theorem loaderWaits_kept {cells s} (K : Kept b0 s) : Kept b0 (loaderWaits cells s) := by
  unfold loaderWaits
  extract_lets +onlyGivenNames rest
  exact Kept.upd K

theorem loadFails_kept {e why s} (K : Kept b0 s) : Kept b0 (loadFails e why s) := by
  unfold loadFails; exact Kept.upd K

theorem passUnits_kept {r s} (K : Kept b0 s) : Kept b0 (passUnits r s) := by
  unfold passUnits; exact Kept.upd K

theorem scanTrace_kept {n s} (h : Kept b0 s) : Kept b0 (scanTrace n s) := by
  induction n generalizing s with
  | zero => exact h
  | succ n ih =>
    unfold scanTrace; split
    · exact h
    · exact loadFails_kept h
    · exact loadFails_kept h
    · split
      · split
        · exact Kept.ite (loadFails_kept h) h
        · exact loadFails_kept h
        · exact Kept.ite (Kept.upd h) (loadFails_kept h)
      · split
        · exact h
        · dsimp only
          refine ih ?_
          generalize hs : passUnits _ s = s1
          have h1 : Kept b0 s1 := hs ▸ passUnits_kept h
          exact Kept.upd h1

theorem endLoader_kept {e s} (K : Kept b0 s) : Kept b0 (endLoader e s) := by
  unfold endLoader; exact Kept.upd K

theorem joinVerdicts_kept {r s} (K : Kept b0 s) : Kept b0 (joinVerdicts r s) := by
  unfold joinVerdicts; exact Kept.ite (Kept.upd K) K

theorem supplyTrace_kept {n s} (h : Kept b0 s) : Kept b0 (supplyTrace n s) := by
  induction n generalizing s with
  | zero => exact h
  | succ n ih =>
    unfold supplyTrace; split
    · exact h
    · exact endLoader_kept h
    · split
      · exact h
      · split
        · exact loaderWaits_kept h
        · exact ih (passUnits_kept (joinVerdicts_kept (putItem_kept h ‹_›)))

theorem runLoader_kept {s0} (K : Kept b0 s0) : Kept b0 (runLoader s0) := by
  unfold runLoader
  extract_lets +onlyGivenNames s
  have hs : Kept b0 s := loaderWaits_kept K
  clear_value s
  exact Kept.ite hs (by
      extract_lets +onlyGivenNames _ s1
      have hs1 : Kept b0 s1 := Kept.ite (scanTrace_kept hs) hs
      clear_value s1
      exact Kept.ite (by
          extract_lets +onlyGivenNames s2
          have hs2 : Kept b0 s2 := supplyTrace_kept hs1
          clear_value s2
          exact Kept.ite (dispatch_kept hs2) hs2) hs1)

theorem consumeBytes_kept {taken seq s} (K : Kept b0 s) : Kept b0 (consumeBytes taken seq s) := by
  unfold consumeBytes
  extract_lets +onlyGivenNames all back s1
  have hs1 : Kept b0 s1 := emptyQueue_kept K
  clear_value s1
  exact runLoader_kept (Kept.upd hs1)

theorem takeFrontKeyframe_kept {s} (K : Kept b0 s) : Kept b0 (takeFrontKeyframe s) := by
  unfold takeFrontKeyframe
  split
  · exact replayProgress_kept (loadKeyframe_kept (consumeBytes_kept K))
  · exact K

theorem beginReplay_kept {epochs s0} (K : Kept b0 s0) : Kept b0 (beginReplay epochs s0) := by
  unfold beginReplay
  have hs : Kept b0 (beginOp 9 (.replay epochs) s0) := beginOp_kept K
  generalize beginOp 9 (.replay epochs) s0 = s at hs
  exact takeFrontKeyframe_kept (Kept.lists hs (by simp))

theorem startFlash_kept {addr erase data s0} (K : Kept b0 s0) : Kept b0 (startFlash addr erase data s0) := by
  unfold startFlash
  extract_lets +onlyGivenNames s
  have hs : Kept b0 s := invalidateCache_kept (beginOp_kept (emptyQueue_kept K))
  clear_value s
  exact Kept.ite (startEnable_kept hs) (endOp_kept hs)

theorem startProbe_kept {ep s0} (K : Kept b0 s0) : Kept b0 (startProbe ep s0) := by
  unfold startProbe
  extract_lets +onlyGivenNames s
  have hs : Kept b0 s := beginOp_kept K
  clear_value s
  split
  · exact endOp_kept hs
  · exact setStatByte_kept (startAttempt_kept (modLane_kept hs))

theorem startOp_kept {code s} (K : Kept b0 s) : Kept b0 (startOp code s) := by
  unfold startOp
  extract_lets +onlyGivenNames _ _
  split
  · exact beginOp_kept (grant_kept K)
  · exact startScan_kept K
  · exact beginOp_kept K
  · exact beginOp_kept (grant_kept K)
  · exact startDrain_kept K
  · exact startFlushOp_kept K
  · exact keyframeDue_kept (beginOp_kept K)
  · exact beginReplay_kept K
  · exact startFlash_kept K
  · exact startProbe_kept K

theorem requestAbort_kept {s} (K : Kept b0 s) : Kept b0 (requestAbort s) := by
  unfold requestAbort
  exact Kept.ite (Kept.upd K) (by
      split
      · exact Kept.ite (Kept.upd K) K
      · exact K)

theorem opStart_kept {code s} (K : Kept b0 s) : Kept b0 (opStart code s).s := by
  unfold opStart
  split
  · extract_lets +onlyGivenNames _ s1
    have hs1 : Kept b0 s1 := Kept.upd K
    clear_value s1
    exact denied_kept (Kept.ite (tackFail_kept hs1) hs1)
  · exact wrote_kept (startOp_kept K)

theorem validateProbe_kept {s} (K : Kept b0 s) : Kept b0 (validateProbe s) := by
  unfold validateProbe
  extract_lets +onlyGivenNames _
  exact Kept.ite K (Kept.ite (passValidation_kept K) (failValidation_kept K))

theorem opCmdWrite_kept {v s0} (K : Kept b0 s0) : Kept b0 (opCmdWrite v s0).s := by
  unfold opCmdWrite
  extract_lets +onlyGivenNames s
  have hs : Kept b0 s := closeHostData_kept K
  clear_value s
  extract_lets +onlyGivenNames _
  exact Kept.iteR (wrote_kept (requestAbort_kept hs)) (Kept.iteR (wrote_kept hs) (opStart_kept (Kept.ite (validateProbe_kept hs) hs)))

theorem writeWindowReg_kept {a v s} (K : Kept b0 s) : Kept b0 (writeWindowReg a v s).s := by
  unfold writeWindowReg
  extract_lets +onlyGivenNames w
  exact Kept.iteR (wrote_kept (Kept.upd K)) (Kept.iteR (Kept.iteR (denied_kept K) (wrote_kept (Kept.upd K))) (wrote_kept (Kept.upd K)))

theorem snapStatWrite_kept {v s} (K : Kept b0 s) : Kept b0 (snapStatWrite v s) := by
  unfold snapStatWrite; exact Kept.upd K

theorem authOpWrite_kept {win v s0} (K : Kept b0 s0) : Kept b0 (authOpWrite win v s0).s := by
  unfold authOpWrite
  extract_lets +onlyGivenNames s
  have hs : Kept b0 s := closeHostData_kept K
  clear_value s
  exact Kept.iteR (denied_kept K) (Kept.iteR (wrote_kept hs) (wrote_kept (Kept.upd hs)))

theorem tackStatWrite_kept {v s} (K : Kept b0 s) : Kept b0 (tackStatWrite v s) := by
  unfold tackStatWrite; exact Kept.upd K

theorem ignored_kept {s} (K : Kept b0 s) : Kept b0 (ignored s).s := by
  unfold ignored; exact wrote_kept K

theorem writeKernelReg_kept {a v s} (K : Kept b0 s) : Kept b0 (writeKernelReg a v s).s := by
  unfold writeKernelReg
  split
  · exact wrote_kept (Kept.upd K)
  · exact wrote_kept (Kept.upd K)
  · exact modeReqWrite_kept K
  · exact wrote_kept (modeStatWrite_kept K)
  · exact wrote_kept (Kept.upd K)
  · exact opCmdWrite_kept K
  · exact wrote_kept (Kept.upd K)
  · exact wrote_kept (Kept.upd K)
  · exact wrote_kept (Kept.upd K)
  · exact wrote_kept (Kept.upd K)
  · exact writeWindowReg_kept K
  · exact writeWindowReg_kept K
  · exact writeWindowReg_kept K
  · exact wrote_kept (grant_kept (Kept.upd K))
  · exact wrote_kept (snapStatWrite_kept K)
  · exact snapPinWrite_kept K
  · exact Kept.iteR (denied_kept K) (wrote_kept (Kept.upd K))
  · exact wrote_kept (grant_kept (Kept.upd K))
  · exact wrote_kept (Kept.upd K)
  · exact authOpWrite_kept K
  · exact wrote_kept (Kept.upd K)
  · exact wrote_kept (Kept.upd K)
  · exact wrote_kept (Kept.upd K)
  · exact wrote_kept (Kept.upd K)
  · exact wrote_kept (Kept.upd K)
  · exact wrote_kept (Kept.upd K)
  · exact wrote_kept (Kept.upd K)
  · exact wrote_kept (Kept.upd K)
  · exact wrote_kept (tackStatWrite_kept K)
  · exact Kept.iteR (ignored_kept K) (denied_kept K)

theorem canCtrlWrite_kept {ch v s} (K : Kept b0 s) : Kept b0 (canCtrlWrite ch v s).s := by
  unfold canCtrlWrite
  extract_lets +onlyGivenNames _ _ s1
  have hs1 : Kept b0 s1 := modCan_kept (grants_kept K)
  clear_value s1
  exact Kept.iteR (Kept.iteR (settleLead_kept (startCan_kept (modCan_kept hs1))) (refuseStart_kept hs1)) (settleCans_kept (modCan_kept hs1))

theorem refuseTx_kept {ch v s} (K : Kept b0 s) : Kept b0 (refuseTx ch v s).s := by
  unfold refuseTx; exact denied_kept (canEvent_kept (modCan_kept K))

theorem markNoSpace_kept {q s} (K : Kept b0 s) : Kept b0 (markNoSpace q s) := by
  unfold markNoSpace; exact modQueue_kept K

theorem growTx_kept {ch v o s} (K : Kept b0 s) : Kept b0 (growTx ch v o s) := by
  unfold growTx
  extract_lets +onlyGivenNames _
  exact Kept.ite (writeOpen_kept (modCan_kept K)) (by
      extract_lets +onlyGivenNames _
      exact grants_kept (closeItem_kept (modCan_kept K)))

theorem txdataWrite_kept {ch v s} (K : Kept b0 s) : Kept b0 (txdataWrite ch v s).s := by
  unfold txdataWrite
  extract_lets +onlyGivenNames _ _
  exact Kept.iteR (denied_kept (modCan_kept K)) (Kept.iteR (denied_kept K) (by
      split
      · exact wrote_kept (growTx_kept K)
      · extract_lets +onlyGivenNames _ _
        exact Kept.iteR (refuseTx_kept K) (by
            split
            · exact refuseTx_kept (markNoSpace_kept K)
            · exact wrote_kept (growTx_kept (reserve_kept K ‹_›)))))

theorem writeCanReg_kept {ch r v s} (K : Kept b0 s) : Kept b0 (writeCanReg ch r v s).s := by
  unfold writeCanReg
  split
  · exact canCtrlWrite_kept K
  · exact wrote_kept (modCan_kept K)
  · exact txdataWrite_kept K
  · exact ignored_kept K

theorem qmSelWrite_kept {v s} (K : Kept b0 s) : Kept b0 (qmSelWrite v s).s := by
  unfold qmSelWrite
  extract_lets +onlyGivenNames s1
  have hs1 : Kept b0 s1 := closeHost_kept K
  clear_value s1
  extract_lets +onlyGivenNames q _ s2
  have hs2 : Kept b0 s2 := Kept.upd hs1
  clear_value s2
  exact Kept.iteR (wrote_kept (Kept.upd hs2)) hs2

theorem qmCfgWrite_kept {v s} (K : Kept b0 s) : Kept b0 (qmCfgWrite v s).s := by
  unfold qmCfgWrite
  extract_lets +onlyGivenNames q x n cap enOk prioOk capOk
  exact modQueue_kept K

theorem qmRsvWrite_kept {v s} (K : Kept b0 s) : Kept b0 (qmRsvWrite v s).s := by
  unfold qmRsvWrite
  extract_lets +onlyGivenNames q x r others
  exact Kept.iteR (wrote_kept (modQueue_kept K)) (denied_kept K)

theorem qmClose_kept {s} (K : Kept b0 s) : Kept b0 (qmClose s) := by
  unfold qmClose
  extract_lets +onlyGivenNames s1
  have hs1 : Kept b0 s1 := closeHost_kept K
  clear_value s1
  exact modQueue_kept hs1

theorem endRead_kept {q s} (K : Kept b0 s) : Kept b0 (endRead q s) := by
  unfold endRead; exact Kept.ite (grant_kept (modCan_kept K)) (Kept.ite (grant_kept (modCan_kept K)) (Kept.ite (grant_kept (modCan_kept K)) (Kept.ite (grant_kept (modCan_kept K)) (Kept.ite K (grant_kept (modQueue_kept K))))))

theorem qmStatWrite_kept {v s} (K : Kept b0 s) : Kept b0 (qmStatWrite v s).s := by
  unfold qmStatWrite
  extract_lets +onlyGivenNames q n s1
  have hs1 : Kept b0 s1 := modQueue_kept K
  clear_value s1
  split
  · exact hs1
  · extract_lets +onlyGivenNames s2
    have hs2 : Kept b0 s2 := Kept.ite (qmClose_kept hs1) hs1
    clear_value s2
    exact wrote_kept (Kept.ite (endRead_kept hs2) hs2)

theorem growHost_kept {q v s0} (K : Kept b0 s0) : Kept b0 (growHost q v s0) := by
  unfold growHost
  extract_lets +onlyGivenNames _ s
  have hs : Kept b0 s := Kept.upd K
  clear_value s
  exact grant_kept (writeOpen_kept hs)

theorem enqWrite_kept {v s} (K : Kept b0 s) : Kept b0 (enqWrite v s).s := by
  unfold enqWrite
  extract_lets +onlyGivenNames q
  split
  · exact denied_kept K
  · split
    · extract_lets +onlyGivenNames s1
      have hs1 : Kept b0 s1 := growHost_kept K
      clear_value s1
      exact wrote_kept (Kept.ite (closeHost_kept hs1) hs1)
    · split
      · exact denied_kept (markNoSpace_kept K)
      · exact wrote_kept (growHost_kept (reserve_kept K ‹_›))

theorem flushWrite_kept {s} (K : Kept b0 s) : Kept b0 (flushWrite s).s := by
  unfold flushWrite; exact Kept.iteR (denied_kept K) (wrote_kept (flushQueue_kept K))

theorem qmEccWrite_kept {v s} (K : Kept b0 s) : Kept b0 (qmEccWrite v s) := by
  unfold qmEccWrite
  extract_lets +onlyGivenNames n
  exact Kept.upd K

theorem writeQueueReg_kept {a v s} (K : Kept b0 s) : Kept b0 (writeQueueReg a v s).s := by
  unfold writeQueueReg
  extract_lets +onlyGivenNames q
  split
  · exact qmSelWrite_kept K
  · exact qmCfgWrite_kept K
  · exact qmRsvWrite_kept K
  · exact wrote_kept (modQueue_kept K)
  · exact wrote_kept (modQueue_kept K)
  · exact qmStatWrite_kept K
  · exact wrote_kept (modQueue_kept K)
  · exact enqWrite_kept K
  · exact Kept.iteR (flushWrite_kept K) (wrote_kept K)
  · exact wrote_kept (Kept.upd K)
  · exact wrote_kept (Kept.upd K)
  · exact wrote_kept (qmEccWrite_kept K)
  · exact ignored_kept K

theorem tbStatWrite_kept {v s} (K : Kept b0 s) : Kept b0 (tbStatWrite v s) := by
  unfold tbStatWrite; exact Kept.upd K

theorem byCtrlWrite_kept {v s} (K : Kept b0 s) : Kept b0 (byCtrlWrite v s) := by
  unfold byCtrlWrite
  extract_lets +onlyGivenNames _ s1
  have hs1 : Kept b0 s1 := Kept.upd K
  clear_value s1
  exact Kept.ite hs1 (loseLock_kept hs1)

theorem byStatWrite_kept {v s} (K : Kept b0 s) : Kept b0 (byStatWrite v s) := by
  unfold byStatWrite; exact Kept.upd K

theorem tapArmNow_kept {s} (K : Kept b0 s) : Kept b0 (tapArmNow s) := by
  unfold tapArmNow; exact Kept.upd K

theorem tapCtrlWrite_kept {v s0} (K : Kept b0 s0) : Kept b0 (tapCtrlWrite v s0).s := by
  unfold tapCtrlWrite
  extract_lets +onlyGivenNames _ s
  have hs : Kept b0 s := Kept.upd K
  clear_value s
  split
  · exact hs
  · extract_lets +onlyGivenNames s1
    have hs1 : Kept b0 s1 := Kept.ite (tapArmNow_kept hs) hs
    clear_value s1
    exact wrote_kept (Kept.ite (freeze_kept hs1) hs1)

theorem tapStatWrite_kept {v s} (K : Kept b0 s) : Kept b0 (tapStatWrite v s) := by
  unfold tapStatWrite; exact Kept.upd K

theorem rplCtrlWrite_kept {v s0} (K : Kept b0 s0) : Kept b0 (rplCtrlWrite v s0).s := by
  unfold rplCtrlWrite
  extract_lets +onlyGivenNames _ s
  have hs : Kept b0 s := Kept.upd K
  clear_value s
  exact Kept.iteR (Kept.iteR hs (wrote_kept (Kept.upd hs))) (wrote_kept hs)

theorem writeOtherReg_kept {a v s} (K : Kept b0 s) : Kept b0 (writeOtherReg a v s).s := by
  unfold writeOtherReg
  refine Kept.iteR (wrote_kept (modSPort_kept K)) (Kept.iteR (wrote_kept (modIPort_kept K)) (Kept.iteR (wrote_kept (modTPort_kept K))
    (Kept.iteR (wrote_kept (Kept.lists K (by simp))) ?_)))
  split
  · exact wrote_kept (tbStatWrite_kept K)
  · exact wrote_kept (byCtrlWrite_kept K)
  · exact wrote_kept (byStatWrite_kept K)
  · exact wrote_kept (Kept.upd K)
  · exact tapCtrlWrite_kept K
  · exact wrote_kept (tapStatWrite_kept K)
  · exact wrote_kept (Kept.upd K)
  · exact wrote_kept (Kept.upd K)
  · exact rplCtrlWrite_kept K
  · exact wrote_kept (Kept.upd K)
  · exact wrote_kept (Kept.upd K)
  · exact Kept.iteR (ignored_kept K) (denied_kept K)

end Sys2Proof.Laws
end

