-- ==== Sys2Proof/Laws/Kept3.lean ====
section
/-! SUPPORT. What every operation of the model keeps, part 3 of 4: one lemma for each, in the order of use. -/

namespace Sys2Proof.Laws

set_option Elab.async false

open Sys2Proof.Machine Sys2Proof.Safety

variable {b0 : State}

theorem writeReg_kept {a v s} (K : Kept b0 s) : Kept b0 (writeReg a v s).s := by
  unfold writeReg; exact Kept.iteR (writeKernelReg_kept K) (Kept.iteR (writeCanReg_kept K) (Kept.iteR (writeCanReg_kept K) (Kept.iteR (writeQueueReg_kept K) (writeOtherReg_kept K))))

theorem mpWrite_kept {o v s} (K : Kept b0 s) : Kept b0 (mpWrite o v s).s := by
  unfold mpWrite
  extract_lets +onlyGivenNames p n
  split
  · exact wrote_kept (Kept.upd K)
  · exact wrote_kept (Kept.upd K)
  · exact wrote_kept (Kept.upd K)
  · extract_lets +onlyGivenNames r
    exact Kept.upd K
  · extract_lets +onlyGivenNames r
    exact Kept.upd K
  · exact wrote_kept (Kept.upd K)
  · exact wrote_kept (Kept.upd K)
  · exact Kept.iteR (denied_kept K) (wrote_kept (Kept.upd K))
  · exact wrote_kept (Kept.upd K)
  · exact ignored_kept K

theorem recordPinRefusal_kept {i why s} (K : Kept b0 s) : Kept b0 (recordPinRefusal i why s) := by
  unfold recordPinRefusal; exact Kept.upd K

theorem pmPinWrite_kept {i v s} (K : Kept b0 s) : Kept b0 (pmPinWrite i v s).s := by
  unfold pmPinWrite
  split
  · extract_lets +onlyGivenNames s1
    have hs1 : Kept b0 s1 := modPin_kept K
    clear_value s1
    exact wrote_kept (Kept.ite (grant_kept hs1) hs1)
  · extract_lets +onlyGivenNames s1
    have hs1 : Kept b0 s1 := recordPinRefusal_kept K
    clear_value s1
    exact Kept.iteR (modPin_kept hs1) (Kept.iteR (modPin_kept hs1) (denied_kept hs1))

theorem pinCtrlWrite_kept {o v s} (K : Kept b0 s) : Kept b0 (pinCtrlWrite o v s).s := by
  unfold pinCtrlWrite
  extract_lets +onlyGivenNames n
  split
  · exact wrote_kept (Kept.upd K)
  · split
    · exact Kept.iteR (denied_kept K) (wrote_kept (Kept.upd K))
    · split
      · extract_lets +onlyGivenNames _ s1
        have hs1 : Kept b0 s1 := Kept.upd K
        clear_value s1
        exact Kept.iteR hs1 (wrote_kept (Kept.upd hs1))
      · exact Kept.iteR (wrote_kept (Kept.upd K)) (Kept.iteR (wrote_kept (Kept.upd K)) (wrote_kept K))

theorem wctrlWrite_kept {v s} (K : Kept b0 s) : Kept b0 (wctrlWrite v s).s := by
  unfold wctrlWrite
  have h1 : Kept b0 (invalidateCache { s with cfg := { s.cfg with user := (writeCfg s.cfg.user 0x2A00 v.toNat).1 } }) :=
    invalidateCache_kept (Kept.cfg K (wf_writeCfg K.user_wf) K.fallback_wf K.status_wf)
  exact Kept.iteR (Kept.iteR (denied_kept h1) (startSfdp_kept (modSPort_kept h1))) h1

theorem ptFail_kept {p res s} (K : Kept b0 s) : Kept b0 (ptFail p res s) := by
  unfold ptFail; exact stickI_kept (setPtStat_kept (modIPort_kept K))

theorem ptCtlWrite_kept {p v s} (K : Kept b0 s) : Kept b0 (ptCtlWrite p v s).s := by
  unfold ptCtlWrite
  have h1 := fun a => Kept.cfg (t := { s with cfg := { s.cfg with user := (writeCfg s.cfg.user a v.toNat).1 } }) K
    (wf_writeCfg K.user_wf) K.fallback_wf K.status_wf
  exact Kept.iteR (Kept.iteR (denied_kept (h1 _)) (Kept.iteR (wrote_kept (ptFail_kept (h1 _)))
    (wrote_kept (startPt_kept (grant_kept (modIPort_kept (h1 _))))))) (wrote_kept (h1 _))

theorem clearSstat_kept {w s} (K : Kept b0 s) : Kept b0 (clearSstat w s) := by
  unfold clearSstat
  extract_lets +onlyGivenNames o
  exact Kept.ite (setStatWord_kept K) K

theorem cfgWrite_kept {w v s0} (K : Kept b0 s0) : Kept b0 (cfgWrite w v s0).s := by
  unfold cfgWrite
  extract_lets +onlyGivenNames s
  have hs : Kept b0 s := grants_kept (moveCommit_kept K)
  clear_value s
  refine Kept.iteR (wctrlWrite_kept hs) (Kept.iteR (ptCtlWrite_kept hs) ?_)
  have h1 : Kept b0 (adapting (fun x => { x with cfg := { x.cfg with user := (writeCfg s.cfg.user w v.toNat).1 } }) s) :=
    adapting_kept (fun _ h => Kept.cfg h (wf_writeCfg hs.user_wf) h.fallback_wf h.status_wf) hs
  exact clearSstat_kept (Kept.ite (invalidateCache_kept h1) h1)

theorem setItemByte_kept {o v s} (K : Kept b0 s) : Kept b0 (setItemByte o v s) := by
  unfold setItemByte
  split
  · exact modQueue_kept K
  · exact K

theorem rawSet_kept {o v s0} (K : Kept b0 s0) : Kept b0 (rawSet o v s0) := by
  unfold rawSet
  extract_lets +onlyGivenNames s
  have hs : Kept b0 s := setItemByte_kept K
  clear_value s
  exact Kept.ram hs (wf_write hs.ram_wf)

theorem rawWrite_kept {o v s} (K : Kept b0 s) : Kept b0 (rawWrite o v s).s := by
  unfold rawWrite
  extract_lets +onlyGivenNames s1
  have hs1 : Kept b0 s1 := rawAccess_kept K
  clear_value s1
  exact wrote_kept (rawSet_kept (rawSet_kept hs1))

theorem winWriteAt_kept {w v s} (K : Kept b0 s) : Kept b0 (winWriteAt w v s).s := by
  unfold winWriteAt; exact Kept.iteR (denied_kept K) (Kept.iteR (Kept.iteR (denied_kept K) (Kept.iteR (authOpWrite_kept K) (writeReg_kept K))) (Kept.iteR (denied_kept K) (Kept.iteR (mpWrite_kept K) (Kept.iteR (Kept.iteR (pmPinWrite_kept K) (ignored_kept K)) (Kept.iteR (pinCtrlWrite_kept K) (Kept.iteR (cfgWrite_kept K) (rawWrite_kept K)))))))

theorem goodWinWrite_kept {w v r} (hr : Kept b0 r.s) : Kept b0 (goodWinWrite w v r) := by
  unfold goodWinWrite; exact endIfDisabled_kept (recRein_kept (writeReply_kept hr))

theorem hostWinWrite_kept {v s} (K : Kept b0 s) : Kept b0 (hostWinWrite v s) := by
  unfold hostWinWrite
  extract_lets +onlyGivenNames _ r
  have hr : Kept b0 r.s := winDone_kept (winWriteAt_kept (hostAt_kept K))
  clear_value r
  exact Kept.ite (writeReply_kept hr) (goodWinWrite_kept hr)

theorem hostWriteReg_kept {a v s} (K : Kept b0 s) : Kept b0 (hostWriteReg a v s).s := by
  unfold hostWriteReg; exact Kept.iteR (refusedInReplay_kept K) (writeReg_kept (hostAt_kept K))

theorem hostWrite_kept {a v s} (K : Kept b0 s) : Kept b0 (hostWrite a v s) := by
  unfold hostWrite
  split
  · exact hostWinWrite_kept K
  · extract_lets +onlyGivenNames r
    have hr : Kept b0 r.s := hostWriteReg_kept K
    clear_value r
    exact Kept.ite (writeReply_kept hr) (goodWrite_kept hr)

theorem goodFrame_kept {bytes ecc s} (K : Kept b0 s) : Kept b0 (goodFrame bytes ecc s) := by
  unfold goodFrame
  extract_lets +onlyGivenNames b0 a
  exact Kept.ite (hostRead_kept K) (hostWrite_kept K)

theorem receiveFrame_kept {bytes edges ecc s} (K : Kept b0 s) : Kept b0 (receiveFrame bytes edges ecc s) := by
  unfold receiveFrame
  extract_lets +onlyGivenNames alv
  split
  · exact Kept.upd K
  · split
    · exact Kept.upd K
    · extract_lets +onlyGivenNames _ s1
      have hs1 : Kept b0 s1 := Kept.upd K
      clear_value s1
      exact Kept.ite (Kept.upd hs1) (goodFrame_kept hs1)

theorem sendReply_kept {edges s} (K : Kept b0 s) : Kept b0 (sendReply edges s) := by
  unfold sendReply; exact Kept.upd K

theorem effReinFrame_kept {bytes edges gap ecc t s0} (K : Kept b0 s0) : Kept b0 (effReinFrame bytes edges gap ecc t s0) := by
  unfold effReinFrame
  extract_lets +onlyGivenNames s
  have hs : Kept b0 s := advance_kept K
  clear_value s
  exact Kept.ite hs (Kept.ite (Kept.upd hs) (Kept.ite (Kept.upd hs) (receiveFrame_kept (sendReply_kept (hostAt_kept hs)))))

theorem effRegisterWrite_kept {a v t s0} (K : Kept b0 s0) : Kept b0 (effRegisterWrite a v t s0) := by
  unfold effRegisterWrite
  extract_lets +onlyGivenNames s
  have hs : Kept b0 s := advance_kept K
  clear_value s
  exact Kept.ite (hostWrite_kept hs) hs

theorem effWinDataRead_kept {ecc t s0} (K : Kept b0 s0) : Kept b0 (effWinDataRead ecc t s0) := by
  unfold effWinDataRead
  extract_lets +onlyGivenNames s
  have hs : Kept b0 s := advance_kept K
  clear_value s
  exact Kept.ite (hostRead_kept hs) hs

theorem effWinDataWrite_kept {v t s0} (K : Kept b0 s0) : Kept b0 (effWinDataWrite v t s0) := by
  unfold effWinDataWrite
  extract_lets +onlyGivenNames s
  have hs : Kept b0 s := advance_kept K
  clear_value s
  exact Kept.ite (hostWrite_kept hs) hs

theorem effLatchingRead_kept {r t s0} (K : Kept b0 s0) : Kept b0 (effLatchingRead r t s0) := by
  unfold effLatchingRead
  extract_lets +onlyGivenNames s
  have hs : Kept b0 s := advance_kept K
  clear_value s
  exact Kept.ite (hostRead_kept hs) hs

theorem endSlow_kept {v adre s} (K : Kept b0 s) : Kept b0 (endSlow v adre s) := by
  unfold endSlow; exact Kept.upd K

theorem effSlowReadComplete_kept {ecc s} (K : Kept b0 s) : Kept b0 (effSlowReadComplete ecc s) := by
  unfold effSlowReadComplete
  split
  · exact K
  · split
    · extract_lets +onlyGivenNames r
      have hr : Kept b0 r.2 := tackRead_kept (grant_kept K) rfl
      clear_value r
      exact endSlow_kept hr
    · split
      · exact endSlow_kept (grant_kept (readCached_kept K ‹_›))
      · exact K

theorem effSlowReadTimeout_kept {s} (K : Kept b0 s) : Kept b0 (effSlowReadTimeout s) := by
  unfold effSlowReadTimeout; exact Kept.ite (endSlow_kept K) K

theorem effStallTimeout_kept {s} (K : Kept b0 s) : Kept b0 (effStallTimeout s) := by
  unfold effStallTimeout; exact Kept.ite (grant_kept (Kept.upd K)) K

theorem readRow_kept {a f s} (hf : ∀ x0, Kept b0 x0 → Kept b0 (f x0).s) (K : Kept b0 s) : Kept b0 (readRow a f s) := by
  unfold readRow; exact Kept.ite (intoReply_kept (Kept.iteR (denied_kept K) (hf _ (hostAt_kept K)))) K

theorem effQmDataRead_kept {stallOk ecc t s} (K : Kept b0 s) : Kept b0 (effQmDataRead stallOk ecc t s) := by
  unfold effQmDataRead; exact readRow_kept (fun _ h0 => (readQueue_kept h0)) (advance_kept K)

theorem effEvqDataRead_kept {stallOk ecc t s} (K : Kept b0 s) : Kept b0 (effEvqDataRead stallOk ecc t s) := by
  unfold effEvqDataRead; exact readRow_kept (fun _ h => readQueue_kept h) (advance_kept K)

theorem effQmEnqWrite_kept {v s} (K : Kept b0 s) : Kept b0 (effQmEnqWrite v s) := by
  unfold effQmEnqWrite; exact writeRow_kept (fun _ h => enqWrite_kept h) K

theorem effQmSelWrite_kept {v s} (K : Kept b0 s) : Kept b0 (effQmSelWrite v s) := by
  unfold effQmSelWrite; exact writeRow_kept (fun _ h => qmSelWrite_kept h) K

theorem effQmClose_kept {s} (K : Kept b0 s) : Kept b0 (effQmClose s) := by
  unfold effQmClose; exact writeRow_kept (fun _ h => qmStatWrite_kept h) K

theorem effQmDisc_kept {s} (K : Kept b0 s) : Kept b0 (effQmDisc s) := by
  unfold effQmDisc; exact writeRow_kept (fun _ h => qmStatWrite_kept h) K

theorem grantTo_kept {w s} (K : Kept b0 s) : Kept b0 (grantTo w s) := by
  unfold grantTo
  split
  · exact runDrain_kept K
  · exact runLoader_kept K
  · split
    · exact K
    · exact Kept.upd (reserve_kept K ‹_›)

theorem effReservationGrant_kept {q s} (K : Kept b0 s) : Kept b0 (effReservationGrant q s) := by
  unfold effReservationGrant
  split
  · exact K
  · exact Kept.ite K (grantTo_kept K)

theorem effQmFlushGo_kept {s} (K : Kept b0 s) : Kept b0 (effQmFlushGo s) := by
  unfold effQmFlushGo; exact writeRow_kept (fun _ h => flushWrite_kept h) K

theorem finishFlush_kept {q s0} (K : Kept b0 s0) : Kept b0 (finishFlush q s0) := by
  unfold finishFlush
  split
  · exact K
  · extract_lets +onlyGivenNames s
    have hs : Kept b0 s := modQueue_kept K
    clear_value s
    split
    · split
      · extract_lets +onlyGivenNames r p src
        have hsrc : Kept b0 src := postFlushes_kept hs rfl
        clear_value src
        extract_lets +onlyGivenNames _ s1
        have hs1 : Kept b0 s1 := Kept.upd hsrc
        clear_value s1
        exact Kept.ite (endOp_kept hs1) (opProgress_kept hs1)
      · exact hs
    · exact hs

theorem effFlushEnd_kept {q s} (K : Kept b0 s) : Kept b0 (effFlushEnd q s) := by
  unfold effFlushEnd; exact Kept.ite (finishFlush_kept K) K

theorem countRxDrop_kept {ch s} (K : Kept b0 s) : Kept b0 (countRxDrop ch s) := by
  unfold countRxDrop; exact canEvent_kept (countCan_kept K)

theorem abortProducer_kept {q who s} (K : Kept b0 s) : Kept b0 (abortProducer q who s) := by
  unfold abortProducer
  split
  · exact modQueue_kept K
  · exact modQueue_kept (modCan_kept K)
  · exact countRxDrop_kept (modCan_kept K)
  · exact modSPort_kept (abortFrame_kept K)
  · split
    · exact Kept.ite (endOp_kept K) K
    · exact K
  · exact cancelSwitch_kept K
  · exact K
  · exact K
  · exact K
  · exact K
  · exact K

theorem abortDoomed_kept {q who s} (K : Kept b0 s) : Kept b0 (abortDoomed q who s) := by
  unfold abortDoomed; exact abortProducer_kept (countFlushDrop_kept (modQueue_kept K))

theorem effFlushAbortTimeout_kept {q s} (K : Kept b0 s) : Kept b0 (effFlushAbortTimeout q s) := by
  unfold effFlushAbortTimeout
  extract_lets +onlyGivenNames x
  exact Kept.ite (finishFlush_kept (Kept.foldl (fun _ _ h1 => (abortDoomed_kept h1)) K)) K

theorem dropHeldBlock_kept {s0} (K : Kept b0 s0) : Kept b0 (dropHeldBlock s0) := by
  unfold dropHeldBlock
  extract_lets +onlyGivenNames s
  have hs : Kept b0 s := modQueue_kept K
  clear_value s
  split
  · exact Kept.upd hs
  · exact hs

theorem loseEntry_kept {q place entry s} (K : Kept b0 s) : Kept b0 (loseEntry q place entry s) := by
  unfold loseEntry
  split
  · exact modQueue_kept K
  · exact Kept.ite (dropHeldBlock_kept K) (modQueue_kept K)
  · split
    · exact K
    · exact abortProducer_kept (modQueue_kept K)

theorem linkFault_kept {cell s} (K : Kept b0 s) : Kept b0 (linkFault cell s) := by
  unfold linkFault
  split
  · exact K
  · exact dropUnit_kept (logFault_kept (loseEntry_kept K))

theorem scrubOne_kept {s x} (K : Kept b0 s) : Kept b0 (scrubOne s x) := by
  unfold scrubOne
  split
  · exact countCorr_kept K
  · exact Kept.upd K
  · exact scrubPoison_kept K
  · exact linkFault_kept K

theorem effPoolScrub_kept {found t s0} (K : Kept b0 s0) : Kept b0 (effPoolScrub found t s0) := by
  unfold effPoolScrub
  extract_lets +onlyGivenNames s
  have hs : Kept b0 s := advance_kept K
  clear_value s
  exact Kept.ite (adapting_kept (fun _ h3 => Kept.foldl (fun _ _ h4 => scrubOne_kept h4) (grants_kept h3)) hs) hs

theorem winWriteRow_kept {w v f s} (hf : ∀ x, Kept b0 x → Kept b0 (f x).s) (h : Kept b0 s) : Kept b0 (winWriteRow w v f s) := by
  unfold winWriteRow; exact Kept.ite (goodWinWrite_kept (winDone_kept (Kept.iteR (hf _ (hostAt_kept h)) (denied_kept h)))) h

theorem effPmPinWrite_kept {i v s} (K : Kept b0 s) : Kept b0 (effPmPinWrite i v s) := by
  unfold effPmPinWrite; exact winWriteRow_kept (fun _ h => pmPinWrite_kept h) K

theorem effPinQuiesceDone_kept {i s} (K : Kept b0 s) : Kept b0 (effPinQuiesceDone i s) := by
  unfold effPinQuiesceDone; exact Kept.ite (beginTransit_kept K) K

theorem effPinQuiesceTimeout_kept {i s} (K : Kept b0 s) : Kept b0 (effPinQuiesceTimeout i s) := by
  unfold effPinQuiesceTimeout
  exact Kept.ite (beginTransit_kept (by
      split
      · exact abortPort_kept (Kept.ite (tornEntry_kept K) K)
      · exact K)) K

theorem effPinAttach_kept {i s} (K : Kept b0 s) : Kept b0 (effPinAttach i s) := by
  unfold effPinAttach; exact adapting_kept (fun _ h1 => attachPin_kept h1) K

theorem effCaptureEdge_kept {n rising t s0} (K : Kept b0 s0) : Kept b0 (effCaptureEdge n rising t s0) := by
  unfold effCaptureEdge
  extract_lets +onlyGivenNames s
  have hs : Kept b0 s := advance_kept K
  clear_value s
  split
  · exact hs
  · split
    · extract_lets +onlyGivenNames s1
      have hs1 : Kept b0 s1 := modPin_kept hs
      clear_value s1
      extract_lets old new _ s2
      have hs2 : Kept b0 s2 := Kept.lists hs1 (by dsimp only [core, s2]; split <;> rfl)
      clear_value s2
      exact Kept.ite (Kept.ite (tapTrigger_kept (attend_kept hs2)) (attend_kept hs2)) hs2
    · exact hs

theorem cutBank_kept {b s} (K : Kept b0 s) : Kept b0 (cutBank b s) := by
  unfold cutBank; exact Kept.foldl (fun _ _ h1 => Kept.ite h1 (Kept.ite (cutS_kept (tornEntry_kept h1)) (Kept.ite (Kept.foldl (fun _ _ h5 => Kept.ite (failAttempt_kept h5) h5) (cutI_kept h1)) h1))) K

theorem effBankSupplyLow_kept {banks t s0} (K : Kept b0 s0) : Kept b0 (effBankSupplyLow banks t s0) := by
  unfold effBankSupplyLow
  extract_lets +onlyGivenNames s
  have hs : Kept b0 s := advance_kept K
  clear_value s
  extract_lets +onlyGivenNames _
  exact Kept.ite hs (adapting_kept (fun _ h3 => by
      extract_lets +onlyGivenNames _ _ low
      have hlow : Kept b0 low := Kept.upd h3
      clear_value low
      extract_lets +onlyGivenNames s1
      have hs1 : Kept b0 s1 := Kept.ite hlow (logFault_kept hlow)
      clear_value s1
      exact Kept.foldl (fun _ _ h5 => Kept.ite (cutBank_kept h5) h5) hs1) hs)

theorem effBankSupplyReturn_kept {s} (K : Kept b0 s) : Kept b0 (effBankSupplyReturn s) := by
  unfold effBankSupplyReturn; exact Kept.ite K (adapting_kept (fun _ h0 => Kept.ite (Kept.upd h0) (endFault_kept (Kept.upd h0))) K)

theorem showDecision_kept {c result s0} (K : Kept b0 s0) : Kept b0 (showDecision c result s0) := by
  unfold showDecision
  extract_lets +onlyGivenNames s
  have hs : Kept b0 s := grants_kept (emptyQueue_kept (abandonItem_kept K))
  clear_value s
  exact recRein_kept (Kept.upd hs)

theorem rejectCommand_kept {c r} (K : Kept b0 r.2) : Kept b0 (rejectCommand c r) := by
  unfold rejectCommand
  extract_lets s _ s1
  have hs1 : Kept b0 s1 := attend_kept (Kept.upd (showDecision_kept K))
  clear_value s1
  exact Kept.ite (Kept.upd hs1) hs1

theorem storeCounter_kept {v s0} (K : Kept b0 s0) (hv : b0.tack.counter.toNat ≤ v.toNat) : Kept b0 (storeCounter v s0) := by
  unfold storeCounter
  extract_lets +onlyGivenNames s
  have hs : Kept b0 s := grant_kept K
  clear_value s
  have hm : Kept b0 { s with tack := { s.tack with counter := v } } :=
    ⟨hs.pending, hs.uid, hv, hs.slots, hs.inv.memories, hs.inv.counts, hs.inv.keys⟩
  refine Kept.mem hm (wf_writeBytes ?_)
  split
  · exact wf_clear hs.mem_wf
  · exact hs.mem_wf

theorem startSwitch_kept {area s0} (K : Kept b0 s0) : Kept b0 (startSwitch area s0) := by
  unfold startSwitch
  extract_lets +onlyGivenNames s
  have hs : Kept b0 s := grants_kept (cancelSwitch_kept K)
  clear_value s
  extract_lets +onlyGivenNames _ s1
  have hs1 : Kept b0 s1 := Kept.upd hs
  clear_value s1
  split
  · exact reserve_kept hs1 ‹_›
  · exact Kept.upd hs1

theorem startJob_kept {j s} (K : Kept b0 s) : Kept b0 (startJob j s) := by
  unfold startJob; exact Kept.upd K

theorem startCommit_kept {c s0} (K : Kept b0 s0) : Kept b0 (startCommit c s0) := by
  unfold startCommit
  extract_lets +onlyGivenNames s
  have hs : Kept b0 s := beginOp_kept K
  clear_value s
  extract_lets +onlyGivenNames area
  exact Kept.ite (opEnd_kept (tackFail_kept hs)) (startJob_kept hs)

theorem acceptCommit_kept {e s} (K : Kept b0 s) : Kept b0 (acceptCommit e s) := by
  unfold acceptCommit
  extract_lets +onlyGivenNames c
  exact setEcr_kept (Kept.upd K)

theorem startKeyLoad_held {c s} (K : Kept b0 s) (hk : (slotKey (c.arg 0) s).state ≠ 2) : Held b0 (startKeyLoad c s) := by
  unfold startKeyLoad
  refine ⟨K.pending, K.uid, K.counter, fun i k hi h2 => ?_, ⟨K.inv.memories, ?_, fun w k e => ?_⟩⟩
  · rw [← K.slots] at hi
    have hne : c.arg 0 ≠ i := by rintro rfl; apply hk; simp [slotKey, hi, h2]
    simpa [List.getElem?_set, hne] using hi
  · have := K.inv.counts; simpa [shape] using this
  · cases e; simp only [List.getElem?_set, if_true]; split <;> intro e <;> cases e; decide

theorem startLoader_kept {addr units s0} (K : Kept b0 s0) : Kept b0 (startLoader addr units s0) := by
  unfold startLoader
  extract_lets +onlyGivenNames s
  have hs : Kept b0 s := emptyQueue_kept (abandonItem_kept K)
  clear_value s
  exact Kept.upd hs

theorem runCommand_kept {c s} (K : Kept b0 s) (hc : c.opc ≠ 0x14) : Kept b0 (runCommand c s) := by
  unfold runCommand
  split
  · exact startSwitch_kept K
  · exact startCommit_kept K
  · exact acceptCommit_kept K
  · contradiction
  · exact enterMode_kept (cancelSwitch_kept (grants_kept K))
  · exact startJob_kept K
  · exact startLoader_kept K
  · exact Kept.upd K

theorem acceptCommand_kept {c s} (K : Kept s s) (hn : s.tack.counter.toNat < c.ctr.toNat) (hc : c.opc ≠ 0x14) :
    Kept s (acceptCommand c s) := by
  unfold acceptCommand; exact runCommand_kept (Kept.upd (showDecision_kept (storeCounter_kept K (Nat.le_of_lt hn)))) hc

theorem acceptCommand_held {c s} (K : Kept s s) (hn : s.tack.counter.toNat < c.ctr.toNat) (hc : c.opc = 0x14)
    (hk : (slotKey (c.arg 0) s).state ≠ 2) : Held s (acceptCommand c s) := by
  unfold acceptCommand runCommand
  simp only [hc]
  have h1 := showDecision_kept (c := c) (result := 1) (storeCounter_kept (v := c.ctr) K (Nat.le_of_lt hn))
  exact startKeyLoad_held (Kept.upd h1) (by simp only [slotKey, h1.slots]; exact hk)

theorem firstFailure_none {c rf s} (e : firstFailure c rf s = none) :
    s.tack.counter.toNat < c.ctr.toNat ∧ (c.opc = 0x14 → (slotKey (c.arg 0) s).state ≠ 2) := by
  unfold firstFailure at e; dsimp only at e
  repeat' (split at e; · cases e)
  next hn _ h _ =>
  refine ⟨by omega, fun hc => ?_⟩
  simp only [ownRefusal, hc] at h
  repeat' (split at h; · cases h)
  assumption

theorem decideCommand_kept {opc s} (K : Kept s s) (hc : opc ≠ 0x14) : Kept s (decideCommand opc s) := by
  unfold decideCommand
  split
  · exact K
  · split
    · next h =>
      split
      · exact rejectCommand_kept (firstFailure_kept K ‹_›)
      · exact acceptCommand_kept K (firstFailure_none ‹_›).1 (h.1 ▸ hc)
    · exact K

theorem decideCommand_held {opc s} (K : Kept s s) : Held s (decideCommand opc s) := by
  by_cases hc : opc = 0x14
  · unfold decideCommand
    split
    · exact K.held
    · split
      · next h =>
        split
        · exact (rejectCommand_kept (firstFailure_kept K ‹_›)).held
        · next e => exact acceptCommand_held K (firstFailure_none e).1 (h.1.trans hc) ((firstFailure_none e).2 (h.1.trans hc))
      · exact K.held
  · exact (decideCommand_kept K hc).held

theorem effProfileSelect_held {s} (K : Kept s s) : Held s (effProfileSelect s) := decideCommand_held K

theorem effProfileStagingDone_kept {s} (K : Kept b0 s) : Kept b0 (effProfileStagingDone s) := by
  unfold effProfileStagingDone
  extract_lets +onlyGivenNames _
  exact Kept.ite (by
      extract_lets +onlyGivenNames s1
      have hs1 : Kept b0 s1 := grants_kept K
      clear_value s1
      split
      · extract_lets +onlyGivenNames _ s11
        have hs11 : Kept b0 s11 := closeItem_kept hs1
        clear_value s11
        exact Kept.upd hs11
      · extract_lets +onlyGivenNames _ s11
        have hs11 : Kept b0 s11 := freeStaging_kept (Kept.upd hs1)
        clear_value s11
        exact Kept.ite (Kept.upd hs11) (Kept.upd hs11)) K

theorem effProfileExpansionEnd_kept {s} (K : Kept b0 s) : Kept b0 (effProfileExpansionEnd s) := by
  unfold effProfileExpansionEnd; exact Kept.ite (dueRuns_kept (applyStaged_kept K)) K

theorem effProfileCommit_held {s} (K : Kept s s) : Held s (effProfileCommit s) := decideCommand_held K

theorem failErase_kept {j s} (K : Kept b0 s) : Kept b0 (failErase j s) := by
  unfold failErase; exact scanCopies_kept (tackFail_kept (drawn_kept (tackWrite_kept (endJob_kept K))))

theorem effTackWriteJobDone_kept {out s} (K : Kept b0 s) : Kept b0 (effTackWriteJobDone out s) := by
  unfold effTackWriteJobDone
  split
  · exact K
  · exact Kept.ite K (Kept.ite (by
        split
        · exact scanCopies_kept (tackWrite_kept (endJob_kept K))
        · exact K
        · exact tackFail_kept (tearJob_kept K)) (by
        split
        · exact Kept.ite K (opEnd_kept (failErase_kept K))
        · extract_lets +onlyGivenNames s1
          have hs1 : Kept b0 s1 := moveCommit_kept K
          clear_value s1
          split
          · exact opEnd_kept (opPost_kept (scanCopies_kept (tackWrite_kept (endJob_kept hs1))))
          · exact hs1
        · extract_lets +onlyGivenNames s1
          have hs1 : Kept b0 s1 := moveCommit_kept K
          clear_value s1
          split
          · exact opEnd_kept (scanCopies_kept (tackFail_kept (drawn_kept (tackWrite_kept (endJob_kept hs1)))))
          · exact hs1))

theorem effEndpointCommit_held {s} (K : Kept s s) : Held s (effEndpointCommit s) := decideCommand_held K

theorem effEndpointCommitApply_kept {ep s} (K : Kept b0 s) : Kept b0 (effEndpointCommitApply ep s) := by
  unfold effEndpointCommitApply
  split
  · exact K
  · exact Kept.ite K (applyCommit_kept K)

theorem effKeyLoad_held {s} (K : Kept s s) : Held s (effKeyLoad s) := decideCommand_held K

theorem effKeyLoadDone_held {s} (K : Kept b0 s) : Held b0 (effKeyLoadDone s) := by
  unfold effKeyLoadDone
  split
  · exact K.held
  · next w e =>
    refine Held.grants ⟨K.pending, K.uid, K.counter, fun i k hi h2 => ?_, ⟨K.inv.memories, ?_, fun w k e => by cases e⟩⟩
    · rw [← K.slots] at hi
      have hne : w.1 ≠ i := by rintro rfl; exact K.inv.keys w k e hi h2
      simpa [List.getElem?_set, hne] using hi
    · have := K.inv.counts; simpa [shape] using this

theorem effFarrierEnter_held {s} (K : Kept s s) : Held s (effFarrierEnter s) := decideCommand_held K

theorem effTackErase_held {s} (K : Kept s s) : Held s (effTackErase s) := decideCommand_held K

theorem effReplayLoad_held {s} (K : Kept s s) : Held s (effReplayLoad s) := decideCommand_held K

theorem effPinmuxLock_held {s} (K : Kept s s) : Held s (effPinmuxLock s) := decideCommand_held K

theorem effAuthHoldEnd_kept {s} (K : Kept b0 s) : Kept b0 (effAuthHoldEnd s) := by
  unfold effAuthHoldEnd; exact Kept.upd K

theorem opCmdRow_kept {v s} (K : Kept b0 s) : Kept b0 (opCmdRow v s) := by
  unfold opCmdRow; exact writeRow_kept (fun _ h => opCmdWrite_kept h) K

theorem effSelfTest_kept {s} (K : Kept b0 s) : Kept b0 (effSelfTest s) := by
  unfold effSelfTest; exact opCmdRow_kept K

theorem effRollCall_kept {s} (K : Kept b0 s) : Kept b0 (effRollCall s) := by
  unfold effRollCall; exact opCmdRow_kept K

theorem startRecovery_kept {p s} (K : Kept b0 s) : Kept b0 (startRecovery p s) := by
  unfold startRecovery
  extract_lets +onlyGivenNames _
  exact grant_kept (modIPort_kept K)

theorem declareHang_kept {p res s} (K : Kept b0 s) : Kept b0 (declareHang p res s) := by
  unfold declareHang
  extract_lets +onlyGivenNames s0
  have hs0 : Kept b0 s0 := tapTrigger_kept (Kept.ite (ptCut_kept K) K)
  clear_value s0
  extract_lets +onlyGivenNames s1
  have hs1 : Kept b0 s1 := countWord_kept (stickI_kept (startRecovery_kept hs0))
  clear_value s1
  exact failOnWire_kept (dropHold_kept hs1)

theorem probeEnds_kept {port a last ten total probed repeated out s0} (K : Kept b0 s0) :
    Kept b0 (probeEnds port a last ten total probed repeated out s0) := by
  unfold probeEnds
  extract_lets +onlyGivenNames p t stuck s
  have hs : Kept b0 s := Kept.ite K (sendI_kept K)
  clear_value s
  split
  · exact scanFrom_kept (opPost_kept (countXfer_kept (recPort_kept hs)))
  · exact scanFrom_kept (countNack_kept (recPort_kept hs))
  · exact countArbLost_kept (recPort_kept hs)
  · extract_lets _ _ s1
    have hs1 : Kept b0 s1 := Kept.ite (recPort_kept hs) (declareHang_kept (recPort_kept hs))
    clear_value s1
    exact Kept.ite (scanFrom_kept hs1) (Kept.upd hs1)

theorem effRollCallProbe_kept {out t s0} (K : Kept b0 s0) : Kept b0 (effRollCallProbe out t s0) := by
  unfold effRollCallProbe
  extract_lets +onlyGivenNames s
  have hs : Kept b0 s := advance_kept K
  clear_value s
  split
  · exact Kept.ite (probeEnds_kept hs) hs
  · exact hs

theorem effAutoRate_kept {s} (K : Kept b0 s) : Kept b0 (effAutoRate s) := by
  unfold effAutoRate; exact opCmdRow_kept K

theorem effAutoRateVerifyStart_kept {s} (K : Kept b0 s) : Kept b0 (effAutoRateVerifyStart s) := by
  unfold effAutoRateVerifyStart
  split
  · exact Kept.ite (opProgress_kept (Kept.upd K)) K
  · exact K

theorem effProfileLoad_kept {s} (K : Kept b0 s) : Kept b0 (effProfileLoad s) := by
  unfold effProfileLoad; exact opCmdRow_kept K

theorem effTraceDrain_kept {s} (K : Kept b0 s) : Kept b0 (effTraceDrain s) := by
  unfold effTraceDrain; exact opCmdRow_kept K

theorem postSegment_kept {first seg skip fz err s} (K : Kept b0 s) : Kept b0 (postSegment first seg skip fz err s) := by
  unfold postSegment
  extract_lets +onlyGivenNames g
  exact opPost_kept K

theorem effDrainSegmentDone_kept {flashError s} (K : Kept b0 s) : Kept b0 (effDrainSegmentDone flashError s) := by
  unfold effDrainSegmentDone
  split
  · split
    · exact runDrain_kept (Kept.upd (postSegment_kept K))
    · exact K
  · split
    · extract_lets +onlyGivenNames g
      have hg : Kept b0 g.2.2 := gather_kept K rfl
      clear_value g
      extract_lets +onlyGivenNames seg keep
      split
      · exact Kept.upd hg
      · split
        · exact endOp_kept K
        · extract_lets +onlyGivenNames frames n s1
          have hs1 : Kept b0 s1 := Kept.foldl (fun _ _ h => sendFlash_kept h) hg
          clear_value s1
          extract_lets +onlyGivenNames src s2
          have hs2 : Kept b0 s2 := countWordBy_kept (Kept.upd (releaseBlock_kept hs1))
          clear_value s2
          extract_lets +onlyGivenNames s3
          have hs3 : Kept b0 s3 := postSegment_kept hs2
          clear_value s3
          exact Kept.ite (endOp_kept hs3) (pumpS0_kept (opProgress_kept (Kept.upd hs3)))
    · exact K
  · exact K

theorem effQueueFlush_kept {s} (K : Kept b0 s) : Kept b0 (effQueueFlush s) := by
  unfold effQueueFlush; exact opCmdRow_kept K

theorem effKeyframeNow_kept {s} (K : Kept b0 s) : Kept b0 (effKeyframeNow s) := by
  unfold effKeyframeNow; exact opCmdRow_kept K

theorem effReplayRun_kept {s} (K : Kept b0 s) : Kept b0 (effReplayRun s) := by
  unfold effReplayRun; exact opCmdRow_kept K

theorem effFlashProgram_kept {s} (K : Kept b0 s) : Kept b0 (effFlashProgram s) := by
  unfold effFlashProgram; exact opCmdRow_kept K

theorem postFlash_kept {addr done status extra s} (K : Kept b0 s) : Kept b0 (postFlash addr done status extra s) := by
  unfold postFlash; exact opPost_kept K

theorem effFlashStatusPoll_kept {status s0} (K : Kept b0 s0) : Kept b0 (effFlashStatusPoll status s0) := by
  unfold effFlashStatusPoll
  split
  · exact Kept.ite (by
        extract_lets +onlyGivenNames s
        have hs : Kept b0 s := sendFlash_kept K
        clear_value s
        extract_lets +onlyGivenNames _ _ kept
        have hkept : Kept b0 kept := Kept.upd hs
        clear_value kept
        exact Kept.ite (Kept.ite (pumpS0_kept hkept) (endOp_kept (postFlash_kept hs))) (Kept.ite (endOp_kept (postFlash_kept hs)) (by
            extract_lets +onlyGivenNames s1
            have hs1 : Kept b0 s1 := Kept.ite (sendFlash_kept hs) (sendFlash_kept hs)
            clear_value s1
            exact pumpS0_kept (opProgress_kept (Kept.upd hs1))))) K
  · exact K

theorem effEndpointProbe_kept {s} (K : Kept b0 s) : Kept b0 (effEndpointProbe s) := by
  unfold effEndpointProbe; exact opCmdRow_kept K

theorem effOpAbort_kept {s} (K : Kept b0 s) : Kept b0 (effOpAbort s) := by
  unfold effOpAbort; exact opCmdRow_kept K

theorem postReport_kept {r s} (K : Kept b0 s) : Kept b0 (postReport r s) := by
  unfold postReport
  extract_lets +onlyGivenNames w1
  exact opPost_kept K

theorem failUnit_kept {code u island s} (K : Kept b0 s) : Kept b0 (failUnit code u island s) := by
  unfold failUnit
  split
  · exact K
  · extract_lets +onlyGivenNames s1
    have hs1 : Kept b0 s1 := setDropped_kept K
    clear_value s1
    extract_lets +onlyGivenNames s2
    have hs2 : Kept b0 s2 := logFault_kept hs1
    clear_value s2
    exact reactToFailure_kept (dropTap_kept hs2)

theorem endSelfTest_kept {reports s} (K : Kept b0 s) : Kept b0 (endSelfTest reports s) := by
  unfold endSelfTest
  extract_lets +onlyGivenNames s1
  have hs1 : Kept b0 s1 := endOp_kept (Kept.foldl (fun _ _ h2 => (postReport_kept h2)) K)
  clear_value s1
  refine Kept.foldl (fun _ _ h0 => ?_) hs1
  split
  · exact Kept.ite h0 (failUnit_kept h0)
  · exact h0

theorem endAutoRate_kept {verifying shortest frames consecutive pex s} (K : Kept b0 s) : Kept b0 (endAutoRate verifying shortest frames consecutive pex s) := by
  unfold endAutoRate
  extract_lets +onlyGivenNames w3 failed
  have hfailed {w1} {w2} {reason} {s} (hs' : Kept b0 s) : Kept b0 (failed w1 w2 reason s) := by
    dsimp -zeta only [failed]
    exact endOp_kept (opPost_kept hs')
  clear_value failed
  extract_lets +onlyGivenNames free free2 drew
  have hdrew : Kept b0 drew := Kept.upd K
  clear_value drew
  split
  · exact hfailed hdrew
  · split
    · exact hfailed hdrew
    · exact Kept.ite K (Kept.ite (endOp_kept (opPost_kept K)) (hfailed K))

theorem endLoad_kept {s} (K : Kept b0 s) : Kept b0 (endLoad s) := by
  unfold endLoad
  extract_lets +onlyGivenNames area
  split
  · extract_lets +onlyGivenNames copy gen
    exact endOp_kept (opPost_kept (expandUser_kept K))
  · exact endOp_kept (Kept.upd K)

theorem endJobWith_kept {e s} (K : Kept b0 s) : Kept b0 (endJobWith e s) := by
  unfold endJobWith
  generalize s.op.job = j
  cases j <;> cases e <;> dsimp only <;> first
    | exact K | exact endOp_kept K | exact endLoad_kept K | exact endAutoRate_kept K
    | exact Kept.ite (endSelfTest_kept K) K | exact Kept.ite (endOp_kept K) K | exact Kept.ite K (endOp_kept K)

theorem effLongOpEnd_kept {e s} (K : Kept b0 s) : Kept b0 (effLongOpEnd e s) := by
  unfold effLongOpEnd; exact Kept.ite (Kept.ite (endOp_kept K) (endJobWith_kept K)) (Kept.ite (opEnd_kept (tearJob_kept K)) K)

theorem effLongOpBoundExpiry_kept {s} (K : Kept b0 s) : Kept b0 (effLongOpBoundExpiry s) := by
  unfold effLongOpBoundExpiry
  split
  · split
    · exact K
    · exact endOp_kept (postFlash_kept K)
    · exact endOp_kept K
  · exact K

theorem effRunAheadDispatch_kept {ep s} (K : Kept b0 s) : Kept b0 (effRunAheadDispatch ep s) := by
  unfold effRunAheadDispatch
  extract_lets +onlyGivenNames _ _
  split
  · exact K
  · exact Kept.ite (by
        extract_lets +onlyGivenNames s1
        have hs1 : Kept b0 s1 := Kept.ite K (advance_kept K)
        clear_value s1
        exact dispatch_kept (sortRuns_kept (Kept.upd hs1))) K

theorem handOff_kept {n due lane ht buf lead s} (K : Kept b0 s) : Kept b0 (handOff n due lane ht buf lead s) := by
  unfold handOff
  extract_lets +onlyGivenNames _
  exact Kept.upd K

theorem endSample_kept {i s0} (K : Kept b0 s0) : Kept b0 (endSample i s0) := by
  unfold endSample
  extract_lets +onlyGivenNames s
  have hs : Kept b0 s := releasePorts_kept K
  clear_value s
  extract_lets +onlyGivenNames _
  exact Kept.ite (endProbe_kept hs) (by
      extract_lets +onlyGivenNames s1
      have hs1 : Kept b0 s1 := handOff_kept hs
      clear_value s1
      exact freeLaneAt_kept (setLast_kept (countWord_kept (setEstat_kept hs1))))

theorem effEndStep_kept {lane s} (K : Kept b0 s) : Kept b0 (effEndStep lane s) := by
  unfold effEndStep
  split
  · exact K
  · exact Kept.ite K (endSample_kept K)

theorem waitFor_kept {i w s} (K : Kept b0 s) : Kept b0 (waitFor i w s) := by
  unfold waitFor; exact modLane_kept K

theorem nextStep_kept {i s} (K : Kept b0 s) : Kept b0 (nextStep i s) := by
  unfold nextStep; exact modLane_kept K

theorem acquire_kept {i s} (K : Kept b0 s) : Kept b0 (acquire i s) := by
  unfold acquire
  extract_lets +onlyGivenNames l
  split
  · exact waitFor_kept K
  · exact nextStep_kept K

theorem effAcq_kept {lane s} (K : Kept b0 s) : Kept b0 (effAcq lane s) := by
  unfold effAcq
  split
  · exact K
  · exact acquire_kept K

theorem grantPort_kept {i p s} (K : Kept b0 s) : Kept b0 (grantPort i p s) := by
  unfold grantPort
  extract_lets +onlyGivenNames kept _ s1
  have hs1 : Kept b0 s1 := Kept.upd K
  clear_value s1
  exact modLane_kept hs1

theorem effPortGrant_kept {lane s} (K : Kept b0 s) : Kept b0 (effPortGrant lane s) := by
  unfold effPortGrant
  split
  · exact Kept.ite (acquire_kept (grantPort_kept (grants_kept K))) K
  · exact K

theorem effRel_kept {lane s} (K : Kept b0 s) : Kept b0 (effRel lane s) := by
  unfold effRel
  split
  · exact K
  · exact nextStep_kept (releasePorts_kept K)

theorem onWire_kept {i p s} (K : Kept b0 s) : Kept b0 (onWire i p s) := by
  unfold onWire
  extract_lets +onlyGivenNames l s1
  have hs1 : Kept b0 s1 := modLane_kept K
  clear_value s1
  exact Kept.ite (setEstat_kept hs1) hs1

theorem sendStep_kept {p sel d st s} (K : Kept b0 s) : Kept b0 (sendStep p sel d st s) := by
  unfold sendStep
  extract_lets +onlyGivenNames _
  exact Kept.ite (openFrame_kept K) (sendFrame_kept K)

theorem startWire_kept {i p2 st t s} (K : Kept b0 s) : Kept b0 (startWire i p2 st t s) := by
  unfold startWire
  extract_lets +onlyGivenNames _ _ _ _
  exact Kept.ite (Kept.ite (failAttempt_kept K) (Kept.ite (onWire_kept (sendStep_kept K)) K)) (Kept.ite (failAttempt_kept K) (Kept.ite (failAttempt_kept (recPort_kept K)) (Kept.ite (waitFor_kept K) (Kept.ite (onWire_kept (sendI_kept K)) K))))

theorem runWire_kept {i p s} (K : Kept b0 s) : Kept b0 (runWire i p s) := by
  unfold runWire
  split
  · exact K
  · split
    · exact K
    · exact startWire_kept K

theorem effSend_kept {lane s} (K : Kept b0 s) : Kept b0 (effSend lane s) := by
  unfold effSend; exact runWire_kept K

theorem effRecv_kept {lane s} (K : Kept b0 s) : Kept b0 (effRecv lane s) := by
  unfold effRecv; exact runWire_kept K

theorem effXfer_kept {lane s} (K : Kept b0 s) : Kept b0 (effXfer lane s) := by
  unfold effXfer; exact runWire_kept K

theorem effFrame_kept {lane s} (K : Kept b0 s) : Kept b0 (effFrame lane s) := by
  unfold effFrame; exact runWire_kept K

theorem iEnd_kept {p out s} (K : Kept b0 s) : Kept b0 (iEnd p out s) := by
  unfold iEnd
  split
  · exact countXfer_kept K
  · exact modIPort_kept (countXfer_kept K)
  · exact countNack_kept K
  · exact countArbLost_kept K
  · exact K

theorem putBytes_kept {i off bs s} (K : Kept b0 s) : Kept b0 (putBytes i off bs s) := by
  unfold putBytes; exact modLane_kept K

theorem stampPort_kept {i t s} (K : Kept b0 s) : Kept b0 (stampPort i t s) := by
  unfold stampPort; exact modLane_kept K

theorem stepDone_kept {i st rx t s} (K : Kept b0 s) : Kept b0 (stepDone i st rx t s) := by
  unfold stepDone
  extract_lets +onlyGivenNames l d
  split
  · exact nextStep_kept K
  · split
    · exact failAttempt_kept (Kept.ite K (countEp_kept K))
    · extract_lets +onlyGivenNames s1
      have hs1 : Kept b0 s1 := Kept.ite K (putBytes_kept K)
      clear_value s1
      exact nextStep_kept (stampPort_kept hs1)

theorem wireEnd_kept {i p st out0 rx t s} (K : Kept b0 s) : Kept b0 (wireEnd i p st out0 rx t s) := by
  unfold wireEnd
  extract_lets +onlyGivenNames _ _ _ _ _ r
  have hr : Kept b0 r.2 := by
    dsimp only [r]
    split
    · exact sEnd_kept K rfl
    · exact iEnd_kept K
  clear_value r
  extract_lets +onlyGivenNames s1
  have hs1 : Kept b0 s1 := recPort_kept hr
  clear_value s1
  extract_lets +onlyGivenNames s2
  have hs2 : Kept b0 s2 := modLane_kept hs1
  clear_value s2
  extract_lets +onlyGivenNames s3
  have hs3 : Kept b0 s3 := Kept.ite (freeLaneAt_kept (releasePorts_kept hs2)) (Kept.ite (failAttempt_kept hs2) (Kept.ite (Kept.ite (stepDone_kept hs2) (failAttempt_kept hs2)) (failAttempt_kept hs2)))
  clear_value s3
  exact pumpPort_kept hs3

theorem laneEnds_kept {i out rx s} (K : Kept b0 s) : Kept b0 (laneEnds i out rx s) := by
  unfold laneEnds
  split
  · exact wireEnd_kept K
  · exact K

theorem effPortStepComplete_kept {lane out rx t s0} (K : Kept b0 s0) : Kept b0 (effPortStepComplete lane out rx t s0) := by
  unfold effPortStepComplete
  extract_lets +onlyGivenNames s
  have hs : Kept b0 s := advance_kept K
  clear_value s
  exact Kept.ite (laneEnds_kept hs) hs

theorem effWait_kept {lane s} (K : Kept b0 s) : Kept b0 (effWait lane s) := by
  unfold effWait
  split
  · exact K
  · exact waitFor_kept K

theorem effWaitt_kept {lane s} (K : Kept b0 s) : Kept b0 (effWaitt lane s) := by
  unfold effWaitt
  split
  · exact Kept.ite (nextStep_kept K) (waitFor_kept K)
  · exact K

theorem effWaitExpiry_kept {lane s} (K : Kept b0 s) : Kept b0 (effWaitExpiry lane s) := by
  unfold effWaitExpiry; exact Kept.ite (nextStep_kept K) K

theorem effWaitpin_kept {lane s} (K : Kept b0 s) : Kept b0 (effWaitpin lane s) := by
  unfold effWaitpin
  split
  · exact Kept.ite (nextStep_kept (drawn_kept K)) (waitFor_kept (drawn_kept K))
  · exact K

theorem effWaitpinMatch_kept {lane s} (K : Kept b0 s) : Kept b0 (effWaitpinMatch lane s) := by
  unfold effWaitpinMatch
  split
  · exact Kept.ite (nextStep_kept (modPin_kept K)) K
  · exact K

theorem takeFrame_kept {i ht bytes s} (K : Kept b0 s) : Kept b0 (takeFrame i ht bytes s) := by
  unfold takeFrame
  split
  · exact nextStep_kept (stampPort_kept (putBytes_kept K))
  · exact K

theorem frameAwaited_kept {port s} (K : Kept b0 s) : Kept b0 (frameAwaited port s) := by
  unfold frameAwaited; exact Kept.ite (grant_kept K) K

theorem effWaitfrm_kept {lane s} (K : Kept b0 s) : Kept b0 (effWaitfrm lane s) := by
  unfold effWaitfrm
  extract_lets +onlyGivenNames _
  split
  · exact K
  · extract_lets +onlyGivenNames _
    exact Kept.ite (failAttempt_kept K) (by
        split
        · exact waitFor_kept (frameAwaited_kept K)
        · exact takeFrame_kept (setEstat_kept (Kept.upd K)))

theorem stampGet_kept {i t s} (K : Kept b0 s) : Kept b0 (stampGet i t s) := by
  unfold stampGet; exact modLane_kept K

theorem copyField_kept {i f off n s} (K : Kept b0 s) : Kept b0 (copyField i f off n s) := by
  unfold copyField; exact nextStep_kept (stampGet_kept (putBytes_kept K))

theorem effGet_kept {lane t s0} (K : Kept b0 s0) : Kept b0 (effGet lane t s0) := by
  unfold effGet
  extract_lets +onlyGivenNames s
  have hs : Kept b0 s := advance_kept K
  clear_value s
  extract_lets +onlyGivenNames i
  split
  · exact Kept.ite (nextStep_kept (stampGet_kept (putBytes_kept hs))) (Kept.ite (waitFor_kept hs) (copyField_kept hs))
  · exact hs

theorem effGetSampleReady_kept {lane t s0} (K : Kept b0 s0) : Kept b0 (effGetSampleReady lane t s0) := by
  unfold effGetSampleReady
  extract_lets +onlyGivenNames s
  have hs : Kept b0 s := advance_kept K
  clear_value s
  extract_lets +onlyGivenNames _
  split
  · exact Kept.ite hs (by
        split
        · exact copyField_kept (grant_kept hs)
        · exact hs)
  · exact hs

theorem effSplit_kept {lane t s0} (K : Kept b0 s0) : Kept b0 (effSplit lane t s0) := by
  unfold effSplit
  extract_lets +onlyGivenNames s
  have hs : Kept b0 s := advance_kept K
  clear_value s
  extract_lets +onlyGivenNames i
  split
  · exact hs
  · extract_lets +onlyGivenNames s1
    have hs1 : Kept b0 s1 := releasePorts_kept hs
    clear_value s1
    extract_lets +onlyGivenNames l
    exact Kept.ite (freeLaneAt_kept (Kept.upd hs1)) (Kept.ite (modLane_kept (nextStep_kept hs1)) (startAttempt_kept (modLane_kept hs1)))

theorem effFlush_kept {lane s} (K : Kept b0 s) : Kept b0 (effFlush lane s) := by
  unfold effFlush
  extract_lets +onlyGivenNames i
  split
  · exact Kept.ite (modLane_kept (nextStep_kept K)) (modLane_kept K)
  · exact K

theorem effSkip_kept {lane s} (K : Kept b0 s) : Kept b0 (effSkip lane s) := by
  unfold effSkip
  extract_lets +onlyGivenNames i
  split
  · extract_lets +onlyGivenNames hit
    exact modLane_kept K
  · exact K

theorem effAttemptTimeout_kept {lane s} (K : Kept b0 s) : Kept b0 (effAttemptTimeout lane s) := by
  unfold effAttemptTimeout
  extract_lets +onlyGivenNames _ _
  split
  · exact K
  · exact K
  · exact Kept.ite K (by
        extract_lets +onlyGivenNames s1
        have hs1 : Kept b0 s1 := Kept.ite K (countEp_kept K)
        clear_value s1
        split
        · exact modLane_kept hs1
        · exact failAttempt_kept (waitFor_kept hs1))

theorem effRetryGapExpiry_kept {lane s} (K : Kept b0 s) : Kept b0 (effRetryGapExpiry lane s) := by
  unfold effRetryGapExpiry
  extract_lets +onlyGivenNames i l
  split
  · split
    · extract_lets +onlyGivenNames d whole s1
      have hs1 : Kept b0 s1 := countEp_kept (modLane_kept K)
      clear_value s1
      exact startAttempt_kept hs1
    · exact endMissed_kept K
  · exact K

theorem withRunning_kept {m f s} (hm : Memory.wf cfgDflt m = true) (hf : ∀ x, Kept b0 x → Kept b0 (f x)) (h : Kept b0 s) :
    Kept b0 (withRunning m f s) := by
  unfold withRunning
  have h1 : Kept b0 (f { s with cfg := { s.cfg with user := m, fallback := m } }) := hf _ (Kept.cfg h hm hm h.status_wf)
  generalize f _ = s1 at h1
  exact Kept.cfg h1 h.user_wf h.fallback_wf h1.status_wf

theorem makeEventRoom_kept {n s} (K : Kept b0 s) : Kept b0 (makeEventRoom n s) := by
  induction n generalizing s with
  | zero => exact K
  | succ n ih =>
    unfold makeEventRoom; refine Kept.ite K ?_
    split
    · exact K
    · exact ih (lost_kept (dropOldest_kept K))

theorem eventRoom_kept {s} (K : Kept b0 s) : Kept b0 (eventRoom s) := by
  unfold eventRoom; exact Kept.ite (makeEventRoom_kept K) K

theorem putEvent_kept {b words s} (K : Kept b0 s) : Kept b0 (putEvent b words s) := by
  unfold putEvent
  cases e : putItem 56 .event 0 (bytesOf words) 0 (grant 180 b s) with
  | none => exact K
  | some t => exact putItem_kept (grant_kept K) e

theorem postEvent_kept {words s0} (K : Kept b0 s0) : Kept b0 (postEvent words s0) := by
  unfold postEvent
  extract_lets +onlyGivenNames s
  have hs : Kept b0 s := eventRoom_kept K
  clear_value s
  exact Kept.ite (Kept.upd hs) (Kept.ite (by
      extract_lets +onlyGivenNames s1
      have hs1 : Kept b0 s1 := Kept.ite hs (putEvent_kept hs)
      clear_value s1
      exact attend_kept (putEvent_kept (Kept.upd hs1))) (markDrop_kept (Kept.upd hs)))

theorem postExpress_kept {n ht s} (K : Kept b0 s) : Kept b0 (postExpress n ht s) := by
  unfold postExpress; exact attend_kept (postEvent_kept K)

theorem settleLate_kept {n s} (K : Kept b0 s) : Kept b0 (settleLate n s) := by
  unfold settleLate
  extract_lets +onlyGivenNames _
  exact Kept.foldl (fun _ _ h2 => grant_kept (Kept.ite (postExpress_kept h2) h2)) (Kept.upd K)

theorem expressCheck_kept {p direct passed s} (K : Kept b0 s) : Kept b0 (expressCheck p direct passed s) := by
  unfold expressCheck
  extract_lets +onlyGivenNames s1
  have hs1 : Kept b0 s1 := grants_kept K
  clear_value s1
  exact Kept.ite (grant_kept (postExpress_kept (settleLate_kept hs1))) (Kept.upd hs1)

theorem expressFault_kept {n s} (K : Kept b0 s) : Kept b0 (expressFault n s) := by
  unfold expressFault; exact dropUnit_kept (logFault_kept K)

theorem writeStaging_kept {n x s} (K : Kept b0 s) : Kept b0 (writeStaging n x s) := by
  unfold writeStaging; exact grants_kept (setStaging_kept K)

theorem stageSample_kept {p c xp s} (K : Kept b0 s) : Kept b0 (stageSample p c xp s) := by
  unfold stageSample
  split
  · exact Kept.upd K
  · exact Kept.ite K (Kept.ite (writeStaging_kept K) (Kept.ite (grant_kept (Kept.upd K)) (Kept.ite (Kept.upd K) (writeStaging_kept K))))

theorem renewWindows_kept {n s0} (K : Kept b0 s0) : Kept b0 (renewWindows n s0) := by
  unfold renewWindows
  extract_lets +onlyGivenNames _ s
  have hs : Kept b0 s := Kept.upd K
  clear_value s
  exact Kept.foldl (fun _ _ h0 => (Kept.ite (renewWindow_kept h0) h0)) hs

theorem groupGrants_kept {n passed s} (K : Kept b0 s) : Kept b0 (groupGrants n passed s) := by
  unfold groupGrants; exact Kept.ite (grants_kept K) K

theorem meetGets_kept {n s} (K : Kept b0 s) : Kept b0 (meetGets n s) := by
  unfold meetGets; exact grants_kept K

theorem completeSample_kept {p s0} (K : Kept b0 s0) : Kept b0 (completeSample p s0) := by
  unfold completeSample
  refine withRunning_kept (by split <;> first | exact K.fallback_wf | exact K.user_wf) (fun _ h0 => ?_) K
  extract_lets +onlyGivenNames express direct c s1
  have hc : Kept b0 c.2 := conditionSample_kept (grants_kept h0) rfl
  have hs1 : Kept b0 s1 := groupGrants_kept (Kept.ite (expressCheck_kept hc) hc)
  clear_value s1
  extract_lets s2 s3
  have hs3 : Kept b0 s3 := meetGets_kept (stageSample_kept (renewWindows_kept (Kept.ite (expressFault_kept hs1) hs1)))
  clear_value s3
  exact Kept.ite (tapTrigger_kept hs3) hs3

theorem effSampleCompletion_kept {t s0} (K : Kept b0 s0) : Kept b0 (effSampleCompletion t s0) := by
  unfold effSampleCompletion
  extract_lets +onlyGivenNames s
  have hs : Kept b0 s := advance_kept K
  clear_value s
  split
  · exact hs
  · exact completeSample_kept (Kept.upd hs)

theorem effLateExpressRoute_kept {t s0} (K : Kept b0 s0) : Kept b0 (effLateExpressRoute t s0) := by
  unfold effLateExpressRoute
  extract_lets +onlyGivenNames s
  have hs : Kept b0 s := advance_kept K
  clear_value s
  split
  · exact hs
  · exact Kept.ite hs (by
        extract_lets +onlyGivenNames _ s1
        have hs1 : Kept b0 s1 := grant_kept (Kept.upd hs)
        clear_value s1
        exact Kept.ite (postExpress_kept hs1) hs1)

theorem effCanStartRequest_kept {ch v s} (K : Kept b0 s) : Kept b0 (effCanStartRequest ch v s) := by
  unfold effCanStartRequest
  extract_lets +onlyGivenNames w
  exact writeRow_kept (fun _ h => canCtrlWrite_kept h) K

theorem effCanStopRequest_kept {ch v s} (K : Kept b0 s) : Kept b0 (effCanStopRequest ch v s) := by
  unfold effCanStopRequest
  extract_lets +onlyGivenNames w
  exact writeRow_kept (fun _ h => canCtrlWrite_kept h) K

theorem effCanChannelStop_kept {ch s} (K : Kept b0 s) : Kept b0 (effCanChannelStop ch s) := by
  unfold effCanChannelStop; exact Kept.ite (stopCan_kept K) K

end Sys2Proof.Laws
end

