-- ==== Sys2Proof/Laws/Kept4.lean ====
section
/-! SUPPORT. What every operation of the model keeps, part 4 of 4: one lemma for each, in the order of use. -/

namespace Sys2Proof.Laws

set_option Elab.async false

open Sys2Proof.Machine Sys2Proof.Safety

variable {b0 : State}

theorem integrate_kept {ch s} (K : Kept b0 s) : Kept b0 (integrate ch s) := by
  unfold integrate
  extract_lets +onlyGivenNames c
  exact Kept.ite (settleLead_kept (modCan_kept K)) K

theorem effCanIntegrationDone_kept {ch s} (K : Kept b0 s) : Kept b0 (effCanIntegrationDone ch s) := by
  unfold effCanIntegrationDone; exact Kept.ite K (integrate_kept K)

theorem controlField_kept {ch f s0} (K : Kept b0 s0) : Kept b0 (controlField ch f s0) := by
  unfold controlField
  extract_lets +onlyGivenNames s
  have hs : Kept b0 s := grants_kept K
  clear_value s
  extract_lets +onlyGivenNames c mine pair set
  have hset {item} {s} (hs' : Kept b0 s) : Kept b0 (set item s) := by
    dsimp -zeta only [set]
    exact modCan_kept hs'
  clear_value set
  split
  · exact hset hs
  · extract_lets +onlyGivenNames q
    split
    · exact hset (reserve_kept hs ‹_›)
    · exact hset (countRxDrop_kept (markDrop_kept hs))

theorem recCan_kept {ch evt lec f t sof s} (K : Kept b0 s) : Kept b0 (recCan ch evt lec f t sof s) := by
  unfold recCan; exact tapAppend_kept K

theorem recCanEvent_kept {ch evt t s} (K : Kept b0 s) : Kept b0 (recCanEvent ch evt t s) := by
  unfold recCanEvent; exact tapAppend_kept K

theorem setCounters_kept {ch tec recc t s} (K : Kept b0 s) : Kept b0 (setCounters ch tec recc t s) := by
  unfold setCounters
  extract_lets +onlyGivenNames _ s1
  have hs1 : Kept b0 s1 := grant_kept (modCan_kept K)
  clear_value s1
  extract_lets +onlyGivenNames s2
  have hs2 : Kept b0 s2 := Kept.ite (canEvent_kept hs1) hs1
  clear_value s2
  extract_lets +onlyGivenNames s3
  have hs3 : Kept b0 s3 := Kept.ite (canEvent_kept hs2) hs2
  clear_value s3
  exact Kept.ite (by
      extract_lets +onlyGivenNames s4
      have hs4 : Kept b0 s4 := countCan_kept (modCan_kept hs3)
      clear_value s4
      exact settleLead_kept (tapTrigger_kept (recCanEvent_kept (canEvent_kept hs4)))) hs3

theorem recAfterRx_kept {ch t s} (K : Kept b0 s) : Kept b0 (recAfterRx ch t s) := by
  unfold recAfterRx
  extract_lets +onlyGivenNames c
  exact Kept.ite K (Kept.ite (drawn_kept (setCounters_kept K)) (setCounters_kept K))

theorem syncReceived_kept {data sof s} (K : Kept b0 s) : Kept b0 (syncReceived data sof s) := by
  unfold syncReceived
  extract_lets +onlyGivenNames node lower rx mm _ s1
  have hs1 : Kept b0 s1 := Kept.upd K
  clear_value s1
  extract_lets +onlyGivenNames heard
  have hheard {s} (hs' : Kept b0 s) : Kept b0 (heard s) := by
    dsimp -zeta only [heard]
    exact Kept.upd hs'
  clear_value heard
  extract_lets +onlyGivenNames follow
  have hfollow {s} (hs' : Kept b0 s) : Kept b0 (follow s) := by
    dsimp -zeta only [follow]
    extract_lets +onlyGivenNames src
    have hsrc : Kept b0 src := hheard hs'
    clear_value src
    extract_lets +onlyGivenNames _ s2
    have hs2 : Kept b0 s2 := Kept.upd hsrc
    clear_value s2
    exact Kept.ite (loseLock_kept hs2) hs2
  clear_value follow
  exact Kept.ite (Kept.ite (hfollow (settleLead_kept (Kept.upd hs1))) (loseLock_kept (hheard hs1))) (Kept.ite hs1 (hfollow hs1))

theorem byStep_kept {est leadPeriod s} (K : Kept b0 s) : Kept b0 (byStep est leadPeriod s) := by
  unfold byStep
  split
  · exact K
  · extract_lets +onlyGivenNames next
    exact loseLock_kept (Kept.upd K)

theorem pairReceived_kept {rx delta s} (K : Kept b0 s) : Kept b0 (pairReceived rx delta s) := by
  unfold pairReceived
  extract_lets +onlyGivenNames est
  split
  · exact K
  · extract_lets +onlyGivenNames off _ s1
    have hs1 : Kept b0 s1 := Kept.upd K
    clear_value s1
    split
    · exact byStep_kept hs1
    · extract_lets +onlyGivenNames _ s2
      have hs2 : Kept b0 s2 := Kept.upd hs1
      clear_value s2
      split
      · exact loseLock_kept hs2
      · split
        · extract_lets +onlyGivenNames n _ s3
          have hs3 : Kept b0 s3 := Kept.upd hs2
          clear_value s3
          exact Kept.ite (gainLock_kept hs3) hs3
        · exact Kept.upd hs2

theorem fupReceived_kept {data s} (K : Kept b0 s) : Kept b0 (fupReceived data s) := by
  unfold fupReceived
  split
  · exact K
  · exact Kept.ite (pairReceived_kept K) K

theorem boryelFrame_kept {f sof s} (K : Kept b0 s) : Kept b0 (boryelFrame f sof s) := by
  unfold boryelFrame; exact Kept.ite (Kept.ite (syncReceived_kept (grant_kept K)) (fupReceived_kept (grant_kept K))) K

theorem commitRx_kept {ch f r sof s} (K : Kept b0 s) : Kept b0 (commitRx ch f r sof s) := by
  unfold commitRx
  split
  · extract_lets +onlyGivenNames _ s1
    have hs1 : Kept b0 s1 := grant_kept (closeItem_kept K)
    clear_value s1
    exact Kept.ite (countCan_kept hs1) hs1
  · exact K

theorem deliverFrame_kept {n ht bytes s} (K : Kept b0 s) : Kept b0 (deliverFrame n ht bytes s) := by
  unfold deliverFrame
  split
  · split
    · exact takeFrame_kept K
    · extract_lets +onlyGivenNames s1
      have hs1 : Kept b0 s1 := Kept.ite (countEp_kept K) K
      clear_value s1
      exact setEstat_kept (Kept.upd hs1)
  · exact K

theorem frameToEndpoint_kept {ch f w t s} (K : Kept b0 s) : Kept b0 (frameToEndpoint ch f w t s) := by
  unfold frameToEndpoint; exact Kept.ite (deliverFrame_kept (grant_kept K)) (countCan_kept K)

theorem frameEnds_kept {ch s} (K : Kept b0 s) : Kept b0 (frameEnds ch s) := by
  unfold frameEnds; exact grants_kept K

theorem completeRx_kept {ch f r sof t s} (K : Kept b0 s) : Kept b0 (completeRx ch f r sof t s) := by
  unfold completeRx
  extract_lets +onlyGivenNames s1
  have hs1 : Kept b0 s1 := recCan_kept (frameEnds_kept K)
  clear_value s1
  extract_lets +onlyGivenNames s2
  have hs2 : Kept b0 s2 := recAfterRx_kept (countCan_kept (modCan_kept hs1))
  clear_value s2
  exact Kept.ite (boryelFrame_kept hs2) (by
      extract_lets +onlyGivenNames s3
      have hs3 : Kept b0 s3 := commitRx_kept hs2
      clear_value s3
      split
      · exact Kept.ite (countCan_kept hs3) hs3
      · extract_lets +onlyGivenNames s4
        have hs4 : Kept b0 s4 := countWord_kept hs3
        clear_value s4
        exact Kept.ite (frameToEndpoint_kept hs4) hs4)

theorem receiveCan_kept {ch f sof s} (K : Kept b0 s) : Kept b0 (receiveCan ch f sof s) := by
  unfold receiveCan
  extract_lets +onlyGivenNames s1
  have hs1 : Kept b0 s1 := Kept.ite (controlField_kept K) K
  clear_value s1
  split
  · exact K
  · exact Kept.ite (completeRx_kept hs1) K

theorem effCanFrameReceived_kept {ch f sof t s0} (K : Kept b0 s0) : Kept b0 (effCanFrameReceived ch f sof t s0) := by
  unfold effCanFrameReceived
  extract_lets +onlyGivenNames s
  have hs : Kept b0 s := advance_kept K
  clear_value s
  exact Kept.ite hs (receiveCan_kept hs)

theorem canError_kept {ch e s} (K : Kept b0 s) : Kept b0 (canError ch e s) := by
  unfold canError
  extract_lets +onlyGivenNames _ s1
  have hs1 : Kept b0 s1 := recCan_kept (modCan_kept (frameEnds_kept K))
  clear_value s1
  extract_lets +onlyGivenNames s2
  have hs2 : Kept b0 s2 := Kept.ite (countCan_kept hs1) (countCan_kept (dropRxItem_kept hs1))
  clear_value s2
  exact Kept.ite hs2 (Kept.ite (setCounters_kept hs2) (setCounters_kept hs2))

theorem effCanFrameError_kept {ch e t s0} (K : Kept b0 s0) : Kept b0 (effCanFrameError ch e t s0) := by
  unfold effCanFrameError
  extract_lets +onlyGivenNames s
  have hs : Kept b0 s := advance_kept K
  clear_value s
  extract_lets +onlyGivenNames c
  exact Kept.ite (canError_kept hs) hs

theorem protocolException_kept {ch s} (K : Kept b0 s) : Kept b0 (protocolException ch s) := by
  unfold protocolException; exact recCanEvent_kept (canEvent_kept (countCan_kept (modCan_kept (grant_kept K))))

theorem effCanProtocolException_kept {ch t s0} (K : Kept b0 s0) : Kept b0 (effCanProtocolException ch t s0) := by
  unfold effCanProtocolException
  extract_lets +onlyGivenNames s
  have hs : Kept b0 s := advance_kept K
  clear_value s
  exact Kept.ite (protocolException_kept hs) hs

theorem effCanRecoveryStart_kept {ch s} (K : Kept b0 s) : Kept b0 (effCanRecoveryStart ch s) := by
  unfold effCanRecoveryStart
  extract_lets +onlyGivenNames _
  exact Kept.ite (grant_kept (modCan_kept K)) K

theorem recoverCan_kept {ch s} (K : Kept b0 s) : Kept b0 (recoverCan ch s) := by
  unfold recoverCan; exact settleLead_kept (recCanEvent_kept (canEvent_kept (modCan_kept K)))

theorem effCanRecoveryDone_kept {ch t s0} (K : Kept b0 s0) : Kept b0 (effCanRecoveryDone ch t s0) := by
  unfold effCanRecoveryDone
  extract_lets +onlyGivenNames s
  have hs : Kept b0 s := advance_kept K
  clear_value s
  exact Kept.ite (recoverCan_kept hs) hs

theorem takeTx_kept {ch s0} (K : Kept b0 s0) : Kept b0 (takeTx ch s0) := by
  unfold takeTx
  split
  · extract_lets +onlyGivenNames s
    have hs : Kept b0 s := skipBad_kept K
    clear_value s
    cases e : takeItem (txQueue ch) s with
    | none => exact hs
    | some p =>
      have hp : Kept b0 p.2 := takeItem_kept hs e
      exact Kept.ite (canEvent_kept (countCan_kept (grants_kept hp))) (modCan_kept (grants_kept hp))
  · exact K

theorem effCanTxTake_kept {ch s} (K : Kept b0 s) : Kept b0 (effCanTxTake ch s) := by
  unfold effCanTxTake; exact takeTx_kept K

theorem showDelay_kept {ch d s} (K : Kept b0 s) : Kept b0 (showDelay ch d s) := by
  unfold showDelay
  extract_lets +onlyGivenNames s1
  have hs1 : Kept b0 s1 := setStatWord_kept K
  clear_value s1
  exact Kept.ite (canEvent_kept hs1) hs1

theorem syncSent_kept {sof s} (K : Kept b0 s) : Kept b0 (syncSent sof s) := by
  unfold syncSent
  split
  · exact K
  · exact queueBoryel_kept (Kept.upd K)

theorem txDone_kept {ch x delay sof t s} (K : Kept b0 s) : Kept b0 (txDone ch x delay sof t s) := by
  unfold txDone
  extract_lets +onlyGivenNames s0
  have hs0 : Kept b0 s0 := grant_kept (frameEnds_kept K)
  clear_value s0
  extract_lets +onlyGivenNames s1
  have hs1 : Kept b0 s1 := recCan_kept (countCan_kept (modCan_kept hs0))
  clear_value s1
  extract_lets +onlyGivenNames s2
  have hs2 : Kept b0 s2 := setCounters_kept hs1
  clear_value s2
  extract_lets +onlyGivenNames s3
  have hs3 : Kept b0 s3 := by
    dsimp only [s3]
    split
    · exact showDelay_kept hs2
    · exact hs2
  clear_value s3
  exact Kept.ite (syncSent_kept hs3) hs3

theorem effCanFrameTransmitted_kept {ch delay sof t s0} (K : Kept b0 s0) : Kept b0 (effCanFrameTransmitted ch delay sof t s0) := by
  unfold effCanFrameTransmitted
  extract_lets +onlyGivenNames s
  have hs : Kept b0 s := advance_kept K
  clear_value s
  extract_lets +onlyGivenNames c
  split
  · exact hs
  · exact Kept.ite (txDone_kept hs) hs

theorem effCanArbitrationLost_kept {ch sof t s0} (K : Kept b0 s0) : Kept b0 (effCanArbitrationLost ch sof t s0) := by
  unfold effCanArbitrationLost
  extract_lets +onlyGivenNames s
  have hs : Kept b0 s := advance_kept K
  clear_value s
  extract_lets +onlyGivenNames _
  split
  · exact hs
  · exact Kept.ite (recCan_kept (countCan_kept (grant_kept hs))) hs

theorem effCanTxdataWrite_kept {ch v s} (K : Kept b0 s) : Kept b0 (effCanTxdataWrite ch v s) := by
  unfold effCanTxdataWrite; exact writeRow_kept (fun _ h => txdataWrite_kept h) K

theorem effCanRxqRead_kept {ch q stallOk t s0} (K : Kept b0 s0) : Kept b0 (effCanRxqRead ch q stallOk t s0) := by
  unfold effCanRxqRead; exact readRow_kept (fun _ h => readRxq_kept h) (advance_kept K)

theorem serveCanStall_kept {s} (K : Kept b0 s) : Kept b0 (serveCanStall s) := by
  unfold serveCanStall
  split
  · split
    · exact K
    · exact grants_kept (by
          extract_lets +onlyGivenNames src
          have hsrc : Kept b0 src := takeShadow_kept K ‹_›
          clear_value src
          exact Kept.upd hsrc)
  · exact K

theorem loadShadow_kept {ch q s} (K : Kept b0 s) : Kept b0 (loadShadow ch q s) := by
  unfold loadShadow
  exact Kept.ite K (by
      split
      · exact K
      · exact serveCanStall_kept (grant_kept (modCan_kept (takeItem_kept K ‹_›))))

theorem effRxShadowLoad_kept {ch q s} (K : Kept b0 s) : Kept b0 (effRxShadowLoad ch q s) := by
  unfold effRxShadowLoad; exact loadShadow_kept K

theorem effPassThroughEntry_kept {p aborted rx t s0} (K : Kept b0 s0) : Kept b0 (effPassThroughEntry p aborted rx t s0) := by
  unfold effPassThroughEntry
  extract_lets +onlyGivenNames s
  have hs : Kept b0 s := advance_kept K
  clear_value s
  extract_lets +onlyGivenNames _
  exact Kept.ite (by
      extract_lets +onlyGivenNames s1
      have hs1 : Kept b0 s1 := settleHold_kept (skipBad_kept hs)
      clear_value s1
      split
      · exact hs1
      · extract_lets +onlyGivenNames _
        exact Kept.ite hs1 (Kept.ite (pumpPort_kept (runEntry_kept (takeItem_kept hs1 ‹_›))) hs1)) hs

theorem targetBegins_kept {p stored t s} (K : Kept b0 s) : Kept b0 (targetBegins p stored t s) := by
  unfold targetBegins
  extract_lets +onlyGivenNames _
  exact grant_kept (modSPort_kept K)

theorem targetFall_kept {p t s0} (K : Kept b0 s0) : Kept b0 (targetFall p t s0) := by
  unfold targetFall
  extract_lets +onlyGivenNames s
  have hs : Kept b0 s := loadTarget_kept K
  clear_value s
  exact Kept.ite (by
      split
      · exact targetBegins_kept (reserve_kept hs ‹_›)
      · exact targetBegins_kept (markDrop_kept (stickS_kept hs))) hs

theorem effTargetSelectFall_kept {p t s0} (K : Kept b0 s0) : Kept b0 (effTargetSelectFall p t s0) := by
  unfold effTargetSelectFall
  extract_lets +onlyGivenNames s
  have hs : Kept b0 s := advance_kept K
  clear_value s
  exact Kept.ite hs (targetFall_kept hs)

theorem closeTarget_kept {p rx part aborted s} (K : Kept b0 s) : Kept b0 (closeTarget p rx part aborted s) := by
  unfold closeTarget
  extract_lets +onlyGivenNames _ _
  exact closeItem_kept K

theorem targetRise_kept {p rx clocked partialByte s} (K : Kept b0 s) : Kept b0 (targetRise p rx clocked partialByte s) := by
  unfold targetRise
  extract_lets +onlyGivenNames _ _
  exact Kept.ite (by
      extract_lets +onlyGivenNames _ _ _ _ _ _ _ s1
      have hs1 : Kept b0 s1 := recPort_kept K
      clear_value s1
      extract_lets +onlyGivenNames s2
      have hs2 : Kept b0 s2 := Kept.ite (drawn_kept (closeTarget_kept hs1)) hs1
      clear_value s2
      extract_lets +onlyGivenNames s3
      have hs3 : Kept b0 s3 := countWord_kept (Kept.ite (countWord_kept (stickS_kept hs2)) hs2)
      clear_value s3
      extract_lets +onlyGivenNames s4
      have hs4 : Kept b0 s4 := Kept.ite (countWord_kept (stickS_kept hs3)) hs3
      clear_value s4
      exact loadTarget_kept (modSPort_kept hs4)) K

theorem effTargetSelectRise_kept {p rx clocked partialByte t s0} (K : Kept b0 s0) : Kept b0 (effTargetSelectRise p rx clocked partialByte t s0) := by
  unfold effTargetSelectRise
  extract_lets +onlyGivenNames s
  have hs : Kept b0 s := advance_kept K
  clear_value s
  exact Kept.ite hs (targetRise_kept hs)

theorem effLineFillDone_kept {line s} (K : Kept b0 s) : Kept b0 (effLineFillDone line s) := by
  unfold effLineFillDone
  split
  · exact K
  · exact Kept.ite (by
        extract_lets +onlyGivenNames s1
        have hs1 : Kept b0 s1 := grant_kept (countFrame_kept (modSPort_kept K))
        clear_value s1
        extract_lets +onlyGivenNames n s2
        have hs2 : Kept b0 s2 := Kept.ite (grants_kept (drawn_kept (modSPort_kept hs1))) hs1
        clear_value s2
        exact pumpS0_kept hs2) K

theorem effLinePrefetch_kept {s} (K : Kept b0 s) : Kept b0 (effLinePrefetch s) := by
  unfold effLinePrefetch
  split
  · exact K
  · extract_lets +onlyGivenNames _
    exact Kept.ite (countWord_kept (modSPort_kept (beginFill_kept (grants_kept K)))) K

theorem effCacheInvalidate_kept {s} (K : Kept b0 s) : Kept b0 (effCacheInvalidate s) := by
  unfold effCacheInvalidate
  extract_lets +onlyGivenNames v
  exact winWriteRow_kept (fun _ h => wctrlWrite_kept h) K

theorem effSfdpRead_kept {s} (K : Kept b0 s) : Kept b0 (effSfdpRead s) := by
  unfold effSfdpRead
  extract_lets +onlyGivenNames v
  exact winWriteRow_kept (fun _ h => wctrlWrite_kept h) K

theorem sfdpSettings_kept {dw s} (K : Kept b0 s) : Kept b0 (sfdpSettings dw s) := by
  unfold sfdpSettings
  have h3 := fun v1 v2 v3 => wf_writeBytes (a := 0x2A04) (bs := v3) (wf_writeBytes (a := 0x2A02) (bs := v2)
    (wf_writeBytes (a := 0x2A00) (bs := v1) K.user_wf))
  refine Kept.cfg K ?_ K.fallback_wf K.status_wf
  dsimp only; split
  · exact wf_writeBytes (h3 _ _ _)
  · exact h3 _ _ _

theorem readTable_kept {s} (K : Kept b0 s) : Kept b0 (readTable s) := by
  unfold readTable; exact drawn_kept (sendSfdp_kept K)

theorem effSfdpDone_kept {table s} (K : Kept b0 s) : Kept b0 (effSfdpDone table s) := by
  unfold effSfdpDone
  exact Kept.ite (by
      extract_lets +onlyGivenNames s1
      have hs1 : Kept b0 s1 := drawn_kept (countWordBy_kept K)
      clear_value s1
      split
      · exact Kept.ite (endSfdp_kept (invalidateCache_kept (sfdpSettings_kept (readTable_kept hs1)))) (endSfdp_kept hs1)
      · exact endSfdp_kept hs1) (Kept.ite (endSfdp_kept K) K)

theorem resumeBus_kept {p s} (K : Kept b0 s) : Kept b0 (resumeBus p s) := by
  unfold resumeBus
  exact startPt_kept (Kept.foldl (fun _ _ h2 => Kept.ite (by
      split
      · exact startWire_kept h2
      · exact h2) h2) K)

theorem effBusFree_kept {p s} (K : Kept b0 s) : Kept b0 (effBusFree p s) := by
  unfold effBusFree
  extract_lets +onlyGivenNames x
  exact Kept.ite K (resumeBus_kept (modIPort_kept K))

theorem effI2cArbitrationLost_kept {p t s0} (K : Kept b0 s0) : Kept b0 (effI2cArbitrationLost p t s0) := by
  unfold effI2cArbitrationLost
  extract_lets +onlyGivenNames s
  have hs : Kept b0 s := advance_kept K
  clear_value s
  split
  · exact hs
  · exact Kept.ite hs (laneEnds_kept hs)

theorem effI2cHang_kept {p busy t s0} (K : Kept b0 s0) : Kept b0 (effI2cHang p busy t s0) := by
  unfold effI2cHang
  extract_lets +onlyGivenNames s
  have hs : Kept b0 s := advance_kept K
  clear_value s
  exact Kept.ite (declareHang_kept hs) hs

theorem failWaiting_kept {p s} (K : Kept b0 s) : Kept b0 (failWaiting p s) := by
  unfold failWaiting
  extract_lets +onlyGivenNames s1
  have hs1 : Kept b0 s1 := Kept.foldl (fun _ _ h2 => Kept.ite (failAttempt_kept h2) h2) K
  clear_value s1
  exact Kept.ite (ptFail_kept hs1) hs1

theorem failRecovery_kept {p s} (K : Kept b0 s) : Kept b0 (failRecovery p s) := by
  unfold failRecovery
  extract_lets +onlyGivenNames s1
  have hs1 : Kept b0 s1 := modIPort_kept K
  clear_value s1
  exact failWaiting_kept (logFault_kept (countWord_kept (stickI_kept hs1)))

theorem effI2cRecoveryDone_kept {p sdaLowAfterPulse linesHigh t s0} (K : Kept b0 s0) : Kept b0 (effI2cRecoveryDone p sdaLowAfterPulse linesHigh t s0) := by
  unfold effI2cRecoveryDone
  extract_lets +onlyGivenNames s
  have hs : Kept b0 s := advance_kept K
  clear_value s
  extract_lets +onlyGivenNames _
  exact Kept.ite (by
      extract_lets +onlyGivenNames s1
      have hs1 : Kept b0 s1 := Kept.ite (countWord_kept hs) hs
      clear_value s1
      extract_lets +onlyGivenNames s2
      have hs2 : Kept b0 s2 := Kept.ite (countWord_kept hs1) hs1
      clear_value s2
      extract_lets +onlyGivenNames s3
      have hs3 : Kept b0 s3 := modIPort_kept hs2
      clear_value s3
      exact Kept.ite (Kept.ite hs3 (resumeBus_kept (modIPort_kept hs3))) (failRecovery_kept hs3)) hs

theorem effI2cStuckRetry_kept {p s} (K : Kept b0 s) : Kept b0 (effI2cStuckRetry p s) := by
  unfold effI2cStuckRetry
  extract_lets +onlyGivenNames _
  exact Kept.ite (startRecovery_kept K) K

theorem postCall_kept {p bs s} (K : Kept b0 s) : Kept b0 (postCall p bs s) := by
  unfold postCall
  extract_lets +onlyGivenNames a kept s1
  have hs1 : Kept b0 s1 := Kept.ite (countWord_kept (stickI_kept K)) K
  clear_value s1
  extract_lets +onlyGivenNames s2
  have hs2 : Kept b0 s2 := postEvent_kept hs1
  clear_value s2
  exact Kept.ite (attend_kept (countWord_kept hs2)) (countWord_kept (stickI_kept hs2))

theorem callEnds_kept {p bytes s} (K : Kept b0 s) : Kept b0 (callEnds p bytes s) := by
  unfold callEnds
  extract_lets +onlyGivenNames s1
  have hs1 : Kept b0 s1 := recPort_kept K
  clear_value s1
  exact Kept.ite (countWord_kept (eventRoom_kept hs1)) (postCall_kept hs1)

theorem effI2cCall_kept {p read bytes t s0} (K : Kept b0 s0) : Kept b0 (effI2cCall p read bytes t s0) := by
  unfold effI2cCall
  extract_lets +onlyGivenNames s
  have hs : Kept b0 s := advance_kept K
  clear_value s
  extract_lets +onlyGivenNames _
  exact Kept.ite (by
      extract_lets +onlyGivenNames s1
      have hs1 : Kept b0 s1 := grants_kept hs
      clear_value s1
      exact Kept.ite (countWord_kept hs1) (callEnds_kept hs1)) hs

theorem ptHangs_kept {p res s} (K : Kept b0 s) : Kept b0 (ptHangs p res s) := by
  unfold ptHangs; exact Kept.ite (declareHang_kept K) K

theorem effPtGo_kept {p res done rx s} (K : Kept b0 s) : Kept b0 (effPtGo p res done rx s) := by
  unfold effPtGo
  extract_lets +onlyGivenNames _ _ s1
  have hs1 : Kept b0 s1 := Kept.ite (startPt_kept K) (winWriteRow_kept (fun _ h3 => ptCtlWrite_kept h3) K)
  clear_value s1
  exact Kept.ite (Kept.ite (ptHangs_kept hs1) (Kept.ite (resumeBus_kept (ptEnd_kept hs1)) hs1)) hs1

theorem effPtHoldExpiry_kept {p s} (K : Kept b0 s) : Kept b0 (effPtHoldExpiry p s) := by
  unfold effPtHoldExpiry; exact Kept.ite (resumeBus_kept (dropHold_kept (grant_kept K))) K

theorem sentDeliver_kept {p wanted t bytes s} (K : Kept b0 s) : Kept b0 (sentDeliver p wanted t bytes s) := by
  unfold sentDeliver; exact Kept.foldl (fun _ _ h0 => (Kept.ite (deliverFrame_kept h0) h0)) K

theorem slowDone_kept {p bytes s} (K : Kept b0 s) : Kept b0 (slowDone p bytes s) := by
  unfold slowDone
  extract_lets +onlyGivenNames s1
  have hs1 : Kept b0 s1 := grants_kept (countWord_kept (modTPort_kept K))
  clear_value s1
  exact sentDeliver_kept (recSent_kept hs1)

theorem slowFrame_kept {p status tick s} (K : Kept b0 s) : Kept b0 (slowFrame p status tick s) := by
  unfold slowFrame
  extract_lets +onlyGivenNames x mode
  split
  · exact K
  · split
    · exact K
    · extract_lets +onlyGivenNames l
      split
      · exact modTPort_kept K
      · exact slowError_kept K
      · exact slowDone_kept K

theorem fastDone_kept {p status bytes s} (K : Kept b0 s) : Kept b0 (fastDone p status bytes s) := by
  unfold fastDone
  extract_lets +onlyGivenNames s1
  have hs1 : Kept b0 s1 := grants_kept (modTPort_kept K)
  clear_value s1
  extract_lets +onlyGivenNames s2
  have hs2 : Kept b0 s2 := setStatWord_kept (countWord_kept hs1)
  clear_value s2
  exact sentDeliver_kept (recSent_kept hs2)

theorem sentFail_kept {p c nibbles s} (K : Kept b0 s) : Kept b0 (sentFail p c nibbles s) := by
  unfold sentFail
  extract_lets +onlyGivenNames e x bytes s1
  have hs1 : Kept b0 s1 := by
    dsimp -zeta only [s1]
    split
    · exact countWord_kept K
    · exact K
  clear_value s1
  extract_lets +onlyGivenNames s2
  have hs2 : Kept b0 s2 := modTPort_kept (stickT_kept hs1)
  clear_value s2
  exact sentDiscard_kept (Kept.ite hs2 (recSent_kept hs2))

theorem endPulse_kept {p r x' t'} (K : Kept b0 r.2) (e : endPulse p r = (x', t')) : Kept b0 t' := by
  unfold endPulse at e
  cases e
  exact modTPort_kept K

theorem trySync_kept {p c len s x' t'} (K : Kept b0 s) (e : trySync p c len s = (x', t')) : Kept b0 t' := by
  unfold trySync at e
  split at e
  · cases e
    exact setStatWord_kept (modTPort_kept K)
  · cases e
    exact sentFail_kept K

theorem judgeFrame_kept {p nibbles s x' t'} (K : Kept b0 s) (e : judgeFrame p nibbles s = (x', t')) : Kept b0 t' := by
  unfold judgeFrame at e
  dsimp only at e
  split at e
  · cases e
    exact slowFrame_kept (fastDone_kept K)
  · cases e
    exact sentFail_kept K

theorem takePulse_kept {p c len s x' t'} (K : Kept b0 s) (e : takePulse p c len s = (x', t')) : Kept b0 t' := by
  unfold takePulse at e
  dsimp only at e
  split at e
  · split at e
    · exact trySync_kept K ‹_›
    · cases e
      exact K
  · split at e
    · exact trySync_kept K ‹_›
    · cases e
      exact sentFail_kept K
  · split at e
    · cases e
      exact modTPort_kept K
    · cases e
      exact sentFail_kept K
  · split at e
    · exact trySync_kept (sentFail_kept K) ‹_›
    · split at e
      · cases e
        exact sentFail_kept K
      · split at e
        · cases e
          exact modTPort_kept K
        · exact judgeFrame_kept K ‹_›

theorem runPulses_kept {p l s x t} (K : Kept b0 s) (e : runPulses p l s = (x, t)) : Kept b0 t := by
  induction l generalizing s with
  | nil => cases e; exact K
  | cons len rest ih =>
    have hr : Kept b0 (endPulse p (takePulse p ((tportOf p s).next.getD (tSettings p s)) len s)).2 :=
      endPulse_kept (takePulse_kept K rfl) rfl
    unfold runPulses at e; dsimp only at e
    split at e
    · rw [e] at hr; exact hr
    · split at e
      · exact ih hr e
      · cases e; exact K

theorem sentPulses_kept {p wanted pulses s} (K : Kept b0 s) : Kept b0 (sentPulses p wanted pulses s) := by
  unfold sentPulses
  extract_lets +onlyGivenNames r
  have hr : Kept b0 r.2 := runPulses_kept K rfl
  clear_value r
  exact Kept.ite hr K

theorem effSentFrame_kept {p pulses t s0} (K : Kept b0 s0) : Kept b0 (effSentFrame p pulses t s0) := by
  unfold effSentFrame; exact sentPulses_kept (advance_kept K)

theorem effSentError_kept {p pulses t s0} (K : Kept b0 s0) : Kept b0 (effSentError p pulses t s0) := by
  unfold effSentError; exact sentPulses_kept (advance_kept K)

theorem effSentLineTimeout_kept {p t s0} (K : Kept b0 s0) : Kept b0 (effSentLineTimeout p t s0) := by
  unfold effSentLineTimeout
  extract_lets +onlyGivenNames s
  have hs : Kept b0 s := advance_kept K
  clear_value s
  exact Kept.ite (lineSilent_kept hs) hs

theorem phantomDequeue_kept {p s} (K : Kept b0 s) : Kept b0 (phantomDequeue p s) := by
  unfold phantomDequeue
  split
  · split
    · exact takeItem_kept K ‹_›
    · exact K
  · extract_lets +onlyGivenNames ch
    exact modCan_kept K

theorem phantomsAt_kept {n p s} (h : Kept b0 s) : Kept b0 (phantomsAt n p s) := by
  induction n generalizing s with
  | zero => exact h
  | succ n ih => unfold phantomsAt; exact Kept.ite (ih (phantomDequeue_kept (dropForced_kept h))) h

theorem supplyPhantoms_kept {s} (K : Kept b0 s) : Kept b0 (supplyPhantoms s) := by
  unfold supplyPhantoms
  extract_lets +onlyGivenNames _ s1
  have hs1 : Kept b0 s1 := Kept.upd K
  clear_value s1
  exact Kept.foldl (fun _ _ h2 => phantomsAt_kept h2) hs1

theorem effVerdictBatchWrite_kept {t s0} (K : Kept b0 s0) : Kept b0 (effVerdictBatchWrite t s0) := by
  unfold effVerdictBatchWrite; exact Kept.ite (writeBatch_kept (advance_kept K)) (advance_kept K)

theorem recGap_kept {input block count first last s} (K : Kept b0 s) : Kept b0 (recGap input block count first last s) := by
  unfold recGap; exact tapAppend_kept K

theorem effGapRecord_kept {loss s} (K : Kept b0 s) : Kept b0 (effGapRecord loss s) := by
  unfold effGapRecord
  split
  · extract_lets +onlyGivenNames s1
    have hs1 : Kept b0 s1 := recGap_kept K
    clear_value s1
    extract_lets +onlyGivenNames _ s2
    have hs2 : Kept b0 s2 := recTime_kept (Kept.upd hs1)
    clear_value s2
    exact keyframeDue_kept (attend_kept hs2)
  · exact K

theorem effTapArm_kept {s} (K : Kept b0 s) : Kept b0 (effTapArm s) := by
  unfold effTapArm
  extract_lets +onlyGivenNames v
  exact writeRow_kept (fun _ h => tapCtrlWrite_kept h) K

theorem effTapFrz_kept {s} (K : Kept b0 s) : Kept b0 (effTapFrz s) := by
  unfold effTapFrz
  extract_lets +onlyGivenNames v
  exact writeRow_kept (fun _ h => tapCtrlWrite_kept h) K

theorem sendRead_kept {a n s} (K : Kept b0 s) : Kept b0 (sendRead a n s) := by
  unfold sendRead
  extract_lets +onlyGivenNames _ _
  exact countFrame_kept (sendFrame_kept K)

theorem effReplayLoaderFill_kept {bytes fails s} (K : Kept b0 s) : Kept b0 (effReplayLoaderFill bytes fails s) := by
  unfold effReplayLoaderFill
  exact Kept.ite (Kept.ite (Kept.ite (loadFails_kept K) (endLoader_kept (Kept.upd K))) (Kept.ite (by
      extract_lets +onlyGivenNames _ s1
      have hs1 : Kept b0 s1 := sendRead_kept K
      clear_value s1
      exact pumpS0_kept (runLoader_kept (Kept.upd hs1))) K)) K

theorem postDivergence_kept {d s} (K : Kept b0 s) : Kept b0 (postDivergence d s) := by
  unfold postDivergence
  split
  · exact opPost_kept K
  · exact drawn_kept (opPost_kept K)

theorem postPending_kept {e s0} (K : Kept b0 s0) : Kept b0 (postPending e s0) := by
  unfold postPending
  extract_lets +onlyGivenNames mine _ s
  have hs : Kept b0 s := Kept.upd K
  clear_value s
  exact Kept.foldl (fun _ _ h0 => (postDivergence_kept h0)) hs

theorem finishReplay_kept {st opWhy why s0} (K : Kept b0 s0) : Kept b0 (finishReplay st opWhy why s0) := by
  unfold finishReplay
  extract_lets +onlyGivenNames s
  have hs : Kept b0 s := postPending_kept K
  clear_value s
  exact endOp_kept (Kept.upd hs)

theorem endAtLastMarker_kept {s} (K : Kept b0 s) : Kept b0 (endAtLastMarker s) := by
  unfold endAtLastMarker; exact Kept.ite (finishReplay_kept K) K

theorem runsOut_kept {s} (K : Kept b0 s) : Kept b0 (runsOut s) := by
  unfold runsOut
  split
  · exact K
  · exact finishReplay_kept K
  · exact finishReplay_kept K
  · exact finishReplay_kept K

theorem consumeRecord_kept {r s} (K : Kept b0 s) : Kept b0 (consumeRecord r s) := by
  unfold consumeRecord; exact runLoader_kept (Kept.upd K)

theorem diverge_kept {e kind point s0} (K : Kept b0 s0) : Kept b0 (diverge e kind point s0) := by
  unfold diverge
  extract_lets +onlyGivenNames _ s
  have hs : Kept b0 s := Kept.upd K
  clear_value s
  extract_lets +onlyGivenNames _ s1
  have hs1 : Kept b0 s1 := Kept.ite (attend_kept (Kept.upd hs)) hs
  clear_value s1
  extract_lets +onlyGivenNames _ s2
  have hs2 : Kept b0 s2 := Kept.ite hs1 (Kept.upd hs1)
  clear_value s2
  exact Kept.ite (finishReplay_kept hs2) hs2

theorem disorder_kept {s} (K : Kept b0 s) : Kept b0 (disorder s) := by
  unfold disorder; exact diverge_kept K

theorem laneInput_kept {r s} (K : Kept b0 s) : Kept b0 (laneInput r s) := by
  unfold laneInput
  extract_lets +onlyGivenNames _ _ _ _ _
  exact Kept.ite (Kept.ite (disorder_kept K) (Kept.ite (failOnWire_kept (grant_kept (countWord_kept (stickI_kept K)))) (Kept.ite (laneEnds_kept K) (disorder_kept K)))) (Kept.ite K (disorder_kept K))

theorem targetInput_kept {p r s} (K : Kept b0 s) : Kept b0 (targetInput p r s) := by
  unfold targetInput
  extract_lets +onlyGivenNames rx
  exact Kept.ite (targetRise_kept (targetFall_kept (Kept.upd K))) (disorder_kept K)

theorem probeInput_kept {p r s} (K : Kept b0 s) : Kept b0 (probeInput p r s) := by
  unfold probeInput
  split
  · exact countXfer_kept K
  · exact countNack_kept K
  · exact countWord_kept (stickI_kept K)
  · exact countWord_kept (stickI_kept K)

theorem callInput_kept {p r s} (K : Kept b0 s) : Kept b0 (callInput p r s) := by
  unfold callInput; exact Kept.ite (callEnds_kept (grants_kept K)) (disorder_kept K)

theorem portInput_kept {r s} (K : Kept b0 s) : Kept b0 (portInput r s) := by
  unfold portInput
  extract_lets +onlyGivenNames _
  split
  · exact laneInput_kept K
  · exact Kept.ite (callInput_kept K) (disorder_kept K)
  · exact Kept.ite (targetInput_kept K) (disorder_kept K)
  · exact Kept.ite (probeInput_kept K) (disorder_kept K)

theorem settleBus_kept {ch s} (K : Kept b0 s) : Kept b0 (settleBus ch s) := by
  unfold settleBus; exact modCan_kept (integrate_kept K)

theorem sentInput_kept {ch f sof s0} (K : Kept b0 s0) : Kept b0 (sentInput ch f sof s0) := by
  unfold sentInput
  extract_lets +onlyGivenNames s
  have hs : Kept b0 s := takeTx_kept K
  clear_value s
  split
  · exact Kept.ite (txDone_kept hs) (setCounters_kept (countCan_kept hs))
  · exact setCounters_kept (countCan_kept hs)

theorem canErrorInput_kept {ch lec r t s} (K : Kept b0 s) : Kept b0 (canErrorInput ch lec r t s) := by
  unfold canErrorInput; exact canError_kept (Kept.upd K)

theorem canInput_kept {r s0} (K : Kept b0 s0) : Kept b0 (canInput r s0) := by
  unfold canInput
  extract_lets ch evt s c f
  have hs : Kept b0 s := Kept.ite (settleBus_kept K) K
  clear_value evt s
  split
  · exact Kept.ite (receiveCan_kept hs) (disorder_kept K)
  · exact Kept.ite (sentInput_kept hs) (disorder_kept K)
  · exact Kept.ite (countCan_kept hs) (disorder_kept K)
  · exact Kept.ite (canErrorInput_kept hs) (disorder_kept K)
  · exact Kept.ite (protocolException_kept hs) (disorder_kept K)
  · exact Kept.ite (setCounters_kept hs) (Kept.ite hs (disorder_kept K))
  · exact Kept.ite (recoverCan_kept hs) (disorder_kept K)
  · exact disorder_kept K

theorem sentRecord_kept {r s} (K : Kept b0 s) : Kept b0 (sentRecord r s) := by
  unfold sentRecord
  extract_lets +onlyGivenNames _ _ _ _
  exact Kept.ite (by
      split
      · exact fastDone_kept (setStatWord_kept (modTPort_kept K))
      · exact slowDone_kept K
      · exact sentFail_kept K
      · exact sentFail_kept K
      · exact sentFail_kept K
      · exact sentFail_kept K
      · exact slowError_kept K
      · exact lineSilent_kept K
      · exact disorder_kept K) (disorder_kept K)

theorem authInput_kept {v result s0} (K : Kept b0 s0) : Kept b0 (authInput v result s0) := by
  unfold authInput
  extract_lets +onlyGivenNames s c
  have hs : Kept b0 s := Kept.ite (closeHostData_kept K) K
  clear_value s
  split
  · split
    · next h =>
      refine runCommand_kept (Kept.upd (emptyQueue_kept (abandonItem_kept hs))) fun e => ?_
      rw [e] at h; cases h
    · exact Kept.upd (emptyQueue_kept (abandonItem_kept hs))
  · exact Kept.upd hs

theorem directInput_kept {a v result s} (K : Kept b0 s) : Kept b0 (directInput a v result s) := by
  unfold directInput; exact Kept.ite K (Kept.ite (authInput_kept K) (writeReg_kept K))

theorem reinInput_kept {r s} (K : Kept b0 s) : Kept b0 (reinInput r s) := by
  unfold reinInput
  extract_lets +onlyGivenNames v result ask
  have hask {l} : Kept b0 (ask l) := grants_kept K
  clear_value ask
  exact Kept.ite (Kept.ite (directInput_kept hask) hask) (directInput_kept hask)

theorem compareMarker_kept {r s} (K : Kept b0 s) : Kept b0 (compareMarker r s) := by
  unfold compareMarker
  extract_lets +onlyGivenNames e skipped replayedSkip crcOk
  exact Kept.ite (diverge_kept K) (Kept.ite (diverge_kept K) K)

theorem markerInput_kept {r s0} (K : Kept b0 s0) : Kept b0 (markerInput r s0) := by
  unfold markerInput
  extract_lets +onlyGivenNames s
  have hs : Kept b0 s := compareMarker_kept K
  clear_value s
  split
  · extract_lets +onlyGivenNames s1
    have hs1 : Kept b0 s1 := postPending_kept hs
    clear_value s1
    extract_lets +onlyGivenNames _ s2
    have hs2 : Kept b0 s2 := Kept.ite (Kept.upd hs1) hs1
    clear_value s2
    exact Kept.ite (finishReplay_kept hs2) (Kept.ite (Kept.upd hs2) hs2)
  · exact hs

theorem stall_kept {p s} (K : Kept b0 s) : Kept b0 (stall p s) := by
  unfold stall
  extract_lets +onlyGivenNames s1
  have hs1 : Kept b0 s1 := diverge_kept K
  clear_value s1
  exact Kept.ite hs1 (dispatch_kept (supplyPhantoms_kept (dropForced_kept hs1)))

theorem replayMode_kept {r s} (K : Kept b0 s) : Kept b0 (replayMode r s) := by
  unfold replayMode; exact adapting_kept (fun _ h1 => staleWindows_kept (Kept.upd h1)) K

theorem replayTurn_kept {r s} (K : Kept b0 s) : Kept b0 (replayTurn r s) := by
  unfold replayTurn
  split
  · extract_lets +onlyGivenNames s1
    have hs1 : Kept b0 s1 := Kept.ite (applySwitch_kept K) K
    clear_value s1
    extract_lets +onlyGivenNames s2
    have hs2 : Kept b0 s2 := replayMode_kept hs1
    clear_value s2
    exact Kept.ite hs2 (diverge_kept hs2)
  · exact replayMode_kept K

theorem replayBoundary_kept {r turn s0} (K : Kept b0 s0) : Kept b0 (replayBoundary r turn s0) := by
  unfold replayBoundary
  extract_lets +onlyGivenNames b starts _ s1
  have hs1 : Kept b0 s1 := byApply_kept (Kept.upd K)
  clear_value s1
  extract_lets +onlyGivenNames ends _ s2
  have hs2 : Kept b0 s2 := Kept.ite (endEpoch_kept hs1) (Kept.upd hs1)
  clear_value s2
  extract_lets +onlyGivenNames period s3
  have hs3 : Kept b0 s3 := Kept.ite (settleAhead_kept (commitsReady_kept hs2)) hs2
  clear_value s3
  extract_lets +onlyGivenNames s4
  have hs4 : Kept b0 s4 := by
    dsimp -zeta only [s4]
    split
    · exact replayTurn_kept hs3
    · exact hs3
  clear_value s4
  split
  · extract_lets +onlyGivenNames s5
    have hs5 : Kept b0 s5 := setNextBoundary_kept hs4
    clear_value s5
    split
    · extract_lets +onlyGivenNames s6
      have hs6 : Kept b0 s6 := startEpoch_kept hs5
      clear_value s6
      exact Kept.ite hs6 (dueRuns_kept hs6)
    · exact hs5
  · exact hs4

theorem gapInput_kept {s} (K : Kept b0 s) : Kept b0 (gapInput s) := by
  unfold gapInput
  split
  · extract_lets +onlyGivenNames s1
    have hs1 : Kept b0 s1 := postPending_kept K
    clear_value s1
    exact Kept.upd hs1
  · exact finishReplay_kept K

theorem actOn_kept {r turn stalled misfit s0} (K : Kept b0 s0) : Kept b0 (actOn r turn stalled misfit s0) := by
  unfold actOn
  extract_lets +onlyGivenNames s
  have hs : Kept b0 s := by
    dsimp -zeta only [s]
    split
    · exact Kept.upd K
    · exact K
  clear_value s
  split
  · exact disorder_kept hs
  · split
    · exact portInput_kept hs
    · exact canInput_kept hs
    · exact sentRecord_kept hs
    · exact supplyPhantoms_kept (Kept.upd hs)
    · exact reinInput_kept hs
    · exact markerInput_kept hs
    · split
      · extract_lets +onlyGivenNames s1
        have hs1 : Kept b0 s1 := by
          dsimp -zeta only [s1]
          split
          · exact Kept.ite (stall_kept hs) hs
          · exact hs
        clear_value s1
        exact Kept.ite (replayBoundary_kept hs1) hs1
      · exact hs
    · exact replayMode_kept hs
    · exact gapInput_kept hs
    · exact hs

theorem takeRecord_kept {stalled misfit rs s} (K : Kept b0 s) : Kept b0 (takeRecord stalled misfit rs s) := by
  unfold takeRecord
  split
  · exact runsOut_kept K
  · split
    · exact K
    · split
      · exact K
      · extract_lets +onlyGivenNames whole
        split
        · exact takeFrontKeyframe_kept (postPending_kept K)
        · extract_lets +onlyGivenNames s1
          have hs1 : Kept b0 s1 := consumeRecord_kept (takeGood_kept K ‹_›)
          clear_value s1
          exact Kept.ite (replayProgress_kept hs1) (replayProgress_kept (actOn_kept hs1))

theorem effReplayRecord_kept {stalled misfit s0} (K : Kept b0 s0) : Kept b0 (effReplayRecord stalled misfit s0) := by
  unfold effReplayRecord
  extract_lets +onlyGivenNames s
  have hs : Kept b0 s := endAtLastMarker_kept K
  clear_value s
  split
  · extract_lets +onlyGivenNames rs
    exact Kept.ite (endAtLastMarker_kept (takeRecord_kept hs)) hs
  · exact hs

theorem effReplayGo_kept {s} (K : Kept b0 s) : Kept b0 (effReplayGo s) := by
  unfold effReplayGo
  extract_lets +onlyGivenNames v
  exact writeRow_kept (fun _ h => rplCtrlWrite_kept h) K

theorem kernelFault_kept {island s} (K : Kept b0 s) : Kept b0 (kernelFault island s) := by
  unfold kernelFault; exact (adapting_kept (fun _ h0 => (by
        extract_lets +onlyGivenNames s1
        have hs1 : Kept b0 s1 := stopRuns_kept (logFault_kept h0)
        clear_value s1
        extract_lets +onlyGivenNames s2
        have hs2 : Kept b0 s2 := cancelLanes_kept hs1
        clear_value s2
        exact (Kept.upd hs2))) K)

theorem settleDropped_kept {s} (K : Kept b0 s) : Kept b0 (settleDropped s) := by
  unfold settleDropped
  exact Kept.foldl (fun _ _ h1 => Kept.ite (Kept.foldl (fun _ _ h3 => Kept.ite (Kept.ite (by
      extract_lets +onlyGivenNames s1
      have hs1 : Kept b0 s1 := recTorn_kept h3
      clear_value s1
      exact failAttempt_kept (modLane_kept (Kept.ite (abortFrame_kept hs1) hs1))) (failAttempt_kept h3)) h3) h1) h1) K

theorem discardSample_kept {p s} (K : Kept b0 s) : Kept b0 (discardSample p s) := by
  unfold discardSample
  extract_lets +onlyGivenNames a
  exact missRun_kept (setStatWord_kept K)

theorem restartConditioning_kept {s} (K : Kept b0 s) : Kept b0 (restartConditioning s) := by
  unfold restartConditioning
  extract_lets +onlyGivenNames _ s1
  have hs1 : Kept b0 s1 := Kept.foldl (fun _ _ h1 => (discardSample_kept h1)) (Kept.upd K)
  clear_value s1
  exact resetCond_kept (staleWindows_kept hs1)

theorem restartExpress_kept {s} (K : Kept b0 s) : Kept b0 (restartExpress s) := by
  unfold restartExpress
  extract_lets +onlyGivenNames n
  exact Kept.upd K

theorem unitLoss_kept {u s} (K : Kept b0 s) : Kept b0 (unitLoss u s) := by
  unfold unitLoss; exact Kept.ite (restartConditioning_kept K) (Kept.ite (restartExpress_kept K) (Kept.ite (stopRuns_kept K) K))

theorem abandonRestarts_kept {u s} (K : Kept b0 s) : Kept b0 (abandonRestarts u s) := by
  unfold abandonRestarts; exact Kept.upd K

theorem giveUp_kept {u island s} (K : Kept b0 s) : Kept b0 (giveUp u island s) := by
  unfold giveUp; exact adapting_kept (fun _ h0 => (settleDropped_kept (failUnit_kept (unitLoss_kept (abandonRestarts_kept h0))))) K

theorem restartCan_kept {ch s} (K : Kept b0 s) : Kept b0 (restartCan ch s) := by
  unfold restartCan
  split
  · exact K
  · extract_lets +onlyGivenNames c0 s1
    have hs1 : Kept b0 s1 := startCan_kept (dropRxItem_kept K)
    clear_value s1
    exact settleLead_kept (modCan_kept hs1)

theorem restartLane_kept {i s} (K : Kept b0 s) : Kept b0 (restartLane i s) := by
  unfold restartLane; exact Kept.ite (endProbe_kept (releasePorts_kept K)) (cancelLane_kept K)

theorem restartCrypto_kept {s} (K : Kept b0 s) : Kept b0 (restartCrypto s) := by
  unfold restartCrypto
  split
  · exact K
  · exact rejectCommand_kept K

theorem restartTack_kept {s} (K : Kept b0 s) : Kept b0 (restartTack s) := by
  unfold restartTack
  split
  · exact K
  · extract_lets +onlyGivenNames s1
    have hs1 : Kept b0 s1 := tackFail_kept (tearJob_kept K)
    clear_value s1
    exact Kept.ite (endOp_kept hs1) hs1

theorem restartS_kept {p s} (K : Kept b0 s) : Kept b0 (restartS p s) := by
  unfold restartS
  extract_lets +onlyGivenNames s1
  have hs1 : Kept b0 s1 := cutS_kept (tornEntry_kept K)
  clear_value s1
  exact Kept.ite (Kept.ite (endOp_kept hs1) (pumpS0_kept hs1)) hs1

theorem restartI_kept {p s} (K : Kept b0 s) : Kept b0 (restartI p s) := by
  unfold restartI; exact cutI_kept K

theorem restartT_kept {p s} (K : Kept b0 s) : Kept b0 (restartT p s) := by
  unfold restartT; exact Kept.ite (sentDiscard_kept K) K

theorem restartTap_kept {s} (K : Kept b0 s) : Kept b0 (restartTap s) := by
  unfold restartTap; exact Kept.ite (effGapRecord_kept (tapDrawn_kept K)) K

theorem restartEffect_kept {island s} (K : Kept b0 s) : Kept b0 (restartEffect island s) := by
  unfold restartEffect
  split
  · exact restartCan_kept K
  · exact restartCan_kept K
  · exact restartConditioning_kept K
  · exact restartExpress_kept K
  · split
    · exact restartLane_kept K
    · exact K
  · exact Kept.upd K
  · exact Kept.ite (loseLock_kept K) K
  · exact restartCrypto_kept K
  · exact restartTack_kept K
  · split
    · exact Kept.ite (endOp_kept K) K
    · exact K
  · exact Kept.ite (restartS_kept K) (Kept.ite (restartI_kept K) (Kept.ite (restartT_kept K) (Kept.ite (restartTap_kept K) K)))

theorem classR_kept {code island detail s} (K : Kept b0 s) : Kept b0 (classR code island detail s) := by
  unfold classR
  extract_lets +onlyGivenNames u
  exact (Kept.ite (kernelFault_kept K) (Kept.ite K (Kept.ite (logFault_kept K) (Kept.ite (giveUp_kept K) (adapting_kept (fun _ h0 => (by
        extract_lets +onlyGivenNames s1
        have hs1 : Kept b0 s1 := logFault_kept h0
        clear_value s1
        extract_lets +onlyGivenNames _ s2
        have hs2 : Kept b0 s2 := Kept.upd hs1
        clear_value s2
        exact (restartEffect_kept hs2))) K)))))

theorem effLivenessProbeTimeout_kept {island t s0} (K : Kept b0 s0) : Kept b0 (effLivenessProbeTimeout island t s0) := by
  unfold effLivenessProbeTimeout
  extract_lets +onlyGivenNames s
  have hs : Kept b0 s := advance_kept K
  clear_value s
  exact Kept.ite (classR_kept hs) hs

theorem effHitchTimeout_kept {receiver sender t s0} (K : Kept b0 s0) : Kept b0 (effHitchTimeout receiver sender t s0) := by
  unfold effHitchTimeout
  extract_lets +onlyGivenNames s
  have hs : Kept b0 s := advance_kept K
  clear_value s
  exact Kept.ite (classR_kept hs) hs

theorem effIslandRestartDone_kept {island s} (K : Kept b0 s) : Kept b0 (effIslandRestartDone island s) := by
  unfold effIslandRestartDone
  split
  · extract_lets +onlyGivenNames rest
    exact dispatch_kept (Kept.upd K)
  · exact K

theorem clockLostS_kept {p s} (K : Kept b0 s) : Kept b0 (clockLostS p s) := by
  unfold clockLostS
  extract_lets +onlyGivenNames s1
  have hs1 : Kept b0 s1 := cutS_kept K
  clear_value s1
  exact Kept.ite hs1 (stickS_kept hs1)

theorem clockLost_kept {n s} (K : Kept b0 s) : Kept b0 (clockLost n s) := by
  unfold clockLost
  exact Kept.ite (clockLostS_kept K) (Kept.ite (by
      extract_lets +onlyGivenNames _ s1
      have hs1 : Kept b0 s1 := Kept.ite (stickI_kept (cutI_kept K)) K
      clear_value s1
      exact modIPort_kept hs1) (Kept.ite (by
      split
      · exact sentFail_kept K
      · exact K) (dropRxItem_kept K)))

theorem effPllUnlock_kept {s} (K : Kept b0 s) : Kept b0 (effPllUnlock s) := by
  unfold effPllUnlock
  exact Kept.ite (adapting_kept (fun _ h2 => by
      extract_lets +onlyGivenNames s1
      have hs1 : Kept b0 s1 := Kept.foldl (fun _ _ h4 => tornEntry_kept h4) h2
      clear_value s1
      extract_lets +onlyGivenNames _ s2
      have hs2 : Kept b0 s2 := Kept.foldl (fun _ _ h4 => clockLost_kept h4) (Kept.upd hs1)
      clear_value s2
      exact loseLock_kept (Kept.foldl (fun _ _ h5 => Kept.ite h5 (stickS_kept h5)) hs2)) K) K

theorem effPllRelock_kept {lasted t s0} (K : Kept b0 s0) : Kept b0 (effPllRelock lasted t s0) := by
  unfold effPllRelock
  extract_lets +onlyGivenNames s
  have hs : Kept b0 s := advance_kept K
  clear_value s
  exact Kept.ite (Kept.foldl (fun _ _ h3 => pumpPort_kept h3) (adapting_kept (fun _ h4 => logFault_kept (Kept.upd h4)) hs)) hs

theorem effClockLossTimeout_kept {t s0} (K : Kept b0 s0) : Kept b0 (effClockLossTimeout t s0) := by
  unfold effClockLossTimeout
  extract_lets +onlyGivenNames s
  have hs : Kept b0 s := advance_kept K
  clear_value s
  exact Kept.ite (clockLoss_kept hs) hs

theorem effCrystalStop_kept {t s0} (K : Kept b0 s0) : Kept b0 (effCrystalStop t s0) := by
  unfold effCrystalStop
  extract_lets +onlyGivenNames s
  have hs : Kept b0 s := advance_kept K
  clear_value s
  exact Kept.ite (clockLoss_kept (Kept.upd hs)) hs

theorem effVsupLow_kept {t s0} (K : Kept b0 s0) : Kept b0 (effVsupLow t s0) := by
  unfold effVsupLow
  extract_lets +onlyGivenNames s
  have hs : Kept b0 s := advance_kept K
  clear_value s
  exact Kept.ite hs (logFault_kept hs)

theorem effVsupLowEnd_kept {s} (K : Kept b0 s) : Kept b0 (effVsupLowEnd s) := by
  unfold effVsupLowEnd; exact endFault_kept K

theorem effAuthCommandRejected_kept {r s} (K : Kept b0 s) : Kept b0 (effAuthCommandRejected r s) := by
  unfold effAuthCommandRejected
  split
  · exact Kept.ite (writeRow_kept (fun _ h3 => authOpWrite_kept h3) K) K
  · split
    · exact K
    · exact Kept.ite K (by
          split
          · exact rejectCommand_kept (firstFailure_kept K ‹_›)
          · exact K)

theorem effWakeWatcherFrame_kept {ch f s} (K : Kept b0 s) : Kept b0 (effWakeWatcherFrame ch f s) := by
  unfold effWakeWatcherFrame; exact Kept.ite (modCan_kept K) K

theorem effControlFieldEnd_kept {ch f s} (K : Kept b0 s) : Kept b0 (effControlFieldEnd ch f s) := by
  unfold effControlFieldEnd; exact Kept.ite (controlField_kept K) K

theorem effProtocolExceptionIdle_kept {ch s} (K : Kept b0 s) : Kept b0 (effProtocolExceptionIdle ch s) := by
  unfold effProtocolExceptionIdle; exact Kept.ite K (modCan_kept K)

theorem effSentSync_kept {p pulses t s0} (K : Kept b0 s0) : Kept b0 (effSentSync p pulses t s0) := by
  unfold effSentSync; exact sentPulses_kept (advance_kept K)

theorem effBusBusy_kept {p s} (K : Kept b0 s) : Kept b0 (effBusBusy p s) := by
  unfold effBusBusy; exact Kept.ite (modIPort_kept K) K

theorem effLivenessSweep_kept {s} (K : Kept b0 s) : Kept b0 (effLivenessSweep s) := by
  unfold effLivenessSweep; exact Kept.ite (Kept.upd K) K

end Sys2Proof.Laws
end

