-- ==== Sys2Proof/Laws/Lasting.lean ====
section
/-! SUPPORT. What aborts a port's work, ends a run, fails a unit or ends a long operation leaves alone: the mode shown, the phases of power, the
key slots and the host's settings. -/

namespace Sys2Proof.Laws

set_option Elab.async false

open Sys2Proof.Machine

/-- `t` shows the mode and has the phases of power, the supplies, the key slots and the host's settings of `u`. -/
structure Lasting (u t : State) : Prop where
  cur : t.mode.cur = u.mode.cur
  farrierExit : t.mode.farrierExit = u.mode.farrierExit
  hwch : t.mode.hwch = u.mode.hwch
  boot : t.power.boot = u.power.boot
  sleep : t.power.sleep = u.power.sleep
  clockLost : t.power.clockLost = u.power.clockLost
  pllLocked : t.power.pllLocked = u.power.pllLocked
  crystal : t.power.crystalStopped = u.power.crystalStopped
  rstCause : t.power.rstCause = u.power.rstCause
  bankLow : t.power.bankLow = u.power.bankLow
  pwr : t.power.pwr = u.power.pwr
  wakeCfg : t.power.wakeCfg = u.power.wakeCfg
  slots : t.tack.slots = u.tack.slots
  mask : t.attn.mask = u.attn.mask
  scratch : t.attn.scratch = u.attn.scratch
  stallTmo : t.pool.stallTmo = u.pool.stallTmo
  trig : t.tap.trig = u.tap.trig
  winAddr : t.rein.winAddr = u.rein.winAddr
  restarting : t.fault.restarting = u.fault.restarting
  pending : t.pending = u.pending

variable {b0 s t : State}

theorem Lasting.refl : Lasting s s := ⟨rfl, rfl, rfl, rfl, rfl, rfl, rfl, rfl, rfl, rfl, rfl, rfl, rfl, rfl, rfl, rfl, rfl, rfl, rfl, rfl⟩

theorem Lasting.trans (h : Lasting b0 s) (k : Lasting s t) : Lasting b0 t :=
  ⟨k.cur.trans h.cur, k.farrierExit.trans h.farrierExit, k.hwch.trans h.hwch, k.boot.trans h.boot, k.sleep.trans h.sleep, k.clockLost.trans h.clockLost, k.pllLocked.trans h.pllLocked, k.crystal.trans h.crystal, k.rstCause.trans h.rstCause, k.bankLow.trans h.bankLow, k.pwr.trans h.pwr, k.wakeCfg.trans h.wakeCfg, k.slots.trans h.slots, k.mask.trans h.mask, k.scratch.trans h.scratch, k.stallTmo.trans h.stallTmo, k.trig.trans h.trig, k.winAddr.trans h.winAddr, k.restarting.trans h.restarting, k.pending.trans h.pending⟩

/-- An update of other fields. -/
theorem Lasting.upd (h : Lasting b0 s) (e : Lasting s t := by with_reducible exact ⟨rfl, rfl, rfl, rfl, rfl, rfl, rfl, rfl, rfl, rfl, rfl, rfl, rfl, rfl, rfl, rfl, rfl, rfl, rfl, rfl⟩) : Lasting b0 t :=
  Lasting.trans h e

theorem Lasting.ite {c : Prop} [Decidable c] (hs : Lasting b0 s) (ht : Lasting b0 t) : Lasting b0 (if c then s else t) := by
  split <;> assumption

theorem Lasting.iteR {c : Prop} [Decidable c] {r q : Reply} (hr : Lasting b0 r.s) (hq : Lasting b0 q.s) :
    Lasting b0 (if c then r else q).s := by
  split <;> assumption

theorem Lasting.foldl {α : Type} {f : State → α → State} (hf : ∀ x a, Lasting b0 x → Lasting b0 (f x a)) {l : List α} :
    ∀ {s : State}, Lasting b0 s → Lasting b0 (l.foldl f s) := by
  induction l with
  | nil => exact fun h => h
  | cons a l ih => exact fun h => ih (hf _ a h)

theorem modQueue_lasting {q f s} (K : Lasting b0 s) : Lasting b0 (modQueue q f s) := by
  unfold modQueue; exact Lasting.upd K

theorem countFlushDrop_lasting {s} (K : Lasting b0 s) : Lasting b0 (countFlushDrop s) := by
  unfold countFlushDrop; exact Lasting.upd K

theorem dropForced_lasting {p s} (K : Lasting b0 s) : Lasting b0 (dropForced p s) := by
  unfold dropForced; exact Lasting.upd K

theorem grant_lasting {p b s} (K : Lasting b0 s) : Lasting b0 (grant p b s) := by
  unfold grant; exact Lasting.ite (Lasting.ite (dropForced_lasting K) K) (Lasting.ite (Lasting.upd K) K)

theorem grants_lasting {l s} (K : Lasting b0 s) : Lasting b0 (grants l s) := by
  unfold grants; exact Lasting.foldl (fun _ _ h1 => grant_lasting h1) K

theorem hostDequeued_lasting {q x s} (K : Lasting b0 s) : Lasting b0 (hostDequeued q x s) := by
  unfold hostDequeued; exact grants_lasting (modQueue_lasting K)

theorem serveStall_lasting {s} (K : Lasting b0 s) : Lasting b0 (serveStall s) := by
  unfold serveStall
  split
  · split
    · exact K
    · exact grant_lasting (hostDequeued_lasting (Lasting.upd K))
  · exact K

theorem drawn_lasting {s} (K : Lasting b0 s) : Lasting b0 (drawn s) := by
  unfold drawn; exact Lasting.upd K

theorem putCells_lasting {cells i bs s} (K : Lasting b0 s) : Lasting b0 (putCells cells i bs s) := by
  unfold putCells; exact Lasting.upd K

theorem writeOpen_lasting {q who bs s} (K : Lasting b0 s) : Lasting b0 (writeOpen q who bs s) := by
  unfold writeOpen
  split
  · exact K
  · extract_lets +onlyGivenNames _ _
    exact grants_lasting (putCells_lasting (modQueue_lasting K))

theorem closeItem_lasting {q who bytes kind s} (K : Lasting b0 s) : Lasting b0 (closeItem q who bytes kind s) := by
  unfold closeItem
  extract_lets +onlyGivenNames s1
  have hs1 : Lasting b0 s1 := writeOpen_lasting K
  clear_value s1
  split
  · exact hs1
  · exact Lasting.ite (grant_lasting (countFlushDrop_lasting (modQueue_lasting hs1))) (by
        extract_lets +onlyGivenNames _ s11
        have hs11 : Lasting b0 s11 := modQueue_lasting hs1
        clear_value s11
        exact serveStall_lasting (grant_lasting (Lasting.ite (grant_lasting hs11) hs11)))

theorem abandonItem_lasting {q who s} (K : Lasting b0 s) : Lasting b0 (abandonItem q who s) := by
  unfold abandonItem; exact grant_lasting (modQueue_lasting K)

theorem closeBlock_lasting {s} (K : Lasting b0 s) : Lasting b0 (closeBlock s) := by
  unfold closeBlock; exact Lasting.ite (abandonItem_lasting K) (closeItem_lasting K)

theorem attend_lasting {n s} (K : Lasting b0 s) : Lasting b0 (attend n s) := by
  unfold attend
  extract_lets +onlyGivenNames s1
  have hs1 : Lasting b0 s1 := Lasting.ite (grant_lasting (grant_lasting K)) K
  clear_value s1
  exact grant_lasting (Lasting.upd hs1)

theorem freeze_lasting {cause s} (K : Lasting b0 s) : Lasting b0 (freeze cause s) := by
  unfold freeze
  split
  · exact K
  · extract_lets +onlyGivenNames s1
    have hs1 : Lasting b0 s1 := closeBlock_lasting K
    clear_value s1
    exact attend_lasting (Lasting.upd hs1)

theorem tapTrigger_lasting {n s} (K : Lasting b0 s) : Lasting b0 (tapTrigger n s) := by
  unfold tapTrigger; exact Lasting.ite (Lasting.ite (freeze_lasting K) (Lasting.upd K)) K

theorem openItem_lasting {q n who prio s} (K : Lasting b0 s) : Lasting b0 (openItem q n who prio s) := by
  unfold openItem
  extract_lets +onlyGivenNames _
  exact modQueue_lasting (Lasting.upd K)

theorem tapDrawn_lasting {s} (K : Lasting b0 s) : Lasting b0 (tapDrawn s) := by
  unfold tapDrawn; exact Lasting.upd K

theorem streamOut_lasting {bs s} (K : Lasting b0 s) : Lasting b0 (streamOut bs s) := by
  unfold streamOut; exact Lasting.ite (Lasting.ite (tapDrawn_lasting (Lasting.upd K)) (tapDrawn_lasting (Lasting.upd K))) K

theorem reserve_lasting {q n who prio s t} (h : Lasting b0 s) (e : reserve q n who prio s = some t) : Lasting b0 t := by
  unfold reserve at e
  split at e
  · cases e
    exact grants_lasting (openItem_lasting h)
  · cases e

theorem dropOldest_lasting {q rest s} (K : Lasting b0 s) : Lasting b0 (dropOldest q rest s) := by
  unfold dropOldest; exact grants_lasting (modQueue_lasting K)

theorem makeRingRoom_lasting {n s} (h : Lasting b0 s) : Lasting b0 (makeRingRoom n s) := by
  induction n generalizing s with
  | zero => exact h
  | succ n ih =>
    unfold makeRingRoom; split
    · exact h
    · split
      · exact h
      · exact ih (Lasting.upd (dropOldest_lasting h))

theorem haveBlock_lasting {s t} (h : Lasting b0 s) (e : haveBlock s = some t) : Lasting b0 t := by
  unfold haveBlock at e
  split at e
  · cases e
    exact h
  · exact reserve_lasting (makeRingRoom_lasting h) ‹_›

theorem putRecord_lasting {type flags body s} (K : Lasting b0 s) : Lasting b0 (putRecord type flags body s) := by
  unfold putRecord
  extract_lets +onlyGivenNames _
  split
  · exact K
  · extract_lets +onlyGivenNames s2
    have hs2 : Lasting b0 s2 := writeOpen_lasting (haveBlock_lasting (Lasting.ite (closeBlock_lasting K) K) ‹_›)
    clear_value s2
    exact streamOut_lasting (Lasting.upd hs2)

theorem recVerdicts_lasting {es s} (K : Lasting b0 s) : Lasting b0 (recVerdicts es s) := by
  unfold recVerdicts
  extract_lets +onlyGivenNames _ _
  exact putRecord_lasting K

theorem writeFull_lasting {n s} (h : Lasting b0 s) : Lasting b0 (writeFull n s) := by
  induction n generalizing s with
  | zero => exact h
  | succ n ih =>
    unfold writeFull; dsimp only; split
    · exact h
    · exact ih (recVerdicts_lasting (Lasting.upd h))

theorem tapAppend_lasting {type flags body s} (K : Lasting b0 s) : Lasting b0 (tapAppend type flags body s) := by
  unfold tapAppend; exact Lasting.ite (putRecord_lasting (writeFull_lasting K)) K

theorem recFault_lasting {code island detail s} (K : Lasting b0 s) : Lasting b0 (recFault code island detail s) := by
  unfold recFault; exact tapAppend_lasting K

theorem logFault_lasting {code cls island detail s0} (K : Lasting b0 s0) : Lasting b0 (logFault code cls island detail s0) := by
  unfold logFault
  extract_lets +onlyGivenNames _ _ s1
  have hs1 : Lasting b0 s1 := Lasting.upd K
  clear_value s1
  exact tapTrigger_lasting (recFault_lasting (attend_lasting (grant_lasting (grant_lasting hs1))))

theorem gainLock_lasting {s} (K : Lasting b0 s) : Lasting b0 (gainLock s) := by
  unfold gainLock; exact Lasting.ite K (attend_lasting (Lasting.upd K))

theorem loseLock_lasting {s} (K : Lasting b0 s) : Lasting b0 (loseLock s) := by
  unfold loseLock; exact Lasting.ite (attend_lasting (Lasting.upd K)) (Lasting.upd K)

theorem modCan_lasting {ch f s} (K : Lasting b0 s) : Lasting b0 (modCan ch f s) := by
  unfold modCan; split <;> exact Lasting.upd K

theorem withdrawSync_lasting {s} (K : Lasting b0 s) : Lasting b0 (withdrawSync s) := by
  unfold withdrawSync
  extract_lets +onlyGivenNames drop
  have hdrop {ch} {s} (hs' : Lasting b0 s) : Lasting b0 (drop ch s) := by
    dsimp -zeta only [drop]
    extract_lets +onlyGivenNames s1
    have hs1 : Lasting b0 s1 := modQueue_lasting hs'
    clear_value s1
    exact modCan_lasting hs1
  clear_value drop
  extract_lets +onlyGivenNames s1
  have hs1 : Lasting b0 s1 := hdrop (hdrop (Lasting.ite (grants_lasting K) K))
  clear_value s1
  exact Lasting.upd hs1

theorem settleLead_lasting {s} (K : Lasting b0 s) : Lasting b0 (settleLead s) := by
  unfold settleLead
  split
  · extract_lets +onlyGivenNames _ s1
    have hs1 : Lasting b0 s1 := Lasting.upd K
    clear_value s1
    exact Lasting.ite (gainLock_lasting hs1) (loseLock_lasting hs1)
  · exact Lasting.ite (withdrawSync_lasting (loseLock_lasting (Lasting.upd K))) K

theorem startCan_lasting {ch s} (K : Lasting b0 s) : Lasting b0 (startCan ch s) := by
  unfold startCan
  extract_lets +onlyGivenNames _ s1
  have hs1 : Lasting b0 s1 := grant_lasting K
  clear_value s1
  exact modCan_lasting hs1

theorem canEvent_lasting {ch n s} (K : Lasting b0 s) : Lasting b0 (canEvent ch n s) := by
  unfold canEvent; exact attend_lasting (modCan_lasting K)

theorem refuseStart_lasting {ch why s} (K : Lasting b0 s) : Lasting b0 (refuseStart ch why s) := by
  unfold refuseStart; exact canEvent_lasting (modCan_lasting K)

theorem settleCan_lasting {ch s} (K : Lasting b0 s) : Lasting b0 (settleCan ch s) := by
  unfold settleCan
  extract_lets +onlyGivenNames on s1
  have hs1 : Lasting b0 s1 := modCan_lasting K
  clear_value s1
  exact Lasting.ite (Lasting.ite (startCan_lasting hs1) (refuseStart_lasting hs1)) hs1

theorem settleCans_lasting {s} (K : Lasting b0 s) : Lasting b0 (settleCans s) := by
  unfold settleCans; exact settleLead_lasting (settleCan_lasting (settleCan_lasting K))

theorem modIPort_lasting {p f s} (K : Lasting b0 s) : Lasting b0 (modIPort p f s) := by
  unfold modIPort; exact Lasting.upd K

theorem modTPort_lasting {p f s} (K : Lasting b0 s) : Lasting b0 (modTPort p f s) := by
  unfold modTPort; exact Lasting.upd K

theorem modSPort_lasting {p f s} (K : Lasting b0 s) : Lasting b0 (modSPort p f s) := by
  unfold modSPort; exact Lasting.upd K

theorem releaseSelect_lasting {p s} (K : Lasting b0 s) : Lasting b0 (releaseSelect p s) := by
  unfold releaseSelect; exact modSPort_lasting K

theorem takeItem_lasting {q s x t} (h : Lasting b0 s) (e : takeItem q s = some (x, t)) : Lasting b0 t := by
  unfold takeItem at e
  split at e
  · cases e
  · split at e
    · cases e
      exact grants_lasting (modQueue_lasting h)
    · cases e

theorem skipBad_lasting {n q s} (h : Lasting b0 s) : Lasting b0 (skipBad n q s) := by
  induction n generalizing s with
  | zero => exact h
  | succ n ih =>
    unfold skipBad; split
    · exact h
    · split
      · exact ih (takeItem_lasting h ‹_›)
      · exact h

theorem takeGood_lasting {n q s x t} (h : Lasting b0 s) (e : takeGood n q s = some (x, t)) : Lasting b0 t := by
  unfold takeGood at e
  exact takeItem_lasting (skipBad_lasting h) ‹_›

theorem loadTarget_lasting {p s} (K : Lasting b0 s) : Lasting b0 (loadTarget p s) := by
  unfold loadTarget
  split
  · split
    · exact K
    · extract_lets +onlyGivenNames n
      exact modSPort_lasting (takeGood_lasting K ‹_›)
  · exact K

theorem loadTargets_lasting {s} (K : Lasting b0 s) : Lasting b0 (loadTargets s) := by
  unfold loadTargets; exact Lasting.foldl (fun _ _ h0 => (loadTarget_lasting h0)) K

theorem settlePorts_lasting {old s} (hs : Lasting b0 s) : Lasting b0 (settlePorts old s) := by
  unfold settlePorts
  refine Lasting.foldl (fun _ _ h0 => ?_) (loadTargets_lasting hs)
  extract_lets +onlyGivenNames s1
  have hs1 : Lasting b0 s1 := Lasting.ite (modIPort_lasting h0) h0
  clear_value s1
  extract_lets +onlyGivenNames s2
  have hs2 : Lasting b0 s2 := Lasting.ite (modTPort_lasting hs1) hs1
  clear_value s2
  exact Lasting.ite (releaseSelect_lasting hs2) hs2

theorem setStatByte_lasting {a v s} (K : Lasting b0 s) : Lasting b0 (setStatByte a v s) := by
  unfold setStatByte; exact Lasting.upd K

theorem setEstat_lasting {n b on s} (K : Lasting b0 s) : Lasting b0 (setEstat n b on s) := by
  unfold setEstat
  extract_lets +onlyGivenNames v
  exact setStatByte_lasting K

theorem purgeHeld_lasting {s} (K : Lasting b0 s) : Lasting b0 (purgeHeld s) := by
  unfold purgeHeld
  extract_lets +onlyGivenNames gone
  exact Lasting.foldl (fun _ _ h0 => (setEstat_lasting h0)) (Lasting.upd K)

theorem opEnd_lasting {st why s} (K : Lasting b0 s) : Lasting b0 (opEnd st why s) := by
  unfold opEnd; exact attend_lasting (grant_lasting (Lasting.upd K))

theorem setLast_lasting {n code s} (K : Lasting b0 s) : Lasting b0 (setLast n code s) := by
  unfold setLast; exact setStatByte_lasting K

theorem countByte_lasting {a s} (K : Lasting b0 s) : Lasting b0 (countByte a s) := by
  unfold countByte; exact setStatByte_lasting K

theorem countEp_lasting {n o s} (K : Lasting b0 s) : Lasting b0 (countEp n o s) := by
  unfold countEp; exact countByte_lasting K

theorem orphanRun_lasting {n started s} (K : Lasting b0 s) : Lasting b0 (orphanRun n started s) := by
  unfold orphanRun
  extract_lets +onlyGivenNames s1
  have hs1 : Lasting b0 s1 := setLast_lasting (setEstat_lasting K)
  clear_value s1
  exact Lasting.ite (setEstat_lasting (countEp_lasting hs1)) hs1

theorem modBank_lasting {b f s} (K : Lasting b0 s) : Lasting b0 (modBank b f s) := by
  unfold modBank; exact Lasting.ite (Lasting.upd K) (Lasting.ite (Lasting.upd K) (Lasting.ite (Lasting.upd K) K))

theorem putSlot_lasting {b n x s} (K : Lasting b0 s) : Lasting b0 (putSlot b n x s) := by
  unfold putSlot; exact modBank_lasting K

theorem markMiss_lasting {n due s} (K : Lasting b0 s) : Lasting b0 (markMiss n due s) := by
  unfold markMiss
  split
  · exact K
  · exact Lasting.ite (Lasting.ite (Lasting.upd K) (putSlot_lasting K)) (Lasting.upd K)

theorem missRun_lasting {n due code s} (K : Lasting b0 s) : Lasting b0 (missRun n due code s) := by
  unfold missRun
  extract_lets +onlyGivenNames s1
  have hs1 : Lasting b0 s1 := markMiss_lasting (setLast_lasting (countEp_lasting (setEstat_lasting K)))
  clear_value s1
  exact Lasting.ite (tapTrigger_lasting hs1) hs1

theorem modLane_lasting {i f s} (K : Lasting b0 s) : Lasting b0 (modLane i f s) := by
  unfold modLane; exact Lasting.upd K

theorem openFrame_lasting {p who f s} (K : Lasting b0 s) : Lasting b0 (openFrame p who f s) := by
  unfold openFrame; exact grants_lasting (modSPort_lasting K)

theorem sendFrame_lasting {p who f out s} (K : Lasting b0 s) : Lasting b0 (sendFrame p who f out s) := by
  unfold sendFrame; exact modSPort_lasting (openFrame_lasting K)

theorem sendFill_lasting {l s} (K : Lasting b0 s) : Lasting b0 (sendFill l s) := by
  unfold sendFill
  extract_lets +onlyGivenNames _ _
  exact sendFrame_lasting K

theorem beginFill_lasting {l waited s} (K : Lasting b0 s) : Lasting b0 (beginFill l waited s) := by
  unfold beginFill; exact modSPort_lasting (sendFill_lasting K)

theorem startFill_lasting {s} (K : Lasting b0 s) : Lasting b0 (startFill s) := by
  unfold startFill
  split
  · exact Lasting.ite (beginFill_lasting K) K
  · exact K

theorem setStatWord_lasting {a v s} (K : Lasting b0 s) : Lasting b0 (setStatWord a v s) := by
  unfold setStatWord; exact Lasting.upd K

theorem countWord_lasting {a s} (K : Lasting b0 s) : Lasting b0 (countWord a s) := by
  unfold countWord; exact setStatWord_lasting K

theorem countFrame_lasting {p s} (K : Lasting b0 s) : Lasting b0 (countFrame p s) := by
  unfold countFrame; exact countWord_lasting K

theorem sendFlash_lasting {op addr data reads s} (K : Lasting b0 s) : Lasting b0 (sendFlash op addr data reads s) := by
  unfold sendFlash
  extract_lets +onlyGivenNames _ _
  exact countFrame_lasting (sendFrame_lasting K)

theorem startEnable_lasting {s} (K : Lasting b0 s) : Lasting b0 (startEnable s) := by
  unfold startEnable
  split
  · exact Lasting.ite (by
        extract_lets +onlyGivenNames s1
        have hs1 : Lasting b0 s1 := sendFlash_lasting K
        clear_value s1
        exact Lasting.upd hs1) K
  · exact K

theorem sendSfdp_lasting {addr reads s} (K : Lasting b0 s) : Lasting b0 (sendSfdp addr reads s) := by
  unfold sendSfdp
  extract_lets +onlyGivenNames _ _
  exact sendFrame_lasting K

theorem startSfdp_lasting {s} (K : Lasting b0 s) : Lasting b0 (startSfdp s) := by
  unfold startSfdp; exact Lasting.ite (modSPort_lasting (sendSfdp_lasting K)) K

theorem pumpS0_lasting {s} (K : Lasting b0 s) : Lasting b0 (pumpS0 s) := by
  unfold pumpS0; exact startFill_lasting (startEnable_lasting (startSfdp_lasting K))

theorem dropHold_lasting {p s} (K : Lasting b0 s) : Lasting b0 (dropHold p s) := by
  unfold dropHold
  split
  · extract_lets +onlyGivenNames v
    exact setStatWord_lasting (modIPort_lasting K)
  · exact K

theorem sendI_lasting {p who bs s} (K : Lasting b0 s) : Lasting b0 (sendI p who bs s) := by
  unfold sendI; exact grants_lasting (modIPort_lasting K)

theorem startPt_lasting {p s} (K : Lasting b0 s) : Lasting b0 (startPt p s) := by
  unfold startPt; exact Lasting.ite (modIPort_lasting (dropHold_lasting (sendI_lasting K))) K

theorem pumpPort_lasting {n s} (K : Lasting b0 s) : Lasting b0 (pumpPort n s) := by
  unfold pumpPort; exact Lasting.ite (pumpS0_lasting K) (Lasting.ite (startPt_lasting K) K)

theorem releasePorts_lasting {i s} (K : Lasting b0 s) : Lasting b0 (releasePorts i s) := by
  unfold releasePorts
  extract_lets +onlyGivenNames _ s1
  have hs1 : Lasting b0 s1 := Lasting.foldl (fun _ _ h2 => Lasting.ite (releaseSelect_lasting h2) h2) K
  clear_value s1
  extract_lets +onlyGivenNames s2
  have hs2 : Lasting b0 s2 := modLane_lasting hs1
  clear_value s2
  exact Lasting.foldl (fun _ _ h2 => pumpPort_lasting h2) (grants_lasting hs2)

theorem clearLane_lasting {i s} (K : Lasting b0 s) : Lasting b0 (clearLane i s) := by
  unfold clearLane; exact grant_lasting (modLane_lasting K)

theorem cancelLane_lasting {i code s} (K : Lasting b0 s) : Lasting b0 (cancelLane i code s) := by
  unfold cancelLane
  extract_lets +onlyGivenNames _
  exact Lasting.ite K (by
      extract_lets +onlyGivenNames s1
      have hs1 : Lasting b0 s1 := Lasting.ite K (Lasting.ite (grant_lasting (orphanRun_lasting K)) (missRun_lasting K))
      clear_value s1
      split
      · exact modLane_lasting hs1
      · exact clearLane_lasting (releasePorts_lasting hs1))

theorem cancelLanes_lasting {p code s} (K : Lasting b0 s) : Lasting b0 (cancelLanes p code s) := by
  unfold cancelLanes; exact Lasting.foldl (fun _ _ h0 => (Lasting.ite (cancelLane_lasting h0) h0)) K

theorem freeDrain_lasting {s} (K : Lasting b0 s) : Lasting b0 (freeDrain s) := by
  unfold freeDrain
  extract_lets +onlyGivenNames s1
  have hs1 : Lasting b0 s1 := modQueue_lasting (abandonItem_lasting K)
  clear_value s1
  exact Lasting.upd hs1

theorem endJob_lasting {s} (K : Lasting b0 s) : Lasting b0 (endJob s) := by
  unfold endJob
  extract_lets +onlyGivenNames s1
  have hs1 : Lasting b0 s1 := grants_lasting K
  clear_value s1
  exact Lasting.upd hs1

theorem clearRun_lasting {n s} (K : Lasting b0 s) : Lasting b0 (clearRun n s) := by
  unfold clearRun
  extract_lets +onlyGivenNames v
  exact setStatByte_lasting K

theorem endReplay_lasting {s} (K : Lasting b0 s) : Lasting b0 (endReplay s) := by
  unfold endReplay
  split
  · extract_lets +onlyGivenNames eps t s1
    have hs1 : Lasting b0 s1 := Lasting.foldl (fun _ _ h1 => clearRun_lasting h1) K
    clear_value s1
    exact Lasting.upd hs1
  · exact K

theorem modPin_lasting {i f s} (K : Lasting b0 s) : Lasting b0 (modPin i f s) := by
  unfold modPin; exact Lasting.upd K

theorem beginTransit_lasting {i s} (K : Lasting b0 s) : Lasting b0 (beginTransit i s) := by
  unfold beginTransit; exact Lasting.ite (grant_lasting (drawn_lasting (modPin_lasting K))) K

theorem settlePin_lasting {old s i} (hs : Lasting b0 s) : Lasting b0 (settlePin old s i) := by
  unfold settlePin
  extract_lets +onlyGivenNames s1
  have hs1 : Lasting b0 s1 := by
    dsimp only [s1]
    split
    · exact modPin_lasting hs
    · exact hs
  clear_value s1
  exact Lasting.ite (beginTransit_lasting hs1) hs1

theorem settlePins_lasting {old s} (hs : Lasting b0 s) : Lasting b0 (settlePins old s) := by
  unfold settlePins; exact Lasting.foldl (fun _ _ h1 => settlePin_lasting h1) hs

theorem adapting_lasting {f s} (hf : ∀ x, Lasting b0 x → Lasting b0 (f x)) (h : Lasting b0 s) : Lasting b0 (adapting f s) := by
  unfold adapting; exact settleCans_lasting (settlePins_lasting (settlePorts_lasting (purgeHeld_lasting (hf _ h))))

theorem opProgress_lasting {n s} (K : Lasting b0 s) : Lasting b0 (opProgress n s) := by
  unfold opProgress; exact grant_lasting (Lasting.upd K)

theorem scanCopies_lasting {s} (K : Lasting b0 s) : Lasting b0 (scanCopies s) := by
  unfold scanCopies
  extract_lets +onlyGivenNames _ _
  exact Lasting.upd K

theorem tackFail_lasting {code s} (K : Lasting b0 s) : Lasting b0 (tackFail code s) := by
  unfold tackFail; exact Lasting.upd K

theorem tackWrite_lasting {o n bs s} (K : Lasting b0 s) : Lasting b0 (tackWrite o n bs s) := by
  unfold tackWrite; exact Lasting.upd K

theorem buildImage_lasting {j s} (K : Lasting b0 s) : Lasting b0 (buildImage j s) := by
  unfold buildImage; exact Lasting.ite (opEnd_lasting (scanCopies_lasting (tackFail_lasting (tackWrite_lasting (endJob_lasting K))))) (Lasting.upd K)

theorem moveCommit_lasting {least s} (K : Lasting b0 s) : Lasting b0 (moveCommit least s) := by
  unfold moveCommit
  split
  · exact K
  · exact Lasting.ite K (by
        extract_lets +onlyGivenNames s1
        have hs1 : Lasting b0 s1 := drawn_lasting (opProgress_lasting K)
        clear_value s1
        exact Lasting.ite (buildImage_lasting hs1) hs1)

theorem tearJob_lasting {s0} (K : Lasting b0 s0) : Lasting b0 (tearJob s0) := by
  unfold tearJob
  extract_lets +onlyGivenNames s
  have hs : Lasting b0 s := moveCommit_lasting K
  clear_value s
  split
  · exact hs
  · extract_lets +onlyGivenNames _ s1
    have hs1 : Lasting b0 s1 := drawn_lasting (endJob_lasting hs)
    clear_value s1
    exact scanCopies_lasting (by
        split
        · exact tackWrite_lasting hs1
        · exact Lasting.ite (tackWrite_lasting hs1) (tackWrite_lasting hs1))

theorem stopJob_lasting {s} (K : Lasting b0 s) : Lasting b0 (stopJob s) := by
  unfold stopJob
  split
  · exact cancelLanes_lasting K
  · exact freeDrain_lasting K
  · exact Lasting.upd K
  · exact tearJob_lasting K
  · exact adapting_lasting (fun _ h2 => endReplay_lasting h2) K
  · exact K

theorem invalidateCache_lasting {s} (K : Lasting b0 s) : Lasting b0 (invalidateCache s) := by
  unfold invalidateCache; exact grant_lasting (modSPort_lasting K)

theorem endOp_lasting {st why s} (K : Lasting b0 s) : Lasting b0 (endOp st why s) := by
  unfold endOp
  extract_lets +onlyGivenNames s1
  have hs1 : Lasting b0 s1 := opEnd_lasting (stopJob_lasting K)
  clear_value s1
  exact Lasting.ite (pumpS0_lasting (invalidateCache_lasting hs1)) hs1

theorem setDropped_lasting {u s} (K : Lasting b0 s) : Lasting b0 (setDropped u s) := by
  unfold setDropped; exact Lasting.ite (Lasting.upd K) (Lasting.ite (Lasting.upd K) (Lasting.upd K))

theorem stopRuns_lasting {s} (K : Lasting b0 s) : Lasting b0 (stopRuns s) := by
  unfold stopRuns
  extract_lets +onlyGivenNames _ s1
  have hs1 : Lasting b0 s1 := Lasting.upd K
  clear_value s1
  extract_lets +onlyGivenNames s2
  have hs2 : Lasting b0 s2 := Lasting.foldl (fun _ _ h1 => (missRun_lasting h1)) hs1
  clear_value s2
  extract_lets +onlyGivenNames s3
  have hs3 : Lasting b0 s3 := Lasting.foldl (fun _ _ h1 => (orphanRun_lasting h1)) hs2
  clear_value s3
  exact cancelLanes_lasting hs3

theorem recMode_lasting {old new hw prof first s} (K : Lasting b0 s) : Lasting b0 (recMode old new hw prof first s) := by
  unfold recMode; exact tapAppend_lasting K

theorem commitsReady_lasting {s} (K : Lasting b0 s) : Lasting b0 (commitsReady s) := by
  unfold commitsReady; exact Lasting.upd K

theorem abortForMode_lasting {m s} (K : Lasting b0 s) : Lasting b0 (abortForMode m s) := by
  unfold abortForMode; exact Lasting.ite (endOp_lasting K) K

theorem staleWindows_lasting {s} (K : Lasting b0 s) : Lasting b0 (staleWindows s) := by
  unfold staleWindows; exact Lasting.upd K

theorem parkPin_lasting {i s} (K : Lasting b0 s) : Lasting b0 (parkPin i s) := by
  unfold parkPin; exact modPin_lasting K

theorem parkPort_lasting {n s} (K : Lasting b0 s) : Lasting b0 (parkPort n s) := by
  unfold parkPort
  extract_lets +onlyGivenNames s1
  have hs1 : Lasting b0 s1 := Lasting.foldl (fun _ _ h1 => (Lasting.ite (parkPin_lasting h1) h1)) K
  clear_value s1
  exact Lasting.foldl (fun _ _ h0 => (Lasting.ite (parkPin_lasting h0) h0)) hs1

theorem parkFailed_lasting {s} (K : Lasting b0 s) : Lasting b0 (parkFailed s) := by
  unfold parkFailed; exact Lasting.foldl (fun _ _ h0 => (Lasting.ite (parkPort_lasting h0) h0)) K

theorem resetCond_lasting {s} (K : Lasting b0 s) : Lasting b0 (resetCond s) := by
  unfold resetCond; exact Lasting.upd K

theorem cancelRequest_lasting {s} (K : Lasting b0 s) : Lasting b0 (cancelRequest s) := by
  unfold cancelRequest; exact Lasting.ite (Lasting.upd K) K

theorem leadReinBy_lasting {path code s0} (K : Lasting b0 s0) : Lasting b0 (leadReinBy path code s0) := by
  unfold leadReinBy
  extract_lets +onlyGivenNames s
  have hs : Lasting b0 s := grants_lasting K
  clear_value s
  exact Lasting.ite hs (Lasting.ite (Lasting.upd hs) (by
      extract_lets +onlyGivenNames s1
      have hs1 : Lasting b0 s1 := cancelRequest_lasting hs
      clear_value s1
      exact Lasting.upd hs1))

theorem toLeadRein_lasting {code s} (K : Lasting b0 s) : Lasting b0 (toLeadRein code s) := by
  unfold toLeadRein; exact leadReinBy_lasting K

theorem endRecording_lasting {s} (K : Lasting b0 s) : Lasting b0 (endRecording s) := by
  unfold endRecording; exact Lasting.ite (Lasting.ite (freeze_lasting K) (Lasting.upd K)) K

theorem endFault_lasting {code s} (K : Lasting b0 s) : Lasting b0 (endFault code s) := by
  unfold endFault; exact Lasting.upd K

theorem recRein_lasting {win result a v winAddr s} (K : Lasting b0 s) : Lasting b0 (recRein win result a v winAddr s) := by
  unfold recRein; exact tapAppend_lasting K

theorem emptyQueue_lasting {q s} (K : Lasting b0 s) : Lasting b0 (emptyQueue q s) := by
  unfold emptyQueue; exact grant_lasting (modQueue_lasting K)

theorem opPost_lasting {w0 w1 w2 w3 s} (K : Lasting b0 s) : Lasting b0 (opPost w0 w1 w2 w3 s) := by
  unfold opPost
  extract_lets +onlyGivenNames _
  exact Lasting.ite (grant_lasting (grant_lasting (Lasting.upd K))) (grant_lasting (Lasting.upd K))

theorem startAttempt_lasting {i pc trig s} (K : Lasting b0 s) : Lasting b0 (startAttempt i pc trig s) := by
  unfold startAttempt; exact modLane_lasting K

theorem startRun_lasting {i r ahead s} (K : Lasting b0 s) : Lasting b0 (startRun i r ahead s) := by
  unfold startRun; exact setEstat_lasting (setStatByte_lasting (startAttempt_lasting (modLane_lasting K)))

theorem dispatch_lasting {s} (K : Lasting b0 s) : Lasting b0 (dispatch s) := by
  unfold dispatch
  exact Lasting.foldl (fun _ _ h1 => Lasting.ite (by
      split
      · exact Lasting.ite h1 (startRun_lasting (grant_lasting (Lasting.upd h1)))
      · split
        · exact Lasting.ite h1 (startRun_lasting (grant_lasting (Lasting.upd h1)))
        · exact h1) h1) K

theorem countCan_lasting {ch o s} (K : Lasting b0 s) : Lasting b0 (countCan ch o s) := by
  unfold countCan; exact countWord_lasting K

theorem discardTx_lasting {ch s} (K : Lasting b0 s) : Lasting b0 (discardTx ch s) := by
  unfold discardTx; exact Lasting.ite (canEvent_lasting (countCan_lasting (modCan_lasting K))) K

theorem dropRxItem_lasting {ch s} (K : Lasting b0 s) : Lasting b0 (dropRxItem ch s) := by
  unfold dropRxItem
  extract_lets +onlyGivenNames s1
  have hs1 : Lasting b0 s1 := by
    dsimp -zeta only [s1]
    split
    · split
      · exact abandonItem_lasting K
      · exact K
    · exact K
  clear_value s1
  exact modCan_lasting hs1

theorem stopCan_lasting {ch s} (K : Lasting b0 s) : Lasting b0 (stopCan ch s) := by
  unfold stopCan
  extract_lets +onlyGivenNames s1
  have hs1 : Lasting b0 s1 := discardTx_lasting (dropRxItem_lasting K)
  clear_value s1
  exact settleLead_lasting (grants_lasting (modCan_lasting hs1))

theorem recPort_lasting {port kind ep outcome lane rx t s} (K : Lasting b0 s) : Lasting b0 (recPort port kind ep outcome lane rx t s) := by
  unfold recPort; exact tapAppend_lasting K

theorem freeLaneAt_lasting {i s} (K : Lasting b0 s) : Lasting b0 (freeLaneAt i s) := by
  unfold freeLaneAt; exact dispatch_lasting (clearLane_lasting K)

theorem probeRecords_lasting {buf high n off s} (h : Lasting b0 s) : Lasting b0 (probeRecords buf high n off s) := by
  induction n generalizing off s with
  | zero => exact h
  | succ n ih => unfold probeRecords; exact Lasting.ite h (ih (opPost_lasting h))

theorem endProbe_lasting {i code s} (K : Lasting b0 s) : Lasting b0 (endProbe i code s) := by
  unfold endProbe
  extract_lets +onlyGivenNames _ s1
  have hs1 : Lasting b0 s1 := setLast_lasting (probeRecords_lasting K)
  clear_value s1
  extract_lets +onlyGivenNames s2
  have hs2 : Lasting b0 s2 := purgeHeld_lasting (clearLane_lasting hs1)
  clear_value s2
  exact Lasting.ite (opEnd_lasting hs2) (opEnd_lasting hs2)

theorem endMissed_lasting {i code s} (K : Lasting b0 s) : Lasting b0 (endMissed i code s) := by
  unfold endMissed
  extract_lets +onlyGivenNames l s1
  have hs1 : Lasting b0 s1 := missRun_lasting K
  clear_value s1
  extract_lets +onlyGivenNames _ s2
  have hs2 : Lasting b0 s2 := Lasting.ite (Lasting.upd hs1) hs1
  clear_value s2
  exact freeLaneAt_lasting hs2

theorem failAttempt_lasting {i code s0} (K : Lasting b0 s0) : Lasting b0 (failAttempt i code s0) := by
  unfold failAttempt
  extract_lets +onlyGivenNames s
  have hs : Lasting b0 s := releasePorts_lasting K
  clear_value s
  exact Lasting.ite (freeLaneAt_lasting hs) (Lasting.ite (endProbe_lasting hs) (Lasting.ite (modLane_lasting hs) (endMissed_lasting hs)))

theorem stickS_lasting {p n s} (K : Lasting b0 s) : Lasting b0 (stickS p n s) := by
  unfold stickS; exact modSPort_lasting K

theorem abortFrame_lasting {p s} (K : Lasting b0 s) : Lasting b0 (abortFrame p s) := by
  unfold abortFrame; exact countWord_lasting (stickS_lasting (releaseSelect_lasting K))

theorem stickI_lasting {p n s} (K : Lasting b0 s) : Lasting b0 (stickI p n s) := by
  unfold stickI; exact modIPort_lasting K

theorem countNack_lasting {p s} (K : Lasting b0 s) : Lasting b0 (countNack p s) := by
  unfold countNack; exact countWord_lasting K

theorem countArbLost_lasting {p s} (K : Lasting b0 s) : Lasting b0 (countArbLost p s) := by
  unfold countArbLost; exact countWord_lasting (stickI_lasting (modIPort_lasting K))

theorem setPtStat_lasting {p res done hold s} (K : Lasting b0 s) : Lasting b0 (setPtStat p res done hold s) := by
  unfold setPtStat; exact setStatWord_lasting K

theorem ptCut_lasting {p res s} (K : Lasting b0 s) : Lasting b0 (ptCut p res s) := by
  unfold ptCut
  extract_lets +onlyGivenNames a ctl w done code rx _ s1
  have hs1 : Lasting b0 s1 := Lasting.ite (Lasting.upd K) K
  clear_value s1
  exact drawn_lasting (stickI_lasting (setPtStat_lasting (modIPort_lasting hs1)))

theorem recTorn_lasting {i p outcome s} (K : Lasting b0 s) : Lasting b0 (recTorn i p outcome s) := by
  unfold recTorn
  extract_lets +onlyGivenNames s1
  have hs1 : Lasting b0 s1 := recPort_lasting K
  clear_value s1
  exact Lasting.upd hs1

theorem failOnWire_lasting {p outcome code s} (K : Lasting b0 s) : Lasting b0 (failOnWire p outcome code s) := by
  unfold failOnWire
  split
  · exact K
  · extract_lets +onlyGivenNames s1
    have hs1 : Lasting b0 s1 := recTorn_lasting K
    clear_value s1
    extract_lets +onlyGivenNames s2
    have hs2 : Lasting b0 s2 := Lasting.ite (abortFrame_lasting hs1) hs1
    clear_value s2
    exact failAttempt_lasting (modLane_lasting hs2)

theorem cutTarget_lasting {p s} (K : Lasting b0 s) : Lasting b0 (cutTarget p s) := by
  unfold cutTarget; exact Lasting.ite (modSPort_lasting (abortFrame_lasting K)) K

theorem endSfdp_lasting {good s} (K : Lasting b0 s) : Lasting b0 (endSfdp good s) := by
  unfold endSfdp; exact pumpS0_lasting (modSPort_lasting K)

theorem cutWindow_lasting {s} (K : Lasting b0 s) : Lasting b0 (cutWindow s) := by
  unfold cutWindow
  extract_lets +onlyGivenNames s1
  have hs1 : Lasting b0 s1 := Lasting.ite (modSPort_lasting (abortFrame_lasting K)) K
  clear_value s1
  exact Lasting.ite (endSfdp_lasting (abortFrame_lasting hs1)) hs1

theorem cutFlash_lasting {s} (K : Lasting b0 s) : Lasting b0 (cutFlash s) := by
  unfold cutFlash; exact Lasting.ite (Lasting.ite (endOp_lasting (drawn_lasting (abortFrame_lasting K))) (drawn_lasting K)) K

theorem cutS_lasting {p code s} (K : Lasting b0 s) : Lasting b0 (cutS p code s) := by
  unfold cutS
  extract_lets +onlyGivenNames s1
  have hs1 : Lasting b0 s1 := cutTarget_lasting (failOnWire_lasting K)
  clear_value s1
  extract_lets +onlyGivenNames s2
  have hs2 : Lasting b0 s2 := Lasting.ite (cutWindow_lasting (cutFlash_lasting hs1)) hs1
  clear_value s2
  exact Lasting.ite (releaseSelect_lasting hs2) hs2

theorem cutI_lasting {p code res s} (K : Lasting b0 s) : Lasting b0 (cutI p code res s) := by
  unfold cutI
  extract_lets +onlyGivenNames s1
  have hs1 : Lasting b0 s1 := failOnWire_lasting (Lasting.ite (ptCut_lasting K) K)
  clear_value s1
  exact modIPort_lasting (dropHold_lasting hs1)

theorem stickT_lasting {p n s} (K : Lasting b0 s) : Lasting b0 (stickT p n s) := by
  unfold stickT; exact modTPort_lasting K

theorem sentSearch_lasting {p s} (K : Lasting b0 s) : Lasting b0 (sentSearch p s) := by
  unfold sentSearch; exact modTPort_lasting K

theorem sentFailWaiting_lasting {p slow s} (K : Lasting b0 s) : Lasting b0 (sentFailWaiting p slow s) := by
  unfold sentFailWaiting
  refine Lasting.foldl (fun _ _ h0 => ?_) K
  extract_lets +onlyGivenNames d
  exact Lasting.ite (failAttempt_lasting h0) h0

theorem recSent_lasting {p cls bytes t s} (K : Lasting b0 s) : Lasting b0 (recSent p cls bytes t s) := by
  unfold recSent; exact tapAppend_lasting K

theorem slowError_lasting {p bytes s} (K : Lasting b0 s) : Lasting b0 (slowError p bytes s) := by
  unfold slowError
  extract_lets +onlyGivenNames s1
  have hs1 : Lasting b0 s1 := modTPort_lasting K
  clear_value s1
  exact sentFailWaiting_lasting (recSent_lasting (countWord_lasting (stickT_lasting hs1)))

theorem sentDiscard_lasting {p s} (K : Lasting b0 s) : Lasting b0 (sentDiscard p s) := by
  unfold sentDiscard
  extract_lets +onlyGivenNames s1
  have hs1 : Lasting b0 s1 := sentSearch_lasting K
  clear_value s1
  exact sentFailWaiting_lasting (Lasting.ite hs1 (slowError_lasting hs1))

theorem lineSilent_lasting {p s} (K : Lasting b0 s) : Lasting b0 (lineSilent p s) := by
  unfold lineSilent
  extract_lets +onlyGivenNames s1
  have hs1 : Lasting b0 s1 := countWord_lasting (stickT_lasting (modTPort_lasting K))
  clear_value s1
  exact sentDiscard_lasting (recSent_lasting hs1)

theorem abortPort_lasting {n s} (K : Lasting b0 s) : Lasting b0 (abortPort n s) := by
  unfold abortPort
  exact Lasting.ite (by
      extract_lets +onlyGivenNames _
      exact Lasting.ite (stopCan_lasting K) K) (Lasting.ite (cutS_lasting K) (Lasting.ite (Lasting.ite (cutI_lasting K) K) (Lasting.ite (lineSilent_lasting K) K)))

theorem attachPin_lasting {i s} (K : Lasting b0 s) : Lasting b0 (attachPin i s) := by
  unfold attachPin; exact Lasting.ite (modPin_lasting K) K

theorem reactToFailure_lasting {code s} (K : Lasting b0 s) : Lasting b0 (reactToFailure code s) := by
  unfold reactToFailure
  split
  · split
    · exact Lasting.ite (opEnd_lasting (endReplay_lasting K)) K
    · exact Lasting.ite (opEnd_lasting K) K
    · exact K
  · exact Lasting.ite (toLeadRein_lasting (Lasting.ite K (parkFailed_lasting K))) (Lasting.ite (parkFailed_lasting K) K)

theorem dropTap_lasting {s} (K : Lasting b0 s) : Lasting b0 (dropTap s) := by
  unfold dropTap; exact Lasting.ite (Lasting.upd K) K

theorem putItem_lasting {q who prio bytes kind s t'} (K : Lasting b0 s) (e : putItem q who prio bytes kind s = some t') : Lasting b0 t' := by
  unfold putItem at e
  split at e
  · cases e
  · cases e
    exact closeItem_lasting (reserve_lasting K ‹_›)

theorem markDrop_lasting {q s} (K : Lasting b0 s) : Lasting b0 (markDrop q s) := by
  unfold markDrop; exact modQueue_lasting K

theorem putRx_lasting {p bytes s} (K : Lasting b0 s) : Lasting b0 (putRx p bytes s) := by
  unfold putRx
  split
  · exact putItem_lasting K ‹_›
  · exact markDrop_lasting (stickS_lasting K)

theorem safetySent_lasting {p sel failed s} (K : Lasting b0 s) : Lasting b0 (safetySent p sel failed s) := by
  unfold safetySent
  extract_lets +onlyGivenNames _
  exact setStatWord_lasting K

theorem countSelect_lasting {p sel o s} (K : Lasting b0 s) : Lasting b0 (countSelect p sel o s) := by
  unfold countSelect; exact countByte_lasting K

theorem checkTrailer_lasting {p f len rx s x' t'} (K : Lasting b0 s) (e : checkTrailer p f len rx s = (x', t')) : Lasting b0 t' := by
  unfold checkTrailer at e
  split at e
  · dsimp only at e
    cases e
    exact Lasting.ite (countSelect_lasting (Lasting.ite (countSelect_lasting (setStatWord_lasting K)) (setStatWord_lasting K))) (Lasting.ite (countSelect_lasting (setStatWord_lasting K)) (setStatWord_lasting K))
  · cases e
    exact countSelect_lasting K

theorem endByteFrame_lasting {p f len rx s x' t'} (K : Lasting b0 s) (e : endByteFrame p f len rx s = (x', t')) : Lasting b0 t' := by
  unfold endByteFrame at e
  split at e
  · dsimp only at e
    cases e
    exact Lasting.ite (safetySent_lasting (checkTrailer_lasting K rfl)) (stickS_lasting (safetySent_lasting (checkTrailer_lasting K rfl)))
  · cases e
    exact K

theorem holdSelect_lasting {p sel cont len s} (K : Lasting b0 s) : Lasting b0 (holdSelect p sel cont len s) := by
  unfold holdSelect; exact modSPort_lasting K

theorem runEntry_lasting {p e aborted rx0 s} (K : Lasting b0 s) : Lasting b0 (runEntry p e aborted rx0 s) := by
  unfold runEntry
  extract_lets +onlyGivenNames _
  exact Lasting.ite (by
      extract_lets +onlyGivenNames _ _ s1
      have hs1 : Lasting b0 s1 := sendFrame_lasting K
      clear_value s1
      exact Lasting.ite (by
          extract_lets +onlyGivenNames _
          exact putRx_lasting (abortFrame_lasting hs1)) (by
          extract_lets +onlyGivenNames _ r
          have hr : Lasting b0 r.2 := by
            dsimp only [r]
            split
            · exact hs1
            · exact endByteFrame_lasting hs1 rfl
          clear_value r
          extract_lets +onlyGivenNames s2
          have hs2 : Lasting b0 s2 := holdSelect_lasting (countWord_lasting (countFrame_lasting hr))
          clear_value s2
          extract_lets +onlyGivenNames _
          exact putRx_lasting hs2)) (putRx_lasting (stickS_lasting (releaseSelect_lasting K)))

theorem tornEntry_lasting {p s} (K : Lasting b0 s) : Lasting b0 (tornEntry p s) := by
  unfold tornEntry
  exact Lasting.ite (by
      split
      · exact K
      · extract_lets +onlyGivenNames _
        exact Lasting.ite K (by
            extract_lets +onlyGivenNames _
            exact drawn_lasting (runEntry_lasting (takeItem_lasting K ‹_›)))) K

theorem cutBank_lasting {b s} (K : Lasting b0 s) : Lasting b0 (cutBank b s) := by
  unfold cutBank; exact Lasting.foldl (fun _ _ h1 => Lasting.ite h1 (Lasting.ite (cutS_lasting (tornEntry_lasting h1)) (Lasting.ite (Lasting.foldl (fun _ _ h5 => Lasting.ite (failAttempt_lasting h5) h5) (cutI_lasting h1)) h1))) K

theorem showDecision_lasting {c result s0} (K : Lasting b0 s0) : Lasting b0 (showDecision c result s0) := by
  unfold showDecision
  extract_lets +onlyGivenNames s
  have hs : Lasting b0 s := grants_lasting (emptyQueue_lasting (abandonItem_lasting K))
  clear_value s
  exact recRein_lasting (Lasting.upd hs)

theorem failUnit_lasting {code u island s} (K : Lasting b0 s) : Lasting b0 (failUnit code u island s) := by
  unfold failUnit
  split
  · exact K
  · extract_lets +onlyGivenNames s1
    have hs1 : Lasting b0 s1 := setDropped_lasting K
    clear_value s1
    extract_lets +onlyGivenNames s2
    have hs2 : Lasting b0 s2 := logFault_lasting hs1
    clear_value s2
    exact reactToFailure_lasting (dropTap_lasting hs2)

theorem sentFail_lasting {p c nibbles s} (K : Lasting b0 s) : Lasting b0 (sentFail p c nibbles s) := by
  unfold sentFail
  extract_lets +onlyGivenNames e x bytes s1
  have hs1 : Lasting b0 s1 := by
    dsimp -zeta only [s1]
    split
    · exact countWord_lasting K
    · exact K
  clear_value s1
  extract_lets +onlyGivenNames s2
  have hs2 : Lasting b0 s2 := modTPort_lasting (stickT_lasting hs1)
  clear_value s2
  exact sentDiscard_lasting (Lasting.ite hs2 (recSent_lasting hs2))

theorem settleDropped_lasting {s} (K : Lasting b0 s) : Lasting b0 (settleDropped s) := by
  unfold settleDropped
  exact Lasting.foldl (fun _ _ h1 => Lasting.ite (Lasting.foldl (fun _ _ h3 => Lasting.ite (Lasting.ite (by
      extract_lets +onlyGivenNames s1
      have hs1 : Lasting b0 s1 := recTorn_lasting h3
      clear_value s1
      exact failAttempt_lasting (modLane_lasting (Lasting.ite (abortFrame_lasting hs1) hs1))) (failAttempt_lasting h3)) h3) h1) h1) K

theorem discardSample_lasting {p s} (K : Lasting b0 s) : Lasting b0 (discardSample p s) := by
  unfold discardSample
  extract_lets +onlyGivenNames a
  exact missRun_lasting (setStatWord_lasting K)

theorem restartConditioning_lasting {s} (K : Lasting b0 s) : Lasting b0 (restartConditioning s) := by
  unfold restartConditioning
  extract_lets +onlyGivenNames _ s1
  have hs1 : Lasting b0 s1 := Lasting.foldl (fun _ _ h1 => (discardSample_lasting h1)) (Lasting.upd K)
  clear_value s1
  exact resetCond_lasting (staleWindows_lasting hs1)

theorem restartExpress_lasting {s} (K : Lasting b0 s) : Lasting b0 (restartExpress s) := by
  unfold restartExpress
  extract_lets +onlyGivenNames n
  exact Lasting.upd K

theorem unitLoss_lasting {u s} (K : Lasting b0 s) : Lasting b0 (unitLoss u s) := by
  unfold unitLoss; exact Lasting.ite (restartConditioning_lasting K) (Lasting.ite (restartExpress_lasting K) (Lasting.ite (stopRuns_lasting K) K))

theorem restartCan_lasting {ch s} (K : Lasting b0 s) : Lasting b0 (restartCan ch s) := by
  unfold restartCan
  split
  · exact K
  · extract_lets +onlyGivenNames c0 s1
    have hs1 : Lasting b0 s1 := startCan_lasting (dropRxItem_lasting K)
    clear_value s1
    exact settleLead_lasting (modCan_lasting hs1)

theorem restartLane_lasting {i s} (K : Lasting b0 s) : Lasting b0 (restartLane i s) := by
  unfold restartLane; exact Lasting.ite (endProbe_lasting (releasePorts_lasting K)) (cancelLane_lasting K)

theorem rejectCommand_lasting {c r} (K : Lasting b0 r.2) : Lasting b0 (rejectCommand c r) := by
  unfold rejectCommand
  extract_lets s _ s1
  have hs1 : Lasting b0 s1 := attend_lasting (Lasting.upd (showDecision_lasting K))
  clear_value s1
  exact Lasting.ite (Lasting.upd hs1) hs1

theorem restartCrypto_lasting {s} (K : Lasting b0 s) : Lasting b0 (restartCrypto s) := by
  unfold restartCrypto
  split
  · exact K
  · exact rejectCommand_lasting K

theorem restartTack_lasting {s} (K : Lasting b0 s) : Lasting b0 (restartTack s) := by
  unfold restartTack
  split
  · exact K
  · extract_lets +onlyGivenNames s1
    have hs1 : Lasting b0 s1 := tackFail_lasting (tearJob_lasting K)
    clear_value s1
    exact Lasting.ite (endOp_lasting hs1) hs1

theorem restartS_lasting {p s} (K : Lasting b0 s) : Lasting b0 (restartS p s) := by
  unfold restartS
  extract_lets +onlyGivenNames s1
  have hs1 : Lasting b0 s1 := cutS_lasting (tornEntry_lasting K)
  clear_value s1
  exact Lasting.ite (Lasting.ite (endOp_lasting hs1) (pumpS0_lasting hs1)) hs1

theorem restartI_lasting {p s} (K : Lasting b0 s) : Lasting b0 (restartI p s) := by
  unfold restartI; exact cutI_lasting K

theorem restartT_lasting {p s} (K : Lasting b0 s) : Lasting b0 (restartT p s) := by
  unfold restartT; exact Lasting.ite (sentDiscard_lasting K) K

theorem recGap_lasting {input block count first last s} (K : Lasting b0 s) : Lasting b0 (recGap input block count first last s) := by
  unfold recGap; exact tapAppend_lasting K

theorem recTime_lasting {start bound epoch afterGap number s0} (K : Lasting b0 s0) : Lasting b0 (recTime start bound epoch afterGap number s0) := by
  unfold recTime
  extract_lets +onlyGivenNames s
  have hs : Lasting b0 s := Lasting.ite (closeBlock_lasting K) K
  clear_value s
  exact tapAppend_lasting hs

theorem keyframeDue_lasting {s} (K : Lasting b0 s) : Lasting b0 (keyframeDue s) := by
  unfold keyframeDue; exact Lasting.upd K

theorem effGapRecord_lasting {loss s} (K : Lasting b0 s) : Lasting b0 (effGapRecord loss s) := by
  unfold effGapRecord
  exact Lasting.ite (by
      extract_lets +onlyGivenNames s1
      have hs1 : Lasting b0 s1 := recGap_lasting K
      clear_value s1
      extract_lets +onlyGivenNames _ s2
      have hs2 : Lasting b0 s2 := recTime_lasting (Lasting.upd hs1)
      clear_value s2
      exact keyframeDue_lasting (attend_lasting hs2)) K

theorem restartTap_lasting {s} (K : Lasting b0 s) : Lasting b0 (restartTap s) := by
  unfold restartTap; exact Lasting.ite (effGapRecord_lasting (tapDrawn_lasting K)) K

theorem restartEffect_lasting {island s} (K : Lasting b0 s) : Lasting b0 (restartEffect island s) := by
  unfold restartEffect
  split
  · exact restartCan_lasting K
  · exact restartCan_lasting K
  · exact restartConditioning_lasting K
  · exact restartExpress_lasting K
  · split
    · exact restartLane_lasting K
    · exact K
  · exact Lasting.upd K
  · exact Lasting.ite (loseLock_lasting K) K
  · exact restartCrypto_lasting K
  · exact restartTack_lasting K
  · split
    · exact Lasting.ite (endOp_lasting K) K
    · exact K
  · exact Lasting.ite (restartS_lasting K) (Lasting.ite (restartI_lasting K) (Lasting.ite (restartT_lasting K) (Lasting.ite (restartTap_lasting K) K)))

theorem clockLostS_lasting {p s} (K : Lasting b0 s) : Lasting b0 (clockLostS p s) := by
  unfold clockLostS
  extract_lets +onlyGivenNames s1
  have hs1 : Lasting b0 s1 := cutS_lasting K
  clear_value s1
  exact Lasting.ite hs1 (stickS_lasting hs1)

theorem clockLost_lasting {n s} (K : Lasting b0 s) : Lasting b0 (clockLost n s) := by
  unfold clockLost
  exact Lasting.ite (clockLostS_lasting K) (Lasting.ite (by
      extract_lets +onlyGivenNames _ s1
      have hs1 : Lasting b0 s1 := Lasting.ite (stickI_lasting (cutI_lasting K)) K
      clear_value s1
      exact modIPort_lasting hs1) (Lasting.ite (by
      split
      · exact sentFail_lasting K
      · exact K) (dropRxItem_lasting K)))

end Sys2Proof.Laws
end

