-- ==== Sys2Proof/Laws/Logged.lean ====
section
/-! SUPPORT. What enters a mode, ends runs and operations or aborts a port's work logs no fault of its own: the fault log stays as it is. -/

namespace Sys2Proof.Laws

set_option Elab.async false

open Sys2Proof.Machine

/-- `t` has the fault log, FAULT_CODE and the active faults of `u`. -/
structure Logged (u t : State) : Prop where
  fault : t.fault = u.fault
  trig : t.tap.trig = u.tap.trig

variable {b0 s t : State}

theorem Logged.refl : Logged s s := ⟨rfl, rfl⟩

theorem Logged.trans (h : Logged b0 s) (k : Logged s t) : Logged b0 t :=
  ⟨k.fault.trans h.fault, k.trig.trans h.trig⟩

/-- An update of other fields. -/
theorem Logged.upd (h : Logged b0 s) (e : Logged s t := by with_reducible exact ⟨rfl, rfl⟩) : Logged b0 t :=
  Logged.trans h e

theorem Logged.ite {c : Prop} [Decidable c] (hs : Logged b0 s) (ht : Logged b0 t) : Logged b0 (if c then s else t) := by
  split <;> assumption

theorem Logged.iteR {c : Prop} [Decidable c] {r q : Reply} (hr : Logged b0 r.s) (hq : Logged b0 q.s) :
    Logged b0 (if c then r else q).s := by
  split <;> assumption

theorem Logged.foldl {α : Type} {f : State → α → State} (hf : ∀ x a, Logged b0 x → Logged b0 (f x a)) {l : List α} :
    ∀ {s : State}, Logged b0 s → Logged b0 (l.foldl f s) := by
  induction l with
  | nil => exact fun h => h
  | cons a l ih => exact fun h => ih (hf _ a h)

theorem modQueue_logged {q f s} (K : Logged b0 s) : Logged b0 (modQueue q f s) := by
  unfold modQueue; exact Logged.upd K

theorem countFlushDrop_logged {s} (K : Logged b0 s) : Logged b0 (countFlushDrop s) := by
  unfold countFlushDrop; exact Logged.upd K

theorem dropForced_logged {p s} (K : Logged b0 s) : Logged b0 (dropForced p s) := by
  unfold dropForced; exact Logged.upd K

theorem grant_logged {p b s} (K : Logged b0 s) : Logged b0 (grant p b s) := by
  unfold grant; exact Logged.ite (Logged.ite (dropForced_logged K) K) (Logged.ite (Logged.upd K) K)

theorem grants_logged {l s} (K : Logged b0 s) : Logged b0 (grants l s) := by
  unfold grants; exact Logged.foldl (fun _ _ h1 => grant_logged h1) K

theorem hostDequeued_logged {q x s} (K : Logged b0 s) : Logged b0 (hostDequeued q x s) := by
  unfold hostDequeued; exact grants_logged (modQueue_logged K)

theorem serveStall_logged {s} (K : Logged b0 s) : Logged b0 (serveStall s) := by
  unfold serveStall
  split
  · split
    · exact K
    · exact grant_logged (hostDequeued_logged (Logged.upd K))
  · exact K

theorem drawn_logged {s} (K : Logged b0 s) : Logged b0 (drawn s) := by
  unfold drawn; exact Logged.upd K

theorem putCells_logged {cells i bs s} (K : Logged b0 s) : Logged b0 (putCells cells i bs s) := by
  unfold putCells; exact Logged.upd K

theorem writeOpen_logged {q who bs s} (K : Logged b0 s) : Logged b0 (writeOpen q who bs s) := by
  unfold writeOpen
  split
  · exact K
  · extract_lets +onlyGivenNames _ _
    exact grants_logged (putCells_logged (modQueue_logged K))

theorem closeItem_logged {q who bytes kind s} (K : Logged b0 s) : Logged b0 (closeItem q who bytes kind s) := by
  unfold closeItem
  extract_lets +onlyGivenNames s1
  have hs1 : Logged b0 s1 := writeOpen_logged K
  clear_value s1
  split
  · exact hs1
  · exact Logged.ite (grant_logged (countFlushDrop_logged (modQueue_logged hs1))) (by
        extract_lets +onlyGivenNames _ s11
        have hs11 : Logged b0 s11 := modQueue_logged hs1
        clear_value s11
        exact serveStall_logged (grant_logged (Logged.ite (grant_logged hs11) hs11)))

theorem abandonItem_logged {q who s} (K : Logged b0 s) : Logged b0 (abandonItem q who s) := by
  unfold abandonItem; exact grant_logged (modQueue_logged K)

theorem closeBlock_logged {s} (K : Logged b0 s) : Logged b0 (closeBlock s) := by
  unfold closeBlock; exact Logged.ite (abandonItem_logged K) (closeItem_logged K)

theorem attend_logged {n s} (K : Logged b0 s) : Logged b0 (attend n s) := by
  unfold attend
  extract_lets +onlyGivenNames s1
  have hs1 : Logged b0 s1 := Logged.ite (grant_logged (grant_logged K)) K
  clear_value s1
  exact grant_logged (Logged.upd hs1)

theorem freeze_logged {cause s} (K : Logged b0 s) : Logged b0 (freeze cause s) := by
  unfold freeze
  split
  · exact K
  · extract_lets +onlyGivenNames s1
    have hs1 : Logged b0 s1 := closeBlock_logged K
    clear_value s1
    exact attend_logged (Logged.upd hs1)

theorem tapTrigger_logged {n s} (K : Logged b0 s) : Logged b0 (tapTrigger n s) := by
  unfold tapTrigger; exact Logged.ite (Logged.ite (freeze_logged K) (Logged.upd K)) K

theorem openItem_logged {q n who prio s} (K : Logged b0 s) : Logged b0 (openItem q n who prio s) := by
  unfold openItem
  extract_lets +onlyGivenNames _
  exact modQueue_logged (Logged.upd K)

theorem tapDrawn_logged {s} (K : Logged b0 s) : Logged b0 (tapDrawn s) := by
  unfold tapDrawn; exact Logged.upd K

theorem streamOut_logged {bs s} (K : Logged b0 s) : Logged b0 (streamOut bs s) := by
  unfold streamOut; exact Logged.ite (Logged.ite (tapDrawn_logged (Logged.upd K)) (tapDrawn_logged (Logged.upd K))) K

theorem dropOldest_logged {q rest s} (K : Logged b0 s) : Logged b0 (dropOldest q rest s) := by
  unfold dropOldest; exact grants_logged (modQueue_logged K)

theorem makeRingRoom_logged {n s} (h : Logged b0 s) : Logged b0 (makeRingRoom n s) := by
  induction n generalizing s with
  | zero => exact h
  | succ n ih =>
    unfold makeRingRoom; split
    · exact h
    · split
      · exact h
      · exact ih (Logged.upd (dropOldest_logged h))

theorem reserve_logged {q n who prio s t} (h : Logged b0 s) (e : reserve q n who prio s = some t) : Logged b0 t := by
  unfold reserve at e
  split at e
  · cases e
    exact grants_logged (openItem_logged h)
  · cases e

theorem haveBlock_logged {s t} (h : Logged b0 s) (e : haveBlock s = some t) : Logged b0 t := by
  unfold haveBlock at e
  split at e
  · cases e
    exact h
  · exact reserve_logged (makeRingRoom_logged h) ‹_›

theorem putRecord_logged {type flags body s} (K : Logged b0 s) : Logged b0 (putRecord type flags body s) := by
  unfold putRecord
  extract_lets +onlyGivenNames _
  split
  · exact K
  · extract_lets +onlyGivenNames s2
    have hs2 : Logged b0 s2 := writeOpen_logged (haveBlock_logged (Logged.ite (closeBlock_logged K) K) ‹_›)
    clear_value s2
    exact streamOut_logged (Logged.upd hs2)

theorem recVerdicts_logged {es s} (K : Logged b0 s) : Logged b0 (recVerdicts es s) := by
  unfold recVerdicts
  extract_lets +onlyGivenNames _ _
  exact putRecord_logged K

theorem writeFull_logged {n s} (h : Logged b0 s) : Logged b0 (writeFull n s) := by
  induction n generalizing s with
  | zero => exact h
  | succ n ih =>
    unfold writeFull; dsimp only; split
    · exact h
    · exact ih (recVerdicts_logged (Logged.upd h))

theorem tapAppend_logged {type flags body s} (K : Logged b0 s) : Logged b0 (tapAppend type flags body s) := by
  unfold tapAppend; exact Logged.ite (putRecord_logged (writeFull_logged K)) K

theorem gainLock_logged {s} (K : Logged b0 s) : Logged b0 (gainLock s) := by
  unfold gainLock; exact Logged.ite K (attend_logged (Logged.upd K))

theorem loseLock_logged {s} (K : Logged b0 s) : Logged b0 (loseLock s) := by
  unfold loseLock; exact Logged.ite (attend_logged (Logged.upd K)) (Logged.upd K)

theorem modCan_logged {ch f s} (K : Logged b0 s) : Logged b0 (modCan ch f s) := by
  unfold modCan; split <;> exact Logged.upd K

theorem withdrawSync_logged {s} (K : Logged b0 s) : Logged b0 (withdrawSync s) := by
  unfold withdrawSync
  extract_lets +onlyGivenNames drop
  have hdrop {ch} {s} (hs' : Logged b0 s) : Logged b0 (drop ch s) := by
    dsimp -zeta only [drop]
    extract_lets +onlyGivenNames s1
    have hs1 : Logged b0 s1 := modQueue_logged hs'
    clear_value s1
    exact modCan_logged hs1
  clear_value drop
  extract_lets +onlyGivenNames s1
  have hs1 : Logged b0 s1 := hdrop (hdrop (Logged.ite (grants_logged K) K))
  clear_value s1
  exact Logged.upd hs1

theorem settleLead_logged {s} (K : Logged b0 s) : Logged b0 (settleLead s) := by
  unfold settleLead
  split
  · extract_lets +onlyGivenNames _ s1
    have hs1 : Logged b0 s1 := Logged.upd K
    clear_value s1
    exact Logged.ite (gainLock_logged hs1) (loseLock_logged hs1)
  · exact Logged.ite (withdrawSync_logged (loseLock_logged (Logged.upd K))) K

theorem startCan_logged {ch s} (K : Logged b0 s) : Logged b0 (startCan ch s) := by
  unfold startCan
  extract_lets +onlyGivenNames _ s1
  have hs1 : Logged b0 s1 := grant_logged K
  clear_value s1
  exact modCan_logged hs1

theorem canEvent_logged {ch n s} (K : Logged b0 s) : Logged b0 (canEvent ch n s) := by
  unfold canEvent; exact attend_logged (modCan_logged K)

theorem refuseStart_logged {ch why s} (K : Logged b0 s) : Logged b0 (refuseStart ch why s) := by
  unfold refuseStart; exact canEvent_logged (modCan_logged K)

theorem settleCan_logged {ch s} (K : Logged b0 s) : Logged b0 (settleCan ch s) := by
  unfold settleCan
  extract_lets +onlyGivenNames on s1
  have hs1 : Logged b0 s1 := modCan_logged K
  clear_value s1
  exact Logged.ite (Logged.ite (startCan_logged hs1) (refuseStart_logged hs1)) hs1

theorem settleCans_logged {s} (K : Logged b0 s) : Logged b0 (settleCans s) := by
  unfold settleCans; exact settleLead_logged (settleCan_logged (settleCan_logged K))

theorem modIPort_logged {p f s} (K : Logged b0 s) : Logged b0 (modIPort p f s) := by
  unfold modIPort; exact Logged.upd K

theorem modTPort_logged {p f s} (K : Logged b0 s) : Logged b0 (modTPort p f s) := by
  unfold modTPort; exact Logged.upd K

theorem modSPort_logged {p f s} (K : Logged b0 s) : Logged b0 (modSPort p f s) := by
  unfold modSPort; exact Logged.upd K

theorem releaseSelect_logged {p s} (K : Logged b0 s) : Logged b0 (releaseSelect p s) := by
  unfold releaseSelect; exact modSPort_logged K

theorem takeItem_logged {q s x t} (h : Logged b0 s) (e : takeItem q s = some (x, t)) : Logged b0 t := by
  unfold takeItem at e
  split at e
  · cases e
  · split at e
    · cases e
      exact grants_logged (modQueue_logged h)
    · cases e

theorem skipBad_logged {n q s} (h : Logged b0 s) : Logged b0 (skipBad n q s) := by
  induction n generalizing s with
  | zero => exact h
  | succ n ih =>
    unfold skipBad; split
    · exact h
    · split
      · exact ih (takeItem_logged h ‹_›)
      · exact h

theorem takeGood_logged {n q s x t} (h : Logged b0 s) (e : takeGood n q s = some (x, t)) : Logged b0 t := by
  unfold takeGood at e
  exact takeItem_logged (skipBad_logged h) ‹_›

theorem loadTarget_logged {p s} (K : Logged b0 s) : Logged b0 (loadTarget p s) := by
  unfold loadTarget
  split
  · split
    · exact K
    · extract_lets +onlyGivenNames n
      exact modSPort_logged (takeGood_logged K ‹_›)
  · exact K

theorem loadTargets_logged {s} (K : Logged b0 s) : Logged b0 (loadTargets s) := by
  unfold loadTargets; exact Logged.foldl (fun _ _ h0 => (loadTarget_logged h0)) K

theorem settlePorts_logged {old s} (hs : Logged b0 s) : Logged b0 (settlePorts old s) := by
  unfold settlePorts
  refine Logged.foldl (fun _ _ h0 => ?_) (loadTargets_logged hs)
  extract_lets +onlyGivenNames s1
  have hs1 : Logged b0 s1 := Logged.ite (modIPort_logged h0) h0
  clear_value s1
  extract_lets +onlyGivenNames s2
  have hs2 : Logged b0 s2 := Logged.ite (modTPort_logged hs1) hs1
  clear_value s2
  exact Logged.ite (releaseSelect_logged hs2) hs2

theorem setStatByte_logged {a v s} (K : Logged b0 s) : Logged b0 (setStatByte a v s) := by
  unfold setStatByte; exact Logged.upd K

theorem setEstat_logged {n b on s} (K : Logged b0 s) : Logged b0 (setEstat n b on s) := by
  unfold setEstat
  extract_lets +onlyGivenNames v
  exact setStatByte_logged K

theorem purgeHeld_logged {s} (K : Logged b0 s) : Logged b0 (purgeHeld s) := by
  unfold purgeHeld
  extract_lets +onlyGivenNames gone
  exact Logged.foldl (fun _ _ h0 => (setEstat_logged h0)) (Logged.upd K)

theorem opEnd_logged {st why s} (K : Logged b0 s) : Logged b0 (opEnd st why s) := by
  unfold opEnd; exact attend_logged (grant_logged (Logged.upd K))

theorem setLast_logged {n code s} (K : Logged b0 s) : Logged b0 (setLast n code s) := by
  unfold setLast; exact setStatByte_logged K

theorem countByte_logged {a s} (K : Logged b0 s) : Logged b0 (countByte a s) := by
  unfold countByte; exact setStatByte_logged K

theorem countEp_logged {n o s} (K : Logged b0 s) : Logged b0 (countEp n o s) := by
  unfold countEp; exact countByte_logged K

theorem orphanRun_logged {n started s} (K : Logged b0 s) : Logged b0 (orphanRun n started s) := by
  unfold orphanRun
  extract_lets +onlyGivenNames s1
  have hs1 : Logged b0 s1 := setLast_logged (setEstat_logged K)
  clear_value s1
  exact Logged.ite (setEstat_logged (countEp_logged hs1)) hs1

theorem modBank_logged {b f s} (K : Logged b0 s) : Logged b0 (modBank b f s) := by
  unfold modBank; exact Logged.ite (Logged.upd K) (Logged.ite (Logged.upd K) (Logged.ite (Logged.upd K) K))

theorem putSlot_logged {b n x s} (K : Logged b0 s) : Logged b0 (putSlot b n x s) := by
  unfold putSlot; exact modBank_logged K

theorem markMiss_logged {n due s} (K : Logged b0 s) : Logged b0 (markMiss n due s) := by
  unfold markMiss
  split
  · exact K
  · exact Logged.ite (Logged.ite (Logged.upd K) (putSlot_logged K)) (Logged.upd K)

theorem missRun_logged {n due code s} (K : Logged b0 s) : Logged b0 (missRun n due code s) := by
  unfold missRun
  extract_lets +onlyGivenNames s1
  have hs1 : Logged b0 s1 := markMiss_logged (setLast_logged (countEp_logged (setEstat_logged K)))
  clear_value s1
  exact Logged.ite (tapTrigger_logged hs1) hs1

theorem modLane_logged {i f s} (K : Logged b0 s) : Logged b0 (modLane i f s) := by
  unfold modLane; exact Logged.upd K

theorem openFrame_logged {p who f s} (K : Logged b0 s) : Logged b0 (openFrame p who f s) := by
  unfold openFrame; exact grants_logged (modSPort_logged K)

theorem sendFrame_logged {p who f out s} (K : Logged b0 s) : Logged b0 (sendFrame p who f out s) := by
  unfold sendFrame; exact modSPort_logged (openFrame_logged K)

theorem sendFill_logged {l s} (K : Logged b0 s) : Logged b0 (sendFill l s) := by
  unfold sendFill
  extract_lets +onlyGivenNames _ _
  exact sendFrame_logged K

theorem beginFill_logged {l waited s} (K : Logged b0 s) : Logged b0 (beginFill l waited s) := by
  unfold beginFill; exact modSPort_logged (sendFill_logged K)

theorem startFill_logged {s} (K : Logged b0 s) : Logged b0 (startFill s) := by
  unfold startFill
  split
  · exact Logged.ite (beginFill_logged K) K
  · exact K

theorem setStatWord_logged {a v s} (K : Logged b0 s) : Logged b0 (setStatWord a v s) := by
  unfold setStatWord; exact Logged.upd K

theorem countWord_logged {a s} (K : Logged b0 s) : Logged b0 (countWord a s) := by
  unfold countWord; exact setStatWord_logged K

theorem countFrame_logged {p s} (K : Logged b0 s) : Logged b0 (countFrame p s) := by
  unfold countFrame; exact countWord_logged K

theorem sendFlash_logged {op addr data reads s} (K : Logged b0 s) : Logged b0 (sendFlash op addr data reads s) := by
  unfold sendFlash
  extract_lets +onlyGivenNames _ _
  exact countFrame_logged (sendFrame_logged K)

theorem startEnable_logged {s} (K : Logged b0 s) : Logged b0 (startEnable s) := by
  unfold startEnable
  split
  · exact Logged.ite (by
        extract_lets +onlyGivenNames s1
        have hs1 : Logged b0 s1 := sendFlash_logged K
        clear_value s1
        exact Logged.upd hs1) K
  · exact K

theorem sendSfdp_logged {addr reads s} (K : Logged b0 s) : Logged b0 (sendSfdp addr reads s) := by
  unfold sendSfdp
  extract_lets +onlyGivenNames _ _
  exact sendFrame_logged K

theorem startSfdp_logged {s} (K : Logged b0 s) : Logged b0 (startSfdp s) := by
  unfold startSfdp; exact Logged.ite (modSPort_logged (sendSfdp_logged K)) K

theorem pumpS0_logged {s} (K : Logged b0 s) : Logged b0 (pumpS0 s) := by
  unfold pumpS0; exact startFill_logged (startEnable_logged (startSfdp_logged K))

theorem dropHold_logged {p s} (K : Logged b0 s) : Logged b0 (dropHold p s) := by
  unfold dropHold
  split
  · extract_lets +onlyGivenNames v
    exact setStatWord_logged (modIPort_logged K)
  · exact K

theorem sendI_logged {p who bs s} (K : Logged b0 s) : Logged b0 (sendI p who bs s) := by
  unfold sendI; exact grants_logged (modIPort_logged K)

theorem startPt_logged {p s} (K : Logged b0 s) : Logged b0 (startPt p s) := by
  unfold startPt; exact Logged.ite (modIPort_logged (dropHold_logged (sendI_logged K))) K

theorem pumpPort_logged {n s} (K : Logged b0 s) : Logged b0 (pumpPort n s) := by
  unfold pumpPort; exact Logged.ite (pumpS0_logged K) (Logged.ite (startPt_logged K) K)

theorem releasePorts_logged {i s} (K : Logged b0 s) : Logged b0 (releasePorts i s) := by
  unfold releasePorts
  extract_lets +onlyGivenNames _ s1
  have hs1 : Logged b0 s1 := Logged.foldl (fun _ _ h2 => Logged.ite (releaseSelect_logged h2) h2) K
  clear_value s1
  extract_lets +onlyGivenNames s2
  have hs2 : Logged b0 s2 := modLane_logged hs1
  clear_value s2
  exact Logged.foldl (fun _ _ h2 => pumpPort_logged h2) (grants_logged hs2)

theorem clearLane_logged {i s} (K : Logged b0 s) : Logged b0 (clearLane i s) := by
  unfold clearLane; exact grant_logged (modLane_logged K)

theorem cancelLane_logged {i code s} (K : Logged b0 s) : Logged b0 (cancelLane i code s) := by
  unfold cancelLane
  extract_lets +onlyGivenNames _
  exact Logged.ite K (by
      extract_lets +onlyGivenNames s1
      have hs1 : Logged b0 s1 := Logged.ite K (Logged.ite (grant_logged (orphanRun_logged K)) (missRun_logged K))
      clear_value s1
      split
      · exact modLane_logged hs1
      · exact clearLane_logged (releasePorts_logged hs1))

theorem cancelLanes_logged {p code s} (K : Logged b0 s) : Logged b0 (cancelLanes p code s) := by
  unfold cancelLanes; exact Logged.foldl (fun _ _ h0 => (Logged.ite (cancelLane_logged h0) h0)) K

theorem freeDrain_logged {s} (K : Logged b0 s) : Logged b0 (freeDrain s) := by
  unfold freeDrain
  extract_lets +onlyGivenNames s1
  have hs1 : Logged b0 s1 := modQueue_logged (abandonItem_logged K)
  clear_value s1
  exact Logged.upd hs1

theorem endJob_logged {s} (K : Logged b0 s) : Logged b0 (endJob s) := by
  unfold endJob
  extract_lets +onlyGivenNames s1
  have hs1 : Logged b0 s1 := grants_logged K
  clear_value s1
  exact Logged.upd hs1

theorem clearRun_logged {n s} (K : Logged b0 s) : Logged b0 (clearRun n s) := by
  unfold clearRun
  extract_lets +onlyGivenNames v
  exact setStatByte_logged K

theorem endReplay_logged {s} (K : Logged b0 s) : Logged b0 (endReplay s) := by
  unfold endReplay
  split
  · extract_lets +onlyGivenNames eps t s1
    have hs1 : Logged b0 s1 := Logged.foldl (fun _ _ h1 => clearRun_logged h1) K
    clear_value s1
    exact Logged.upd hs1
  · exact K

theorem modPin_logged {i f s} (K : Logged b0 s) : Logged b0 (modPin i f s) := by
  unfold modPin; exact Logged.upd K

theorem beginTransit_logged {i s} (K : Logged b0 s) : Logged b0 (beginTransit i s) := by
  unfold beginTransit; exact Logged.ite (grant_logged (drawn_logged (modPin_logged K))) K

theorem settlePin_logged {old s i} (hs : Logged b0 s) : Logged b0 (settlePin old s i) := by
  unfold settlePin
  extract_lets +onlyGivenNames s1
  have hs1 : Logged b0 s1 := by
    dsimp only [s1]
    split
    · exact modPin_logged hs
    · exact hs
  clear_value s1
  exact Logged.ite (beginTransit_logged hs1) hs1

theorem settlePins_logged {old s} (hs : Logged b0 s) : Logged b0 (settlePins old s) := by
  unfold settlePins; exact Logged.foldl (fun _ _ h1 => settlePin_logged h1) hs

theorem adapting_logged {f s} (hf : ∀ x, Logged b0 x → Logged b0 (f x)) (h : Logged b0 s) : Logged b0 (adapting f s) := by
  unfold adapting; exact settleCans_logged (settlePins_logged (settlePorts_logged (purgeHeld_logged (hf _ h))))

theorem opProgress_logged {n s} (K : Logged b0 s) : Logged b0 (opProgress n s) := by
  unfold opProgress; exact grant_logged (Logged.upd K)

theorem scanCopies_logged {s} (K : Logged b0 s) : Logged b0 (scanCopies s) := by
  unfold scanCopies
  extract_lets +onlyGivenNames _ _
  exact Logged.upd K

theorem tackFail_logged {code s} (K : Logged b0 s) : Logged b0 (tackFail code s) := by
  unfold tackFail; exact Logged.upd K

theorem tackWrite_logged {o n bs s} (K : Logged b0 s) : Logged b0 (tackWrite o n bs s) := by
  unfold tackWrite; exact Logged.upd K

theorem buildImage_logged {j s} (K : Logged b0 s) : Logged b0 (buildImage j s) := by
  unfold buildImage; exact Logged.ite (opEnd_logged (scanCopies_logged (tackFail_logged (tackWrite_logged (endJob_logged K))))) (Logged.upd K)

theorem moveCommit_logged {least s} (K : Logged b0 s) : Logged b0 (moveCommit least s) := by
  unfold moveCommit
  split
  · exact K
  · exact Logged.ite K (by
        extract_lets +onlyGivenNames s1
        have hs1 : Logged b0 s1 := drawn_logged (opProgress_logged K)
        clear_value s1
        exact Logged.ite (buildImage_logged hs1) hs1)

theorem tearJob_logged {s0} (K : Logged b0 s0) : Logged b0 (tearJob s0) := by
  unfold tearJob
  extract_lets +onlyGivenNames s
  have hs : Logged b0 s := moveCommit_logged K
  clear_value s
  split
  · exact hs
  · extract_lets +onlyGivenNames _ s1
    have hs1 : Logged b0 s1 := drawn_logged (endJob_logged hs)
    clear_value s1
    exact scanCopies_logged (by
        split
        · exact tackWrite_logged hs1
        · exact Logged.ite (tackWrite_logged hs1) (tackWrite_logged hs1))

theorem stopJob_logged {s} (K : Logged b0 s) : Logged b0 (stopJob s) := by
  unfold stopJob
  split
  · exact cancelLanes_logged K
  · exact freeDrain_logged K
  · exact Logged.upd K
  · exact tearJob_logged K
  · exact adapting_logged (fun _ h2 => endReplay_logged h2) K
  · exact K

theorem invalidateCache_logged {s} (K : Logged b0 s) : Logged b0 (invalidateCache s) := by
  unfold invalidateCache; exact grant_logged (modSPort_logged K)

theorem endOp_logged {st why s} (K : Logged b0 s) : Logged b0 (endOp st why s) := by
  unfold endOp
  extract_lets +onlyGivenNames s1
  have hs1 : Logged b0 s1 := opEnd_logged (stopJob_logged K)
  clear_value s1
  exact Logged.ite (pumpS0_logged (invalidateCache_logged hs1)) hs1

theorem stopRuns_logged {s} (K : Logged b0 s) : Logged b0 (stopRuns s) := by
  unfold stopRuns
  extract_lets +onlyGivenNames _ s1
  have hs1 : Logged b0 s1 := Logged.upd K
  clear_value s1
  extract_lets +onlyGivenNames s2
  have hs2 : Logged b0 s2 := Logged.foldl (fun _ _ h1 => (missRun_logged h1)) hs1
  clear_value s2
  extract_lets +onlyGivenNames s3
  have hs3 : Logged b0 s3 := Logged.foldl (fun _ _ h1 => (orphanRun_logged h1)) hs2
  clear_value s3
  exact cancelLanes_logged hs3

theorem recMode_logged {old new hw prof first s} (K : Logged b0 s) : Logged b0 (recMode old new hw prof first s) := by
  unfold recMode; exact tapAppend_logged K

theorem commitsReady_logged {s} (K : Logged b0 s) : Logged b0 (commitsReady s) := by
  unfold commitsReady; exact Logged.upd K

theorem setMode_logged {m s} (K : Logged b0 s) : Logged b0 (setMode m s) := by
  unfold setMode
  extract_lets +onlyGivenNames s1
  have hs1 : Logged b0 s1 := grant_logged K
  clear_value s1
  exact Logged.upd hs1

theorem abortForMode_logged {m s} (K : Logged b0 s) : Logged b0 (abortForMode m s) := by
  unfold abortForMode; exact Logged.ite (endOp_logged K) K

theorem staleWindows_logged {s} (K : Logged b0 s) : Logged b0 (staleWindows s) := by
  unfold staleWindows; exact Logged.upd K

theorem countWordBy_logged {a n s} (K : Logged b0 s) : Logged b0 (countWordBy a n s) := by
  unfold countWordBy; exact setStatWord_logged K

theorem discardPubs_logged {s} (K : Logged b0 s) : Logged b0 (discardPubs s) := by
  unfold discardPubs
  extract_lets +onlyGivenNames drop
  have hdrop {ch} {s} (hs' : Logged b0 s) : Logged b0 (drop ch s) := by
    dsimp -zeta only [drop]
    extract_lets +onlyGivenNames n
    exact Logged.ite hs' (countWordBy_logged (modQueue_logged hs'))
  clear_value drop
  exact hdrop (hdrop K)

theorem parkPin_logged {i s} (K : Logged b0 s) : Logged b0 (parkPin i s) := by
  unfold parkPin; exact modPin_logged K

theorem parkPort_logged {n s} (K : Logged b0 s) : Logged b0 (parkPort n s) := by
  unfold parkPort
  extract_lets +onlyGivenNames s1
  have hs1 : Logged b0 s1 := Logged.foldl (fun _ _ h1 => (Logged.ite (parkPin_logged h1) h1)) K
  clear_value s1
  exact Logged.foldl (fun _ _ h0 => (Logged.ite (parkPin_logged h0) h0)) hs1

theorem parkFailed_logged {s} (K : Logged b0 s) : Logged b0 (parkFailed s) := by
  unfold parkFailed; exact Logged.foldl (fun _ _ h0 => (Logged.ite (parkPort_logged h0) h0)) K

theorem passValidation_logged {n s} (K : Logged b0 s) : Logged b0 (passValidation n s) := by
  unfold passValidation; exact Logged.ite (setLast_logged (setEstat_logged (Logged.upd K))) K

theorem failValidation_logged {n s} (K : Logged b0 s) : Logged b0 (failValidation n s) := by
  unfold failValidation
  extract_lets +onlyGivenNames _ s1
  have hs1 : Logged b0 s1 := Logged.ite K (Logged.upd K)
  clear_value s1
  exact setLast_logged (setEstat_logged hs1)

theorem validateEp_logged {n s} (K : Logged b0 s) : Logged b0 (validateEp n s) := by
  unfold validateEp; exact Logged.ite (passValidation_logged K) (failValidation_logged K)

theorem validateAll_logged {s} (K : Logged b0 s) : Logged b0 (validateAll s) := by
  unfold validateAll; exact Logged.foldl (fun _ _ h0 => (validateEp_logged h0)) K

theorem resetCond_logged {s} (K : Logged b0 s) : Logged b0 (resetCond s) := by
  unfold resetCond; exact Logged.upd K

theorem cancelRequest_logged {s} (K : Logged b0 s) : Logged b0 (cancelRequest s) := by
  unfold cancelRequest; exact Logged.ite (Logged.upd K) K

theorem leadReinBy_logged {path code s0} (K : Logged b0 s0) : Logged b0 (leadReinBy path code s0) := by
  unfold leadReinBy
  extract_lets +onlyGivenNames s
  have hs : Logged b0 s := grants_logged K
  clear_value s
  exact Logged.ite hs (Logged.ite (Logged.upd hs) (by
      extract_lets +onlyGivenNames s1
      have hs1 : Logged b0 s1 := cancelRequest_logged hs
      clear_value s1
      exact Logged.upd hs1))

theorem toLeadRein_logged {code s} (K : Logged b0 s) : Logged b0 (toLeadRein code s) := by
  unfold toLeadRein; exact leadReinBy_logged K

theorem lateReaction_logged {s} (K : Logged b0 s) : Logged b0 (lateReaction s) := by
  unfold lateReaction; exact Logged.ite (toLeadRein_logged K) K

theorem beginStaging_logged {s} (K : Logged b0 s) : Logged b0 (beginStaging s) := by
  unfold beginStaging
  extract_lets +onlyGivenNames b _ s1
  have hs1 : Logged b0 s1 := Logged.upd K
  clear_value s1
  exact modBank_logged hs1

theorem enterMode_logged {m s0} (K : Logged b0 s0) : Logged b0 (enterMode m s0) := by
  unfold enterMode; exact (adapting_logged (fun _ h0 => (by
        extract_lets +onlyGivenNames old s1
        have hs1 : Logged b0 s1 := commitsReady_logged (setMode_logged (abortForMode_logged h0))
        clear_value s1
        extract_lets +onlyGivenNames s2
        have hs2 : Logged b0 s2 := staleWindows_logged (Logged.ite hs1 (discardPubs_logged hs1))
        clear_value s2
        extract_lets +onlyGivenNames s3
        have hs3 : Logged b0 s3 := Logged.ite (parkFailed_logged hs2) hs2
        clear_value s3
        extract_lets +onlyGivenNames s4
        have hs4 : Logged b0 s4 := Logged.ite (validateAll_logged (resetCond_logged hs3)) hs3
        clear_value s4
        exact (lateReaction_logged (Logged.ite (beginStaging_logged hs4) hs4)))) K)

theorem endRecording_logged {s} (K : Logged b0 s) : Logged b0 (endRecording s) := by
  unfold endRecording; exact Logged.ite (Logged.ite (freeze_logged K) (Logged.upd K)) K

theorem opPost_logged {w0 w1 w2 w3 s} (K : Logged b0 s) : Logged b0 (opPost w0 w1 w2 w3 s) := by
  unfold opPost
  extract_lets +onlyGivenNames _
  exact Logged.ite (grant_logged (grant_logged (Logged.upd K))) (grant_logged (Logged.upd K))

theorem addDue_logged {n s} (K : Logged b0 s) : Logged b0 (addDue n s) := by
  unfold addDue
  extract_lets +onlyGivenNames _
  exact Logged.ite K (Logged.ite K (Logged.ite (Logged.upd K) (Logged.ite (countEp_logged K) (Logged.upd K))))

theorem startAttempt_logged {i pc trig s} (K : Logged b0 s) : Logged b0 (startAttempt i pc trig s) := by
  unfold startAttempt; exact modLane_logged K

theorem startRun_logged {i r ahead s} (K : Logged b0 s) : Logged b0 (startRun i r ahead s) := by
  unfold startRun; exact setEstat_logged (setStatByte_logged (startAttempt_logged (modLane_logged K)))

theorem dispatch_logged {s} (K : Logged b0 s) : Logged b0 (dispatch s) := by
  unfold dispatch
  exact Logged.foldl (fun _ _ h1 => Logged.ite (by
      split
      · exact Logged.ite h1 (startRun_logged (grant_logged (Logged.upd h1)))
      · split
        · exact Logged.ite h1 (startRun_logged (grant_logged (Logged.upd h1)))
        · exact h1) h1) K

theorem missOwed_logged {s} (K : Logged b0 s) : Logged b0 (missOwed s) := by
  unfold missOwed
  extract_lets +onlyGivenNames _
  exact Logged.foldl (fun _ _ h2 => countEp_logged h2) (Logged.upd K)

theorem sortRuns_logged {s} (K : Logged b0 s) : Logged b0 (sortRuns s) := by
  unfold sortRuns
  extract_lets +onlyGivenNames _
  exact Logged.upd K

theorem dueRuns_logged {s} (K : Logged b0 s) : Logged b0 (dueRuns s) := by
  unfold dueRuns
  extract_lets +onlyGivenNames s1
  have hs1 : Logged b0 s1 := missOwed_logged K
  clear_value s1
  exact Logged.ite (by
      extract_lets +onlyGivenNames _ s11
      have hs11 : Logged b0 s11 := Logged.foldl (fun _ _ h4 => Logged.ite (addDue_logged h4) h4) (grant_logged hs1)
      clear_value s11
      exact dispatch_logged (sortRuns_logged (Logged.upd hs11))) hs1

theorem dropRxItem_logged {ch s} (K : Logged b0 s) : Logged b0 (dropRxItem ch s) := by
  unfold dropRxItem
  extract_lets +onlyGivenNames s1
  have hs1 : Logged b0 s1 := by
    dsimp -zeta only [s1]
    split
    · split
      · exact abandonItem_logged K
      · exact K
    · exact K
  clear_value s1
  exact modCan_logged hs1

theorem recPort_logged {port kind ep outcome lane rx t s} (K : Logged b0 s) : Logged b0 (recPort port kind ep outcome lane rx t s) := by
  unfold recPort; exact tapAppend_logged K

theorem freeLaneAt_logged {i s} (K : Logged b0 s) : Logged b0 (freeLaneAt i s) := by
  unfold freeLaneAt; exact dispatch_logged (clearLane_logged K)

theorem probeRecords_logged {buf high n off s} (h : Logged b0 s) : Logged b0 (probeRecords buf high n off s) := by
  induction n generalizing off s with
  | zero => exact h
  | succ n ih => unfold probeRecords; exact Logged.ite h (ih (opPost_logged h))

theorem endProbe_logged {i code s} (K : Logged b0 s) : Logged b0 (endProbe i code s) := by
  unfold endProbe
  extract_lets +onlyGivenNames _ s1
  have hs1 : Logged b0 s1 := setLast_logged (probeRecords_logged K)
  clear_value s1
  extract_lets +onlyGivenNames s2
  have hs2 : Logged b0 s2 := purgeHeld_logged (clearLane_logged hs1)
  clear_value s2
  exact Logged.ite (opEnd_logged hs2) (opEnd_logged hs2)

theorem endMissed_logged {i code s} (K : Logged b0 s) : Logged b0 (endMissed i code s) := by
  unfold endMissed
  extract_lets +onlyGivenNames l s1
  have hs1 : Logged b0 s1 := missRun_logged K
  clear_value s1
  extract_lets +onlyGivenNames _ s2
  have hs2 : Logged b0 s2 := Logged.ite (Logged.upd hs1) hs1
  clear_value s2
  exact freeLaneAt_logged hs2

theorem failAttempt_logged {i code s0} (K : Logged b0 s0) : Logged b0 (failAttempt i code s0) := by
  unfold failAttempt
  extract_lets +onlyGivenNames s
  have hs : Logged b0 s := releasePorts_logged K
  clear_value s
  exact Logged.ite (freeLaneAt_logged hs) (Logged.ite (endProbe_logged hs) (Logged.ite (modLane_logged hs) (endMissed_logged hs)))

theorem stickS_logged {p n s} (K : Logged b0 s) : Logged b0 (stickS p n s) := by
  unfold stickS; exact modSPort_logged K

theorem abortFrame_logged {p s} (K : Logged b0 s) : Logged b0 (abortFrame p s) := by
  unfold abortFrame; exact countWord_logged (stickS_logged (releaseSelect_logged K))

theorem stickI_logged {p n s} (K : Logged b0 s) : Logged b0 (stickI p n s) := by
  unfold stickI; exact modIPort_logged K

theorem countNack_logged {p s} (K : Logged b0 s) : Logged b0 (countNack p s) := by
  unfold countNack; exact countWord_logged K

theorem countArbLost_logged {p s} (K : Logged b0 s) : Logged b0 (countArbLost p s) := by
  unfold countArbLost; exact countWord_logged (stickI_logged (modIPort_logged K))

theorem setPtStat_logged {p res done hold s} (K : Logged b0 s) : Logged b0 (setPtStat p res done hold s) := by
  unfold setPtStat; exact setStatWord_logged K

theorem ptCut_logged {p res s} (K : Logged b0 s) : Logged b0 (ptCut p res s) := by
  unfold ptCut
  extract_lets +onlyGivenNames a ctl w done code rx _ s1
  have hs1 : Logged b0 s1 := Logged.ite (Logged.upd K) K
  clear_value s1
  exact drawn_logged (stickI_logged (setPtStat_logged (modIPort_logged hs1)))

theorem recTorn_logged {i p outcome s} (K : Logged b0 s) : Logged b0 (recTorn i p outcome s) := by
  unfold recTorn
  extract_lets +onlyGivenNames s1
  have hs1 : Logged b0 s1 := recPort_logged K
  clear_value s1
  exact Logged.upd hs1

theorem failOnWire_logged {p outcome code s} (K : Logged b0 s) : Logged b0 (failOnWire p outcome code s) := by
  unfold failOnWire
  split
  · exact K
  · extract_lets +onlyGivenNames s1
    have hs1 : Logged b0 s1 := recTorn_logged K
    clear_value s1
    extract_lets +onlyGivenNames s2
    have hs2 : Logged b0 s2 := Logged.ite (abortFrame_logged hs1) hs1
    clear_value s2
    exact failAttempt_logged (modLane_logged hs2)

theorem cutTarget_logged {p s} (K : Logged b0 s) : Logged b0 (cutTarget p s) := by
  unfold cutTarget; exact Logged.ite (modSPort_logged (abortFrame_logged K)) K

theorem endSfdp_logged {good s} (K : Logged b0 s) : Logged b0 (endSfdp good s) := by
  unfold endSfdp; exact pumpS0_logged (modSPort_logged K)

theorem cutWindow_logged {s} (K : Logged b0 s) : Logged b0 (cutWindow s) := by
  unfold cutWindow
  extract_lets +onlyGivenNames s1
  have hs1 : Logged b0 s1 := Logged.ite (modSPort_logged (abortFrame_logged K)) K
  clear_value s1
  exact Logged.ite (endSfdp_logged (abortFrame_logged hs1)) hs1

theorem cutFlash_logged {s} (K : Logged b0 s) : Logged b0 (cutFlash s) := by
  unfold cutFlash; exact Logged.ite (Logged.ite (endOp_logged (drawn_logged (abortFrame_logged K))) (drawn_logged K)) K

theorem cutS_logged {p code s} (K : Logged b0 s) : Logged b0 (cutS p code s) := by
  unfold cutS
  extract_lets +onlyGivenNames s1
  have hs1 : Logged b0 s1 := cutTarget_logged (failOnWire_logged K)
  clear_value s1
  extract_lets +onlyGivenNames s2
  have hs2 : Logged b0 s2 := Logged.ite (cutWindow_logged (cutFlash_logged hs1)) hs1
  clear_value s2
  exact Logged.ite (releaseSelect_logged hs2) hs2

theorem cutI_logged {p code res s} (K : Logged b0 s) : Logged b0 (cutI p code res s) := by
  unfold cutI
  extract_lets +onlyGivenNames s1
  have hs1 : Logged b0 s1 := failOnWire_logged (Logged.ite (ptCut_logged K) K)
  clear_value s1
  exact modIPort_logged (dropHold_logged hs1)

theorem putItem_logged {q who prio bytes kind s t'} (K : Logged b0 s) (e : putItem q who prio bytes kind s = some t') : Logged b0 t' := by
  unfold putItem at e
  split at e
  · cases e
  · cases e
    exact closeItem_logged (reserve_logged K ‹_›)

theorem markDrop_logged {q s} (K : Logged b0 s) : Logged b0 (markDrop q s) := by
  unfold markDrop; exact modQueue_logged K

theorem putRx_logged {p bytes s} (K : Logged b0 s) : Logged b0 (putRx p bytes s) := by
  unfold putRx
  split
  · exact putItem_logged K ‹_›
  · exact markDrop_logged (stickS_logged K)

theorem safetySent_logged {p sel failed s} (K : Logged b0 s) : Logged b0 (safetySent p sel failed s) := by
  unfold safetySent
  extract_lets +onlyGivenNames _
  exact setStatWord_logged K

theorem countSelect_logged {p sel o s} (K : Logged b0 s) : Logged b0 (countSelect p sel o s) := by
  unfold countSelect; exact countByte_logged K

theorem checkTrailer_logged {p f len rx s x' t'} (K : Logged b0 s) (e : checkTrailer p f len rx s = (x', t')) : Logged b0 t' := by
  unfold checkTrailer at e
  split at e
  · dsimp only at e
    cases e
    exact Logged.ite (countSelect_logged (Logged.ite (countSelect_logged (setStatWord_logged K)) (setStatWord_logged K))) (Logged.ite (countSelect_logged (setStatWord_logged K)) (setStatWord_logged K))
  · cases e
    exact countSelect_logged K

theorem endByteFrame_logged {p f len rx s x' t'} (K : Logged b0 s) (e : endByteFrame p f len rx s = (x', t')) : Logged b0 t' := by
  unfold endByteFrame at e
  split at e
  · dsimp only at e
    cases e
    exact Logged.ite (safetySent_logged (checkTrailer_logged K rfl)) (stickS_logged (safetySent_logged (checkTrailer_logged K rfl)))
  · cases e
    exact K

theorem holdSelect_logged {p sel cont len s} (K : Logged b0 s) : Logged b0 (holdSelect p sel cont len s) := by
  unfold holdSelect; exact modSPort_logged K

theorem runEntry_logged {p e aborted rx0 s} (K : Logged b0 s) : Logged b0 (runEntry p e aborted rx0 s) := by
  unfold runEntry
  extract_lets +onlyGivenNames _
  exact Logged.ite (by
      extract_lets +onlyGivenNames _ _ s1
      have hs1 : Logged b0 s1 := sendFrame_logged K
      clear_value s1
      exact Logged.ite (by
          extract_lets +onlyGivenNames _
          exact putRx_logged (abortFrame_logged hs1)) (by
          extract_lets +onlyGivenNames _ r
          have hr : Logged b0 r.2 := by
            dsimp only [r]
            split
            · exact hs1
            · exact endByteFrame_logged hs1 rfl
          clear_value r
          extract_lets +onlyGivenNames s2
          have hs2 : Logged b0 s2 := holdSelect_logged (countWord_logged (countFrame_logged hr))
          clear_value s2
          extract_lets +onlyGivenNames _
          exact putRx_logged hs2)) (putRx_logged (stickS_logged (releaseSelect_logged K)))

theorem tornEntry_logged {p s} (K : Logged b0 s) : Logged b0 (tornEntry p s) := by
  unfold tornEntry
  exact Logged.ite (by
      split
      · exact K
      · extract_lets +onlyGivenNames _
        exact Logged.ite K (by
            extract_lets +onlyGivenNames _
            exact drawn_logged (runEntry_logged (takeItem_logged K ‹_›)))) K

theorem cutBank_logged {b s} (K : Logged b0 s) : Logged b0 (cutBank b s) := by
  unfold cutBank; exact Logged.foldl (fun _ _ h1 => Logged.ite h1 (Logged.ite (cutS_logged (tornEntry_logged h1)) (Logged.ite (Logged.foldl (fun _ _ h5 => Logged.ite (failAttempt_logged h5) h5) (cutI_logged h1)) h1))) K

theorem sentFailWaiting_logged {p slow s} (K : Logged b0 s) : Logged b0 (sentFailWaiting p slow s) := by
  unfold sentFailWaiting
  refine Logged.foldl (fun _ _ h0 => ?_) K
  extract_lets +onlyGivenNames d
  exact Logged.ite (failAttempt_logged h0) h0

theorem recSent_logged {p cls bytes t s} (K : Logged b0 s) : Logged b0 (recSent p cls bytes t s) := by
  unfold recSent; exact tapAppend_logged K

theorem stickT_logged {p n s} (K : Logged b0 s) : Logged b0 (stickT p n s) := by
  unfold stickT; exact modTPort_logged K

theorem slowError_logged {p bytes s} (K : Logged b0 s) : Logged b0 (slowError p bytes s) := by
  unfold slowError
  extract_lets +onlyGivenNames s1
  have hs1 : Logged b0 s1 := modTPort_logged K
  clear_value s1
  exact sentFailWaiting_logged (recSent_logged (countWord_logged (stickT_logged hs1)))

theorem sentSearch_logged {p s} (K : Logged b0 s) : Logged b0 (sentSearch p s) := by
  unfold sentSearch; exact modTPort_logged K

theorem sentDiscard_logged {p s} (K : Logged b0 s) : Logged b0 (sentDiscard p s) := by
  unfold sentDiscard
  extract_lets +onlyGivenNames s1
  have hs1 : Logged b0 s1 := sentSearch_logged K
  clear_value s1
  exact sentFailWaiting_logged (Logged.ite hs1 (slowError_logged hs1))

theorem sentFail_logged {p c nibbles s} (K : Logged b0 s) : Logged b0 (sentFail p c nibbles s) := by
  unfold sentFail
  extract_lets +onlyGivenNames e x bytes s1
  have hs1 : Logged b0 s1 := by
    dsimp -zeta only [s1]
    split
    · exact countWord_logged K
    · exact K
  clear_value s1
  extract_lets +onlyGivenNames s2
  have hs2 : Logged b0 s2 := modTPort_logged (stickT_logged hs1)
  clear_value s2
  exact sentDiscard_logged (Logged.ite hs2 (recSent_logged hs2))

theorem clockLostS_logged {p s} (K : Logged b0 s) : Logged b0 (clockLostS p s) := by
  unfold clockLostS
  extract_lets +onlyGivenNames s1
  have hs1 : Logged b0 s1 := cutS_logged K
  clear_value s1
  exact Logged.ite hs1 (stickS_logged hs1)

theorem clockLost_logged {n s} (K : Logged b0 s) : Logged b0 (clockLost n s) := by
  unfold clockLost
  exact Logged.ite (clockLostS_logged K) (Logged.ite (by
      extract_lets +onlyGivenNames _ s1
      have hs1 : Logged b0 s1 := Logged.ite (stickI_logged (cutI_logged K)) K
      clear_value s1
      exact modIPort_logged hs1) (Logged.ite (by
      split
      · exact sentFail_logged K
      · exact K) (dropRxItem_logged K)))

end Sys2Proof.Laws
end

