-- ==== Sys2Proof/WellFormed.lean ====
section
/-! DEFINITION. Which operands of a command can occur: a frame's data fits its DLC code, a byte string fits
the transfer that carries it. `exec` is total and gives an ill-formed command a
meaning too; the check says which commands the hub's outside can bring. -/

namespace Sys2Proof

/-- A CAN frame that the bus can carry: the identifier fits its format, only an FD frame has BRS or ESI,
only a classical frame is remote, and the data has the length of the DLC code (R275). -/
def CanFrame.wf (f : CanFrame) : Bool :=
  (f.ide || decide (f.id.toNat < 2048)) && (f.fdf || (!f.brs && !f.esi)) && !(f.rtr && f.fdf)
    && f.data.length == (if f.rtr then 0 else Machine.dlcBytes f.fdf f.dlc.toNat)

/-- A test report of a failed test names the island that failed, and one of island test 3 its verdict point (R401,
R402). -/
def TestReport.wf (r : TestReport) : Bool :=
  (r.skipped || r.island.isSome) && ((r.group == 15 && r.test == 3) == r.point.isSome)

/-- A pulse is low at its start and high before its end (R354). -/
def SentPulse.wf (x : SentPulse) : Bool := decide (0 < x.low) && decide (x.low < x.len)

/-- The end of a long operation is well formed. -/
def OpEnd.wf : OpEnd → Bool
  | .complete => true
  | .failed => true
  | .selfTest rs => rs.all TestReport.wf
  | .autoRate .. => true

/-- THE CHECK of a command's operands. -/
def Instr.wf (i : Instr) : Bool :=
  match i with
  | .wakeFrame _ f => f.wf
  | .reinFrame bytes edges _ _ _ => bytes.length == edges / 8
  | .portStepComplete _ _ rx _ => decide (rx.length ≤ 256)
  | .canFrameReceived _ f _ _ => f.wf
  | .controlFieldEnd _ f => f.wf
  | .passThroughEntry _ _ rx _ => decide (rx.length ≤ 256)
  | .lineFillDone line => line.length == 32
  | .sfdpDone table => (match table with | none => true | some ws => ws.length == 9)
  | .ptGo _ _ done rx => decide (done ≤ 32) && decide (rx.length ≤ 32)
  | .sentFrame _ before low len _ => before.all SentPulse.wf && SentPulse.wf ⟨low, len⟩
  | .sentError _ before last _ => before.all SentPulse.wf && last.wf
  | .sentSync _ run => !run.pulses.isEmpty && run.pulses.all SentPulse.wf
  | .longOpEnd e => e.wf
  | .refclkMeasured kHz => decide (0 < kHz)
  | _ => true

end Sys2Proof
end

