-- ==== Sys2Proof/Tests/Slice0.lean ====
section
/-! SUPPORT. Tests: the spec's worked examples, ill-formed operands, and for every statement states and operands that meet
its hypotheses. -/

namespace Sys2Proof.Tests

set_option Elab.async false

open Sys2Proof.Machine Sys2Proof.Safety

/-! ## Small states -/

/-- The running hub in mode `m`. -/
def hub (m : Mode) : State := { State.reset with
  power := { State.reset.power with boot := .running, measured := true, pllLocked := true }
  mode := { State.reset.mode with cur := m, tgt := m } }

/-- The sealed hub with these wake sources. -/
def sealedHub (cfg : Word) : State := { hub .stabled with
  power := { (hub .stabled).power with sleep := .sealed, wakeCfg := cfg } }

/-- The hub before its boot phase `b` ends. -/
def bootHub (b : BootPhase) : State := { State.reset with power := { State.reset.power with boot := b } }

/-- A configuration that holds these words. -/
def poke (ws : List (Nat × Nat)) : Mem := ws.foldl (fun m w => Memory.writeBytes cfgDflt m w.1 (leBytes 2 w.2)) []

/-- The hub with a configuration. -/
def hubWith (m : Mode) (ws : List (Nat × Nat)) : State := { hub m with cfg := ⟨poke ws, poke ws, []⟩ }

/-- A hub whose counts and memories are as the spec gives them, and that writes no key, meets the invariant. -/
theorem inv_of {s : State} (m : memoriesWf s = true) (c : shape s = specShape) (k : s.auth.keyWrite = none) : Inv s :=
  ⟨m, c, fun w _ h => by rw [k] at h; cases h⟩

/-! ## The machine as a whole -/

theorem witness_StepRunsTheFrontCommand :
    { hub .halter with pending := [.epochPulseEnd, .hubTimeWrap] }.pending = .epochPulseEnd :: [.hubTimeWrap] := by decide

theorem witness_NothingIsTurnedAway : (hub .halter).pending = [] := by decide

/-- A hub whose slot 1 is locked. -/
def lockedHub : State := { hub .halter with
  tack := { (hub .halter).tack with slots := (hub .halter).tack.slots.set 1 ⟨2, List.replicate 16 7, 0xFF⟩ }
  pending := [.epochPulseEnd] }

set_option maxRecDepth 8000 in
theorem witness_StepKeepsInvariant : Inv lockedHub ∧ ∃ t, step lockedHub = .next t :=
  ⟨inv_of (by decide) (by decide) rfl, _, rfl⟩

set_option maxRecDepth 8000 in
theorem witness_LockedSlotNeverChanges : Inv lockedHub ∧ (∃ t, step lockedHub = .next t) ∧
    lockedHub.tack.slots[1]? = some ⟨2, List.replicate 16 7, 0xFF⟩ ∧ (⟨2, List.replicate 16 7, 0xFF⟩ : KeySlot).state = 2 :=
  ⟨inv_of (by decide) (by decide) rfl, ⟨_, rfl⟩, by decide, by decide⟩

theorem witness_StepKeepsCounterIdentityQueue : Inv lockedHub ∧ ∃ t, step lockedHub = .next t :=
  witness_StepKeepsInvariant

theorem witness_OnlyTheseChange : (∃ t, exec .epochPulseEnd (hub .halter) = .next t) ∧
    entersMode .epochPulseEnd = false ∧ writesTack .epochPulseEnd = false ∧ writesSlot .epochPulseEnd = false ∧
    decidesCommand .epochPulseEnd = false ∧ setsLock .epochPulseEnd = false :=
  ⟨⟨_, rfl⟩, by decide, by decide, by decide, by decide, by decide⟩

/-! ## Resets, power-up and sleep -/

/-- Table 04-2: every reset from a hub in Canter. The tack store has no write job there. -/
theorem witness_Resets : reinListens (hub .canter) = true ∧ (hub .canter).tack.job = none := by decide

/-- The hub that measures its reference clock. -/
def measuringHub : State := { bootHub .answering with power := { (bootHub .answering).power with measured := false } }

/-- The hub whose PLL is about to lock. -/
def measuredHub : State := { bootHub .answering with power := { (bootHub .answering).power with measured := true } }

theorem witness_StartUp :
    (bootHub .held).power.boot = .held ∧ (bootHub .starting).power.boot = .starting ∧
    (measuring measuringHub = true ∧ freqCode 20000 ≠ 0) ∧
    (measuredHub.power.boot = .answering ∧ measuredHub.power.sleep = .awake ∧ measuredHub.power.measured = true ∧
      measuredHub.power.pllLocked = false ∧ measuredHub.power.clockLost = false ∧ measuredHub.time.now = 0 ∧
      measuredHub.tap.kept = []) ∧
    (let s := { measuredHub with tap := { measuredHub.tap with kept := [⟨0, [1], none, 0, [9]⟩] } }
     s.tap.kept ≠ [] ∧ s.pool.queues.length = 64) := by decide

/-- The hub with its PLL locked, before the profiles are read. -/
def lockedPllHub : State := { measuredHub with power := { measuredHub.power with pllLocked := true } }

/-- A waking hub. -/
def wakingHub : State := { hub .stabled with power := { (hub .stabled).power with sleep := .waking } }

/-- The hub on its way back from Farrier. -/
def leavingFarrier : State := { hub .farrier with mode := { (hub .farrier).mode with farrierExit := true } }

theorem witness_ModeEntries :
    (lockedPllHub.power.boot = .answering ∧ lockedPllHub.power.pllLocked = true) ∧
    (wakingHub.power.sleep = .waking ∧ wakingHub.power.pllLocked = true) ∧ leavingFarrier.mode.farrierExit = true := by decide

theorem witness_WakeSources : (sealedHub 0x02).power.sleep = .sealed := by decide

/-- A hub in its Stabled entry. -/
def quiescingHub : State := { hub .halter with power := { (hub .halter).power with sleep := .quiescing } }

/-- The sealed hub before its supply drops. -/
def droppingHub : State := { sealedHub 0x02 with power := { (sealedHub 0x02).power with dropRunning := true } }

theorem witness_StabledEntry :
    (quiescingHub.power.sleep = .quiescing ∧ quiescingHub.pins.pins.length = 59) ∧
    (quiescingHub.power.boot = .running ∧ quiesced quiescingHub = true) ∧
    (droppingHub.power.sleep = .sealed ∧ droppingHub.power.dropRunning = true) ∧
    ((sealedHub 0x02).power.sleep = .sealed ∧ wakeMode .a (sealedHub 0x02) = 2) := by decide

/-! ## Mode requests -/

/-- The hub with a wake source and a valid user profile. -/
def readyHub (m : Mode) : State := { hub m with
  power := { (hub m).power with wakeCfg := 0x01 }, tack := { (hub m).tack with usrOk := true } }

/-- The hub while a long operation runs. -/
def busyHub (m : Mode) (job : OpJob) : State := { hub m with
  op := { (hub m).op with state := 1, code := 1, job := job } }

/-- The hub during an entry. -/
def enteringHub : State := { hub .halter with mode := { (hub .halter).mode with effective := true } }

/-- The requests are open. -/
theorem requestsOpen {s : State} (a : s.mode.cur ≠ .reset) (b : s.power.sleep = .awake) (c : s.mode.effective = false)
    (d : s.mode.hwCode = none) : RequestsOpen s := ⟨a, b, c, d⟩

theorem witness_ModeRequestRefused :
    HostServed (hub .halter) ∧ 1 ≤ (0x0004 : Word).toNat % 16 ∧ (0x0004 : Word).toNat % 16 ≤ 6 ∧
    (0x0004 : Word).toNat / 256 ≠ 0x5A ∧ (0x5A04 : Word).toNat / 256 = 0x5A ∧
    (HostServed enteringHub ∧ ¬ RequestsOpen enteringHub) ∧ RequestsOpen (hub .halter) ∧
    (0x5A06 : Word).toNat % 16 = 6 ∧ (HostServed (hub .farrier) ∧ RequestsOpen (hub .farrier)) ∧
    (HostServed (busyHub .halter (.selfTest 1 false)) ∧ RequestsOpen (busyHub .halter (.selfTest 1 false)) ∧
      opRuns (busyHub .halter (.selfTest 1 false)) = true) ∧
    (opRuns (hub .halter) = false ∧ (hub .halter).power.wakeCfg &&& 0xFF = 0) ∧ (hub .halter).tack.usrOk = false :=
  ⟨⟨rfl, rfl⟩, by decide, by decide, by decide, by decide, ⟨⟨rfl, rfl⟩, fun h => absurd h.2.2.1 (by decide)⟩,
    ⟨by decide, rfl, rfl, rfl⟩, by decide, ⟨⟨rfl, rfl⟩, by decide, rfl, rfl, rfl⟩,
    ⟨⟨rfl, rfl⟩, ⟨by decide, rfl, rfl, rfl⟩, by decide⟩, by decide, by decide⟩

theorem witness_ModeRequestAccepted :
    (HostServed (readyHub .halter) ∧ RequestsOpen (readyHub .halter) ∧ (0x5A02 : Word).toNat / 256 = 0x5A ∧
      modeOfReq ((0x5A02 : Word).toNat % 16) = (readyHub .halter).mode.cur) ∧
    (modeOfReq ((0x5A04 : Word).toNat % 16) ≠ (readyHub .halter).mode.cur ∧ (readyHub .halter).tack.usrOk = true) ∧
    (HostServed (readyHub .canter) ∧ RequestsOpen (readyHub .canter) ∧ opRuns (readyHub .canter) = false ∧
      (readyHub .canter).power.wakeCfg &&& 0xFF ≠ 0) ∧
    (HostServed (readyHub .farrier) ∧ RequestsOpen (readyHub .farrier)) :=
  ⟨⟨⟨rfl, rfl⟩, ⟨by decide, rfl, rfl, rfl⟩, by decide, by decide⟩, by decide,
    ⟨⟨rfl, rfl⟩, ⟨by decide, rfl, rfl, rfl⟩, by decide, by decide⟩, ⟨rfl, rfl⟩, by decide, rfl, rfl, rfl⟩

/-! ## Hub time, epochs and snapshots -/

/-- The hub in Canter in the middle of epoch 5; `left` base epochs are left of it. -/
def epochHub (left : Nat) : State := { hub .canter with
  time := { (hub .canter).time with
    run := true, now := 15000, nextBoundary := some 16000, epochOn := true, epochIx := 5, epochStart := 0, walkLeft := left } }

/-- A hub in Farrier that replays. -/
def replayHub : State := { hub .farrier with
  replay := { (hub .farrier).replay with
    run := true, mode := .canter, lstate := 3, clock := { (epochHub 1).time with epochOn := false } }
  op := { (hub .farrier).op with state := 1, code := 9, job := .replay 0 } }

theorem witness_BaseBoundary :
    (boundaryDue replayHub = some 16000 ∧ replayHub.replay.run = true) ∧
    (boundaryDue (epochHub 3) = some 16000 ∧ (epochHub 3).replay.run = false ∧ (epochHub 3).time.epochOn = true ∧
      epochEnds (byApply { epochHub 3 with time := (epochHub 3).time.tick 16000 }) = false) ∧
    (boundaryDue (epochHub 1) = some 16000 ∧ (epochHub 1).replay.run = false ∧ (epochHub 1).time.epochOn = true ∧
      epochEnds (byApply { epochHub 1 with time := (epochHub 1).time.tick 16000 }) = true ∧ (epochHub 1).mode.pend = false ∧
      (epochHub 1).mode.hwCode = none ∧ (epochHub 1).tack.swPend = false ∧ (epochHub 1).tack.swFailed = false) := by decide

/-- An epoch that has ended. -/
def endedEpoch : EndedEpoch :=
  { ix := 5, mode := .canter, startHt := 0, endHt := 16000, guard := 10, clipped := false, cutoff := 16160, byCount := 7 }

/-- The hub between the end of epoch 5 and its cutoff, bank A in staging; `rec` says that the commit unit recovers. -/
def cutoffHub (rec : Bool) : State := { epochHub 1 with
  time := { (epochHub 1).time with ended := some endedEpoch, epochIx := 6 }
  snap := { (epochHub 1).snap with staging := 1, recovering := rec } }

theorem witness_SnapshotCommit :
    (let s := { replayHub with replay := { replayHub.replay with run := true } }; heldUp 154 true s = true) ∧
    heldUp 154 true (cutoffHub false) = false ∧
    ((cutoffHub false).time.ended = some endedEpoch ∧ (cutoffHub false).power.sleep = .awake ∧
      (cutoffHub false).power.lrDrop1.getLsbD 1 = false ∧ (cutoffHub false).snap.recovering = false) ∧
    (cutoffHub true).snap.recovering = true ∧ (cutoffHub false).mode.cur ≠ .leadrein ∧
    (let s := { cutoffHub false with mode := { (cutoffHub false).mode with cur := .leadrein } }
     heldUp 154 true s = false ∧ s.time.ended = some endedEpoch) := by decide

/-- The hub while the forward fill of bank B runs and bank A is the newest. -/
def fillHub : State := { epochHub 1 with
  snap := { (epochHub 1).snap with fill := true, staging := 2, newest := 1, written := [3], first := false } }

theorem witness_BankUpkeep : (fillHub.snap.fill = true ∧ fillHub.snap.staging ≠ 0) ∧
    (fillHub.snap.newest ≠ 0 ∧ (bankOf (newestBank fillHub) fillHub).hdr.crcv = 0) := by decide

/-- The hub with bank A newest and pinned. -/
def pinnedHub : State := { epochHub 1 with snap := { (epochHub 1).snap with newest := 1, pinned := 1, pinTmo := 4 } }

theorem witness_SnapshotPin : HostServed pinnedHub ∧ (pinnedHub.snap.pinTmo ≠ 0 ∧ pinnedHub.snap.pinned ≠ 0) :=
  ⟨⟨by decide, rfl⟩, by decide⟩

/-- The hub at the last tick of hub time. -/
def wrapHub : State := { epochHub 1 with time := { (epochHub 1).time with now := 0xFFFF_FFFF_FFFF } }

/-- A follower of Boryel sync that has lock. -/
def followerHub : State := { hub .halter with boryel := { (hub .halter).boryel with lock := true } }

/-- A Boryel leader. -/
def leaderHub : State := { hub .halter with boryel := { (hub .halter).boryel with leading := true, lock := true } }

/-- A Boryel leader that has yielded, on a running channel. -/
def yieldedHub : State := { hub .halter with
  boryel := { (hub .halter).boryel with ctrl := 3, yielded := true }
  canA := { (hub .halter).canA with state := 2 } }

theorem witness_PulseWrapAndBoryel :
    (wrapHub.replay.run = false ∧ wrapHub.time.run = true ∧ wrapHub.power.lrDrop1.getLsbD 2 = false ∧ wrapHub.time.now = 0xFFFF_FFFF_FFFF) ∧
    (followerHub.boryel.leading = false ∧ followerHub.boryel.lock = true) ∧ leaderHub.boryel.leading = true ∧
    (yieldedHub.boryel.yielded = true ∧ yieldedHub.boryel.leading = false) := by decide

/-! ## Faults and recovery -/

/-- The hub while its PLL is unlocked. -/
def unlockedHub (m : Mode) : State := { hub m with power := { (hub m).power with pllLocked := false } }

theorem witness_ClockAndPll :
    ((unlockedHub .canter).power.boot = .running ∧ (unlockedHub .canter).power.clockLost = false ∧
      (unlockedHub .canter).power.pllLocked = false ∧ (unlockedHub .canter).power.sleep = .awake) ∧
    ((hub .walk).power.boot = .running ∧ (hub .walk).power.clockLost = false ∧ (hub .walk).power.crystalStopped = false ∧
      (hub .walk).power.sleep ≠ .sealed) ∧
    ((hub .walk).power.boot = .running ∧ (hub .walk).power.pllLocked = true) := by decide

/-- The hub with bank B out of range. -/
def lowHub : State := { hub .halter with power := { (hub .halter).power with bankLow := 2 } }

theorem witness_Supplies :
    (hub .halter).power.boot ≠ .held ∧
    ((hub .halter).power.sleep = .awake ∧ (hub .halter).power.pwrHold = true ∧ (hub .halter).power.bankLow ||| 2 ≠ (hub .halter).power.bankLow) ∧
    lowHub.power.bankLow ≠ 0 := by decide

/-- The hub while island 90 restarts. -/
def restartingHub : State := { hub .canter with fault := { (hub .canter).fault with restarting := [90] } }

theorem witness_IslandWatch :
    (watched (hub .canter) = true ∧ unitFailed 23 (hub .canter) = false) ∧ unitOf 0 = 26 ∧
    (unitOf 90 ≠ 26 ∧ unitFailed (unitOf 90) (hub .canter) = false ∧ 90 ∉ (hub .canter).fault.restarting ∧
      noRestart 90 = false ∧ secondFault (unitOf 90) (hub .canter) = false) ∧
    (unitOf 8 ≠ 26 ∧ unitFailed (unitOf 8) (hub .canter) = false ∧ 8 ∉ (hub .canter).fault.restarting ∧
      noRestart 8 = true) ∧
    90 ∈ restartingHub.fault.restarting := by decide

/-! ## The Rein port and the register file -/

/-- A frame with its CRC. -/
def framed (bs : List Byte) : List Byte := bs ++ [crc8 bs]

set_option maxRecDepth 8000 in
theorem witness_ReinFrames :
    reinSilent (advance 5 State.reset) = true ∧
    (reinSilent (hub .halter) = false ∧ reinBusy .short (hub .halter) = true ∧ reinBusy .normal (hub .halter) = false) ∧
    crc8 ([0x85, 0x5A, 0x04, 0x30, 0xAE].take 4) ≠ ([0x85, 0x5A, 0x04, 0x30, 0xAE] : List Byte).getD 4 0 ∧
    (let s := { hub .halter with rein := { (hub .halter).rein with anyAlv := false } }
     crc8 ((framed [0x85, 0x5A, 0x04, 0x30]).take 4) = (framed [0x85, 0x5A, 0x04, 0x30]).getD 4 0 ∧
      s.rein.anyAlv = false ∧ BitVec.ofNat 4 (((framed [0x85, 0x5A, 0x04, 0x30]).getD 3 0).toNat / 16) ≠ s.rein.expAlv) ∧
    ((framed [0xFF, 1, 2, 0x30]).getD 0 0).toNat = 0xF8 + 7 ∧
    crc8 ((framed [0xFF, 1, 2, 0x30]).take 4) = (framed [0xFF, 1, 2, 0x30]).getD 4 0 ∧
    (hub .halter).rein.anyAlv = true ∧ (hub .halter).tap.recording = false := by decide

theorem witness_RegisterWrites : HostServed (hub .halter) ∧ (hub .halter).tap.recording = false := ⟨⟨rfl, rfl⟩, rfl⟩

/-- The hub with a window address. -/
def windowHub (w : Long) : State := { hub .halter with rein := { (hub .halter).rein with winAddr := w, ainc := true } }

theorem witness_WindowAccess :
    (HostServed (windowHub 0x1002) ∧ (windowHub 0x1002).rein.winAddr = 0x1002) ∧
    (HostServed (windowHub 0x100) ∧ 0x100 ≤ (windowHub 0x100).rein.winAddr.toNat ∧
      (windowHub 0x100).rein.winAddr.toNat < 0x1000) ∧
    HostServed (windowHub 0x12345678) ∧ (0x8254 : Word).getLsbD 0 = false ∧ (0x8255 : Word).getLsbD 0 = true :=
  ⟨⟨⟨rfl, rfl⟩, rfl⟩, ⟨⟨rfl, rfl⟩, by decide, by decide⟩, ⟨rfl, rfl⟩, rfl, rfl⟩

/-- The hub while the slow read of `w` waits; a line of the execute window is in the cache. -/
def slowHub (w : Long) : State := { hub .halter with
  rein := { (hub .halter).rein with slowPending := some w }
  sports := (hub .halter).sports.set 0 { resetSPort with cache := [(0, List.replicate 32 7)] } }

/-- The hub while a read of queue 3 is stalled. -/
def stalledHub : State := { hub .halter with rein := { (hub .halter).rein with stall := some (.queue 3) } }

theorem witness_ReadCommands : HostServed (hub .halter) ∧
    ((slowHub 0x11FFFE).rein.slowPending = some 0x11FFFE ∧ (0x11FFFE : Long).toNat < 0x120000) ∧
    ((slowHub 0x1000001E).rein.slowPending = some 0x1000001E ∧
      cachedLine (lineOf ((0x1000001E : Long).toNat - 0x10000000)) (slowHub 0x1000001E) = some (List.replicate 32 7)) ∧
    stalledHub.rein.stall = some (.queue 3) := ⟨⟨rfl, rfl⟩, by decide, by decide, by decide⟩

/-! ## The queues -/

/-- An item in cell 7. -/
def item (prio : BitVec 3) (bytes : List Byte) : Item := ⟨prio, bytes, none, 0, [7]⟩

/-- The hub with queue `q` selected and with this content. -/
def queueHub (q : Nat) (x : Queue) : State := { hub .halter with
  pool := { (hub .halter).pool with sel := BitVec.ofNat 6 q, queues := (hub .halter).pool.queues.set q x } }

/-- A queue in commit order that holds two items, and one in priority order that holds four. -/
def twoItems : Queue := { resetQueue 3 with items := [item 0 [1, 2, 3], item 2 [4]] }
def fourItems : Queue := { resetQueue 36 with items := [item 1 [1], item 3 [2], item 3 [3], item 0 [4]] }

theorem witness_DequeueOrder :
    fourItems.prio = true ∧ fourItems.next = some (item 3 [2], [item 1 [1], item 3 [3], item 0 [4]]) ∧
    twoItems.prio = false ∧ twoItems.next = some (item 0 [1, 2, 3], [item 2 [4]]) := by decide

/-- A queue whose item the host reads. -/
def readQueue : Queue := { resetQueue 3 with read := some (readItemOf (item 0 [1, 2, 3]) []) }

/-- The hub without its queue manager. -/
def droppedHub : State := { hub .halter with power := { (hub .halter).power with lrDrop1 := 0x08 } }

theorem witness_QueueReads :
    (HostServed droppedHub ∧ qmgrDropped droppedHub = true) ∧ hostReadable (selQueue (queueHub 38 (resetQueue 38))) = false ∧
    (HostServed (queueHub 3 readQueue) ∧ qmgrDropped (queueHub 3 readQueue) = false ∧
      hostReadable (selQueue (queueHub 3 readQueue)) = true ∧
      (queueOf 3 (queueHub 3 readQueue)).read = some (readItemOf (item 0 [1, 2, 3]) [])) ∧
    ((queueOf 3 (queueHub 3 twoItems)).read = none ∧ (queueOf 3 (queueHub 3 twoItems)).dequeueRead.isSome = true) ∧
    ((queueOf 56 (hub .halter)).read = none ∧ (queueOf 56 (hub .halter)).dequeueRead = none) :=
  ⟨⟨⟨rfl, rfl⟩, rfl⟩, by decide, ⟨⟨rfl, rfl⟩, by decide, by decide, by decide⟩, by decide, by decide⟩

/-- A queue with the host's open item of these bytes. -/
def openQueue (bs : List Byte) (doomed : Bool) (fl : Option FlushSt) : Queue :=
  { resetQueue 3 with opens := [⟨.host, [7], 0, bs, doomed, none⟩], flush := fl }

set_option maxRecDepth 8000 in
theorem witness_QueueWrites :
    (HostServed droppedHub ∧ qmgrDropped droppedHub = true) ∧ hostWritable 36 = false ∧
    (queueOf 3 (queueHub 3 { resetQueue 3 with doom := true })).doom = true ∧
    (queueOf 3 (queueHub 3 { resetQueue 3 with en := false })).en = false ∧
    (let s := queueHub 3 (resetQueue 3)
     (HostServed s ∧ s.tap.recording = false ∧ qmgrDropped s = false ∧ hostWritable (selQueue s) = true ∧
      (queueOf 3 s).doom = false ∧ (queueOf 3 s).en = true ∧ hostOpen s = none ∧ canReserve 3 1 s = true)) ∧
    (let s := queueHub 3 { resetQueue 3 with cap := 0 }; hostOpen s = none ∧ canReserve 3 1 s = false) ∧
    (hostOpen (queueHub 3 (openQueue (List.replicate 62 0) false none)) = some 3) ∧
    (queueExists ((0x0731 : Word).toNat % 64) = true ∧ queueExists ((0x072F : Word).toNat % 64) = false) ∧
    (noFlush (selQueue (queueHub 3 (resetQueue 3))) = false ∧ noFlush (selQueue (queueHub 48 (resetQueue 48))) = true) :=
  ⟨⟨⟨rfl, rfl⟩, rfl⟩, by decide, by decide, by decide, ⟨⟨rfl, rfl⟩, by decide⟩, by decide, by decide, by decide, by decide⟩

/-- The hub while two producers wait for cells of queue 32. -/
def waitingHub : State := { hub .canter with
  pool := { (hub .canter).pool with waiting := [(.canRx .b, 34, 1), (.canRx .a, 32, 2)] } }

/-- A flush that the host started. -/
def hostFlush : FlushSt := ⟨0, 0, true, false, false⟩

set_option maxRecDepth 8000 in
theorem witness_GrantsAndFlushes :
    (qmgrDropped waitingHub = false ∧
      waitingHub.pool.waiting.find? (fun w => w.2.1 == 32 && canReserve 32 w.2.2 waitingHub) = some (.canRx .a, 32, 2)) ∧
    (let s := queueHub 3 { resetQueue 3 with flush := some hostFlush }
     (queueOf 3 s).flushDone = true ∧ opRuns s = false) ∧
    (let s := queueHub 3 (openQueue [1] true (some hostFlush))
     (queueOf 3 s).flush.isSome = true ∧ (queueOf 3 s).opens = [⟨.host, [7], 0, [1], true, none⟩] ∧ opRuns s = false ∧
      s.pool.queues.length = 64) := by decide

theorem witness_PoolScrub : poolWorks (advance 0 droppedHub) = false ∧ poolWorks (queueHub 3 twoItems) = true ∧
    holderOf 8 (queueHub 3 twoItems) = none ∧ (holderOf 7 (queueHub 3 twoItems)).isSome = true := by decide +kernel

/-! ## Pins -/

/-- The hub with pin 52 (MF0) in a state of its own. -/
def pinHub (p : PinSt) : State := { hub .halter with
  pins := { (hub .halter).pins with pins := (hub .halter).pins.pins.set 52 p } }

/-- The hub with its pins locked. -/
def lockedPins : State := { hub .halter with pins := { (hub .halter).pins with lock := true } }

theorem witness_PinWrites : HostServed (hub .halter) ∧ pinRefusal 58 2 (hub .halter) = none ∧
    (pinAllows 0 15 = false ∧ pinRefusal 0 15 (hub .halter) = some 3) ∧
    (lockedPins.pins.lock = true ∧ (2 : Word).toNat % 16 ≠ (pinOf 52 lockedPins).func.toNat) ∧
    ((0x0101 : Word).toNat % 16 = (pinOf 52 lockedPins).func.toNat ∧ (0x0101 : Word).getLsbD 8 ≠ (pinOf 52 lockedPins).drv) :=
  ⟨⟨rfl, rfl⟩, by decide⟩

/-- A capture input. -/
def capturing (p : PinSt) : State := { pinHub { p with func := 9, act := 9 } with
  pins := { (pinHub { p with func := 9, act := 9 }).pins with cap0 := { resetCapture with edge := 1 } } }

theorem witness_PinEvents :
    (pinOf 52 (pinHub { resetPin 52 with phase := .quiesce })).phase = .quiesce ∧
    (pinOf 52 (pinHub { resetPin 52 with phase := .transit })).phase = .transit ∧
    (pinOf 52 (hub .halter)).phase = .attached ∧
    (capturePin 0 (capturing (resetPin 52)) = some 52 ∧ pinsSampled (capturing (resetPin 52)) = true ∧
      bankOut 1 (capturing (resetPin 52)) = false) := by decide

/-! ## Authenticated commands and the tack store -/

theorem witness_AuthSequence :
    (HostServed (hub .halter) ∧ (hub .halter).auth.op = 0 ∧ (hub .halter).auth.pend = none ∧ (0x0011 : Word) &&& 0xFF ≠ 0) ∧
    (let s := { hub .halter with auth := { (hub .halter).auth with op := 0x11 } }; s.power.boot ≠ .held ∧ s.auth.op ≠ 0) ∧
    (let s := { hub .halter with auth := { (hub .halter).auth with keyWrite := some (1, emptySlot) } }
     s.auth.keyWrite = some (1, emptySlot)) := ⟨⟨⟨rfl, rfl⟩, rfl, rfl, by decide⟩, by decide, by decide⟩

/-- A command under key slot 0, its tag made for the state. -/
def signed (opc : Nat) (args : List Word) (data : List Byte) (s : State) : AuthCmd :=
  let c : AuthCmd := ⟨none, BitVec.ofNat 16 opc, args, 1, [], data⟩
  { c with tag := authTag (slotKey 0 s).key (authMessage c s) }

/-- The state in which this command is being decided. -/
def deciding (c : AuthCmd) (s : State) : State := { s with auth := { s.auth with op := c.op, pend := some c } }

/-- A command that passes every check will be accepted. -/
theorem willAccept_of {c : AuthCmd} {s : State} {opc : Nat} (b : s.power.boot ≠ .dead) (p : s.auth.pend = some c) (o : c.opc = opc)
    (l : ¬ (c.opc < 0x11 ∨ 0x18 < c.opc ∨ c.data.length ≠ c.blockLength)) (h : s.auth.hold = false)
    (w : cryptoWorks s = true) (k : ¬ (slotKey c.slot s).state = 0)
    (m : (slotKey c.slot s).mask.getLsbD (c.opc - 0x11) = true) (r : ¬ c.ctr.toNat ≤ s.tack.counter.toNat)
    (t : c.tag = authTag (slotKey c.slot s).key (authMessage c s)) (f : ownRefusal c s = none) : WillAccept c opc s := by
  refine ⟨b, p, o, ?_⟩
  unfold firstFailure
  simp only [l, h, w, k, m, r, ← t, f, if_false, Bool.not_true, Bool.false_eq_true, ne_eq, not_true_eq_false]

/-- The hub with a key slot 0 that is used, empty, or good for no command. -/
def keyHub (k : KeySlot) : State := { hub .halter with tack := { (hub .halter).tack with slots := [k, emptySlot, emptySlot, emptySlot] } }

/-- A PINMUX_LOCK command with this counter and tag. -/
def lockCmd (ctr : Long) (tag : List Byte) : AuthCmd := ⟨none, 0x18, [0, 0, 0, 0], ctr, tag, []⟩

theorem witness_AuthRejections :
    ((lockCmd 1 []).data.length = (lockCmd 1 []).blockLength ∧ 0x11 ≤ (lockCmd 1 []).opc ∧ (lockCmd 1 []).opc ≤ 0x18) ∧
    (let s := { hub .halter with auth := { (hub .halter).auth with hold := true } }; s.auth.hold = true) ∧
    (let s := { hub .halter with power := { (hub .halter).power with lrDrop1 := 0x10 } }
     s.auth.hold = false ∧ cryptoWorks s = false) ∧
    ((hub .halter).auth.hold = false ∧ cryptoWorks (hub .halter) = true) ∧
    (slotKey (lockCmd 1 []).slot (keyHub emptySlot)).state = 0 ∧
    (let s := keyHub ⟨1, List.replicate 16 0, 0x7F⟩
     (slotKey (lockCmd 1 []).slot s).state ≠ 0 ∧ (slotKey (lockCmd 1 []).slot s).mask.getLsbD ((lockCmd 1 []).opc - 0x11) = false) ∧
    (let s := hub .halter
     (slotKey (lockCmd 1 []).slot s).state ≠ 0 ∧ (slotKey (lockCmd 1 []).slot s).mask.getLsbD ((lockCmd 1 []).opc - 0x11) = true ∧
      (lockCmd 0 []).ctr.toNat ≤ s.tack.counter.toNat ∧ s.tack.counter.toNat < (lockCmd 1 []).ctr.toNat) ∧
    (∃ r, firstFailure (lockCmd 0 []) false (deciding (lockCmd 0 []) (hub .halter)) = some r) ∧
    (deciding (lockCmd 0 []) (hub .halter)).auth.pend = some (lockCmd 0 []) := by
  refine ⟨by decide, rfl, by decide, by decide, by decide, by decide, by decide, ⟨_, rfl⟩, rfl⟩

/-- A hub whose user configuration needs more than the `limit` of section data. -/
def bigHub : State := { hub .halter with cfg := { (hub .halter).cfg with
  user := (List.range 128).map (fun i => ⟨0x15000 + 64 * i, 1⟩) } }

/-- The hub with a switch already pending. -/
def switchingHub : State := { hub .canter with tack := { (hub .canter).tack with swPend := true } }

theorem witness_AuthAccepted :
    WillAccept (signed 0x16 [4, 0, 0, 0] [] (hub .halter)) 0x16 (deciding (signed 0x16 [4, 0, 0, 0] [] (hub .halter)) (hub .halter)) ∧
    WillAccept (signed 0x14 [3, 0x1FF, 0, 0] (List.replicate 16 0) (hub .halter)) 0x14
      (deciding (signed 0x14 [3, 0x1FF, 0, 0] (List.replicate 16 0) (hub .halter)) (hub .halter)) ∧
    WillAccept (signed 0x17 [0, 0, 4, 0] [] (hub .farrier)) 0x17 (deciding (signed 0x17 [0, 0, 4, 0] [] (hub .farrier)) (hub .farrier)) ∧
    WillAccept (signed 0x18 [0, 0, 0, 0] [] (hub .halter)) 0x18 (deciding (signed 0x18 [0, 0, 0, 0] [] (hub .halter)) (hub .halter)) ∧
    (WillAccept (signed 0x11 [3, 0, 0, 0] [] (hub .canter)) 0x11 (deciding (signed 0x11 [3, 0, 0, 0] [] (hub .canter)) (hub .canter)) ∧
      (deciding (signed 0x11 [3, 0, 0, 0] [] (hub .canter)) (hub .canter)).tack.swPend = false) ∧
    (WillAccept (signed 0x11 [3, 0, 0, 0] [] switchingHub) 0x11 (deciding (signed 0x11 [3, 0, 0, 0] [] switchingHub) switchingHub) ∧
      (deciding (signed 0x11 [3, 0, 0, 0] [] switchingHub) switchingHub).tack.swPend = true) ∧
    WillAccept (signed 0x12 [4, 0, 0, 0] (List.replicate 16 0) bigHub) 0x12
      (deciding (signed 0x12 [4, 0, 0, 0] (List.replicate 16 0) bigHub) bigHub) ∧
    WillAccept (signed 0x12 [0, 0, 0, 0] (List.replicate 16 0) (hub .leadrein)) 0x12
      (deciding (signed 0x12 [0, 0, 0, 0] (List.replicate 16 0) (hub .leadrein)) (hub .leadrein)) ∧
    WillAccept (signed 0x13 [255, 2, 0, 0] (List.replicate 32 0) (hub .canter)) 0x13
      (deciding (signed 0x13 [255, 2, 0, 0] (List.replicate 32 0) (hub .canter)) (hub .canter)) ∧
    WillAccept (signed 0x15 [0, 0, 0, 0] [] (hub .halter)) 0x15 (deciding (signed 0x15 [0, 0, 0, 0] [] (hub .halter)) (hub .halter)) := by
  refine ⟨?_, ?_, ?_, ?_, ⟨?_, rfl⟩, ⟨?_, rfl⟩, ?_, ?_, ?_, ?_⟩ <;>
    exact willAccept_of (by decide) rfl (by decide) (by decide) rfl (by decide) (by decide) (by decide) (by decide) rfl (by decide)

/-- The section data is at least as long as the runs of blocks of the conditioning sets make it. -/
theorem sectionData_long (m : Mem) :
    ((blockRuns m 0x15000 128 none).map (fun r => 8 + 64 * r.2)).sum ≤ (sectionData m).length := by
  have e : ∀ rs : List (Nat × Nat), (rs.flatMap (dataSection m)).length = (rs.map (fun r => 8 + 64 * r.2)).sum := by
    intro rs
    induction rs with
    | nil => rfl
    | cons r rs ih => simp [ih, dataSection, leBytes, Memory.readBytes]; omega
  rw [← e]
  simp only [sectionData, profileRanges, List.flatMap_cons, List.length_append, show 8192 / 64 = 128 from rfl]
  omega

theorem witness_ProfileCommitTooLarge : sectLimit 4 < (sectionData bigHub.cfg.user).length :=
  Nat.lt_of_lt_of_le (by decide +kernel) (sectionData_long _)

theorem witness_ProfileCommitFits : (sectionData (hub .leadrein).cfg.user).length ≤ sectLimit 0 := by decide +kernel

/-- The header of an image of area 0 with no section, up to its CRC; the image with these CRC bytes. -/
def imageHead : List Byte := leBytes 4 0x4B434154 ++ [1, 0, 0, 0, 1, 0, 0, 0, 8, 0, 0, 0, 25, 0, 0, 0]
  ++ List.replicate 476 0
def imageWith (crc : List Byte) : List Byte := imageHead ++ crc
  ++ [0, 0, 0, 0] ++ leBytes 4 0x3C5AA5C3 ++ leBytes 4 (0xFFFFFFFF - 1) ++ List.replicate 8 0

/-- The CRC bytes of that image. -/
def imageCrc : Nat := (crc32 (imageHead ++ List.replicate 8 0)).toNat

/-- The staging item of a switch. -/
def stagingQueue (bs : List Byte) : Queue := { resetQueue 60 with items := [item 0 bs] }

/-- The hub while it stages area 0. -/
def stagingHub (m : Mode) : State := { hub m with
  tack := { (hub m).tack with swPend := true }
  pool := { (hub m).pool with
    queues := (hub m).pool.queues.set 60 { resetQueue 60 with opens := [⟨.staging, [7], 0, [], false, none⟩] } } }

/-- The hub between a cutoff and the end of the expansion of a switch. -/
def expandingHub (bs : List Byte) : State := { hub .canter with
  tack := { (hub .canter).tack with swPend := true, swStaged := true, expanding := true }
  pool := { (hub .canter).pool with queues := (hub .canter).pool.queues.set 60 (stagingQueue bs) } }

/-- An accepted commit of the conditioning set of endpoint 255, and a hub in which it waits. -/
def epCommit : EpCommit := ⟨255, 2, [], List.replicate 32 1, 0, [], false, false⟩
def committing (m : Mode) : State := { hub m with poll := { (hub m).poll with commits := [epCommit] } }

theorem witness_ConfigChanges :
    (∀ m, (stagingHub m).tack.swPend = true ∧ (openOf 60 .staging (stagingHub m)).isSome = true) ∧
    (∃ w, checkArea 0 (stagingHub .leadrein) = .error w) ∧
    ((expandingHub []).tack.expanding = true ∧ (expandingHub []).time.ended = none) ∧
    ((committing .canter).poll.commits.find? (fun c => c.ep == 255 && !c.atBoundary) = some epCommit ∧
      epRuns 255 (committing .canter) = false ∧ (committing .leadrein).mode.cur = .leadrein) :=
  ⟨by intro m; cases m <;> decide, ⟨_, rfl⟩, by decide, by decide⟩

set_option maxRecDepth 8000 in
theorem image_parts (a b c d : Byte) : ((imageWith [a, b, c, d]).take 0x200).take 0x1F0 = imageHead ∧
    leValue ((((imageWith [a, b, c, d]).take 0x200).drop 0x0C).take 2) = 8 ∧
    ((imageWith [a, b, c, d]).drop 0x200).take 8 = List.replicate 8 0 ∧
    (((imageWith [a, b, c, d]).take 0x200).drop 0x1F0).take 4 = [a, b, c, d] ∧
    headerOk ((imageWith [a, b, c, d]).take 0x200) = true := ⟨rfl, rfl, rfl, rfl, rfl⟩

theorem leValue_leBytes {n : Nat} (h : n < 2 ^ 32) : leValue (leBytes 4 n) = n := by
  simp only [leBytes, leValue, BitVec.toNat_ofNat]
  omega

/-- The image with the right CRC passes the check. -/
theorem witness_ConfigChanges_image : ∃ p, checkImage 0 (imageWith (leBytes 4 imageCrc)) = some p := by
  obtain ⟨a, b, c, d, e⟩ := image_parts (BitVec.ofNat 8 imageCrc) (BitVec.ofNat 8 (imageCrc / 256))
    (BitVec.ofNat 8 (imageCrc / 256 / 256)) (BitVec.ofNat 8 (imageCrc / 256 / 256 / 256))
  have v : leValue [BitVec.ofNat 8 imageCrc, BitVec.ofNat 8 (imageCrc / 256), BitVec.ofNat 8 (imageCrc / 256 / 256),
      BitVec.ofNat 8 (imageCrc / 256 / 256 / 256)] = imageCrc := leValue_leBytes (BitVec.isLt _)
  refine ⟨⟨(imageWith (leBytes 4 imageCrc)).take 0x200, []⟩, ?_⟩
  have i : leBytes 4 imageCrc = [BitVec.ofNat 8 imageCrc, BitVec.ofNat 8 (imageCrc / 256), BitVec.ofNat 8 (imageCrc / 256 / 256),
      BitVec.ofNat 8 (imageCrc / 256 / 256 / 256)] := rfl
  unfold checkImage
  rw [i]
  dsimp only
  rw [a, b, c, d, e, v]
  rw [if_neg (by
    rintro (h | h | h | h)
    · exact absurd h (by decide)
    · exact absurd h (by decide)
    · exact h rfl
    · cases h)]
  rfl

/-- The write jobs of a store: an erase and a commit. -/
def jobHub (j : TackJob) : State := { hub .halter with
  tack := { (hub .halter).tack with busy := true, job := some j }
  op := { (hub .halter).op with state := 1, code := 4, job := .commit } }

/-- An erase of the fallback area, and a commit of it whose image is built already, or not yet. -/
def eraseJob : TackJob := ⟨3, 4, 0, 1, [], none, false⟩
def commitJob (image : Option (List Byte)) : TackJob := ⟨2, 4, 0, 1, [], image, false⟩

theorem witness_WriteJobEnd :
    ((jobHub eraseJob).tack.job = some eraseJob ∧ eraseJob.stop = false ∧ eraseJob.kind = 3 ∧ (jobHub eraseJob).op.abort = false) ∧
    (let j := commitJob (some (List.replicate 16 7))
     (jobHub j).op.job = .commit ∧ (jobHub j).op.abort = false ∧ j.kind ≠ 3 ∧ Memory.wf tackDflt (jobHub j).tack.mem = true ∧
      (List.replicate 16 (7 : Byte)).length ≤ copySize 4) ∧
    (let j := commitJob none; j.image = none ∧ (sectionData (jobHub j).cfg.user).length ≤ sectLimit j.area) := by decide +kernel

/-! ## Long operations -/

/-- The hub whose arguments of a long operation are these. -/
def argHub (s : State) (a0 a1 a2 a3 : Word) : State := { s with op := { s.op with arg0 := a0, arg1 := a1, arg2 := a2, arg3 := a3 } }

/-- The words of script steps from script memory's start. -/
def steps (ws : List Nat) : List (Nat × Nat) :=
  ws.zipIdx.flatMap (fun w => [(0x14000 + 4 * w.2, w.1 % 65536), (0x14002 + 4 * w.2, w.1 / 65536)])

/-- Endpoint 0 on a port with a script at 0, and script steps: ACQ, RECV of one byte, REL, END. -/
def endpoint0 (port : Nat) : List (Nat × Nat) := [(0x10000, 1 + 256 * port), (0x10008, 100)]
def readScript : List Nat := [0x10000000, 0x40000000, 0x20000000, 0]

/-- S0 enabled with a usable select 0. -/
def s0On : List (Nat × Nat) := [(0x2800, 1), (0x2840, 4)]

/-- A hub that records, and a hub with a loaded replay. -/
def recordingHub : State := { hub .canter with tap := { (hub .canter).tap with recording := true, en := true } }
def loadedHub : State := { hub .farrier with replay := { (hub .farrier).replay with lstate := 2 } }

theorem witness_LongOpRefused :
    (HostServed (busyHub .halter .load) ∧ startRefused 1 (closeHostData (busyHub .halter .load)) = some 1) ∧
    (HostServed (hub .canter) ∧ startRefused 5 (closeHostData (hub .canter)) = some 2) ∧
    (HostServed (hub .halter) ∧ startRefused 0xB (validateProbe (closeHostData (hub .halter))) = some 4) ∧
    (let s := { hub .halter with power := { (hub .halter).power with lrDrop1 := 0x08 } }
     HostServed (argHub s 8 0 0 0) ∧ startRefused 7 (closeHostData (argHub s 8 0 0 0)) = some 5) ∧
    (∀ c ∈ [1, 5, 7, 0xB], c ∈ opCodes) :=
  ⟨⟨⟨rfl, rfl⟩, by decide +kernel⟩, ⟨⟨rfl, rfl⟩, by decide +kernel⟩, ⟨⟨rfl, rfl⟩, by decide +kernel⟩,
    ⟨⟨rfl, rfl⟩, by decide +kernel⟩, by decide⟩

theorem witness_LongOpStarts :
    HostServed (hub .halter) ∧ startRefused 1 (closeHostData (hub .halter)) = none ∧
    startRefused 3 (closeHostData (argHub (hub .halter) 1 10000 0 0)) = none ∧
    startRefused 5 (closeHostData (hub .leadrein)) = none ∧
    startRefused 7 (closeHostData (argHub (hub .farrier) 1 0 0 0x0100)) = none ∧
    startRefused 8 (closeHostData recordingHub) = none ∧
    startRefused 6 (closeHostData (argHub (hub .canter) 0 0 0 0)) = none ∧
    startRefused 6 (closeHostData (argHub (hub .halter) 1 0xF000 0x00FF 0)) = none ∧
    startRefused 9 (closeHostData loadedHub) = none ∧
    (let s := closeHostData (argHub (hubWith .halter s0On) 0 0 0 0)
     startRefused 0xA s = none ∧ sReady 0 (flashSel s) s = true ∧ sInFrame 0 s = false ∧ laneTx 2 s = false ∧
      ptHolds 2 s = false ∧ (sportOf 0 s).last ≠ .flash) ∧
    (let s := closeHostData (argHub (hubWith .halter (endpoint0 6 ++ steps readScript)) 0 0 0 0)
     startRefused 0xB (validateProbe s) = none ∧ (List.range 16).find? (fun i => laneFree i s) = some 0 ∧
      s.poll.lanes.length = 16) ∧
    (let s := closeHostData (argHub (hub .walk) 9 0 0x3FF 1)
     startRefused 2 s = none ∧ scanList 3 0 3 true s ≠ []) :=
  ⟨⟨rfl, rfl⟩, by decide +kernel⟩

/-- A hub whose store is erased, which is to stop or not; an image store with nothing in it fails a load for want of a copy. -/
def erasingHub (stop : Bool) : State := { hub .halter with
  tack := { (hub .halter).tack with busy := true, job := some { eraseJob with stop := stop } } }

theorem witness_LongOpEnds :
    HostServed (hub .halter) ∧
    (HostServed (erasingHub false) ∧ opRuns (erasingHub false) = false ∧ (erasingHub false).tack.job = some eraseJob) ∧
    (opRuns (erasingHub true) = false ∧ (erasingHub true).tack.job = some { eraseJob with stop := true }) ∧
    (let s := { busyHub .halter .load with op := { (busyHub .halter .load).op with abort := true } }
     opRuns s = true ∧ s.op.abort = true) ∧
    (let s := busyHub .halter .load
     opRuns s = true ∧ s.op.abort = false ∧ s.op.job = .load ∧ (∀ n, s.op.job ≠ .replay n)) ∧
    (∃ w, checkArea (busyHub .halter .load).tack.sel.toNat (busyHub .halter .load) = .error w) ∧
    (busyHub .farrier (.selfTest 0x7FFF true)).op.job = .selfTest 0x7FFF true ∧
    rateCandidate 623 = some (640, 0x031F, 0x030E) :=
  ⟨⟨rfl, rfl⟩, ⟨⟨rfl, rfl⟩, by decide, rfl⟩, by decide, by decide, ⟨by decide, by decide, by decide, fun _ h => by cases h⟩,
    ⟨_, rfl⟩, by decide, by decide⟩

/-- The scan of I0, the first half of AUTO_RATE, a drain with a last segment, and a flash job, each running. -/
def scanHub : State := { hubWith .halter [(0x3800, 1)] with
  op := { (busyHub .halter .none).op with job := .rollCall 6 0x10 0x7F false 100 3 false } }
def drainHub : State := busyHub .halter (.drain false 0 0 [] (List.replicate 8 1) 2 1 0 false)
def flashHub (sent : Bool) : State := { hubWith .halter s0On with
  op := { (busyHub .halter .none).op with code := 0xA, job := .flash 0 false [1, 2] true sent 0 } }

theorem witness_LongOpSteps :
    (opRuns scanHub = true ∧ probeMayRun 6 scanHub = true ∧ (iportOf 0 scanHub).stk = false ∧ scanHub.op.recs.length < 992) ∧
    (opRuns (busyHub .halter (.autoRate .b 10000 false)) = true) ∧
    (opRuns drainHub = true ∧ drainHub.op.recs.length < 992) ∧
    ∀ sent, opRuns (flashHub sent) = true ∧ sReady 0 (flashSel (flashHub sent)) (flashHub sent) = true ∧
      sTurn 0 .flash (flashHub sent) = true := by decide +kernel

/-! ## The poll engine -/

/-- The hub in Canter whose lane 15 runs endpoint 0 at the start of a script. -/
def laneHub (cfg : List (Nat × Nat)) (script : List Nat) (f : Lane → Lane) : State := { hub .canter with
  time := (epochHub 2).time
  cfg := ⟨poke (cfg ++ steps script), [], []⟩
  poll := { (hub .canter).poll with
    lanes := (hub .canter).poll.lanes.set 15 (f { freeLane with wait := .ready, due := 5, cfg := poke (cfg ++ steps script) }) } }

/-- The hub at one script word, and one whose lane waits. -/
def wordHub (w : Nat) : State := laneHub (endpoint0 2) [w] id
def waitHub (w : LaneWait) : State := laneHub (endpoint0 2) [0] (fun l => { l with wait := w })

/-- An endpoint on two ports, S0 and I3, and its lane while it acquires them. -/
def twoPorts : List (Nat × Nat) := [(0x10000, 0x201), (0x10002, 0x1900), (0x10008, 100)]
def grantHub (held : List Nat) (wait : LaneWait) : State := laneHub twoPorts [0x10000000] (fun l => { l with held := held, wait := wait })

/-- The hub while another lane holds S0. -/
def heldHub : State :=
  let s := grantHub [] (.port 2)
  { s with poll := { s.poll with lanes := s.poll.lanes.set 0 { freeLane with ep := 1, wait := .ready, held := [2] } } }

theorem witness_LaneSteps :
    StandsAt 15 (.wait 1000) (wordHub 0x700003E8) ∧ StandsAt 15 (.waitt 65535000) (wordHub 0x8003FFFF) ∧
    (laneOf 15 (waitHub .time)).wait = .time ∧ StandsAt 15 (.waitpin true 6) (wordHub 0x9000000E) ∧
    ((laneOf 15 (waitHub (.pin 6 true))).wait = .pin 6 true ∧ (pinOf 58 (waitHub (.pin 6 true))).act = 1 ∧
      (pinOf 58 (waitHub (.pin 6 true))).phase ≠ .transit) ∧
    StandsAt 15 (.flush true) (wordHub 0xD8000000) ∧ StandsAt 15 (.skip 7 true 31 255 255) (wordHub 0xE79FFFFF) ∧
    (StandsAt 15 .acq (grantHub [] .ready) ∧ (grantHub [] .ready).poll.lanes.length = 16) ∧
    ((laneOf 15 (grantHub [2] (.port 9))).wait = .port 9 ∧ portHeld 9 (grantHub [2] (.port 9)) = false ∧
      fairTurn 15 9 (grantHub [2] (.port 9)) = true ∧ passes (portAsks 15 9) (grantHub [2] (.port 9)) = true) ∧
    ((laneOf 15 heldHub).wait = .port 2 ∧ portHeld 2 heldHub = true) ∧
    StandsAt 15 .rel (laneHub twoPorts [0x20000000] (fun l => { l with held := [2, 9] })) := by
  unfold StandsAt
  decide +kernel

set_option maxRecDepth 8000 in
theorem lane_inv : Inv (laneHub (endpoint0 2) [0xC0000000] id) := inv_of (by decide +kernel) (by decide) rfl

/-- The hub in Halter while it holds a frame of endpoint 0. -/
def frameHub (drop : Bool) : State :=
  let s := laneHub (endpoint0 0) [0xA0001F00] id
  { s with poll := { s.poll with held := [⟨0, 77, [9, 8]⟩] }, power := { s.power with lrDrop0 := if drop then 1 else 0 } }

/-- A sample of endpoint 255 is on its way while a lane waits for it. -/
def sampleHub (wait : LaneWait) (there : Bool) : State :=
  let s := laneHub (endpoint0 2) [0xB100DCFF] (fun l => { l with wait := wait })
  { s with
    poll := { s.poll with pend := if there then [] else [⟨255, 5, 0, 9, List.replicate 32 1, none, [], false⟩] } }

set_option maxRecDepth 8000 in
theorem witness_LaneData :
    (Inv (frameHub false) ∧ StandsAt 15 (.waitfrm 1 31) (frameHub true) ∧ portDropped 0 (frameHub true) = true ∧
      portDropped 0 (frameHub false) = false ∧
      (frameHub false).poll.held.find? (fun h => h.ep == 0) = some ⟨0, 77, [9, 8]⟩) ∧
    StandsAt 15 (.get 0 0 26 0) (wordHub 0xB0001A00) ∧
    (StandsAt 15 (.get 1 3 28 255) (sampleHub .ready true) ∧ sampleAwaited 255 (sampleHub .ready true) = false) ∧
    (StandsAt 15 (.get 1 3 28 255) (sampleHub .ready false) ∧ sampleAwaited 255 (sampleHub .ready false) = true) ∧
    ((laneOf 15 (sampleHub (.sample 255) true)).wait = .sample 255 ∧ heldUp 122 false (sampleHub (.sample 255) true) = false ∧
      stepOf 15 (sampleHub (.sample 255) true) = some (.get 1 3 28 255)) :=
  ⟨⟨inv_of (by decide +kernel) (by decide) rfl, by unfold StandsAt; decide +kernel⟩, by unfold StandsAt; decide +kernel⟩

theorem witness_RunEnds : Inv (laneHub (endpoint0 2) [0xC0000000] id) ∧
    StandsAt 15 .split (wordHub 0xC0000000) ∧
    StandsAt 15 .split (laneHub (endpoint0 2) [0xC0000000] (fun l => { l with probe := true })) ∧
    StandsAt 15 .split (laneHub (endpoint0 2) [0xC0000000] (fun l => { l with ahead := true, trig := true })) ∧
    (StandsAt 15 .endRun (laneHub (endpoint0 2) [0] (fun l => { l with timed := true })) ∧
      heldUp 67 true (laneHub (endpoint0 2) [0] (fun l => { l with timed := true })) = false) ∧
    (let s := { laneHub (endpoint0 2) [0] id with replay := { (hub .farrier).replay with run := true } }
     StandsAt 15 .endRun s ∧ heldUp 67 true s = true) ∧
    StandsAt 15 .endRun (laneHub (endpoint0 2) [0] (fun l => { l with probe := true })) :=
  ⟨lane_inv, by unfold StandsAt; decide +kernel⟩

/-- A lane at a SEND of two bytes on S0 (usable or not) or on I0. -/
def sendHub (ports : List (Nat × Nat)) (port : Nat) : State := laneHub (ports ++ endpoint0 port) [0x30015AA5] id

/-- I0 enabled. -/
def i0On : List (Nat × Nat) := [(0x3800, 1)]

/-- The same hub with I0 in a state of its own. -/
def withI0 (x : IPortSt) (s : State) : State := { s with iports := s.iports.set 0 x }

/-- The step that the lane stands at. -/
def sendWord : Step := .send false false false 2 0x5AA5 0

set_option maxRecDepth 8000 in
theorem witness_WireSteps : Inv (sendHub s0On 2) ∧
    (StandsAt 15 sendWord (sendHub s0On 2) ∧ sendWord.wire = some (false, false) ∧
      sReady 0 0 (sendHub s0On 2) = true ∧ frameStillOk 0 sendWord (sendHub s0On 2) = true ∧
      laneTurn 2 0 (sendHub s0On 2) = true) ∧
    (let s := { sendHub s0On 2 with sports := (sendHub s0On 2).sports.set 0 { resetSPort with sfdpRun := true, sfdpSent := true } }
     sReady 0 0 s = true ∧ laneTurn 2 0 s = false) ∧
    sReady 0 0 (sendHub [] 2) = false ∧
    (iWorks 0 (sendHub [] 6) = false ∧ StandsAt 15 sendWord (sendHub [] 6)) ∧
    (iWorks 0 (sendHub i0On 6) = true ∧ (iportOf 0 (sendHub i0On 6)).stk = false ∧ busHeld 0 (sendHub i0On 6) = false ∧
      laneTurn 6 0 (sendHub i0On 6) = true) ∧
    (let s := withI0 { resetIPort with stk := true } (sendHub i0On 6)
     iWorks 0 s = true ∧ (iportOf 0 s).stk = true ∧ s.replay.run = false) ∧
    busHeld 0 (withI0 { resetIPort with ext := true } (sendHub i0On 6)) = true ∧
    (let s := withI0 { resetIPort with hold := true } (sendHub i0On 6)
     busHeld 0 s = false ∧ laneTurn 6 0 s = false) :=
  ⟨inv_of (by decide +kernel) (by decide) rfl, by unfold StandsAt; decide +kernel⟩

/-- A lane whose RECV of 32 bytes is on the wire of S0. -/
def recvHub (w : Nat) : State := laneHub (s0On ++ endpoint0 2 ++ [(0x10000, 0x2E1)]) [w] (fun l => { l with wait := .step 2, started := true })

set_option maxRecDepth 8000 in
theorem witness_PortStepEnds : Inv (recvHub 0x401F0000) ∧
    ((laneOf 15 (recvHub 0x401F0000)).wait = .step 2 ∧ stepOf 15 (recvHub 0x401F0000) = some (.recv false false false 32 0) ∧
      wireFits 15 .done (List.replicate 32 3) (recvHub 0x401F0000) = true ∧ portDropped 2 (recvHub 0x401F0000) = false ∧
      (laneOf 15 (recvHub 0x401F0000)).cancelled = false ∧ (laneOf 15 (recvHub 0x401F0000)).expired = false ∧
      (sportOf 0 (recvHub 0x401F0000)).frame.safe = false) ∧
    (stepOf 15 (recvHub 0x30015AA5) = some (.send false false false 2 0x5AA5 0) ∧
      (Step.send false false false 2 0x5AA5 0).boff = none ∧ wireFits 15 .done [] (recvHub 0x30015AA5) = true) :=
  ⟨inv_of (by decide +kernel) (by decide) rfl, by decide +kernel⟩

/-- A lane on the wire of I0 whose endpoint may retry. -/
def nackHub : State := laneHub (i0On ++ [(0x10000, 0x6E1), (0x10008, 100)]) [0x40000000] (fun l => { l with wait := .step 6, started := true })

set_option maxRecDepth 8000 in
theorem witness_PortStepEnds_failed : Inv nackHub ∧
    ((laneOf 15 nackHub).wait = .step 6 ∧ stepOf 15 nackHub = some (.recv false false false 1 0) ∧
      wireFits 15 .noAnswer [] nackHub = true ∧ mayRetry 15 nackHub = true) :=
  ⟨inv_of (by decide +kernel) (by decide) rfl, by decide +kernel⟩

/-- A lane that waits for its retry, one retry of `n` made. -/
def gapHub (retry : Nat) : State := laneHub [(0x10000, 0x201 + 32 * retry), (0x10008, 100)] readScript
  (fun l => { l with wait := .gap, retries := 1, lastFail := 3, pc := 1 })

/-- The hub whose endpoint 255 may run its trigger part ahead. -/
def aheadHub : State := laneHub [(0x13FC0, 0x209), (0x13FC8, 100)] [0x10000000, 0xC0000000, 0x40000000, 0] (fun _ => freeLane)

set_option maxRecDepth 8000 in
theorem witness_AttemptsAndRuns :
    (Inv (recvHub 0x401F0000) ∧ (laneOf 15 (recvHub 0x401F0000)).wait = .step 2 ∧ (laneOf 15 (recvHub 0x401F0000)).cancelled = false ∧
      (laneOf 15 (recvHub 0x401F0000)).expired = false) ∧
    ((laneOf 15 (gapHub 7)).wait ≠ .step 2 ∧
      (let s := laneHub [(0x10000, 0x2E1), (0x10008, 100)] readScript (fun l => { l with wait := .port 2 })
       (laneOf 15 s).wait = .port 2 ∧ mayRetry 15 s = true)) ∧
    ((laneOf 15 (gapHub 7)).wait = .gap ∧ mayRetry 15 (gapHub 7) = true) ∧
    ((laneOf 15 (gapHub 0)).wait = .gap ∧ mayRetry 15 (gapHub 0) = false) ∧
    (Inv aheadHub ∧ aheadHub.time.nextBoundary = some 16000 ∧ MayRunAhead 255 aheadHub) :=
  ⟨⟨inv_of (by decide +kernel) (by decide) rfl, by decide +kernel⟩, by decide +kernel, by decide +kernel, by decide +kernel,
    inv_of (by decide +kernel) (by decide) rfl, by decide, by unfold MayRunAhead; decide +kernel⟩

/-- A hub whose sample of endpoint 255 is on its way, with epoch 5 being staged, or whose late sample is held. -/
def pendHub : State := { cutoffHub false with
  poll := { (cutoffHub false).poll with pend := [⟨255, 5, 0, 9, List.replicate 32 1, none, [], false⟩] } }
def lateHub (p : Bool) (m : Mode) : State := { hub m with poll := { (hub m).poll with late := [⟨3, 9, p⟩] } }

set_option maxRecDepth 8000 in
theorem witness_SampleRoutes :
    (pendHub.poll.pend = [⟨255, 5, 0, 9, List.replicate 32 1, none, [], false⟩] ∧
      nbit (cfgByte pendHub.cfg.user (epAddr 255)) 2 = false ∧
      passes (sampleAsks ⟨255, 5, 0, 9, List.replicate 32 1, none, [], false⟩ pendHub) pendHub = true) ∧
    (Inv pendHub ∧ stagedIx pendHub = some 5 ∧ unitFailed 17 pendHub = false ∧ pendHub.snap.staging ≠ 0) ∧
    ((lateHub true .canter).poll.late = [⟨3, 9, true⟩] ∧ expressOn (lateHub true .canter) = true ∧
      heldUp 179 false (lateHub true .canter) = false) ∧
    expressOn (lateHub true .stabled) = false :=
  ⟨by decide +kernel, ⟨inv_of (by decide) (by decide) rfl, by decide +kernel⟩, by decide +kernel, by decide +kernel⟩

/-! ## The CAN channels -/

/-- A hub with one queue in a state of its own. -/
def withQueue (q : Nat) (x : Queue) (s : State) : State := { s with pool := { s.pool with queues := s.pool.queues.set q x } }

/-- The hub with CAN-A in a state of its own. -/
def canHub (m : Mode) (cfg : List (Nat × Nat)) (c : CanSt) : State := { hubWith m cfg with canA := c }

/-- A bit timing that Table 12-3 allows, of CAN-A. -/
def bitTiming : List (Nat × Nat) := [(0x2000, 1), (0x2002, 0x071E)]

/-- An active channel, and an error that its receiver or its transmitter finds. -/
def activeCan : CanSt := { resetCan with state := 2 }
def canFrame : CanFrame := ⟨false, false, false, false, false, 0x123, 2, [1, 2]⟩
def stuffError (tx : Bool) : CanError := ⟨tx, canFrame, 9, 1, 256, 1⟩

theorem witness_CanChannels :
    (HostServed (canHub .halter bitTiming resetCan) ∧ (canHub .halter bitTiming resetCan).canA.state = 0 ∧
      startRefusal .a (modCan .a (fun c => { c with fden := false }) (canHub .halter bitTiming resetCan)) = 0) ∧
    startRefusal .a (modCan .a (fun c => { c with fden := false }) (canHub .halter [] resetCan)) ≠ 0 ∧
    (HostServed (canHub .halter [] activeCan) ∧ canAutoCond .a (canHub .halter [] activeCan) = false) ∧
    (activeCan.state ≠ 0 ∧ activeCan.rx = none ∧ canCond .a (canHub .halter [] activeCan) = false ∧
      canCond .a (canHub .halter [] { activeCan with run := true }) = true) ∧
    (let c := { resetCan with state := 1 }; c.state = 1 ∧ c.recovering = false) ∧
    (let c := { resetCan with state := 3, bor := 2 }; c.state = 3 ∧ c.bor = 2) ∧
    (let c := { resetCan with state := 1, recovering := true }; c.state = 1 ∧ c.recovering = true) ∧
    (let s := canHub .halter [] { activeCan with txBuf := some ⟨canFrame, 0⟩ }
     s.replay.run = false ∧ canListens .a s = true ∧ (stuffError true).lec ≠ 0 ∧ (stuffError true).lec ≠ 7 ∧
      s.canA.txBuf.isSome = true ∧ s.canA.lomAct = false ∧ s.canA.rx = none ∧ s.canA.fdAct = false) :=
  ⟨⟨⟨rfl, rfl⟩, by decide +kernel⟩, by decide +kernel, ⟨⟨rfl, rfl⟩, by decide +kernel⟩, by decide +kernel, by decide,
    by decide, by decide, by decide +kernel⟩

/-- An active channel with an item in its transmit queue: a classical frame or an FD frame. -/
def txHub (ctl : Byte) : State :=
  withQueue 36 { resetQueue 36 with items := [item 3 [ctl, 0, 0x23, 1, 0, 0, 1, 2]] }
    (canHub .halter [] { activeCan with run := true })

set_option maxRecDepth 8000 in
theorem witness_CanTransmission :
    Inv (txHub 2) ∧ mayTake .a (hub .halter) = false ∧
    (let s := canHub .halter [] { activeCan with run := true }
     mayTake .a s = true ∧ takeItem 36 (skipBad (queueOf 36 s).items.length 36 s) = none) ∧
    (∀ ctl ∈ [2, 0x12], mayTake .a (txHub ctl) = true ∧ (txHub ctl).canA.fden = false ∧
      (takeItem 36 (skipBad (queueOf 36 (txHub ctl)).items.length 36 (txHub ctl))).map (fun r => (txFrameOf r.1.bytes).fdf) =
        some (ctl == 0x12)) ∧
    (let s := canHub .halter [] { activeCan with txBuf := some ⟨canFrame, 0⟩ }
     s.canA.txBuf = some ⟨canFrame, 0⟩ ∧ s.replay.run = false ∧ canListens .a s = true ∧ s.canA.lomAct = false ∧ s.canA.rx = none ∧
      delayFits s.canA canFrame none = true) :=
  ⟨inv_of (by decide) (by decide) rfl, by decide +kernel⟩

/-- A channel whose filter pair 63 takes the frame into the queue of its FCTL word. -/
def filterHub (fctl : Nat) (unmq : Bool) : State :=
  canHub .halter [(0x2374, 0x123), (0x237C, fctl)] { activeCan with unmqAct := unmq }

/-- The same hub without room for the item. -/
def fullHub (s : State) : State := withQueue 32 { resetQueue 32 with cap := 0 } s

set_option maxRecDepth 8000 in
theorem witness_CanReception :
    (Inv (filterHub 1 false) ∧ (filterHub 1 false).replay.run = false ∧ mayReceive .a canFrame (filterHub 1 false) = true) ∧
    PlainReception .a canFrame (filterHub 1 false) ∧
    (decidePair .a canFrame (filterHub 0 false) = none ∧ rxTarget (filterHub 0 false).canA none = none) ∧
    (decidePair .a canFrame (filterHub 5 false) = some (63, 5) ∧ rxTarget (filterHub 5 false).canA (some (63, 5)) = none) ∧
    (decidePair .a canFrame (filterHub 1 false) = some (63, 1) ∧ rxTarget (filterHub 1 false).canA (some (63, 1)) = some 0 ∧
      (reserve 32 (cellsFor (12 + headBytes canFrame)) (.canRx .a) 0 (filterHub 1 false)).isSome = true ∧
      openOf 32 (.canRx .a) (filterHub 1 false) = none ∧ (filterHub 1 false).rein.stall ≠ some (.queue 32)) ∧
    rxTarget (filterHub 0 true).canA none = some 1 ∧
    reserve 32 (cellsFor (12 + headBytes canFrame)) (.canRx .a) 0 (fullHub (filterHub 1 false)) = none :=
  ⟨⟨inv_of (by decide +kernel) (by decide) rfl, by decide +kernel⟩, by unfold PlainReception; decide +kernel, by decide +kernel⟩

/-- The hub while the host reads at CAN-A's read port 1, or writes a transmit item. -/
def readPortHub (f sh : Option ReadItem) (st : Option StallSrc) : State := { queueHub 33 { resetQueue 33 with items := twoItems.items } with
  canA := { resetCan with front1 := f, shadow1 := sh }, rein := { resetRein with stall := st } }
def oneItem : ReadItem := readItemOf (item 0 [1, 2, 3]) []

set_option maxRecDepth 8000 in
theorem witness_CanPorts :
    (HostServed (readPortHub (some oneItem) none none) ∧ canFront 1 (readPortHub (some oneItem) none none).canA = some oneItem) ∧
    (canFront 1 (readPortHub none (some oneItem) none).canA = none ∧
      canShadow 1 (readPortHub none (some oneItem) none).canA = some oneItem) ∧
    (heldUp 267 true (readPortHub none none none) = false ∧ canShadow 1 (readPortHub none none none).canA = none ∧
      (takeItem 33 (readPortHub none none none)).isSome = true ∧ (readPortHub none none none).rein.stall = none) ∧
    takeItem 33 (hub .halter) = none ∧
    (readPortHub none none (some (.can .a 1))).rein.stall = some (.can .a 1) ∧
    (let c := { resetCan with txSkip := 3 }; c.txSkip ≠ 0) ∧
    ((hub .halter).canA.txSkip = 0 ∧ qmgrDropped (hub .halter) = false ∧ (queueOf 36 (hub .halter)).doom = false ∧
      (hub .halter).canA.txOpen = none ∧ (hub .halter).tap.recording = false) ∧
    (let s := withQueue 36 { resetQueue 36 with opens := [⟨.canTxHost .a, [7], 0, [1, 2], false, none⟩] }
        (canHub .halter [] { activeCan with txOpen := some ⟨8, 1⟩ })
     s.canA.txOpen = some ⟨8, 1⟩ ∧ (openOf 36 (.canTxHost .a) s).isSome = true) ∧
    (txBad resetCan 0x80 = true ∧ txBad resetCan 2 = false ∧
      (reserve 36 1 (.canTxHost .a) 0 (hub .halter)).isSome = true) :=
  ⟨⟨⟨rfl, rfl⟩, by decide +kernel⟩, by decide +kernel⟩

/-! ## The serial and the two-wire ports -/

/-- S0 with pass-through on and one entry of two bytes for select `sel` in its queue. -/
def entryHub (sel : Byte) : State :=
  withQueue 38 { resetQueue 38 with items := [item 0 [sel, 0, 2, 0, 7, 8]] } (hubWith .halter [(0x2800, 5), (0x2840, 4)])

/-- S1 in the target role. -/
def targetHub (x : SPortSt) : State :=
  let s := hubWith .halter [(0x2C00, 3)]
  { s with sports := s.sports.set 1 x }

/-- What stands first in queue 38, after the poisoned items and the selects that must rise. -/
def entryTurn (s : State) : State := settleHold 0 (skipBad (queueOf 38 s).items.length 38 s)

set_option maxRecDepth 8000 in
theorem witness_SerialTransfers :
    Inv (entryHub 0) ∧
    ((entryHub 0).mode.cur = .halter ∧ nbit (runWord 0x2800 (entryHub 0)) 2 = true ∧ sWorks 0 (entryHub 0) = true ∧
      sTarget 0 (entryHub 0) = false ∧ sTurn 0 .host (entryHub 0) = true ∧
      (takeItem 38 (entryTurn (entryHub 0))).isSome = true ∧ sStops 0 0 (entryTurn (entryHub 0)) = false ∧
      ptFits 0 (ptEntry [0, 0, 2, 0, 7, 8]) (entryHub 0) = true ∧ othersWant 0 .host (entryHub 0) = false ∧
      ([5, 6] : List Byte).length = ptRxLen 0 (ptEntry [0, 0, 2, 0, 7, 8]) (entryHub 0)) ∧
    ((takeItem 38 (entryTurn (entryHub 1))).isSome = true ∧ ptFits 0 (ptEntry [1, 0, 2, 0, 7, 8]) (entryHub 1) = false) ∧
    ((targetHub resetSPort).replay.run = false ∧ servesTarget 1 (targetHub resetSPort) = true ∧
      (sportOf 1 (targetHub resetSPort)).target = false ∧ targetAttached 1 (targetHub resetSPort) = true ∧
      sStops 1 0 (targetHub resetSPort) = false ∧ (targetHub resetSPort).power.sleep ≠ .quiescing) ∧
    (sportOf 1 (targetHub { resetSPort with target := true, sending := some [1, 2] })).target = true :=
  ⟨inv_of (by decide +kernel) (by decide) rfl, by decide +kernel⟩

/-- S0 with its execute window on and these in its state. -/
def windowS0 (m : Mode) (x : SPortSt) : State :=
  let s := hubWith m (s0On ++ [(0x2A00, 1), (0x2A0A, 0xFFFF)])
  { s with sports := s.sports.set 0 x }

set_option maxRecDepth 8000 in
theorem witness_ExecuteWindow :
    Inv (windowS0 .halter resetSPort) ∧
    (let x := { resetSPort with fill := some (32, true, false) }
     x.fill = some (32, true, false) ∧ (List.replicate 32 (7 : Byte)).length = 32) ∧
    (let s := windowS0 .halter { resetSPort with prefetch := some (2 ^ 24 - 64) }
     (sportOf 0 s).prefetch = some (2 ^ 24 - 64) ∧ nbit (runWord 0x2A0A s) ((2 ^ 24 - 64 + 32) / 2 ^ 20) = true ∧
      cachedLine (2 ^ 24 - 64 + 32) s = none ∧ s0Idle s = true ∧ windowFetches s = true ∧ s.power.sleep ≠ .quiescing) ∧
    (HostServed (windowS0 .halter resetSPort) ∧ winWritable 0x2A00 (windowS0 .halter resetSPort) = true ∧
      nbit (cfgWord (windowS0 .halter resetSPort).cfg.user 0x2A00) 6 = false ∧ (windowS0 .halter resetSPort).mode.cur = .halter) ∧
    (HostServed (windowS0 .leadrein resetSPort) ∧ winWritable 0x2A00 (windowS0 .leadrein resetSPort) = true ∧
      (windowS0 .leadrein resetSPort).mode.cur ≠ .halter) ∧
    (let s := windowS0 .halter { resetSPort with sfdpRun := true }
     (sportOf 0 s).sfdpRun = true ∧ (sportOf 0 s).sfdpSent = false ∧ sReady 0 (flashSel s) s = true) ∧
    (let s := { hub .halter with sports := (hub .halter).sports.set 0 { resetSPort with sfdpRun := true } }
     (sportOf 0 s).sfdpRun = true ∧ (sportOf 0 s).sfdpSent = false ∧ sReady 0 (flashSel s) s = false) ∧
    (let x := { resetSPort with sfdpRun := true, sfdpSent := true }; x.sfdpSent = true) :=
  ⟨inv_of (by decide +kernel) (by decide) rfl, by decide, by decide +kernel, ⟨⟨rfl, rfl⟩, by decide +kernel⟩,
    ⟨⟨rfl, rfl⟩, by decide +kernel⟩, by decide +kernel, by decide +kernel, by decide⟩

/-- I0 enabled, with call address 0x10 enabled too. -/
def callHub : State := hubWith .halter [(0x3800, 1), (0x381C, 0x90)]

/-- I0 in Halter with a bus timeout of 1 and a reset line, and in a state of its own. -/
def busHub (x : IPortSt) : State := withI0 x (hubWith .halter [(0x3800, 3), (0x3816, 1)])

set_option maxRecDepth 8000 in
theorem witness_TwoWireBus :
    (Inv (busHub resetIPort) ∧ (busHub resetIPort).replay.run = false ∧ iWorks 0 (busHub resetIPort) = true ∧
      linesSeen 0 (busHub resetIPort) = true ∧ hubDrives 0 (busHub resetIPort) = false ∧
      (iportOf 0 (busHub resetIPort)).recov = false ∧ ptWants 0 (busHub resetIPort) = false ∧
      ∀ i < 16, (laneOf i (busHub resetIPort)).wait ≠ .bus 6) ∧
    (let s := busHub { resetIPort with ext := true, ptRun := true }
     ptWants 0 s = true ∧ laneTx 6 s = false ∧ laneWaits 0 s = false ∧ runWord 0x3816 s ≠ 0 ∧ busBusy 0 s = true) ∧
    ptOnWire 0 (busHub { resetIPort with ptRun := true, ptTx := true }) = true ∧
    (laneOn 6 nackHub = some 15 ∧ (stepOf 15 nackHub).isSome = true ∧ portDropped 6 nackHub = false ∧
      (laneOf 15 nackHub).cancelled = false ∧ (laneOf 15 nackHub).expired = false ∧ (laneOf 15 nackHub).probe = false ∧
      mayRetry 15 (advance 0 nackHub) = true) ∧
    (let s := busHub { resetIPort with recov := true, brst := some 5 }
     (iportOf 0 s).recov = true ∧ (iportOf 0 s).brst.isSome = true ∧ (iportOf 0 s).stk = false) ∧
    (let s := busHub { resetIPort with stk := true }
     (iportOf 0 s).stk = true ∧ (iportOf 0 s).recov = false ∧ iWorks 0 s = true) :=
  ⟨⟨inv_of (by decide +kernel) (by decide) rfl, by decide +kernel⟩, by decide +kernel⟩

set_option maxRecDepth 8000 in
theorem witness_TwoWireCalls :
    (Inv callHub ∧ callHub.replay.run = false ∧ takesCalls 0 callHub = true ∧
      (0x22 : Byte).toNat / 2 ≠ field (runWord 0x381C callHub) 0 7 ∧ (0x21 : Byte).toNat / 2 = field (runWord 0x381C callHub) 0 7 ∧
      (0x20 : Byte).toNat / 2 = field (runWord 0x381C callHub) 0 7 ∧ (0x21 : Byte).getLsbD 0 = true ∧ (0x20 : Byte).getLsbD 0 = false ∧
      callHub.tap.kept = [] ∧ canReserve 56 1 (recPort 6 1 0xFF 0 0 [1] callHub.time.now
        (grants [(iPoint 0, true), (iPoint 0 + 4, false)] callHub)) = true ∧ qmgrDropped callHub = false) ∧
    ((iportOf 0 callHub).ptRun = false ∧ ptOnWire 0 (winWriteRow 0x3820 1 (ptCtlWrite 0 1) callHub) = true ∧
      nbit (runWord 0x3820 (winWriteRow 0x3820 1 (ptCtlWrite 0 1) callHub)) 1 = false) ∧
    (let s := busHub { resetIPort with ptRun := true }
     (iportOf 0 s).ptRun = true ∧ ptOnWire 0 (startPt 0 s) = true ∧ runWord 0x3816 (startPt 0 s) ≠ 0) ∧
    (let s := busHub { resetIPort with stk := true }
     reinListens s = true ∧ s.replay.run = false ∧ winWritable 0x3820 s = true ∧ s.mode.cur = .halter ∧ iWorks 0 s = true ∧
      (iportOf 0 s).ptRun = false ∧ (iportOf 0 s).stk = true ∧ nbit (cfgWord s.cfg.user 0x3820) 0 = false) ∧
    (let s := busHub { resetIPort with hold := true }
     (iportOf 0 s).hold = true ∧ ptWants 0 s = false ∧ ∀ i < 16, (laneOf i s).wait ≠ .bus 6) ∧
    (iportOf 0 callHub).hold = false :=
  ⟨⟨inv_of (by decide +kernel) (by decide) rfl, by decide +kernel⟩, by decide +kernel⟩

/-! ## The SENT inputs, the tap and replay -/

/-- T3 enabled, its tick 3 µs nominal, and a state of the input. -/
def sentHub (x : TPortSt) : State :=
  let s := hubWith .halter [(0x5400, 1), (0x5402, 48), (0x5406, 100)]
  { s with tports := s.tports.set 3 x }

/-- T3 with a tick of 3 µs, at a stage of its decoding; its frames have three data nibbles and a pause pulse. -/
def sentAt (stage : SentStage) (data : Nat) : State :=
  sentHub { resetTPort with
    stage := stage, tick := 48, calibrated := true, synced := true, set := ⟨BitVec.ofNat 16 (7 + 16 * data), 48, 0, 100⟩ }

set_option maxRecDepth 8000 in
theorem witness_SentInputs :
    (Inv (sentHub resetTPort) ∧ (sentHub resetTPort).replay.run = false ∧ takesPulses 3 (sentHub resetTPort) = true) ∧
    (let x := tportOf 3 (sentHub resetTPort)
     let c := x.next.getD (tSettings 3 (sentHub resetTPort))
     x.stage = .search ∧ syncCandidate x 336 = true ∧ syncValid x c 336 = true ∧ syncValid x c 1 = false) ∧
    (let s := sentAt .search 3
     (tportOf 3 s).stage = .search ∧ takesPulses 3 s = true ∧ syncCandidate (tportOf 3 s) 84 = false) ∧
    (let s := sentAt .sync 3
     (tportOf 3 s).stage = .sync ∧ takesPulses 3 s = true ∧ syncCandidate (tportOf 3 s) 84 = false) ∧
    (let s := sentAt .pause 3
     (tportOf 3 s).stage = .pause ∧ takesPulses 3 s = true ∧ inTicks 48 768 84 = true ∧ inTicks 48 768 68 = false) ∧
    (let s := sentAt (.frame []) 3
     let x := tportOf 3 s
     takesPulses 3 s = true ∧ x.stage = .frame [] ∧ syncCandidate x 336 = true ∧
      syncValid { x with prev := none } (x.next.getD (tSettings 3 s)) 336 = true ∧
      syncCandidate x 84 = false ∧ inTicks x.tick 27 84 = true ∧ inTicks x.tick 27 68 = false ∧ 0 + 1 < x.set.nib + 2) ∧
    (let s := sentAt (.frame [1, 7, 0xA, 1]) 3
     let x := tportOf 3 s
     takesPulses 3 s = true ∧ x.stage = .frame [1, 7, 0xA, 1] ∧ x.set.nib + 2 ≤ 4 + 1 ∧
      syncCandidate x 102 = false ∧ inTicks x.tick 27 102 = true ∧ inTicks x.tick 27 84 = true ∧
      some (sentCrc x.set.crcrec (([1, 7, 0xA, 1, nibbleOf 48 102].drop 1).dropLast)) = [1, 7, 0xA, 1, nibbleOf 48 102].getLast? ∧
      some (sentCrc x.set.crcrec (([1, 7, 0xA, 1, nibbleOf 48 84].drop 1).dropLast)) ≠ [1, 7, 0xA, 1, nibbleOf 48 84].getLast?) ∧
    (tWorks 3 (sentHub resetTPort) = true ∧ (tportOf 3 (sentHub resetTPort)).silent = false ∧
      lineLimit 3 (sentHub resetTPort) ≠ 0) :=
  ⟨⟨inv_of (by decide +kernel) (by decide) rfl, by decide +kernel⟩, by decide +kernel⟩

theorem witness_TapCommands :
    (recordingHub.tap.recording = true ∧ (⟨true, 3, 1, 2⟩ : GapLoss).input = true) ∧
    (let s := { recordingHub with tap := { recordingHub.tap with lostBlocks := 1 } }
     s.tap.recording = true ∧ 0 < s.tap.lostBlocks) ∧
    (HostServed recordingHub ∧ unitFailed 22 recordingHub = false ∧ recordingHub.tap.en = true ∧
      recordingHub.tap.frozen = false) ∧ (hub .canter).tap.recording = false ∧
    (∀ e ∈ ([(⟨166, false⟩, 64), (⟨17, true⟩, 1)] : List (Verdict × Nat)), 1 ≤ e.2 ∧ e.2 ≤ 64) :=
  ⟨by decide, by decide, ⟨⟨rfl, rfl⟩, by decide⟩, by decide, by decide⟩

/-- A replay to which the loader has brought these bytes. -/
def suppliedHub (e : LoaderEnd) (items : List (List Byte)) : State :=
  withQueue 50 { resetQueue 50 with items := items.map (fun b => item 0 b) }
    { replayHub with replay := { replayHub.replay with ended := e } }

/-- An epoch marker record and a Gap record. -/
def markerRecord : List Byte := [6, 3, 1, 0] ++ List.replicate 20 0
def gapRecord : List Byte := [10, 2, 0, 0] ++ List.replicate 12 0

set_option maxRecDepth 8000 in
theorem witness_ReplayCommands :
    (loaderRuns replayHub = true ∧ sReady 0 (flashSel replayHub) replayHub = false) ∧
    (let s := { replayHub with
        cfg := ⟨poke s0On, poke s0On, []⟩, sports := replayHub.sports.set 0 { resetSPort with sfdpRun := true, sfdpSent := true } }
     loaderRuns s = true ∧ sReady 0 (flashSel s) s = true ∧ sTurn 0 .flash s = false) ∧
    (reinListens replayHub = true ∧ unitFailed 22 replayHub = false) ∧
    (let s := suppliedHub .units []
     s.replay.run = true ∧ s.replay.paused = false ∧ s.replay.ended = .units ∧ s.replay.seeking = false ∧
      markerIn (recordsAhead s) = false ∧ s.op.job = .replay 0) ∧
    (let s := suppliedHub .going [gapRecord, markerRecord]
     s.replay.ended ≠ .units ∧ s.replay.seeking = false ∧ (markerIn (recordsAhead s) || loaderStands s) = true ∧
      (takeGood (queueOf 50 s).items.length 50 s).isSome = true ∧
      (traceRecord gapRecord).map (fun r => (r.type, recordWaits r (recordsAhead s) false s)) = some (10, false) ∧
      s.replay.resync = false) :=
  ⟨by decide +kernel, by decide +kernel, by decide +kernel, by decide +kernel, by decide +kernel⟩

/-! ## The spec's worked examples -/

/-- Chapter 06: the CRC's check value, and the CRC of a write of 0x5A04 to MODE_REQ. -/
theorem test_crc8 : crc8 [0x31, 0x32, 0x33, 0x34, 0x35, 0x36, 0x37, 0x38, 0x39] = 0x4B ∧
    crc8 [0x85, 0x5A, 0x04, 0x30] = 0xAF := by decide +kernel

/-- Chapter 13: the trailers of a safety frame with HALV 5, and of its retry with HALV 6 and ERRF. -/
theorem test_safety_crc : crc8 [0x80, 0x00, 0x50] = 0xEF ∧ crc8 [0x80, 0x00, 0x68] = 0x4D := by decide +kernel

/-- Chapter 15: the recommended CRC of the nibbles 7, 0xA and 1. -/
theorem test_sent_crc : sentCrc true [7, 0xA, 1] = 5 := by decide

/-- Chapter 09, Table 09-5: the script of DM-7 endpoint 3. -/
theorem test_script_words : [0x10000000, 0x30010086, 0x7000000A, 0x40010000, 0].map decodeStep =
    [some .acq, some (.send false false false 2 0x86 0), some (.wait 10), some (.recv false false false 2 0),
      some .endRun] := by decide +kernel

/-- Chapter 16: the record of a SENT frame of T0 with SEQ 0x1A2B that ends at 96 006 592 ht. -/
theorem test_sent_record :
    tapBlock (recSent 0 0 [0xA1, 0x07, 0x00, 0x30, 0x80, 0x07] 96006592
      { recordingHub with tap := { recordingHub.tap with seq := 0x1A2B } }) =
      [0x03, 0x02, 0x2B, 0x1A, 0x0A, 0xA1, 0x07, 0x00, 0x30, 0x80, 0x07, 0x00, 0xC0, 0xF1, 0xB8, 0x05] := by decide +kernel

/-- The hub of chapter 16's verdict batch, whose verdicts have joined their runs. -/
def batchHub : State := { recordingHub with
  tap := { recordingHub.tap with seq := 0x1A2C }
  verdicts := { recordingHub.verdicts with
    batch := (⟨17, false⟩ :: ⟨154, true⟩ :: List.replicate 5 ⟨166, false⟩).foldl (fun b v => addVerdict v b) [] } }

/-- Chapter 16: the record of a verdict batch with SEQ 0x1A2C. -/
theorem test_verdict_record : tapBlock (writeBatch batchHub) =
    [0x04, 0x02, 0x2C, 0x1A, 0x11, 0x00, 0x9A, 0x02, 0xA6, 0x10, 0xFF, 0xFF, 0xFF, 0xFF, 0xFF, 0xFF] := by decide +kernel

/-- Chapter 10: the conditioning of the window-lift position, raw 1953. -/
theorem test_condition :
    let s := { hubWith .canter [(0x10000, 0xA05), (0x10040, 0xA01), (0x15000, 0x8B00), (0x15008, 20805), (0x15010, 0x250E),
        (0x15012, 0xD), (0x15014, 0xFFEC), (0x15016, 0x1464), (0x1501C, 4), (0x1501E, 15), (0x15032, 8)] with
      snap := { (hub .canter).snap with cond := [⟨0, some (2480, 4), [[2471]], []⟩], groups := [⟨1, 2474, 5⟩] } }
    let r := conditionSample ⟨0, 5, 0, 9, [0xA1, 7] ++ List.replicate 30 0, none, [⟨1, 2474, 5⟩], false⟩ s
    r.1.vals.head? = some 0x9A9 ∧ r.1.fcnt = 1 ∧ r.1.fq.head? = some 0x20 ∧ r.1.passed = true ∧
      r.2.snap.groups.head? = some ⟨0, 2479, 5⟩ := by decide +kernel

/-! ## Ill-formed operands are refused by the check -/

/-- A frame whose data is shorter than its DLC code says. -/
def shortFrame : CanFrame := { canFrame with dlc := 3 }

theorem smoke_frames : (Instr.wakeFrame .a shortFrame).wf = false ∧ (Instr.canFrameReceived .a shortFrame 0 0).wf = false ∧
    (Instr.controlFieldEnd .b { canFrame with id := 0x800 }).wf = false ∧
    (Instr.controlFieldEnd .b { canFrame with brs := true }).wf = false ∧ (Instr.controlFieldEnd .b canFrame).wf = true := by decide

theorem smoke_rein : (Instr.reinFrame [1, 2, 3, 4] 40 .normal .ok 0).wf = false := by decide

theorem smoke_ports : (Instr.portStepComplete 0 .done (List.replicate 257 0) 0).wf = false ∧
    (Instr.passThroughEntry 0 false (List.replicate 257 0) 0).wf = false ∧ (Instr.ptGo 0 .done 33 []).wf = false ∧
    (Instr.ptGo 0 .done 1 (List.replicate 33 0)).wf = false := by decide +kernel

theorem smoke_flash : (Instr.lineFillDone [1]).wf = false ∧ (Instr.sfdpDone (some [1])).wf = false := by decide

theorem smoke_sent : (Instr.sentFrame 0 [] 9 9 0).wf = false ∧ (Instr.sentError 0 [] ⟨9, 9⟩ 0).wf = false ∧
    (Instr.sentSync 0 ⟨[], 0⟩).wf = false := by decide

theorem smoke_others :
    (Instr.longOpEnd (.selfTest [⟨0, 1, false, none, none, 0, 0⟩])).wf = false ∧ (Instr.refclkMeasured 0).wf = false := by decide

end Sys2Proof.Tests
end

/-! PROOFS. The wake sources of the sealed hub (chapter 04, R87 to R91). -/

namespace Sys2Proof.Proofs.Wake

open Sys2Proof.Machine Sys2Proof.Safety Sys2Proof.Laws

variable {s : State}

/-! ## What the operations of a wake change -/

/-- Step 8 of Table 04-9 touches the phase of the sleep, PWR_HOLD and its delay, and the clock's measurement; WFSTAT lies in the
status area, and the grant at point 5 in the verdicts. -/
theorem beginWake_eq : beginWake s = { s with
    power := { s.power with sleep := .waking, pwrHold := true, dropRunning := false, measured := false }
    cfg := { s.cfg with status := (beginWake s).cfg.status }
    verdicts := (beginWake s).verdicts } := by
  unfold beginWake
  rw [grant_eq]
  rfl

/-- The watcher's counters lie in the CAN channel. -/
@[simp] theorem watchFrame_power {ch f} : (watchFrame ch f s).power = s.power := by
  unfold watchFrame
  split
  · exact modCan_power
  · rfl

/-! ## A source that fires while the hub is sealed -/

/-- Sealed, a source that fires is the first one: it chooses FIRST and the target, and the wake begins. -/
theorem fireWake_of_sealed {src feo} (h : s.power.sleep = .sealed) :
    fireWake src feo s = beginWake (causeBits src feo (firstSource src (grants (wakePath src) s))) := by
  simp only [fireWake, h]

theorem woken_fireWake {src feo} (h : s.power.sleep = .sealed) : Woken src feo s (fireWake src feo s) := by
  rw [fireWake_of_sealed h, grants_eq]
  exact beginWake_eq

/-- A command that fires a source where `enabled` holds, and leaves the hub `s` alone elsewhere. `u` is the hub as the source
finds it. -/
theorem woken_if_enabled {src feo} {u : State} (enabled : Prop) [Decidable enabled] (h : u.power.sleep = .sealed) :
    let t := if enabled then fireWake src feo u else s
    if enabled then Woken src feo u t else t = s := by
  intro t
  by_cases he : enabled
  · simpa only [t, if_pos he] using woken_fireWake h
  · simp only [t, if_neg he]

/-! ## The commands of Table 04-8 on the sealed hub -/

/-- The frame that wakes the hub finds REIN_SDO undriven, and leaves it so (R87, R141). -/
theorem effWakeReinCs_of_sealed (h : s.power.sleep = .sealed) :
    let u := { s with rein := { s.rein with miso := none } }
    effWakeReinCs s = if s.power.wakeCfg.getLsbD 6 then fireWake 3 false u else u := by
  simp [effWakeReinCs, h]

/-- Settles O11: a source fires from the sealed hub by `woken_fireWake`, and each of the six commands fires one source where
its setting enables it. -/
theorem wakeSources : Obligations.WakeSources := by
  intro s ch sealed
  refine ⟨⟨effWakeDominantEdge ch s, rfl, ?_⟩, fun f => ⟨effWakeFrame ch f s, rfl, ?_⟩,
    ⟨effWakeFrameErrorOverflow ch s, rfl, ?_⟩, fun rising => ⟨effWakePinEdge rising s, rfl, ?_⟩,
    ⟨effWakeReinCs s, rfl, ?_⟩, ⟨effWakeTimer s, rfl, ?_⟩⟩
  · exact woken_if_enabled (wakeMode ch s = 1) sealed
  · have watched : (watchFrame ch .valid s).power.sleep = .sealed := by rw [watchFrame_power, sealed]
    exact woken_if_enabled (wakeMode ch s = 2 ∧ isWakeFrame ch f s = true) watched
  · exact woken_if_enabled (wakeMode ch s = 2 ∧ 32 ≤ (canOf ch s).wErr) sealed
  · exact woken_if_enabled (s.power.wakeCfg.getLsbD (if rising then 4 else 5) = true) sealed
  · rw [effWakeReinCs_of_sealed sealed]
    exact woken_if_enabled (s.power.wakeCfg.getLsbD 6 = true) sealed
  · exact woken_if_enabled (s.power.wakeCfg.getLsbD 7 = true) sealed

end Sys2Proof.Proofs.Wake

/-! PROOFS. The window address registers and the accesses through the window (chapter 06, R135 to R137). -/

namespace Sys2Proof.Proofs.Window

open Sys2Proof.Machine Sys2Proof.Safety Sys2Proof.Laws

variable {s t : State} {r : Reply} {b : ReinSt} {v : Word}

/-! ## What a record leaves of the Rein port

A record can close a block of the trace ring, and an item that joins a queue ends the stalled read that waits for it (R139).
While no read is stalled, nothing that the tap does touches the Rein port. -/

@[simp] theorem writeOpen_rein {q who bs} : (writeOpen q who bs s).rein = s.rein := by
  unfold writeOpen
  split
  · rfl
  · simp [putCells]

@[simp] theorem makeRingRoom_rein {n} : (makeRingRoom n s).rein = s.rein := by
  induction n generalizing s with
  | zero => rfl
  | succ n ih =>
    unfold makeRingRoom
    split
    · rfl
    · split
      · rfl
      · rw [ih]; simp [dropOldest]

theorem haveBlock_rein (found : haveBlock s = some t) : t.rein = s.rein := by
  unfold haveBlock reserve at found
  split at found
  · cases found; rfl
  · split at found
    · cases found; simp [openItem]
    · cases found

@[simp] theorem streamOut_rein {bs} : (streamOut bs s).rein = s.rein := by
  unfold streamOut tapDrawn
  split
  · split <;> rfl
  · rfl

theorem serveStall_rein (free : b.stall = none) (K : s.rein = b) : (serveStall s).rein = b := by
  subst K; simp only [serveStall, free]

theorem closeItem_rein {q who bs kind} (free : b.stall = none) (K : s.rein = b) :
    (closeItem q who bs kind s).rein = b := by
  have opened : (writeOpen q who bs s).rein = b := writeOpen_rein.trans K
  simp only [closeItem]
  split
  · exact opened
  · split
    · simpa [countFlushDrop] using opened
    · apply serveStall_rein free
      split <;> simpa using opened

theorem closeBlock_rein (free : b.stall = none) (K : s.rein = b) : (closeBlock s).rein = b := by
  unfold closeBlock
  split
  · simpa [abandonItem] using K
  · exact closeItem_rein free K

theorem putRecord_rein {type flags body} (free : b.stall = none) (K : s.rein = b) :
    (putRecord type flags body s).rein = b := by
  simp only [putRecord]
  split
  · exact K
  · next found =>
    rw [streamOut_rein]
    refine writeOpen_rein.trans ((haveBlock_rein found).trans ?_)
    split
    · exact closeBlock_rein free K
    · exact K

theorem recVerdicts_rein {es} (free : b.stall = none) (K : s.rein = b) : (recVerdicts es s).rein = b := by
  unfold recVerdicts
  exact putRecord_rein free K

theorem writeFull_rein {n} (free : b.stall = none) (K : s.rein = b) : (writeFull n s).rein = b := by
  induction n generalizing s with
  | zero => exact K
  | succ n ih =>
    simp only [writeFull]
    split
    · exact K
    · exact ih (recVerdicts_rein free K)

theorem recRein_rein {win result a w} (free : b.stall = none) (K : s.rein = b) :
    (recRein win result a v w s).rein = b := by
  unfold recRein tapAppend
  split
  · exact putRecord_rein free (writeFull_rein free K)
  · exact K

theorem freeze_rein {cause} (free : b.stall = none) (K : s.rein = b) : (freeze cause s).rein = b := by
  unfold freeze
  split
  · exact K
  · exact attend_rein.trans (closeBlock_rein free K)

theorem endIfDisabled_rein (free : b.stall = none) (K : s.rein = b) : (endIfDisabled s).rein = b := by
  unfold endIfDisabled endRecording
  split
  · split
    · split
      · exact freeze_rein free K
      · exact K
    · exact K
  · exact K

/-! ## A frame of the host that is served -/

/-- Hub time is no part of what decides that a frame is served. -/
theorem hostServed_advance {t0} (h : HostServed s) : HostServed (advance t0 s) := by
  simpa [HostServed, reinListens, bankOut] using h

theorem boot_of_hostServed (h : HostServed s) : s.power.boot ≠ .held := by
  intro held
  simp [HostServed, reinListens, held] at h

theorem stall_of_hostServed (h : HostServed s) : s.rein.stall = none := by
  simp only [HostServed, reinListens, Bool.and_eq_true, Option.isNone_iff_eq_none] at h
  obtain ⟨⟨⟨_, free⟩, _⟩, _⟩ := h
  exact free

/-- An access of the host leaves its grants, before it reads or writes anything. -/
theorem hostAt_grants {ps} : ∃ verdicts, hostAt ps s = { s with verdicts := verdicts } := by
  unfold hostAt
  split
  · exact ⟨_, rfl⟩
  · exact ⟨_, grants_eq⟩

theorem hostAt_apart {ps} : OnlyRecords s (hostAt ps s) := by
  obtain ⟨verdicts, granted⟩ := hostAt_grants (s := s) (ps := ps)
  rw [granted]; exact OnlyRecords.upd OnlyRecords.refl

@[simp] theorem hostAt_rein {ps} : (hostAt ps s).rein = s.rein := by
  obtain ⟨verdicts, granted⟩ := hostAt_grants (s := s) (ps := ps)
  rw [granted]

theorem writeReply_rein (boot : r.s.power.boot ≠ .held) :
    (writeReply v r).rein = { r.s.rein with res := v, adre := r.adre } := by
  simp [writeReply, intoReply, boot]

/-- What the host sees of a good write of a direct register: its data and its address flag (R127). -/
theorem goodWrite_rein {a} (boot : r.s.power.boot ≠ .held) (free : r.s.rein.stall = none) :
    (goodWrite a v r).rein = { r.s.rein with res := v, adre := r.adre } :=
  endIfDisabled_rein free (recRein_rein free (writeReply_rein boot))

/-- And of one through the window. -/
theorem goodWinWrite_rein {w} (boot : r.s.power.boot ≠ .held) (free : r.s.rein.stall = none) :
    (goodWinWrite w v r).rein = { r.s.rein with res := v, adre := r.adre } :=
  endIfDisabled_rein free (recRein_rein free (writeReply_rein boot))

/-- A served write of a direct register, but for WIN_DATA and AUTH_OP. -/
theorem exec_registerWrite_of_served {a : BitVec 7} {t0} (h : HostServed s) (data : a.toNat ≠ 0x16)
    (auth : a.toNat ≠ 0x20) : exec (.registerWrite a v t0) s =
      .next (goodWrite a.toNat v (writeReg a.toNat v (hostAt (groupPoint a.toNat) (advance t0 s)))) := by
  obtain ⟨listens, live⟩ := hostServed_advance (t0 := t0) h
  have row : exec (.registerWrite a v t0) s = .next (effRegisterWrite a v t0 s) := rfl
  simp only [row, effRegisterWrite, hostWrite, hostWriteReg, unrecorded, listens, live, data, beq_false_of_ne auth,
    if_true, if_false, Bool.false_and, Bool.false_eq_true]

/-! ## The halves of the window address (R135) -/

theorem append_halves (x y : Word) : x ++ y = BitVec.ofNat 32 (x.toNat * 65536 + y.toNat) := by
  apply BitVec.eq_of_toNat_eq
  rw [BitVec.toNat_append, ← Nat.shiftLeft_add_eq_or_of_lt y.isLt, Nat.shiftLeft_eq, BitVec.toNat_ofNat]
  omega

/-- A write of WIN_ADDR_HI, WIN_ADDR_LO or WIN_CTRL changes the Rein port only, and no stalled read. -/
theorem writeWindowReg_port {a} : ∃ x : ReinSt,
    (writeWindowReg a v s).s = { s with rein := x } ∧ x.stall = s.rein.stall := by
  unfold writeWindowReg
  split
  · exact ⟨_, rfl, rfl⟩
  · split
    · split
      · exact ⟨_, rfl, rfl⟩
      · exact ⟨_, rfl, rfl⟩
    · exact ⟨_, rfl, rfl⟩

theorem writeWindowReg_high :
    (writeWindowReg 0x14 v s).s.rein.winAddr = v ++ s.rein.winAddr.extractLsb' 0 16 := by
  have low : (s.rein.winAddr.extractLsb' 0 16).toNat = s.rein.winAddr.toNat % 65536 := by simp
  rw [append_halves, low]
  rfl

theorem writeWindowReg_low (even : v.getLsbD 0 = false) :
    (writeWindowReg 0x15 v s).s.rein.winAddr = s.rein.winAddr.extractLsb' 16 16 ++ v := by
  have high : (s.rein.winAddr.extractLsb' 16 16).toNat = s.rein.winAddr.toNat / 65536 := by
    rw [BitVec.extractLsb'_toNat, Nat.shiftRight_eq_div_pow]
    omega
  have bit0 : ¬ v.getLsbD 0 = true := by simp only [even, Bool.false_eq_true, not_false_eq_true]
  rw [append_halves, high, writeWindowReg, if_neg (by decide), if_pos rfl, if_neg bit0]
  rfl

theorem writeWindowReg_odd (odd : v.getLsbD 0 = true) : writeWindowReg 0x15 v s = denied s := by
  simp [writeWindowReg, odd]

/-- A served write of WIN_ADDR_HI or WIN_ADDR_LO leaves the Rein port as `writeWindowReg` does, with the write's answer. -/
theorem registerWrite_window {a : BitVec 7} {t0} (h : HostServed s) (ha : a = 0x14 ∨ a = 0x15) :
    let r := writeWindowReg a.toNat v (hostAt [20] (advance t0 s))
    ∃ t, exec (.registerWrite a v t0) s = .next t ∧ OnlyRecords (advance t0 s) t ∧
      t.rein = { r.s.rein with res := v, adre := r.adre } := by
  intro r
  have row : exec (.registerWrite a v t0) s = .next (goodWrite a.toNat v r) := by
    obtain rfl | rfl := ha <;> exact exec_registerWrite_of_served h (by decide) (by decide)
  obtain ⟨x, port, stall⟩ := writeWindowReg_port (a := a.toNat) (v := v) (s := hostAt [20] (advance t0 s))
  have apart : OnlyRecords (advance t0 s) r.s := port ▸ OnlyRecords.upd hostAt_apart
  refine ⟨_, row, goodWrite_apart apart, goodWrite_rein ?_ ?_⟩
  · rw [apart.power]
    exact boot_of_hostServed (hostServed_advance h)
  · rw [show r.s.rein = x from congrArg State.rein port, stall, hostAt_rein]
    exact stall_of_hostServed (hostServed_advance h)

/-! ## An access through the window (R136, R137) -/

/-- The window address after an access. -/
def movedAddr (x : ReinSt) : Long := if x.ainc then x.winAddr + 2 else x.winAddr

theorem winDone_eq (boot : r.s.power.boot ≠ .held) (port : r.s.rein = b) : winDone b.winAddr.toNat r = { r with
    s := { r.s with rein := { b with winAddr := movedAddr b, werr := b.werr || r.adre } } } := by
  subst port
  have moved : BitVec.ofNat 32 (if r.s.rein.ainc then r.s.rein.winAddr.toNat + 2 else r.s.rein.winAddr.toNat)
      = movedAddr r.s.rein := by
    unfold movedAddr
    split
    · rw [BitVec.ofNat_add, BitVec.ofNat_toNat, BitVec.setWidth_eq]; rfl
    · rw [BitVec.ofNat_toNat, BitVec.setWidth_eq]
  simp [winDone, boot, moved]

theorem exec_winDataRead_of_served {ecc t0} (h : HostServed s) : exec (.winDataRead ecc t0) s = .next
    (intoReply (winDataRead ecc (hostAt (20 :: windowPoint s.rein.winAddr.toNat) (advance t0 s)))) := by
  obtain ⟨listens, -⟩ := hostServed_advance (t0 := t0) h
  have row : exec (.winDataRead ecc t0) s = .next (effWinDataRead ecc t0 s) := rfl
  simp only [row, effWinDataRead, hostRead, listens, if_true, advance_rein]

/-- A read that changes nothing at its address gives its value and its flag; a refusal sets WERR too. -/
theorem intoReply_winDataRead {ecc val adre} (boot : s.power.boot ≠ .held)
    (shown : winReadAt s.rein.winAddr.toNat ecc s = ⟨val, adre, s⟩) :
    intoReply (winDataRead ecc s) = { s with rein := { s.rein with
      res := val, adre := adre, werr := s.rein.werr || adre, winAddr := movedAddr s.rein } } := by
  have done := winDone_eq (r := ⟨val, adre, s⟩) boot rfl
  rw [winDataRead, shown, done]
  rfl

theorem gives_winDataRead {ecc t0 val adre} (h : HostServed s)
    (shown : ∀ x, x.power = s.power → winReadAt s.rein.winAddr.toNat ecc x = ⟨val, adre, x⟩) :
    let u := advance t0 s
    Gives (.winDataRead ecc t0) s { u with rein := { u.rein with
      res := val, adre := adre, werr := u.rein.werr || adre, winAddr := movedAddr u.rein } } := by
  intro u
  obtain ⟨verdicts, granted⟩ := hostAt_grants (s := u) (ps := 20 :: windowPoint s.rein.winAddr.toNat)
  have boot : u.power.boot ≠ .held := boot_of_hostServed (hostServed_advance h)
  have here : u.rein.winAddr = s.rein.winAddr := by rw [advance_rein]
  refine ⟨verdicts, ?_⟩
  rw [exec_winDataRead_of_served h, granted,
    intoReply_winDataRead (s := { u with verdicts := verdicts }) boot (by rw [here]; exact shown _ advance_power)]

/-- A served write of WIN_DATA above the mirror of the direct registers goes to the region there. -/
theorem exec_winDataWrite_of_served {t0} (h : HostServed s) (above : 0x100 ≤ s.rein.winAddr.toNat) :
    let w := s.rein.winAddr.toNat
    exec (.winDataWrite v t0) s =
      .next (goodWinWrite w v (winDone w (winWriteAt w v (hostAt (20 :: windowPoint w) (advance t0 s))))) := by
  intro w
  obtain ⟨listens, -⟩ := hostServed_advance (t0 := t0) h
  have row : exec (.winDataWrite v t0) s = .next (effWinDataWrite v t0 s) := rfl
  have direct : ¬ s.rein.winAddr.toNat < 0x100 := by omega
  simp only [row, effWinDataWrite, hostWrite, hostWinWrite, listens, advance_rein, direct, decide_false, Bool.false_and,
    Bool.false_eq_true, if_true, if_false, w]

/-- Where the region leaves the Rein port alone, the access moves the address on, and a refusal sets WERR. -/
theorem winDataWrite_window {t0} {x : State} (h : HostServed s) (above : 0x100 ≤ s.rein.winAddr.toNat)
    (taken : winWriteAt s.rein.winAddr.toNat v (hostAt (20 :: windowPoint s.rein.winAddr.toNat) (advance t0 s)) = r)
    (apart : OnlyRecords x r.s) (boot : r.s.power.boot ≠ .held) (port : r.s.rein = s.rein) :
    ∃ t, exec (.winDataWrite v t0) s = .next t ∧ OnlyRecords x t ∧
      t.rein.winAddr = movedAddr s.rein ∧ t.rein.werr = (s.rein.werr || r.adre) := by
  have done := winDone_eq boot port
  have shown := goodWinWrite_rein (v := v) (w := s.rein.winAddr.toNat) (r := winDone s.rein.winAddr.toNat r)
    (by rw [done]; exact boot) (by rw [done]; exact (stall_of_hostServed h : s.rein.stall = none))
  refine ⟨_, exec_winDataWrite_of_served h above, ?_⟩
  rw [taken, shown, done]
  exact ⟨goodWinWrite_apart (OnlyRecords.upd apart), rfl, rfl⟩

/-! ## The register MP_PWR, and the addresses that no region maps -/

theorem winReadAt_pwr {ecc} : winReadAt 0x1002 ecc s = ⟨s.power.pwr, false, s⟩ := rfl

theorem winWriteAt_pwr (live : s.replay.run = false) :
    winWriteAt 0x1002 v s = wrote { s with power := { s.power with pwr := v } } := by
  simp [winWriteAt, winWritable, mpWrite, live]

section
variable {w : Nat} (above : 0x100 ≤ w) (below : w < 0x1000)
include above below

theorem winReadAt_unmapped {ecc} : winReadAt w ecc s = denied s := by
  have mirror : ¬ w < 0x100 := by omega
  simp only [winReadAt, mirror, below, if_true, if_false]

theorem winWritable_unmapped : winWritable w s = false := by
  have noProfile : inProfileRange w 2 = false := by
    simp only [inProfileRange, profileRanges, List.any_cons, List.any_nil, Bool.or_eq_false_iff, Bool.and_eq_false_iff,
      decide_eq_false_iff_not, and_true]
    omega
  have noPower : ¬ (0x1000 ≤ w ∧ w < 0x1200) := by omega
  have noPool : ¬ 0x40000 ≤ w := by omega
  simp [winWritable, noProfile, noPower, noPool]

theorem winWriteAt_unmapped : winWriteAt w v s = denied s := by
  have mirror : ¬ w < 0x100 := by omega
  simp [winWriteAt, mirror, winWritable_unmapped above below]

end

theorem winDataWrite_pwr {t0} (h : HostServed s) (pwr : s.rein.winAddr = 0x1002) :
    let u := advance t0 s
    ∃ t, exec (.winDataWrite v t0) s = .next t ∧ OnlyRecords { u with power := { u.power with pwr := v } } t ∧
      t.rein.winAddr = movedAddr s.rein ∧ t.rein.werr = s.rein.werr := by
  intro u
  obtain ⟨verdicts, granted⟩ := hostAt_grants (s := u) (ps := 20 :: windowPoint s.rein.winAddr.toNat)
  have served : HostServed u := hostServed_advance h
  have here : s.rein.winAddr.toNat = 0x1002 := by rw [pwr]; rfl
  obtain ⟨t, row, apart, moved, werr⟩ := winDataWrite_window (v := v) (t0 := t0)
    (r := wrote { u with power := { u.power with pwr := v }, verdicts := verdicts })
    (x := { u with power := { u.power with pwr := v } }) h (by omega)
    (by rw [granted, here]; exact winWriteAt_pwr served.2)
    (OnlyRecords.upd OnlyRecords.refl) (boot_of_hostServed served) advance_rein
  exact ⟨t, row, apart, moved, werr.trans (Bool.or_false _)⟩

theorem winDataWrite_unmapped {t0} (h : HostServed s) (above : 0x100 ≤ s.rein.winAddr.toNat)
    (below : s.rein.winAddr.toNat < 0x1000) :
    ∃ t, exec (.winDataWrite v t0) s = .next t ∧ OnlyRecords (advance t0 s) t ∧
      t.rein.winAddr = movedAddr s.rein ∧ t.rein.werr = true := by
  obtain ⟨verdicts, granted⟩ := hostAt_grants (s := advance t0 s) (ps := 20 :: windowPoint s.rein.winAddr.toNat)
  obtain ⟨t, row, apart, moved, werr⟩ := winDataWrite_window (v := v) (t0 := t0)
    (r := denied { advance t0 s with verdicts := verdicts }) (x := advance t0 s) h above
    (by rw [granted]; exact winWriteAt_unmapped above below)
    (OnlyRecords.upd OnlyRecords.refl) (boot_of_hostServed (hostServed_advance h)) advance_rein
  exact ⟨t, row, apart, moved, werr.trans (Bool.or_true _)⟩

/-- Settles O25: a direct register write acts on the window address by `registerWrite_window`, and an access through the
window by `gives_winDataRead` and `winDataWrite_window`, from what the region at the address answers. -/
theorem windowAccess : Obligations.WindowAccess := by
  intro v ecc t0 s h u half moved
  have port : u.rein = s.rein := advance_rein
  have old {ps} : (hostAt ps u).rein.winAddr = s.rein.winAddr := by rw [hostAt_rein, port]
  have high := registerWrite_window (v := v) (t0 := t0) h (.inl rfl)
  have low := registerWrite_window (v := v) (t0 := t0) h (.inr rfl)
  refine ⟨fun pwr => ⟨?_, winDataWrite_pwr h pwr⟩, fun above below => ⟨?_, winDataWrite_unmapped h above below⟩,
    ?_, fun even => ?_, fun odd => ?_⟩
  · have shown := gives_winDataRead (ecc := ecc) (t0 := t0) (val := s.power.pwr) (adre := false) h
      (fun x hx => by rw [pwr, ← hx]; exact winReadAt_pwr)
    simpa [u, moved, movedAddr] using shown
  · have shown := gives_winDataRead (ecc := ecc) (t0 := t0) h (fun x _ => winReadAt_unmapped above below)
    simpa [u, moved, movedAddr] using shown
  · obtain ⟨t, row, apart, answered⟩ := high
    refine ⟨t, row, apart, ?_⟩
    rw [answered, ← old]
    exact writeWindowReg_high
  · obtain ⟨t, row, apart, answered⟩ := low
    refine ⟨t, row, apart, ?_⟩
    rw [answered, ← old]
    exact writeWindowReg_low even
  · obtain ⟨t, row, apart, answered⟩ := low
    rw [show (0x15 : BitVec 7).toNat = 0x15 from rfl, writeWindowReg_odd odd] at answered
    refine ⟨⟨t, row, apart, ?_⟩, t, row, ?_⟩
    · rw [answered]; exact old
    · rw [answered]; rfl

end Sys2Proof.Proofs.Window

/-! PROOFS. What every step keeps: the invariant, a locked key slot, the stored counter and the identity. -/

namespace Sys2Proof.Proofs.Invariant

set_option Elab.async false

open Sys2Proof.Machine Sys2Proof.Safety Sys2Proof.Laws

variable {s t : State}

/-- Every command completes, and from a state that meets the invariant it keeps what `Held` names: the operations' own
lemmas, one for each command of the table. -/
theorem exec_held (K : Kept s s) (c : Instr) : ∃ t, exec c s = .next t ∧ Held s t :=
  match c with
  | .powerOnReset => ⟨_, rfl, (effPowerOnReset_kept K).held⟩
  | .brownOutReset _ => ⟨_, rfl, (effBrownOutReset_kept K).held⟩
  | .resetPin => ⟨_, rfl, (effResetPin_kept K).held⟩
  | .resetRelease _ => ⟨_, rfl, (effResetRelease_kept K).held⟩
  | .startChecksDone _ => ⟨_, rfl, (effStartChecksDone_kept K).held⟩
  | .refclkMeasured _ => ⟨_, rfl, (effRefclkMeasured_kept K).held⟩
  | .pllLock _ => ⟨_, rfl, (effPllLock_kept K).held⟩
  | .resetProfileLoadDone => ⟨_, rfl, (effResetProfileLoadDone_kept K).held⟩
  | .modeRequest _ => ⟨_, rfl, (effModeRequest_kept K).held⟩
  | .resetRequest => ⟨_, rfl, (effResetRequest_kept K).held⟩
  | .baseEpochBoundary => ⟨_, rfl, (effBaseEpochBoundary_kept K).held⟩
  | .stabledQuiesceTimeout => ⟨_, rfl, (effStabledQuiesceTimeout_kept K).held⟩
  | .stabledSeal => ⟨_, rfl, (effStabledSeal_kept K).held⟩
  | .pwrHoldDrop => ⟨_, rfl, (effPwrHoldDrop_kept K).held⟩
  | .wakeDominantEdge _ => ⟨_, rfl, (effWakeDominantEdge_kept K).held⟩
  | .wakeFrame _ _ => ⟨_, rfl, (effWakeFrame_kept K).held⟩
  | .wakeFrameErrorOverflow _ => ⟨_, rfl, (effWakeFrameErrorOverflow_kept K).held⟩
  | .wakePinEdge _ => ⟨_, rfl, (effWakePinEdge_kept K).held⟩
  | .wakeReinCs => ⟨_, rfl, (effWakeReinCs_kept K).held⟩
  | .wakeTimer => ⟨_, rfl, (effWakeTimer_kept K).held⟩
  | .wakeTargetEntry _ => ⟨_, rfl, (effWakeTargetEntry_kept K).held⟩
  | .farrierExitReload => ⟨_, rfl, (effFarrierExitReload_kept K).held⟩
  | .epochPulseEnd => ⟨_, rfl, (effEpochPulseEnd_kept K).held⟩
  | .hubTimeWrap => ⟨_, rfl, (effHubTimeWrap_kept K).held⟩
  | .snapshotCommit _ => ⟨_, rfl, (effSnapshotCommit_kept K).held⟩
  | .forwardFillEnd => ⟨_, rfl, (effForwardFillEnd_kept K).held⟩
  | .bankCrcWritten => ⟨_, rfl, (effBankCrcWritten_kept K).held⟩
  | .snapPinSet _ _ => ⟨_, rfl, (effSnapPinSet_kept K).held⟩
  | .snapPinRelease _ _ => ⟨_, rfl, (effSnapPinRelease_kept K).held⟩
  | .snapPinExpiry => ⟨_, rfl, (effSnapPinExpiry_kept K).held⟩
  | .boryelLockLossTimeout => ⟨_, rfl, (effBoryelLockLossTimeout_kept K).held⟩
  | .boryelLeadResume => ⟨_, rfl, (effBoryelLeadResume_kept K).held⟩
  | .reinFrame _ _ _ _ _ => ⟨_, rfl, (effReinFrame_kept K).held⟩
  | .registerWrite _ _ _ => ⟨_, rfl, (effRegisterWrite_kept K).held⟩
  | .winDataRead _ _ => ⟨_, rfl, (effWinDataRead_kept K).held⟩
  | .winDataWrite _ _ => ⟨_, rfl, (effWinDataWrite_kept K).held⟩
  | .latchingRead _ _ => ⟨_, rfl, (effLatchingRead_kept K).held⟩
  | .slowReadComplete _ => ⟨_, rfl, (effSlowReadComplete_kept K).held⟩
  | .slowReadTimeout => ⟨_, rfl, (effSlowReadTimeout_kept K).held⟩
  | .stallTimeout => ⟨_, rfl, (effStallTimeout_kept K).held⟩
  | .qmDataRead _ _ _ => ⟨_, rfl, (effQmDataRead_kept K).held⟩
  | .evqDataRead _ _ _ => ⟨_, rfl, (effEvqDataRead_kept K).held⟩
  | .qmEnqWrite _ => ⟨_, rfl, (effQmEnqWrite_kept K).held⟩
  | .qmSelWrite _ => ⟨_, rfl, (effQmSelWrite_kept K).held⟩
  | .qmClose => ⟨_, rfl, (effQmClose_kept K).held⟩
  | .qmDisc => ⟨_, rfl, (effQmDisc_kept K).held⟩
  | .reservationGrant _ => ⟨_, rfl, (effReservationGrant_kept K).held⟩
  | .qmFlushGo => ⟨_, rfl, (effQmFlushGo_kept K).held⟩
  | .flushEnd _ => ⟨_, rfl, (effFlushEnd_kept K).held⟩
  | .flushAbortTimeout _ => ⟨_, rfl, (effFlushAbortTimeout_kept K).held⟩
  | .poolScrub _ _ => ⟨_, rfl, (effPoolScrub_kept K).held⟩
  | .pmPinWrite _ _ => ⟨_, rfl, (effPmPinWrite_kept K).held⟩
  | .pinQuiesceDone _ => ⟨_, rfl, (effPinQuiesceDone_kept K).held⟩
  | .pinQuiesceTimeout _ => ⟨_, rfl, (effPinQuiesceTimeout_kept K).held⟩
  | .pinAttach _ => ⟨_, rfl, (effPinAttach_kept K).held⟩
  | .captureEdge _ _ _ => ⟨_, rfl, (effCaptureEdge_kept K).held⟩
  | .bankSupplyLow _ _ => ⟨_, rfl, (effBankSupplyLow_kept K).held⟩
  | .bankSupplyReturn => ⟨_, rfl, (effBankSupplyReturn_kept K).held⟩
  | .profileSelect => ⟨_, rfl, effProfileSelect_held K⟩
  | .profileStagingDone => ⟨_, rfl, (effProfileStagingDone_kept K).held⟩
  | .profileExpansionEnd => ⟨_, rfl, (effProfileExpansionEnd_kept K).held⟩
  | .profileCommit => ⟨_, rfl, effProfileCommit_held K⟩
  | .tackWriteJobDone _ => ⟨_, rfl, (effTackWriteJobDone_kept K).held⟩
  | .endpointCommit => ⟨_, rfl, effEndpointCommit_held K⟩
  | .endpointCommitApply _ => ⟨_, rfl, (effEndpointCommitApply_kept K).held⟩
  | .keyLoad => ⟨_, rfl, effKeyLoad_held K⟩
  | .keyLoadDone => ⟨_, rfl, effKeyLoadDone_held K⟩
  | .farrierEnter => ⟨_, rfl, effFarrierEnter_held K⟩
  | .tackErase => ⟨_, rfl, effTackErase_held K⟩
  | .replayLoad => ⟨_, rfl, effReplayLoad_held K⟩
  | .pinmuxLock => ⟨_, rfl, effPinmuxLock_held K⟩
  | .authHoldEnd => ⟨_, rfl, (effAuthHoldEnd_kept K).held⟩
  | .selfTest => ⟨_, rfl, (effSelfTest_kept K).held⟩
  | .rollCall => ⟨_, rfl, (effRollCall_kept K).held⟩
  | .rollCallProbe _ _ => ⟨_, rfl, (effRollCallProbe_kept K).held⟩
  | .autoRate => ⟨_, rfl, (effAutoRate_kept K).held⟩
  | .autoRateVerifyStart => ⟨_, rfl, (effAutoRateVerifyStart_kept K).held⟩
  | .profileLoad => ⟨_, rfl, (effProfileLoad_kept K).held⟩
  | .traceDrain => ⟨_, rfl, (effTraceDrain_kept K).held⟩
  | .drainSegmentDone _ => ⟨_, rfl, (effDrainSegmentDone_kept K).held⟩
  | .queueFlush => ⟨_, rfl, (effQueueFlush_kept K).held⟩
  | .keyframeNow => ⟨_, rfl, (effKeyframeNow_kept K).held⟩
  | .replayRun => ⟨_, rfl, (effReplayRun_kept K).held⟩
  | .flashProgram => ⟨_, rfl, (effFlashProgram_kept K).held⟩
  | .flashStatusPoll _ => ⟨_, rfl, (effFlashStatusPoll_kept K).held⟩
  | .endpointProbe => ⟨_, rfl, (effEndpointProbe_kept K).held⟩
  | .opAbort => ⟨_, rfl, (effOpAbort_kept K).held⟩
  | .longOpEnd _ => ⟨_, rfl, (effLongOpEnd_kept K).held⟩
  | .longOpBoundExpiry => ⟨_, rfl, (effLongOpBoundExpiry_kept K).held⟩
  | .runAheadDispatch _ => ⟨_, rfl, (effRunAheadDispatch_kept K).held⟩
  | .endStep _ => ⟨_, rfl, (effEndStep_kept K).held⟩
  | .acq _ => ⟨_, rfl, (effAcq_kept K).held⟩
  | .portGrant _ => ⟨_, rfl, (effPortGrant_kept K).held⟩
  | .rel _ => ⟨_, rfl, (effRel_kept K).held⟩
  | .send _ => ⟨_, rfl, (effSend_kept K).held⟩
  | .recv _ => ⟨_, rfl, (effRecv_kept K).held⟩
  | .xfer _ => ⟨_, rfl, (effXfer_kept K).held⟩
  | .frame _ => ⟨_, rfl, (effFrame_kept K).held⟩
  | .portStepComplete _ _ _ _ => ⟨_, rfl, (effPortStepComplete_kept K).held⟩
  | .wait _ => ⟨_, rfl, (effWait_kept K).held⟩
  | .waitt _ => ⟨_, rfl, (effWaitt_kept K).held⟩
  | .waitExpiry _ => ⟨_, rfl, (effWaitExpiry_kept K).held⟩
  | .waitpin _ => ⟨_, rfl, (effWaitpin_kept K).held⟩
  | .waitpinMatch _ => ⟨_, rfl, (effWaitpinMatch_kept K).held⟩
  | .waitfrm _ => ⟨_, rfl, (effWaitfrm_kept K).held⟩
  | .get _ _ => ⟨_, rfl, (effGet_kept K).held⟩
  | .getSampleReady _ _ => ⟨_, rfl, (effGetSampleReady_kept K).held⟩
  | .split _ _ => ⟨_, rfl, (effSplit_kept K).held⟩
  | .flush _ => ⟨_, rfl, (effFlush_kept K).held⟩
  | .skip _ => ⟨_, rfl, (effSkip_kept K).held⟩
  | .attemptTimeout _ => ⟨_, rfl, (effAttemptTimeout_kept K).held⟩
  | .retryGapExpiry _ => ⟨_, rfl, (effRetryGapExpiry_kept K).held⟩
  | .sampleCompletion _ => ⟨_, rfl, (effSampleCompletion_kept K).held⟩
  | .lateExpressRoute _ => ⟨_, rfl, (effLateExpressRoute_kept K).held⟩
  | .canStartRequest _ _ => ⟨_, rfl, (effCanStartRequest_kept K).held⟩
  | .canStopRequest _ _ => ⟨_, rfl, (effCanStopRequest_kept K).held⟩
  | .canChannelStop _ => ⟨_, rfl, (effCanChannelStop_kept K).held⟩
  | .canIntegrationDone _ => ⟨_, rfl, (effCanIntegrationDone_kept K).held⟩
  | .canFrameReceived _ _ _ _ => ⟨_, rfl, (effCanFrameReceived_kept K).held⟩
  | .canFrameError _ _ _ => ⟨_, rfl, (effCanFrameError_kept K).held⟩
  | .canProtocolException _ _ => ⟨_, rfl, (effCanProtocolException_kept K).held⟩
  | .canRecoveryStart _ => ⟨_, rfl, (effCanRecoveryStart_kept K).held⟩
  | .canRecoveryDone _ _ => ⟨_, rfl, (effCanRecoveryDone_kept K).held⟩
  | .canTxTake _ => ⟨_, rfl, (effCanTxTake_kept K).held⟩
  | .canFrameTransmitted _ _ _ _ => ⟨_, rfl, (effCanFrameTransmitted_kept K).held⟩
  | .canArbitrationLost _ _ _ => ⟨_, rfl, (effCanArbitrationLost_kept K).held⟩
  | .canTxdataWrite _ _ => ⟨_, rfl, (effCanTxdataWrite_kept K).held⟩
  | .canRxqRead _ _ _ _ => ⟨_, rfl, (effCanRxqRead_kept K).held⟩
  | .rxShadowLoad _ _ => ⟨_, rfl, (effRxShadowLoad_kept K).held⟩
  | .passThroughEntry _ _ _ _ => ⟨_, rfl, (effPassThroughEntry_kept K).held⟩
  | .targetSelectFall _ _ => ⟨_, rfl, (effTargetSelectFall_kept K).held⟩
  | .targetSelectRise _ _ _ _ _ => ⟨_, rfl, (effTargetSelectRise_kept K).held⟩
  | .lineFillDone _ => ⟨_, rfl, (effLineFillDone_kept K).held⟩
  | .linePrefetch => ⟨_, rfl, (effLinePrefetch_kept K).held⟩
  | .cacheInvalidate => ⟨_, rfl, (effCacheInvalidate_kept K).held⟩
  | .sfdpRead => ⟨_, rfl, (effSfdpRead_kept K).held⟩
  | .sfdpDone _ => ⟨_, rfl, (effSfdpDone_kept K).held⟩
  | .busFree _ => ⟨_, rfl, (effBusFree_kept K).held⟩
  | .i2cArbitrationLost _ _ => ⟨_, rfl, (effI2cArbitrationLost_kept K).held⟩
  | .i2cHang _ _ => ⟨_, rfl, (effI2cHang_kept K).held⟩
  | .i2cRecoveryDone _ _ _ _ => ⟨_, rfl, (effI2cRecoveryDone_kept K).held⟩
  | .i2cStuckRetry _ => ⟨_, rfl, (effI2cStuckRetry_kept K).held⟩
  | .i2cCall _ _ _ _ => ⟨_, rfl, (effI2cCall_kept K).held⟩
  | .ptGo _ _ _ _ => ⟨_, rfl, (effPtGo_kept K).held⟩
  | .ptHoldExpiry _ => ⟨_, rfl, (effPtHoldExpiry_kept K).held⟩
  | .sentFrame _ _ _ _ _ => ⟨_, rfl, (effSentFrame_kept K).held⟩
  | .sentError _ _ _ _ => ⟨_, rfl, (effSentError_kept K).held⟩
  | .sentLineTimeout _ _ => ⟨_, rfl, (effSentLineTimeout_kept K).held⟩
  | .verdictBatchWrite _ => ⟨_, rfl, (effVerdictBatchWrite_kept K).held⟩
  | .gapRecord _ => ⟨_, rfl, (effGapRecord_kept K).held⟩
  | .tapArm => ⟨_, rfl, (effTapArm_kept K).held⟩
  | .tapFrz => ⟨_, rfl, (effTapFrz_kept K).held⟩
  | .replayLoaderFill _ _ => ⟨_, rfl, (effReplayLoaderFill_kept K).held⟩
  | .replayRecord _ _ => ⟨_, rfl, (effReplayRecord_kept K).held⟩
  | .replayGo => ⟨_, rfl, (effReplayGo_kept K).held⟩
  | .livenessProbeTimeout _ _ => ⟨_, rfl, (effLivenessProbeTimeout_kept K).held⟩
  | .hitchTimeout _ _ _ => ⟨_, rfl, (effHitchTimeout_kept K).held⟩
  | .islandRestartDone _ => ⟨_, rfl, (effIslandRestartDone_kept K).held⟩
  | .pllUnlock => ⟨_, rfl, (effPllUnlock_kept K).held⟩
  | .pllRelock _ _ => ⟨_, rfl, (effPllRelock_kept K).held⟩
  | .clockLossTimeout _ => ⟨_, rfl, (effClockLossTimeout_kept K).held⟩
  | .crystalStop _ => ⟨_, rfl, (effCrystalStop_kept K).held⟩
  | .vsupLow _ => ⟨_, rfl, (effVsupLow_kept K).held⟩
  | .vsupLowEnd => ⟨_, rfl, (effVsupLowEnd_kept K).held⟩
  | .authCommandRejected _ => ⟨_, rfl, (effAuthCommandRejected_kept K).held⟩
  | .wakeWatcherFrame _ _ => ⟨_, rfl, (effWakeWatcherFrame_kept K).held⟩
  | .controlFieldEnd _ _ => ⟨_, rfl, (effControlFieldEnd_kept K).held⟩
  | .protocolExceptionIdle _ => ⟨_, rfl, (effProtocolExceptionIdle_kept K).held⟩
  | .sentSync _ _ => ⟨_, rfl, (effSentSync_kept K).held⟩
  | .busBusy _ => ⟨_, rfl, (effBusBusy_kept K).held⟩
  | .livenessSweep => ⟨_, rfl, (effLivenessSweep_kept K).held⟩

/-- Taking the front command off the queue leaves the invariant as it is. -/
theorem inv_pending {q : List Instr} (h : Inv s) : Inv { s with pending := q } := by
  obtain ⟨memories, counts, keys⟩ := h
  exact ⟨memories, counts, keys⟩

/-- A step idles on an empty queue, and else is a command that keeps what `Held` names of the hub with the rest waiting. -/
theorem step_held (h : Inv s) (row : step s = .next t) : Held { s with pending := s.pending.tail } t := by
  cases waiting : s.pending with
  | nil =>
    simp only [step, waiting] at row
    cases row
    exact ⟨waiting, rfl, Nat.le_refl _, fun _ _ e _ => e, h⟩
  | cons c rest =>
    simp only [step, waiting] at row
    obtain ⟨u, run, kept⟩ := exec_held (Kept.refl (inv_pending (q := rest) h)) c
    rw [run] at row
    cases row
    exact kept

/-- Settles O4: what every command keeps includes the invariant. -/
theorem stepKeepsInvariant : Obligations.StepKeepsInvariant :=
  fun _ _ h row => (step_held h row).inv

/-- Settles O5: what every command keeps includes the locked key slots. -/
theorem lockedSlotNeverChanges : Obligations.LockedSlotNeverChanges :=
  fun _ _ i k h row shown locked => (step_held h row).locked i k shown locked

/-- Settles O6: what every command keeps includes the stored counter, the identity and the queue behind it. -/
theorem stepKeepsCounterIdentityQueue : Obligations.StepKeepsCounterIdentityQueue :=
  fun _ _ h row => ⟨(step_held h row).counter, (step_held h row).uid, (step_held h row).pending⟩

/-- Settles O1: a step reads the front of the queue, whatever command stands there. -/
theorem stepRunsTheFrontCommand : Obligations.StepRunsTheFrontCommand := by
  intro s c rest waiting
  rw [step, waiting]

/-- Settles O2: an empty queue is a step's other case, and each arm of `exec` answers a next state. -/
theorem nothingIsTurnedAway : Obligations.NothingIsTurnedAway := by
  refine ⟨fun s idle => ?_, fun c s => ?_⟩
  · rw [step, idle]
  · cases c <;> exact ⟨_, rfl⟩

set_option maxRecDepth 8000 in
/-- Settles O3: the reset state is a closed term, so its memories and counts are computed. -/
theorem resetMeetsInvariant : Obligations.ResetMeetsInvariant :=
  ⟨by decide, by decide, fun _ _ waiting => by cases waiting⟩

end Sys2Proof.Proofs.Invariant

/-! PROOFS. Rules about shared operations that several chapters' statements use. -/

namespace Sys2Proof.Proofs.Shared

set_option Elab.async false

open Sys2Proof.Machine Sys2Proof.Safety Sys2Proof.Laws

variable {s t : State}

/-- A command's row, from what its effect is. -/
theorem next_congr {x y : State} (h : x = y) : (Host.Outcome.next x : Host.Outcome State Fault Refusal) = .next y :=
  congrArg _ h

theorem logFault_code {code cls island detail} : (logFault code cls island detail s).fault.code = BitVec.ofNat 8 code := by
  unfold logFault
  rw [(tapTrigger_traced Traced.refl).fault]
  unfold recFault
  rw [(tapAppend_traced Traced.refl).fault]
  simp

/-- Past its end a list reads the default. -/
theorem getD_outside {α : Type} {l : List α} {n : Nat} {d : α} (h : l.length ≤ n) : l.getD n d = d := by
  rw [List.getD_eq_getElem?_getD, List.getElem?_eq_none h]
  rfl

theorem setBit_self {w : Word} {i : Nat} (h : i < 16) : (setBit w i).getLsbD i = true := by
  rw [setBit, BitVec.getLsbD_or, BitVec.getLsbD_ofNat, Nat.testBit_two_pow_self]
  simp [h]

/-! ## The mode shown and the phases of power

Several relations of the laws each keep them; a chain of operations that no single one of them covers is followed here. -/

/-- `t` shows the mode and has the boot and sleep phases of `u`. -/
structure SamePhase (u t : State) : Prop where
  cur : t.mode.cur = u.mode.cur
  boot : t.power.boot = u.power.boot
  sleep : t.power.sleep = u.power.sleep

theorem SamePhase.refl : SamePhase s s := ⟨rfl, rfl, rfl⟩

theorem SamePhase.trans {r : State} (h : SamePhase r s) (k : SamePhase s t) : SamePhase r t :=
  ⟨k.cur.trans h.cur, k.boot.trans h.boot, k.sleep.trans h.sleep⟩

theorem SamePhase.ofSteady (h : Steady s t) : SamePhase s t := ⟨h.cur, h.boot, h.sleep⟩

theorem SamePhase.ofLasting (h : Lasting s t) : SamePhase s t := ⟨h.cur, h.boot, h.sleep⟩

theorem SamePhase.ofApart (h : OnlyRecords s t) : SamePhase s t := by
  refine ⟨?_, ?_, ?_⟩
  · rw [h.mode]
  · rw [h.power]
  · rw [h.power]

theorem SamePhase.ofUnmoved (h : Unmoved s t) : SamePhase s t := by
  refine ⟨?_, ?_, ?_⟩
  · rw [h.mode]
  · rw [h.power]
  · rw [h.power]

/-- What follows a change of the working units leaves what `Steady` names as the change left it. -/
theorem adapting_after {f : State → State} : Steady (f s) (adapting f s) :=
  settleCans_steady (settlePins_steady (settlePorts_steady (purgeHeld_steady Steady.refl)))

end Sys2Proof.Proofs.Shared

/-! PROOFS. The host's accesses by a good frame that is served (chapter 06): what a row of a register makes of the state, and what
it leaves in the Rein port. -/

namespace Sys2Proof.Proofs.HostAccess

set_option Elab.async false

open Sys2Proof.Machine Sys2Proof.Safety Sys2Proof.Laws Sys2Proof.Proofs.Shared Sys2Proof.Proofs.Window

variable {s x : State} {a : Nat} {v : Word} {f : State → Reply}

theorem writeRow_of_served (h : HostServed s) : writeRow a v f s = goodWrite a v (f (hostAt (groupPoint a) s)) := by
  obtain ⟨listens, live⟩ := h
  simp [writeRow, listens, live]

theorem readRow_of_served (h : HostServed s) : readRow a f s = intoReply (f (hostAt (groupPoint a) s)) := by
  obtain ⟨listens, live⟩ := h
  simp [readRow, listens, live]

/-- A served write finds the hub as it is, but for the verdicts of its grants. -/
theorem writeRow_grants (h : HostServed s) :
    ∃ w, writeRow a v f s = goodWrite a v (f { s with verdicts := w }) := by
  obtain ⟨w, granted⟩ := hostAt_grants (s := s) (ps := groupPoint a)
  exact ⟨w, by rw [writeRow_of_served h, granted]⟩

theorem readRow_grants (h : HostServed s) : ∃ w, readRow a f s = intoReply (f { s with verdicts := w }) := by
  obtain ⟨w, granted⟩ := hostAt_grants (s := s) (ps := groupPoint a)
  exact ⟨w, by rw [readRow_of_served h, granted]⟩

/-- The whole of a served write whose answer changes records of `x` only, and no stalled read. -/
theorem writeRow_apart (h : HostServed s) (boot : x.power.boot = s.power.boot)
    (does : ∀ w, OnlyRecords x (f { s with verdicts := w }).s) (free : ∀ w, (f { s with verdicts := w }).s.rein.stall = none) :
    ∃ w, OnlyRecords x (writeRow a v f s) ∧
      (writeRow a v f s).rein = { (f { s with verdicts := w }).s.rein with res := v, adre := (f { s with verdicts := w }).adre } := by
  obtain ⟨w, row⟩ := writeRow_grants (a := a) (v := v) (f := f) h
  refine ⟨w, ?_⟩
  rw [row]
  refine ⟨goodWrite_apart (does w), goodWrite_rein ?_ (free w)⟩
  rw [(does w).power, boot]
  exact boot_of_hostServed h

/-! ## While the tap records nothing

Outside a replay and a recording no grant leaves a verdict, and a served write is its answer in the next reply. -/

section Quiet

theorem grant_quiet {p b} (own : s.replay.run = false) (quiet : s.tap.recording = false) : grant p b s = s := by
  simp [grant, own, quiet]

theorem grants_quiet {l} (own : s.replay.run = false) (quiet : s.tap.recording = false) : grants l s = s := by
  unfold grants
  induction l with
  | nil => rfl
  | cons g l ih => rw [List.foldl_cons, grant_quiet own quiet, ih]

theorem hostAt_quiet {l} (own : s.replay.run = false) (quiet : s.tap.recording = false) : hostAt l s = s := by
  rw [hostAt, grants_quiet own quiet, ite_self]

theorem goodWrite_quiet {r : Reply} (boot : r.s.power.boot ≠ .held) (quiet : r.s.tap.recording = false) :
    goodWrite a v r = intoReply { r with val := v } := by
  simp [goodWrite, writeReply, boot, endIfDisabled, recRein, tapAppend, intoReply, quiet]

/-- A served write that leaves power and the tap as they are is its answer in the next reply. -/
theorem writeRow_quiet {r : Reply} (h : HostServed s) (quiet : s.tap.recording = false) (does : f s = r)
    (power : r.s.power = s.power) (tap : r.s.tap = s.tap) : writeRow a v f s = intoReply { r with val := v } := by
  rw [writeRow_of_served h, hostAt_quiet h.2 quiet, does]
  exact goodWrite_quiet (by rw [power]; exact boot_of_hostServed h) (by rw [tap]; exact quiet)

end Quiet

end Sys2Proof.Proofs.HostAccess

/-! PROOFS. What ends a run, a write job or a long operation leaves of the mode, the time base and the banks. -/

namespace Sys2Proof.Proofs.Endings

set_option Elab.async false

open Sys2Proof.Machine Sys2Proof.Safety Sys2Proof.Laws Sys2Proof.Proofs.Shared

variable {b0 s t : State}

theorem tearJob_steady (K : Steady b0 s) : Steady b0 (tearJob s) := by
  unfold tearJob
  extract_lets +onlyGivenNames s1
  have hs1 : Steady b0 s1 := moveCommit_steady K
  clear_value s1
  split
  · exact hs1
  · extract_lets +onlyGivenNames _ s2
    have hs2 : Steady b0 s2 := drawn_steady (endJob_steady hs1)
    clear_value s2
    refine scanCopies_steady ?_
    split
    · exact tackWrite_steady hs2
    · exact Steady.ite (tackWrite_steady hs2) (tackWrite_steady hs2)

theorem stopRuns_steady (K : Steady b0 s) : Steady b0 (stopRuns s) := by
  unfold stopRuns
  extract_lets +onlyGivenNames _ s1
  have hs1 : Steady b0 s1 := Steady.upd K
  clear_value s1
  exact cancelLanes_steady (Steady.foldl (fun _ _ h => orphanRun_steady h) (Steady.foldl (fun _ _ h => missRun_steady h) hs1))

/-! ## Without a replay, the end of an operation -/

/-- Without a replay, what the running operation holds is no part of what `Steady` names. -/
theorem stopJob_steady (own : s.replay.run = false) : Steady s (stopJob s) := by
  unfold stopJob
  split
  · exact cancelLanes_steady Steady.refl
  · unfold freeDrain abandonItem
    exact Steady.upd (modQueue_steady (grant_steady (modQueue_steady Steady.refl)))
  · exact Steady.upd Steady.refl
  · exact tearJob_steady Steady.refl
  · have idle : endReplay s = s := by rw [endReplay, if_neg (ne_true_of_eq_false own)]
    have after := adapting_after (f := endReplay) (s := s)
    rwa [idle] at after
  · exact Steady.refl

theorem endOp_steady {st why} (own : s.replay.run = false) : Steady s (endOp st why s) := by
  have ended : Steady s (opEnd st why (stopJob s)) := opEnd_steady (stopJob_steady own)
  unfold endOp
  exact Steady.ite (pumpS0_steady (invalidateCache_steady ended)) ended

theorem abortForMode_steady {m} (own : s.replay.run = false) : Steady s (abortForMode m s) := by
  unfold abortForMode
  exact Steady.ite (endOp_steady own) Steady.refl

/-! ## What enters a mode leaves, beyond `Steady`, what `Lasting` names -/

theorem discardPubs_lasting (K : Lasting b0 s) : Lasting b0 (discardPubs s) := by
  unfold discardPubs
  extract_lets +onlyGivenNames drop
  have hdrop {ch x} (h : Lasting b0 x) : Lasting b0 (drop ch x) := by
    dsimp -zeta only [drop]
    extract_lets +onlyGivenNames n
    refine Lasting.ite h ?_
    unfold countWordBy
    exact setStatWord_lasting (modQueue_lasting h)
  clear_value drop
  exact hdrop (hdrop K)

theorem validateEp_lasting {n} (K : Lasting b0 s) : Lasting b0 (validateEp n s) := by
  have last {x : State} {c} (h : Lasting b0 x) : Lasting b0 (setLast n c x) := by
    unfold setLast; exact setStatByte_lasting h
  unfold validateEp
  refine Lasting.ite ?_ ?_
  · unfold passValidation
    exact Lasting.ite (last (setEstat_lasting (Lasting.upd K))) K
  · unfold failValidation
    extract_lets +onlyGivenNames _ s1
    have hs1 : Lasting b0 s1 := Lasting.ite K (Lasting.upd K)
    clear_value s1
    exact last (setEstat_lasting hs1)

theorem validateAll_lasting (K : Lasting b0 s) : Lasting b0 (validateAll s) := by
  unfold validateAll
  exact Lasting.foldl (fun _ _ h => validateEp_lasting h) K

theorem beginStaging_lasting (K : Lasting b0 s) : Lasting b0 (beginStaging s) := by
  unfold beginStaging
  extract_lets +onlyGivenNames b _ s1
  have hs1 : Lasting b0 s1 := Lasting.upd K
  clear_value s1
  exact modBank_lasting hs1

theorem lateReaction_lasting (K : Lasting b0 s) : Lasting b0 (lateReaction s) := by
  unfold lateReaction
  exact Lasting.ite (toLeadRein_lasting K) K

/-- `adapting_after`, for what `Lasting` names. -/
theorem adapting_lasts {f : State → State} : Lasting (f s) (adapting f s) :=
  settleCans_lasting (settlePins_lasting (settlePorts_lasting (purgeHeld_lasting Lasting.refl)))

theorem enterMode_lasting {m} : Lasting (setMode m (abortForMode m s)) (enterMode m s) := by
  unfold enterMode
  refine Lasting.trans ?_ adapting_lasts
  extract_lets +onlyGivenNames old s1
  have h1 : Lasting (setMode m (abortForMode m s)) s1 := commitsReady_lasting Lasting.refl
  clear_value s1
  extract_lets +onlyGivenNames s2
  have h2 : Lasting (setMode m (abortForMode m s)) s2 := staleWindows_lasting (Lasting.ite h1 (discardPubs_lasting h1))
  clear_value s2
  extract_lets +onlyGivenNames s3
  have h3 : Lasting (setMode m (abortForMode m s)) s3 := Lasting.ite (parkFailed_lasting h2) h2
  clear_value s3
  extract_lets +onlyGivenNames s4
  have h4 : Lasting (setMode m (abortForMode m s)) s4 := Lasting.ite (validateAll_lasting (resetCond_lasting h3)) h3
  clear_value s4
  exact lateReaction_lasting (Lasting.ite (beginStaging_lasting h4) h4)

end Sys2Proof.Proofs.Endings

/-! PROOFS. States that differ in the verdicts of their grants only: a grant makes such a pair, and the operations of the queues keep
one (R46, R48). -/

namespace Sys2Proof.Proofs.Grants

set_option Elab.async false

open Sys2Proof.Machine Sys2Proof.Safety Sys2Proof.Laws Sys2Proof.Proofs.Shared

/-- `t` is `s` but for the verdicts. -/
def Alike (s t : State) : Prop := ∃ w, t = { s with verdicts := w }

variable {s t u : State} {q : Nat} {who : Producer}

theorem Alike.refl : Alike s s := ⟨_, rfl⟩

theorem Alike.trans (h : Alike s t) (k : Alike t u) : Alike s u := by
  obtain ⟨w, rfl⟩ := h
  obtain ⟨w', rfl⟩ := k
  exact ⟨w', rfl⟩

theorem Alike.symm (h : Alike s t) : Alike t s := by
  obtain ⟨w, rfl⟩ := h
  exact ⟨s.verdicts, rfl⟩

theorem Alike.apart (h : Alike s t) : OnlyRecords s t := by
  obtain ⟨w, rfl⟩ := h
  exact OnlyRecords.upd OnlyRecords.refl

theorem grants_alike {l} : Alike s (grants l s) := ⟨_, grants_eq⟩

theorem grant_alike {p b} : Alike s (grant p b s) := ⟨_, grant_eq⟩

/-- Whatever is granted on either side. -/
theorem Alike.granted {l l'} (h : Alike s t) : Alike (grants l s) (grants l' t) :=
  (grants_alike.symm.trans h).trans grants_alike

theorem Alike.grant {p b p' b'} (h : Alike s t) : Alike (grant p b s) (Machine.grant p' b' t) :=
  (grant_alike.symm.trans h).trans grant_alike

theorem Alike.modQueue {f} (h : Alike s t) : Alike (modQueue q f s) (Machine.modQueue q f t) := by
  obtain ⟨w, rfl⟩ := h
  exact ⟨w, rfl⟩

theorem Alike.openOf (h : Alike s t) : openOf q who t = Machine.openOf q who s := by
  obtain ⟨w, rfl⟩ := h
  rfl

theorem Alike.writeOpen {bs} (h : Alike s t) : Alike (writeOpen q who bs s) (Machine.writeOpen q who bs t) := by
  have same := h.openOf (q := q) (who := who)
  unfold Machine.writeOpen
  rw [same]
  split
  · exact h
  · next o _ =>
    refine Alike.granted ?_
    obtain ⟨w, rfl⟩ := h
    exact ⟨w, rfl⟩

theorem Alike.serveStall (h : Alike s t) : Alike (serveStall s) (Machine.serveStall t) := by
  obtain ⟨w, rfl⟩ := h
  unfold Machine.serveStall
  dsimp only
  split
  · next q _ =>
    have same : queueOf q { s with verdicts := w } = queueOf q s := rfl
    rw [same]
    split
    · exact ⟨w, rfl⟩
    · exact Alike.grant (Alike.granted ⟨w, rfl⟩)
  · exact ⟨w, rfl⟩

theorem Alike.closeItem {last kind} (h : Alike s t) :
    Alike (closeItem q who last kind s) (Machine.closeItem q who last kind t) := by
  have written := h.writeOpen (q := q) (who := who) (bs := last)
  unfold Machine.closeItem
  dsimp only
  rw [written.openOf]
  split
  · exact written
  · next o _ =>
    split
    · refine Alike.grant ?_
      obtain ⟨w, e⟩ := written
      rw [e]
      exact ⟨w, rfl⟩
    · refine Alike.serveStall (Alike.grant ?_)
      have closed : Alike _ _ := written.modQueue (q := q)
        (f := fun x => { (x.unopen who) with items := x.items ++ [⟨o.prio, o.bytes, o.bad, kind, o.cells.take (cellsFor o.bytes.length)⟩] })
      split
      · exact closed.grant
      · exact closed

theorem Alike.hostOpen (h : Alike s t) : hostOpen t = Machine.hostOpen s := by
  obtain ⟨w, rfl⟩ := h
  rfl

theorem Alike.abandonItem (h : Alike s t) : Alike (abandonItem q who s) (Machine.abandonItem q who t) :=
  Alike.grant h.modQueue

/-- The host's open item is in no queue that a target port would load from. -/
theorem Alike.closeHostData (h : Alike s t) : Alike (closeHostData s) (Machine.closeHostData t) := by
  unfold Machine.closeHostData
  rw [h.hostOpen]
  split
  · next data =>
    have open61 : Machine.hostOpen s = some 61 := by simpa using data
    have notTarget : ¬ (38 ≤ 61 ∧ 61 < 42) := by decide
    simp only [Machine.closeHost, h.hostOpen, open61, h.openOf, notTarget, if_false]
    split
    · exact h
    · split
      · exact h.abandonItem
      · exact h.closeItem
  · exact h

/-! ## Records -/

/-- A state with other records only, written as one. -/
theorem records_form (h : OnlyRecords s t) :
    ∃ fault rein attn op pool tap verdicts seed, t = { s with
      fault := fault, rein := rein, attn := attn, op := op, pool := pool, tap := tap, verdicts := verdicts, seed := seed } := by
  obtain ⟨⟩ := t
  obtain ⟨⟨⟩, ⟨⟩, ⟨⟩, ⟨⟩, ⟨⟩, ⟨⟩, ⟨⟩, ⟨⟩, ⟨⟩, ⟨⟩, ⟨⟩, ⟨⟩, ⟨⟩, ⟨⟩, ⟨⟩, ⟨⟩, ⟨⟩⟩ := h
  exact ⟨_, _, _, _, _, _, _, _, rfl⟩

end Sys2Proof.Proofs.Grants

/-! PROOFS. Which parts of the state an operation may change. `Keeps P u t` says that `t` keeps the parts of `u` that `P` names: the
mode, PM_CTRL.LOCK, the pins' functions, the key slots, the counter, the tack store while no write job is in progress, and whether a wake
source has come early. One lemma for each operation says so for every `P`, without the parts that the operation changes. -/

namespace Sys2Proof.Proofs.Frame

set_option Elab.async false

open Sys2Proof.Machine

/-- Parts of the state that few commands change. -/
inductive Part where
  | mode
  | lock
  | pins
  | slots
  | counter
  | store
  | early

/-- A pin keeps its function, and its phase but for the begin of a transit (R31). -/
structure PinKept (p q : PinSt) : Prop where
  func : q.func = p.func
  act : q.act = p.act
  phase : q.phase = p.phase ∨ (p.phase = .quiesce ∧ q.phase = .transit)

theorem PinKept.refl {p : PinSt} : PinKept p p := ⟨rfl, rfl, .inl rfl⟩

theorem PinKept.trans {p q r : PinSt} (h : PinKept p q) (k : PinKept q r) : PinKept p r := by
  refine ⟨k.func.trans h.func, k.act.trans h.act, ?_⟩
  rcases k.phase with same | ⟨before, after⟩
  · rw [same]; exact h.phase
  · rcases h.phase with same | ⟨-, begun⟩
    · exact .inr ⟨same ▸ before, after⟩
    · rw [begun] at before; cases before

/-- Part `p` is the same in `u` and `t`. -/
def Same (u t : State) : Part → Prop
  | .mode => t.mode.cur = u.mode.cur
  | .lock => t.pins.lock = u.pins.lock
  | .pins => t.pins.pins.length = u.pins.pins.length ∧ ∀ i, PinKept (pinOf i u) (pinOf i t)
  | .slots => t.tack.slots = u.tack.slots
  | .counter => t.tack.counter = u.tack.counter
  | .store => u.tack.job = none → t.tack.job = none ∧ t.tack.mem = u.tack.mem
  | .early => t.power.earlyWake = u.power.earlyWake

/-- The parts that `P` names are the same in `u` and `t`. -/
structure Keeps (P : Part → Prop) (u t : State) : Prop where
  part : ∀ p, P p → Same u t p

/-- The fields of those parts. -/
@[reducible] def watch (s : State) : Mode × Bool × List PinSt × List KeySlot × Long × Option TackJob × Mem × Bool :=
  (s.mode.cur, s.pins.lock, s.pins.pins, s.tack.slots, s.tack.counter, s.tack.job, s.tack.mem, s.power.earlyWake)

variable {P : Part → Prop} {b0 s t : State}

theorem Same.trans {p : Part} (h : Same b0 s p) (k : Same s t p) : Same b0 t p := by
  cases p with
  | mode => exact Eq.trans k h
  | lock => exact Eq.trans k h
  | pins => exact ⟨k.1.trans h.1, fun i => (h.2 i).trans (k.2 i)⟩
  | slots => exact Eq.trans k h
  | counter => exact Eq.trans k h
  | store =>
    intro idle
    obtain ⟨free, same⟩ := h idle
    obtain ⟨free', same'⟩ := k free
    exact ⟨free', same'.trans same⟩
  | early => exact Eq.trans k h

theorem same_of_watch {p : Part} (e : watch t = watch s) : Same s t p := by
  injection e with cur e
  injection e with lock e
  injection e with pins e
  injection e with slots e
  injection e with counter e
  injection e with job e
  injection e with mem early
  cases p with
  | mode => exact cur
  | lock => exact lock
  | pins => exact ⟨congrArg _ pins, fun i => by rw [pinOf, pinOf, pins]; exact PinKept.refl⟩
  | slots => exact slots
  | counter => exact counter
  | store => exact fun idle => ⟨job.trans idle, mem⟩
  | early => exact early

theorem Keeps.refl : Keeps P s s := ⟨fun _ _ => same_of_watch rfl⟩

theorem Keeps.trans (h : Keeps P b0 s) (k : Keeps P s t) : Keeps P b0 t :=
  ⟨fun p hp => (h.part p hp).trans (k.part p hp)⟩

/-- An update of other fields. -/
theorem Keeps.upd (h : Keeps P b0 s) (e : watch t = watch s := by with_reducible rfl) : Keeps P b0 t :=
  Keeps.trans h ⟨fun _ _ => same_of_watch e⟩

/-- What keeps the parts of `P` but for `q`, and part `q` where `P` names it. -/
theorem Keeps.split (q : Part) (h : Keeps (fun p => P p ∧ p ≠ q) b0 s) (k : P q → Same b0 s q) : Keeps P b0 s := by
  refine ⟨fun p hp => ?_⟩
  by_cases e : p = q
  · subst e; exact k hp
  · exact h.part p ⟨hp, e⟩

theorem Keeps.mono {Q : Part → Prop} (h : Keeps P b0 s) (sub : ∀ p, Q p → P p) : Keeps Q b0 s :=
  ⟨fun p hp => h.part p (sub p hp)⟩

theorem Keeps.ite {c : Prop} [Decidable c] (hs : Keeps P b0 s) (ht : Keeps P b0 t) : Keeps P b0 (if c then s else t) := by
  split <;> assumption

theorem Keeps.iteR {c : Prop} [Decidable c] {r q : Reply} (hr : Keeps P b0 r.s) (hq : Keeps P b0 q.s) :
    Keeps P b0 (if c then r else q).s := by
  split <;> assumption

theorem Keeps.foldl {α : Type} {f : State → α → State} (hf : ∀ x a, Keeps P b0 x → Keeps P b0 (f x a)) {l : List α} :
    ∀ {s : State}, Keeps P b0 s → Keeps P b0 (l.foldl f s) := by
  induction l with
  | nil => exact fun h => h
  | cons a l ih => exact fun h => ih (hf _ a h)

/-! ## The parts that an operation changes -/

/-- An operation on a running write job may change the tack store. -/
theorem Keeps.working (h : Keeps P b0 s) (job : s.tack.job ≠ none) (k : Keeps (fun p => P p ∧ p ≠ .store) s t) : Keeps P b0 t := by
  refine Keeps.split .store (Keeps.trans (h.mono fun _ hp => hp.1) k) fun hp idle => absurd (h.part .store hp idle).1 job

/-- The mode changes. -/
theorem Keeps.newMode (h : Keeps P b0 s) (hp : ¬ P .mode)
    (e : watch { t with mode := s.mode } = watch s := by with_reducible rfl) : Keeps P b0 t :=
  Keeps.split .mode (Keeps.trans (h.mono fun _ hp => hp.1) ⟨fun p ⟨_, ne⟩ => by
    have same := same_of_watch (p := p) e
    cases p with
    | mode => exact absurd rfl ne
    | _ => exact same⟩) fun k => absurd k hp

/-- The tack store's bytes or its write job change. -/
theorem Keeps.newStore (h : Keeps P b0 s) (hp : ¬ P .store)
    (e : watch { t with tack := { t.tack with mem := s.tack.mem, job := s.tack.job } } = watch s := by with_reducible rfl) :
    Keeps P b0 t :=
  Keeps.split .store (Keeps.trans (h.mono fun _ hp => hp.1) ⟨fun p ⟨_, ne⟩ => by
    have same := same_of_watch (p := p) e
    cases p with
    | store => exact absurd rfl ne
    | _ => exact same⟩) fun k => absurd k hp

/-- A key slot changes. -/
theorem Keeps.newSlots (h : Keeps P b0 s) (hp : ¬ P .slots)
    (e : watch { t with tack := { t.tack with slots := s.tack.slots } } = watch s := by with_reducible rfl) : Keeps P b0 t :=
  Keeps.split .slots (Keeps.trans (h.mono fun _ hp => hp.1) ⟨fun p ⟨_, ne⟩ => by
    have same := same_of_watch (p := p) e
    cases p with
    | slots => exact absurd rfl ne
    | _ => exact same⟩) fun k => absurd k hp

/-- PM_CTRL.LOCK changes. -/
theorem Keeps.newLock (h : Keeps P b0 s) (hp : ¬ P .lock)
    (e : watch { t with pins := { t.pins with lock := s.pins.lock } } = watch s := by with_reducible rfl) : Keeps P b0 t :=
  Keeps.split .lock (Keeps.trans (h.mono fun _ hp => hp.1) ⟨fun p ⟨_, ne⟩ => by
    have same := same_of_watch (p := p) e
    cases p with
    | lock => exact absurd rfl ne
    | _ => exact same⟩) fun k => absurd k hp

/-- The pins change. -/
theorem Keeps.newPins (h : Keeps P b0 s) (hp : ¬ P .pins)
    (e : watch { t with pins := { t.pins with pins := s.pins.pins } } = watch s := by with_reducible rfl) : Keeps P b0 t :=
  Keeps.split .pins (Keeps.trans (h.mono fun _ hp => hp.1) ⟨fun p ⟨_, ne⟩ => by
    have same := same_of_watch (p := p) e
    cases p with
    | pins => exact absurd rfl ne
    | _ => exact same⟩) fun k => absurd k hp

/-- Whether a wake source has come early changes. -/
theorem Keeps.newEarly (h : Keeps P b0 s) (hp : ¬ P .early)
    (e : watch { t with power := { t.power with earlyWake := s.power.earlyWake } } = watch s := by with_reducible rfl) :
    Keeps P b0 t :=
  Keeps.split .early (Keeps.trans (h.mono fun _ hp => hp.1) ⟨fun p ⟨_, ne⟩ => by
    have same := same_of_watch (p := p) e
    cases p with
    | early => exact absurd rfl ne
    | _ => exact same⟩) fun k => absurd k hp

theorem modifyNth_of_le {α : Type} {f : α → α} {n : Nat} {l : List α} (h : l.length ≤ n) : modifyNth f n l = l := by
  induction l generalizing n with
  | nil => cases n <;> rfl
  | cons x l ih =>
    cases n with
    | zero => cases h
    | succ n => exact congrArg (x :: ·) (ih (Nat.le_of_succ_le_succ h))

end Sys2Proof.Proofs.Frame

/-! PROOFS. What every operation keeps of the parts of the state that few commands change, part 1 of 4: one lemma for each, in the order
of use. -/

namespace Sys2Proof.Proofs.Frame

set_option Elab.async false

open Sys2Proof.Machine Sys2Proof.Laws

variable {P : Part → Prop} {b0 : State}

theorem lost_keeps {n s} (K : Keeps P b0 s) : Keeps P b0 { s with pool := { s.pool with lost := n } } := Keeps.upd K

theorem drawn_keeps {s} (K : Keeps P b0 s) : Keeps P b0 (drawn s) := by
  unfold drawn; exact Keeps.upd K

theorem dropForced_keeps {p s} (K : Keeps P b0 s) : Keeps P b0 (dropForced p s) := by
  unfold dropForced; exact Keeps.upd K

theorem grant_keeps {p b s} (K : Keeps P b0 s) : Keeps P b0 (grant p b s) := by
  unfold grant; exact Keeps.ite (Keeps.ite (dropForced_keeps K) K) (Keeps.ite (Keeps.upd K) K)

theorem opProgress_keeps {n s} (K : Keeps P b0 s) : Keeps P b0 (opProgress n s) := by
  unfold opProgress; exact grant_keeps (Keeps.upd K)

theorem attend_keeps {n s} (K : Keeps P b0 s) : Keeps P b0 (attend n s) := by
  unfold attend
  extract_lets +onlyGivenNames s1
  have hs1 : Keeps P b0 s1 := Keeps.ite (grant_keeps (grant_keeps K)) K
  clear_value s1
  exact grant_keeps (Keeps.upd hs1)

theorem opEnd_keeps {st why s} (K : Keeps P b0 s) : Keeps P b0 (opEnd st why s) := by
  unfold opEnd; exact attend_keeps (grant_keeps (Keeps.upd K))

theorem scanCopies_keeps {s} (K : Keeps P b0 s) : Keeps P b0 (scanCopies s) := by
  unfold scanCopies
  extract_lets +onlyGivenNames marks ones
  exact Keeps.upd K

theorem tackFail_keeps {code s} (K : Keeps P b0 s) : Keeps P b0 (tackFail code s) := by
  unfold tackFail; exact Keeps.upd K

theorem tackWrite_keeps (hst : ¬ P .store) {o n bs s} (K : Keeps P b0 s) : Keeps P b0 (tackWrite o n bs s) := by
  unfold tackWrite; exact Keeps.newStore K hst

theorem grants_keeps {l s} (K : Keeps P b0 s) : Keeps P b0 (grants l s) := by
  unfold grants; exact Keeps.foldl (fun _ _ h1 => grant_keeps h1) K

theorem endJob_keeps (hst : ¬ P .store) {s} (K : Keeps P b0 s) : Keeps P b0 (endJob s) := by
  unfold endJob
  extract_lets +onlyGivenNames s1
  have hs1 : Keeps P b0 s1 := grants_keeps K
  clear_value s1
  exact Keeps.newStore hs1 hst

theorem buildImage_keeps (hst : ¬ P .store) {j s} (K : Keeps P b0 s) : Keeps P b0 (buildImage j s) := by
  unfold buildImage
  exact Keeps.ite (opEnd_keeps (scanCopies_keeps (tackFail_keeps (tackWrite_keeps hst (endJob_keeps hst K))))) (Keeps.newStore K hst)

theorem moveCommit_keeps {least s} (K : Keeps P b0 s) : Keeps P b0 (moveCommit least s) := by
  unfold moveCommit
  split
  · exact K
  · next j runs =>
    refine Keeps.ite K (Keeps.working K (by rw [runs]; exact Option.some_ne_none j) ?_)
    extract_lets +onlyGivenNames s1
    have hs1 : Keeps (fun p => P p ∧ p ≠ .store) s s1 := drawn_keeps (opProgress_keeps Keeps.refl)
    clear_value s1
    exact Keeps.ite (buildImage_keeps (fun h => h.2 rfl) hs1) hs1

theorem tearJob_keeps {s0} (K : Keeps P b0 s0) : Keeps P b0 (tearJob s0) := by
  unfold tearJob
  extract_lets +onlyGivenNames s
  have hs : Keeps P b0 s := moveCommit_keeps K
  clear_value s
  split
  · exact hs
  · next j runs =>
    have hst : ¬ (P Part.store ∧ Part.store ≠ .store) := fun h => h.2 rfl
    refine Keeps.working hs (by rw [runs]; exact Option.some_ne_none j) ?_
    extract_lets +onlyGivenNames _ s1
    have hs1 : Keeps (fun p => P p ∧ p ≠ .store) s s1 := drawn_keeps (endJob_keeps hst Keeps.refl)
    clear_value s1
    exact scanCopies_keeps (by
        split
        · exact tackWrite_keeps hst hs1
        · exact Keeps.ite (tackWrite_keeps hst hs1) (tackWrite_keeps hst hs1))

/-- What a reset may change (Table 04-2). -/
structure Loose (P : Part → Prop) : Prop where
  mode : ¬ P .mode
  lock : ¬ P .lock
  pins : ¬ P .pins
  early : ¬ P .early

theorem keepStore_keeps (free : Loose P) {s0 base} (K : Keeps P b0 s0) (idle : base.tack.job = none) :
    Keeps P b0 (keepStore s0 base) := by
  unfold keepStore
  extract_lets +onlyGivenNames s
  have h : Keeps P b0 s := tearJob_keeps K
  clear_value s
  refine Keeps.trans h ⟨fun p hp => ?_⟩
  cases p with
  | mode => exact absurd hp free.mode
  | lock => exact absurd hp free.lock
  | pins => exact absurd hp free.pins
  | early => exact absurd hp free.early
  | slots => rfl
  | counter => rfl
  | store => exact fun _ => ⟨idle, rfl⟩

theorem refuseMode_keeps {why s} (K : Keeps P b0 s) : Keeps P b0 (refuseMode why s) := by
  unfold refuseMode; exact Keeps.upd K

theorem setStatByte_keeps {a v s} (K : Keeps P b0 s) : Keeps P b0 (setStatByte a v s) := by
  unfold setStatByte; exact Keeps.upd K

theorem setEcr_keeps {n code s} (K : Keeps P b0 s) : Keeps P b0 (setEcr n code s) := by
  unfold setEcr; exact setStatByte_keeps K

theorem selectRefusal_keeps {c s t} (h : Keeps P b0 s) (e : selectRefusal c s = some t) : Keeps P b0 t := by
  unfold selectRefusal at e; repeat' split at e
  all_goals cases e
  all_goals exact tackFail_keeps h

theorem commitStartRefusal_keeps {c s t} (h : Keeps P b0 s) (e : commitStartRefusal c s = some t) : Keeps P b0 t := by
  unfold commitStartRefusal at e
  dsimp only at e
  split at e
  · cases e
    exact tackFail_keeps h
  · split at e
    · cases e
      exact tackFail_keeps h
    · split at e
      · cases e
        exact tackFail_keeps h
      · split at e
        · cases e
          exact Keeps.ite (tackFail_keeps (Keeps.ite (Keeps.upd h) h)) (Keeps.ite (Keeps.upd h) h)
        · cases e

theorem endpointRefusal_keeps {c s t} (h : Keeps P b0 s) (e : endpointRefusal c s = some t) : Keeps P b0 t := by
  unfold endpointRefusal at e; dsimp only at e; split at e
  · obtain ⟨n, -, rfl⟩ := Option.map_eq_some_iff.1 e; exact setEcr_keeps h
  · cases e; exact h

theorem farrierRefusal_keeps {s t} (h : Keeps P b0 s) (e : farrierRefusal s = some t) : Keeps P b0 t := by
  unfold farrierRefusal at e; repeat' split at e
  all_goals cases e
  all_goals exact refuseMode_keeps h

theorem eraseRefusal_keeps {c s t} (h : Keeps P b0 s) (e : eraseRefusal c s = some t) : Keeps P b0 t := by
  unfold eraseRefusal at e; repeat' split at e
  all_goals cases e
  all_goals exact tackFail_keeps h

theorem ownRefusal_keeps {c s x t} (h : Keeps P b0 s) (e : ownRefusal c s = some (x, t)) : Keeps P b0 t := by
  unfold ownRefusal at e; dsimp only at e; repeat' split at e
  all_goals first
    | (cases e; done)
    | (cases e; exact h)
    | (obtain ⟨t', e', he⟩ := Option.map_eq_some_iff.1 e; cases he
       first
        | exact selectRefusal_keeps h e' | exact commitStartRefusal_keeps h e' | exact endpointRefusal_keeps h e'
        | exact farrierRefusal_keeps h e' | exact eraseRefusal_keeps h e')

theorem firstFailure_keeps {c rf s r} (h : Keeps P b0 s) (e : firstFailure c rf s = some r) : Keeps P b0 r.2 := by
  unfold firstFailure at e; dsimp only at e; repeat' split at e
  all_goals first
    | (cases e; done)
    | (cases e; exact h)
    | (cases e; exact ownRefusal_keeps h ‹_›)

theorem conditionSample_keeps {p s x t} (h : Keeps P b0 s) (e : conditionSample p s = (x, t)) : Keeps P b0 t := by
  have : t = (conditionSample p s).2 := (congrArg Prod.snd e).symm
  subst this; unfold conditionSample; dsimp only; split
  · exact Keeps.upd h
  · exact h

theorem modSPort_keeps {p f s} (K : Keeps P b0 s) : Keeps P b0 (modSPort p f s) := by
  unfold modSPort; exact Keeps.upd K

theorem stickS_keeps {p n s} (K : Keeps P b0 s) : Keeps P b0 (stickS p n s) := by
  unfold stickS; exact modSPort_keeps K

theorem setStatWord_keeps {a v s} (K : Keeps P b0 s) : Keeps P b0 (setStatWord a v s) := by
  unfold setStatWord; exact Keeps.upd K

theorem safetySent_keeps {p sel failed s} (K : Keeps P b0 s) : Keeps P b0 (safetySent p sel failed s) := by
  unfold safetySent
  extract_lets +onlyGivenNames st
  exact setStatWord_keeps K

theorem countByte_keeps {a s} (K : Keeps P b0 s) : Keeps P b0 (countByte a s) := by
  unfold countByte; exact setStatByte_keeps K

theorem countSelect_keeps {p sel o s} (K : Keeps P b0 s) : Keeps P b0 (countSelect p sel o s) := by
  unfold countSelect; exact countByte_keeps K

theorem checkTrailer_keeps {p sel len rx s x t} (h : Keeps P b0 s) (e : checkTrailer p sel len rx s = (x, t)) : Keeps P b0 t := by
  unfold checkTrailer at e
  dsimp only at e
  split at e
  · cases e; exact Keeps.ite (countSelect_keeps (Keeps.ite (countSelect_keeps (setStatWord_keeps h)) (setStatWord_keeps h)))
      (Keeps.ite (countSelect_keeps (setStatWord_keeps h)) (setStatWord_keeps h))
  · cases e; exact countSelect_keeps h

theorem endByteFrame_keeps {p sel len rx s x t} (h : Keeps P b0 s) (e : endByteFrame p sel len rx s = (x, t)) : Keeps P b0 t := by
  unfold endByteFrame at e
  split at e
  · cases e; exact Keeps.ite (safetySent_keeps (checkTrailer_keeps h rfl)) (stickS_keeps (safetySent_keeps (checkTrailer_keeps h rfl)))
  · cases e; exact h

theorem releaseSelect_keeps {p s} (K : Keeps P b0 s) : Keeps P b0 (releaseSelect p s) := by
  unfold releaseSelect; exact modSPort_keeps K

theorem countWord_keeps {a s} (K : Keeps P b0 s) : Keeps P b0 (countWord a s) := by
  unfold countWord; exact setStatWord_keeps K

theorem countFrame_keeps {p s} (K : Keeps P b0 s) : Keeps P b0 (countFrame p s) := by
  unfold countFrame; exact countWord_keeps K

theorem holdSelect_keeps {p sel cont len s} (K : Keeps P b0 s) : Keeps P b0 (holdSelect p sel cont len s) := by
  unfold holdSelect; exact modSPort_keeps K

theorem abortFrame_keeps {p s} (K : Keeps P b0 s) : Keeps P b0 (abortFrame p s) := by
  unfold abortFrame; exact countWord_keeps (stickS_keeps (releaseSelect_keeps K))

theorem sEnd_keeps {p sel st out rx s x t} (h : Keeps P b0 s) (e : sEnd p sel st out rx s = (x, t)) : Keeps P b0 t := by
  unfold sEnd at e
  split at e <;> cases e
  · refine holdSelect_keeps ?_
    split
    · exact endByteFrame_keeps (countFrame_keeps h) rfl
    · exact countFrame_keeps h
  · exact abortFrame_keeps h
  all_goals exact releaseSelect_keeps h

theorem modQueue_keeps {q f s} (K : Keeps P b0 s) : Keeps P b0 (modQueue q f s) := by
  unfold modQueue; exact Keeps.upd K

theorem takeBlock_keeps {n s x y t} (h : Keeps P b0 s) (e : takeBlock n s = some (x, y, t)) : Keeps P b0 t := by
  induction n generalizing s with
  | zero => cases e
  | succ n ih =>
    unfold takeBlock at e; split at e
    · cases e
    · dsimp only at e; split at e
      · exact ih (modQueue_keeps (grants_keeps (modQueue_keeps h))) e
      · cases e; exact grants_keeps (modQueue_keeps h)

theorem gather_keeps {n need cur blocks s x y t} (h : Keeps P b0 s) (e : gather n need cur blocks s = (x, y, t)) : Keeps P b0 t := by
  induction n generalizing cur blocks s with
  | zero => cases e; exact h
  | succ n ih =>
    unfold gather at e; split at e
    · cases e; exact h
    · split at e
      · cases e; exact h
      · exact ih (takeBlock_keeps h ‹_›) e

theorem opPost_keeps {w0 w1 w2 w3 s} (K : Keeps P b0 s) : Keeps P b0 (opPost w0 w1 w2 w3 s) := by
  unfold opPost
  extract_lets +onlyGivenNames _
  exact Keeps.ite (grant_keeps (grant_keeps (Keeps.upd K))) (grant_keeps (Keeps.upd K))

theorem postFlushes_keeps {qs ended s x y t} (h : Keeps P b0 s) (e : postFlushes qs ended s = (x, y, t)) : Keeps P b0 t := by
  induction qs generalizing ended s with
  | nil => cases e; exact h
  | cons q qs ih =>
    unfold postFlushes at e; split at e
    · cases e; exact h
    · exact ih (opPost_keeps h) e

theorem tapDrawn_keeps {s} (K : Keeps P b0 s) : Keeps P b0 (tapDrawn s) := by
  unfold tapDrawn; exact Keeps.upd K

theorem streamOut_keeps {bs s} (K : Keeps P b0 s) : Keeps P b0 (streamOut bs s) := by
  unfold streamOut; exact Keeps.ite (Keeps.ite (tapDrawn_keeps (Keeps.upd K)) (tapDrawn_keeps (Keeps.upd K))) K

theorem dropOldest_keeps {q rest s} (K : Keeps P b0 s) : Keeps P b0 (dropOldest q rest s) := by
  unfold dropOldest; exact grants_keeps (modQueue_keeps K)

theorem makeRingRoom_keeps {n s} (h : Keeps P b0 s) : Keeps P b0 (makeRingRoom n s) := by
  induction n generalizing s with
  | zero => exact h
  | succ n ih =>
    unfold makeRingRoom; split
    · exact h
    · split
      · exact h
      · exact ih (Keeps.upd (dropOldest_keeps h))

theorem openItem_keeps {q n who prio s} (K : Keeps P b0 s) : Keeps P b0 (openItem q n who prio s) := by
  unfold openItem
  extract_lets +onlyGivenNames _
  exact modQueue_keeps (Keeps.upd K)

theorem reserve_keeps {q n who prio s t} (h : Keeps P b0 s) (e : reserve q n who prio s = some t) : Keeps P b0 t := by
  unfold reserve at e
  split at e
  · cases e
    exact grants_keeps (openItem_keeps h)
  · cases e

theorem haveBlock_keeps {s t} (h : Keeps P b0 s) (e : haveBlock s = some t) : Keeps P b0 t := by
  unfold haveBlock at e
  split at e
  · cases e
    exact h
  · exact reserve_keeps (makeRingRoom_keeps h) ‹_›

theorem hostDequeued_keeps {q x s} (K : Keeps P b0 s) : Keeps P b0 (hostDequeued q x s) := by
  unfold hostDequeued; exact grants_keeps (modQueue_keeps K)

theorem serveStall_keeps {s} (K : Keeps P b0 s) : Keeps P b0 (serveStall s) := by
  unfold serveStall
  split
  · split
    · exact K
    · exact grant_keeps (hostDequeued_keeps (Keeps.upd K))
  · exact K

theorem countFlushDrop_keeps {s} (K : Keeps P b0 s) : Keeps P b0 (countFlushDrop s) := by
  unfold countFlushDrop; exact Keeps.upd K

theorem putCells_keeps {cells i bs s} (K : Keeps P b0 s) : Keeps P b0 (putCells cells i bs s) := by
  unfold putCells; exact Keeps.upd K

theorem writeOpen_keeps {q who bs s} (K : Keeps P b0 s) : Keeps P b0 (writeOpen q who bs s) := by
  unfold writeOpen
  split
  · exact K
  · extract_lets +onlyGivenNames _ _
    exact grants_keeps (putCells_keeps (modQueue_keeps K))

theorem closeItem_keeps {q who bytes kind s} (K : Keeps P b0 s) : Keeps P b0 (closeItem q who bytes kind s) := by
  unfold closeItem
  extract_lets +onlyGivenNames s1
  have hs1 : Keeps P b0 s1 := writeOpen_keeps K
  clear_value s1
  split
  · exact hs1
  · exact Keeps.ite (grant_keeps (countFlushDrop_keeps (modQueue_keeps hs1))) (by
        extract_lets +onlyGivenNames _ s11
        have hs11 : Keeps P b0 s11 := modQueue_keeps hs1
        clear_value s11
        exact serveStall_keeps (grant_keeps (Keeps.ite (grant_keeps hs11) hs11)))

theorem abandonItem_keeps {q who s} (K : Keeps P b0 s) : Keeps P b0 (abandonItem q who s) := by
  unfold abandonItem; exact grant_keeps (modQueue_keeps K)

theorem closeBlock_keeps {s} (K : Keeps P b0 s) : Keeps P b0 (closeBlock s) := by
  unfold closeBlock; exact Keeps.ite (abandonItem_keeps K) (closeItem_keeps K)

theorem putRecord_keeps {type flags body s} (K : Keeps P b0 s) : Keeps P b0 (putRecord type flags body s) := by
  unfold putRecord
  extract_lets +onlyGivenNames _
  split
  · exact K
  · extract_lets +onlyGivenNames s2
    have hs2 : Keeps P b0 s2 := writeOpen_keeps (haveBlock_keeps (Keeps.ite (closeBlock_keeps K) K) ‹_›)
    clear_value s2
    exact streamOut_keeps (Keeps.upd hs2)

theorem recVerdicts_keeps {es s} (K : Keeps P b0 s) : Keeps P b0 (recVerdicts es s) := by
  unfold recVerdicts
  extract_lets +onlyGivenNames _ _
  exact putRecord_keeps K

theorem writeFull_keeps {n s} (h : Keeps P b0 s) : Keeps P b0 (writeFull n s) := by
  induction n generalizing s with
  | zero => exact h
  | succ n ih =>
    unfold writeFull; dsimp only; split
    · exact h
    · exact ih (recVerdicts_keeps (Keeps.upd h))

theorem tapAppend_keeps {type flags body s} (K : Keeps P b0 s) : Keeps P b0 (tapAppend type flags body s) := by
  unfold tapAppend; exact Keeps.ite (putRecord_keeps (writeFull_keeps K)) K

theorem recFault_keeps {code island detail s} (K : Keeps P b0 s) : Keeps P b0 (recFault code island detail s) := by
  unfold recFault; exact tapAppend_keeps K

theorem freeze_keeps {cause s} (K : Keeps P b0 s) : Keeps P b0 (freeze cause s) := by
  unfold freeze
  split
  · exact K
  · extract_lets +onlyGivenNames s1
    have hs1 : Keeps P b0 s1 := closeBlock_keeps K
    clear_value s1
    exact attend_keeps (Keeps.upd hs1)

theorem tapTrigger_keeps {n s} (K : Keeps P b0 s) : Keeps P b0 (tapTrigger n s) := by
  unfold tapTrigger; exact Keeps.ite (Keeps.ite (freeze_keeps K) (Keeps.upd K)) K

theorem logFault_keeps {code cls island detail s0} (K : Keeps P b0 s0) : Keeps P b0 (logFault code cls island detail s0) := by
  unfold logFault
  exact tapTrigger_keeps (recFault_keeps (attend_keeps (grant_keeps (grant_keeps (Keeps.upd K)))))

theorem tackWordAt_keeps {o s x' t'} (K : Keeps P b0 s) (e : tackWordAt o s = (x', t')) : Keeps P b0 t' := by
  unfold tackWordAt at e
  split at e
  · cases e
    exact drawn_keeps K
  · cases e
    exact K

theorem tackRead_keeps {o ecc s x t} (h : Keeps P b0 s) (e : tackRead o ecc s = (x, t)) : Keeps P b0 t := by
  have hw : Keeps P b0 (tackWordAt o s).2 := tackWordAt_keeps h rfl
  unfold tackRead at e; split at e
  · rw [e] at hw; exact hw
  · generalize tackWordAt o s = r at e hw; cases e; exact Keeps.upd hw
  · cases e; exact drawn_keeps (logFault_keeps (Keeps.upd h))

theorem readCached_keeps {a s x t} (h : Keeps P b0 s) (e : readCached a s = some (x, t)) : Keeps P b0 t := by
  unfold readCached at e
  split at e
  · cases e
  · cases e
    exact grants_keeps (modSPort_keeps h)

theorem modCan_keeps {ch f s} (K : Keeps P b0 s) : Keeps P b0 (modCan ch f s) := by
  unfold modCan; split <;> exact Keeps.upd K

theorem takeShadow_keeps {ch q s x t} (h : Keeps P b0 s) (e : takeShadow ch q s = some (x, t)) : Keeps P b0 t := by
  unfold takeShadow at e
  split at e
  · cases e
  · cases e
    exact grant_keeps (modCan_keeps h)

theorem takeItem_keeps {q s x t} (h : Keeps P b0 s) (e : takeItem q s = some (x, t)) : Keeps P b0 t := by
  unfold takeItem at e
  split at e
  · cases e
  · split at e
    · cases e
      exact grants_keeps (modQueue_keeps h)
    · cases e

theorem skipBad_keeps {n q s} (h : Keeps P b0 s) : Keeps P b0 (skipBad n q s) := by
  induction n generalizing s with
  | zero => exact h
  | succ n ih =>
    unfold skipBad; split
    · exact h
    · split
      · exact ih (takeItem_keeps h ‹_›)
      · exact h

theorem takeGood_keeps {n q s x t} (h : Keeps P b0 s) (e : takeGood n q s = some (x, t)) : Keeps P b0 t := by
  unfold takeGood at e
  exact takeItem_keeps (skipBad_keeps h) ‹_›

theorem putItem_keeps {q who prio bytes kind s t} (h : Keeps P b0 s) (e : putItem q who prio bytes kind s = some t) : Keeps P b0 t := by
  unfold putItem at e; split at e
  · cases e
  · cases e; exact closeItem_keeps (reserve_keeps h ‹_›)

theorem resetState_keeps (free : Loose P) {s} (K : Keeps P b0 s) : Keeps P b0 (keepStore s State.reset) :=
  keepStore_keeps free K rfl

theorem effPowerOnReset_keeps (free : Loose P) {s} (K : Keeps P b0 s) : Keeps P b0 (effPowerOnReset s) := by
  unfold effPowerOnReset; exact resetState_keeps free K

theorem withCause_keeps {cause s base} (hbase : Keeps P b0 base) : Keeps P b0 (withCause cause s base) := by
  unfold withCause; exact Keeps.upd hbase

theorem effBrownOutReset_keeps (free : Loose P) {core s} (K : Keeps P b0 s) : Keeps P b0 (effBrownOutReset core s) := by
  unfold effBrownOutReset; exact withCause_keeps (resetState_keeps free K)

theorem keepRing_keeps {s base} (hbase : Keeps P b0 base) : Keeps P b0 (keepRing s base) := by
  unfold keepRing; exact Keeps.ite (Keeps.upd hbase) hbase

theorem warmReset_keeps (free : Loose P) {cause s} (K : Keeps P b0 s) : Keeps P b0 (warmReset cause s) := by
  unfold warmReset
  extract_lets +onlyGivenNames b
  have hb : Keeps P b0 b := withCause_keeps (resetState_keeps free K)
  clear_value b
  exact keepRing_keeps (Keeps.upd hb)

theorem effResetPin_keeps (free : Loose P) {s} (K : Keeps P b0 s) : Keeps P b0 (effResetPin s) := by
  unfold effResetPin; exact warmReset_keeps free K

theorem effResetRelease_keeps {psel s} (K : Keeps P b0 s) : Keeps P b0 (effResetRelease psel s) := by
  unfold effResetRelease; exact Keeps.ite (Keeps.upd K) K

theorem effStartChecksDone_keeps {failed s} (K : Keeps P b0 s) : Keeps P b0 (effStartChecksDone failed s) := by
  unfold effStartChecksDone
  split
  · split
    · exact Keeps.upd K
    · exact logFault_keeps (Keeps.upd K)
  · exact K

theorem gainLock_keeps {s} (K : Keeps P b0 s) : Keeps P b0 (gainLock s) := by
  unfold gainLock; exact Keeps.ite K (attend_keeps (Keeps.upd K))

theorem loseLock_keeps {s} (K : Keeps P b0 s) : Keeps P b0 (loseLock s) := by
  unfold loseLock; exact Keeps.ite (attend_keeps (Keeps.upd K)) (Keeps.upd K)

theorem withdrawSync_keeps {s} (K : Keeps P b0 s) : Keeps P b0 (withdrawSync s) := by
  unfold withdrawSync
  extract_lets +onlyGivenNames drop
  have hdrop {ch} {s} (hs' : Keeps P b0 s) : Keeps P b0 (drop ch s) := by
    dsimp -zeta only [drop]
    extract_lets +onlyGivenNames s1
    have hs1 : Keeps P b0 s1 := modQueue_keeps hs'
    clear_value s1
    exact modCan_keeps hs1
  clear_value drop
  extract_lets +onlyGivenNames s1
  have hs1 : Keeps P b0 s1 := hdrop (hdrop (Keeps.ite (grants_keeps K) K))
  clear_value s1
  exact Keeps.upd hs1

theorem settleLead_keeps {s} (K : Keeps P b0 s) : Keeps P b0 (settleLead s) := by
  unfold settleLead
  split
  · extract_lets +onlyGivenNames _ s1
    have hs1 : Keeps P b0 s1 := Keeps.upd K
    clear_value s1
    exact Keeps.ite (gainLock_keeps hs1) (loseLock_keeps hs1)
  · exact Keeps.ite (withdrawSync_keeps (loseLock_keeps (Keeps.upd K))) K

theorem startCan_keeps {ch s} (K : Keeps P b0 s) : Keeps P b0 (startCan ch s) := by
  unfold startCan
  extract_lets +onlyGivenNames _ s1
  have hs1 : Keeps P b0 s1 := grant_keeps K
  clear_value s1
  exact modCan_keeps hs1

theorem canEvent_keeps {ch n s} (K : Keeps P b0 s) : Keeps P b0 (canEvent ch n s) := by
  unfold canEvent; exact attend_keeps (modCan_keeps K)

theorem refuseStart_keeps {ch why s} (K : Keeps P b0 s) : Keeps P b0 (refuseStart ch why s) := by
  unfold refuseStart; exact canEvent_keeps (modCan_keeps K)

theorem settleCan_keeps {ch s} (K : Keeps P b0 s) : Keeps P b0 (settleCan ch s) := by
  unfold settleCan
  extract_lets +onlyGivenNames on s1
  have hs1 : Keeps P b0 s1 := modCan_keeps K
  clear_value s1
  exact Keeps.ite (Keeps.ite (startCan_keeps hs1) (refuseStart_keeps hs1)) hs1

theorem settleCans_keeps {s} (K : Keeps P b0 s) : Keeps P b0 (settleCans s) := by
  unfold settleCans; exact settleLead_keeps (settleCan_keeps (settleCan_keeps K))

theorem modIPort_keeps {p f s} (K : Keeps P b0 s) : Keeps P b0 (modIPort p f s) := by
  unfold modIPort; exact Keeps.upd K

theorem modTPort_keeps {p f s} (K : Keeps P b0 s) : Keeps P b0 (modTPort p f s) := by
  unfold modTPort; exact Keeps.upd K

theorem loadTarget_keeps {p s} (K : Keeps P b0 s) : Keeps P b0 (loadTarget p s) := by
  unfold loadTarget
  split
  · split
    · exact K
    · extract_lets +onlyGivenNames n
      exact modSPort_keeps (takeGood_keeps K ‹_›)
  · exact K

theorem loadTargets_keeps {s} (K : Keeps P b0 s) : Keeps P b0 (loadTargets s) := by
  unfold loadTargets; exact Keeps.foldl (fun _ _ h0 => (loadTarget_keeps h0)) K

theorem settlePorts_keeps {old s} (hs : Keeps P b0 s) : Keeps P b0 (settlePorts old s) := by
  unfold settlePorts
  refine Keeps.foldl (fun _ _ h0 => ?_) (loadTargets_keeps hs)
  extract_lets +onlyGivenNames s1
  have hs1 : Keeps P b0 s1 := Keeps.ite (modIPort_keeps h0) h0
  clear_value s1
  extract_lets +onlyGivenNames s2
  have hs2 : Keeps P b0 s2 := Keeps.ite (modTPort_keeps hs1) hs1
  clear_value s2
  exact Keeps.ite (releaseSelect_keeps hs2) hs2

theorem setEstat_keeps {n b on s} (K : Keeps P b0 s) : Keeps P b0 (setEstat n b on s) := by
  unfold setEstat
  extract_lets +onlyGivenNames v
  exact setStatByte_keeps K

theorem purgeHeld_keeps {s} (K : Keeps P b0 s) : Keeps P b0 (purgeHeld s) := by
  unfold purgeHeld
  extract_lets +onlyGivenNames gone
  exact Keeps.foldl (fun _ _ h0 => (setEstat_keeps h0)) (Keeps.upd K)

/-- A change of a pin that keeps its function and begins at most a transit. -/
theorem modPin_keeps {i f s} (K : Keeps P b0 s) (hf : PinKept (pinOf i s) (f (pinOf i s))) : Keeps P b0 (modPin i f s) := by
  refine Keeps.trans K ⟨fun p hp => ?_⟩
  cases p with
  | mode => rfl
  | lock => rfl
  | pins =>
    refine ⟨modifyNth_length, fun j => ?_⟩
    by_cases inside : i < s.pins.pins.length
    · by_cases same : j = i
      · subst same
        rw [pinOf_modPin inside]
        exact hf
      · rw [pinOf_modPin_ne same]
        exact PinKept.refl
    · have untouched : (modPin i f s).pins.pins = s.pins.pins := modifyNth_of_le (Nat.not_lt.mp inside)
      rw [pinOf, pinOf, untouched]
      exact PinKept.refl
  | slots => rfl
  | counter => rfl
  | store => exact fun idle => ⟨idle, rfl⟩
  | early => rfl

/-- Any change of a pin. -/
theorem modPin_changes (hp : ¬ P .pins) {i f s} (K : Keeps P b0 s) : Keeps P b0 (modPin i f s) := by
  unfold modPin; exact Keeps.newPins K hp

theorem beginTransit_keeps {i s} (K : Keeps P b0 s) : Keeps P b0 (beginTransit i s) := by
  unfold beginTransit
  split
  · next waits => exact grant_keeps (drawn_keeps (modPin_keeps K ⟨rfl, rfl, .inr ⟨by simpa using waits, rfl⟩⟩))
  · exact K

theorem settlePin_keeps {old s i} (K : Keeps P b0 s) : Keeps P b0 (settlePin old s i) := by
  unfold settlePin
  extract_lets +onlyGivenNames s1
  have hs1 : Keeps P b0 s1 := by
    dsimp only [s1]
    split
    · exact modPin_keeps K ⟨rfl, rfl, .inl rfl⟩
    · exact K
  clear_value s1
  exact Keeps.ite (beginTransit_keeps hs1) hs1

theorem settlePins_keeps {old s} (K : Keeps P b0 s) : Keeps P b0 (settlePins old s) := by
  unfold settlePins; exact Keeps.foldl (fun _ _ h1 => settlePin_keeps h1) K

theorem adapting_keeps {f s} (hf : ∀ x, Keeps P b0 x → Keeps P b0 (f x)) (h : Keeps P b0 s) : Keeps P b0 (adapting f s) := by
  unfold adapting; exact settleCans_keeps (settlePins_keeps (settlePorts_keeps (purgeHeld_keeps (hf _ h))))

theorem setLast_keeps {n code s} (K : Keeps P b0 s) : Keeps P b0 (setLast n code s) := by
  unfold setLast; exact setStatByte_keeps K

theorem countEp_keeps {n o s} (K : Keeps P b0 s) : Keeps P b0 (countEp n o s) := by
  unfold countEp; exact countByte_keeps K

theorem orphanRun_keeps {n started s} (K : Keeps P b0 s) : Keeps P b0 (orphanRun n started s) := by
  unfold orphanRun
  extract_lets +onlyGivenNames s1
  have hs1 : Keeps P b0 s1 := setLast_keeps (setEstat_keeps K)
  clear_value s1
  exact Keeps.ite (setEstat_keeps (countEp_keeps hs1)) hs1

theorem modBank_keeps {b f s} (K : Keeps P b0 s) : Keeps P b0 (modBank b f s) := by
  unfold modBank; exact Keeps.ite (Keeps.upd K) (Keeps.ite (Keeps.upd K) (Keeps.ite (Keeps.upd K) K))

theorem putSlot_keeps {b n x s} (K : Keeps P b0 s) : Keeps P b0 (putSlot b n x s) := by
  unfold putSlot; exact modBank_keeps K

theorem markMiss_keeps {n due s} (K : Keeps P b0 s) : Keeps P b0 (markMiss n due s) := by
  unfold markMiss
  split
  · exact K
  · exact Keeps.ite (Keeps.ite (Keeps.upd K) (putSlot_keeps K)) (Keeps.upd K)

theorem missRun_keeps {n due code s} (K : Keeps P b0 s) : Keeps P b0 (missRun n due code s) := by
  unfold missRun
  extract_lets +onlyGivenNames s1
  have hs1 : Keeps P b0 s1 := markMiss_keeps (setLast_keeps (countEp_keeps (setEstat_keeps K)))
  clear_value s1
  exact Keeps.ite (tapTrigger_keeps hs1) hs1

theorem modLane_keeps {i f s} (K : Keeps P b0 s) : Keeps P b0 (modLane i f s) := by
  unfold modLane; exact Keeps.upd K

theorem openFrame_keeps {p who f s} (K : Keeps P b0 s) : Keeps P b0 (openFrame p who f s) := by
  unfold openFrame; exact grants_keeps (modSPort_keeps K)

theorem sendFrame_keeps {p who f out s} (K : Keeps P b0 s) : Keeps P b0 (sendFrame p who f out s) := by
  unfold sendFrame; exact modSPort_keeps (openFrame_keeps K)

theorem sendFill_keeps {l s} (K : Keeps P b0 s) : Keeps P b0 (sendFill l s) := by
  unfold sendFill
  extract_lets +onlyGivenNames _ _
  exact sendFrame_keeps K

theorem beginFill_keeps {l waited s} (K : Keeps P b0 s) : Keeps P b0 (beginFill l waited s) := by
  unfold beginFill; exact modSPort_keeps (sendFill_keeps K)

theorem startFill_keeps {s} (K : Keeps P b0 s) : Keeps P b0 (startFill s) := by
  unfold startFill
  split
  · exact Keeps.ite (beginFill_keeps K) K
  · exact K

theorem sendFlash_keeps {op addr data reads s} (K : Keeps P b0 s) : Keeps P b0 (sendFlash op addr data reads s) := by
  unfold sendFlash
  extract_lets +onlyGivenNames _ _
  exact countFrame_keeps (sendFrame_keeps K)

theorem startEnable_keeps {s} (K : Keeps P b0 s) : Keeps P b0 (startEnable s) := by
  unfold startEnable
  split
  · exact Keeps.ite (by
        extract_lets +onlyGivenNames s1
        have hs1 : Keeps P b0 s1 := sendFlash_keeps K
        clear_value s1
        exact Keeps.upd hs1) K
  · exact K

theorem sendSfdp_keeps {addr reads s} (K : Keeps P b0 s) : Keeps P b0 (sendSfdp addr reads s) := by
  unfold sendSfdp
  extract_lets +onlyGivenNames _ _
  exact sendFrame_keeps K

theorem startSfdp_keeps {s} (K : Keeps P b0 s) : Keeps P b0 (startSfdp s) := by
  unfold startSfdp; exact Keeps.ite (modSPort_keeps (sendSfdp_keeps K)) K

theorem pumpS0_keeps {s} (K : Keeps P b0 s) : Keeps P b0 (pumpS0 s) := by
  unfold pumpS0; exact startFill_keeps (startEnable_keeps (startSfdp_keeps K))

theorem dropHold_keeps {p s} (K : Keeps P b0 s) : Keeps P b0 (dropHold p s) := by
  unfold dropHold
  split
  · extract_lets +onlyGivenNames v
    exact setStatWord_keeps (modIPort_keeps K)
  · exact K

theorem sendI_keeps {p who bs s} (K : Keeps P b0 s) : Keeps P b0 (sendI p who bs s) := by
  unfold sendI; exact grants_keeps (modIPort_keeps K)

theorem startPt_keeps {p s} (K : Keeps P b0 s) : Keeps P b0 (startPt p s) := by
  unfold startPt; exact Keeps.ite (modIPort_keeps (dropHold_keeps (sendI_keeps K))) K

theorem pumpPort_keeps {n s} (K : Keeps P b0 s) : Keeps P b0 (pumpPort n s) := by
  unfold pumpPort; exact Keeps.ite (pumpS0_keeps K) (Keeps.ite (startPt_keeps K) K)

theorem releasePorts_keeps {i s} (K : Keeps P b0 s) : Keeps P b0 (releasePorts i s) := by
  unfold releasePorts
  extract_lets +onlyGivenNames _ s1
  have hs1 : Keeps P b0 s1 := Keeps.foldl (fun _ _ h2 => Keeps.ite (releaseSelect_keeps h2) h2) K
  clear_value s1
  extract_lets +onlyGivenNames s2
  have hs2 : Keeps P b0 s2 := modLane_keeps hs1
  clear_value s2
  exact Keeps.foldl (fun _ _ h2 => pumpPort_keeps h2) (grants_keeps hs2)

theorem clearLane_keeps {i s} (K : Keeps P b0 s) : Keeps P b0 (clearLane i s) := by
  unfold clearLane; exact grant_keeps (modLane_keeps K)

theorem cancelLane_keeps {i code s} (K : Keeps P b0 s) : Keeps P b0 (cancelLane i code s) := by
  unfold cancelLane
  extract_lets +onlyGivenNames _
  exact Keeps.ite K (by
      extract_lets +onlyGivenNames s1
      have hs1 : Keeps P b0 s1 := Keeps.ite K (Keeps.ite (grant_keeps (orphanRun_keeps K)) (missRun_keeps K))
      clear_value s1
      split
      · exact modLane_keeps hs1
      · exact clearLane_keeps (releasePorts_keeps hs1))

theorem cancelLanes_keeps {p code s} (K : Keeps P b0 s) : Keeps P b0 (cancelLanes p code s) := by
  unfold cancelLanes; exact Keeps.foldl (fun _ _ h0 => (Keeps.ite (cancelLane_keeps h0) h0)) K

theorem freeDrain_keeps {s} (K : Keeps P b0 s) : Keeps P b0 (freeDrain s) := by
  unfold freeDrain
  extract_lets +onlyGivenNames s1
  have hs1 : Keeps P b0 s1 := modQueue_keeps (abandonItem_keeps K)
  clear_value s1
  exact Keeps.upd hs1

theorem clearRun_keeps {n s} (K : Keeps P b0 s) : Keeps P b0 (clearRun n s) := by
  unfold clearRun
  extract_lets +onlyGivenNames v
  exact setStatByte_keeps K

theorem endReplay_keeps {s} (K : Keeps P b0 s) : Keeps P b0 (endReplay s) := by
  unfold endReplay
  split
  · extract_lets +onlyGivenNames eps t s1
    have hs1 : Keeps P b0 s1 := Keeps.foldl (fun _ _ h1 => clearRun_keeps h1) K
    clear_value s1
    exact Keeps.upd hs1
  · exact K

theorem stopJob_keeps {s} (K : Keeps P b0 s) : Keeps P b0 (stopJob s) := by
  unfold stopJob
  split
  · exact cancelLanes_keeps K
  · exact freeDrain_keeps K
  · exact Keeps.upd K
  · exact tearJob_keeps K
  · exact adapting_keeps (fun _ h2 => endReplay_keeps h2) K
  · exact K

theorem invalidateCache_keeps {s} (K : Keeps P b0 s) : Keeps P b0 (invalidateCache s) := by
  unfold invalidateCache; exact grant_keeps (modSPort_keeps K)

theorem endOp_keeps {st why s} (K : Keeps P b0 s) : Keeps P b0 (endOp st why s) := by
  unfold endOp
  extract_lets +onlyGivenNames s1
  have hs1 : Keeps P b0 s1 := opEnd_keeps (stopJob_keeps K)
  clear_value s1
  exact Keeps.ite (pumpS0_keeps (invalidateCache_keeps hs1)) hs1

theorem setDropped_keeps {u s} (K : Keeps P b0 s) : Keeps P b0 (setDropped u s) := by
  unfold setDropped; exact Keeps.ite (Keeps.upd K) (Keeps.ite (Keeps.upd K) (Keeps.upd K))

theorem stopRuns_keeps {s} (K : Keeps P b0 s) : Keeps P b0 (stopRuns s) := by
  unfold stopRuns
  extract_lets +onlyGivenNames _ s1
  have hs1 : Keeps P b0 s1 := Keeps.upd K
  clear_value s1
  extract_lets +onlyGivenNames s2
  have hs2 : Keeps P b0 s2 := Keeps.foldl (fun _ _ h1 => (missRun_keeps h1)) hs1
  clear_value s2
  extract_lets +onlyGivenNames s3
  have hs3 : Keeps P b0 s3 := Keeps.foldl (fun _ _ h1 => (orphanRun_keeps h1)) hs2
  clear_value s3
  exact cancelLanes_keeps hs3

theorem stopTime_keeps {s} (K : Keeps P b0 s) : Keeps P b0 (stopTime s) := by
  unfold stopTime
  extract_lets +onlyGivenNames s1
  have hs1 : Keeps P b0 s1 := loseLock_keeps (stopRuns_keeps K)
  clear_value s1
  exact Keeps.upd hs1

theorem recMode_keeps {old new hw prof first s} (K : Keeps P b0 s) : Keeps P b0 (recMode old new hw prof first s) := by
  unfold recMode; exact tapAppend_keeps K

theorem commitsReady_keeps {s} (K : Keeps P b0 s) : Keeps P b0 (commitsReady s) := by
  unfold commitsReady; exact Keeps.upd K

theorem setMode_keeps (hm : ¬ P .mode) {m s} (K : Keeps P b0 s) : Keeps P b0 (setMode m s) := by
  unfold setMode
  extract_lets +onlyGivenNames s1
  have hs1 : Keeps P b0 s1 := grant_keeps K
  clear_value s1
  exact Keeps.newMode hs1 hm

theorem abortForMode_keeps {m s} (K : Keeps P b0 s) : Keeps P b0 (abortForMode m s) := by
  unfold abortForMode; exact Keeps.ite (endOp_keeps K) K

theorem staleWindows_keeps {s} (K : Keeps P b0 s) : Keeps P b0 (staleWindows s) := by
  unfold staleWindows; exact Keeps.upd K

theorem countWordBy_keeps {a n s} (K : Keeps P b0 s) : Keeps P b0 (countWordBy a n s) := by
  unfold countWordBy; exact setStatWord_keeps K

theorem discardPubs_keeps {s} (K : Keeps P b0 s) : Keeps P b0 (discardPubs s) := by
  unfold discardPubs
  extract_lets +onlyGivenNames drop
  have hdrop {ch} {s} (hs' : Keeps P b0 s) : Keeps P b0 (drop ch s) := by
    dsimp -zeta only [drop]
    extract_lets +onlyGivenNames n
    exact Keeps.ite hs' (countWordBy_keeps (modQueue_keeps hs'))
  clear_value drop
  exact hdrop (hdrop K)

theorem parkPin_keeps (hp : ¬ P .pins) {i s} (K : Keeps P b0 s) : Keeps P b0 (parkPin i s) := by
  unfold parkPin; exact modPin_changes hp K

theorem parkPort_keeps (hp : ¬ P .pins) {n s} (K : Keeps P b0 s) : Keeps P b0 (parkPort n s) := by
  unfold parkPort
  extract_lets +onlyGivenNames s1
  have hs1 : Keeps P b0 s1 := Keeps.foldl (fun _ _ h1 => (Keeps.ite (parkPin_keeps hp h1) h1)) K
  clear_value s1
  exact Keeps.foldl (fun _ _ h0 => (Keeps.ite (parkPin_keeps hp h0) h0)) hs1

theorem parkFailed_keeps (hp : ¬ P .pins) {s} (K : Keeps P b0 s) : Keeps P b0 (parkFailed s) := by
  unfold parkFailed; exact Keeps.foldl (fun _ _ h0 => (Keeps.ite (parkPort_keeps hp h0) h0)) K

theorem passValidation_keeps {n s} (K : Keeps P b0 s) : Keeps P b0 (passValidation n s) := by
  unfold passValidation; exact Keeps.ite (setLast_keeps (setEstat_keeps (Keeps.upd K))) K

theorem failValidation_keeps {n s} (K : Keeps P b0 s) : Keeps P b0 (failValidation n s) := by
  unfold failValidation
  extract_lets +onlyGivenNames _ s1
  have hs1 : Keeps P b0 s1 := Keeps.ite K (Keeps.upd K)
  clear_value s1
  exact setLast_keeps (setEstat_keeps hs1)

theorem validateEp_keeps {n s} (K : Keeps P b0 s) : Keeps P b0 (validateEp n s) := by
  unfold validateEp; exact Keeps.ite (passValidation_keeps K) (failValidation_keeps K)

theorem validateAll_keeps {s} (K : Keeps P b0 s) : Keeps P b0 (validateAll s) := by
  unfold validateAll; exact Keeps.foldl (fun _ _ h0 => (validateEp_keeps h0)) K

theorem resetCond_keeps {s} (K : Keeps P b0 s) : Keeps P b0 (resetCond s) := by
  unfold resetCond; exact Keeps.upd K

theorem cancelRequest_keeps {s} (K : Keeps P b0 s) : Keeps P b0 (cancelRequest s) := by
  unfold cancelRequest; exact Keeps.ite (Keeps.upd K) K

theorem leadReinBy_keeps {path code s0} (K : Keeps P b0 s0) : Keeps P b0 (leadReinBy path code s0) := by
  unfold leadReinBy
  extract_lets +onlyGivenNames s
  have hs : Keeps P b0 s := grants_keeps K
  clear_value s
  exact Keeps.ite hs (Keeps.ite (Keeps.upd hs) (by
      extract_lets +onlyGivenNames s1
      have hs1 : Keeps P b0 s1 := cancelRequest_keeps hs
      clear_value s1
      exact Keeps.upd hs1))

theorem toLeadRein_keeps {code s} (K : Keeps P b0 s) : Keeps P b0 (toLeadRein code s) := by
  unfold toLeadRein; exact leadReinBy_keeps K

theorem lateReaction_keeps {s} (K : Keeps P b0 s) : Keeps P b0 (lateReaction s) := by
  unfold lateReaction; exact Keeps.ite (toLeadRein_keeps K) K

theorem beginStaging_keeps {s} (K : Keeps P b0 s) : Keeps P b0 (beginStaging s) := by
  unfold beginStaging
  extract_lets +onlyGivenNames b _ s1
  have hs1 : Keeps P b0 s1 := Keeps.upd K
  clear_value s1
  exact modBank_keeps hs1

theorem enterMode_keeps (hm : ¬ P .mode) (hp : ¬ P .pins) {m s0} (K : Keeps P b0 s0) : Keeps P b0 (enterMode m s0) := by
  unfold enterMode; exact (adapting_keeps (fun _ h0 => (by
        extract_lets +onlyGivenNames old s1
        have hs1 : Keeps P b0 s1 := commitsReady_keeps (setMode_keeps hm (abortForMode_keeps h0))
        clear_value s1
        extract_lets +onlyGivenNames s2
        have hs2 : Keeps P b0 s2 := staleWindows_keeps (Keeps.ite hs1 (discardPubs_keeps hs1))
        clear_value s2
        extract_lets +onlyGivenNames s3
        have hs3 : Keeps P b0 s3 := Keeps.ite (parkFailed_keeps hp hs2) hs2
        clear_value s3
        extract_lets +onlyGivenNames s4
        have hs4 : Keeps P b0 s4 := Keeps.ite (validateAll_keeps (resetCond_keeps hs3)) hs3
        clear_value s4
        exact (lateReaction_keeps (Keeps.ite (beginStaging_keeps hs4) hs4)))) K)

theorem endRecording_keeps {s} (K : Keeps P b0 s) : Keeps P b0 (endRecording s) := by
  unfold endRecording; exact Keeps.ite (Keeps.ite (freeze_keeps K) (Keeps.upd K)) K

theorem hardwareEntry_keeps {code s} (K : Keeps P b0 s) : Keeps P b0 (hardwareEntry code s) := by
  unfold hardwareEntry; exact tapTrigger_keeps (attend_keeps (Keeps.upd K))

theorem clockLoss_keeps (hm : ¬ P .mode) (hp : ¬ P .pins) {island detail s0} (K : Keeps P b0 s0) : Keeps P b0 (clockLoss island detail s0) := by
  unfold clockLoss; exact (Keeps.ite K (adapting_keeps (fun _ h0 => (by
        extract_lets +onlyGivenNames s1
        have hs1 : Keeps P b0 s1 := Keeps.ite (endOp_keeps h0) h0
        clear_value s1
        extract_lets +onlyGivenNames s2
        have hs2 : Keeps P b0 s2 := setDropped_keeps (logFault_keeps hs1)
        clear_value s2
        extract_lets +onlyGivenNames old
        split
        · exact stopTime_keeps (Keeps.upd hs2)
        · split
          · extract_lets +onlyGivenNames s3
            have hs3 : Keeps P b0 s3 := recMode_keeps (enterMode_keeps hm hp (stopTime_keeps (cancelRequest_keeps hs2)))
            clear_value s3
            exact endRecording_keeps (hardwareEntry_keeps hs3)
          · exact (stopTime_keeps hs2))) K))

theorem effRefclkMeasured_keeps (hm : ¬ P .mode) (hp : ¬ P .pins) {kHz s} (K : Keeps P b0 s) : Keeps P b0 (effRefclkMeasured kHz s) := by
  unfold effRefclkMeasured
  split
  · extract_lets +onlyGivenNames _ s1
    have hs1 : Keeps P b0 s1 := Keeps.upd K
    clear_value s1
    exact Keeps.ite (clockLoss_keeps hm hp hs1) hs1
  · exact K

theorem attachRing_keeps {s} (K : Keeps P b0 s) : Keeps P b0 (attachRing s) := by
  unfold attachRing; exact Keeps.ite K (modQueue_keeps (Keeps.upd K))

theorem effPllLock_keeps {slept s} (K : Keeps P b0 s) : Keeps P b0 (effPllLock slept s) := by
  unfold effPllLock
  exact Keeps.ite (by
      extract_lets +onlyGivenNames _
      exact attachRing_keeps (Keeps.upd K)) K

theorem loadHeader_keeps {h s} (K : Keeps P b0 s) : Keeps P b0 (loadHeader h s) := by
  unfold loadHeader
  extract_lets +onlyGivenNames at2
  exact Keeps.upd K

theorem endFault_keeps {code s} (K : Keeps P b0 s) : Keeps P b0 (endFault code s) := by
  unfold endFault; exact Keeps.upd K

theorem userOk_keeps {s} (K : Keeps P b0 s) : Keeps P b0 (userOk s) := by
  unfold userOk; exact endFault_keeps (endFault_keeps (Keeps.upd K))

theorem faultInvalid_keeps {area why s} (K : Keeps P b0 s) : Keeps P b0 (faultInvalid area why s) := by
  unfold faultInvalid; exact logFault_keeps K

theorem loadProfiles_keeps {s0} (K : Keeps P b0 s0) : Keeps P b0 (loadProfiles s0) := by
  unfold loadProfiles
  extract_lets +onlyGivenNames s
  have hs : Keeps P b0 s := scanCopies_keeps K
  clear_value s
  dsimp only
  generalize hfb : checkArea 4 s = fb
  have h1 : Keeps P b0 (match fb with
      | .ok p => { s with tack := { s.tack with fbOk := true }, cfg := { s.cfg with fallback := expandSections p.sections } }
      | .error _ => { s with tack := { s.tack with fbOk := false } }) := by
    split
    · exact Keeps.upd hs
    · exact Keeps.upd hs
  refine validateAll_keeps ?_
  revert h1
  cases fb <;> dsimp only <;> intro h1 <;> split
  · exact loadHeader_keeps (userOk_keeps (Keeps.upd h1))
  · exact logFault_keeps (faultInvalid_keeps (Keeps.upd h1))
  · exact loadHeader_keeps (userOk_keeps (Keeps.upd h1))
  · generalize hl : loadHeader _ _ = s2
    have h2 : Keeps P b0 s2 := hl ▸ loadHeader_keeps h1
    exact faultInvalid_keeps (Keeps.upd h2)

theorem firstBoundary_keeps {s} (K : Keeps P b0 s) : Keeps P b0 (firstBoundary s) := by
  unfold firstBoundary; exact Keeps.upd K

theorem konly_keeps {s b} (K : Keeps P b0 s) :
    Keeps P b0 { s with mode := { s.mode with konly := !s.tack.fbOk && !s.tack.usrOk }, power := { s.power with boot := b } } :=
  Keeps.upd K

theorem effResetProfileLoadDone_keeps (hm : ¬ P .mode) (hp : ¬ P .pins) {s} (K : Keeps P b0 s) : Keeps P b0 (effResetProfileLoadDone s) := by
  unfold effResetProfileLoadDone
  exact Keeps.ite (firstBoundary_keeps (hardwareEntry_keeps (enterMode_keeps hm hp (konly_keeps
    (loadProfiles_keeps (attachRing_keeps (grants_keeps K))))))) K

theorem endIfDisabled_keeps {s} (K : Keeps P b0 s) : Keeps P b0 (endIfDisabled s) := by
  unfold endIfDisabled; exact Keeps.ite (endRecording_keeps K) K

theorem recRein_keeps {win result a v winAddr s} (K : Keeps P b0 s) : Keeps P b0 (recRein win result a v winAddr s) := by
  unfold recRein; exact tapAppend_keeps K

theorem intoReply_keeps {r} (hr : Keeps P b0 r.s) : Keeps P b0 (intoReply r) := by
  unfold intoReply
  extract_lets +onlyGivenNames src
  have hsrc : Keeps P b0 src := hr
  clear_value src
  exact Keeps.upd hsrc

theorem writeReply_keeps {v r} (hr : Keeps P b0 r.s) : Keeps P b0 (writeReply v r) := by
  unfold writeReply; exact Keeps.ite hr (intoReply_keeps hr)

theorem goodWrite_keeps {a v r} (hr : Keeps P b0 r.s) : Keeps P b0 (goodWrite a v r) := by
  unfold goodWrite; exact endIfDisabled_keeps (recRein_keeps (writeReply_keeps hr))

theorem denied_keeps {s} (K : Keeps P b0 s) : Keeps P b0 (denied s).s := by
  unfold denied; exact K

theorem refusedInReplay_keeps {a v s} (K : Keeps P b0 s) : Keeps P b0 (refusedInReplay a v s).s := by
  unfold refusedInReplay; exact denied_keeps (Keeps.ite (Keeps.upd K) K)

theorem hostAt_keeps {points s} (K : Keeps P b0 s) : Keeps P b0 (hostAt points s) := by
  unfold hostAt; exact Keeps.ite K (grants_keeps K)

theorem writeRow_keeps {a v f s} (hf : ∀ x, Keeps P b0 x → Keeps P b0 (f x).s) (h : Keeps P b0 s) : Keeps P b0 (writeRow a v f s) := by
  unfold writeRow; exact Keeps.ite (goodWrite_keeps (Keeps.iteR (refusedInReplay_keeps h) (hf _ (hostAt_keeps h)))) h

theorem wrote_keeps {s} (K : Keeps P b0 s) : Keeps P b0 (wrote s).s := by
  unfold wrote; exact K

theorem leaveFarrier_keeps {s} (K : Keeps P b0 s) : Keeps P b0 (leaveFarrier s) := by
  unfold leaveFarrier
  extract_lets +onlyGivenNames s1
  have hs1 : Keeps P b0 s1 := Keeps.ite (endOp_keeps K) K
  clear_value s1
  exact Keeps.upd hs1

theorem takeSelection_keeps {s} (K : Keeps P b0 s) : Keeps P b0 (takeSelection s) := by
  unfold takeSelection
  extract_lets +onlyGivenNames s1
  have hs1 : Keeps P b0 s1 := grants_keeps K
  clear_value s1
  exact Keeps.upd hs1

theorem refreshStaging_keeps {s} (K : Keeps P b0 s) : Keeps P b0 (refreshStaging s) := by
  unfold refreshStaging
  split
  · exact Keeps.upd K
  · extract_lets +onlyGivenNames _ s1
    have hs1 : Keeps P b0 s1 := Keeps.upd K
    clear_value s1
    split
    · exact hs1
    · extract_lets +onlyGivenNames slots
      exact modBank_keeps hs1

theorem clearStatuses_keeps {s} (K : Keeps P b0 s) : Keeps P b0 (clearStatuses s) := by
  unfold clearStatuses
  exact Keeps.foldl (fun _ _ h => Keeps.ite (setEstat_keeps h) h)
    (Keeps.foldl (fun _ _ h => setEstat_keeps h) (Keeps.upd K))

theorem clearSelects_keeps {s} (K : Keeps P b0 s) : Keeps P b0 (clearSelects s) := by
  unfold clearSelects; exact Keeps.foldl (fun _ _ h1 => Keeps.foldl (fun _ _ h2 => setStatWord_keeps h2) h1) K

theorem expandUser_keeps {p s} (K : Keeps P b0 s) : Keeps P b0 (expandUser p s) := by
  unfold expandUser
  refine adapting_keeps (fun x h => ?_) K
  extract_lets +onlyGivenNames s
  have hs : Keeps P b0 s := invalidateCache_keeps (moveCommit_keeps h)
  clear_value s
  exact refreshStaging_keeps (staleWindows_keeps (resetCond_keeps (validateAll_keeps (clearSelects_keeps (clearStatuses_keeps
    (userOk_keeps (grant_keeps (loadHeader_keeps (Keeps.upd hs)))))))))

theorem emptyQueue_keeps {q s} (K : Keeps P b0 s) : Keeps P b0 (emptyQueue q s) := by
  unfold emptyQueue; exact grant_keeps (modQueue_keeps K)

theorem freeStaging_keeps {s} (K : Keeps P b0 s) : Keeps P b0 (freeStaging s) := by
  unfold freeStaging
  extract_lets +onlyGivenNames s1
  have hs1 : Keeps P b0 s1 := emptyQueue_keeps (abandonItem_keeps K)
  clear_value s1
  exact Keeps.upd hs1

theorem loseStaged_keeps {s} (K : Keeps P b0 s) : Keeps P b0 (loseStaged s) := by
  unfold loseStaged
  extract_lets +onlyGivenNames _ s1
  have hs1 : Keeps P b0 s1 := faultInvalid_keeps (Keeps.upd K)
  clear_value s1
  exact Keeps.ite (toLeadRein_keeps hs1) hs1

theorem applyStaged_keeps {s} (K : Keeps P b0 s) : Keeps P b0 (applyStaged s) := by
  unfold applyStaged
  extract_lets +onlyGivenNames s1
  have hs1 : Keeps P b0 s1 := by
    dsimp only [s1]
    split
    · exact expandUser_keeps K
    · exact loseStaged_keeps K
  clear_value s1
  exact freeStaging_keeps (Keeps.upd hs1)

theorem cancelSwitch_keeps {s} (K : Keeps P b0 s) : Keeps P b0 (cancelSwitch s) := by
  unfold cancelSwitch; exact Keeps.ite (freeStaging_keeps (Keeps.upd K)) K

theorem settleSwitch_keeps {s} (K : Keeps P b0 s) : Keeps P b0 (settleSwitch s) := by
  unfold settleSwitch; exact Keeps.ite (Keeps.ite (takeSelection_keeps (Keeps.upd K)) (applyStaged_keeps (takeSelection_keeps K))) (Keeps.ite K (cancelSwitch_keeps (grant_keeps K)))

theorem beginEntry_keeps (he : ¬ P .early) {prof s0} (K : Keeps P b0 s0) : Keeps P b0 (beginEntry prof s0) := by
  unfold beginEntry
  refine adapting_keeps (fun _ h1 => ?_) K
  extract_lets +onlyGivenNames _ s01
  have hs01 : Keeps P b0 s01 := grants_keeps h1
  clear_value s01
  extract_lets +onlyGivenNames _ _ s1
  have hs1 : Keeps P b0 s1 := Keeps.newEarly hs01 he
  clear_value s1
  extract_lets +onlyGivenNames s2
  have hs2 : Keeps P b0 s2 := settleSwitch_keeps (stopRuns_keeps (discardPubs_keeps (abortForMode_keeps hs1)))
  clear_value s2
  exact endRecording_keeps (recMode_keeps hs2)

theorem pendMode_keeps {m s} (K : Keeps P b0 s) : Keeps P b0 (pendMode m s) := by
  unfold pendMode; exact Keeps.upd K

theorem requestMode_keeps (he : ¬ P .early) {m s} (K : Keeps P b0 s) : Keeps P b0 (requestMode m s) := by
  unfold requestMode; exact Keeps.ite (Keeps.ite (Keeps.upd K) K) (Keeps.ite (Keeps.ite (refuseMode_keeps K) (Keeps.ite (refuseMode_keeps K) (Keeps.ite (beginEntry_keeps he K) (pendMode_keeps K)))) (Keeps.ite (refuseMode_keeps K) (pendMode_keeps K)))

theorem takeRequest_keeps (he : ¬ P .early) {req s} (K : Keeps P b0 s) : Keeps P b0 (takeRequest req s) := by
  unfold takeRequest
  extract_lets +onlyGivenNames s1
  have hs1 : Keeps P b0 s1 := grants_keeps K
  clear_value s1
  exact Keeps.ite (refuseMode_keeps hs1) (Keeps.ite (refuseMode_keeps hs1) (Keeps.ite (Keeps.ite (leaveFarrier_keeps hs1) (refuseMode_keeps hs1)) (requestMode_keeps he hs1)))

theorem modeReqWrite_keeps (free : Loose P) {v s0} (K : Keeps P b0 s0) : Keeps P b0 (modeReqWrite v s0).s := by
  unfold modeReqWrite
  extract_lets +onlyGivenNames req key reserved _ s
  have hs : Keeps P b0 s := Keeps.upd K
  clear_value s
  exact Keeps.iteR (denied_keeps hs) (Keeps.iteR (wrote_keeps (Keeps.ite (warmReset_keeps free hs) (refuseMode_keeps hs))) (Keeps.iteR (wrote_keeps (refuseMode_keeps hs)) (wrote_keeps (takeRequest_keeps free.early hs))))

theorem effModeRequest_keeps (free : Loose P) {v s} (K : Keeps P b0 s) : Keeps P b0 (effModeRequest v s) := by
  unfold effModeRequest; exact writeRow_keeps (fun _ h => modeReqWrite_keeps free h) K

theorem effResetRequest_keeps (free : Loose P) {s} (K : Keeps P b0 s) : Keeps P b0 (effResetRequest s) := by
  unfold effResetRequest; exact writeRow_keeps (fun _ h => modeReqWrite_keeps free h) K

theorem byApply_keeps {s} (K : Keeps P b0 s) : Keeps P b0 (byApply s) := by
  unfold byApply
  extract_lets +onlyGivenNames s1
  have hs1 : Keeps P b0 s1 := Keeps.ite K (grant_keeps K)
  clear_value s1
  exact settleLead_keeps (Keeps.upd hs1)

theorem endEpoch_keeps {b s} (K : Keeps P b0 s) : Keeps P b0 (endEpoch b s) := by
  unfold endEpoch
  extract_lets +onlyGivenNames s1
  have hs1 : Keeps P b0 s1 := grant_keeps K
  clear_value s1
  extract_lets +onlyGivenNames _
  exact Keeps.upd hs1

theorem failSwitch_keeps {s} (K : Keeps P b0 s) : Keeps P b0 (failSwitch s) := by
  unfold failSwitch
  extract_lets +onlyGivenNames _ s1
  have hs1 : Keeps P b0 s1 := takeSelection_keeps (Keeps.upd K)
  clear_value s1
  exact faultInvalid_keeps hs1

theorem checkStaged_keeps {s} (K : Keeps P b0 s) : Keeps P b0 (checkStaged s) := by
  unfold checkStaged
  exact Keeps.ite (by
      extract_lets +onlyGivenNames _ s1
      have hs1 : Keeps P b0 s1 := freeStaging_keeps (Keeps.upd K)
      clear_value s1
      exact Keeps.ite (Keeps.upd hs1) (Keeps.upd hs1)) K

theorem failAtBoundary_keeps {s} (K : Keeps P b0 s) : Keeps P b0 (failAtBoundary s) := by
  unfold failAtBoundary
  extract_lets +onlyGivenNames s1
  have hs1 : Keeps P b0 s1 := Keeps.ite (checkStaged_keeps K) K
  clear_value s1
  exact Keeps.ite (by
      extract_lets +onlyGivenNames s11
      have hs11 : Keeps P b0 s11 := failSwitch_keeps hs1
      clear_value s11
      exact Keeps.ite hs11 (leadReinBy_keeps hs11)) hs1

theorem settleAhead_keeps {keep s} (K : Keeps P b0 s) : Keeps P b0 (settleAhead keep s) := by
  unfold settleAhead
  extract_lets +onlyGivenNames ix goesOn _ s1
  have hs1 : Keeps P b0 s1 := Keeps.upd K
  clear_value s1
  extract_lets +onlyGivenNames s2
  have hs2 : Keeps P b0 s2 := Keeps.foldl (fun _ _ h1 => (Keeps.ite (Keeps.upd h1) (orphanRun_keeps h1))) hs1
  clear_value s2
  refine Keeps.foldl (fun _ _ h0 => ?_) hs2
  extract_lets +onlyGivenNames l
  exact Keeps.ite (Keeps.ite (modLane_keeps h0) (cancelLane_keeps h0)) h0

theorem recTime_keeps {start bound epoch afterGap number s0} (K : Keeps P b0 s0) : Keeps P b0 (recTime start bound epoch afterGap number s0) := by
  unfold recTime
  extract_lets +onlyGivenNames s
  have hs : Keeps P b0 s := Keeps.ite (closeBlock_keeps K) K
  clear_value s
  exact tapAppend_keeps hs

theorem applySwitch_keeps {s} (K : Keeps P b0 s) : Keeps P b0 (applySwitch s) := by
  unfold applySwitch
  extract_lets +onlyGivenNames _ s1
  have hs1 : Keeps P b0 s1 := Keeps.upd K
  clear_value s1
  exact Keeps.ite (staleWindows_keeps (takeSelection_keeps (Keeps.upd hs1))) (applyStaged_keeps (takeSelection_keeps hs1))

theorem takeTurn_keeps (hm : ¬ P .mode) (hp : ¬ P .pins) (he : ¬ P .early) {prof t s} (K : Keeps P b0 s) : Keeps P b0 (takeTurn prof t s) := by
  unfold takeTurn
  split
  · exact beginEntry_keeps he K
  · extract_lets +onlyGivenNames old s1
    have hs1 : Keeps P b0 s1 := recMode_keeps (enterMode_keeps hm hp K)
    clear_value s1
    extract_lets +onlyGivenNames s2
    have hs2 : Keeps P b0 s2 := Keeps.ite (hardwareEntry_keeps hs1) hs1
    clear_value s2
    exact Keeps.ite hs2 (endRecording_keeps hs2)

theorem turnAt_keeps (hm : ¬ P .mode) (hp : ¬ P .pins) (he : ¬ P .early) {turn switch s} (K : Keeps P b0 s) : Keeps P b0 (turnAt turn switch s) := by
  unfold turnAt
  extract_lets +onlyGivenNames _ s1
  have hs1 : Keeps P b0 s1 := Keeps.ite (applySwitch_keeps (grant_keeps K)) K
  clear_value s1
  split
  · exact takeTurn_keeps hm hp he (grant_keeps hs1)
  · exact Keeps.ite (recMode_keeps hs1) hs1

theorem startEpoch_keeps {b s} (K : Keeps P b0 s) : Keeps P b0 (startEpoch b s) := by
  unfold startEpoch
  extract_lets +onlyGivenNames w walk
  exact Keeps.upd K

theorem keyframeDue_keeps {s} (K : Keeps P b0 s) : Keeps P b0 (keyframeDue s) := by
  unfold keyframeDue; exact Keeps.upd K

theorem countKeyframe_keeps {s} (K : Keeps P b0 s) : Keeps P b0 (countKeyframe s) := by
  unfold countKeyframe; exact Keeps.ite (keyframeDue_keeps (Keeps.upd K)) (Keeps.upd K)

theorem writeParts_keeps {n first bs s} (h : Keeps P b0 s) : Keeps P b0 (writeParts n first bs s) := by
  induction n generalizing first bs s with
  | zero => exact h
  | succ n ih => unfold writeParts; exact Keeps.ite (putRecord_keeps h) (ih (putRecord_keeps h))

theorem takeKeyframe_keeps {s0} (K : Keeps P b0 s0) : Keeps P b0 (takeKeyframe s0) := by
  unfold takeKeyframe
  extract_lets +onlyGivenNames _ s
  have hs : Keeps P b0 s := Keeps.upd K
  clear_value s
  extract_lets +onlyGivenNames _ _ _ done
  have hdone : Keeps P b0 done := Keeps.upd hs
  clear_value done
  exact Keeps.ite (by
      extract_lets +onlyGivenNames _ s1
      have hs1 : Keeps P b0 s1 := Keeps.upd hdone
      clear_value s1
      exact Keeps.ite (endOp_keeps hs1) hs1) (by
      extract_lets +onlyGivenNames s1
      have hs1 : Keeps P b0 s1 := writeParts_keeps hdone
      clear_value s1
      exact Keeps.ite (endOp_keeps (opPost_keeps hs1)) hs1)

theorem startRecording_keeps {number s} (K : Keeps P b0 s) : Keeps P b0 (startRecording number s) := by
  unfold startRecording
  extract_lets +onlyGivenNames _ _ _ _ s1
  have hs1 : Keeps P b0 s1 := Keeps.upd K
  clear_value s1
  exact takeKeyframe_keeps (recTime_keeps hs1)

theorem tapEpoch_keeps {isQuiet number s} (K : Keeps P b0 s) : Keeps P b0 (tapEpoch isQuiet number s) := by
  unfold tapEpoch
  split
  · extract_lets +onlyGivenNames s1
    have hs1 : Keeps P b0 s1 := countKeyframe_keeps K
    clear_value s1
    exact Keeps.ite (takeKeyframe_keeps hs1) hs1
  · exact Keeps.ite (startRecording_keeps K) K

theorem addDue_keeps {n s} (K : Keeps P b0 s) : Keeps P b0 (addDue n s) := by
  unfold addDue
  extract_lets +onlyGivenNames _
  exact Keeps.ite K (Keeps.ite K (Keeps.ite (Keeps.upd K) (Keeps.ite (countEp_keeps K) (Keeps.upd K))))

theorem startAttempt_keeps {i pc trig s} (K : Keeps P b0 s) : Keeps P b0 (startAttempt i pc trig s) := by
  unfold startAttempt; exact modLane_keeps K

theorem startRun_keeps {i r ahead s} (K : Keeps P b0 s) : Keeps P b0 (startRun i r ahead s) := by
  unfold startRun; exact setEstat_keeps (setStatByte_keeps (startAttempt_keeps (modLane_keeps K)))

theorem dispatch_keeps {s} (K : Keeps P b0 s) : Keeps P b0 (dispatch s) := by
  unfold dispatch
  exact Keeps.foldl (fun _ _ h1 => Keeps.ite (by
      split
      · exact Keeps.ite h1 (startRun_keeps (grant_keeps (Keeps.upd h1)))
      · split
        · exact Keeps.ite h1 (startRun_keeps (grant_keeps (Keeps.upd h1)))
        · exact h1) h1) K

theorem missOwed_keeps {s} (K : Keeps P b0 s) : Keeps P b0 (missOwed s) := by
  unfold missOwed
  extract_lets +onlyGivenNames _
  exact Keeps.foldl (fun _ _ h2 => countEp_keeps h2) (Keeps.upd K)

theorem sortRuns_keeps {s} (K : Keeps P b0 s) : Keeps P b0 (sortRuns s) := by
  unfold sortRuns
  extract_lets +onlyGivenNames _
  exact Keeps.upd K

theorem dueRuns_keeps {s} (K : Keeps P b0 s) : Keeps P b0 (dueRuns s) := by
  unfold dueRuns
  extract_lets +onlyGivenNames s1
  have hs1 : Keeps P b0 s1 := missOwed_keeps K
  clear_value s1
  exact Keeps.ite (by
      extract_lets +onlyGivenNames _ s11
      have hs11 : Keeps P b0 s11 := Keeps.foldl (fun _ _ h4 => Keeps.ite (addDue_keeps h4) h4) (grant_keeps hs1)
      clear_value s11
      exact dispatch_keeps (sortRuns_keeps (Keeps.upd hs11))) hs1

theorem openEpoch_keeps {b isQuiet s} (K : Keeps P b0 s) : Keeps P b0 (openEpoch b isQuiet s) := by
  unfold openEpoch
  split
  · extract_lets +onlyGivenNames s1
    have hs1 : Keeps P b0 s1 := startEpoch_keeps K
    clear_value s1
    extract_lets +onlyGivenNames s2
    have hs2 : Keeps P b0 s2 := Keeps.ite (tapEpoch_keeps hs1) hs1
    clear_value s2
    exact Keeps.ite hs2 (dueRuns_keeps hs2)
  · exact Keeps.upd K

theorem markDrop_keeps {q s} (K : Keeps P b0 s) : Keeps P b0 (markDrop q s) := by
  unfold markDrop; exact modQueue_keeps K

theorem queueBoryel_keeps {o kind data s} (K : Keeps P b0 s) : Keeps P b0 (queueBoryel o kind data s) := by
  unfold queueBoryel
  extract_lets +onlyGivenNames _ _ _
  split
  · exact markDrop_keeps K
  · exact grant_keeps (putItem_keeps K ‹_›)

theorem leadBoundary_keeps {s0} (K : Keeps P b0 s0) : Keeps P b0 (leadBoundary s0) := by
  unfold leadBoundary
  extract_lets +onlyGivenNames s
  have hs : Keeps P b0 s := withdrawSync_keeps K
  clear_value s
  exact Keeps.ite (by
      split
      · exact hs
      · extract_lets +onlyGivenNames s1
        have hs1 : Keeps P b0 s1 := Keeps.ite (gainLock_keeps hs) hs
        clear_value s1
        extract_lets +onlyGivenNames _ _ s2
        have hs2 : Keeps P b0 s2 := Keeps.upd hs1
        clear_value s2
        exact queueBoryel_keeps (grant_keeps hs2)) hs

theorem setNextBoundary_keeps {b period s} (K : Keeps P b0 s) : Keeps P b0 (setNextBoundary b period s) := by
  unfold setNextBoundary
  extract_lets +onlyGivenNames slew
  exact Keeps.upd K

theorem writeBatch_keeps {s} (K : Keeps P b0 s) : Keeps P b0 (writeBatch s) := by
  unfold writeBatch; exact Keeps.ite K (recVerdicts_keeps (Keeps.upd K))

theorem baseBoundary_keeps (hm : ¬ P .mode) (hp : ¬ P .pins) (he : ¬ P .early) {b s0} (K : Keeps P b0 s0) : Keeps P b0 (baseBoundary b s0) := by
  unfold baseBoundary
  extract_lets +onlyGivenNames s01
  have hs01 : Keeps P b0 s01 := writeBatch_keeps (grants_keeps K)
  clear_value s01
  extract_lets +onlyGivenNames s1
  have hs1 : Keeps P b0 s1 := byApply_keeps (Keeps.upd hs01)
  clear_value s1
  extract_lets +onlyGivenNames _ _
  exact Keeps.ite (by
      extract_lets +onlyGivenNames _ s2
      have hs2 : Keeps P b0 s2 := Keeps.ite (endEpoch_keeps hs1) hs1
      clear_value s2
      extract_lets +onlyGivenNames s3
      have hs3 : Keeps P b0 s3 := failAtBoundary_keeps (commitsReady_keeps hs2)
      clear_value s3
      extract_lets +onlyGivenNames _ _ _ s4
      have hs4 : Keeps P b0 s4 := Keeps.ite (settleAhead_keeps hs3) hs3
      clear_value s4
      extract_lets +onlyGivenNames _ s5
      have hs5 : Keeps P b0 s5 := recTime_keeps hs4
      clear_value s5
      extract_lets +onlyGivenNames s6
      have hs6 : Keeps P b0 s6 := turnAt_keeps hm hp he hs5
      clear_value s6
      exact openEpoch_keeps (leadBoundary_keeps (setNextBoundary_keeps hs6))) (by
      extract_lets +onlyGivenNames _ s2
      have hs2 : Keeps P b0 s2 := Keeps.upd hs1
      clear_value s2
      exact leadBoundary_keeps (setNextBoundary_keeps (recTime_keeps hs2)))

theorem effBaseEpochBoundary_keeps (hm : ¬ P .mode) (hp : ¬ P .pins) (he : ¬ P .early) {s} (K : Keeps P b0 s) : Keeps P b0 (effBaseEpochBoundary s) := by
  unfold effBaseEpochBoundary
  split
  · exact K
  · split
    · extract_lets +onlyGivenNames c
      exact Keeps.upd K
    · exact baseBoundary_keeps hm hp he K

theorem countCan_keeps {ch o s} (K : Keeps P b0 s) : Keeps P b0 (countCan ch o s) := by
  unfold countCan; exact countWord_keeps K

theorem discardTx_keeps {ch s} (K : Keeps P b0 s) : Keeps P b0 (discardTx ch s) := by
  unfold discardTx; exact Keeps.ite (canEvent_keeps (countCan_keeps (modCan_keeps K))) K

end Sys2Proof.Proofs.Frame

/-! PROOFS. What every operation keeps of the parts of the state that few commands change, part 2 of 4: one lemma for each, in the order
of use. -/

namespace Sys2Proof.Proofs.Frame

set_option Elab.async false

open Sys2Proof.Machine Sys2Proof.Laws

variable {P : Part → Prop} {b0 : State}

theorem dropRxItem_keeps {ch s} (K : Keeps P b0 s) : Keeps P b0 (dropRxItem ch s) := by
  unfold dropRxItem
  extract_lets +onlyGivenNames s1
  have hs1 : Keeps P b0 s1 := by
    dsimp -zeta only [s1]
    split
    · split
      · exact abandonItem_keeps K
      · exact K
    · exact K
  clear_value s1
  exact modCan_keeps hs1

theorem stopCan_keeps {ch s} (K : Keeps P b0 s) : Keeps P b0 (stopCan ch s) := by
  unfold stopCan
  extract_lets +onlyGivenNames s1
  have hs1 : Keeps P b0 s1 := discardTx_keeps (dropRxItem_keeps K)
  clear_value s1
  exact settleLead_keeps (grants_keeps (modCan_keeps hs1))

theorem recPort_keeps {port kind ep outcome lane rx t s} (K : Keeps P b0 s) : Keeps P b0 (recPort port kind ep outcome lane rx t s) := by
  unfold recPort; exact tapAppend_keeps K

theorem freeLaneAt_keeps {i s} (K : Keeps P b0 s) : Keeps P b0 (freeLaneAt i s) := by
  unfold freeLaneAt; exact dispatch_keeps (clearLane_keeps K)

theorem probeRecords_keeps {buf high n off s} (h : Keeps P b0 s) : Keeps P b0 (probeRecords buf high n off s) := by
  induction n generalizing off s with
  | zero => exact h
  | succ n ih => unfold probeRecords; exact Keeps.ite h (ih (opPost_keeps h))

theorem endProbe_keeps {i code s} (K : Keeps P b0 s) : Keeps P b0 (endProbe i code s) := by
  unfold endProbe
  extract_lets +onlyGivenNames _ s1
  have hs1 : Keeps P b0 s1 := setLast_keeps (probeRecords_keeps K)
  clear_value s1
  extract_lets +onlyGivenNames s2
  have hs2 : Keeps P b0 s2 := purgeHeld_keeps (clearLane_keeps hs1)
  clear_value s2
  exact Keeps.ite (opEnd_keeps hs2) (opEnd_keeps hs2)

theorem endMissed_keeps {i code s} (K : Keeps P b0 s) : Keeps P b0 (endMissed i code s) := by
  unfold endMissed
  extract_lets +onlyGivenNames l s1
  have hs1 : Keeps P b0 s1 := missRun_keeps K
  clear_value s1
  extract_lets +onlyGivenNames _ s2
  have hs2 : Keeps P b0 s2 := Keeps.ite (Keeps.upd hs1) hs1
  clear_value s2
  exact freeLaneAt_keeps hs2

theorem failAttempt_keeps {i code s0} (K : Keeps P b0 s0) : Keeps P b0 (failAttempt i code s0) := by
  unfold failAttempt
  extract_lets +onlyGivenNames s
  have hs : Keeps P b0 s := releasePorts_keeps K
  clear_value s
  exact Keeps.ite (freeLaneAt_keeps hs) (Keeps.ite (endProbe_keeps hs) (Keeps.ite (modLane_keeps hs) (endMissed_keeps hs)))

theorem countXfer_keeps {p s} (K : Keeps P b0 s) : Keeps P b0 (countXfer p s) := by
  unfold countXfer; exact countWord_keeps K

theorem stickI_keeps {p n s} (K : Keeps P b0 s) : Keeps P b0 (stickI p n s) := by
  unfold stickI; exact modIPort_keeps K

theorem countNack_keeps {p s} (K : Keeps P b0 s) : Keeps P b0 (countNack p s) := by
  unfold countNack; exact countWord_keeps K

theorem countArbLost_keeps {p s} (K : Keeps P b0 s) : Keeps P b0 (countArbLost p s) := by
  unfold countArbLost; exact countWord_keeps (stickI_keeps (modIPort_keeps K))

theorem ptCount_keeps {p res s} (K : Keeps P b0 s) : Keeps P b0 (ptCount p res s) := by
  unfold ptCount
  split
  · exact countWord_keeps (countXfer_keeps K)
  · exact stickI_keeps (countNack_keeps K)
  · exact stickI_keeps (countNack_keeps K)
  · exact stickI_keeps (countArbLost_keeps K)
  · exact stickI_keeps K

theorem setPtStat_keeps {p res done hold s} (K : Keeps P b0 s) : Keeps P b0 (setPtStat p res done hold s) := by
  unfold setPtStat; exact setStatWord_keeps K

theorem ptEnd_keeps {p res done0 rx s} (K : Keeps P b0 s) : Keeps P b0 (ptEnd p res done0 rx s) := by
  unfold ptEnd
  exact ptCount_keeps (setPtStat_keeps (modIPort_keeps (Keeps.ite
    (Keeps.upd K) K)))

theorem ptCut_keeps {p res s} (K : Keeps P b0 s) : Keeps P b0 (ptCut p res s) := by
  unfold ptCut
  extract_lets +onlyGivenNames a ctl w done code rx _ s1
  have hs1 : Keeps P b0 s1 := Keeps.ite (Keeps.upd K) K
  clear_value s1
  exact drawn_keeps (stickI_keeps (setPtStat_keeps (modIPort_keeps hs1)))

theorem recTorn_keeps {i p outcome s} (K : Keeps P b0 s) : Keeps P b0 (recTorn i p outcome s) := by
  unfold recTorn
  extract_lets +onlyGivenNames s1
  have hs1 : Keeps P b0 s1 := recPort_keeps K
  clear_value s1
  exact Keeps.upd hs1

theorem failOnWire_keeps {p outcome code s} (K : Keeps P b0 s) : Keeps P b0 (failOnWire p outcome code s) := by
  unfold failOnWire
  split
  · exact K
  · extract_lets +onlyGivenNames s1
    have hs1 : Keeps P b0 s1 := recTorn_keeps K
    clear_value s1
    extract_lets +onlyGivenNames s2
    have hs2 : Keeps P b0 s2 := Keeps.ite (abortFrame_keeps hs1) hs1
    clear_value s2
    exact failAttempt_keeps (modLane_keeps hs2)

theorem cutTarget_keeps {p s} (K : Keeps P b0 s) : Keeps P b0 (cutTarget p s) := by
  unfold cutTarget; exact Keeps.ite (modSPort_keeps (abortFrame_keeps K)) K

theorem endSfdp_keeps {good s} (K : Keeps P b0 s) : Keeps P b0 (endSfdp good s) := by
  unfold endSfdp; exact pumpS0_keeps (modSPort_keeps K)

theorem cutWindow_keeps {s} (K : Keeps P b0 s) : Keeps P b0 (cutWindow s) := by
  unfold cutWindow
  extract_lets +onlyGivenNames s1
  have hs1 : Keeps P b0 s1 := Keeps.ite (modSPort_keeps (abortFrame_keeps K)) K
  clear_value s1
  exact Keeps.ite (endSfdp_keeps (abortFrame_keeps hs1)) hs1

theorem cutFlash_keeps {s} (K : Keeps P b0 s) : Keeps P b0 (cutFlash s) := by
  unfold cutFlash; exact Keeps.ite (Keeps.ite (endOp_keeps (drawn_keeps (abortFrame_keeps K))) (drawn_keeps K)) K

theorem cutS_keeps {p code s} (K : Keeps P b0 s) : Keeps P b0 (cutS p code s) := by
  unfold cutS
  extract_lets +onlyGivenNames s1
  have hs1 : Keeps P b0 s1 := cutTarget_keeps (failOnWire_keeps K)
  clear_value s1
  extract_lets +onlyGivenNames s2
  have hs2 : Keeps P b0 s2 := Keeps.ite (cutWindow_keeps (cutFlash_keeps hs1)) hs1
  clear_value s2
  exact Keeps.ite (releaseSelect_keeps hs2) hs2

theorem cutI_keeps {p code res s} (K : Keeps P b0 s) : Keeps P b0 (cutI p code res s) := by
  unfold cutI
  extract_lets +onlyGivenNames s1
  have hs1 : Keeps P b0 s1 := failOnWire_keeps (Keeps.ite (ptCut_keeps K) K)
  clear_value s1
  exact modIPort_keeps (dropHold_keeps hs1)

theorem stickT_keeps {p n s} (K : Keeps P b0 s) : Keeps P b0 (stickT p n s) := by
  unfold stickT; exact modTPort_keeps K

theorem sentSearch_keeps {p s} (K : Keeps P b0 s) : Keeps P b0 (sentSearch p s) := by
  unfold sentSearch; exact modTPort_keeps K

theorem sentFailWaiting_keeps {p slow s} (K : Keeps P b0 s) : Keeps P b0 (sentFailWaiting p slow s) := by
  unfold sentFailWaiting
  refine Keeps.foldl (fun _ _ h0 => ?_) K
  extract_lets +onlyGivenNames d
  exact Keeps.ite (failAttempt_keeps h0) h0

theorem recSent_keeps {p cls bytes t s} (K : Keeps P b0 s) : Keeps P b0 (recSent p cls bytes t s) := by
  unfold recSent; exact tapAppend_keeps K

theorem slowError_keeps {p bytes s} (K : Keeps P b0 s) : Keeps P b0 (slowError p bytes s) := by
  unfold slowError
  extract_lets +onlyGivenNames s1
  have hs1 : Keeps P b0 s1 := modTPort_keeps K
  clear_value s1
  exact sentFailWaiting_keeps (recSent_keeps (countWord_keeps (stickT_keeps hs1)))

theorem sentDiscard_keeps {p s} (K : Keeps P b0 s) : Keeps P b0 (sentDiscard p s) := by
  unfold sentDiscard
  extract_lets +onlyGivenNames s1
  have hs1 : Keeps P b0 s1 := sentSearch_keeps K
  clear_value s1
  exact sentFailWaiting_keeps (Keeps.ite hs1 (slowError_keeps hs1))

theorem lineSilent_keeps {p s} (K : Keeps P b0 s) : Keeps P b0 (lineSilent p s) := by
  unfold lineSilent
  extract_lets +onlyGivenNames s1
  have hs1 : Keeps P b0 s1 := countWord_keeps (stickT_keeps (modTPort_keeps K))
  clear_value s1
  exact sentDiscard_keeps (recSent_keeps hs1)

theorem abortPort_keeps {n s} (K : Keeps P b0 s) : Keeps P b0 (abortPort n s) := by
  unfold abortPort
  exact Keeps.ite (by
      extract_lets +onlyGivenNames _
      exact Keeps.ite (stopCan_keeps K) K) (Keeps.ite (cutS_keeps K) (Keeps.ite (Keeps.ite (cutI_keeps K) K) (Keeps.ite (lineSilent_keeps K) K)))

theorem attachPin_keeps (hp : ¬ P .pins) {i s} (K : Keeps P b0 s) : Keeps P b0 (attachPin i s) := by
  unfold attachPin; exact Keeps.ite (modPin_changes hp K) K

theorem putRx_keeps {p bytes s} (K : Keeps P b0 s) : Keeps P b0 (putRx p bytes s) := by
  unfold putRx
  split
  · exact putItem_keeps K ‹_›
  · exact markDrop_keeps (stickS_keeps K)

theorem runEntry_keeps {p e aborted rx s} (K : Keeps P b0 s) : Keeps P b0 (runEntry p e aborted rx s) := by
  unfold runEntry
  extract_lets +onlyGivenNames _
  exact Keeps.ite (by
      extract_lets +onlyGivenNames _ _ s1
      have hs1 : Keeps P b0 s1 := sendFrame_keeps K
      clear_value s1
      exact Keeps.ite (by
          extract_lets +onlyGivenNames _
          exact putRx_keeps (abortFrame_keeps hs1)) (by
          extract_lets +onlyGivenNames _ r
          have hr : Keeps P b0 r.2 := by
            dsimp only [r]
            split
            · exact hs1
            · exact endByteFrame_keeps hs1 rfl
          clear_value r
          extract_lets +onlyGivenNames s2
          have hs2 : Keeps P b0 s2 := holdSelect_keeps (countWord_keeps (countFrame_keeps hr))
          clear_value s2
          extract_lets +onlyGivenNames _
          exact putRx_keeps hs2)) (putRx_keeps (stickS_keeps (releaseSelect_keeps K)))

theorem tornEntry_keeps {p s} (K : Keeps P b0 s) : Keeps P b0 (tornEntry p s) := by
  unfold tornEntry
  exact Keeps.ite (by
      split
      · exact K
      · extract_lets +onlyGivenNames _
        exact Keeps.ite K (by
            extract_lets +onlyGivenNames _
            exact drawn_keeps (runEntry_keeps (takeItem_keeps K ‹_›)))) K

theorem effStabledQuiesceTimeout_keeps (hp : ¬ P .pins) {s} (K : Keeps P b0 s) : Keeps P b0 (effStabledQuiesceTimeout s) := by
  unfold effStabledQuiesceTimeout
  exact Keeps.ite (by
      extract_lets +onlyGivenNames s0
      have hs0 : Keeps P b0 s0 := Keeps.foldl (fun _ _ h3 => tornEntry_keeps h3) K
      clear_value s0
      extract_lets +onlyGivenNames s1
      have hs1 : Keeps P b0 s1 := Keeps.foldl (fun _ _ h3 => Keeps.ite (abortPort_keeps h3) h3) hs0
      clear_value s1
      extract_lets +onlyGivenNames s2
      have hs2 : Keeps P b0 s2 := cancelLanes_keeps hs1
      clear_value s2
      exact adapting_keeps (fun _ h3 => Keeps.foldl (fun _ _ h4 => attachPin_keeps hp (beginTransit_keeps h4)) h3) hs2) K

theorem clearStatus_keeps {n s} (K : Keeps P b0 s) : Keeps P b0 (clearStatus n s) := by
  unfold clearStatus; exact Keeps.upd K

theorem setStaging_keeps {n x s} (K : Keeps P b0 s) : Keeps P b0 (setStaging n x s) := by
  unfold setStaging
  extract_lets +onlyGivenNames s1
  have hs1 : Keeps P b0 s1 := putSlot_keeps K
  clear_value s1
  exact Keeps.ite (Keeps.upd hs1) hs1

theorem freshSlot_keeps {n atNextFill s} (K : Keeps P b0 s) : Keeps P b0 (freshSlot n atNextFill s) := by
  unfold freshSlot
  exact Keeps.ite (Keeps.upd K) (Keeps.ite K (by
      extract_lets +onlyGivenNames s1
      have hs1 : Keeps P b0 s1 := setStaging_keeps K
      clear_value s1
      exact Keeps.upd hs1))

theorem resetCondOf_keeps {n s} (K : Keeps P b0 s) : Keeps P b0 (resetCondOf n s) := by
  unfold resetCondOf; exact Keeps.upd K

theorem staleWindow_keeps {n s} (K : Keeps P b0 s) : Keeps P b0 (staleWindow n s) := by
  unfold staleWindow; exact Keeps.upd K

theorem freshStatus_keeps {n s} (K : Keeps P b0 s) : Keeps P b0 (freshStatus n s) := by
  unfold freshStatus
  extract_lets +onlyGivenNames s1
  have hs1 : Keeps P b0 s1 := Keeps.ite (setEstat_keeps (clearStatus_keeps K)) (clearStatus_keeps K)
  clear_value s1
  exact Keeps.ite (setEstat_keeps hs1) hs1

theorem freshEndpoint_keeps {e s} (K : Keeps P b0 s) : Keeps P b0 (freshEndpoint e s) := by
  unfold freshEndpoint
  extract_lets +onlyGivenNames s1
  have hs1 : Keeps P b0 s1 := Keeps.ite (freshStatus_keeps K) K
  clear_value s1
  extract_lets +onlyGivenNames s2
  have hs2 : Keeps P b0 s2 := Keeps.ite (resetCondOf_keeps hs1) hs1
  clear_value s2
  exact Keeps.ite (staleWindow_keeps hs2) hs2

theorem freshOwnSlot_keeps {e s} (K : Keeps P b0 s) : Keeps P b0 (freshOwnSlot e s) := by
  unfold freshOwnSlot; exact Keeps.ite (freshSlot_keeps K) K

theorem applyCommit_keeps {e s00} (K : Keeps P b0 s00) : Keeps P b0 (applyCommit e s00) := by
  unfold applyCommit
  extract_lets +onlyGivenNames s0
  have hs0 : Keeps P b0 s0 := moveCommit_keeps K
  clear_value s0
  have h1 : Keeps P b0 { s0 with
      cfg := { s0.cfg with user := commitInto e s0.cfg.user }
      poll := { s0.poll with commits := dropFirst (fun c => c == e) s0.poll.commits } } :=
    Keeps.upd hs0
  revert h1
  generalize { s0 with
      cfg := { s0.cfg with user := commitInto e s0.cfg.user }
      poll := { s0.poll with commits := dropFirst (fun c => c == e) s0.poll.commits } } = s
  intro hs
  extract_lets +onlyGivenNames _ s1
  have hs1 : Keeps P b0 s1 := setEcr_keeps (freshEndpoint_keeps hs)
  clear_value s1
  extract_lets +onlyGivenNames s2
  have hs2 : Keeps P b0 s2 := validateEp_keeps (purgeHeld_keeps (freshOwnSlot_keeps hs1))
  clear_value s2
  exact Keeps.ite hs1 (Keeps.ite (dispatch_keeps (sortRuns_keeps (addDue_keeps hs2))) hs2)

theorem dropVolatile_keeps {s} (K : Keeps P b0 s) : Keeps P b0 (dropVolatile s) := by
  unfold dropVolatile; exact Keeps.upd K

theorem beginWake_keeps {s} (K : Keeps P b0 s) : Keeps P b0 (beginWake s) := by
  unfold beginWake
  extract_lets +onlyGivenNames latch
  have hlatch {ch} {s} (hs' : Keeps P b0 s) : Keeps P b0 (latch ch s) := by
    dsimp -zeta only [latch]
    exact setStatWord_keeps hs'
  clear_value latch
  extract_lets +onlyGivenNames s1
  have hs1 : Keeps P b0 s1 := hlatch (hlatch K)
  clear_value s1
  exact grant_keeps (Keeps.upd hs1)

theorem sealHub_keeps (hm : ¬ P .mode) {sBefore} (K : Keeps P b0 sBefore) : Keeps P b0 (sealHub sBefore) := by
  unfold sealHub
  extract_lets +onlyGivenNames s00
  have hs00 : Keeps P b0 s00 := grants_keeps K
  clear_value s00
  extract_lets +onlyGivenNames s0
  have hs0 : Keeps P b0 s0 := Keeps.foldl (fun _ _ h2 => applyCommit_keeps h2) hs00
  clear_value s0
  extract_lets +onlyGivenNames _ s
  have hs : Keeps P b0 s := loseLock_keeps (Keeps.ite (applyStaged_keeps hs0) hs0)
  clear_value s
  extract_lets +onlyGivenNames s1
  have hs1 : Keeps P b0 s1 := Keeps.foldl (fun _ _ h2 => setEstat_keeps h2) hs
  clear_value s1
  extract_lets +onlyGivenNames s2
  have hs2 : Keeps P b0 s2 := setMode_keeps hm (dropVolatile_keeps hs1)
  clear_value s2
  extract_lets +onlyGivenNames _ _ s3
  have hs3 : Keeps P b0 s3 := Keeps.upd hs2
  clear_value s3
  exact Keeps.ite (beginWake_keeps (Keeps.upd hs3)) hs3

theorem effStabledSeal_keeps (hm : ¬ P .mode) {s} (K : Keeps P b0 s) : Keeps P b0 (effStabledSeal s) := by
  unfold effStabledSeal; exact Keeps.ite (adapting_keeps (fun _ h2 => sealHub_keeps hm h2) K) K

theorem effPwrHoldDrop_keeps {s} (K : Keeps P b0 s) : Keeps P b0 (effPwrHoldDrop s) := by
  unfold effPwrHoldDrop; exact Keeps.ite (grant_keeps (Keeps.upd K)) K

theorem causeBits_keeps {src feo s} (K : Keeps P b0 s) : Keeps P b0 (causeBits src feo s) := by
  unfold causeBits
  extract_lets +onlyGivenNames c
  exact Keeps.upd K

theorem firstSource_keeps {src s} (K : Keeps P b0 s) : Keeps P b0 (firstSource src s) := by
  unfold firstSource; exact Keeps.upd K

theorem fireWake_keeps (he : ¬ P .early) {src feo s} (K : Keeps P b0 s) : Keeps P b0 (fireWake src feo s) := by
  unfold fireWake
  extract_lets +onlyGivenNames s1
  have hs1 : Keeps P b0 s1 := grants_keeps K
  clear_value s1
  split
  · exact K
  · exact Keeps.ite (by
        extract_lets +onlyGivenNames s11
        have hs11 : Keeps P b0 s11 := causeBits_keeps (Keeps.ite hs1 (firstSource_keeps hs1))
        clear_value s11
        exact Keeps.newEarly hs11 he) K
  · exact beginWake_keeps (causeBits_keeps (firstSource_keeps hs1))
  · exact causeBits_keeps hs1

theorem effWakeDominantEdge_keeps (he : ¬ P .early) {ch s} (K : Keeps P b0 s) : Keeps P b0 (effWakeDominantEdge ch s) := by
  unfold effWakeDominantEdge; exact Keeps.ite (fireWake_keeps he K) K

theorem watchFrame_keeps {ch f s} (K : Keeps P b0 s) : Keeps P b0 (watchFrame ch f s) := by
  unfold watchFrame; exact Keeps.ite (modCan_keeps K) K

theorem effWakeFrame_keeps (he : ¬ P .early) {ch f s} (K : Keeps P b0 s) : Keeps P b0 (effWakeFrame ch f s) := by
  unfold effWakeFrame; exact Keeps.ite (fireWake_keeps he (watchFrame_keeps K)) K

theorem effWakeFrameErrorOverflow_keeps (he : ¬ P .early) {ch s} (K : Keeps P b0 s) : Keeps P b0 (effWakeFrameErrorOverflow ch s) := by
  unfold effWakeFrameErrorOverflow; exact Keeps.ite (fireWake_keeps he K) K

theorem effWakePinEdge_keeps (he : ¬ P .early) {rising s} (K : Keeps P b0 s) : Keeps P b0 (effWakePinEdge rising s) := by
  unfold effWakePinEdge; exact Keeps.ite (fireWake_keeps he K) K

theorem effWakeReinCs_keeps (he : ¬ P .early) {s} (K : Keeps P b0 s) : Keeps P b0 (effWakeReinCs s) := by
  unfold effWakeReinCs
  extract_lets +onlyGivenNames _ s1
  have hs1 : Keeps P b0 s1 := Keeps.ite (Keeps.upd K) K
  clear_value s1
  exact Keeps.ite (fireWake_keeps he hs1) hs1

theorem effWakeTimer_keeps (he : ¬ P .early) {s} (K : Keeps P b0 s) : Keeps P b0 (effWakeTimer s) := by
  unfold effWakeTimer; exact Keeps.ite (fireWake_keeps he K) K

theorem effWakeTargetEntry_keeps (hm : ¬ P .mode) (hp : ¬ P .pins) {suppliesLow s} (K : Keeps P b0 s) : Keeps P b0 (effWakeTargetEntry suppliesLow s) := by
  unfold effWakeTargetEntry
  exact Keeps.ite (by
      extract_lets +onlyGivenNames _ _ _ s1
      have hs1 : Keeps P b0 s1 := grants_keeps (Keeps.upd K)
      clear_value s1
      extract_lets +onlyGivenNames s2
      have hs2 : Keeps P b0 s2 := hardwareEntry_keeps (enterMode_keeps hm hp hs1)
      clear_value s2
      exact firstBoundary_keeps (Keeps.ite (endFault_keeps hs2) (Keeps.ite hs2 (logFault_keeps hs2)))) K

theorem exit_konly_keeps {s} (K : Keeps P b0 s) :
    Keeps P b0 { s with mode := { s.mode with farrierExit := false, konly := !s.tack.usrOk && !s.tack.fbOk } } := Keeps.upd K

theorem reloadProfiles_keeps {s} (K : Keeps P b0 s) : Keeps P b0 (reloadProfiles s) := by
  unfold reloadProfiles
  exact resetCond_keeps (exit_konly_keeps (loadProfiles_keeps (clearSelects_keeps (clearStatuses_keeps K))))

theorem effFarrierExitReload_keeps (hm : ¬ P .mode) (hp : ¬ P .pins) {s} (K : Keeps P b0 s) : Keeps P b0 (effFarrierExitReload s) := by
  unfold effFarrierExitReload
  split
  · extract_lets +onlyGivenNames s1
    have hs1 : Keeps P b0 s1 := reloadProfiles_keeps K
    clear_value s1
    exact Keeps.ite (enterMode_keeps hm hp hs1) (hardwareEntry_keeps (enterMode_keeps hm hp hs1))
  · exact K

theorem effEpochPulseEnd_keeps {s} (K : Keeps P b0 s) : Keeps P b0 (effEpochPulseEnd s) := by
  unfold effEpochPulseEnd; exact Keeps.upd K

theorem advance_keeps {t s} (K : Keeps P b0 s) : Keeps P b0 (advance t s) := by
  unfold advance; exact Keeps.ite K (Keeps.ite (Keeps.upd K) (Keeps.upd K))

theorem effHubTimeWrap_keeps {s} (K : Keeps P b0 s) : Keeps P b0 (effHubTimeWrap s) := by
  unfold effHubTimeWrap; exact Keeps.ite (advance_keeps K) K

theorem dropNotRun_keeps {ix s} (K : Keeps P b0 s) : Keeps P b0 (dropNotRun ix s) := by
  unfold dropNotRun
  extract_lets +onlyGivenNames late
  exact Keeps.foldl (fun _ _ h0 => (missRun_keeps h0)) (Keeps.upd K)

theorem finishFill_keeps {s} (K : Keeps P b0 s) : Keeps P b0 (finishFill s) := by
  unfold finishFill
  exact Keeps.ite (by
      extract_lets +onlyGivenNames _ s1
      have hs1 : Keeps P b0 s1 := modBank_keeps (grants_keeps K)
      clear_value s1
      exact Keeps.upd hs1) K

theorem recEpoch_keeps {mode crcv clipped skipped guard skip number crc cutoff s} (K : Keeps P b0 s) : Keeps P b0 (recEpoch mode crcv clipped skipped guard skip number crc cutoff s) := by
  unfold recEpoch; exact tapAppend_keeps K

theorem skipEpoch_keeps {e s0} (K : Keeps P b0 s0) : Keeps P b0 (skipEpoch e s0) := by
  unfold skipEpoch
  extract_lets +onlyGivenNames s
  have hs : Keeps P b0 s := grants_keeps (finishFill_keeps K)
  clear_value s
  extract_lets +onlyGivenNames _ _ _ _ s1
  have hs1 : Keeps P b0 s1 := modBank_keeps (Keeps.upd hs)
  clear_value s1
  exact recEpoch_keeps hs1

theorem reactToFailure_keeps (hp : ¬ P .pins) {code s} (K : Keeps P b0 s) : Keeps P b0 (reactToFailure code s) := by
  unfold reactToFailure
  split
  · split
    · exact Keeps.ite (opEnd_keeps (endReplay_keeps K)) K
    · exact Keeps.ite (opEnd_keeps K) K
    · exact K
  · exact Keeps.ite (toLeadRein_keeps (Keeps.ite K (parkFailed_keeps hp K))) (Keeps.ite (parkFailed_keeps hp K) K)

theorem dropTap_keeps {s} (K : Keeps P b0 s) : Keeps P b0 (dropTap s) := by
  unfold dropTap; exact Keeps.ite (Keeps.upd K) K

theorem dropUnit_keeps (hp : ¬ P .pins) {u code s} (K : Keeps P b0 s) : Keeps P b0 (dropUnit u code s) := by
  unfold dropUnit; exact Keeps.ite K (reactToFailure_keeps hp (dropTap_keeps (setDropped_keeps K)))

theorem snapUncorrectable_keeps (hp : ¬ P .pins) {off s} (K : Keeps P b0 s) : Keeps P b0 (snapUncorrectable off s) := by
  unfold snapUncorrectable
  extract_lets +onlyGivenNames det _ s1
  have hs1 : Keeps P b0 s1 := logFault_keeps (Keeps.upd K)
  clear_value s1
  exact Keeps.ite (dropUnit_keeps hp (logFault_keeps hs1)) hs1

theorem countPost_keeps {s} (K : Keeps P b0 s) : Keeps P b0 (countPost s) := by
  unfold countPost; exact Keeps.ite (Keeps.ite (freeze_keeps K) (Keeps.upd K)) K

theorem recCommitted_keeps {k crcv s} (K : Keeps P b0 s) : Keeps P b0 (recCommitted k crcv s) := by
  unfold recCommitted; exact recEpoch_keeps K

theorem releasePin_keeps {s} (K : Keeps P b0 s) : Keeps P b0 (releasePin s) := by
  unfold releasePin; exact Keeps.upd K

theorem expirePin_keeps {s} (K : Keeps P b0 s) : Keeps P b0 (expirePin s) := by
  unfold expirePin
  exact Keeps.ite K (by
      extract_lets +onlyGivenNames s1
      have hs1 : Keeps P b0 s1 := releasePin_keeps K
      clear_value s1
      exact grants_keeps (attend_keeps (Keeps.upd hs1)))

theorem commitBank_keeps {e s0} (K : Keeps P b0 s0) : Keeps P b0 (commitBank e s0) := by
  unfold commitBank
  extract_lets +onlyGivenNames s
  have hs : Keeps P b0 s := finishFill_keeps K
  clear_value s
  extract_lets +onlyGivenNames _ _ s1
  have hs1 : Keeps P b0 s1 := modBank_keeps hs
  clear_value s1
  extract_lets +onlyGivenNames _ s2
  have hs2 : Keeps P b0 s2 := Keeps.upd hs1
  clear_value s2
  extract_lets +onlyGivenNames _ _ s3
  have hs3 : Keeps P b0 s3 := grants_keeps (attend_keeps (Keeps.upd hs2))
  clear_value s3
  extract_lets +onlyGivenNames s4
  have hs4 : Keeps P b0 s4 := Keeps.ite (countPost_keeps (recCommitted_keeps hs3)) hs3
  clear_value s4
  exact Keeps.ite (Keeps.ite (expirePin_keeps hs4) (Keeps.upd hs4)) hs4

theorem buildPub_keeps {ch i s} (K : Keeps P b0 s) : Keeps P b0 (buildPub ch i s) := by
  unfold buildPub
  extract_lets +onlyGivenNames _ _
  split
  · exact grants_keeps (countWord_keeps (putItem_keeps K ‹_›))
  · exact canEvent_keeps (countWord_keeps (markDrop_keeps K))

theorem losePub_keeps {ch i off s} (K : Keeps P b0 s) : Keeps P b0 (losePub ch i off s) := by
  unfold losePub; exact canEvent_keeps (countWord_keeps (logFault_keeps K))

theorem publishOn_keeps {ch e bad s} (K : Keeps P b0 s) : Keeps P b0 (publishOn ch e bad s) := by
  unfold publishOn
  extract_lets +onlyGivenNames _
  refine Keeps.ite (Keeps.foldl (fun _ _ h3 => Keeps.ite ?_ h3) (grants_keeps K)) K
  split
  · exact losePub_keeps h3
  · exact buildPub_keeps h3

theorem publish_keeps {e bad s} (K : Keeps P b0 s) : Keeps P b0 (publish e bad s) := by
  unfold publish; exact publishOn_keeps (publishOn_keeps K)

theorem cutoff_keeps (hp : ¬ P .pins) {e ecc s0} (K : Keeps P b0 s0) : Keeps P b0 (cutoff e ecc s0) := by
  unfold cutoff
  extract_lets +onlyGivenNames s
  have hs : Keeps P b0 s := dropNotRun_keeps (Keeps.upd K)
  clear_value s
  have h1 : Keeps P b0 (if unitFailed 17 s then { s with time := { s.time with ended := none } }
      else match ecc.staging with
        | some off => skipEpoch e (snapUncorrectable off s)
        | none => if s.snap.recovering then skipEpoch e s
          else if sleeping (commitBank e s) then commitBank e s
          else publish (commitBank e s).snap.epoch.toNat ecc.builds (commitBank e s)) := by
    refine Keeps.ite (Keeps.upd hs) ?_
    split
    · exact skipEpoch_keeps (snapUncorrectable_keeps hp hs)
    · exact Keeps.ite (skipEpoch_keeps hs) (Keeps.ite (commitBank_keeps hs) (publish_keeps (commitBank_keeps hs)))
  exact Keeps.ite h1 (cancelLanes_keeps h1)

theorem userUncorrectable_keeps {w s0} (K : Keeps P b0 s0) : Keeps P b0 (userUncorrectable w s0) := by
  unfold userUncorrectable
  extract_lets +onlyGivenNames _ s
  have hs : Keeps P b0 s := logFault_keeps (Keeps.upd K)
  clear_value s
  exact Keeps.ite (toLeadRein_keeps hs) hs

theorem configUncorrectable_keeps {w s} (K : Keeps P b0 s) : Keeps P b0 (configUncorrectable w s) := by
  unfold configUncorrectable
  exact Keeps.ite (adapting_keeps (fun _ h => stopRuns_keeps (Keeps.upd (logFault_keeps h))) K) (userUncorrectable_keeps K)

theorem effSnapshotCommit_keeps (hp : ¬ P .pins) {ecc s} (K : Keeps P b0 s) : Keeps P b0 (effSnapshotCommit ecc s) := by
  unfold effSnapshotCommit
  split
  · exact K
  · refine Keeps.ite K ?_
    split
    · exact configUncorrectable_keeps (cutoff_keeps hp K)
    · exact cutoff_keeps hp K

theorem effForwardFillEnd_keeps {s} (K : Keeps P b0 s) : Keeps P b0 (effForwardFillEnd s) := by
  unfold effForwardFillEnd; exact finishFill_keeps K

theorem effBankCrcWritten_keeps {s} (K : Keeps P b0 s) : Keeps P b0 (effBankCrcWritten s) := by
  unfold effBankCrcWritten
  extract_lets +onlyGivenNames b
  split
  · exact K
  · extract_lets +onlyGivenNames s1
    have hs1 : Keeps P b0 s1 := modBank_keeps K
    clear_value s1
    exact countPost_keeps (recCommitted_keeps hs1)

theorem snapPinWrite_keeps {v s0} (K : Keeps P b0 s0) : Keeps P b0 (snapPinWrite v s0).s := by
  unfold snapPinWrite
  extract_lets +onlyGivenNames _ _ s
  have hs : Keeps P b0 s := grants_keeps (Keeps.upd K)
  clear_value s
  exact Keeps.iteR (Keeps.iteR (denied_keeps hs) (wrote_keeps (Keeps.upd hs))) (wrote_keeps (releasePin_keeps hs))

theorem effSnapPinSet_keeps {tmo clearLost s} (K : Keeps P b0 s) : Keeps P b0 (effSnapPinSet tmo clearLost s) := by
  unfold effSnapPinSet
  extract_lets +onlyGivenNames v
  exact writeRow_keeps (fun _ h => snapPinWrite_keeps h) K

theorem effSnapPinRelease_keeps {tmo clearLost s} (K : Keeps P b0 s) : Keeps P b0 (effSnapPinRelease tmo clearLost s) := by
  unfold effSnapPinRelease
  extract_lets +onlyGivenNames v
  exact writeRow_keeps (fun _ h => snapPinWrite_keeps h) K

theorem effSnapPinExpiry_keeps {s} (K : Keeps P b0 s) : Keeps P b0 (effSnapPinExpiry s) := by
  unfold effSnapPinExpiry; exact Keeps.ite K (expirePin_keeps K)

theorem effBoryelLockLossTimeout_keeps {s} (K : Keeps P b0 s) : Keeps P b0 (effBoryelLockLossTimeout s) := by
  unfold effBoryelLockLossTimeout; exact Keeps.ite K (loseLock_keeps K)

theorem effBoryelLeadResume_keeps {s} (K : Keeps P b0 s) : Keeps P b0 (effBoryelLeadResume s) := by
  unfold effBoryelLeadResume; exact Keeps.ite (settleLead_keeps (Keeps.upd K)) K

theorem winDone_keeps {w r} (hr : Keeps P b0 r.s) : Keeps P b0 (winDone w r).s := by
  unfold winDone
  split
  · exact hr
  · extract_lets +onlyGivenNames src
    have hsrc : Keeps P b0 src := hr
    clear_value src
    exact Keeps.upd hsrc

theorem answer_keeps {v s} (K : Keeps P b0 s) : Keeps P b0 (answer v s).s := by
  unfold answer; exact K

theorem shows_keeps {v s} (K : Keeps P b0 s) : Keeps P b0 (shows v s).s := by
  unfold shows; exact answer_keeps K

theorem readEpochHi_keeps {s} (K : Keeps P b0 s) : Keeps P b0 (readEpochHi s).s := by
  unfold readEpochHi; exact answer_keeps (Keeps.upd K)

theorem moveSelfTest_keeps {s} (K : Keeps P b0 s) : Keeps P b0 (moveSelfTest s) := by
  unfold moveSelfTest
  split
  · extract_lets +onlyGivenNames _
    exact Keeps.ite (drawn_keeps (opProgress_keeps K)) K
  · exact K

theorem moveOp_keeps {s} (K : Keeps P b0 s) : Keeps P b0 (moveOp s) := by
  unfold moveOp; exact moveSelfTest_keeps (moveCommit_keeps K)

theorem readKernelReg_keeps {a s} (K : Keeps P b0 s) : Keeps P b0 (readKernelReg a s).s := by
  unfold readKernelReg
  split
  · exact shows_keeps K
  · exact shows_keeps K
  · exact shows_keeps K
  · exact shows_keeps K
  · exact shows_keeps K
  · exact shows_keeps K
  · exact shows_keeps K
  · exact shows_keeps K
  · exact shows_keeps K
  · exact shows_keeps (moveOp_keeps K)
  · exact shows_keeps K
  · exact shows_keeps K
  · exact shows_keeps K
  · exact shows_keeps K
  · exact shows_keeps K
  · exact shows_keeps K
  · exact shows_keeps K
  · exact shows_keeps K
  · exact shows_keeps K
  · exact shows_keeps K
  · exact shows_keeps K
  · exact shows_keeps K
  · exact shows_keeps K
  · exact shows_keeps K
  · exact shows_keeps K
  · exact readEpochHi_keeps K
  · exact shows_keeps K
  · exact shows_keeps K
  · exact shows_keeps K
  · exact shows_keeps K
  · exact shows_keeps K
  · exact shows_keeps K
  · exact shows_keeps K
  · exact shows_keeps K
  · exact shows_keeps K
  · exact shows_keeps K
  · exact shows_keeps K
  · exact shows_keeps K
  · exact shows_keeps K
  · exact shows_keeps K
  · exact shows_keeps K
  · exact shows_keeps K
  · exact denied_keeps K

theorem readRxq_keeps {ch q stallOk s} (K : Keeps P b0 s) : Keeps P b0 (readRxq ch q stallOk s).s := by
  unfold readRxq
  split
  · extract_lets +onlyGivenNames _
    exact answer_keeps (modQueue_keeps (grant_keeps (modCan_keeps K)))
  · split
    · exact answer_keeps (takeShadow_keeps K ‹_›)
    · exact Keeps.iteR (answer_keeps (Keeps.upd K)) (answer_keeps K)

theorem readCanReg_keeps {ch r stallOk s} (K : Keeps P b0 s) : Keeps P b0 (readCanReg ch r stallOk s).s := by
  unfold readCanReg
  split
  · exact shows_keeps K
  · exact answer_keeps (Keeps.upd K)
  · exact shows_keeps K
  · exact shows_keeps K
  · exact readRxq_keeps K
  · exact readRxq_keeps K
  · exact shows_keeps K
  · exact shows_keeps K

theorem countCorr_keeps {s} (K : Keeps P b0 s) : Keeps P b0 (countCorr s) := by
  unfold countCorr; exact Keeps.upd K

theorem poisonRead_keeps {q s} (K : Keeps P b0 s) : Keeps P b0 (poisonRead q s) := by
  unfold poisonRead
  split
  · exact K
  · extract_lets +onlyGivenNames _ _ s1
    have hs1 : Keeps P b0 s1 := modQueue_keeps K
    clear_value s1
    extract_lets +onlyGivenNames _ s2
    have hs2 : Keeps P b0 s2 := Keeps.upd hs1
    clear_value s2
    exact logFault_keeps hs2

theorem readEcc_keeps {q ecc s} (K : Keeps P b0 s) : Keeps P b0 (readEcc q ecc s) := by
  unfold readEcc
  split
  · exact K
  · exact countCorr_keeps K
  · exact poisonRead_keeps K

theorem readWord_keeps {q ecc s0} (K : Keeps P b0 s0) : Keeps P b0 (readWord q ecc s0).s := by
  unfold readWord
  extract_lets +onlyGivenNames s
  have hs : Keeps P b0 s := readEcc_keeps K
  clear_value s
  split
  · exact denied_keeps hs
  · extract_lets +onlyGivenNames _ s1
    have hs1 : Keeps P b0 s1 := modQueue_keeps hs
    clear_value s1
    exact answer_keeps (grants_keeps hs1)

theorem readQueue_keeps {q stallOk ecc s} (K : Keeps P b0 s) : Keeps P b0 (readQueue q stallOk ecc s).s := by
  unfold readQueue
  exact Keeps.iteR (denied_keeps K) (Keeps.iteR (readWord_keeps K) (by
      split
      · exact answer_keeps (hostDequeued_keeps K)
      · exact Keeps.iteR (answer_keeps (Keeps.upd K)) (answer_keeps K)))

theorem readQueueReg_keeps {a stallOk ecc s} (K : Keeps P b0 s) : Keeps P b0 (readQueueReg a stallOk ecc s).s := by
  unfold readQueueReg
  extract_lets +onlyGivenNames q x
  split
  · exact shows_keeps K
  · exact shows_keeps K
  · exact shows_keeps K
  · exact shows_keeps K
  · exact shows_keeps K
  · exact shows_keeps K
  · exact shows_keeps K
  · exact shows_keeps K
  · exact readQueue_keeps K
  · exact shows_keeps K
  · exact shows_keeps K
  · exact shows_keeps K
  · exact shows_keeps K
  · exact shows_keeps K
  · exact shows_keeps K
  · exact shows_keeps K

theorem readHubTime_keeps {s} (K : Keeps P b0 s) : Keeps P b0 (readHubTime s).s := by
  unfold readHubTime
  extract_lets +onlyGivenNames t
  exact answer_keeps (Keeps.upd K)

theorem readDivHi_keeps {s} (K : Keeps P b0 s) : Keeps P b0 (readDivHi s).s := by
  unfold readDivHi; exact answer_keeps (Keeps.upd K)

theorem readOtherReg_keeps {a stallOk ecc s} (K : Keeps P b0 s) : Keeps P b0 (readOtherReg a stallOk ecc s).s := by
  unfold readOtherReg
  exact Keeps.iteR (shows_keeps K) (Keeps.iteR (shows_keeps K) (Keeps.iteR (shows_keeps K) (Keeps.iteR (shows_keeps K) (by
      split
      · exact shows_keeps K
      · exact readHubTime_keeps K
      · exact shows_keeps K
      · exact shows_keeps K
      · exact shows_keeps K
      · exact shows_keeps K
      · exact shows_keeps K
      · exact shows_keeps K
      · exact shows_keeps K
      · exact shows_keeps K
      · exact shows_keeps K
      · exact shows_keeps K
      · exact shows_keeps K
      · exact shows_keeps K
      · exact shows_keeps K
      · exact readDivHi_keeps K
      · exact shows_keeps K
      · exact readQueue_keeps K
      · exact shows_keeps K
      · exact shows_keeps K
      · exact shows_keeps K
      · exact denied_keeps K))))

theorem readReg_keeps {a stallOk ecc s} (K : Keeps P b0 s) : Keeps P b0 (readReg a stallOk ecc s).s := by
  unfold readReg; exact Keeps.iteR (denied_keeps K) (Keeps.iteR (readKernelReg_keeps K) (Keeps.iteR (readCanReg_keeps K) (Keeps.iteR (readCanReg_keeps K) (Keeps.iteR (readQueueReg_keeps K) (readOtherReg_keeps K)))))

theorem cfgRegion_keeps {w ecc s} (K : Keeps P b0 s) : Keeps P b0 (cfgRegion w ecc s).s := by
  unfold cfgRegion
  split
  · exact Keeps.iteR (shows_keeps K) (answer_keeps (userUncorrectable_keeps (drawn_keeps K)))
  · exact shows_keeps K

theorem bankRead_keeps {b o ecc s} (K : Keeps P b0 s) : Keeps P b0 (bankRead b o ecc s).s := by
  unfold bankRead
  split
  · exact denied_keeps K
  · split
    · exact denied_keeps (logFault_keeps K)
    · exact shows_keeps K

theorem scrubPoison_keeps {cell word s} (K : Keeps P b0 s) : Keeps P b0 (scrubPoison cell word s) := by
  unfold scrubPoison
  split
  · exact K
  · extract_lets +onlyGivenNames _ s1
    have hs1 : Keeps P b0 s1 := modQueue_keeps K
    clear_value s1
    exact logFault_keeps (Keeps.upd hs1)

theorem rawAccess_keeps {b o s} (K : Keeps P b0 s) : Keeps P b0 (rawAccess b o s) := by
  unfold rawAccess; exact grants_keeps K

theorem rawPoison_keeps {o s} (K : Keeps P b0 s) : Keeps P b0 (rawPoison o s) := by
  unfold rawPoison
  extract_lets +onlyGivenNames s1
  have hs1 : Keeps P b0 s1 := scrubPoison_keeps K
  clear_value s1
  exact Keeps.upd hs1

theorem rawRead_keeps {o ecc s} (K : Keeps P b0 s) : Keeps P b0 (rawRead o ecc s).s := by
  unfold rawRead
  extract_lets +onlyGivenNames s1
  have hs1 : Keeps P b0 s1 := rawAccess_keeps K
  clear_value s1
  split
  · exact denied_keeps (rawPoison_keeps hs1)
  · exact shows_keeps (countCorr_keeps hs1)
  · exact shows_keeps hs1

theorem windowRead_keeps {w s} (K : Keeps P b0 s) : Keeps P b0 (windowRead w s).s := by
  unfold windowRead
  split
  · exact Keeps.iteR (answer_keeps (countWord_keeps (readCached_keeps K ‹_›))) (denied_keeps K)
  · exact Keeps.iteR (answer_keeps (startFill_keeps (countWord_keeps (Keeps.upd K)))) (denied_keeps (stickS_keeps K))

theorem readRegion_keeps {w ecc s} (K : Keeps P b0 s) : Keeps P b0 (readRegion w ecc s).s := by
  unfold readRegion; exact Keeps.iteR (shows_keeps K) (Keeps.iteR (cfgRegion_keeps K) (Keeps.iteR (shows_keeps K) (Keeps.iteR (bankRead_keeps K) (Keeps.iteR (bankRead_keeps K) (Keeps.iteR (rawRead_keeps K) (Keeps.iteR (answer_keeps (Keeps.upd K)) (Keeps.iteR (windowRead_keeps K) (denied_keeps K))))))))

theorem pinRead_keeps {i s} (K : Keeps P b0 s) : Keeps P b0 (pinRead i s).s := by
  unfold pinRead; exact answer_keeps (Keeps.ite (drawn_keeps K) K)

theorem winReadAt_keeps {w ecc s} (K : Keeps P b0 s) : Keeps P b0 (winReadAt w ecc s).s := by
  unfold winReadAt; exact Keeps.iteR (Keeps.iteR (denied_keeps K) (readReg_keeps K)) (Keeps.iteR (denied_keeps K) (Keeps.iteR (shows_keeps K) (Keeps.iteR (Keeps.iteR (pinRead_keeps K) (shows_keeps K)) (Keeps.iteR (shows_keeps K) (Keeps.iteR (readRegion_keeps K) (denied_keeps K))))))

theorem winDataRead_keeps {ecc s} (K : Keeps P b0 s) : Keeps P b0 (winDataRead ecc s).s := by
  unfold winDataRead; exact winDone_keeps (winReadAt_keeps K)

theorem hostRead_keeps {a stallOk ecc s} (K : Keeps P b0 s) : Keeps P b0 (hostRead a stallOk ecc s) := by
  unfold hostRead; exact intoReply_keeps (Keeps.iteR (winDataRead_keeps (hostAt_keeps K)) (readReg_keeps (hostAt_keeps K)))

theorem modeStatWrite_keeps {v s} (K : Keeps P b0 s) : Keeps P b0 (modeStatWrite v s) := by
  unfold modeStatWrite; exact Keeps.upd K

theorem closeHost_keeps {s} (K : Keeps P b0 s) : Keeps P b0 (closeHost s) := by
  unfold closeHost
  split
  · exact K
  · split
    · exact K
    · split
      · exact abandonItem_keeps K
      · extract_lets +onlyGivenNames s1
        have hs1 : Keeps P b0 s1 := closeItem_keeps K
        clear_value s1
        exact Keeps.ite (loadTarget_keeps hs1) hs1

theorem closeHostData_keeps {s} (K : Keeps P b0 s) : Keeps P b0 (closeHostData s) := by
  unfold closeHostData; exact Keeps.ite (closeHost_keeps K) K

theorem beginOp_keeps {code job s} (K : Keeps P b0 s) : Keeps P b0 (beginOp code job s) := by
  unfold beginOp; exact Keeps.upd K

theorem scanFrom_keeps {port next last ten total probed s} (K : Keeps P b0 s) : Keeps P b0 (scanFrom port next last ten total probed s) := by
  unfold scanFrom
  split
  · exact endOp_keeps K
  · exact opProgress_keeps (Keeps.upd K)

theorem startScan_keeps {port a last ten s} (K : Keeps P b0 s) : Keeps P b0 (startScan port a last ten s) := by
  unfold startScan; exact scanFrom_keeps (beginOp_keeps (Keeps.upd K))

theorem drainWaits_keeps {on s} (K : Keeps P b0 s) : Keeps P b0 (drainWaits on s) := by
  unfold drainWaits
  extract_lets +onlyGivenNames rest
  exact Keeps.upd K

theorem releaseBlock_keeps {cur s} (K : Keeps P b0 s) : Keeps P b0 (releaseBlock cur s) := by
  unfold releaseBlock; exact Keeps.ite (grants_keeps (modQueue_keeps K)) K

theorem drainMoved_keeps {blocks out keep s} (K : Keeps P b0 s) : Keeps P b0 (drainMoved blocks out keep s) := by
  unfold drainMoved
  split
  · exact opProgress_keeps (Keeps.upd K)
  · exact K

theorem putCellItems_keeps {n bs s} (K : Keeps P b0 s) : Keeps P b0 (putCellItems n bs s) := by
  induction n generalizing bs s with
  | zero => exact K
  | succ n ih =>
    unfold putCellItems; refine ih ?_
    cases e : putItem 49 .drain 0 (bs.take 64) 0 s with
    | none => exact K
    | some t => exact putItem_keeps K e

theorem pumpDrain_keeps {n s} (h : Keeps P b0 s) : Keeps P b0 (pumpDrain n s) := by
  induction n generalizing s with
  | zero => exact h
  | succ n ih =>
    unfold pumpDrain; split
    · split
      · exact h
      · split
        · next t e =>
          have ht : Keeps P b0 t.2 := by
            split at e
            · cases e
            · exact takeItem_keeps h e
          split
          · exact ih (drainMoved_keeps ht)
          · dsimp only
            split
            · exact ih (drainMoved_keeps (putCellItems_keeps ht))
            · exact drainWaits_keeps h
        · exact Keeps.ite (drainMoved_keeps h) (Keeps.ite (drainMoved_keeps (putCellItems_keeps h)) (drainWaits_keeps h))
    · exact h

theorem runDrain_keeps {s} (K : Keeps P b0 s) : Keeps P b0 (runDrain s) := by
  unfold runDrain; exact pumpDrain_keeps (drainWaits_keeps K)

theorem startDrain_keeps {toFlash addr s0} (K : Keeps P b0 s0) : Keeps P b0 (startDrain toFlash addr s0) := by
  unfold startDrain
  extract_lets +onlyGivenNames s
  have hs : Keeps P b0 s := closeBlock_keeps K
  clear_value s
  extract_lets +onlyGivenNames items total s1
  have hs1 : Keeps P b0 s1 := beginOp_keeps hs
  clear_value s1
  exact Keeps.ite (invalidateCache_keeps hs1) (runDrain_keeps hs1)

theorem startFlush_keeps {q byHost byOp s} (K : Keeps P b0 s) : Keeps P b0 (startFlush q byHost byOp s) := by
  unfold startFlush; exact grants_keeps (modQueue_keeps K)

theorem settleHold_keeps {p s} (K : Keeps P b0 s) : Keeps P b0 (settleHold p s) := by
  unfold settleHold
  split
  · exact Keeps.ite (releaseSelect_keeps K) K
  · exact K

theorem flushQueue_keeps {q byHost byOp s} (K : Keeps P b0 s) : Keeps P b0 (flushQueue q byHost byOp s) := by
  unfold flushQueue
  extract_lets +onlyGivenNames s1
  have hs1 : Keeps P b0 s1 := startFlush_keeps K
  clear_value s1
  exact Keeps.ite (settleHold_keeps hs1) hs1

theorem startFlushOp_keeps {mask s} (K : Keeps P b0 s) : Keeps P b0 (startFlushOp mask s) := by
  unfold startFlushOp
  extract_lets +onlyGivenNames _
  exact Keeps.foldl (fun _ _ h2 => flushQueue_keeps h2) (beginOp_keeps K)

theorem replayProgress_keeps {s} (K : Keeps P b0 s) : Keeps P b0 (replayProgress s) := by
  unfold replayProgress
  split
  · exact Keeps.ite (opProgress_keeps K) (opProgress_keeps K)
  · exact K

theorem loadTime_keeps {k m s} (K : Keeps P b0 s) : Keeps P b0 (loadTime k m s) := by
  unfold loadTime
  extract_lets +onlyGivenNames b period h g lock
  exact Keeps.upd K

theorem renewWindow_keeps {n s} (K : Keeps P b0 s) : Keeps P b0 (renewWindow n s) := by
  unfold renewWindow
  extract_lets +onlyGivenNames rest
  exact Keeps.upd K

theorem allWindows_keeps {s} (K : Keeps P b0 s) : Keeps P b0 (allWindows s) := by
  unfold allWindows; exact Keeps.foldl (fun _ _ h0 => (Keeps.ite (renewWindow_keeps h0) h0)) K

theorem loadStatus_keeps {e s} (K : Keeps P b0 s) : Keeps P b0 (loadStatus e s) := by
  unfold loadStatus; exact Keeps.upd K

theorem loadEntries_keeps {due es s0} (K : Keeps P b0 s0) : Keeps P b0 (loadEntries due es s0) := by
  unfold loadEntries
  have h1 : Keeps P b0 (es.foldl (fun s e => loadStatus e s)
      { s0 with cfg := { s0.cfg with status := Memory.clear s0.cfg.status 0x10000 0x4000 } }) :=
    Keeps.foldl (fun _ _ h => loadStatus_keeps h) (Keeps.upd K)
  exact Keeps.upd h1

theorem loadBanks_keeps {k es s} (K : Keeps P b0 s) : Keeps P b0 (loadBanks k es s) := by
  unfold loadBanks
  exact modBank_keeps (Keeps.upd K)

theorem loadKeyframe_keeps {k s0} (K : Keeps P b0 s0) : Keeps P b0 (loadKeyframe k s0) := by
  unfold loadKeyframe
  split
  · exact adapting_keeps (fun _ h2 => by
        extract_lets +onlyGivenNames _ _ _ s1
        have hs1 : Keeps P b0 s1 := loadTime_keeps (Keeps.upd h2)
        clear_value s1
        extract_lets +onlyGivenNames s2
        have hs2 : Keeps P b0 s2 := allWindows_keeps (loadEntries_keeps (loadBanks_keeps hs1))
        clear_value s2
        exact dueRuns_keeps (settleAhead_keeps (startEpoch_keeps hs2))) K
  · exact K

theorem loaderWaits_keeps {cells s} (K : Keeps P b0 s) : Keeps P b0 (loaderWaits cells s) := by
  unfold loaderWaits
  extract_lets +onlyGivenNames rest
  exact Keeps.upd K

theorem loadFails_keeps {e why s} (K : Keeps P b0 s) : Keeps P b0 (loadFails e why s) := by
  unfold loadFails; exact Keeps.upd K

theorem passUnits_keeps {r s} (K : Keeps P b0 s) : Keeps P b0 (passUnits r s) := by
  unfold passUnits; exact Keeps.upd K

theorem scanTrace_keeps {n s} (h : Keeps P b0 s) : Keeps P b0 (scanTrace n s) := by
  induction n generalizing s with
  | zero => exact h
  | succ n ih =>
    unfold scanTrace; split
    · exact h
    · exact loadFails_keeps h
    · exact loadFails_keeps h
    · split
      · split
        · exact Keeps.ite (loadFails_keeps h) h
        · exact loadFails_keeps h
        · exact Keeps.ite (Keeps.upd h) (loadFails_keeps h)
      · split
        · exact h
        · dsimp only
          refine ih ?_
          generalize hs : passUnits _ s = s1
          have h1 : Keeps P b0 s1 := hs ▸ passUnits_keeps h
          exact Keeps.upd h1

theorem endLoader_keeps {e s} (K : Keeps P b0 s) : Keeps P b0 (endLoader e s) := by
  unfold endLoader; exact Keeps.upd K

theorem joinVerdicts_keeps {r s} (K : Keeps P b0 s) : Keeps P b0 (joinVerdicts r s) := by
  unfold joinVerdicts; exact Keeps.ite (Keeps.upd K) K

theorem supplyTrace_keeps {n s} (h : Keeps P b0 s) : Keeps P b0 (supplyTrace n s) := by
  induction n generalizing s with
  | zero => exact h
  | succ n ih =>
    unfold supplyTrace; split
    · exact h
    · exact endLoader_keeps h
    · split
      · exact h
      · split
        · exact loaderWaits_keeps h
        · exact ih (passUnits_keeps (joinVerdicts_keeps (putItem_keeps h ‹_›)))

theorem runLoader_keeps {s0} (K : Keeps P b0 s0) : Keeps P b0 (runLoader s0) := by
  unfold runLoader
  extract_lets +onlyGivenNames s
  have hs : Keeps P b0 s := loaderWaits_keeps K
  clear_value s
  exact Keeps.ite hs (by
      extract_lets +onlyGivenNames _ s1
      have hs1 : Keeps P b0 s1 := Keeps.ite (scanTrace_keeps hs) hs
      clear_value s1
      exact Keeps.ite (by
          extract_lets +onlyGivenNames s2
          have hs2 : Keeps P b0 s2 := supplyTrace_keeps hs1
          clear_value s2
          exact Keeps.ite (dispatch_keeps hs2) hs2) hs1)

theorem consumeBytes_keeps {taken seq s} (K : Keeps P b0 s) : Keeps P b0 (consumeBytes taken seq s) := by
  unfold consumeBytes
  extract_lets +onlyGivenNames all back s1
  have hs1 : Keeps P b0 s1 := emptyQueue_keeps K
  clear_value s1
  exact runLoader_keeps (Keeps.upd hs1)

theorem takeFrontKeyframe_keeps {s} (K : Keeps P b0 s) : Keeps P b0 (takeFrontKeyframe s) := by
  unfold takeFrontKeyframe
  split
  · exact replayProgress_keeps (loadKeyframe_keeps (consumeBytes_keeps K))
  · exact K

theorem beginReplay_keeps {epochs s0} (K : Keeps P b0 s0) : Keeps P b0 (beginReplay epochs s0) := by
  unfold beginReplay
  have hs : Keeps P b0 (beginOp 9 (.replay epochs) s0) := beginOp_keeps K
  generalize beginOp 9 (.replay epochs) s0 = s at hs
  exact takeFrontKeyframe_keeps (Keeps.upd hs)

theorem startFlash_keeps {addr erase data s0} (K : Keeps P b0 s0) : Keeps P b0 (startFlash addr erase data s0) := by
  unfold startFlash
  extract_lets +onlyGivenNames s
  have hs : Keeps P b0 s := invalidateCache_keeps (beginOp_keeps (emptyQueue_keeps K))
  clear_value s
  exact Keeps.ite (startEnable_keeps hs) (endOp_keeps hs)

theorem startProbe_keeps {ep s0} (K : Keeps P b0 s0) : Keeps P b0 (startProbe ep s0) := by
  unfold startProbe
  extract_lets +onlyGivenNames s
  have hs : Keeps P b0 s := beginOp_keeps K
  clear_value s
  split
  · exact endOp_keeps hs
  · exact setStatByte_keeps (startAttempt_keeps (modLane_keeps hs))

theorem startOp_keeps {code s} (K : Keeps P b0 s) : Keeps P b0 (startOp code s) := by
  unfold startOp
  extract_lets +onlyGivenNames _ _
  split
  · exact beginOp_keeps (grant_keeps K)
  · exact startScan_keeps K
  · exact beginOp_keeps K
  · exact beginOp_keeps (grant_keeps K)
  · exact startDrain_keeps K
  · exact startFlushOp_keeps K
  · exact keyframeDue_keeps (beginOp_keeps K)
  · exact beginReplay_keeps K
  · exact startFlash_keeps K
  · exact startProbe_keeps K

theorem requestAbort_keeps {s} (K : Keeps P b0 s) : Keeps P b0 (requestAbort s) := by
  unfold requestAbort
  refine Keeps.ite (Keeps.upd K) ?_
  split
  · next j runs =>
    exact Keeps.ite (Keeps.working K (by rw [runs]; exact Option.some_ne_none j) (Keeps.newStore Keeps.refl fun h => h.2 rfl)) K
  · exact K

theorem opStart_keeps {code s} (K : Keeps P b0 s) : Keeps P b0 (opStart code s).s := by
  unfold opStart
  split
  · extract_lets +onlyGivenNames _ s1
    have hs1 : Keeps P b0 s1 := Keeps.upd K
    clear_value s1
    exact denied_keeps (Keeps.ite (tackFail_keeps hs1) hs1)
  · exact wrote_keeps (startOp_keeps K)

theorem validateProbe_keeps {s} (K : Keeps P b0 s) : Keeps P b0 (validateProbe s) := by
  unfold validateProbe
  extract_lets +onlyGivenNames _
  exact Keeps.ite K (Keeps.ite (passValidation_keeps K) (failValidation_keeps K))

theorem opCmdWrite_keeps {v s0} (K : Keeps P b0 s0) : Keeps P b0 (opCmdWrite v s0).s := by
  unfold opCmdWrite
  extract_lets +onlyGivenNames s
  have hs : Keeps P b0 s := closeHostData_keeps K
  clear_value s
  extract_lets +onlyGivenNames _
  exact Keeps.iteR (wrote_keeps (requestAbort_keeps hs)) (Keeps.iteR (wrote_keeps hs) (opStart_keeps (Keeps.ite (validateProbe_keeps hs) hs)))

theorem writeWindowReg_keeps {a v s} (K : Keeps P b0 s) : Keeps P b0 (writeWindowReg a v s).s := by
  unfold writeWindowReg
  extract_lets +onlyGivenNames w
  exact Keeps.iteR (wrote_keeps (Keeps.upd K)) (Keeps.iteR (Keeps.iteR (denied_keeps K) (wrote_keeps (Keeps.upd K))) (wrote_keeps (Keeps.upd K)))

theorem snapStatWrite_keeps {v s} (K : Keeps P b0 s) : Keeps P b0 (snapStatWrite v s) := by
  unfold snapStatWrite; exact Keeps.upd K

theorem authOpWrite_keeps {win v s0} (K : Keeps P b0 s0) : Keeps P b0 (authOpWrite win v s0).s := by
  unfold authOpWrite
  extract_lets +onlyGivenNames s
  have hs : Keeps P b0 s := closeHostData_keeps K
  clear_value s
  exact Keeps.iteR (denied_keeps K) (Keeps.iteR (wrote_keeps hs) (wrote_keeps (Keeps.upd hs)))

theorem tackStatWrite_keeps {v s} (K : Keeps P b0 s) : Keeps P b0 (tackStatWrite v s) := by
  unfold tackStatWrite; exact Keeps.upd K

theorem ignored_keeps {s} (K : Keeps P b0 s) : Keeps P b0 (ignored s).s := by
  unfold ignored; exact wrote_keeps K

theorem writeKernelReg_keeps (free : Loose P) {a v s} (K : Keeps P b0 s) : Keeps P b0 (writeKernelReg a v s).s := by
  unfold writeKernelReg
  split
  · exact wrote_keeps (Keeps.upd K)
  · exact wrote_keeps (Keeps.upd K)
  · exact modeReqWrite_keeps free K
  · exact wrote_keeps (modeStatWrite_keeps K)
  · exact wrote_keeps (Keeps.upd K)
  · exact opCmdWrite_keeps K
  · exact wrote_keeps (Keeps.upd K)
  · exact wrote_keeps (Keeps.upd K)
  · exact wrote_keeps (Keeps.upd K)
  · exact wrote_keeps (Keeps.upd K)
  · exact writeWindowReg_keeps K
  · exact writeWindowReg_keeps K
  · exact writeWindowReg_keeps K
  · exact wrote_keeps (grant_keeps (Keeps.upd K))
  · exact wrote_keeps (snapStatWrite_keeps K)
  · exact snapPinWrite_keeps K
  · exact Keeps.iteR (denied_keeps K) (wrote_keeps (Keeps.upd K))
  · exact wrote_keeps (grant_keeps (Keeps.upd K))
  · exact wrote_keeps (Keeps.upd K)
  · exact authOpWrite_keeps K
  · exact wrote_keeps (Keeps.upd K)
  · exact wrote_keeps (Keeps.upd K)
  · exact wrote_keeps (Keeps.upd K)
  · exact wrote_keeps (Keeps.upd K)
  · exact wrote_keeps (Keeps.upd K)
  · exact wrote_keeps (Keeps.upd K)
  · exact wrote_keeps (Keeps.upd K)
  · exact wrote_keeps (Keeps.upd K)
  · exact wrote_keeps (tackStatWrite_keeps K)
  · exact Keeps.iteR (ignored_keeps K) (denied_keeps K)

theorem canCtrlWrite_keeps {ch v s} (K : Keeps P b0 s) : Keeps P b0 (canCtrlWrite ch v s).s := by
  unfold canCtrlWrite
  extract_lets +onlyGivenNames _ _ s1
  have hs1 : Keeps P b0 s1 := modCan_keeps (grants_keeps K)
  clear_value s1
  exact Keeps.iteR (Keeps.iteR (settleLead_keeps (startCan_keeps (modCan_keeps hs1))) (refuseStart_keeps hs1)) (settleCans_keeps (modCan_keeps hs1))

theorem refuseTx_keeps {ch v s} (K : Keeps P b0 s) : Keeps P b0 (refuseTx ch v s).s := by
  unfold refuseTx; exact denied_keeps (canEvent_keeps (modCan_keeps K))

theorem markNoSpace_keeps {q s} (K : Keeps P b0 s) : Keeps P b0 (markNoSpace q s) := by
  unfold markNoSpace; exact modQueue_keeps K

theorem growTx_keeps {ch v o s} (K : Keeps P b0 s) : Keeps P b0 (growTx ch v o s) := by
  unfold growTx
  extract_lets +onlyGivenNames _
  exact Keeps.ite (writeOpen_keeps (modCan_keeps K)) (by
      extract_lets +onlyGivenNames _
      exact grants_keeps (closeItem_keeps (modCan_keeps K)))

theorem txdataWrite_keeps {ch v s} (K : Keeps P b0 s) : Keeps P b0 (txdataWrite ch v s).s := by
  unfold txdataWrite
  extract_lets +onlyGivenNames _ _
  exact Keeps.iteR (denied_keeps (modCan_keeps K)) (Keeps.iteR (denied_keeps K) (by
      split
      · exact wrote_keeps (growTx_keeps K)
      · extract_lets +onlyGivenNames _ _
        exact Keeps.iteR (refuseTx_keeps K) (by
            split
            · exact refuseTx_keeps (markNoSpace_keeps K)
            · exact wrote_keeps (growTx_keeps (reserve_keeps K ‹_›)))))

theorem writeCanReg_keeps {ch r v s} (K : Keeps P b0 s) : Keeps P b0 (writeCanReg ch r v s).s := by
  unfold writeCanReg
  split
  · exact canCtrlWrite_keeps K
  · exact wrote_keeps (modCan_keeps K)
  · exact txdataWrite_keeps K
  · exact ignored_keeps K

theorem qmSelWrite_keeps {v s} (K : Keeps P b0 s) : Keeps P b0 (qmSelWrite v s).s := by
  unfold qmSelWrite
  extract_lets +onlyGivenNames s1
  have hs1 : Keeps P b0 s1 := closeHost_keeps K
  clear_value s1
  extract_lets +onlyGivenNames q _ s2
  have hs2 : Keeps P b0 s2 := Keeps.upd hs1
  clear_value s2
  exact Keeps.iteR (wrote_keeps (Keeps.upd hs2)) hs2

theorem qmCfgWrite_keeps {v s} (K : Keeps P b0 s) : Keeps P b0 (qmCfgWrite v s).s := by
  unfold qmCfgWrite
  extract_lets +onlyGivenNames q x n cap enOk prioOk capOk
  exact modQueue_keeps K

theorem qmRsvWrite_keeps {v s} (K : Keeps P b0 s) : Keeps P b0 (qmRsvWrite v s).s := by
  unfold qmRsvWrite
  extract_lets +onlyGivenNames q x r others
  exact Keeps.iteR (wrote_keeps (modQueue_keeps K)) (denied_keeps K)

theorem qmClose_keeps {s} (K : Keeps P b0 s) : Keeps P b0 (qmClose s) := by
  unfold qmClose
  extract_lets +onlyGivenNames s1
  have hs1 : Keeps P b0 s1 := closeHost_keeps K
  clear_value s1
  exact modQueue_keeps hs1

theorem endRead_keeps {q s} (K : Keeps P b0 s) : Keeps P b0 (endRead q s) := by
  unfold endRead; exact Keeps.ite (grant_keeps (modCan_keeps K)) (Keeps.ite (grant_keeps (modCan_keeps K)) (Keeps.ite (grant_keeps (modCan_keeps K)) (Keeps.ite (grant_keeps (modCan_keeps K)) (Keeps.ite K (grant_keeps (modQueue_keeps K))))))

theorem qmStatWrite_keeps {v s} (K : Keeps P b0 s) : Keeps P b0 (qmStatWrite v s).s := by
  unfold qmStatWrite
  extract_lets +onlyGivenNames q n s1
  have hs1 : Keeps P b0 s1 := modQueue_keeps K
  clear_value s1
  split
  · exact hs1
  · extract_lets +onlyGivenNames s2
    have hs2 : Keeps P b0 s2 := Keeps.ite (qmClose_keeps hs1) hs1
    clear_value s2
    exact wrote_keeps (Keeps.ite (endRead_keeps hs2) hs2)

theorem growHost_keeps {q v s0} (K : Keeps P b0 s0) : Keeps P b0 (growHost q v s0) := by
  unfold growHost
  extract_lets +onlyGivenNames _ s
  have hs : Keeps P b0 s := Keeps.upd K
  clear_value s
  exact grant_keeps (writeOpen_keeps hs)

theorem enqWrite_keeps {v s} (K : Keeps P b0 s) : Keeps P b0 (enqWrite v s).s := by
  unfold enqWrite
  extract_lets +onlyGivenNames q
  split
  · exact denied_keeps K
  · split
    · extract_lets +onlyGivenNames s1
      have hs1 : Keeps P b0 s1 := growHost_keeps K
      clear_value s1
      exact wrote_keeps (Keeps.ite (closeHost_keeps hs1) hs1)
    · split
      · exact denied_keeps (markNoSpace_keeps K)
      · exact wrote_keeps (growHost_keeps (reserve_keeps K ‹_›))

theorem flushWrite_keeps {s} (K : Keeps P b0 s) : Keeps P b0 (flushWrite s).s := by
  unfold flushWrite; exact Keeps.iteR (denied_keeps K) (wrote_keeps (flushQueue_keeps K))

theorem qmEccWrite_keeps {v s} (K : Keeps P b0 s) : Keeps P b0 (qmEccWrite v s) := by
  unfold qmEccWrite
  extract_lets +onlyGivenNames n
  exact Keeps.upd K

theorem writeQueueReg_keeps {a v s} (K : Keeps P b0 s) : Keeps P b0 (writeQueueReg a v s).s := by
  unfold writeQueueReg
  extract_lets +onlyGivenNames q
  split
  · exact qmSelWrite_keeps K
  · exact qmCfgWrite_keeps K
  · exact qmRsvWrite_keeps K
  · exact wrote_keeps (modQueue_keeps K)
  · exact wrote_keeps (modQueue_keeps K)
  · exact qmStatWrite_keeps K
  · exact wrote_keeps (modQueue_keeps K)
  · exact enqWrite_keeps K
  · exact Keeps.iteR (flushWrite_keeps K) (wrote_keeps K)
  · exact wrote_keeps (Keeps.upd K)
  · exact wrote_keeps (Keeps.upd K)
  · exact wrote_keeps (qmEccWrite_keeps K)
  · exact ignored_keeps K

theorem tbStatWrite_keeps {v s} (K : Keeps P b0 s) : Keeps P b0 (tbStatWrite v s) := by
  unfold tbStatWrite; exact Keeps.upd K

theorem byCtrlWrite_keeps {v s} (K : Keeps P b0 s) : Keeps P b0 (byCtrlWrite v s) := by
  unfold byCtrlWrite
  extract_lets +onlyGivenNames _ s1
  have hs1 : Keeps P b0 s1 := Keeps.upd K
  clear_value s1
  exact Keeps.ite hs1 (loseLock_keeps hs1)

theorem byStatWrite_keeps {v s} (K : Keeps P b0 s) : Keeps P b0 (byStatWrite v s) := by
  unfold byStatWrite; exact Keeps.upd K

theorem tapArmNow_keeps {s} (K : Keeps P b0 s) : Keeps P b0 (tapArmNow s) := by
  unfold tapArmNow; exact Keeps.upd K

theorem tapCtrlWrite_keeps {v s0} (K : Keeps P b0 s0) : Keeps P b0 (tapCtrlWrite v s0).s := by
  unfold tapCtrlWrite
  extract_lets +onlyGivenNames _ s
  have hs : Keeps P b0 s := Keeps.upd K
  clear_value s
  split
  · exact hs
  · extract_lets +onlyGivenNames s1
    have hs1 : Keeps P b0 s1 := Keeps.ite (tapArmNow_keeps hs) hs
    clear_value s1
    exact wrote_keeps (Keeps.ite (freeze_keeps hs1) hs1)

theorem tapStatWrite_keeps {v s} (K : Keeps P b0 s) : Keeps P b0 (tapStatWrite v s) := by
  unfold tapStatWrite; exact Keeps.upd K

theorem rplCtrlWrite_keeps {v s0} (K : Keeps P b0 s0) : Keeps P b0 (rplCtrlWrite v s0).s := by
  unfold rplCtrlWrite
  extract_lets +onlyGivenNames _ s
  have hs : Keeps P b0 s := Keeps.upd K
  clear_value s
  exact Keeps.iteR (Keeps.iteR hs (wrote_keeps (Keeps.upd hs))) (wrote_keeps hs)

theorem writeOtherReg_keeps {a v s} (K : Keeps P b0 s) : Keeps P b0 (writeOtherReg a v s).s := by
  unfold writeOtherReg
  refine Keeps.iteR (wrote_keeps (modSPort_keeps K)) (Keeps.iteR (wrote_keeps (modIPort_keeps K)) (Keeps.iteR (wrote_keeps (modTPort_keeps K))
    (Keeps.iteR (wrote_keeps (Keeps.upd K)) ?_)))
  split
  · exact wrote_keeps (tbStatWrite_keeps K)
  · exact wrote_keeps (byCtrlWrite_keeps K)
  · exact wrote_keeps (byStatWrite_keeps K)
  · exact wrote_keeps (Keeps.upd K)
  · exact tapCtrlWrite_keeps K
  · exact wrote_keeps (tapStatWrite_keeps K)
  · exact wrote_keeps (Keeps.upd K)
  · exact wrote_keeps (Keeps.upd K)
  · exact rplCtrlWrite_keeps K
  · exact wrote_keeps (Keeps.upd K)
  · exact wrote_keeps (Keeps.upd K)
  · exact Keeps.iteR (ignored_keeps K) (denied_keeps K)

end Sys2Proof.Proofs.Frame

/-! PROOFS. What every operation keeps of the parts of the state that few commands change, part 3 of 4: one lemma for each, in the order
of use. -/

namespace Sys2Proof.Proofs.Frame

set_option Elab.async false

open Sys2Proof.Machine Sys2Proof.Laws

variable {P : Part → Prop} {b0 : State}

theorem writeReg_keeps (free : Loose P) {a v s} (K : Keeps P b0 s) : Keeps P b0 (writeReg a v s).s := by
  unfold writeReg; exact Keeps.iteR (writeKernelReg_keeps free K) (Keeps.iteR (writeCanReg_keeps K) (Keeps.iteR (writeCanReg_keeps K) (Keeps.iteR (writeQueueReg_keeps K) (writeOtherReg_keeps K))))

theorem mpWrite_keeps {o v s} (K : Keeps P b0 s) : Keeps P b0 (mpWrite o v s).s := by
  unfold mpWrite
  extract_lets +onlyGivenNames p n
  split
  · exact wrote_keeps (Keeps.upd K)
  · exact wrote_keeps (Keeps.upd K)
  · exact wrote_keeps (Keeps.upd K)
  · extract_lets +onlyGivenNames r
    exact Keeps.upd K
  · extract_lets +onlyGivenNames r
    exact Keeps.upd K
  · exact wrote_keeps (Keeps.upd K)
  · exact wrote_keeps (Keeps.upd K)
  · exact Keeps.iteR (denied_keeps K) (wrote_keeps (Keeps.upd K))
  · exact wrote_keeps (Keeps.upd K)
  · exact ignored_keeps K

theorem recordPinRefusal_keeps {i why s} (K : Keeps P b0 s) : Keeps P b0 (recordPinRefusal i why s) := by
  unfold recordPinRefusal; exact Keeps.upd K

theorem pmPinWrite_keeps (hp : ¬ P .pins) {i v s} (K : Keeps P b0 s) : Keeps P b0 (pmPinWrite i v s).s := by
  unfold pmPinWrite
  split
  · extract_lets +onlyGivenNames s1
    have hs1 : Keeps P b0 s1 := modPin_changes hp K
    clear_value s1
    exact wrote_keeps (Keeps.ite (grant_keeps hs1) hs1)
  · extract_lets +onlyGivenNames s1
    have hs1 : Keeps P b0 s1 := recordPinRefusal_keeps K
    clear_value s1
    exact Keeps.iteR (modPin_changes hp hs1) (Keeps.iteR (modPin_changes hp hs1) (denied_keeps hs1))

theorem pinCtrlWrite_keeps {o v s} (K : Keeps P b0 s) : Keeps P b0 (pinCtrlWrite o v s).s := by
  unfold pinCtrlWrite
  extract_lets +onlyGivenNames n
  split
  · exact wrote_keeps (Keeps.upd K)
  · split
    · exact Keeps.iteR (denied_keeps K) (wrote_keeps (Keeps.upd K))
    · split
      · extract_lets +onlyGivenNames _ s1
        have hs1 : Keeps P b0 s1 := Keeps.upd K
        clear_value s1
        exact Keeps.iteR hs1 (wrote_keeps (Keeps.upd hs1))
      · exact Keeps.iteR (wrote_keeps (Keeps.upd K)) (Keeps.iteR (wrote_keeps (Keeps.upd K)) (wrote_keeps K))

theorem wctrlWrite_keeps {v s} (K : Keeps P b0 s) : Keeps P b0 (wctrlWrite v s).s := by
  unfold wctrlWrite
  have h1 : Keeps P b0 (invalidateCache { s with cfg := { s.cfg with user := (writeCfg s.cfg.user 0x2A00 v.toNat).1 } }) :=
    invalidateCache_keeps (Keeps.upd K)
  exact Keeps.iteR (Keeps.iteR (denied_keeps h1) (startSfdp_keeps (modSPort_keeps h1))) h1

theorem ptFail_keeps {p res s} (K : Keeps P b0 s) : Keeps P b0 (ptFail p res s) := by
  unfold ptFail; exact stickI_keeps (setPtStat_keeps (modIPort_keeps K))

theorem ptCtlWrite_keeps {p v s} (K : Keeps P b0 s) : Keeps P b0 (ptCtlWrite p v s).s := by
  unfold ptCtlWrite
  have h1 := fun a => Keeps.upd (t := { s with cfg := { s.cfg with user := (writeCfg s.cfg.user a v.toNat).1 } }) K
  exact Keeps.iteR (Keeps.iteR (denied_keeps (h1 _)) (Keeps.iteR (wrote_keeps (ptFail_keeps (h1 _)))
    (wrote_keeps (startPt_keeps (grant_keeps (modIPort_keeps (h1 _))))))) (wrote_keeps (h1 _))

theorem clearSstat_keeps {w s} (K : Keeps P b0 s) : Keeps P b0 (clearSstat w s) := by
  unfold clearSstat
  extract_lets +onlyGivenNames o
  exact Keeps.ite (setStatWord_keeps K) K

theorem cfgWrite_keeps {w v s0} (K : Keeps P b0 s0) : Keeps P b0 (cfgWrite w v s0).s := by
  unfold cfgWrite
  extract_lets +onlyGivenNames s
  have hs : Keeps P b0 s := grants_keeps (moveCommit_keeps K)
  clear_value s
  refine Keeps.iteR (wctrlWrite_keeps hs) (Keeps.iteR (ptCtlWrite_keeps hs) ?_)
  have h1 : Keeps P b0 (adapting (fun x => { x with cfg := { x.cfg with user := (writeCfg s.cfg.user w v.toNat).1 } }) s) :=
    adapting_keeps (fun _ h => Keeps.upd h) hs
  exact clearSstat_keeps (Keeps.ite (invalidateCache_keeps h1) h1)

theorem setItemByte_keeps {o v s} (K : Keeps P b0 s) : Keeps P b0 (setItemByte o v s) := by
  unfold setItemByte
  split
  · exact modQueue_keeps K
  · exact K

theorem rawSet_keeps {o v s0} (K : Keeps P b0 s0) : Keeps P b0 (rawSet o v s0) := by
  unfold rawSet
  extract_lets +onlyGivenNames s
  have hs : Keeps P b0 s := setItemByte_keeps K
  clear_value s
  exact Keeps.upd hs

theorem rawWrite_keeps {o v s} (K : Keeps P b0 s) : Keeps P b0 (rawWrite o v s).s := by
  unfold rawWrite
  extract_lets +onlyGivenNames s1
  have hs1 : Keeps P b0 s1 := rawAccess_keeps K
  clear_value s1
  exact wrote_keeps (rawSet_keeps (rawSet_keeps hs1))

theorem winWriteAt_keeps (free : Loose P) {w v s} (K : Keeps P b0 s) : Keeps P b0 (winWriteAt w v s).s := by
  unfold winWriteAt; exact Keeps.iteR (denied_keeps K) (Keeps.iteR (Keeps.iteR (denied_keeps K) (Keeps.iteR (authOpWrite_keeps K) (writeReg_keeps free K))) (Keeps.iteR (denied_keeps K) (Keeps.iteR (mpWrite_keeps K) (Keeps.iteR (Keeps.iteR (pmPinWrite_keeps free.pins K) (ignored_keeps K)) (Keeps.iteR (pinCtrlWrite_keeps K) (Keeps.iteR (cfgWrite_keeps K) (rawWrite_keeps K)))))))

theorem goodWinWrite_keeps {w v r} (hr : Keeps P b0 r.s) : Keeps P b0 (goodWinWrite w v r) := by
  unfold goodWinWrite; exact endIfDisabled_keeps (recRein_keeps (writeReply_keeps hr))

theorem hostWinWrite_keeps (free : Loose P) {v s} (K : Keeps P b0 s) : Keeps P b0 (hostWinWrite v s) := by
  unfold hostWinWrite
  extract_lets +onlyGivenNames _ r
  have hr : Keeps P b0 r.s := winDone_keeps (winWriteAt_keeps free (hostAt_keeps K))
  clear_value r
  exact Keeps.ite (writeReply_keeps hr) (goodWinWrite_keeps hr)

theorem hostWriteReg_keeps (free : Loose P) {a v s} (K : Keeps P b0 s) : Keeps P b0 (hostWriteReg a v s).s := by
  unfold hostWriteReg; exact Keeps.iteR (refusedInReplay_keeps K) (writeReg_keeps free (hostAt_keeps K))

theorem hostWrite_keeps (free : Loose P) {a v s} (K : Keeps P b0 s) : Keeps P b0 (hostWrite a v s) := by
  unfold hostWrite
  split
  · exact hostWinWrite_keeps free K
  · extract_lets +onlyGivenNames r
    have hr : Keeps P b0 r.s := hostWriteReg_keeps free K
    clear_value r
    exact Keeps.ite (writeReply_keeps hr) (goodWrite_keeps hr)

theorem goodFrame_keeps (free : Loose P) {bytes ecc s} (K : Keeps P b0 s) : Keeps P b0 (goodFrame bytes ecc s) := by
  unfold goodFrame
  extract_lets +onlyGivenNames b0 a
  exact Keeps.ite (hostRead_keeps K) (hostWrite_keeps free K)

theorem receiveFrame_keeps (free : Loose P) {bytes edges ecc s} (K : Keeps P b0 s) : Keeps P b0 (receiveFrame bytes edges ecc s) := by
  unfold receiveFrame
  extract_lets +onlyGivenNames alv
  split
  · exact Keeps.upd K
  · split
    · exact Keeps.upd K
    · extract_lets +onlyGivenNames _ s1
      have hs1 : Keeps P b0 s1 := Keeps.upd K
      clear_value s1
      exact Keeps.ite (Keeps.upd hs1) (goodFrame_keeps free hs1)

theorem sendReply_keeps {edges s} (K : Keeps P b0 s) : Keeps P b0 (sendReply edges s) := by
  unfold sendReply; exact Keeps.upd K

theorem effReinFrame_keeps (free : Loose P) {bytes edges gap ecc t s0} (K : Keeps P b0 s0) : Keeps P b0 (effReinFrame bytes edges gap ecc t s0) := by
  unfold effReinFrame
  extract_lets +onlyGivenNames s
  have hs : Keeps P b0 s := advance_keeps K
  clear_value s
  exact Keeps.ite hs (Keeps.ite (Keeps.upd hs) (Keeps.ite (Keeps.upd hs) (receiveFrame_keeps free (sendReply_keeps (hostAt_keeps hs)))))

theorem effRegisterWrite_keeps (free : Loose P) {a v t s0} (K : Keeps P b0 s0) : Keeps P b0 (effRegisterWrite a v t s0) := by
  unfold effRegisterWrite
  extract_lets +onlyGivenNames s
  have hs : Keeps P b0 s := advance_keeps K
  clear_value s
  exact Keeps.ite (hostWrite_keeps free hs) hs

theorem effWinDataRead_keeps {ecc t s0} (K : Keeps P b0 s0) : Keeps P b0 (effWinDataRead ecc t s0) := by
  unfold effWinDataRead
  extract_lets +onlyGivenNames s
  have hs : Keeps P b0 s := advance_keeps K
  clear_value s
  exact Keeps.ite (hostRead_keeps hs) hs

theorem effWinDataWrite_keeps (free : Loose P) {v t s0} (K : Keeps P b0 s0) : Keeps P b0 (effWinDataWrite v t s0) := by
  unfold effWinDataWrite
  extract_lets +onlyGivenNames s
  have hs : Keeps P b0 s := advance_keeps K
  clear_value s
  exact Keeps.ite (hostWrite_keeps free hs) hs

theorem effLatchingRead_keeps {r t s0} (K : Keeps P b0 s0) : Keeps P b0 (effLatchingRead r t s0) := by
  unfold effLatchingRead
  extract_lets +onlyGivenNames s
  have hs : Keeps P b0 s := advance_keeps K
  clear_value s
  exact Keeps.ite (hostRead_keeps hs) hs

theorem endSlow_keeps {v adre s} (K : Keeps P b0 s) : Keeps P b0 (endSlow v adre s) := by
  unfold endSlow; exact Keeps.upd K

theorem effSlowReadComplete_keeps {ecc s} (K : Keeps P b0 s) : Keeps P b0 (effSlowReadComplete ecc s) := by
  unfold effSlowReadComplete
  split
  · exact K
  · split
    · extract_lets +onlyGivenNames r
      have hr : Keeps P b0 r.2 := tackRead_keeps (grant_keeps K) rfl
      clear_value r
      exact endSlow_keeps hr
    · split
      · exact endSlow_keeps (grant_keeps (readCached_keeps K ‹_›))
      · exact K

theorem effSlowReadTimeout_keeps {s} (K : Keeps P b0 s) : Keeps P b0 (effSlowReadTimeout s) := by
  unfold effSlowReadTimeout; exact Keeps.ite (endSlow_keeps K) K

theorem effStallTimeout_keeps {s} (K : Keeps P b0 s) : Keeps P b0 (effStallTimeout s) := by
  unfold effStallTimeout; exact Keeps.ite (grant_keeps (Keeps.upd K)) K

theorem readRow_keeps {a f s} (hf : ∀ x0, Keeps P b0 x0 → Keeps P b0 (f x0).s) (K : Keeps P b0 s) : Keeps P b0 (readRow a f s) := by
  unfold readRow; exact Keeps.ite (intoReply_keeps (Keeps.iteR (denied_keeps K) (hf _ (hostAt_keeps K)))) K

theorem effQmDataRead_keeps {stallOk ecc t s} (K : Keeps P b0 s) : Keeps P b0 (effQmDataRead stallOk ecc t s) := by
  unfold effQmDataRead; exact readRow_keeps (fun _ h0 => (readQueue_keeps h0)) (advance_keeps K)

theorem effEvqDataRead_keeps {stallOk ecc t s} (K : Keeps P b0 s) : Keeps P b0 (effEvqDataRead stallOk ecc t s) := by
  unfold effEvqDataRead; exact readRow_keeps (fun _ h => readQueue_keeps h) (advance_keeps K)

theorem effQmEnqWrite_keeps {v s} (K : Keeps P b0 s) : Keeps P b0 (effQmEnqWrite v s) := by
  unfold effQmEnqWrite; exact writeRow_keeps (fun _ h => enqWrite_keeps h) K

theorem effQmSelWrite_keeps {v s} (K : Keeps P b0 s) : Keeps P b0 (effQmSelWrite v s) := by
  unfold effQmSelWrite; exact writeRow_keeps (fun _ h => qmSelWrite_keeps h) K

theorem effQmClose_keeps {s} (K : Keeps P b0 s) : Keeps P b0 (effQmClose s) := by
  unfold effQmClose; exact writeRow_keeps (fun _ h => qmStatWrite_keeps h) K

theorem effQmDisc_keeps {s} (K : Keeps P b0 s) : Keeps P b0 (effQmDisc s) := by
  unfold effQmDisc; exact writeRow_keeps (fun _ h => qmStatWrite_keeps h) K

theorem grantTo_keeps {w s} (K : Keeps P b0 s) : Keeps P b0 (grantTo w s) := by
  unfold grantTo
  split
  · exact runDrain_keeps K
  · exact runLoader_keeps K
  · split
    · exact K
    · exact Keeps.upd (reserve_keeps K ‹_›)

theorem effReservationGrant_keeps {q s} (K : Keeps P b0 s) : Keeps P b0 (effReservationGrant q s) := by
  unfold effReservationGrant
  split
  · exact K
  · exact Keeps.ite K (grantTo_keeps K)

theorem effQmFlushGo_keeps {s} (K : Keeps P b0 s) : Keeps P b0 (effQmFlushGo s) := by
  unfold effQmFlushGo; exact writeRow_keeps (fun _ h => flushWrite_keeps h) K

theorem finishFlush_keeps {q s0} (K : Keeps P b0 s0) : Keeps P b0 (finishFlush q s0) := by
  unfold finishFlush
  split
  · exact K
  · extract_lets +onlyGivenNames s
    have hs : Keeps P b0 s := modQueue_keeps K
    clear_value s
    split
    · split
      · extract_lets +onlyGivenNames r p src
        have hsrc : Keeps P b0 src := postFlushes_keeps hs rfl
        clear_value src
        extract_lets +onlyGivenNames _ s1
        have hs1 : Keeps P b0 s1 := Keeps.upd hsrc
        clear_value s1
        exact Keeps.ite (endOp_keeps hs1) (opProgress_keeps hs1)
      · exact hs
    · exact hs

theorem effFlushEnd_keeps {q s} (K : Keeps P b0 s) : Keeps P b0 (effFlushEnd q s) := by
  unfold effFlushEnd; exact Keeps.ite (finishFlush_keeps K) K

theorem countRxDrop_keeps {ch s} (K : Keeps P b0 s) : Keeps P b0 (countRxDrop ch s) := by
  unfold countRxDrop; exact canEvent_keeps (countCan_keeps K)

theorem abortProducer_keeps {q who s} (K : Keeps P b0 s) : Keeps P b0 (abortProducer q who s) := by
  unfold abortProducer
  split
  · exact modQueue_keeps K
  · exact modQueue_keeps (modCan_keeps K)
  · exact countRxDrop_keeps (modCan_keeps K)
  · exact modSPort_keeps (abortFrame_keeps K)
  · split
    · exact Keeps.ite (endOp_keeps K) K
    · exact K
  · exact cancelSwitch_keeps K
  · exact K
  · exact K
  · exact K
  · exact K
  · exact K

theorem abortDoomed_keeps {q who s} (K : Keeps P b0 s) : Keeps P b0 (abortDoomed q who s) := by
  unfold abortDoomed; exact abortProducer_keeps (countFlushDrop_keeps (modQueue_keeps K))

theorem effFlushAbortTimeout_keeps {q s} (K : Keeps P b0 s) : Keeps P b0 (effFlushAbortTimeout q s) := by
  unfold effFlushAbortTimeout
  extract_lets +onlyGivenNames x
  exact Keeps.ite (finishFlush_keeps (Keeps.foldl (fun _ _ h1 => (abortDoomed_keeps h1)) K)) K

theorem dropHeldBlock_keeps {s0} (K : Keeps P b0 s0) : Keeps P b0 (dropHeldBlock s0) := by
  unfold dropHeldBlock
  extract_lets +onlyGivenNames s
  have hs : Keeps P b0 s := modQueue_keeps K
  clear_value s
  split
  · exact Keeps.upd hs
  · exact hs

theorem loseEntry_keeps {q place entry s} (K : Keeps P b0 s) : Keeps P b0 (loseEntry q place entry s) := by
  unfold loseEntry
  split
  · exact modQueue_keeps K
  · exact Keeps.ite (dropHeldBlock_keeps K) (modQueue_keeps K)
  · split
    · exact K
    · exact abortProducer_keeps (modQueue_keeps K)

theorem linkFault_keeps (hp : ¬ P .pins) {cell s} (K : Keeps P b0 s) : Keeps P b0 (linkFault cell s) := by
  unfold linkFault
  split
  · exact K
  · exact dropUnit_keeps hp (logFault_keeps (loseEntry_keeps K))

theorem scrubOne_keeps (hp : ¬ P .pins) {s x} (K : Keeps P b0 s) : Keeps P b0 (scrubOne s x) := by
  unfold scrubOne
  split
  · exact countCorr_keeps K
  · exact Keeps.upd K
  · exact scrubPoison_keeps K
  · exact linkFault_keeps hp K

theorem effPoolScrub_keeps (hp : ¬ P .pins) {found t s0} (K : Keeps P b0 s0) : Keeps P b0 (effPoolScrub found t s0) := by
  unfold effPoolScrub
  extract_lets +onlyGivenNames s
  have hs : Keeps P b0 s := advance_keeps K
  clear_value s
  exact Keeps.ite (adapting_keeps (fun _ h3 => Keeps.foldl (fun _ _ h4 => scrubOne_keeps hp h4) (grants_keeps h3)) hs) hs

theorem winWriteRow_keeps {w v f s} (hf : ∀ x, Keeps P b0 x → Keeps P b0 (f x).s) (h : Keeps P b0 s) : Keeps P b0 (winWriteRow w v f s) := by
  unfold winWriteRow; exact Keeps.ite (goodWinWrite_keeps (winDone_keeps (Keeps.iteR (hf _ (hostAt_keeps h)) (denied_keeps h)))) h

theorem effPmPinWrite_keeps (hp : ¬ P .pins) {i v s} (K : Keeps P b0 s) : Keeps P b0 (effPmPinWrite i v s) := by
  unfold effPmPinWrite; exact winWriteRow_keeps (fun _ h => pmPinWrite_keeps hp h) K

theorem effPinQuiesceDone_keeps {i s} (K : Keeps P b0 s) : Keeps P b0 (effPinQuiesceDone i s) := by
  unfold effPinQuiesceDone; exact Keeps.ite (beginTransit_keeps K) K

theorem effPinQuiesceTimeout_keeps {i s} (K : Keeps P b0 s) : Keeps P b0 (effPinQuiesceTimeout i s) := by
  unfold effPinQuiesceTimeout
  exact Keeps.ite (beginTransit_keeps (by
      split
      · exact abortPort_keeps (Keeps.ite (tornEntry_keeps K) K)
      · exact K)) K

theorem effPinAttach_keeps (hp : ¬ P .pins) {i s} (K : Keeps P b0 s) : Keeps P b0 (effPinAttach i s) := by
  unfold effPinAttach; exact adapting_keeps (fun _ h1 => attachPin_keeps hp h1) K

theorem effCaptureEdge_keeps {n rising t s0} (K : Keeps P b0 s0) : Keeps P b0 (effCaptureEdge n rising t s0) := by
  unfold effCaptureEdge
  extract_lets +onlyGivenNames s
  have hs : Keeps P b0 s := advance_keeps K
  clear_value s
  split
  · exact hs
  · split
    · extract_lets +onlyGivenNames s1
      have hs1 : Keeps P b0 s1 := modPin_keeps hs ⟨rfl, rfl, .inl rfl⟩
      clear_value s1
      extract_lets old new _ s2
      have hs2 : Keeps P b0 s2 := Keeps.upd hs1 (by dsimp only [watch, s2]; split <;> rfl)
      clear_value s2
      exact Keeps.ite (Keeps.ite (tapTrigger_keeps (attend_keeps hs2)) (attend_keeps hs2)) hs2
    · exact hs

theorem cutBank_keeps {b s} (K : Keeps P b0 s) : Keeps P b0 (cutBank b s) := by
  unfold cutBank; exact Keeps.foldl (fun _ _ h1 => Keeps.ite h1 (Keeps.ite (cutS_keeps (tornEntry_keeps h1)) (Keeps.ite (Keeps.foldl (fun _ _ h5 => Keeps.ite (failAttempt_keeps h5) h5) (cutI_keeps h1)) h1))) K

theorem effBankSupplyLow_keeps {banks t s0} (K : Keeps P b0 s0) : Keeps P b0 (effBankSupplyLow banks t s0) := by
  unfold effBankSupplyLow
  extract_lets +onlyGivenNames s
  have hs : Keeps P b0 s := advance_keeps K
  clear_value s
  extract_lets +onlyGivenNames _
  exact Keeps.ite hs (adapting_keeps (fun _ h3 => by
      extract_lets +onlyGivenNames _ _ low
      have hlow : Keeps P b0 low := Keeps.upd h3
      clear_value low
      extract_lets +onlyGivenNames s1
      have hs1 : Keeps P b0 s1 := Keeps.ite hlow (logFault_keeps hlow)
      clear_value s1
      exact Keeps.foldl (fun _ _ h5 => Keeps.ite (cutBank_keeps h5) h5) hs1) hs)

theorem effBankSupplyReturn_keeps {s} (K : Keeps P b0 s) : Keeps P b0 (effBankSupplyReturn s) := by
  unfold effBankSupplyReturn; exact Keeps.ite K (adapting_keeps (fun _ h0 => Keeps.ite (Keeps.upd h0) (endFault_keeps (Keeps.upd h0))) K)

theorem showDecision_keeps {c result s0} (K : Keeps P b0 s0) : Keeps P b0 (showDecision c result s0) := by
  unfold showDecision
  extract_lets +onlyGivenNames s
  have hs : Keeps P b0 s := grants_keeps (emptyQueue_keeps (abandonItem_keeps K))
  clear_value s
  exact recRein_keeps (Keeps.upd hs)

theorem rejectCommand_keeps {c r} (K : Keeps P b0 r.2) : Keeps P b0 (rejectCommand c r) := by
  unfold rejectCommand
  extract_lets s _ s1
  have hs1 : Keeps P b0 s1 := attend_keeps (Keeps.upd (showDecision_keeps K))
  clear_value s1
  exact Keeps.ite (Keeps.upd hs1) hs1

theorem storeCounter_keeps (hst : ¬ P .store) (hc : ¬ P .counter) {v s0} (K : Keeps P b0 s0) : Keeps P b0 (storeCounter v s0) := by
  refine Keeps.trans K ⟨fun p hp => ?_⟩
  cases p with
  | store => exact absurd hp hst
  | counter => exact absurd hp hc
  | mode => exact congrArg (fun x : ModeSt => x.cur) grant_mode
  | lock => exact congrArg (fun x : PinsSt => x.lock) grant_pins
  | pins =>
    have same : (storeCounter v s0).pins = s0.pins := grant_pins
    exact ⟨by rw [same], fun i => by simpa only [pinOf, same] using PinKept.refl⟩
  | slots =>
    change (grant 48 false s0).tack.slots = s0.tack.slots
    rw [grant_tack]
  | early => exact congrArg (fun x : PowerSt => x.earlyWake) grant_power

theorem startSwitch_keeps {area s0} (K : Keeps P b0 s0) : Keeps P b0 (startSwitch area s0) := by
  unfold startSwitch
  extract_lets +onlyGivenNames s
  have hs : Keeps P b0 s := grants_keeps (cancelSwitch_keeps K)
  clear_value s
  extract_lets +onlyGivenNames _ s1
  have hs1 : Keeps P b0 s1 := Keeps.upd hs
  clear_value s1
  split
  · exact reserve_keeps hs1 ‹_›
  · exact Keeps.upd hs1

theorem startJob_keeps (hst : ¬ P .store) {j s} (K : Keeps P b0 s) : Keeps P b0 (startJob j s) := by
  unfold startJob; exact Keeps.newStore K hst

theorem startCommit_keeps (hst : ¬ P .store) {c s0} (K : Keeps P b0 s0) : Keeps P b0 (startCommit c s0) := by
  unfold startCommit
  extract_lets +onlyGivenNames s
  have hs : Keeps P b0 s := beginOp_keeps K
  clear_value s
  extract_lets +onlyGivenNames area
  exact Keeps.ite (opEnd_keeps (tackFail_keeps hs)) (startJob_keeps hst hs)

theorem acceptCommit_keeps {e s} (K : Keeps P b0 s) : Keeps P b0 (acceptCommit e s) := by
  unfold acceptCommit
  extract_lets +onlyGivenNames c
  exact setEcr_keeps (Keeps.upd K)

theorem startLoader_keeps {addr units s0} (K : Keeps P b0 s0) : Keeps P b0 (startLoader addr units s0) := by
  unfold startLoader
  extract_lets +onlyGivenNames s
  have hs : Keeps P b0 s := emptyQueue_keeps (abandonItem_keeps K)
  clear_value s
  exact Keeps.upd hs

theorem startKeyLoad_keeps (hsl : ¬ P .slots) {c s} (K : Keeps P b0 s) : Keeps P b0 (startKeyLoad c s) := by
  unfold startKeyLoad; exact Keeps.newSlots K hsl

/-- What the command with OPC `opc` may change besides the counter and the tack store (Table 08-3). -/
structure Runs (P : Part → Prop) (opc : Nat) : Prop where
  store : opc = 0x12 ∨ opc = 0x16 → ¬ P .store
  slots : opc = 0x14 → ¬ P .slots
  mode : opc = 0x15 → ¬ P .mode
  pins : opc = 0x15 → ¬ P .pins
  lock : opc ≠ 0x11 → opc ≠ 0x12 → opc ≠ 0x13 → opc ≠ 0x14 → opc ≠ 0x15 → opc ≠ 0x16 → opc ≠ 0x17 → ¬ P .lock

theorem runCommand_keeps {c s} (r : Runs P c.opc) (K : Keeps P b0 s) : Keeps P b0 (runCommand c s) := by
  unfold runCommand
  split
  · exact startSwitch_keeps K
  · next e => exact startCommit_keeps (r.store (.inl e)) K
  · exact acceptCommit_keeps K
  · next e => exact startKeyLoad_keeps (r.slots e) K
  · next e => exact enterMode_keeps (r.mode e) (r.pins e) (cancelSwitch_keeps (grants_keeps K))
  · next e => exact startJob_keeps (r.store (.inr e)) K
  · exact startLoader_keeps K
  · next n1 n2 n3 n4 n5 n6 n7 =>
    exact Keeps.newLock K (r.lock n1 n2 n3 n4 n5 n6 n7)

theorem acceptCommand_keeps (hst : ¬ P .store) (hc : ¬ P .counter) {c s} (r : Runs P c.opc) (K : Keeps P b0 s) :
    Keeps P b0 (acceptCommand c s) := by
  unfold acceptCommand; exact runCommand_keeps r (Keeps.upd (showDecision_keeps (storeCounter_keeps hst hc K)))

theorem decideCommand_keeps (hst : ¬ P .store) (hc : ¬ P .counter) {opc s} (r : Runs P opc) (K : Keeps P b0 s) :
    Keeps P b0 (decideCommand opc s) := by
  unfold decideCommand
  split
  · exact K
  · split
    · next h =>
      split
      · exact rejectCommand_keeps (firstFailure_keeps K ‹_›)
      · exact acceptCommand_keeps hst hc (h.1 ▸ r) K
    · exact K

theorem effProfileStagingDone_keeps {s} (K : Keeps P b0 s) : Keeps P b0 (effProfileStagingDone s) := by
  unfold effProfileStagingDone
  extract_lets +onlyGivenNames _
  exact Keeps.ite (by
      extract_lets +onlyGivenNames s1
      have hs1 : Keeps P b0 s1 := grants_keeps K
      clear_value s1
      split
      · extract_lets +onlyGivenNames _ s11
        have hs11 : Keeps P b0 s11 := closeItem_keeps hs1
        clear_value s11
        exact Keeps.upd hs11
      · extract_lets +onlyGivenNames _ s11
        have hs11 : Keeps P b0 s11 := freeStaging_keeps (Keeps.upd hs1)
        clear_value s11
        exact Keeps.ite (Keeps.upd hs11) (Keeps.upd hs11)) K

theorem effProfileExpansionEnd_keeps {s} (K : Keeps P b0 s) : Keeps P b0 (effProfileExpansionEnd s) := by
  unfold effProfileExpansionEnd; exact Keeps.ite (dueRuns_keeps (applyStaged_keeps K)) K

theorem failErase_keeps (hst : ¬ P .store) {j s} (K : Keeps P b0 s) : Keeps P b0 (failErase j s) := by
  unfold failErase; exact scanCopies_keeps (tackFail_keeps (drawn_keeps (tackWrite_keeps hst (endJob_keeps hst K))))

theorem effTackWriteJobDone_keeps (hst : ¬ P .store) {out s} (K : Keeps P b0 s) : Keeps P b0 (effTackWriteJobDone out s) := by
  unfold effTackWriteJobDone
  split
  · exact K
  · exact Keeps.ite K (Keeps.ite (by
        split
        · exact scanCopies_keeps (tackWrite_keeps hst (endJob_keeps hst K))
        · exact K
        · exact tackFail_keeps (tearJob_keeps K)) (by
        split
        · exact Keeps.ite K (opEnd_keeps (failErase_keeps hst K))
        · extract_lets +onlyGivenNames s1
          have hs1 : Keeps P b0 s1 := moveCommit_keeps K
          clear_value s1
          split
          · exact opEnd_keeps (opPost_keeps (scanCopies_keeps (tackWrite_keeps hst (endJob_keeps hst hs1))))
          · exact hs1
        · extract_lets +onlyGivenNames s1
          have hs1 : Keeps P b0 s1 := moveCommit_keeps K
          clear_value s1
          split
          · exact opEnd_keeps (scanCopies_keeps (tackFail_keeps (drawn_keeps (tackWrite_keeps hst (endJob_keeps hst hs1)))))
          · exact hs1))

theorem effEndpointCommitApply_keeps {ep s} (K : Keeps P b0 s) : Keeps P b0 (effEndpointCommitApply ep s) := by
  unfold effEndpointCommitApply
  split
  · exact K
  · exact Keeps.ite K (applyCommit_keeps K)

theorem effKeyLoadDone_keeps (hsl : ¬ P .slots) {s} (K : Keeps P b0 s) : Keeps P b0 (effKeyLoadDone s) := by
  unfold effKeyLoadDone
  split
  · exact K
  · exact grants_keeps (Keeps.newSlots K hsl)

theorem effAuthHoldEnd_keeps {s} (K : Keeps P b0 s) : Keeps P b0 (effAuthHoldEnd s) := by
  unfold effAuthHoldEnd; exact Keeps.upd K

theorem opCmdRow_keeps {v s} (K : Keeps P b0 s) : Keeps P b0 (opCmdRow v s) := by
  unfold opCmdRow; exact writeRow_keeps (fun _ h => opCmdWrite_keeps h) K

theorem effSelfTest_keeps {s} (K : Keeps P b0 s) : Keeps P b0 (effSelfTest s) := by
  unfold effSelfTest; exact opCmdRow_keeps K

theorem effRollCall_keeps {s} (K : Keeps P b0 s) : Keeps P b0 (effRollCall s) := by
  unfold effRollCall; exact opCmdRow_keeps K

theorem startRecovery_keeps {p s} (K : Keeps P b0 s) : Keeps P b0 (startRecovery p s) := by
  unfold startRecovery
  extract_lets +onlyGivenNames _
  exact grant_keeps (modIPort_keeps K)

theorem declareHang_keeps {p res s} (K : Keeps P b0 s) : Keeps P b0 (declareHang p res s) := by
  unfold declareHang
  extract_lets +onlyGivenNames s0
  have hs0 : Keeps P b0 s0 := tapTrigger_keeps (Keeps.ite (ptCut_keeps K) K)
  clear_value s0
  extract_lets +onlyGivenNames s1
  have hs1 : Keeps P b0 s1 := countWord_keeps (stickI_keeps (startRecovery_keeps hs0))
  clear_value s1
  exact failOnWire_keeps (dropHold_keeps hs1)

theorem probeEnds_keeps {port a last ten total probed repeated out s0} (K : Keeps P b0 s0) :
    Keeps P b0 (probeEnds port a last ten total probed repeated out s0) := by
  unfold probeEnds
  extract_lets +onlyGivenNames p t stuck s
  have hs : Keeps P b0 s := Keeps.ite K (sendI_keeps K)
  clear_value s
  split
  · exact scanFrom_keeps (opPost_keeps (countXfer_keeps (recPort_keeps hs)))
  · exact scanFrom_keeps (countNack_keeps (recPort_keeps hs))
  · exact countArbLost_keeps (recPort_keeps hs)
  · extract_lets _ _ s1
    have hs1 : Keeps P b0 s1 := Keeps.ite (recPort_keeps hs) (declareHang_keeps (recPort_keeps hs))
    clear_value s1
    exact Keeps.ite (scanFrom_keeps hs1) (Keeps.upd hs1)

theorem effRollCallProbe_keeps {out t s0} (K : Keeps P b0 s0) : Keeps P b0 (effRollCallProbe out t s0) := by
  unfold effRollCallProbe
  extract_lets +onlyGivenNames s
  have hs : Keeps P b0 s := advance_keeps K
  clear_value s
  split
  · exact Keeps.ite (probeEnds_keeps hs) hs
  · exact hs

theorem effAutoRate_keeps {s} (K : Keeps P b0 s) : Keeps P b0 (effAutoRate s) := by
  unfold effAutoRate; exact opCmdRow_keeps K

theorem effAutoRateVerifyStart_keeps {s} (K : Keeps P b0 s) : Keeps P b0 (effAutoRateVerifyStart s) := by
  unfold effAutoRateVerifyStart
  split
  · exact Keeps.ite (opProgress_keeps (Keeps.upd K)) K
  · exact K

theorem effProfileLoad_keeps {s} (K : Keeps P b0 s) : Keeps P b0 (effProfileLoad s) := by
  unfold effProfileLoad; exact opCmdRow_keeps K

theorem effTraceDrain_keeps {s} (K : Keeps P b0 s) : Keeps P b0 (effTraceDrain s) := by
  unfold effTraceDrain; exact opCmdRow_keeps K

theorem postSegment_keeps {first seg skip fz err s} (K : Keeps P b0 s) : Keeps P b0 (postSegment first seg skip fz err s) := by
  unfold postSegment
  extract_lets +onlyGivenNames g
  exact opPost_keeps K

theorem effDrainSegmentDone_keeps {flashError s} (K : Keeps P b0 s) : Keeps P b0 (effDrainSegmentDone flashError s) := by
  unfold effDrainSegmentDone
  split
  · split
    · exact runDrain_keeps (Keeps.upd (postSegment_keeps K))
    · exact K
  · split
    · extract_lets +onlyGivenNames g
      have hg : Keeps P b0 g.2.2 := gather_keeps K rfl
      clear_value g
      extract_lets +onlyGivenNames seg keep
      split
      · exact Keeps.upd hg
      · split
        · exact endOp_keeps K
        · extract_lets +onlyGivenNames frames n s1
          have hs1 : Keeps P b0 s1 := Keeps.foldl (fun _ _ h => sendFlash_keeps h) hg
          clear_value s1
          extract_lets +onlyGivenNames src s2
          have hs2 : Keeps P b0 s2 := countWordBy_keeps (Keeps.upd (releaseBlock_keeps hs1))
          clear_value s2
          extract_lets +onlyGivenNames s3
          have hs3 : Keeps P b0 s3 := postSegment_keeps hs2
          clear_value s3
          exact Keeps.ite (endOp_keeps hs3) (pumpS0_keeps (opProgress_keeps (Keeps.upd hs3)))
    · exact K
  · exact K

theorem effQueueFlush_keeps {s} (K : Keeps P b0 s) : Keeps P b0 (effQueueFlush s) := by
  unfold effQueueFlush; exact opCmdRow_keeps K

theorem effKeyframeNow_keeps {s} (K : Keeps P b0 s) : Keeps P b0 (effKeyframeNow s) := by
  unfold effKeyframeNow; exact opCmdRow_keeps K

theorem effReplayRun_keeps {s} (K : Keeps P b0 s) : Keeps P b0 (effReplayRun s) := by
  unfold effReplayRun; exact opCmdRow_keeps K

theorem effFlashProgram_keeps {s} (K : Keeps P b0 s) : Keeps P b0 (effFlashProgram s) := by
  unfold effFlashProgram; exact opCmdRow_keeps K

theorem postFlash_keeps {addr done status extra s} (K : Keeps P b0 s) : Keeps P b0 (postFlash addr done status extra s) := by
  unfold postFlash; exact opPost_keeps K

theorem effFlashStatusPoll_keeps {status s0} (K : Keeps P b0 s0) : Keeps P b0 (effFlashStatusPoll status s0) := by
  unfold effFlashStatusPoll
  split
  · exact Keeps.ite (by
        extract_lets +onlyGivenNames s
        have hs : Keeps P b0 s := sendFlash_keeps K
        clear_value s
        extract_lets +onlyGivenNames _ _ kept
        have hkept : Keeps P b0 kept := Keeps.upd hs
        clear_value kept
        exact Keeps.ite (Keeps.ite (pumpS0_keeps hkept) (endOp_keeps (postFlash_keeps hs))) (Keeps.ite (endOp_keeps (postFlash_keeps hs)) (by
            extract_lets +onlyGivenNames s1
            have hs1 : Keeps P b0 s1 := Keeps.ite (sendFlash_keeps hs) (sendFlash_keeps hs)
            clear_value s1
            exact pumpS0_keeps (opProgress_keeps (Keeps.upd hs1))))) K
  · exact K

theorem effEndpointProbe_keeps {s} (K : Keeps P b0 s) : Keeps P b0 (effEndpointProbe s) := by
  unfold effEndpointProbe; exact opCmdRow_keeps K

theorem effOpAbort_keeps {s} (K : Keeps P b0 s) : Keeps P b0 (effOpAbort s) := by
  unfold effOpAbort; exact opCmdRow_keeps K

theorem postReport_keeps {r s} (K : Keeps P b0 s) : Keeps P b0 (postReport r s) := by
  unfold postReport
  extract_lets +onlyGivenNames w1
  exact opPost_keeps K

theorem failUnit_keeps (hp : ¬ P .pins) {code u island s} (K : Keeps P b0 s) : Keeps P b0 (failUnit code u island s) := by
  unfold failUnit
  split
  · exact K
  · extract_lets +onlyGivenNames s1
    have hs1 : Keeps P b0 s1 := setDropped_keeps K
    clear_value s1
    extract_lets +onlyGivenNames s2
    have hs2 : Keeps P b0 s2 := logFault_keeps hs1
    clear_value s2
    exact reactToFailure_keeps hp (dropTap_keeps hs2)

theorem endSelfTest_keeps (hp : ¬ P .pins) {reports s} (K : Keeps P b0 s) : Keeps P b0 (endSelfTest reports s) := by
  unfold endSelfTest
  extract_lets +onlyGivenNames s1
  have hs1 : Keeps P b0 s1 := endOp_keeps (Keeps.foldl (fun _ _ h2 => (postReport_keeps h2)) K)
  clear_value s1
  refine Keeps.foldl (fun _ _ h0 => ?_) hs1
  split
  · exact Keeps.ite h0 (failUnit_keeps hp h0)
  · exact h0

theorem endAutoRate_keeps {verifying shortest frames consecutive pex s} (K : Keeps P b0 s) : Keeps P b0 (endAutoRate verifying shortest frames consecutive pex s) := by
  unfold endAutoRate
  extract_lets +onlyGivenNames w3 failed
  have hfailed {w1} {w2} {reason} {s} (hs' : Keeps P b0 s) : Keeps P b0 (failed w1 w2 reason s) := by
    dsimp -zeta only [failed]
    exact endOp_keeps (opPost_keeps hs')
  clear_value failed
  extract_lets +onlyGivenNames free free2 drew
  have hdrew : Keeps P b0 drew := Keeps.upd K
  clear_value drew
  split
  · exact hfailed hdrew
  · split
    · exact hfailed hdrew
    · exact Keeps.ite K (Keeps.ite (endOp_keeps (opPost_keeps K)) (hfailed K))

theorem endLoad_keeps {s} (K : Keeps P b0 s) : Keeps P b0 (endLoad s) := by
  unfold endLoad
  extract_lets +onlyGivenNames area
  split
  · extract_lets +onlyGivenNames copy gen
    exact endOp_keeps (opPost_keeps (expandUser_keeps K))
  · exact endOp_keeps (Keeps.upd K)

theorem endJobWith_keeps (hp : ¬ P .pins) {e s} (K : Keeps P b0 s) : Keeps P b0 (endJobWith e s) := by
  unfold endJobWith
  generalize s.op.job = j
  cases j <;> cases e <;> dsimp only <;> first
    | exact K | exact endOp_keeps K | exact endLoad_keeps K | exact endAutoRate_keeps K
    | exact Keeps.ite (endSelfTest_keeps hp K) K | exact Keeps.ite (endOp_keeps K) K | exact Keeps.ite K (endOp_keeps K)

theorem effLongOpEnd_keeps (hp : ¬ P .pins) {e s} (K : Keeps P b0 s) : Keeps P b0 (effLongOpEnd e s) := by
  unfold effLongOpEnd; exact Keeps.ite (Keeps.ite (endOp_keeps K) (endJobWith_keeps hp K)) (Keeps.ite (opEnd_keeps (tearJob_keeps K)) K)

theorem effLongOpBoundExpiry_keeps {s} (K : Keeps P b0 s) : Keeps P b0 (effLongOpBoundExpiry s) := by
  unfold effLongOpBoundExpiry
  split
  · split
    · exact K
    · exact endOp_keeps (postFlash_keeps K)
    · exact endOp_keeps K
  · exact K

theorem effRunAheadDispatch_keeps {ep s} (K : Keeps P b0 s) : Keeps P b0 (effRunAheadDispatch ep s) := by
  unfold effRunAheadDispatch
  extract_lets +onlyGivenNames _ _
  split
  · exact K
  · exact Keeps.ite (by
        extract_lets +onlyGivenNames s1
        have hs1 : Keeps P b0 s1 := Keeps.ite K (advance_keeps K)
        clear_value s1
        exact dispatch_keeps (sortRuns_keeps (Keeps.upd hs1))) K

theorem handOff_keeps {n due lane ht buf lead s} (K : Keeps P b0 s) : Keeps P b0 (handOff n due lane ht buf lead s) := by
  unfold handOff
  extract_lets +onlyGivenNames _
  exact Keeps.upd K

theorem endSample_keeps {i s0} (K : Keeps P b0 s0) : Keeps P b0 (endSample i s0) := by
  unfold endSample
  extract_lets +onlyGivenNames s
  have hs : Keeps P b0 s := releasePorts_keeps K
  clear_value s
  extract_lets +onlyGivenNames _
  exact Keeps.ite (endProbe_keeps hs) (by
      extract_lets +onlyGivenNames s1
      have hs1 : Keeps P b0 s1 := handOff_keeps hs
      clear_value s1
      exact freeLaneAt_keeps (setLast_keeps (countWord_keeps (setEstat_keeps hs1))))

theorem effEndStep_keeps {lane s} (K : Keeps P b0 s) : Keeps P b0 (effEndStep lane s) := by
  unfold effEndStep
  split
  · exact K
  · exact Keeps.ite K (endSample_keeps K)

theorem waitFor_keeps {i w s} (K : Keeps P b0 s) : Keeps P b0 (waitFor i w s) := by
  unfold waitFor; exact modLane_keeps K

theorem nextStep_keeps {i s} (K : Keeps P b0 s) : Keeps P b0 (nextStep i s) := by
  unfold nextStep; exact modLane_keeps K

theorem acquire_keeps {i s} (K : Keeps P b0 s) : Keeps P b0 (acquire i s) := by
  unfold acquire
  extract_lets +onlyGivenNames l
  split
  · exact waitFor_keeps K
  · exact nextStep_keeps K

theorem effAcq_keeps {lane s} (K : Keeps P b0 s) : Keeps P b0 (effAcq lane s) := by
  unfold effAcq
  split
  · exact K
  · exact acquire_keeps K

theorem grantPort_keeps {i p s} (K : Keeps P b0 s) : Keeps P b0 (grantPort i p s) := by
  unfold grantPort
  extract_lets +onlyGivenNames kept _ s1
  have hs1 : Keeps P b0 s1 := Keeps.upd K
  clear_value s1
  exact modLane_keeps hs1

theorem effPortGrant_keeps {lane s} (K : Keeps P b0 s) : Keeps P b0 (effPortGrant lane s) := by
  unfold effPortGrant
  split
  · exact Keeps.ite (acquire_keeps (grantPort_keeps (grants_keeps K))) K
  · exact K

theorem effRel_keeps {lane s} (K : Keeps P b0 s) : Keeps P b0 (effRel lane s) := by
  unfold effRel
  split
  · exact K
  · exact nextStep_keeps (releasePorts_keeps K)

theorem onWire_keeps {i p s} (K : Keeps P b0 s) : Keeps P b0 (onWire i p s) := by
  unfold onWire
  extract_lets +onlyGivenNames l s1
  have hs1 : Keeps P b0 s1 := modLane_keeps K
  clear_value s1
  exact Keeps.ite (setEstat_keeps hs1) hs1

theorem sendStep_keeps {p sel d st s} (K : Keeps P b0 s) : Keeps P b0 (sendStep p sel d st s) := by
  unfold sendStep
  extract_lets +onlyGivenNames _
  exact Keeps.ite (openFrame_keeps K) (sendFrame_keeps K)

theorem startWire_keeps {i p2 st t s} (K : Keeps P b0 s) : Keeps P b0 (startWire i p2 st t s) := by
  unfold startWire
  extract_lets +onlyGivenNames _ _ _ _
  exact Keeps.ite (Keeps.ite (failAttempt_keeps K) (Keeps.ite (onWire_keeps (sendStep_keeps K)) K)) (Keeps.ite (failAttempt_keeps K) (Keeps.ite (failAttempt_keeps (recPort_keeps K)) (Keeps.ite (waitFor_keeps K) (Keeps.ite (onWire_keeps (sendI_keeps K)) K))))

theorem runWire_keeps {i p s} (K : Keeps P b0 s) : Keeps P b0 (runWire i p s) := by
  unfold runWire
  split
  · exact K
  · split
    · exact K
    · exact startWire_keeps K

theorem effSend_keeps {lane s} (K : Keeps P b0 s) : Keeps P b0 (effSend lane s) := by
  unfold effSend; exact runWire_keeps K

theorem effRecv_keeps {lane s} (K : Keeps P b0 s) : Keeps P b0 (effRecv lane s) := by
  unfold effRecv; exact runWire_keeps K

theorem effXfer_keeps {lane s} (K : Keeps P b0 s) : Keeps P b0 (effXfer lane s) := by
  unfold effXfer; exact runWire_keeps K

theorem effFrame_keeps {lane s} (K : Keeps P b0 s) : Keeps P b0 (effFrame lane s) := by
  unfold effFrame; exact runWire_keeps K

theorem iEnd_keeps {p out s} (K : Keeps P b0 s) : Keeps P b0 (iEnd p out s) := by
  unfold iEnd
  split
  · exact countXfer_keeps K
  · exact modIPort_keeps (countXfer_keeps K)
  · exact countNack_keeps K
  · exact countArbLost_keeps K
  · exact K

theorem putBytes_keeps {i off bs s} (K : Keeps P b0 s) : Keeps P b0 (putBytes i off bs s) := by
  unfold putBytes; exact modLane_keeps K

theorem stampPort_keeps {i t s} (K : Keeps P b0 s) : Keeps P b0 (stampPort i t s) := by
  unfold stampPort; exact modLane_keeps K

theorem stepDone_keeps {i st rx t s} (K : Keeps P b0 s) : Keeps P b0 (stepDone i st rx t s) := by
  unfold stepDone
  extract_lets +onlyGivenNames l d
  split
  · exact nextStep_keeps K
  · split
    · exact failAttempt_keeps (Keeps.ite K (countEp_keeps K))
    · extract_lets +onlyGivenNames s1
      have hs1 : Keeps P b0 s1 := Keeps.ite K (putBytes_keeps K)
      clear_value s1
      exact nextStep_keeps (stampPort_keeps hs1)

theorem wireEnd_keeps {i p st out0 rx t s} (K : Keeps P b0 s) : Keeps P b0 (wireEnd i p st out0 rx t s) := by
  unfold wireEnd
  extract_lets +onlyGivenNames _ _ _ _ _ r
  have hr : Keeps P b0 r.2 := by
    dsimp only [r]
    split
    · exact sEnd_keeps K rfl
    · exact iEnd_keeps K
  clear_value r
  extract_lets +onlyGivenNames s1
  have hs1 : Keeps P b0 s1 := recPort_keeps hr
  clear_value s1
  extract_lets +onlyGivenNames s2
  have hs2 : Keeps P b0 s2 := modLane_keeps hs1
  clear_value s2
  extract_lets +onlyGivenNames s3
  have hs3 : Keeps P b0 s3 := Keeps.ite (freeLaneAt_keeps (releasePorts_keeps hs2)) (Keeps.ite (failAttempt_keeps hs2) (Keeps.ite (Keeps.ite (stepDone_keeps hs2) (failAttempt_keeps hs2)) (failAttempt_keeps hs2)))
  clear_value s3
  exact pumpPort_keeps hs3

theorem laneEnds_keeps {i out rx s} (K : Keeps P b0 s) : Keeps P b0 (laneEnds i out rx s) := by
  unfold laneEnds
  split
  · exact wireEnd_keeps K
  · exact K

theorem effPortStepComplete_keeps {lane out rx t s0} (K : Keeps P b0 s0) : Keeps P b0 (effPortStepComplete lane out rx t s0) := by
  unfold effPortStepComplete
  extract_lets +onlyGivenNames s
  have hs : Keeps P b0 s := advance_keeps K
  clear_value s
  exact Keeps.ite (laneEnds_keeps hs) hs

theorem effWait_keeps {lane s} (K : Keeps P b0 s) : Keeps P b0 (effWait lane s) := by
  unfold effWait
  split
  · exact K
  · exact waitFor_keeps K

theorem effWaitt_keeps {lane s} (K : Keeps P b0 s) : Keeps P b0 (effWaitt lane s) := by
  unfold effWaitt
  split
  · exact Keeps.ite (nextStep_keeps K) (waitFor_keeps K)
  · exact K

theorem effWaitExpiry_keeps {lane s} (K : Keeps P b0 s) : Keeps P b0 (effWaitExpiry lane s) := by
  unfold effWaitExpiry; exact Keeps.ite (nextStep_keeps K) K

theorem effWaitpin_keeps {lane s} (K : Keeps P b0 s) : Keeps P b0 (effWaitpin lane s) := by
  unfold effWaitpin
  split
  · exact Keeps.ite (nextStep_keeps (drawn_keeps K)) (waitFor_keeps (drawn_keeps K))
  · exact K

theorem effWaitpinMatch_keeps {lane s} (K : Keeps P b0 s) : Keeps P b0 (effWaitpinMatch lane s) := by
  unfold effWaitpinMatch
  split
  · exact Keeps.ite (nextStep_keeps (modPin_keeps K ⟨rfl, rfl, .inl rfl⟩)) K
  · exact K

theorem takeFrame_keeps {i ht bytes s} (K : Keeps P b0 s) : Keeps P b0 (takeFrame i ht bytes s) := by
  unfold takeFrame
  split
  · exact nextStep_keeps (stampPort_keeps (putBytes_keeps K))
  · exact K

theorem frameAwaited_keeps {port s} (K : Keeps P b0 s) : Keeps P b0 (frameAwaited port s) := by
  unfold frameAwaited; exact Keeps.ite (grant_keeps K) K

theorem effWaitfrm_keeps {lane s} (K : Keeps P b0 s) : Keeps P b0 (effWaitfrm lane s) := by
  unfold effWaitfrm
  extract_lets +onlyGivenNames _
  split
  · exact K
  · extract_lets +onlyGivenNames _
    exact Keeps.ite (failAttempt_keeps K) (by
        split
        · exact waitFor_keeps (frameAwaited_keeps K)
        · exact takeFrame_keeps (setEstat_keeps (Keeps.upd K)))

theorem stampGet_keeps {i t s} (K : Keeps P b0 s) : Keeps P b0 (stampGet i t s) := by
  unfold stampGet; exact modLane_keeps K

theorem copyField_keeps {i f off n s} (K : Keeps P b0 s) : Keeps P b0 (copyField i f off n s) := by
  unfold copyField; exact nextStep_keeps (stampGet_keeps (putBytes_keeps K))

theorem effGet_keeps {lane t s0} (K : Keeps P b0 s0) : Keeps P b0 (effGet lane t s0) := by
  unfold effGet
  extract_lets +onlyGivenNames s
  have hs : Keeps P b0 s := advance_keeps K
  clear_value s
  extract_lets +onlyGivenNames i
  split
  · exact Keeps.ite (nextStep_keeps (stampGet_keeps (putBytes_keeps hs))) (Keeps.ite (waitFor_keeps hs) (copyField_keeps hs))
  · exact hs

theorem effGetSampleReady_keeps {lane t s0} (K : Keeps P b0 s0) : Keeps P b0 (effGetSampleReady lane t s0) := by
  unfold effGetSampleReady
  extract_lets +onlyGivenNames s
  have hs : Keeps P b0 s := advance_keeps K
  clear_value s
  extract_lets +onlyGivenNames _
  split
  · exact Keeps.ite hs (by
        split
        · exact copyField_keeps (grant_keeps hs)
        · exact hs)
  · exact hs

theorem effSplit_keeps {lane t s0} (K : Keeps P b0 s0) : Keeps P b0 (effSplit lane t s0) := by
  unfold effSplit
  extract_lets +onlyGivenNames s
  have hs : Keeps P b0 s := advance_keeps K
  clear_value s
  extract_lets +onlyGivenNames i
  split
  · exact hs
  · extract_lets +onlyGivenNames s1
    have hs1 : Keeps P b0 s1 := releasePorts_keeps hs
    clear_value s1
    extract_lets +onlyGivenNames l
    exact Keeps.ite (freeLaneAt_keeps (Keeps.upd hs1)) (Keeps.ite (modLane_keeps (nextStep_keeps hs1)) (startAttempt_keeps (modLane_keeps hs1)))

theorem effFlush_keeps {lane s} (K : Keeps P b0 s) : Keeps P b0 (effFlush lane s) := by
  unfold effFlush
  extract_lets +onlyGivenNames i
  split
  · exact Keeps.ite (modLane_keeps (nextStep_keeps K)) (modLane_keeps K)
  · exact K

theorem effSkip_keeps {lane s} (K : Keeps P b0 s) : Keeps P b0 (effSkip lane s) := by
  unfold effSkip
  extract_lets +onlyGivenNames i
  split
  · extract_lets +onlyGivenNames hit
    exact modLane_keeps K
  · exact K

theorem effAttemptTimeout_keeps {lane s} (K : Keeps P b0 s) : Keeps P b0 (effAttemptTimeout lane s) := by
  unfold effAttemptTimeout
  extract_lets +onlyGivenNames _ _
  split
  · exact K
  · exact K
  · exact Keeps.ite K (by
        extract_lets +onlyGivenNames s1
        have hs1 : Keeps P b0 s1 := Keeps.ite K (countEp_keeps K)
        clear_value s1
        split
        · exact modLane_keeps hs1
        · exact failAttempt_keeps (waitFor_keeps hs1))

theorem effRetryGapExpiry_keeps {lane s} (K : Keeps P b0 s) : Keeps P b0 (effRetryGapExpiry lane s) := by
  unfold effRetryGapExpiry
  extract_lets +onlyGivenNames i l
  split
  · split
    · extract_lets +onlyGivenNames d whole s1
      have hs1 : Keeps P b0 s1 := countEp_keeps (modLane_keeps K)
      clear_value s1
      exact startAttempt_keeps hs1
    · exact endMissed_keeps K
  · exact K

theorem withRunning_keeps {m f s} (hf : ∀ x, Keeps P b0 x → Keeps P b0 (f x)) (h : Keeps P b0 s) :
    Keeps P b0 (withRunning m f s) := by
  unfold withRunning
  have h1 : Keeps P b0 (f { s with cfg := { s.cfg with user := m, fallback := m } }) := hf _ (Keeps.upd h)
  generalize f _ = s1 at h1
  exact Keeps.upd h1

theorem makeEventRoom_keeps {n s} (K : Keeps P b0 s) : Keeps P b0 (makeEventRoom n s) := by
  induction n generalizing s with
  | zero => exact K
  | succ n ih =>
    unfold makeEventRoom; refine Keeps.ite K ?_
    split
    · exact K
    · exact ih (lost_keeps (dropOldest_keeps K))

theorem eventRoom_keeps {s} (K : Keeps P b0 s) : Keeps P b0 (eventRoom s) := by
  unfold eventRoom; exact Keeps.ite (makeEventRoom_keeps K) K

theorem putEvent_keeps {b words s} (K : Keeps P b0 s) : Keeps P b0 (putEvent b words s) := by
  unfold putEvent
  cases e : putItem 56 .event 0 (bytesOf words) 0 (grant 180 b s) with
  | none => exact K
  | some t => exact putItem_keeps (grant_keeps K) e

theorem postEvent_keeps {words s0} (K : Keeps P b0 s0) : Keeps P b0 (postEvent words s0) := by
  unfold postEvent
  extract_lets +onlyGivenNames s
  have hs : Keeps P b0 s := eventRoom_keeps K
  clear_value s
  exact Keeps.ite (Keeps.upd hs) (Keeps.ite (by
      extract_lets +onlyGivenNames s1
      have hs1 : Keeps P b0 s1 := Keeps.ite hs (putEvent_keeps hs)
      clear_value s1
      exact attend_keeps (putEvent_keeps (Keeps.upd hs1))) (markDrop_keeps (Keeps.upd hs)))

theorem postExpress_keeps {n ht s} (K : Keeps P b0 s) : Keeps P b0 (postExpress n ht s) := by
  unfold postExpress; exact attend_keeps (postEvent_keeps K)

theorem settleLate_keeps {n s} (K : Keeps P b0 s) : Keeps P b0 (settleLate n s) := by
  unfold settleLate
  extract_lets +onlyGivenNames _
  exact Keeps.foldl (fun _ _ h2 => grant_keeps (Keeps.ite (postExpress_keeps h2) h2)) (Keeps.upd K)

theorem expressCheck_keeps {p direct passed s} (K : Keeps P b0 s) : Keeps P b0 (expressCheck p direct passed s) := by
  unfold expressCheck
  extract_lets +onlyGivenNames s1
  have hs1 : Keeps P b0 s1 := grants_keeps K
  clear_value s1
  exact Keeps.ite (grant_keeps (postExpress_keeps (settleLate_keeps hs1))) (Keeps.upd hs1)

theorem expressFault_keeps (hp : ¬ P .pins) {n s} (K : Keeps P b0 s) : Keeps P b0 (expressFault n s) := by
  unfold expressFault; exact dropUnit_keeps hp (logFault_keeps K)

theorem writeStaging_keeps {n x s} (K : Keeps P b0 s) : Keeps P b0 (writeStaging n x s) := by
  unfold writeStaging; exact grants_keeps (setStaging_keeps K)

theorem stageSample_keeps {p c xp s} (K : Keeps P b0 s) : Keeps P b0 (stageSample p c xp s) := by
  unfold stageSample
  split
  · exact Keeps.upd K
  · exact Keeps.ite K (Keeps.ite (writeStaging_keeps K) (Keeps.ite (grant_keeps (Keeps.upd K)) (Keeps.ite (Keeps.upd K) (writeStaging_keeps K))))

theorem renewWindows_keeps {n s0} (K : Keeps P b0 s0) : Keeps P b0 (renewWindows n s0) := by
  unfold renewWindows
  extract_lets +onlyGivenNames _ s
  have hs : Keeps P b0 s := Keeps.upd K
  clear_value s
  exact Keeps.foldl (fun _ _ h0 => (Keeps.ite (renewWindow_keeps h0) h0)) hs

theorem groupGrants_keeps {n passed s} (K : Keeps P b0 s) : Keeps P b0 (groupGrants n passed s) := by
  unfold groupGrants; exact Keeps.ite (grants_keeps K) K

theorem meetGets_keeps {n s} (K : Keeps P b0 s) : Keeps P b0 (meetGets n s) := by
  unfold meetGets; exact grants_keeps K

theorem completeSample_keeps (hp : ¬ P .pins) {p s0} (K : Keeps P b0 s0) : Keeps P b0 (completeSample p s0) := by
  unfold completeSample
  refine withRunning_keeps (fun _ h0 => ?_) K
  extract_lets +onlyGivenNames express direct c s1
  have hc : Keeps P b0 c.2 := conditionSample_keeps (grants_keeps h0) rfl
  have hs1 : Keeps P b0 s1 := groupGrants_keeps (Keeps.ite (expressCheck_keeps hc) hc)
  clear_value s1
  extract_lets s2 s3
  have hs3 : Keeps P b0 s3 := meetGets_keeps (stageSample_keeps (renewWindows_keeps (Keeps.ite (expressFault_keeps hp hs1) hs1)))
  clear_value s3
  exact Keeps.ite (tapTrigger_keeps hs3) hs3

theorem effSampleCompletion_keeps (hp : ¬ P .pins) {t s0} (K : Keeps P b0 s0) : Keeps P b0 (effSampleCompletion t s0) := by
  unfold effSampleCompletion
  extract_lets +onlyGivenNames s
  have hs : Keeps P b0 s := advance_keeps K
  clear_value s
  split
  · exact hs
  · exact completeSample_keeps hp (Keeps.upd hs)

theorem effLateExpressRoute_keeps {t s0} (K : Keeps P b0 s0) : Keeps P b0 (effLateExpressRoute t s0) := by
  unfold effLateExpressRoute
  extract_lets +onlyGivenNames s
  have hs : Keeps P b0 s := advance_keeps K
  clear_value s
  split
  · exact hs
  · exact Keeps.ite hs (by
        extract_lets +onlyGivenNames _ s1
        have hs1 : Keeps P b0 s1 := grant_keeps (Keeps.upd hs)
        clear_value s1
        exact Keeps.ite (postExpress_keeps hs1) hs1)

theorem effCanStartRequest_keeps {ch v s} (K : Keeps P b0 s) : Keeps P b0 (effCanStartRequest ch v s) := by
  unfold effCanStartRequest
  extract_lets +onlyGivenNames w
  exact writeRow_keeps (fun _ h => canCtrlWrite_keeps h) K

theorem effCanStopRequest_keeps {ch v s} (K : Keeps P b0 s) : Keeps P b0 (effCanStopRequest ch v s) := by
  unfold effCanStopRequest
  extract_lets +onlyGivenNames w
  exact writeRow_keeps (fun _ h => canCtrlWrite_keeps h) K

theorem effCanChannelStop_keeps {ch s} (K : Keeps P b0 s) : Keeps P b0 (effCanChannelStop ch s) := by
  unfold effCanChannelStop; exact Keeps.ite (stopCan_keeps K) K

end Sys2Proof.Proofs.Frame

/-! PROOFS. What every operation keeps of the parts of the state that few commands change, part 4 of 4: one lemma for each, in the order
of use. -/

namespace Sys2Proof.Proofs.Frame

set_option Elab.async false

open Sys2Proof.Machine Sys2Proof.Laws

variable {P : Part → Prop} {b0 : State}

theorem integrate_keeps {ch s} (K : Keeps P b0 s) : Keeps P b0 (integrate ch s) := by
  unfold integrate
  extract_lets +onlyGivenNames c
  exact Keeps.ite (settleLead_keeps (modCan_keeps K)) K

theorem effCanIntegrationDone_keeps {ch s} (K : Keeps P b0 s) : Keeps P b0 (effCanIntegrationDone ch s) := by
  unfold effCanIntegrationDone; exact Keeps.ite K (integrate_keeps K)

theorem controlField_keeps {ch f s0} (K : Keeps P b0 s0) : Keeps P b0 (controlField ch f s0) := by
  unfold controlField
  extract_lets +onlyGivenNames s
  have hs : Keeps P b0 s := grants_keeps K
  clear_value s
  extract_lets +onlyGivenNames c mine pair set
  have hset {item} {s} (hs' : Keeps P b0 s) : Keeps P b0 (set item s) := by
    dsimp -zeta only [set]
    exact modCan_keeps hs'
  clear_value set
  split
  · exact hset hs
  · extract_lets +onlyGivenNames q
    split
    · exact hset (reserve_keeps hs ‹_›)
    · exact hset (countRxDrop_keeps (markDrop_keeps hs))

theorem recCan_keeps {ch evt lec f t sof s} (K : Keeps P b0 s) : Keeps P b0 (recCan ch evt lec f t sof s) := by
  unfold recCan; exact tapAppend_keeps K

theorem recCanEvent_keeps {ch evt t s} (K : Keeps P b0 s) : Keeps P b0 (recCanEvent ch evt t s) := by
  unfold recCanEvent; exact tapAppend_keeps K

theorem setCounters_keeps {ch tec recc t s} (K : Keeps P b0 s) : Keeps P b0 (setCounters ch tec recc t s) := by
  unfold setCounters
  extract_lets +onlyGivenNames _ s1
  have hs1 : Keeps P b0 s1 := grant_keeps (modCan_keeps K)
  clear_value s1
  extract_lets +onlyGivenNames s2
  have hs2 : Keeps P b0 s2 := Keeps.ite (canEvent_keeps hs1) hs1
  clear_value s2
  extract_lets +onlyGivenNames s3
  have hs3 : Keeps P b0 s3 := Keeps.ite (canEvent_keeps hs2) hs2
  clear_value s3
  exact Keeps.ite (by
      extract_lets +onlyGivenNames s4
      have hs4 : Keeps P b0 s4 := countCan_keeps (modCan_keeps hs3)
      clear_value s4
      exact settleLead_keeps (tapTrigger_keeps (recCanEvent_keeps (canEvent_keeps hs4)))) hs3

theorem recAfterRx_keeps {ch t s} (K : Keeps P b0 s) : Keeps P b0 (recAfterRx ch t s) := by
  unfold recAfterRx
  extract_lets +onlyGivenNames c
  exact Keeps.ite K (Keeps.ite (drawn_keeps (setCounters_keeps K)) (setCounters_keeps K))

theorem syncReceived_keeps {data sof s} (K : Keeps P b0 s) : Keeps P b0 (syncReceived data sof s) := by
  unfold syncReceived
  extract_lets +onlyGivenNames node lower rx mm _ s1
  have hs1 : Keeps P b0 s1 := Keeps.upd K
  clear_value s1
  extract_lets +onlyGivenNames heard
  have hheard {s} (hs' : Keeps P b0 s) : Keeps P b0 (heard s) := by
    dsimp -zeta only [heard]
    exact Keeps.upd hs'
  clear_value heard
  extract_lets +onlyGivenNames follow
  have hfollow {s} (hs' : Keeps P b0 s) : Keeps P b0 (follow s) := by
    dsimp -zeta only [follow]
    extract_lets +onlyGivenNames src
    have hsrc : Keeps P b0 src := hheard hs'
    clear_value src
    extract_lets +onlyGivenNames _ s2
    have hs2 : Keeps P b0 s2 := Keeps.upd hsrc
    clear_value s2
    exact Keeps.ite (loseLock_keeps hs2) hs2
  clear_value follow
  exact Keeps.ite (Keeps.ite (hfollow (settleLead_keeps (Keeps.upd hs1))) (loseLock_keeps (hheard hs1))) (Keeps.ite hs1 (hfollow hs1))

theorem byStep_keeps {est leadPeriod s} (K : Keeps P b0 s) : Keeps P b0 (byStep est leadPeriod s) := by
  unfold byStep
  split
  · exact K
  · extract_lets +onlyGivenNames next
    exact loseLock_keeps (Keeps.upd K)

theorem pairReceived_keeps {rx delta s} (K : Keeps P b0 s) : Keeps P b0 (pairReceived rx delta s) := by
  unfold pairReceived
  extract_lets +onlyGivenNames est
  split
  · exact K
  · extract_lets +onlyGivenNames off _ s1
    have hs1 : Keeps P b0 s1 := Keeps.upd K
    clear_value s1
    split
    · exact byStep_keeps hs1
    · extract_lets +onlyGivenNames _ s2
      have hs2 : Keeps P b0 s2 := Keeps.upd hs1
      clear_value s2
      split
      · exact loseLock_keeps hs2
      · split
        · extract_lets +onlyGivenNames n _ s3
          have hs3 : Keeps P b0 s3 := Keeps.upd hs2
          clear_value s3
          exact Keeps.ite (gainLock_keeps hs3) hs3
        · exact Keeps.upd hs2

theorem fupReceived_keeps {data s} (K : Keeps P b0 s) : Keeps P b0 (fupReceived data s) := by
  unfold fupReceived
  split
  · exact K
  · exact Keeps.ite (pairReceived_keeps K) K

theorem boryelFrame_keeps {f sof s} (K : Keeps P b0 s) : Keeps P b0 (boryelFrame f sof s) := by
  unfold boryelFrame; exact Keeps.ite (Keeps.ite (syncReceived_keeps (grant_keeps K)) (fupReceived_keeps (grant_keeps K))) K

theorem commitRx_keeps {ch f r sof s} (K : Keeps P b0 s) : Keeps P b0 (commitRx ch f r sof s) := by
  unfold commitRx
  split
  · extract_lets +onlyGivenNames _ s1
    have hs1 : Keeps P b0 s1 := grant_keeps (closeItem_keeps K)
    clear_value s1
    exact Keeps.ite (countCan_keeps hs1) hs1
  · exact K

theorem deliverFrame_keeps {n ht bytes s} (K : Keeps P b0 s) : Keeps P b0 (deliverFrame n ht bytes s) := by
  unfold deliverFrame
  split
  · split
    · exact takeFrame_keeps K
    · extract_lets +onlyGivenNames s1
      have hs1 : Keeps P b0 s1 := Keeps.ite (countEp_keeps K) K
      clear_value s1
      exact setEstat_keeps (Keeps.upd hs1)
  · exact K

theorem frameToEndpoint_keeps {ch f w t s} (K : Keeps P b0 s) : Keeps P b0 (frameToEndpoint ch f w t s) := by
  unfold frameToEndpoint; exact Keeps.ite (deliverFrame_keeps (grant_keeps K)) (countCan_keeps K)

theorem frameEnds_keeps {ch s} (K : Keeps P b0 s) : Keeps P b0 (frameEnds ch s) := by
  unfold frameEnds; exact grants_keeps K

theorem completeRx_keeps {ch f r sof t s} (K : Keeps P b0 s) : Keeps P b0 (completeRx ch f r sof t s) := by
  unfold completeRx
  extract_lets +onlyGivenNames s1
  have hs1 : Keeps P b0 s1 := recCan_keeps (frameEnds_keeps K)
  clear_value s1
  extract_lets +onlyGivenNames s2
  have hs2 : Keeps P b0 s2 := recAfterRx_keeps (countCan_keeps (modCan_keeps hs1))
  clear_value s2
  exact Keeps.ite (boryelFrame_keeps hs2) (by
      extract_lets +onlyGivenNames s3
      have hs3 : Keeps P b0 s3 := commitRx_keeps hs2
      clear_value s3
      split
      · exact Keeps.ite (countCan_keeps hs3) hs3
      · extract_lets +onlyGivenNames s4
        have hs4 : Keeps P b0 s4 := countWord_keeps hs3
        clear_value s4
        exact Keeps.ite (frameToEndpoint_keeps hs4) hs4)

theorem receiveCan_keeps {ch f sof s} (K : Keeps P b0 s) : Keeps P b0 (receiveCan ch f sof s) := by
  unfold receiveCan
  extract_lets +onlyGivenNames s1
  have hs1 : Keeps P b0 s1 := Keeps.ite (controlField_keeps K) K
  clear_value s1
  split
  · exact K
  · exact Keeps.ite (completeRx_keeps hs1) K

theorem effCanFrameReceived_keeps {ch f sof t s0} (K : Keeps P b0 s0) : Keeps P b0 (effCanFrameReceived ch f sof t s0) := by
  unfold effCanFrameReceived
  extract_lets +onlyGivenNames s
  have hs : Keeps P b0 s := advance_keeps K
  clear_value s
  exact Keeps.ite hs (receiveCan_keeps hs)

theorem canError_keeps {ch e s} (K : Keeps P b0 s) : Keeps P b0 (canError ch e s) := by
  unfold canError
  extract_lets +onlyGivenNames _ s1
  have hs1 : Keeps P b0 s1 := recCan_keeps (modCan_keeps (frameEnds_keeps K))
  clear_value s1
  extract_lets +onlyGivenNames s2
  have hs2 : Keeps P b0 s2 := Keeps.ite (countCan_keeps hs1) (countCan_keeps (dropRxItem_keeps hs1))
  clear_value s2
  exact Keeps.ite hs2 (Keeps.ite (setCounters_keeps hs2) (setCounters_keeps hs2))

theorem effCanFrameError_keeps {ch e t s0} (K : Keeps P b0 s0) : Keeps P b0 (effCanFrameError ch e t s0) := by
  unfold effCanFrameError
  extract_lets +onlyGivenNames s
  have hs : Keeps P b0 s := advance_keeps K
  clear_value s
  extract_lets +onlyGivenNames c
  exact Keeps.ite (canError_keeps hs) hs

theorem protocolException_keeps {ch s} (K : Keeps P b0 s) : Keeps P b0 (protocolException ch s) := by
  unfold protocolException; exact recCanEvent_keeps (canEvent_keeps (countCan_keeps (modCan_keeps (grant_keeps K))))

theorem effCanProtocolException_keeps {ch t s0} (K : Keeps P b0 s0) : Keeps P b0 (effCanProtocolException ch t s0) := by
  unfold effCanProtocolException
  extract_lets +onlyGivenNames s
  have hs : Keeps P b0 s := advance_keeps K
  clear_value s
  exact Keeps.ite (protocolException_keeps hs) hs

theorem effCanRecoveryStart_keeps {ch s} (K : Keeps P b0 s) : Keeps P b0 (effCanRecoveryStart ch s) := by
  unfold effCanRecoveryStart
  extract_lets +onlyGivenNames _
  exact Keeps.ite (grant_keeps (modCan_keeps K)) K

theorem recoverCan_keeps {ch s} (K : Keeps P b0 s) : Keeps P b0 (recoverCan ch s) := by
  unfold recoverCan; exact settleLead_keeps (recCanEvent_keeps (canEvent_keeps (modCan_keeps K)))

theorem effCanRecoveryDone_keeps {ch t s0} (K : Keeps P b0 s0) : Keeps P b0 (effCanRecoveryDone ch t s0) := by
  unfold effCanRecoveryDone
  extract_lets +onlyGivenNames s
  have hs : Keeps P b0 s := advance_keeps K
  clear_value s
  exact Keeps.ite (recoverCan_keeps hs) hs

theorem takeTx_keeps {ch s0} (K : Keeps P b0 s0) : Keeps P b0 (takeTx ch s0) := by
  unfold takeTx
  split
  · extract_lets +onlyGivenNames s
    have hs : Keeps P b0 s := skipBad_keeps K
    clear_value s
    cases e : takeItem (txQueue ch) s with
    | none => exact hs
    | some p =>
      have hp : Keeps P b0 p.2 := takeItem_keeps hs e
      exact Keeps.ite (canEvent_keeps (countCan_keeps (grants_keeps hp))) (modCan_keeps (grants_keeps hp))
  · exact K

theorem effCanTxTake_keeps {ch s} (K : Keeps P b0 s) : Keeps P b0 (effCanTxTake ch s) := by
  unfold effCanTxTake; exact takeTx_keeps K

theorem showDelay_keeps {ch d s} (K : Keeps P b0 s) : Keeps P b0 (showDelay ch d s) := by
  unfold showDelay
  extract_lets +onlyGivenNames s1
  have hs1 : Keeps P b0 s1 := setStatWord_keeps K
  clear_value s1
  exact Keeps.ite (canEvent_keeps hs1) hs1

theorem syncSent_keeps {sof s} (K : Keeps P b0 s) : Keeps P b0 (syncSent sof s) := by
  unfold syncSent
  split
  · exact K
  · exact queueBoryel_keeps (Keeps.upd K)

theorem txDone_keeps {ch x delay sof t s} (K : Keeps P b0 s) : Keeps P b0 (txDone ch x delay sof t s) := by
  unfold txDone
  extract_lets +onlyGivenNames s0
  have hs0 : Keeps P b0 s0 := grant_keeps (frameEnds_keeps K)
  clear_value s0
  extract_lets +onlyGivenNames s1
  have hs1 : Keeps P b0 s1 := recCan_keeps (countCan_keeps (modCan_keeps hs0))
  clear_value s1
  extract_lets +onlyGivenNames s2
  have hs2 : Keeps P b0 s2 := setCounters_keeps hs1
  clear_value s2
  extract_lets +onlyGivenNames s3
  have hs3 : Keeps P b0 s3 := by
    dsimp only [s3]
    split
    · exact showDelay_keeps hs2
    · exact hs2
  clear_value s3
  exact Keeps.ite (syncSent_keeps hs3) hs3

theorem effCanFrameTransmitted_keeps {ch delay sof t s0} (K : Keeps P b0 s0) : Keeps P b0 (effCanFrameTransmitted ch delay sof t s0) := by
  unfold effCanFrameTransmitted
  extract_lets +onlyGivenNames s
  have hs : Keeps P b0 s := advance_keeps K
  clear_value s
  extract_lets +onlyGivenNames c
  split
  · exact hs
  · exact Keeps.ite (txDone_keeps hs) hs

theorem effCanArbitrationLost_keeps {ch sof t s0} (K : Keeps P b0 s0) : Keeps P b0 (effCanArbitrationLost ch sof t s0) := by
  unfold effCanArbitrationLost
  extract_lets +onlyGivenNames s
  have hs : Keeps P b0 s := advance_keeps K
  clear_value s
  extract_lets +onlyGivenNames _
  split
  · exact hs
  · exact Keeps.ite (recCan_keeps (countCan_keeps (grant_keeps hs))) hs

theorem effCanTxdataWrite_keeps {ch v s} (K : Keeps P b0 s) : Keeps P b0 (effCanTxdataWrite ch v s) := by
  unfold effCanTxdataWrite; exact writeRow_keeps (fun _ h => txdataWrite_keeps h) K

theorem effCanRxqRead_keeps {ch q stallOk t s0} (K : Keeps P b0 s0) : Keeps P b0 (effCanRxqRead ch q stallOk t s0) := by
  unfold effCanRxqRead; exact readRow_keeps (fun _ h => readRxq_keeps h) (advance_keeps K)

theorem serveCanStall_keeps {s} (K : Keeps P b0 s) : Keeps P b0 (serveCanStall s) := by
  unfold serveCanStall
  split
  · split
    · exact K
    · exact grants_keeps (by
          extract_lets +onlyGivenNames src
          have hsrc : Keeps P b0 src := takeShadow_keeps K ‹_›
          clear_value src
          exact Keeps.upd hsrc)
  · exact K

theorem loadShadow_keeps {ch q s} (K : Keeps P b0 s) : Keeps P b0 (loadShadow ch q s) := by
  unfold loadShadow
  exact Keeps.ite K (by
      split
      · exact K
      · exact serveCanStall_keeps (grant_keeps (modCan_keeps (takeItem_keeps K ‹_›))))

theorem effRxShadowLoad_keeps {ch q s} (K : Keeps P b0 s) : Keeps P b0 (effRxShadowLoad ch q s) := by
  unfold effRxShadowLoad; exact loadShadow_keeps K

theorem effPassThroughEntry_keeps {p aborted rx t s0} (K : Keeps P b0 s0) : Keeps P b0 (effPassThroughEntry p aborted rx t s0) := by
  unfold effPassThroughEntry
  extract_lets +onlyGivenNames s
  have hs : Keeps P b0 s := advance_keeps K
  clear_value s
  extract_lets +onlyGivenNames _
  exact Keeps.ite (by
      extract_lets +onlyGivenNames s1
      have hs1 : Keeps P b0 s1 := settleHold_keeps (skipBad_keeps hs)
      clear_value s1
      split
      · exact hs1
      · extract_lets +onlyGivenNames _
        exact Keeps.ite hs1 (Keeps.ite (pumpPort_keeps (runEntry_keeps (takeItem_keeps hs1 ‹_›))) hs1)) hs

theorem targetBegins_keeps {p stored t s} (K : Keeps P b0 s) : Keeps P b0 (targetBegins p stored t s) := by
  unfold targetBegins
  extract_lets +onlyGivenNames _
  exact grant_keeps (modSPort_keeps K)

theorem targetFall_keeps {p t s0} (K : Keeps P b0 s0) : Keeps P b0 (targetFall p t s0) := by
  unfold targetFall
  extract_lets +onlyGivenNames s
  have hs : Keeps P b0 s := loadTarget_keeps K
  clear_value s
  exact Keeps.ite (by
      split
      · exact targetBegins_keeps (reserve_keeps hs ‹_›)
      · exact targetBegins_keeps (markDrop_keeps (stickS_keeps hs))) hs

theorem effTargetSelectFall_keeps {p t s0} (K : Keeps P b0 s0) : Keeps P b0 (effTargetSelectFall p t s0) := by
  unfold effTargetSelectFall
  extract_lets +onlyGivenNames s
  have hs : Keeps P b0 s := advance_keeps K
  clear_value s
  exact Keeps.ite hs (targetFall_keeps hs)

theorem closeTarget_keeps {p rx part aborted s} (K : Keeps P b0 s) : Keeps P b0 (closeTarget p rx part aborted s) := by
  unfold closeTarget
  extract_lets +onlyGivenNames _ _
  exact closeItem_keeps K

theorem targetRise_keeps {p rx clocked partialByte s} (K : Keeps P b0 s) : Keeps P b0 (targetRise p rx clocked partialByte s) := by
  unfold targetRise
  extract_lets +onlyGivenNames _ _
  exact Keeps.ite (by
      extract_lets +onlyGivenNames _ _ _ _ _ _ _ s1
      have hs1 : Keeps P b0 s1 := recPort_keeps K
      clear_value s1
      extract_lets +onlyGivenNames s2
      have hs2 : Keeps P b0 s2 := Keeps.ite (drawn_keeps (closeTarget_keeps hs1)) hs1
      clear_value s2
      extract_lets +onlyGivenNames s3
      have hs3 : Keeps P b0 s3 := countWord_keeps (Keeps.ite (countWord_keeps (stickS_keeps hs2)) hs2)
      clear_value s3
      extract_lets +onlyGivenNames s4
      have hs4 : Keeps P b0 s4 := Keeps.ite (countWord_keeps (stickS_keeps hs3)) hs3
      clear_value s4
      exact loadTarget_keeps (modSPort_keeps hs4)) K

theorem effTargetSelectRise_keeps {p rx clocked partialByte t s0} (K : Keeps P b0 s0) : Keeps P b0 (effTargetSelectRise p rx clocked partialByte t s0) := by
  unfold effTargetSelectRise
  extract_lets +onlyGivenNames s
  have hs : Keeps P b0 s := advance_keeps K
  clear_value s
  exact Keeps.ite hs (targetRise_keeps hs)

theorem effLineFillDone_keeps {line s} (K : Keeps P b0 s) : Keeps P b0 (effLineFillDone line s) := by
  unfold effLineFillDone
  split
  · exact K
  · exact Keeps.ite (by
        extract_lets +onlyGivenNames s1
        have hs1 : Keeps P b0 s1 := grant_keeps (countFrame_keeps (modSPort_keeps K))
        clear_value s1
        extract_lets +onlyGivenNames n s2
        have hs2 : Keeps P b0 s2 := Keeps.ite (grants_keeps (drawn_keeps (modSPort_keeps hs1))) hs1
        clear_value s2
        exact pumpS0_keeps hs2) K

theorem effLinePrefetch_keeps {s} (K : Keeps P b0 s) : Keeps P b0 (effLinePrefetch s) := by
  unfold effLinePrefetch
  split
  · exact K
  · extract_lets +onlyGivenNames _
    exact Keeps.ite (countWord_keeps (modSPort_keeps (beginFill_keeps (grants_keeps K)))) K

theorem effCacheInvalidate_keeps {s} (K : Keeps P b0 s) : Keeps P b0 (effCacheInvalidate s) := by
  unfold effCacheInvalidate
  extract_lets +onlyGivenNames v
  exact winWriteRow_keeps (fun _ h => wctrlWrite_keeps h) K

theorem effSfdpRead_keeps {s} (K : Keeps P b0 s) : Keeps P b0 (effSfdpRead s) := by
  unfold effSfdpRead
  extract_lets +onlyGivenNames v
  exact winWriteRow_keeps (fun _ h => wctrlWrite_keeps h) K

theorem sfdpSettings_keeps {dw s} (K : Keeps P b0 s) : Keeps P b0 (sfdpSettings dw s) := by
  unfold sfdpSettings; exact Keeps.upd K

theorem readTable_keeps {s} (K : Keeps P b0 s) : Keeps P b0 (readTable s) := by
  unfold readTable; exact drawn_keeps (sendSfdp_keeps K)

theorem effSfdpDone_keeps {table s} (K : Keeps P b0 s) : Keeps P b0 (effSfdpDone table s) := by
  unfold effSfdpDone
  exact Keeps.ite (by
      extract_lets +onlyGivenNames s1
      have hs1 : Keeps P b0 s1 := drawn_keeps (countWordBy_keeps K)
      clear_value s1
      split
      · exact Keeps.ite (endSfdp_keeps (invalidateCache_keeps (sfdpSettings_keeps (readTable_keeps hs1)))) (endSfdp_keeps hs1)
      · exact endSfdp_keeps hs1) (Keeps.ite (endSfdp_keeps K) K)

theorem resumeBus_keeps {p s} (K : Keeps P b0 s) : Keeps P b0 (resumeBus p s) := by
  unfold resumeBus
  exact startPt_keeps (Keeps.foldl (fun _ _ h2 => Keeps.ite (by
      split
      · exact startWire_keeps h2
      · exact h2) h2) K)

theorem effBusFree_keeps {p s} (K : Keeps P b0 s) : Keeps P b0 (effBusFree p s) := by
  unfold effBusFree
  extract_lets +onlyGivenNames x
  exact Keeps.ite K (resumeBus_keeps (modIPort_keeps K))

theorem effI2cArbitrationLost_keeps {p t s0} (K : Keeps P b0 s0) : Keeps P b0 (effI2cArbitrationLost p t s0) := by
  unfold effI2cArbitrationLost
  extract_lets +onlyGivenNames s
  have hs : Keeps P b0 s := advance_keeps K
  clear_value s
  split
  · exact hs
  · exact Keeps.ite hs (laneEnds_keeps hs)

theorem effI2cHang_keeps {p busy t s0} (K : Keeps P b0 s0) : Keeps P b0 (effI2cHang p busy t s0) := by
  unfold effI2cHang
  extract_lets +onlyGivenNames s
  have hs : Keeps P b0 s := advance_keeps K
  clear_value s
  exact Keeps.ite (declareHang_keeps hs) hs

theorem failWaiting_keeps {p s} (K : Keeps P b0 s) : Keeps P b0 (failWaiting p s) := by
  unfold failWaiting
  extract_lets +onlyGivenNames s1
  have hs1 : Keeps P b0 s1 := Keeps.foldl (fun _ _ h2 => Keeps.ite (failAttempt_keeps h2) h2) K
  clear_value s1
  exact Keeps.ite (ptFail_keeps hs1) hs1

theorem failRecovery_keeps {p s} (K : Keeps P b0 s) : Keeps P b0 (failRecovery p s) := by
  unfold failRecovery
  extract_lets +onlyGivenNames s1
  have hs1 : Keeps P b0 s1 := modIPort_keeps K
  clear_value s1
  exact failWaiting_keeps (logFault_keeps (countWord_keeps (stickI_keeps hs1)))

theorem effI2cRecoveryDone_keeps {p sdaLowAfterPulse linesHigh t s0} (K : Keeps P b0 s0) : Keeps P b0 (effI2cRecoveryDone p sdaLowAfterPulse linesHigh t s0) := by
  unfold effI2cRecoveryDone
  extract_lets +onlyGivenNames s
  have hs : Keeps P b0 s := advance_keeps K
  clear_value s
  extract_lets +onlyGivenNames _
  exact Keeps.ite (by
      extract_lets +onlyGivenNames s1
      have hs1 : Keeps P b0 s1 := Keeps.ite (countWord_keeps hs) hs
      clear_value s1
      extract_lets +onlyGivenNames s2
      have hs2 : Keeps P b0 s2 := Keeps.ite (countWord_keeps hs1) hs1
      clear_value s2
      extract_lets +onlyGivenNames s3
      have hs3 : Keeps P b0 s3 := modIPort_keeps hs2
      clear_value s3
      exact Keeps.ite (Keeps.ite hs3 (resumeBus_keeps (modIPort_keeps hs3))) (failRecovery_keeps hs3)) hs

theorem effI2cStuckRetry_keeps {p s} (K : Keeps P b0 s) : Keeps P b0 (effI2cStuckRetry p s) := by
  unfold effI2cStuckRetry
  extract_lets +onlyGivenNames _
  exact Keeps.ite (startRecovery_keeps K) K

theorem postCall_keeps {p bs s} (K : Keeps P b0 s) : Keeps P b0 (postCall p bs s) := by
  unfold postCall
  extract_lets +onlyGivenNames a kept s1
  have hs1 : Keeps P b0 s1 := Keeps.ite (countWord_keeps (stickI_keeps K)) K
  clear_value s1
  extract_lets +onlyGivenNames s2
  have hs2 : Keeps P b0 s2 := postEvent_keeps hs1
  clear_value s2
  exact Keeps.ite (attend_keeps (countWord_keeps hs2)) (countWord_keeps (stickI_keeps hs2))

theorem callEnds_keeps {p bytes s} (K : Keeps P b0 s) : Keeps P b0 (callEnds p bytes s) := by
  unfold callEnds
  extract_lets +onlyGivenNames s1
  have hs1 : Keeps P b0 s1 := recPort_keeps K
  clear_value s1
  exact Keeps.ite (countWord_keeps (eventRoom_keeps hs1)) (postCall_keeps hs1)

theorem effI2cCall_keeps {p read bytes t s0} (K : Keeps P b0 s0) : Keeps P b0 (effI2cCall p read bytes t s0) := by
  unfold effI2cCall
  extract_lets +onlyGivenNames s
  have hs : Keeps P b0 s := advance_keeps K
  clear_value s
  extract_lets +onlyGivenNames _
  exact Keeps.ite (by
      extract_lets +onlyGivenNames s1
      have hs1 : Keeps P b0 s1 := grants_keeps hs
      clear_value s1
      exact Keeps.ite (countWord_keeps hs1) (callEnds_keeps hs1)) hs

theorem ptHangs_keeps {p res s} (K : Keeps P b0 s) : Keeps P b0 (ptHangs p res s) := by
  unfold ptHangs; exact Keeps.ite (declareHang_keeps K) K

theorem effPtGo_keeps {p res done rx s} (K : Keeps P b0 s) : Keeps P b0 (effPtGo p res done rx s) := by
  unfold effPtGo
  extract_lets +onlyGivenNames _ _ s1
  have hs1 : Keeps P b0 s1 := Keeps.ite (startPt_keeps K) (winWriteRow_keeps (fun _ h3 => ptCtlWrite_keeps h3) K)
  clear_value s1
  exact Keeps.ite (Keeps.ite (ptHangs_keeps hs1) (Keeps.ite (resumeBus_keeps (ptEnd_keeps hs1)) hs1)) hs1

theorem effPtHoldExpiry_keeps {p s} (K : Keeps P b0 s) : Keeps P b0 (effPtHoldExpiry p s) := by
  unfold effPtHoldExpiry; exact Keeps.ite (resumeBus_keeps (dropHold_keeps (grant_keeps K))) K

theorem sentDeliver_keeps {p wanted t bytes s} (K : Keeps P b0 s) : Keeps P b0 (sentDeliver p wanted t bytes s) := by
  unfold sentDeliver; exact Keeps.foldl (fun _ _ h0 => (Keeps.ite (deliverFrame_keeps h0) h0)) K

theorem slowDone_keeps {p bytes s} (K : Keeps P b0 s) : Keeps P b0 (slowDone p bytes s) := by
  unfold slowDone
  extract_lets +onlyGivenNames s1
  have hs1 : Keeps P b0 s1 := grants_keeps (countWord_keeps (modTPort_keeps K))
  clear_value s1
  exact sentDeliver_keeps (recSent_keeps hs1)

theorem slowFrame_keeps {p status tick s} (K : Keeps P b0 s) : Keeps P b0 (slowFrame p status tick s) := by
  unfold slowFrame
  extract_lets +onlyGivenNames x mode
  split
  · exact K
  · split
    · exact K
    · extract_lets +onlyGivenNames l
      split
      · exact modTPort_keeps K
      · exact slowError_keeps K
      · exact slowDone_keeps K

theorem fastDone_keeps {p status bytes s} (K : Keeps P b0 s) : Keeps P b0 (fastDone p status bytes s) := by
  unfold fastDone
  extract_lets +onlyGivenNames s1
  have hs1 : Keeps P b0 s1 := grants_keeps (modTPort_keeps K)
  clear_value s1
  extract_lets +onlyGivenNames s2
  have hs2 : Keeps P b0 s2 := setStatWord_keeps (countWord_keeps hs1)
  clear_value s2
  exact sentDeliver_keeps (recSent_keeps hs2)

theorem sentFail_keeps {p c nibbles s} (K : Keeps P b0 s) : Keeps P b0 (sentFail p c nibbles s) := by
  unfold sentFail
  extract_lets +onlyGivenNames e x bytes s1
  have hs1 : Keeps P b0 s1 := by
    dsimp -zeta only [s1]
    split
    · exact countWord_keeps K
    · exact K
  clear_value s1
  extract_lets +onlyGivenNames s2
  have hs2 : Keeps P b0 s2 := modTPort_keeps (stickT_keeps hs1)
  clear_value s2
  exact sentDiscard_keeps (Keeps.ite hs2 (recSent_keeps hs2))

theorem endPulse_keeps {p r x' t'} (K : Keeps P b0 r.2) (e : endPulse p r = (x', t')) : Keeps P b0 t' := by
  unfold endPulse at e
  cases e
  exact modTPort_keeps K

theorem trySync_keeps {p c len s x' t'} (K : Keeps P b0 s) (e : trySync p c len s = (x', t')) : Keeps P b0 t' := by
  unfold trySync at e
  split at e
  · cases e
    exact setStatWord_keeps (modTPort_keeps K)
  · cases e
    exact sentFail_keeps K

theorem judgeFrame_keeps {p nibbles s x' t'} (K : Keeps P b0 s) (e : judgeFrame p nibbles s = (x', t')) : Keeps P b0 t' := by
  unfold judgeFrame at e
  dsimp only at e
  split at e
  · cases e
    exact slowFrame_keeps (fastDone_keeps K)
  · cases e
    exact sentFail_keeps K

theorem takePulse_keeps {p c len s x' t'} (K : Keeps P b0 s) (e : takePulse p c len s = (x', t')) : Keeps P b0 t' := by
  unfold takePulse at e
  dsimp only at e
  split at e
  · split at e
    · exact trySync_keeps K ‹_›
    · cases e
      exact K
  · split at e
    · exact trySync_keeps K ‹_›
    · cases e
      exact sentFail_keeps K
  · split at e
    · cases e
      exact modTPort_keeps K
    · cases e
      exact sentFail_keeps K
  · split at e
    · exact trySync_keeps (sentFail_keeps K) ‹_›
    · split at e
      · cases e
        exact sentFail_keeps K
      · split at e
        · cases e
          exact modTPort_keeps K
        · exact judgeFrame_keeps K ‹_›

theorem runPulses_keeps {p l s x t} (K : Keeps P b0 s) (e : runPulses p l s = (x, t)) : Keeps P b0 t := by
  induction l generalizing s with
  | nil => cases e; exact K
  | cons len rest ih =>
    have hr : Keeps P b0 (endPulse p (takePulse p ((tportOf p s).next.getD (tSettings p s)) len s)).2 :=
      endPulse_keeps (takePulse_keeps K rfl) rfl
    unfold runPulses at e; dsimp only at e
    split at e
    · rw [e] at hr; exact hr
    · split at e
      · exact ih hr e
      · cases e; exact K

theorem sentPulses_keeps {p wanted pulses s} (K : Keeps P b0 s) : Keeps P b0 (sentPulses p wanted pulses s) := by
  unfold sentPulses
  extract_lets +onlyGivenNames r
  have hr : Keeps P b0 r.2 := runPulses_keeps K rfl
  clear_value r
  exact Keeps.ite hr K

theorem effSentFrame_keeps {p pulses t s0} (K : Keeps P b0 s0) : Keeps P b0 (effSentFrame p pulses t s0) := by
  unfold effSentFrame; exact sentPulses_keeps (advance_keeps K)

theorem effSentError_keeps {p pulses t s0} (K : Keeps P b0 s0) : Keeps P b0 (effSentError p pulses t s0) := by
  unfold effSentError; exact sentPulses_keeps (advance_keeps K)

theorem effSentLineTimeout_keeps {p t s0} (K : Keeps P b0 s0) : Keeps P b0 (effSentLineTimeout p t s0) := by
  unfold effSentLineTimeout
  extract_lets +onlyGivenNames s
  have hs : Keeps P b0 s := advance_keeps K
  clear_value s
  exact Keeps.ite (lineSilent_keeps hs) hs

theorem phantomDequeue_keeps {p s} (K : Keeps P b0 s) : Keeps P b0 (phantomDequeue p s) := by
  unfold phantomDequeue
  split
  · split
    · exact takeItem_keeps K ‹_›
    · exact K
  · extract_lets +onlyGivenNames ch
    exact modCan_keeps K

theorem phantomsAt_keeps {n p s} (h : Keeps P b0 s) : Keeps P b0 (phantomsAt n p s) := by
  induction n generalizing s with
  | zero => exact h
  | succ n ih => unfold phantomsAt; exact Keeps.ite (ih (phantomDequeue_keeps (dropForced_keeps h))) h

theorem supplyPhantoms_keeps {s} (K : Keeps P b0 s) : Keeps P b0 (supplyPhantoms s) := by
  unfold supplyPhantoms
  extract_lets +onlyGivenNames _ s1
  have hs1 : Keeps P b0 s1 := Keeps.upd K
  clear_value s1
  exact Keeps.foldl (fun _ _ h2 => phantomsAt_keeps h2) hs1

theorem effVerdictBatchWrite_keeps {t s0} (K : Keeps P b0 s0) : Keeps P b0 (effVerdictBatchWrite t s0) := by
  unfold effVerdictBatchWrite; exact Keeps.ite (writeBatch_keeps (advance_keeps K)) (advance_keeps K)

theorem recGap_keeps {input block count first last s} (K : Keeps P b0 s) : Keeps P b0 (recGap input block count first last s) := by
  unfold recGap; exact tapAppend_keeps K

theorem effGapRecord_keeps {loss s} (K : Keeps P b0 s) : Keeps P b0 (effGapRecord loss s) := by
  unfold effGapRecord
  split
  · extract_lets +onlyGivenNames s1
    have hs1 : Keeps P b0 s1 := recGap_keeps K
    clear_value s1
    extract_lets +onlyGivenNames _ s2
    have hs2 : Keeps P b0 s2 := recTime_keeps (Keeps.upd hs1)
    clear_value s2
    exact keyframeDue_keeps (attend_keeps hs2)
  · exact K

theorem effTapArm_keeps {s} (K : Keeps P b0 s) : Keeps P b0 (effTapArm s) := by
  unfold effTapArm
  extract_lets +onlyGivenNames v
  exact writeRow_keeps (fun _ h => tapCtrlWrite_keeps h) K

theorem effTapFrz_keeps {s} (K : Keeps P b0 s) : Keeps P b0 (effTapFrz s) := by
  unfold effTapFrz
  extract_lets +onlyGivenNames v
  exact writeRow_keeps (fun _ h => tapCtrlWrite_keeps h) K

theorem sendRead_keeps {a n s} (K : Keeps P b0 s) : Keeps P b0 (sendRead a n s) := by
  unfold sendRead
  extract_lets +onlyGivenNames _ _
  exact countFrame_keeps (sendFrame_keeps K)

theorem effReplayLoaderFill_keeps {bytes fails s} (K : Keeps P b0 s) : Keeps P b0 (effReplayLoaderFill bytes fails s) := by
  unfold effReplayLoaderFill
  exact Keeps.ite (Keeps.ite (Keeps.ite (loadFails_keeps K) (endLoader_keeps (Keeps.upd K))) (Keeps.ite (by
      extract_lets +onlyGivenNames _ s1
      have hs1 : Keeps P b0 s1 := sendRead_keeps K
      clear_value s1
      exact pumpS0_keeps (runLoader_keeps (Keeps.upd hs1))) K)) K

theorem postDivergence_keeps {d s} (K : Keeps P b0 s) : Keeps P b0 (postDivergence d s) := by
  unfold postDivergence
  split
  · exact opPost_keeps K
  · exact drawn_keeps (opPost_keeps K)

theorem postPending_keeps {e s0} (K : Keeps P b0 s0) : Keeps P b0 (postPending e s0) := by
  unfold postPending
  extract_lets +onlyGivenNames mine _ s
  have hs : Keeps P b0 s := Keeps.upd K
  clear_value s
  exact Keeps.foldl (fun _ _ h0 => (postDivergence_keeps h0)) hs

theorem finishReplay_keeps {st opWhy why s0} (K : Keeps P b0 s0) : Keeps P b0 (finishReplay st opWhy why s0) := by
  unfold finishReplay
  extract_lets +onlyGivenNames s
  have hs : Keeps P b0 s := postPending_keeps K
  clear_value s
  exact endOp_keeps (Keeps.upd hs)

theorem endAtLastMarker_keeps {s} (K : Keeps P b0 s) : Keeps P b0 (endAtLastMarker s) := by
  unfold endAtLastMarker; exact Keeps.ite (finishReplay_keeps K) K

theorem runsOut_keeps {s} (K : Keeps P b0 s) : Keeps P b0 (runsOut s) := by
  unfold runsOut
  split
  · exact K
  · exact finishReplay_keeps K
  · exact finishReplay_keeps K
  · exact finishReplay_keeps K

theorem consumeRecord_keeps {r s} (K : Keeps P b0 s) : Keeps P b0 (consumeRecord r s) := by
  unfold consumeRecord; exact runLoader_keeps (Keeps.upd K)

theorem diverge_keeps {e kind point s0} (K : Keeps P b0 s0) : Keeps P b0 (diverge e kind point s0) := by
  unfold diverge
  extract_lets +onlyGivenNames _ s
  have hs : Keeps P b0 s := Keeps.upd K
  clear_value s
  extract_lets +onlyGivenNames _ s1
  have hs1 : Keeps P b0 s1 := Keeps.ite (attend_keeps (Keeps.upd hs)) hs
  clear_value s1
  extract_lets +onlyGivenNames _ s2
  have hs2 : Keeps P b0 s2 := Keeps.ite hs1 (Keeps.upd hs1)
  clear_value s2
  exact Keeps.ite (finishReplay_keeps hs2) hs2

theorem disorder_keeps {s} (K : Keeps P b0 s) : Keeps P b0 (disorder s) := by
  unfold disorder; exact diverge_keeps K

theorem laneInput_keeps {r s} (K : Keeps P b0 s) : Keeps P b0 (laneInput r s) := by
  unfold laneInput
  extract_lets +onlyGivenNames _ _ _ _ _
  exact Keeps.ite (Keeps.ite (disorder_keeps K) (Keeps.ite (failOnWire_keeps (grant_keeps (countWord_keeps (stickI_keeps K)))) (Keeps.ite (laneEnds_keeps K) (disorder_keeps K)))) (Keeps.ite K (disorder_keeps K))

theorem targetInput_keeps {p r s} (K : Keeps P b0 s) : Keeps P b0 (targetInput p r s) := by
  unfold targetInput
  extract_lets +onlyGivenNames rx
  exact Keeps.ite (targetRise_keeps (targetFall_keeps (Keeps.upd K))) (disorder_keeps K)

theorem probeInput_keeps {p r s} (K : Keeps P b0 s) : Keeps P b0 (probeInput p r s) := by
  unfold probeInput
  split
  · exact countXfer_keeps K
  · exact countNack_keeps K
  · exact countWord_keeps (stickI_keeps K)
  · exact countWord_keeps (stickI_keeps K)

theorem callInput_keeps {p r s} (K : Keeps P b0 s) : Keeps P b0 (callInput p r s) := by
  unfold callInput; exact Keeps.ite (callEnds_keeps (grants_keeps K)) (disorder_keeps K)

theorem portInput_keeps {r s} (K : Keeps P b0 s) : Keeps P b0 (portInput r s) := by
  unfold portInput
  extract_lets +onlyGivenNames _
  split
  · exact laneInput_keeps K
  · exact Keeps.ite (callInput_keeps K) (disorder_keeps K)
  · exact Keeps.ite (targetInput_keeps K) (disorder_keeps K)
  · exact Keeps.ite (probeInput_keeps K) (disorder_keeps K)

theorem settleBus_keeps {ch s} (K : Keeps P b0 s) : Keeps P b0 (settleBus ch s) := by
  unfold settleBus; exact modCan_keeps (integrate_keeps K)

theorem sentInput_keeps {ch f sof s0} (K : Keeps P b0 s0) : Keeps P b0 (sentInput ch f sof s0) := by
  unfold sentInput
  extract_lets +onlyGivenNames s
  have hs : Keeps P b0 s := takeTx_keeps K
  clear_value s
  split
  · exact Keeps.ite (txDone_keeps hs) (setCounters_keeps (countCan_keeps hs))
  · exact setCounters_keeps (countCan_keeps hs)

theorem canErrorInput_keeps {ch lec r t s} (K : Keeps P b0 s) : Keeps P b0 (canErrorInput ch lec r t s) := by
  unfold canErrorInput; exact canError_keeps (Keeps.upd K)

theorem canInput_keeps {r s0} (K : Keeps P b0 s0) : Keeps P b0 (canInput r s0) := by
  unfold canInput
  extract_lets ch evt s c f
  have hs : Keeps P b0 s := Keeps.ite (settleBus_keeps K) K
  clear_value evt s
  split
  · exact Keeps.ite (receiveCan_keeps hs) (disorder_keeps K)
  · exact Keeps.ite (sentInput_keeps hs) (disorder_keeps K)
  · exact Keeps.ite (countCan_keeps hs) (disorder_keeps K)
  · exact Keeps.ite (canErrorInput_keeps hs) (disorder_keeps K)
  · exact Keeps.ite (protocolException_keeps hs) (disorder_keeps K)
  · exact Keeps.ite (setCounters_keeps hs) (Keeps.ite hs (disorder_keeps K))
  · exact Keeps.ite (recoverCan_keeps hs) (disorder_keeps K)
  · exact disorder_keeps K

theorem sentRecord_keeps {r s} (K : Keeps P b0 s) : Keeps P b0 (sentRecord r s) := by
  unfold sentRecord
  extract_lets +onlyGivenNames _ _ _ _
  exact Keeps.ite (by
      split
      · exact fastDone_keeps (setStatWord_keeps (modTPort_keeps K))
      · exact slowDone_keeps K
      · exact sentFail_keeps K
      · exact sentFail_keeps K
      · exact sentFail_keeps K
      · exact sentFail_keeps K
      · exact slowError_keeps K
      · exact lineSilent_keeps K
      · exact disorder_keeps K) (disorder_keeps K)

/-- A recorded command is PROFILE_SELECT, ENDPOINT_COMMIT or PINMUX_LOCK (R182). -/
theorem recorded_runs (hl : ¬ P .lock) {opc : Nat} (h : [0x11, 0x13, 0x18].contains opc = true) : Runs P opc := by
  have known : opc = 0x11 ∨ opc = 0x13 ∨ opc = 0x18 := by simpa using h
  exact ⟨fun _ => by omega, fun _ => by omega, fun _ => by omega, fun _ => by omega, fun _ _ _ _ _ _ _ => hl⟩

theorem authInput_keeps (hl : ¬ P .lock) {v result s0} (K : Keeps P b0 s0) : Keeps P b0 (authInput v result s0) := by
  unfold authInput
  extract_lets +onlyGivenNames s
  have hs : Keeps P b0 s := Keeps.ite (closeHostData_keeps K) K
  clear_value s
  extract_lets +onlyGivenNames c stat
  have hstat {x} (h : Keeps P b0 x) : Keeps P b0 (stat x) := Keeps.upd h
  clear_value stat
  split
  · extract_lets +onlyGivenNames s1
    have hs1 : Keeps P b0 s1 := hstat (emptyQueue_keeps (abandonItem_keeps hs))
    clear_value s1
    split
    · next known => exact runCommand_keeps (recorded_runs hl known) hs1
    · exact hs1
  · exact hstat hs

theorem directInput_keeps (free : Loose P) {a v result s} (K : Keeps P b0 s) : Keeps P b0 (directInput a v result s) := by
  unfold directInput; exact Keeps.ite K (Keeps.ite (authInput_keeps free.lock K) (writeReg_keeps free K))

theorem reinInput_keeps (free : Loose P) {r s} (K : Keeps P b0 s) : Keeps P b0 (reinInput r s) := by
  unfold reinInput
  extract_lets +onlyGivenNames v result ask
  have hask {l} : Keeps P b0 (ask l) := grants_keeps K
  clear_value ask
  exact Keeps.ite (Keeps.ite (directInput_keeps free hask) hask) (directInput_keeps free hask)

theorem compareMarker_keeps {r s} (K : Keeps P b0 s) : Keeps P b0 (compareMarker r s) := by
  unfold compareMarker
  extract_lets +onlyGivenNames e skipped replayedSkip crcOk
  exact Keeps.ite (diverge_keeps K) (Keeps.ite (diverge_keeps K) K)

theorem markerInput_keeps {r s0} (K : Keeps P b0 s0) : Keeps P b0 (markerInput r s0) := by
  unfold markerInput
  extract_lets +onlyGivenNames s
  have hs : Keeps P b0 s := compareMarker_keeps K
  clear_value s
  split
  · extract_lets +onlyGivenNames s1
    have hs1 : Keeps P b0 s1 := postPending_keeps hs
    clear_value s1
    extract_lets +onlyGivenNames _ s2
    have hs2 : Keeps P b0 s2 := Keeps.ite (Keeps.upd hs1) hs1
    clear_value s2
    exact Keeps.ite (finishReplay_keeps hs2) (Keeps.ite (Keeps.upd hs2) hs2)
  · exact hs

theorem stall_keeps {p s} (K : Keeps P b0 s) : Keeps P b0 (stall p s) := by
  unfold stall
  extract_lets +onlyGivenNames s1
  have hs1 : Keeps P b0 s1 := diverge_keeps K
  clear_value s1
  exact Keeps.ite hs1 (dispatch_keeps (supplyPhantoms_keeps (dropForced_keeps hs1)))

theorem replayMode_keeps {r s} (K : Keeps P b0 s) : Keeps P b0 (replayMode r s) := by
  unfold replayMode; exact adapting_keeps (fun _ h1 => staleWindows_keeps (Keeps.upd h1)) K

theorem replayTurn_keeps {r s} (K : Keeps P b0 s) : Keeps P b0 (replayTurn r s) := by
  unfold replayTurn
  split
  · extract_lets +onlyGivenNames s1
    have hs1 : Keeps P b0 s1 := Keeps.ite (applySwitch_keeps K) K
    clear_value s1
    extract_lets +onlyGivenNames s2
    have hs2 : Keeps P b0 s2 := replayMode_keeps hs1
    clear_value s2
    exact Keeps.ite hs2 (diverge_keeps hs2)
  · exact replayMode_keeps K

theorem replayBoundary_keeps {r turn s0} (K : Keeps P b0 s0) : Keeps P b0 (replayBoundary r turn s0) := by
  unfold replayBoundary
  extract_lets +onlyGivenNames b starts _ s1
  have hs1 : Keeps P b0 s1 := byApply_keeps (Keeps.upd K)
  clear_value s1
  extract_lets +onlyGivenNames ends _ s2
  have hs2 : Keeps P b0 s2 := Keeps.ite (endEpoch_keeps hs1) (Keeps.upd hs1)
  clear_value s2
  extract_lets +onlyGivenNames period s3
  have hs3 : Keeps P b0 s3 := Keeps.ite (settleAhead_keeps (commitsReady_keeps hs2)) hs2
  clear_value s3
  extract_lets +onlyGivenNames s4
  have hs4 : Keeps P b0 s4 := by
    dsimp -zeta only [s4]
    split
    · exact replayTurn_keeps hs3
    · exact hs3
  clear_value s4
  split
  · extract_lets +onlyGivenNames s5
    have hs5 : Keeps P b0 s5 := setNextBoundary_keeps hs4
    clear_value s5
    split
    · extract_lets +onlyGivenNames s6
      have hs6 : Keeps P b0 s6 := startEpoch_keeps hs5
      clear_value s6
      exact Keeps.ite hs6 (dueRuns_keeps hs6)
    · exact hs5
  · exact hs4

theorem gapInput_keeps {s} (K : Keeps P b0 s) : Keeps P b0 (gapInput s) := by
  unfold gapInput
  split
  · extract_lets +onlyGivenNames s1
    have hs1 : Keeps P b0 s1 := postPending_keeps K
    clear_value s1
    exact Keeps.upd hs1
  · exact finishReplay_keeps K

theorem actOn_keeps (free : Loose P) {r turn stalled misfit s0} (K : Keeps P b0 s0) : Keeps P b0 (actOn r turn stalled misfit s0) := by
  unfold actOn
  extract_lets +onlyGivenNames s
  have hs : Keeps P b0 s := by
    dsimp -zeta only [s]
    split
    · exact Keeps.upd K
    · exact K
  clear_value s
  split
  · exact disorder_keeps hs
  · split
    · exact portInput_keeps hs
    · exact canInput_keeps hs
    · exact sentRecord_keeps hs
    · exact supplyPhantoms_keeps (Keeps.upd hs)
    · exact reinInput_keeps free hs
    · exact markerInput_keeps hs
    · split
      · extract_lets +onlyGivenNames s1
        have hs1 : Keeps P b0 s1 := by
          dsimp -zeta only [s1]
          split
          · exact Keeps.ite (stall_keeps hs) hs
          · exact hs
        clear_value s1
        exact Keeps.ite (replayBoundary_keeps hs1) hs1
      · exact hs
    · exact replayMode_keeps hs
    · exact gapInput_keeps hs
    · exact hs

theorem takeRecord_keeps (free : Loose P) {stalled misfit rs s} (K : Keeps P b0 s) : Keeps P b0 (takeRecord stalled misfit rs s) := by
  unfold takeRecord
  split
  · exact runsOut_keeps K
  · split
    · exact K
    · split
      · exact K
      · extract_lets +onlyGivenNames whole
        split
        · exact takeFrontKeyframe_keeps (postPending_keeps K)
        · extract_lets +onlyGivenNames s1
          have hs1 : Keeps P b0 s1 := consumeRecord_keeps (takeGood_keeps K ‹_›)
          clear_value s1
          exact Keeps.ite (replayProgress_keeps hs1) (replayProgress_keeps (actOn_keeps free hs1))

theorem effReplayRecord_keeps (free : Loose P) {stalled misfit s0} (K : Keeps P b0 s0) : Keeps P b0 (effReplayRecord stalled misfit s0) := by
  unfold effReplayRecord
  extract_lets +onlyGivenNames s
  have hs : Keeps P b0 s := endAtLastMarker_keeps K
  clear_value s
  split
  · extract_lets +onlyGivenNames rs
    exact Keeps.ite (endAtLastMarker_keeps (takeRecord_keeps free hs)) hs
  · exact hs

theorem effReplayGo_keeps {s} (K : Keeps P b0 s) : Keeps P b0 (effReplayGo s) := by
  unfold effReplayGo
  extract_lets +onlyGivenNames v
  exact writeRow_keeps (fun _ h => rplCtrlWrite_keeps h) K

theorem kernelFault_keeps {island s} (K : Keeps P b0 s) : Keeps P b0 (kernelFault island s) := by
  unfold kernelFault; exact (adapting_keeps (fun _ h0 => (by
        extract_lets +onlyGivenNames s1
        have hs1 : Keeps P b0 s1 := stopRuns_keeps (logFault_keeps h0)
        clear_value s1
        extract_lets +onlyGivenNames s2
        have hs2 : Keeps P b0 s2 := cancelLanes_keeps hs1
        clear_value s2
        exact (Keeps.upd hs2))) K)

theorem settleDropped_keeps {s} (K : Keeps P b0 s) : Keeps P b0 (settleDropped s) := by
  unfold settleDropped
  exact Keeps.foldl (fun _ _ h1 => Keeps.ite (Keeps.foldl (fun _ _ h3 => Keeps.ite (Keeps.ite (by
      extract_lets +onlyGivenNames s1
      have hs1 : Keeps P b0 s1 := recTorn_keeps h3
      clear_value s1
      exact failAttempt_keeps (modLane_keeps (Keeps.ite (abortFrame_keeps hs1) hs1))) (failAttempt_keeps h3)) h3) h1) h1) K

theorem discardSample_keeps {p s} (K : Keeps P b0 s) : Keeps P b0 (discardSample p s) := by
  unfold discardSample
  extract_lets +onlyGivenNames a
  exact missRun_keeps (setStatWord_keeps K)

theorem restartConditioning_keeps {s} (K : Keeps P b0 s) : Keeps P b0 (restartConditioning s) := by
  unfold restartConditioning
  extract_lets +onlyGivenNames _ s1
  have hs1 : Keeps P b0 s1 := Keeps.foldl (fun _ _ h1 => (discardSample_keeps h1)) (Keeps.upd K)
  clear_value s1
  exact resetCond_keeps (staleWindows_keeps hs1)

theorem restartExpress_keeps {s} (K : Keeps P b0 s) : Keeps P b0 (restartExpress s) := by
  unfold restartExpress
  extract_lets +onlyGivenNames n
  exact Keeps.upd K

theorem unitLoss_keeps {u s} (K : Keeps P b0 s) : Keeps P b0 (unitLoss u s) := by
  unfold unitLoss; exact Keeps.ite (restartConditioning_keeps K) (Keeps.ite (restartExpress_keeps K) (Keeps.ite (stopRuns_keeps K) K))

theorem abandonRestarts_keeps {u s} (K : Keeps P b0 s) : Keeps P b0 (abandonRestarts u s) := by
  unfold abandonRestarts; exact Keeps.upd K

theorem giveUp_keeps (hp : ¬ P .pins) {u island s} (K : Keeps P b0 s) : Keeps P b0 (giveUp u island s) := by
  unfold giveUp; exact adapting_keeps (fun _ h0 => (settleDropped_keeps (failUnit_keeps hp (unitLoss_keeps (abandonRestarts_keeps h0))))) K

theorem restartCan_keeps {ch s} (K : Keeps P b0 s) : Keeps P b0 (restartCan ch s) := by
  unfold restartCan
  split
  · exact K
  · extract_lets +onlyGivenNames c0 s1
    have hs1 : Keeps P b0 s1 := startCan_keeps (dropRxItem_keeps K)
    clear_value s1
    exact settleLead_keeps (modCan_keeps hs1)

theorem restartLane_keeps {i s} (K : Keeps P b0 s) : Keeps P b0 (restartLane i s) := by
  unfold restartLane; exact Keeps.ite (endProbe_keeps (releasePorts_keeps K)) (cancelLane_keeps K)

theorem restartCrypto_keeps {s} (K : Keeps P b0 s) : Keeps P b0 (restartCrypto s) := by
  unfold restartCrypto
  split
  · exact K
  · exact rejectCommand_keeps K

theorem restartTack_keeps {s} (K : Keeps P b0 s) : Keeps P b0 (restartTack s) := by
  unfold restartTack
  split
  · exact K
  · extract_lets +onlyGivenNames s1
    have hs1 : Keeps P b0 s1 := tackFail_keeps (tearJob_keeps K)
    clear_value s1
    exact Keeps.ite (endOp_keeps hs1) hs1

theorem restartS_keeps {p s} (K : Keeps P b0 s) : Keeps P b0 (restartS p s) := by
  unfold restartS
  extract_lets +onlyGivenNames s1
  have hs1 : Keeps P b0 s1 := cutS_keeps (tornEntry_keeps K)
  clear_value s1
  exact Keeps.ite (Keeps.ite (endOp_keeps hs1) (pumpS0_keeps hs1)) hs1

theorem restartI_keeps {p s} (K : Keeps P b0 s) : Keeps P b0 (restartI p s) := by
  unfold restartI; exact cutI_keeps K

theorem restartT_keeps {p s} (K : Keeps P b0 s) : Keeps P b0 (restartT p s) := by
  unfold restartT; exact Keeps.ite (sentDiscard_keeps K) K

theorem restartTap_keeps {s} (K : Keeps P b0 s) : Keeps P b0 (restartTap s) := by
  unfold restartTap; exact Keeps.ite (effGapRecord_keeps (tapDrawn_keeps K)) K

theorem restartEffect_keeps {island s} (K : Keeps P b0 s) : Keeps P b0 (restartEffect island s) := by
  unfold restartEffect
  split
  · exact restartCan_keeps K
  · exact restartCan_keeps K
  · exact restartConditioning_keeps K
  · exact restartExpress_keeps K
  · split
    · exact restartLane_keeps K
    · exact K
  · exact Keeps.upd K
  · exact Keeps.ite (loseLock_keeps K) K
  · exact restartCrypto_keeps K
  · exact restartTack_keeps K
  · split
    · exact Keeps.ite (endOp_keeps K) K
    · exact K
  · exact Keeps.ite (restartS_keeps K) (Keeps.ite (restartI_keeps K) (Keeps.ite (restartT_keeps K) (Keeps.ite (restartTap_keeps K) K)))

theorem classR_keeps (hp : ¬ P .pins) {code island detail s} (K : Keeps P b0 s) : Keeps P b0 (classR code island detail s) := by
  unfold classR
  extract_lets +onlyGivenNames u
  exact (Keeps.ite (kernelFault_keeps K) (Keeps.ite K (Keeps.ite (logFault_keeps K) (Keeps.ite (giveUp_keeps hp K) (adapting_keeps (fun _ h0 => (by
        extract_lets +onlyGivenNames s1
        have hs1 : Keeps P b0 s1 := logFault_keeps h0
        clear_value s1
        extract_lets +onlyGivenNames _ s2
        have hs2 : Keeps P b0 s2 := Keeps.upd hs1
        clear_value s2
        exact (restartEffect_keeps hs2))) K)))))

theorem effLivenessProbeTimeout_keeps (hp : ¬ P .pins) {island t s0} (K : Keeps P b0 s0) : Keeps P b0 (effLivenessProbeTimeout island t s0) := by
  unfold effLivenessProbeTimeout
  extract_lets +onlyGivenNames s
  have hs : Keeps P b0 s := advance_keeps K
  clear_value s
  exact Keeps.ite (classR_keeps hp hs) hs

theorem effHitchTimeout_keeps (hp : ¬ P .pins) {receiver sender t s0} (K : Keeps P b0 s0) : Keeps P b0 (effHitchTimeout receiver sender t s0) := by
  unfold effHitchTimeout
  extract_lets +onlyGivenNames s
  have hs : Keeps P b0 s := advance_keeps K
  clear_value s
  exact Keeps.ite (classR_keeps hp hs) hs

theorem effIslandRestartDone_keeps {island s} (K : Keeps P b0 s) : Keeps P b0 (effIslandRestartDone island s) := by
  unfold effIslandRestartDone
  split
  · extract_lets +onlyGivenNames rest
    exact dispatch_keeps (Keeps.upd K)
  · exact K

theorem clockLostS_keeps {p s} (K : Keeps P b0 s) : Keeps P b0 (clockLostS p s) := by
  unfold clockLostS
  extract_lets +onlyGivenNames s1
  have hs1 : Keeps P b0 s1 := cutS_keeps K
  clear_value s1
  exact Keeps.ite hs1 (stickS_keeps hs1)

theorem clockLost_keeps {n s} (K : Keeps P b0 s) : Keeps P b0 (clockLost n s) := by
  unfold clockLost
  exact Keeps.ite (clockLostS_keeps K) (Keeps.ite (by
      extract_lets +onlyGivenNames _ s1
      have hs1 : Keeps P b0 s1 := Keeps.ite (stickI_keeps (cutI_keeps K)) K
      clear_value s1
      exact modIPort_keeps hs1) (Keeps.ite (by
      split
      · exact sentFail_keeps K
      · exact K) (dropRxItem_keeps K)))

theorem effPllUnlock_keeps {s} (K : Keeps P b0 s) : Keeps P b0 (effPllUnlock s) := by
  unfold effPllUnlock
  exact Keeps.ite (adapting_keeps (fun _ h2 => by
      extract_lets +onlyGivenNames s1
      have hs1 : Keeps P b0 s1 := Keeps.foldl (fun _ _ h4 => tornEntry_keeps h4) h2
      clear_value s1
      extract_lets +onlyGivenNames _ s2
      have hs2 : Keeps P b0 s2 := Keeps.foldl (fun _ _ h4 => clockLost_keeps h4) (Keeps.upd hs1)
      clear_value s2
      exact loseLock_keeps (Keeps.foldl (fun _ _ h5 => Keeps.ite h5 (stickS_keeps h5)) hs2)) K) K

theorem effPllRelock_keeps {lasted t s0} (K : Keeps P b0 s0) : Keeps P b0 (effPllRelock lasted t s0) := by
  unfold effPllRelock
  extract_lets +onlyGivenNames s
  have hs : Keeps P b0 s := advance_keeps K
  clear_value s
  exact Keeps.ite (Keeps.foldl (fun _ _ h3 => pumpPort_keeps h3) (adapting_keeps (fun _ h4 => logFault_keeps (Keeps.upd h4)) hs)) hs

theorem effClockLossTimeout_keeps (hm : ¬ P .mode) (hp : ¬ P .pins) {t s0} (K : Keeps P b0 s0) : Keeps P b0 (effClockLossTimeout t s0) := by
  unfold effClockLossTimeout
  extract_lets +onlyGivenNames s
  have hs : Keeps P b0 s := advance_keeps K
  clear_value s
  exact Keeps.ite (clockLoss_keeps hm hp hs) hs

theorem effCrystalStop_keeps (hm : ¬ P .mode) (hp : ¬ P .pins) {t s0} (K : Keeps P b0 s0) : Keeps P b0 (effCrystalStop t s0) := by
  unfold effCrystalStop
  extract_lets +onlyGivenNames s
  have hs : Keeps P b0 s := advance_keeps K
  clear_value s
  exact Keeps.ite (clockLoss_keeps hm hp (Keeps.upd hs)) hs

theorem effVsupLow_keeps {t s0} (K : Keeps P b0 s0) : Keeps P b0 (effVsupLow t s0) := by
  unfold effVsupLow
  extract_lets +onlyGivenNames s
  have hs : Keeps P b0 s := advance_keeps K
  clear_value s
  exact Keeps.ite hs (logFault_keeps hs)

theorem effVsupLowEnd_keeps {s} (K : Keeps P b0 s) : Keeps P b0 (effVsupLowEnd s) := by
  unfold effVsupLowEnd; exact endFault_keeps K

theorem effAuthCommandRejected_keeps {r s} (K : Keeps P b0 s) : Keeps P b0 (effAuthCommandRejected r s) := by
  unfold effAuthCommandRejected
  split
  · exact Keeps.ite (writeRow_keeps (fun _ h3 => authOpWrite_keeps h3) K) K
  · split
    · exact K
    · exact Keeps.ite K (by
          split
          · exact rejectCommand_keeps (firstFailure_keeps K ‹_›)
          · exact K)

theorem effWakeWatcherFrame_keeps {ch f s} (K : Keeps P b0 s) : Keeps P b0 (effWakeWatcherFrame ch f s) := by
  unfold effWakeWatcherFrame; exact Keeps.ite (modCan_keeps K) K

theorem effControlFieldEnd_keeps {ch f s} (K : Keeps P b0 s) : Keeps P b0 (effControlFieldEnd ch f s) := by
  unfold effControlFieldEnd; exact Keeps.ite (controlField_keeps K) K

theorem effProtocolExceptionIdle_keeps {ch s} (K : Keeps P b0 s) : Keeps P b0 (effProtocolExceptionIdle ch s) := by
  unfold effProtocolExceptionIdle; exact Keeps.ite K (modCan_keeps K)

theorem effSentSync_keeps {p pulses t s0} (K : Keeps P b0 s0) : Keeps P b0 (effSentSync p pulses t s0) := by
  unfold effSentSync; exact sentPulses_keeps (advance_keeps K)

theorem effBusBusy_keeps {p s} (K : Keeps P b0 s) : Keeps P b0 (effBusBusy p s) := by
  unfold effBusBusy; exact Keeps.ite (modIPort_keeps K) K

theorem effLivenessSweep_keeps {s} (K : Keeps P b0 s) : Keeps P b0 (effLivenessSweep s) := by
  unfold effLivenessSweep; exact Keeps.ite (Keeps.upd K) K

end Sys2Proof.Proofs.Frame

/-! PROOFS. Which commands alone can change the mode, the tack store, a key slot, the counter and PM_CTRL.LOCK. -/

namespace Sys2Proof.Proofs.Frame

set_option Elab.async false

open Sys2Proof.Machine Sys2Proof.Safety

/-- The parts that a command keeps, by the lists of O7. -/
@[reducible] def kept (c : Instr) : Part → Prop
  | .mode => entersMode c = false
  | .lock => setsLock c = false
  | .pins => False
  | .slots => writesSlot c = false
  | .counter => decidesCommand c = false
  | .store => writesTack c = false
  | .early => False

/-- Every command keeps its parts. -/
theorem exec_keeps (c : Instr) (s : State) : ∃ t, exec c s = .next t ∧ Keeps (kept c) s t :=
  match c with
  | .powerOnReset => ⟨_, rfl, effPowerOnReset_keeps ⟨nofun, nofun, id, id⟩ Keeps.refl⟩
  | .brownOutReset _ => ⟨_, rfl, effBrownOutReset_keeps ⟨nofun, nofun, id, id⟩ Keeps.refl⟩
  | .resetPin => ⟨_, rfl, effResetPin_keeps ⟨nofun, nofun, id, id⟩ Keeps.refl⟩
  | .resetRelease _ => ⟨_, rfl, effResetRelease_keeps Keeps.refl⟩
  | .startChecksDone _ => ⟨_, rfl, effStartChecksDone_keeps Keeps.refl⟩
  | .refclkMeasured _ => ⟨_, rfl, effRefclkMeasured_keeps nofun id Keeps.refl⟩
  | .pllLock _ => ⟨_, rfl, effPllLock_keeps Keeps.refl⟩
  | .resetProfileLoadDone => ⟨_, rfl, effResetProfileLoadDone_keeps nofun id Keeps.refl⟩
  | .modeRequest _ => ⟨_, rfl, effModeRequest_keeps ⟨nofun, nofun, id, id⟩ Keeps.refl⟩
  | .resetRequest => ⟨_, rfl, effResetRequest_keeps ⟨nofun, nofun, id, id⟩ Keeps.refl⟩
  | .baseEpochBoundary => ⟨_, rfl, effBaseEpochBoundary_keeps nofun id id Keeps.refl⟩
  | .stabledQuiesceTimeout => ⟨_, rfl, effStabledQuiesceTimeout_keeps id Keeps.refl⟩
  | .stabledSeal => ⟨_, rfl, effStabledSeal_keeps nofun Keeps.refl⟩
  | .pwrHoldDrop => ⟨_, rfl, effPwrHoldDrop_keeps Keeps.refl⟩
  | .wakeDominantEdge _ => ⟨_, rfl, effWakeDominantEdge_keeps id Keeps.refl⟩
  | .wakeFrame _ _ => ⟨_, rfl, effWakeFrame_keeps id Keeps.refl⟩
  | .wakeFrameErrorOverflow _ => ⟨_, rfl, effWakeFrameErrorOverflow_keeps id Keeps.refl⟩
  | .wakePinEdge _ => ⟨_, rfl, effWakePinEdge_keeps id Keeps.refl⟩
  | .wakeReinCs => ⟨_, rfl, effWakeReinCs_keeps id Keeps.refl⟩
  | .wakeTimer => ⟨_, rfl, effWakeTimer_keeps id Keeps.refl⟩
  | .wakeTargetEntry _ => ⟨_, rfl, effWakeTargetEntry_keeps nofun id Keeps.refl⟩
  | .farrierExitReload => ⟨_, rfl, effFarrierExitReload_keeps nofun id Keeps.refl⟩
  | .epochPulseEnd => ⟨_, rfl, effEpochPulseEnd_keeps Keeps.refl⟩
  | .hubTimeWrap => ⟨_, rfl, effHubTimeWrap_keeps Keeps.refl⟩
  | .snapshotCommit _ => ⟨_, rfl, effSnapshotCommit_keeps id Keeps.refl⟩
  | .forwardFillEnd => ⟨_, rfl, effForwardFillEnd_keeps Keeps.refl⟩
  | .bankCrcWritten => ⟨_, rfl, effBankCrcWritten_keeps Keeps.refl⟩
  | .snapPinSet _ _ => ⟨_, rfl, effSnapPinSet_keeps Keeps.refl⟩
  | .snapPinRelease _ _ => ⟨_, rfl, effSnapPinRelease_keeps Keeps.refl⟩
  | .snapPinExpiry => ⟨_, rfl, effSnapPinExpiry_keeps Keeps.refl⟩
  | .boryelLockLossTimeout => ⟨_, rfl, effBoryelLockLossTimeout_keeps Keeps.refl⟩
  | .boryelLeadResume => ⟨_, rfl, effBoryelLeadResume_keeps Keeps.refl⟩
  | .reinFrame _ _ _ _ _ => ⟨_, rfl, effReinFrame_keeps ⟨nofun, nofun, id, id⟩ Keeps.refl⟩
  | .registerWrite _ _ _ => ⟨_, rfl, effRegisterWrite_keeps ⟨nofun, nofun, id, id⟩ Keeps.refl⟩
  | .winDataRead _ _ => ⟨_, rfl, effWinDataRead_keeps Keeps.refl⟩
  | .winDataWrite _ _ => ⟨_, rfl, effWinDataWrite_keeps ⟨nofun, nofun, id, id⟩ Keeps.refl⟩
  | .latchingRead _ _ => ⟨_, rfl, effLatchingRead_keeps Keeps.refl⟩
  | .slowReadComplete _ => ⟨_, rfl, effSlowReadComplete_keeps Keeps.refl⟩
  | .slowReadTimeout => ⟨_, rfl, effSlowReadTimeout_keeps Keeps.refl⟩
  | .stallTimeout => ⟨_, rfl, effStallTimeout_keeps Keeps.refl⟩
  | .qmDataRead _ _ _ => ⟨_, rfl, effQmDataRead_keeps Keeps.refl⟩
  | .evqDataRead _ _ _ => ⟨_, rfl, effEvqDataRead_keeps Keeps.refl⟩
  | .qmEnqWrite _ => ⟨_, rfl, effQmEnqWrite_keeps Keeps.refl⟩
  | .qmSelWrite _ => ⟨_, rfl, effQmSelWrite_keeps Keeps.refl⟩
  | .qmClose => ⟨_, rfl, effQmClose_keeps Keeps.refl⟩
  | .qmDisc => ⟨_, rfl, effQmDisc_keeps Keeps.refl⟩
  | .reservationGrant _ => ⟨_, rfl, effReservationGrant_keeps Keeps.refl⟩
  | .qmFlushGo => ⟨_, rfl, effQmFlushGo_keeps Keeps.refl⟩
  | .flushEnd _ => ⟨_, rfl, effFlushEnd_keeps Keeps.refl⟩
  | .flushAbortTimeout _ => ⟨_, rfl, effFlushAbortTimeout_keeps Keeps.refl⟩
  | .poolScrub _ _ => ⟨_, rfl, effPoolScrub_keeps id Keeps.refl⟩
  | .pmPinWrite _ _ => ⟨_, rfl, effPmPinWrite_keeps id Keeps.refl⟩
  | .pinQuiesceDone _ => ⟨_, rfl, effPinQuiesceDone_keeps Keeps.refl⟩
  | .pinQuiesceTimeout _ => ⟨_, rfl, effPinQuiesceTimeout_keeps Keeps.refl⟩
  | .pinAttach _ => ⟨_, rfl, effPinAttach_keeps id Keeps.refl⟩
  | .captureEdge _ _ _ => ⟨_, rfl, effCaptureEdge_keeps Keeps.refl⟩
  | .bankSupplyLow _ _ => ⟨_, rfl, effBankSupplyLow_keeps Keeps.refl⟩
  | .bankSupplyReturn => ⟨_, rfl, effBankSupplyReturn_keeps Keeps.refl⟩
  | .profileSelect => ⟨_, rfl, decideCommand_keeps nofun nofun ⟨nofun, nofun, nofun, nofun, nofun⟩ Keeps.refl⟩
  | .profileStagingDone => ⟨_, rfl, effProfileStagingDone_keeps Keeps.refl⟩
  | .profileExpansionEnd => ⟨_, rfl, effProfileExpansionEnd_keeps Keeps.refl⟩
  | .profileCommit => ⟨_, rfl, decideCommand_keeps nofun nofun ⟨nofun, nofun, nofun, nofun, nofun⟩ Keeps.refl⟩
  | .tackWriteJobDone _ => ⟨_, rfl, effTackWriteJobDone_keeps nofun Keeps.refl⟩
  | .endpointCommit => ⟨_, rfl, decideCommand_keeps nofun nofun ⟨nofun, nofun, nofun, nofun, nofun⟩ Keeps.refl⟩
  | .endpointCommitApply _ => ⟨_, rfl, effEndpointCommitApply_keeps Keeps.refl⟩
  | .keyLoad => ⟨_, rfl, decideCommand_keeps nofun nofun ⟨nofun, nofun, nofun, nofun, nofun⟩ Keeps.refl⟩
  | .keyLoadDone => ⟨_, rfl, effKeyLoadDone_keeps nofun Keeps.refl⟩
  | .farrierEnter => ⟨_, rfl, decideCommand_keeps nofun nofun ⟨nofun, nofun, nofun, nofun, nofun⟩ Keeps.refl⟩
  | .tackErase => ⟨_, rfl, decideCommand_keeps nofun nofun ⟨nofun, nofun, nofun, nofun, nofun⟩ Keeps.refl⟩
  | .replayLoad => ⟨_, rfl, decideCommand_keeps nofun nofun ⟨nofun, nofun, nofun, nofun, nofun⟩ Keeps.refl⟩
  | .pinmuxLock => ⟨_, rfl, decideCommand_keeps nofun nofun ⟨nofun, nofun, nofun, nofun, nofun⟩ Keeps.refl⟩
  | .authHoldEnd => ⟨_, rfl, effAuthHoldEnd_keeps Keeps.refl⟩
  | .selfTest => ⟨_, rfl, effSelfTest_keeps Keeps.refl⟩
  | .rollCall => ⟨_, rfl, effRollCall_keeps Keeps.refl⟩
  | .rollCallProbe _ _ => ⟨_, rfl, effRollCallProbe_keeps Keeps.refl⟩
  | .autoRate => ⟨_, rfl, effAutoRate_keeps Keeps.refl⟩
  | .autoRateVerifyStart => ⟨_, rfl, effAutoRateVerifyStart_keeps Keeps.refl⟩
  | .profileLoad => ⟨_, rfl, effProfileLoad_keeps Keeps.refl⟩
  | .traceDrain => ⟨_, rfl, effTraceDrain_keeps Keeps.refl⟩
  | .drainSegmentDone _ => ⟨_, rfl, effDrainSegmentDone_keeps Keeps.refl⟩
  | .queueFlush => ⟨_, rfl, effQueueFlush_keeps Keeps.refl⟩
  | .keyframeNow => ⟨_, rfl, effKeyframeNow_keeps Keeps.refl⟩
  | .replayRun => ⟨_, rfl, effReplayRun_keeps Keeps.refl⟩
  | .flashProgram => ⟨_, rfl, effFlashProgram_keeps Keeps.refl⟩
  | .flashStatusPoll _ => ⟨_, rfl, effFlashStatusPoll_keeps Keeps.refl⟩
  | .endpointProbe => ⟨_, rfl, effEndpointProbe_keeps Keeps.refl⟩
  | .opAbort => ⟨_, rfl, effOpAbort_keeps Keeps.refl⟩
  | .longOpEnd _ => ⟨_, rfl, effLongOpEnd_keeps id Keeps.refl⟩
  | .longOpBoundExpiry => ⟨_, rfl, effLongOpBoundExpiry_keeps Keeps.refl⟩
  | .runAheadDispatch _ => ⟨_, rfl, effRunAheadDispatch_keeps Keeps.refl⟩
  | .endStep _ => ⟨_, rfl, effEndStep_keeps Keeps.refl⟩
  | .acq _ => ⟨_, rfl, effAcq_keeps Keeps.refl⟩
  | .portGrant _ => ⟨_, rfl, effPortGrant_keeps Keeps.refl⟩
  | .rel _ => ⟨_, rfl, effRel_keeps Keeps.refl⟩
  | .send _ => ⟨_, rfl, effSend_keeps Keeps.refl⟩
  | .recv _ => ⟨_, rfl, effRecv_keeps Keeps.refl⟩
  | .xfer _ => ⟨_, rfl, effXfer_keeps Keeps.refl⟩
  | .frame _ => ⟨_, rfl, effFrame_keeps Keeps.refl⟩
  | .portStepComplete _ _ _ _ => ⟨_, rfl, effPortStepComplete_keeps Keeps.refl⟩
  | .wait _ => ⟨_, rfl, effWait_keeps Keeps.refl⟩
  | .waitt _ => ⟨_, rfl, effWaitt_keeps Keeps.refl⟩
  | .waitExpiry _ => ⟨_, rfl, effWaitExpiry_keeps Keeps.refl⟩
  | .waitpin _ => ⟨_, rfl, effWaitpin_keeps Keeps.refl⟩
  | .waitpinMatch _ => ⟨_, rfl, effWaitpinMatch_keeps Keeps.refl⟩
  | .waitfrm _ => ⟨_, rfl, effWaitfrm_keeps Keeps.refl⟩
  | .get _ _ => ⟨_, rfl, effGet_keeps Keeps.refl⟩
  | .getSampleReady _ _ => ⟨_, rfl, effGetSampleReady_keeps Keeps.refl⟩
  | .split _ _ => ⟨_, rfl, effSplit_keeps Keeps.refl⟩
  | .flush _ => ⟨_, rfl, effFlush_keeps Keeps.refl⟩
  | .skip _ => ⟨_, rfl, effSkip_keeps Keeps.refl⟩
  | .attemptTimeout _ => ⟨_, rfl, effAttemptTimeout_keeps Keeps.refl⟩
  | .retryGapExpiry _ => ⟨_, rfl, effRetryGapExpiry_keeps Keeps.refl⟩
  | .sampleCompletion _ => ⟨_, rfl, effSampleCompletion_keeps id Keeps.refl⟩
  | .lateExpressRoute _ => ⟨_, rfl, effLateExpressRoute_keeps Keeps.refl⟩
  | .canStartRequest _ _ => ⟨_, rfl, effCanStartRequest_keeps Keeps.refl⟩
  | .canStopRequest _ _ => ⟨_, rfl, effCanStopRequest_keeps Keeps.refl⟩
  | .canChannelStop _ => ⟨_, rfl, effCanChannelStop_keeps Keeps.refl⟩
  | .canIntegrationDone _ => ⟨_, rfl, effCanIntegrationDone_keeps Keeps.refl⟩
  | .canFrameReceived _ _ _ _ => ⟨_, rfl, effCanFrameReceived_keeps Keeps.refl⟩
  | .canFrameError _ _ _ => ⟨_, rfl, effCanFrameError_keeps Keeps.refl⟩
  | .canProtocolException _ _ => ⟨_, rfl, effCanProtocolException_keeps Keeps.refl⟩
  | .canRecoveryStart _ => ⟨_, rfl, effCanRecoveryStart_keeps Keeps.refl⟩
  | .canRecoveryDone _ _ => ⟨_, rfl, effCanRecoveryDone_keeps Keeps.refl⟩
  | .canTxTake _ => ⟨_, rfl, effCanTxTake_keeps Keeps.refl⟩
  | .canFrameTransmitted _ _ _ _ => ⟨_, rfl, effCanFrameTransmitted_keeps Keeps.refl⟩
  | .canArbitrationLost _ _ _ => ⟨_, rfl, effCanArbitrationLost_keeps Keeps.refl⟩
  | .canTxdataWrite _ _ => ⟨_, rfl, effCanTxdataWrite_keeps Keeps.refl⟩
  | .canRxqRead _ _ _ _ => ⟨_, rfl, effCanRxqRead_keeps Keeps.refl⟩
  | .rxShadowLoad _ _ => ⟨_, rfl, effRxShadowLoad_keeps Keeps.refl⟩
  | .passThroughEntry _ _ _ _ => ⟨_, rfl, effPassThroughEntry_keeps Keeps.refl⟩
  | .targetSelectFall _ _ => ⟨_, rfl, effTargetSelectFall_keeps Keeps.refl⟩
  | .targetSelectRise _ _ _ _ _ => ⟨_, rfl, effTargetSelectRise_keeps Keeps.refl⟩
  | .lineFillDone _ => ⟨_, rfl, effLineFillDone_keeps Keeps.refl⟩
  | .linePrefetch => ⟨_, rfl, effLinePrefetch_keeps Keeps.refl⟩
  | .cacheInvalidate => ⟨_, rfl, effCacheInvalidate_keeps Keeps.refl⟩
  | .sfdpRead => ⟨_, rfl, effSfdpRead_keeps Keeps.refl⟩
  | .sfdpDone _ => ⟨_, rfl, effSfdpDone_keeps Keeps.refl⟩
  | .busFree _ => ⟨_, rfl, effBusFree_keeps Keeps.refl⟩
  | .i2cArbitrationLost _ _ => ⟨_, rfl, effI2cArbitrationLost_keeps Keeps.refl⟩
  | .i2cHang _ _ => ⟨_, rfl, effI2cHang_keeps Keeps.refl⟩
  | .i2cRecoveryDone _ _ _ _ => ⟨_, rfl, effI2cRecoveryDone_keeps Keeps.refl⟩
  | .i2cStuckRetry _ => ⟨_, rfl, effI2cStuckRetry_keeps Keeps.refl⟩
  | .i2cCall _ _ _ _ => ⟨_, rfl, effI2cCall_keeps Keeps.refl⟩
  | .ptGo _ _ _ _ => ⟨_, rfl, effPtGo_keeps Keeps.refl⟩
  | .ptHoldExpiry _ => ⟨_, rfl, effPtHoldExpiry_keeps Keeps.refl⟩
  | .sentFrame _ _ _ _ _ => ⟨_, rfl, effSentFrame_keeps Keeps.refl⟩
  | .sentError _ _ _ _ => ⟨_, rfl, effSentError_keeps Keeps.refl⟩
  | .sentLineTimeout _ _ => ⟨_, rfl, effSentLineTimeout_keeps Keeps.refl⟩
  | .verdictBatchWrite _ => ⟨_, rfl, effVerdictBatchWrite_keeps Keeps.refl⟩
  | .gapRecord _ => ⟨_, rfl, effGapRecord_keeps Keeps.refl⟩
  | .tapArm => ⟨_, rfl, effTapArm_keeps Keeps.refl⟩
  | .tapFrz => ⟨_, rfl, effTapFrz_keeps Keeps.refl⟩
  | .replayLoaderFill _ _ => ⟨_, rfl, effReplayLoaderFill_keeps Keeps.refl⟩
  | .replayRecord _ _ => ⟨_, rfl, effReplayRecord_keeps ⟨nofun, nofun, id, id⟩ Keeps.refl⟩
  | .replayGo => ⟨_, rfl, effReplayGo_keeps Keeps.refl⟩
  | .livenessProbeTimeout _ _ => ⟨_, rfl, effLivenessProbeTimeout_keeps id Keeps.refl⟩
  | .hitchTimeout _ _ _ => ⟨_, rfl, effHitchTimeout_keeps id Keeps.refl⟩
  | .islandRestartDone _ => ⟨_, rfl, effIslandRestartDone_keeps Keeps.refl⟩
  | .pllUnlock => ⟨_, rfl, effPllUnlock_keeps Keeps.refl⟩
  | .pllRelock _ _ => ⟨_, rfl, effPllRelock_keeps Keeps.refl⟩
  | .clockLossTimeout _ => ⟨_, rfl, effClockLossTimeout_keeps nofun id Keeps.refl⟩
  | .crystalStop _ => ⟨_, rfl, effCrystalStop_keeps nofun id Keeps.refl⟩
  | .vsupLow _ => ⟨_, rfl, effVsupLow_keeps Keeps.refl⟩
  | .vsupLowEnd => ⟨_, rfl, effVsupLowEnd_keeps Keeps.refl⟩
  | .authCommandRejected _ => ⟨_, rfl, effAuthCommandRejected_keeps Keeps.refl⟩
  | .wakeWatcherFrame _ _ => ⟨_, rfl, effWakeWatcherFrame_keeps Keeps.refl⟩
  | .controlFieldEnd _ _ => ⟨_, rfl, effControlFieldEnd_keeps Keeps.refl⟩
  | .protocolExceptionIdle _ => ⟨_, rfl, effProtocolExceptionIdle_keeps Keeps.refl⟩
  | .sentSync _ _ => ⟨_, rfl, effSentSync_keeps Keeps.refl⟩
  | .busBusy _ => ⟨_, rfl, effBusBusy_keeps Keeps.refl⟩
  | .livenessSweep => ⟨_, rfl, effLivenessSweep_keeps Keeps.refl⟩

/-- Settles O7, by `exec_keeps`. -/
theorem onlyTheseChange : Obligations.OnlyTheseChange := by
  intro c s t row
  obtain ⟨t', row', keeps⟩ := exec_keeps c s
  obtain rfl : t' = t := by
    rw [row] at row'
    exact (Host.Outcome.next.inj row').symm
  exact ⟨keeps.part .mode, fun idle none => (keeps.part .store idle none).2, keeps.part .slots, keeps.part .counter,
    keeps.part .lock⟩

end Sys2Proof.Proofs.Frame

/-! PROOFS. What follows a change of the working units (`adapting`): the ports, the CAN channels, the pins and the records settle, and
every other part of the state stays. -/

namespace Sys2Proof.Proofs.Adapting

set_option Elab.async false

open Sys2Proof.Machine

/-- `t` is `u` but for the ports and channels, the pins' levels and phases, the Boryel state, the held frames and the records. -/
structure Adapts (u t : State) : Prop where
  power : t.power = u.power
  mode : t.mode = u.mode
  fault : t.fault = u.fault
  rein : t.rein = u.rein
  op : t.op = u.op
  auth : t.auth = u.auth
  tack : t.tack = u.tack
  user : t.cfg.user = u.cfg.user
  fallback : t.cfg.fallback = u.cfg.fallback
  lanes : t.poll.lanes = u.poll.lanes
  snap : t.snap = u.snap
  time : t.time = u.time
  tap : t.tap = u.tap
  replay : t.replay = u.replay
  lock : t.pins.lock = u.pins.lock
  pending : t.pending = u.pending

variable {b0 s t : State}

theorem Adapts.refl : Adapts s s :=
  ⟨rfl, rfl, rfl, rfl, rfl, rfl, rfl, rfl, rfl, rfl, rfl, rfl, rfl, rfl, rfl, rfl⟩

theorem Adapts.trans (h : Adapts b0 s) (k : Adapts s t) : Adapts b0 t :=
  ⟨k.power.trans h.power, k.mode.trans h.mode, k.fault.trans h.fault, k.rein.trans h.rein, k.op.trans h.op,
    k.auth.trans h.auth, k.tack.trans h.tack, k.user.trans h.user, k.fallback.trans h.fallback, k.lanes.trans h.lanes,
    k.snap.trans h.snap, k.time.trans h.time, k.tap.trans h.tap, k.replay.trans h.replay, k.lock.trans h.lock,
    k.pending.trans h.pending⟩

/-- An update of other fields. -/
theorem Adapts.upd (h : Adapts b0 s) (e : Adapts s t := by
    with_reducible exact ⟨rfl, rfl, rfl, rfl, rfl, rfl, rfl, rfl, rfl, rfl, rfl, rfl, rfl, rfl, rfl, rfl⟩) : Adapts b0 t :=
  Adapts.trans h e

theorem Adapts.ite {c : Prop} [Decidable c] (hs : Adapts b0 s) (ht : Adapts b0 t) : Adapts b0 (if c then s else t) := by
  split <;> assumption

theorem Adapts.foldl {α : Type} {f : State → α → State} (hf : ∀ x a, Adapts b0 x → Adapts b0 (f x a)) {l : List α} :
    ∀ {s : State}, Adapts b0 s → Adapts b0 (l.foldl f s) := by
  induction l with
  | nil => exact fun h => h
  | cons a l ih => exact fun h => ih (hf _ a h)

theorem drawn_adapts {s} (K : Adapts b0 s) : Adapts b0 (drawn s) := by
  unfold drawn; exact Adapts.upd K

theorem dropForced_adapts {p s} (K : Adapts b0 s) : Adapts b0 (dropForced p s) := by
  unfold dropForced; exact Adapts.upd K

theorem grant_adapts {p b s} (K : Adapts b0 s) : Adapts b0 (grant p b s) := by
  unfold grant; exact Adapts.ite (Adapts.ite (dropForced_adapts K) K) (Adapts.ite (Adapts.upd K) K)

theorem attend_adapts {n s} (K : Adapts b0 s) : Adapts b0 (attend n s) := by
  unfold attend
  extract_lets +onlyGivenNames s1
  have hs1 : Adapts b0 s1 := Adapts.ite (grant_adapts (grant_adapts K)) K
  clear_value s1
  exact grant_adapts (Adapts.upd hs1)

theorem grants_adapts {l s} (K : Adapts b0 s) : Adapts b0 (grants l s) := by
  unfold grants; exact Adapts.foldl (fun _ _ h1 => grant_adapts h1) K

theorem setStatByte_adapts {a v s} (K : Adapts b0 s) : Adapts b0 (setStatByte a v s) := by
  unfold setStatByte; exact Adapts.upd K

theorem modSPort_adapts {p f s} (K : Adapts b0 s) : Adapts b0 (modSPort p f s) := by
  unfold modSPort; exact Adapts.upd K

theorem releaseSelect_adapts {p s} (K : Adapts b0 s) : Adapts b0 (releaseSelect p s) := by
  unfold releaseSelect; exact modSPort_adapts K

theorem modQueue_adapts {q f s} (K : Adapts b0 s) : Adapts b0 (modQueue q f s) := by
  unfold modQueue; exact Adapts.upd K

theorem modCan_adapts {ch f s} (K : Adapts b0 s) : Adapts b0 (modCan ch f s) := by
  unfold modCan; split <;> exact Adapts.upd K

theorem takeItem_adapts {q s x t} (h : Adapts b0 s) (e : takeItem q s = some (x, t)) : Adapts b0 t := by
  unfold takeItem at e
  split at e
  · cases e
  · split at e
    · cases e
      exact grants_adapts (modQueue_adapts h)
    · cases e

theorem skipBad_adapts {n q s} (h : Adapts b0 s) : Adapts b0 (skipBad n q s) := by
  induction n generalizing s with
  | zero => exact h
  | succ n ih =>
    unfold skipBad; split
    · exact h
    · split
      · exact ih (takeItem_adapts h ‹_›)
      · exact h

theorem takeGood_adapts {n q s x t} (h : Adapts b0 s) (e : takeGood n q s = some (x, t)) : Adapts b0 t := by
  unfold takeGood at e
  exact takeItem_adapts (skipBad_adapts h) ‹_›

theorem gainLock_adapts {s} (K : Adapts b0 s) : Adapts b0 (gainLock s) := by
  unfold gainLock; exact Adapts.ite K (attend_adapts (Adapts.upd K))

theorem loseLock_adapts {s} (K : Adapts b0 s) : Adapts b0 (loseLock s) := by
  unfold loseLock; exact Adapts.ite (attend_adapts (Adapts.upd K)) (Adapts.upd K)

theorem withdrawSync_adapts {s} (K : Adapts b0 s) : Adapts b0 (withdrawSync s) := by
  unfold withdrawSync
  extract_lets +onlyGivenNames drop
  have hdrop {ch} {s} (hs' : Adapts b0 s) : Adapts b0 (drop ch s) := by
    dsimp -zeta only [drop]
    extract_lets +onlyGivenNames s1
    have hs1 : Adapts b0 s1 := modQueue_adapts hs'
    clear_value s1
    exact modCan_adapts hs1
  clear_value drop
  extract_lets +onlyGivenNames s1
  have hs1 : Adapts b0 s1 := hdrop (hdrop (Adapts.ite (grants_adapts K) K))
  clear_value s1
  exact Adapts.upd hs1

theorem settleLead_adapts {s} (K : Adapts b0 s) : Adapts b0 (settleLead s) := by
  unfold settleLead
  split
  · extract_lets +onlyGivenNames _ s1
    have hs1 : Adapts b0 s1 := Adapts.upd K
    clear_value s1
    exact Adapts.ite (gainLock_adapts hs1) (loseLock_adapts hs1)
  · exact Adapts.ite (withdrawSync_adapts (loseLock_adapts (Adapts.upd K))) K

theorem startCan_adapts {ch s} (K : Adapts b0 s) : Adapts b0 (startCan ch s) := by
  unfold startCan
  extract_lets +onlyGivenNames _ s1
  have hs1 : Adapts b0 s1 := grant_adapts K
  clear_value s1
  exact modCan_adapts hs1

theorem canEvent_adapts {ch n s} (K : Adapts b0 s) : Adapts b0 (canEvent ch n s) := by
  unfold canEvent; exact attend_adapts (modCan_adapts K)

theorem refuseStart_adapts {ch why s} (K : Adapts b0 s) : Adapts b0 (refuseStart ch why s) := by
  unfold refuseStart; exact canEvent_adapts (modCan_adapts K)

theorem settleCan_adapts {ch s} (K : Adapts b0 s) : Adapts b0 (settleCan ch s) := by
  unfold settleCan
  extract_lets +onlyGivenNames on s1
  have hs1 : Adapts b0 s1 := modCan_adapts K
  clear_value s1
  exact Adapts.ite (Adapts.ite (startCan_adapts hs1) (refuseStart_adapts hs1)) hs1

theorem settleCans_adapts {s} (K : Adapts b0 s) : Adapts b0 (settleCans s) := by
  unfold settleCans; exact settleLead_adapts (settleCan_adapts (settleCan_adapts K))

theorem modIPort_adapts {p f s} (K : Adapts b0 s) : Adapts b0 (modIPort p f s) := by
  unfold modIPort; exact Adapts.upd K

theorem modTPort_adapts {p f s} (K : Adapts b0 s) : Adapts b0 (modTPort p f s) := by
  unfold modTPort; exact Adapts.upd K

theorem loadTarget_adapts {p s} (K : Adapts b0 s) : Adapts b0 (loadTarget p s) := by
  unfold loadTarget
  split
  · split
    · exact K
    · extract_lets +onlyGivenNames n
      exact modSPort_adapts (takeGood_adapts K ‹_›)
  · exact K

theorem loadTargets_adapts {s} (K : Adapts b0 s) : Adapts b0 (loadTargets s) := by
  unfold loadTargets; exact Adapts.foldl (fun _ _ h0 => (loadTarget_adapts h0)) K

theorem settlePorts_adapts {old s} (hs : Adapts b0 s) : Adapts b0 (settlePorts old s) := by
  unfold settlePorts
  refine Adapts.foldl (fun _ _ h0 => ?_) (loadTargets_adapts hs)
  extract_lets +onlyGivenNames s1
  have hs1 : Adapts b0 s1 := Adapts.ite (modIPort_adapts h0) h0
  clear_value s1
  extract_lets +onlyGivenNames s2
  have hs2 : Adapts b0 s2 := Adapts.ite (modTPort_adapts hs1) hs1
  clear_value s2
  exact Adapts.ite (releaseSelect_adapts hs2) hs2

theorem setEstat_adapts {n b on s} (K : Adapts b0 s) : Adapts b0 (setEstat n b on s) := by
  unfold setEstat
  extract_lets +onlyGivenNames v
  exact setStatByte_adapts K

theorem purgeHeld_adapts {s} (K : Adapts b0 s) : Adapts b0 (purgeHeld s) := by
  unfold purgeHeld
  extract_lets +onlyGivenNames gone
  exact Adapts.foldl (fun _ _ h0 => (setEstat_adapts h0)) (Adapts.upd K)

theorem modPin_adapts {i f s} (K : Adapts b0 s) : Adapts b0 (modPin i f s) := by
  unfold modPin; exact Adapts.upd K

theorem beginTransit_adapts {i s} (K : Adapts b0 s) : Adapts b0 (beginTransit i s) := by
  unfold beginTransit; exact Adapts.ite (grant_adapts (drawn_adapts (modPin_adapts K))) K

theorem settlePin_adapts {old s i} (K : Adapts b0 s) : Adapts b0 (settlePin old s i) := by
  unfold settlePin
  extract_lets +onlyGivenNames s1
  have hs1 : Adapts b0 s1 := by
    dsimp only [s1]
    split
    · exact modPin_adapts K
    · exact K
  clear_value s1
  exact Adapts.ite (beginTransit_adapts hs1) hs1

theorem settlePins_adapts {old s} (K : Adapts b0 s) : Adapts b0 (settlePins old s) := by
  unfold settlePins; exact Adapts.foldl (fun _ _ h1 => settlePin_adapts h1) K

/-- What follows a step `f` that may change which units work. -/
theorem adapting_adapts {f : State → State} : Adapts (f s) (adapting f s) :=
  settleCans_adapts (settlePins_adapts (settlePorts_adapts (purgeHeld_adapts Adapts.refl)))

end Sys2Proof.Proofs.Adapting

/-! PROOFS. Runs that become due and start, and endpoints that are validated: the poll engine's own state, the status area, the staging bank
and the verdicts change, and every other part of the state stays. -/

namespace Sys2Proof.Proofs.Polling

set_option Elab.async false

open Sys2Proof.Machine

/-- `t` is `u` but for the poll engine, the status area, the snapshot unit and the verdicts. -/
structure Polls (u t : State) : Prop where
  power : t.power = u.power
  mode : t.mode = u.mode
  fault : t.fault = u.fault
  pins : t.pins = u.pins
  rein : t.rein = u.rein
  attn : t.attn = u.attn
  op : t.op = u.op
  auth : t.auth = u.auth
  tack : t.tack = u.tack
  time : t.time = u.time
  boryel : t.boryel = u.boryel
  pool : t.pool = u.pool
  canA : t.canA = u.canA
  canB : t.canB = u.canB
  sports : t.sports = u.sports
  iports : t.iports = u.iports
  tports : t.tports = u.tports
  tap : t.tap = u.tap
  replay : t.replay = u.replay
  seed : t.seed = u.seed
  pending : t.pending = u.pending
  user : t.cfg.user = u.cfg.user
  fallback : t.cfg.fallback = u.cfg.fallback

variable {b0 s t : State}

theorem Polls.refl : Polls s s :=
  ⟨rfl, rfl, rfl, rfl, rfl, rfl, rfl, rfl, rfl, rfl, rfl, rfl, rfl, rfl, rfl, rfl, rfl, rfl, rfl, rfl, rfl, rfl, rfl⟩

theorem Polls.trans (h : Polls b0 s) (k : Polls s t) : Polls b0 t :=
  ⟨k.power.trans h.power, k.mode.trans h.mode, k.fault.trans h.fault, k.pins.trans h.pins, k.rein.trans h.rein,
    k.attn.trans h.attn, k.op.trans h.op, k.auth.trans h.auth, k.tack.trans h.tack, k.time.trans h.time,
    k.boryel.trans h.boryel, k.pool.trans h.pool, k.canA.trans h.canA, k.canB.trans h.canB, k.sports.trans h.sports,
    k.iports.trans h.iports, k.tports.trans h.tports, k.tap.trans h.tap, k.replay.trans h.replay, k.seed.trans h.seed,
    k.pending.trans h.pending, k.user.trans h.user, k.fallback.trans h.fallback⟩

/-- An update of other fields. -/
theorem Polls.upd (h : Polls b0 s) (e : Polls s t := by
    with_reducible exact ⟨rfl, rfl, rfl, rfl, rfl, rfl, rfl, rfl, rfl, rfl, rfl, rfl, rfl, rfl, rfl, rfl, rfl, rfl, rfl, rfl, rfl, rfl, rfl⟩) : Polls b0 t :=
  Polls.trans h e

theorem Polls.ite {c : Prop} [Decidable c] (hs : Polls b0 s) (ht : Polls b0 t) : Polls b0 (if c then s else t) := by
  split <;> assumption

theorem Polls.foldl {α : Type} {f : State → α → State} (hf : ∀ x a, Polls b0 x → Polls b0 (f x a)) {l : List α} :
    ∀ {s : State}, Polls b0 s → Polls b0 (l.foldl f s) := by
  induction l with
  | nil => exact fun h => h
  | cons a l ih => exact fun h => ih (hf _ a h)

theorem dropForced_polls {p s} (K : Polls b0 s) : Polls b0 (dropForced p s) := by
  unfold dropForced; exact Polls.upd K

theorem grant_polls {p b s} (K : Polls b0 s) : Polls b0 (grant p b s) := by
  unfold grant; exact Polls.ite (Polls.ite (dropForced_polls K) K) (Polls.ite (Polls.upd K) K)

theorem setStatByte_polls {a v s} (K : Polls b0 s) : Polls b0 (setStatByte a v s) := by
  unfold setStatByte; exact Polls.upd K

theorem setEcr_polls {n code s} (K : Polls b0 s) : Polls b0 (setEcr n code s) := by
  unfold setEcr; exact setStatByte_polls K

theorem countByte_polls {a s} (K : Polls b0 s) : Polls b0 (countByte a s) := by
  unfold countByte; exact setStatByte_polls K

theorem setEstat_polls {n b on s} (K : Polls b0 s) : Polls b0 (setEstat n b on s) := by
  unfold setEstat
  extract_lets +onlyGivenNames v
  exact setStatByte_polls K

theorem purgeHeld_polls {s} (K : Polls b0 s) : Polls b0 (purgeHeld s) := by
  unfold purgeHeld
  extract_lets +onlyGivenNames gone
  exact Polls.foldl (fun _ _ h0 => (setEstat_polls h0)) (Polls.upd K)

theorem setLast_polls {n code s} (K : Polls b0 s) : Polls b0 (setLast n code s) := by
  unfold setLast; exact setStatByte_polls K

theorem countEp_polls {n o s} (K : Polls b0 s) : Polls b0 (countEp n o s) := by
  unfold countEp; exact countByte_polls K

theorem modBank_polls {b f s} (K : Polls b0 s) : Polls b0 (modBank b f s) := by
  unfold modBank; exact Polls.ite (Polls.upd K) (Polls.ite (Polls.upd K) (Polls.ite (Polls.upd K) K))

theorem putSlot_polls {b n x s} (K : Polls b0 s) : Polls b0 (putSlot b n x s) := by
  unfold putSlot; exact modBank_polls K

theorem modLane_polls {i f s} (K : Polls b0 s) : Polls b0 (modLane i f s) := by
  unfold modLane; exact Polls.upd K

theorem passValidation_polls {n s} (K : Polls b0 s) : Polls b0 (passValidation n s) := by
  unfold passValidation; exact Polls.ite (setLast_polls (setEstat_polls (Polls.upd K))) K

theorem failValidation_polls {n s} (K : Polls b0 s) : Polls b0 (failValidation n s) := by
  unfold failValidation
  extract_lets +onlyGivenNames _ s1
  have hs1 : Polls b0 s1 := Polls.ite K (Polls.upd K)
  clear_value s1
  exact setLast_polls (setEstat_polls hs1)

theorem validateEp_polls {n s} (K : Polls b0 s) : Polls b0 (validateEp n s) := by
  unfold validateEp; exact Polls.ite (passValidation_polls K) (failValidation_polls K)

theorem addDue_polls {n s} (K : Polls b0 s) : Polls b0 (addDue n s) := by
  unfold addDue
  extract_lets +onlyGivenNames _
  exact Polls.ite K (Polls.ite K (Polls.ite (Polls.upd K) (Polls.ite (countEp_polls K) (Polls.upd K))))

theorem startAttempt_polls {i pc trig s} (K : Polls b0 s) : Polls b0 (startAttempt i pc trig s) := by
  unfold startAttempt; exact modLane_polls K

theorem startRun_polls {i r ahead s} (K : Polls b0 s) : Polls b0 (startRun i r ahead s) := by
  unfold startRun; exact setEstat_polls (setStatByte_polls (startAttempt_polls (modLane_polls K)))

theorem dispatch_polls {s} (K : Polls b0 s) : Polls b0 (dispatch s) := by
  unfold dispatch
  exact Polls.foldl (fun _ _ h1 => Polls.ite (by
      split
      · exact Polls.ite h1 (startRun_polls (grant_polls (Polls.upd h1)))
      · split
        · exact Polls.ite h1 (startRun_polls (grant_polls (Polls.upd h1)))
        · exact h1) h1) K

theorem missOwed_polls {s} (K : Polls b0 s) : Polls b0 (missOwed s) := by
  unfold missOwed
  extract_lets +onlyGivenNames _
  exact Polls.foldl (fun _ _ h2 => countEp_polls h2) (Polls.upd K)

theorem sortRuns_polls {s} (K : Polls b0 s) : Polls b0 (sortRuns s) := by
  unfold sortRuns
  extract_lets +onlyGivenNames _
  exact Polls.upd K

theorem dueRuns_polls {s} (K : Polls b0 s) : Polls b0 (dueRuns s) := by
  unfold dueRuns
  extract_lets +onlyGivenNames s1
  have hs1 : Polls b0 s1 := missOwed_polls K
  clear_value s1
  exact Polls.ite (by
      extract_lets +onlyGivenNames _ s11
      have hs11 : Polls b0 s11 := Polls.foldl (fun _ _ h4 => Polls.ite (addDue_polls h4) h4) (grant_polls hs1)
      clear_value s11
      exact dispatch_polls (sortRuns_polls (Polls.upd hs11))) hs1

theorem clearStatus_polls {n s} (K : Polls b0 s) : Polls b0 (clearStatus n s) := by
  unfold clearStatus; exact Polls.upd K

theorem setStaging_polls {n x s} (K : Polls b0 s) : Polls b0 (setStaging n x s) := by
  unfold setStaging
  extract_lets +onlyGivenNames s1
  have hs1 : Polls b0 s1 := putSlot_polls K
  clear_value s1
  exact Polls.ite (Polls.upd hs1) hs1

theorem freshSlot_polls {n atNextFill s} (K : Polls b0 s) : Polls b0 (freshSlot n atNextFill s) := by
  unfold freshSlot
  exact Polls.ite (Polls.upd K) (Polls.ite K (by
      extract_lets +onlyGivenNames s1
      have hs1 : Polls b0 s1 := setStaging_polls K
      clear_value s1
      exact Polls.upd hs1))

theorem resetCondOf_polls {n s} (K : Polls b0 s) : Polls b0 (resetCondOf n s) := by
  unfold resetCondOf; exact Polls.upd K

theorem staleWindow_polls {n s} (K : Polls b0 s) : Polls b0 (staleWindow n s) := by
  unfold staleWindow; exact Polls.upd K

theorem freshStatus_polls {n s} (K : Polls b0 s) : Polls b0 (freshStatus n s) := by
  unfold freshStatus
  extract_lets +onlyGivenNames s1
  have hs1 : Polls b0 s1 := Polls.ite (setEstat_polls (clearStatus_polls K)) (clearStatus_polls K)
  clear_value s1
  exact Polls.ite (setEstat_polls hs1) hs1

theorem freshEndpoint_polls {e s} (K : Polls b0 s) : Polls b0 (freshEndpoint e s) := by
  unfold freshEndpoint
  extract_lets +onlyGivenNames s1
  have hs1 : Polls b0 s1 := Polls.ite (freshStatus_polls K) K
  clear_value s1
  extract_lets +onlyGivenNames s2
  have hs2 : Polls b0 s2 := Polls.ite (resetCondOf_polls hs1) hs1
  clear_value s2
  exact Polls.ite (staleWindow_polls hs2) hs2

theorem freshOwnSlot_polls {e s} (K : Polls b0 s) : Polls b0 (freshOwnSlot e s) := by
  unfold freshOwnSlot; exact Polls.ite (freshSlot_polls K) K

end Sys2Proof.Proofs.Polling

/-! PROOFS. What the host's registers show of a long operation (R178, R179), but for PROG: the records of an access, the queues' own work and
the frames that the operation sends leave it, and OPDONE once set stays set. -/

namespace Sys2Proof.Proofs.Operation

set_option Elab.async false

open Sys2Proof.Machine

/-- An operation that holds nothing beyond its registers, or none. -/
def holdsNothing : OpJob → Bool
  | .none | .load | .selfTest .. | .autoRate .. | .rollCall .. => true
  | _ => false

/-- `t` shows the operation that `u` shows, but for PROG, with OPDONE set where `u` has it set,
and an operation that holds nothing where `u` has one. -/
structure Shown (u t : State) : Prop where
  code : t.op.code = u.op.code
  state : t.op.state = u.op.state
  why : t.op.why = u.op.why
  abort : t.op.abort = u.op.abort
  newest : t.op.newest = u.op.newest
  recs : t.op.recs = u.op.recs
  done : u.attn.src.getLsbD 4 = true → t.attn.src.getLsbD 4 = true
  plain : holdsNothing u.op.job = true → holdsNothing t.op.job = true

variable {b0 s t : State}

theorem Shown.refl : Shown s s := ⟨rfl, rfl, rfl, rfl, rfl, rfl, id, id⟩

theorem Shown.trans (h : Shown b0 s) (k : Shown s t) : Shown b0 t :=
  ⟨k.code.trans h.code, k.state.trans h.state, k.why.trans h.why, k.abort.trans h.abort, k.newest.trans h.newest, k.recs.trans h.recs, k.done ∘ h.done, k.plain ∘ h.plain⟩

/-- An update of other fields. -/
theorem Shown.upd (h : Shown b0 s) (e : Shown s t := by
    with_reducible exact ⟨rfl, rfl, rfl, rfl, rfl, rfl, id, id⟩) : Shown b0 t :=
  Shown.trans h e

theorem Shown.ite {c : Prop} [Decidable c] (hs : Shown b0 s) (ht : Shown b0 t) : Shown b0 (if c then s else t) := by
  split <;> assumption

theorem Shown.foldl {α : Type} {f : State → α → State} (hf : ∀ x a, Shown b0 x → Shown b0 (f x a)) {l : List α} :
    ∀ {s : State}, Shown b0 s → Shown b0 (l.foldl f s) := by
  induction l with
  | nil => exact fun h => h
  | cons a l ih => exact fun h => ih (hf _ a h)

/-- An operation that holds something has come on. -/
theorem Shown.working {j : OpJob} (h : Shown b0 s) (job : holdsNothing s.op.job = false) (k : Shown b0 t) :
    Shown b0 { t with op := { t.op with job := j } } :=
  ⟨k.code, k.state, k.why, k.abort, k.newest, k.recs, k.done, fun p => absurd (h.plain p) (by simp [job])⟩

theorem drainLoses_plain {j : OpJob} (h : holdsNothing j = true) : holdsNothing (drainLoses j) = true := by
  cases j <;> exact h

/-- A source that is set stays set when another is. -/
theorem attends {w : Word} {m n : Nat} (on : w.getLsbD m = true) : (setBit w n).getLsbD m = true := by
  simp [setBit, on]

theorem dropForced_shown {p s} (K : Shown b0 s) : Shown b0 (dropForced p s) := by
  unfold dropForced; exact Shown.upd K

theorem grant_shown {p b s} (K : Shown b0 s) : Shown b0 (grant p b s) := by
  unfold grant; exact Shown.ite (Shown.ite (dropForced_shown K) K) (Shown.ite (Shown.upd K) K)

theorem opProgress_shown {n s} (K : Shown b0 s) : Shown b0 (opProgress n s) := by
  unfold opProgress; exact grant_shown (Shown.upd K)

theorem attend_shown {n s} (K : Shown b0 s) : Shown b0 (attend n s) := by
  unfold attend
  extract_lets +onlyGivenNames s1
  have hs1 : Shown b0 s1 := Shown.ite (grant_shown (grant_shown K)) K
  clear_value s1
  exact grant_shown ⟨hs1.code, hs1.state, hs1.why, hs1.abort, hs1.newest, hs1.recs, fun h => attends (hs1.done h), hs1.plain⟩

theorem grants_shown {l s} (K : Shown b0 s) : Shown b0 (grants l s) := by
  unfold grants; exact Shown.foldl (fun _ _ h1 => grant_shown h1) K

theorem modSPort_shown {p f s} (K : Shown b0 s) : Shown b0 (modSPort p f s) := by
  unfold modSPort; exact Shown.upd K

theorem setStatWord_shown {a v s} (K : Shown b0 s) : Shown b0 (setStatWord a v s) := by
  unfold setStatWord; exact Shown.upd K

theorem countWord_shown {a s} (K : Shown b0 s) : Shown b0 (countWord a s) := by
  unfold countWord; exact setStatWord_shown K

theorem countFrame_shown {p s} (K : Shown b0 s) : Shown b0 (countFrame p s) := by
  unfold countFrame; exact countWord_shown K

theorem modQueue_shown {q f s} (K : Shown b0 s) : Shown b0 (modQueue q f s) := by
  unfold modQueue; exact Shown.upd K

theorem tapDrawn_shown {s} (K : Shown b0 s) : Shown b0 (tapDrawn s) := by
  unfold tapDrawn; exact Shown.upd K

theorem streamOut_shown {bs s} (K : Shown b0 s) : Shown b0 (streamOut bs s) := by
  unfold streamOut; exact Shown.ite (Shown.ite (tapDrawn_shown (Shown.upd K)) (tapDrawn_shown (Shown.upd K))) K

theorem dropOldest_shown {q rest s} (K : Shown b0 s) : Shown b0 (dropOldest q rest s) := by
  unfold dropOldest; exact grants_shown (modQueue_shown K)

theorem makeRingRoom_shown {n s} (h : Shown b0 s) : Shown b0 (makeRingRoom n s) := by
  induction n generalizing s with
  | zero => exact h
  | succ n ih =>
    unfold makeRingRoom; split
    · exact h
    · split
      · exact h
      · next oldest rest _ =>
        have k := dropOldest_shown (q := 48) (rest := rest) h
        exact ih ⟨k.code, k.state, k.why, k.abort, k.newest, k.recs, k.done, fun p => drainLoses_plain (k.plain p)⟩

theorem openItem_shown {q n who prio s} (K : Shown b0 s) : Shown b0 (openItem q n who prio s) := by
  unfold openItem
  extract_lets +onlyGivenNames _
  exact modQueue_shown (Shown.upd K)

theorem reserve_shown {q n who prio s t} (h : Shown b0 s) (e : reserve q n who prio s = some t) : Shown b0 t := by
  unfold reserve at e
  split at e
  · cases e
    exact grants_shown (openItem_shown h)
  · cases e

theorem haveBlock_shown {s t} (h : Shown b0 s) (e : haveBlock s = some t) : Shown b0 t := by
  unfold haveBlock at e
  split at e
  · cases e
    exact h
  · exact reserve_shown (makeRingRoom_shown h) ‹_›

theorem hostDequeued_shown {q x s} (K : Shown b0 s) : Shown b0 (hostDequeued q x s) := by
  unfold hostDequeued; exact grants_shown (modQueue_shown K)

theorem serveStall_shown {s} (K : Shown b0 s) : Shown b0 (serveStall s) := by
  unfold serveStall
  split
  · split
    · exact K
    · exact grant_shown (hostDequeued_shown (Shown.upd K))
  · exact K

theorem countFlushDrop_shown {s} (K : Shown b0 s) : Shown b0 (countFlushDrop s) := by
  unfold countFlushDrop; exact Shown.upd K

theorem putCells_shown {cells i bs s} (K : Shown b0 s) : Shown b0 (putCells cells i bs s) := by
  unfold putCells; exact Shown.upd K

theorem writeOpen_shown {q who bs s} (K : Shown b0 s) : Shown b0 (writeOpen q who bs s) := by
  unfold writeOpen
  split
  · exact K
  · extract_lets +onlyGivenNames _ _
    exact grants_shown (putCells_shown (modQueue_shown K))

theorem closeItem_shown {q who bytes kind s} (K : Shown b0 s) : Shown b0 (closeItem q who bytes kind s) := by
  unfold closeItem
  extract_lets +onlyGivenNames s1
  have hs1 : Shown b0 s1 := writeOpen_shown K
  clear_value s1
  split
  · exact hs1
  · exact Shown.ite (grant_shown (countFlushDrop_shown (modQueue_shown hs1))) (by
        extract_lets +onlyGivenNames _ s11
        have hs11 : Shown b0 s11 := modQueue_shown hs1
        clear_value s11
        exact serveStall_shown (grant_shown (Shown.ite (grant_shown hs11) hs11)))

theorem abandonItem_shown {q who s} (K : Shown b0 s) : Shown b0 (abandonItem q who s) := by
  unfold abandonItem; exact grant_shown (modQueue_shown K)

theorem closeBlock_shown {s} (K : Shown b0 s) : Shown b0 (closeBlock s) := by
  unfold closeBlock; exact Shown.ite (abandonItem_shown K) (closeItem_shown K)

theorem putRecord_shown {type flags body s} (K : Shown b0 s) : Shown b0 (putRecord type flags body s) := by
  unfold putRecord
  extract_lets +onlyGivenNames _
  split
  · exact K
  · extract_lets +onlyGivenNames s2
    have hs2 : Shown b0 s2 := writeOpen_shown (haveBlock_shown (Shown.ite (closeBlock_shown K) K) ‹_›)
    clear_value s2
    exact streamOut_shown (Shown.upd hs2)

theorem recVerdicts_shown {es s} (K : Shown b0 s) : Shown b0 (recVerdicts es s) := by
  unfold recVerdicts
  extract_lets +onlyGivenNames _ _
  exact putRecord_shown K

theorem writeFull_shown {n s} (h : Shown b0 s) : Shown b0 (writeFull n s) := by
  induction n generalizing s with
  | zero => exact h
  | succ n ih =>
    unfold writeFull; dsimp only; split
    · exact h
    · exact ih (recVerdicts_shown (Shown.upd h))

theorem tapAppend_shown {type flags body s} (K : Shown b0 s) : Shown b0 (tapAppend type flags body s) := by
  unfold tapAppend; exact Shown.ite (putRecord_shown (writeFull_shown K)) K

theorem freeze_shown {cause s} (K : Shown b0 s) : Shown b0 (freeze cause s) := by
  unfold freeze
  split
  · exact K
  · extract_lets +onlyGivenNames s1
    have hs1 : Shown b0 s1 := closeBlock_shown K
    clear_value s1
    exact attend_shown (Shown.upd hs1)

theorem takeItem_shown {q s x t} (h : Shown b0 s) (e : takeItem q s = some (x, t)) : Shown b0 t := by
  unfold takeItem at e
  split at e
  · cases e
  · split at e
    · cases e
      exact grants_shown (modQueue_shown h)
    · cases e

theorem skipBad_shown {n q s} (h : Shown b0 s) : Shown b0 (skipBad n q s) := by
  induction n generalizing s with
  | zero => exact h
  | succ n ih =>
    unfold skipBad; split
    · exact h
    · split
      · exact ih (takeItem_shown h ‹_›)
      · exact h

theorem takeGood_shown {n q s x t} (h : Shown b0 s) (e : takeGood n q s = some (x, t)) : Shown b0 t := by
  unfold takeGood at e
  exact takeItem_shown (skipBad_shown h) ‹_›

theorem putItem_shown {q who prio bytes kind s t} (h : Shown b0 s) (e : putItem q who prio bytes kind s = some t) : Shown b0 t := by
  unfold putItem at e; split at e
  · cases e
  · cases e; exact closeItem_shown (reserve_shown h ‹_›)

theorem modIPort_shown {p f s} (K : Shown b0 s) : Shown b0 (modIPort p f s) := by
  unfold modIPort; exact Shown.upd K

theorem loadTarget_shown {p s} (K : Shown b0 s) : Shown b0 (loadTarget p s) := by
  unfold loadTarget
  split
  · split
    · exact K
    · extract_lets +onlyGivenNames n
      exact modSPort_shown (takeGood_shown K ‹_›)
  · exact K

theorem openFrame_shown {p who f s} (K : Shown b0 s) : Shown b0 (openFrame p who f s) := by
  unfold openFrame; exact grants_shown (modSPort_shown K)

theorem sendFrame_shown {p who f out s} (K : Shown b0 s) : Shown b0 (sendFrame p who f out s) := by
  unfold sendFrame; exact modSPort_shown (openFrame_shown K)

theorem sendFill_shown {l s} (K : Shown b0 s) : Shown b0 (sendFill l s) := by
  unfold sendFill
  extract_lets +onlyGivenNames _ _
  exact sendFrame_shown K

theorem beginFill_shown {l waited s} (K : Shown b0 s) : Shown b0 (beginFill l waited s) := by
  unfold beginFill; exact modSPort_shown (sendFill_shown K)

theorem startFill_shown {s} (K : Shown b0 s) : Shown b0 (startFill s) := by
  unfold startFill
  split
  · exact Shown.ite (beginFill_shown K) K
  · exact K

theorem sendFlash_shown {op addr data reads s} (K : Shown b0 s) : Shown b0 (sendFlash op addr data reads s) := by
  unfold sendFlash
  extract_lets +onlyGivenNames _ _
  exact countFrame_shown (sendFrame_shown K)

theorem startEnable_shown {s} (K : Shown b0 s) : Shown b0 (startEnable s) := by
  unfold startEnable
  split
  · next job => exact Shown.ite (by
        extract_lets +onlyGivenNames s1
        have hs1 : Shown b0 s1 := sendFlash_shown K
        clear_value s1
        exact Shown.working K (by rw [job]; rfl) hs1) K
  · exact K

theorem sendSfdp_shown {addr reads s} (K : Shown b0 s) : Shown b0 (sendSfdp addr reads s) := by
  unfold sendSfdp
  extract_lets +onlyGivenNames _ _
  exact sendFrame_shown K

theorem startSfdp_shown {s} (K : Shown b0 s) : Shown b0 (startSfdp s) := by
  unfold startSfdp; exact Shown.ite (modSPort_shown (sendSfdp_shown K)) K

theorem pumpS0_shown {s} (K : Shown b0 s) : Shown b0 (pumpS0 s) := by
  unfold pumpS0; exact startFill_shown (startEnable_shown (startSfdp_shown K))

theorem sendI_shown {p who bs s} (K : Shown b0 s) : Shown b0 (sendI p who bs s) := by
  unfold sendI; exact grants_shown (modIPort_shown K)

theorem invalidateCache_shown {s} (K : Shown b0 s) : Shown b0 (invalidateCache s) := by
  unfold invalidateCache; exact grant_shown (modSPort_shown K)

theorem endRecording_shown {s} (K : Shown b0 s) : Shown b0 (endRecording s) := by
  unfold endRecording; exact Shown.ite (Shown.ite (freeze_shown K) (Shown.upd K)) K

theorem endIfDisabled_shown {s} (K : Shown b0 s) : Shown b0 (endIfDisabled s) := by
  unfold endIfDisabled; exact Shown.ite (endRecording_shown K) K

theorem recRein_shown {win result a v winAddr s} (K : Shown b0 s) : Shown b0 (recRein win result a v winAddr s) := by
  unfold recRein; exact tapAppend_shown K

theorem intoReply_shown {r} (hr : Shown b0 r.s) : Shown b0 (intoReply r) := by
  unfold intoReply
  extract_lets +onlyGivenNames src
  have hsrc : Shown b0 src := hr
  clear_value src
  exact Shown.upd hsrc

theorem writeReply_shown {v r} (hr : Shown b0 r.s) : Shown b0 (writeReply v r) := by
  unfold writeReply; exact Shown.ite hr (intoReply_shown hr)

theorem goodWrite_shown {a v r} (hr : Shown b0 r.s) : Shown b0 (goodWrite a v r) := by
  unfold goodWrite; exact endIfDisabled_shown (recRein_shown (writeReply_shown hr))

theorem recPort_shown {port kind ep outcome lane rx t s} (K : Shown b0 s) : Shown b0 (recPort port kind ep outcome lane rx t s) := by
  unfold recPort; exact tapAppend_shown K

theorem countXfer_shown {p s} (K : Shown b0 s) : Shown b0 (countXfer p s) := by
  unfold countXfer; exact countWord_shown K

theorem countNack_shown {p s} (K : Shown b0 s) : Shown b0 (countNack p s) := by
  unfold countNack; exact countWord_shown K

theorem closeHost_shown {s} (K : Shown b0 s) : Shown b0 (closeHost s) := by
  unfold closeHost
  split
  · exact K
  · split
    · exact K
    · split
      · exact abandonItem_shown K
      · extract_lets +onlyGivenNames s1
        have hs1 : Shown b0 s1 := closeItem_shown K
        clear_value s1
        exact Shown.ite (loadTarget_shown hs1) hs1

theorem closeHostData_shown {s} (K : Shown b0 s) : Shown b0 (closeHostData s) := by
  unfold closeHostData; exact Shown.ite (closeHost_shown K) K

theorem drainWaits_shown {on s} (K : Shown b0 s) : Shown b0 (drainWaits on s) := by
  unfold drainWaits
  extract_lets +onlyGivenNames rest
  exact Shown.upd K

theorem drainMoved_shown {blocks out keep s} (K : Shown b0 s) : Shown b0 (drainMoved blocks out keep s) := by
  unfold drainMoved
  split
  · next job => exact opProgress_shown (Shown.working K (by rw [job]; rfl) K)
  · exact K

theorem putCellItems_shown {n bs s} (K : Shown b0 s) : Shown b0 (putCellItems n bs s) := by
  induction n generalizing bs s with
  | zero => exact K
  | succ n ih =>
    unfold putCellItems; refine ih ?_
    cases e : putItem 49 .drain 0 (bs.take 64) 0 s with
    | none => exact K
    | some t => exact putItem_shown K e

theorem pumpDrain_shown {n s} (h : Shown b0 s) : Shown b0 (pumpDrain n s) := by
  induction n generalizing s with
  | zero => exact h
  | succ n ih =>
    unfold pumpDrain; split
    · split
      · exact h
      · split
        · next t e =>
          have ht : Shown b0 t.2 := by
            split at e
            · cases e
            · exact takeItem_shown h e
          split
          · exact ih (drainMoved_shown ht)
          · dsimp only
            split
            · exact ih (drainMoved_shown (putCellItems_shown ht))
            · exact drainWaits_shown h
        · exact Shown.ite (drainMoved_shown h) (Shown.ite (drainMoved_shown (putCellItems_shown h)) (drainWaits_shown h))
    · exact h

theorem runDrain_shown {s} (K : Shown b0 s) : Shown b0 (runDrain s) := by
  unfold runDrain; exact pumpDrain_shown (drainWaits_shown K)

end Sys2Proof.Proofs.Operation

/-! PROOFS. Frames and transactions on the S and I ports (chapters 13 and 14): what starts one, and what its end counts, changes the ports, the
status area, the job of a flash operation and the verdicts, and every other part of the state stays. -/

namespace Sys2Proof.Proofs.Wire

set_option Elab.async false

open Sys2Proof.Machine

/-- `t` is `u` but for the S and I ports, the status area, the running operation and the verdicts. -/
structure Wires (u t : State) : Prop where
  power : t.power = u.power
  mode : t.mode = u.mode
  fault : t.fault = u.fault
  pins : t.pins = u.pins
  rein : t.rein = u.rein
  attn : t.attn = u.attn
  auth : t.auth = u.auth
  tack : t.tack = u.tack
  poll : t.poll = u.poll
  snap : t.snap = u.snap
  time : t.time = u.time
  boryel : t.boryel = u.boryel
  pool : t.pool = u.pool
  canA : t.canA = u.canA
  canB : t.canB = u.canB
  tports : t.tports = u.tports
  tap : t.tap = u.tap
  replay : t.replay = u.replay
  seed : t.seed = u.seed
  pending : t.pending = u.pending
  user : t.cfg.user = u.cfg.user
  fallback : t.cfg.fallback = u.cfg.fallback

variable {b0 s t : State}

theorem Wires.refl : Wires s s :=
  ⟨rfl, rfl, rfl, rfl, rfl, rfl, rfl, rfl, rfl, rfl, rfl, rfl, rfl, rfl, rfl, rfl, rfl, rfl, rfl, rfl, rfl, rfl⟩

theorem Wires.trans (h : Wires b0 s) (k : Wires s t) : Wires b0 t :=
  ⟨k.power.trans h.power, k.mode.trans h.mode, k.fault.trans h.fault, k.pins.trans h.pins, k.rein.trans h.rein,
    k.attn.trans h.attn, k.auth.trans h.auth, k.tack.trans h.tack, k.poll.trans h.poll, k.snap.trans h.snap,
    k.time.trans h.time, k.boryel.trans h.boryel, k.pool.trans h.pool, k.canA.trans h.canA, k.canB.trans h.canB,
    k.tports.trans h.tports, k.tap.trans h.tap, k.replay.trans h.replay, k.seed.trans h.seed, k.pending.trans h.pending,
    k.user.trans h.user, k.fallback.trans h.fallback⟩

/-- An update of other fields. -/
theorem Wires.upd (h : Wires b0 s) (e : Wires s t := by
    with_reducible exact ⟨rfl, rfl, rfl, rfl, rfl, rfl, rfl, rfl, rfl, rfl, rfl, rfl, rfl, rfl, rfl, rfl, rfl, rfl, rfl, rfl, rfl, rfl⟩) : Wires b0 t :=
  Wires.trans h e

theorem Wires.ite {c : Prop} [Decidable c] (hs : Wires b0 s) (ht : Wires b0 t) : Wires b0 (if c then s else t) := by
  split <;> assumption

theorem Wires.foldl {α : Type} {f : State → α → State} (hf : ∀ x a, Wires b0 x → Wires b0 (f x a)) {l : List α} :
    ∀ {s : State}, Wires b0 s → Wires b0 (l.foldl f s) := by
  induction l with
  | nil => exact fun h => h
  | cons a l ih => exact fun h => ih (hf _ a h)

theorem dropForced_wires {p s} (K : Wires b0 s) : Wires b0 (dropForced p s) := by
  unfold dropForced; exact Wires.upd K

theorem grant_wires {p b s} (K : Wires b0 s) : Wires b0 (grant p b s) := by
  unfold grant; exact Wires.ite (Wires.ite (dropForced_wires K) K) (Wires.ite (Wires.upd K) K)

theorem grants_wires {l s} (K : Wires b0 s) : Wires b0 (grants l s) := by
  unfold grants; exact Wires.foldl (fun _ _ h1 => grant_wires h1) K

theorem setStatByte_wires {a v s} (K : Wires b0 s) : Wires b0 (setStatByte a v s) := by
  unfold setStatByte; exact Wires.upd K

theorem modSPort_wires {p f s} (K : Wires b0 s) : Wires b0 (modSPort p f s) := by
  unfold modSPort; exact Wires.upd K

theorem stickS_wires {p n s} (K : Wires b0 s) : Wires b0 (stickS p n s) := by
  unfold stickS; exact modSPort_wires K

theorem setStatWord_wires {a v s} (K : Wires b0 s) : Wires b0 (setStatWord a v s) := by
  unfold setStatWord; exact Wires.upd K

theorem safetySent_wires {p sel failed s} (K : Wires b0 s) : Wires b0 (safetySent p sel failed s) := by
  unfold safetySent
  extract_lets +onlyGivenNames st
  exact setStatWord_wires K

theorem countByte_wires {a s} (K : Wires b0 s) : Wires b0 (countByte a s) := by
  unfold countByte; exact setStatByte_wires K

theorem countSelect_wires {p sel o s} (K : Wires b0 s) : Wires b0 (countSelect p sel o s) := by
  unfold countSelect; exact countByte_wires K

theorem checkTrailer_wires {p sel len rx s x t} (h : Wires b0 s) (e : checkTrailer p sel len rx s = (x, t)) : Wires b0 t := by
  unfold checkTrailer at e
  dsimp only at e
  split at e
  · cases e; exact Wires.ite (countSelect_wires (Wires.ite (countSelect_wires (setStatWord_wires h)) (setStatWord_wires h)))
      (Wires.ite (countSelect_wires (setStatWord_wires h)) (setStatWord_wires h))
  · cases e; exact countSelect_wires h

theorem endByteFrame_wires {p sel len rx s x t} (h : Wires b0 s) (e : endByteFrame p sel len rx s = (x, t)) : Wires b0 t := by
  unfold endByteFrame at e
  split at e
  · cases e; exact Wires.ite (safetySent_wires (checkTrailer_wires h rfl)) (stickS_wires (safetySent_wires (checkTrailer_wires h rfl)))
  · cases e; exact h

theorem releaseSelect_wires {p s} (K : Wires b0 s) : Wires b0 (releaseSelect p s) := by
  unfold releaseSelect; exact modSPort_wires K

theorem countWord_wires {a s} (K : Wires b0 s) : Wires b0 (countWord a s) := by
  unfold countWord; exact setStatWord_wires K

theorem countFrame_wires {p s} (K : Wires b0 s) : Wires b0 (countFrame p s) := by
  unfold countFrame; exact countWord_wires K

theorem holdSelect_wires {p sel cont len s} (K : Wires b0 s) : Wires b0 (holdSelect p sel cont len s) := by
  unfold holdSelect; exact modSPort_wires K

theorem abortFrame_wires {p s} (K : Wires b0 s) : Wires b0 (abortFrame p s) := by
  unfold abortFrame; exact countWord_wires (stickS_wires (releaseSelect_wires K))

theorem sEnd_wires {p sel st out rx s x t} (h : Wires b0 s) (e : sEnd p sel st out rx s = (x, t)) : Wires b0 t := by
  unfold sEnd at e
  split at e <;> cases e
  · refine holdSelect_wires ?_
    split
    · exact endByteFrame_wires (countFrame_wires h) rfl
    · exact countFrame_wires h
  · exact abortFrame_wires h
  all_goals exact releaseSelect_wires h

theorem modIPort_wires {p f s} (K : Wires b0 s) : Wires b0 (modIPort p f s) := by
  unfold modIPort; exact Wires.upd K

theorem openFrame_wires {p who f s} (K : Wires b0 s) : Wires b0 (openFrame p who f s) := by
  unfold openFrame; exact grants_wires (modSPort_wires K)

theorem sendFrame_wires {p who f out s} (K : Wires b0 s) : Wires b0 (sendFrame p who f out s) := by
  unfold sendFrame; exact modSPort_wires (openFrame_wires K)

theorem sendFill_wires {l s} (K : Wires b0 s) : Wires b0 (sendFill l s) := by
  unfold sendFill
  extract_lets +onlyGivenNames _ _
  exact sendFrame_wires K

theorem beginFill_wires {l waited s} (K : Wires b0 s) : Wires b0 (beginFill l waited s) := by
  unfold beginFill; exact modSPort_wires (sendFill_wires K)

theorem startFill_wires {s} (K : Wires b0 s) : Wires b0 (startFill s) := by
  unfold startFill
  split
  · exact Wires.ite (beginFill_wires K) K
  · exact K

theorem sendFlash_wires {op addr data reads s} (K : Wires b0 s) : Wires b0 (sendFlash op addr data reads s) := by
  unfold sendFlash
  extract_lets +onlyGivenNames _ _
  exact countFrame_wires (sendFrame_wires K)

theorem startEnable_wires {s} (K : Wires b0 s) : Wires b0 (startEnable s) := by
  unfold startEnable
  split
  · exact Wires.ite (by
        extract_lets +onlyGivenNames s1
        have hs1 : Wires b0 s1 := sendFlash_wires K
        clear_value s1
        exact Wires.upd hs1) K
  · exact K

theorem sendSfdp_wires {addr reads s} (K : Wires b0 s) : Wires b0 (sendSfdp addr reads s) := by
  unfold sendSfdp
  extract_lets +onlyGivenNames _ _
  exact sendFrame_wires K

theorem startSfdp_wires {s} (K : Wires b0 s) : Wires b0 (startSfdp s) := by
  unfold startSfdp; exact Wires.ite (modSPort_wires (sendSfdp_wires K)) K

theorem pumpS0_wires {s} (K : Wires b0 s) : Wires b0 (pumpS0 s) := by
  unfold pumpS0; exact startFill_wires (startEnable_wires (startSfdp_wires K))

theorem dropHold_wires {p s} (K : Wires b0 s) : Wires b0 (dropHold p s) := by
  unfold dropHold
  split
  · extract_lets +onlyGivenNames v
    exact setStatWord_wires (modIPort_wires K)
  · exact K

theorem sendI_wires {p who bs s} (K : Wires b0 s) : Wires b0 (sendI p who bs s) := by
  unfold sendI; exact grants_wires (modIPort_wires K)

theorem startPt_wires {p s} (K : Wires b0 s) : Wires b0 (startPt p s) := by
  unfold startPt; exact Wires.ite (modIPort_wires (dropHold_wires (sendI_wires K))) K

theorem pumpPort_wires {n s} (K : Wires b0 s) : Wires b0 (pumpPort n s) := by
  unfold pumpPort; exact Wires.ite (pumpS0_wires K) (Wires.ite (startPt_wires K) K)

theorem countXfer_wires {p s} (K : Wires b0 s) : Wires b0 (countXfer p s) := by
  unfold countXfer; exact countWord_wires K

theorem stickI_wires {p n s} (K : Wires b0 s) : Wires b0 (stickI p n s) := by
  unfold stickI; exact modIPort_wires K

theorem countNack_wires {p s} (K : Wires b0 s) : Wires b0 (countNack p s) := by
  unfold countNack; exact countWord_wires K

theorem countArbLost_wires {p s} (K : Wires b0 s) : Wires b0 (countArbLost p s) := by
  unfold countArbLost; exact countWord_wires (stickI_wires (modIPort_wires K))

theorem sendStep_wires {p sel d st s} (K : Wires b0 s) : Wires b0 (sendStep p sel d st s) := by
  unfold sendStep
  extract_lets +onlyGivenNames _
  exact Wires.ite (openFrame_wires K) (sendFrame_wires K)

theorem iEnd_wires {p out s} (K : Wires b0 s) : Wires b0 (iEnd p out s) := by
  unfold iEnd
  split
  · exact countXfer_wires K
  · exact modIPort_wires (countXfer_wires K)
  · exact countNack_wires K
  · exact countArbLost_wires K
  · exact K

end Sys2Proof.Proofs.Wire

/-! PROOFS. A posted event changes records only (R253, R254). -/

namespace Sys2Proof.Proofs.Events

set_option Elab.async false

open Sys2Proof.Machine Sys2Proof.Safety Sys2Proof.Laws

variable {b0 s : State}

theorem eventRoom_apart (K : OnlyRecords b0 s) : OnlyRecords b0 (eventRoom s) := by
  unfold eventRoom
  exact OnlyRecords.ite (makeEventRoom_apart K) K

theorem putEvent_apart {b words} (K : OnlyRecords b0 s) : OnlyRecords b0 (putEvent b words s) := by
  unfold putEvent
  cases e : putItem 56 .event 0 (bytesOf words) 0 (grant 180 b s) with
  | none => exact K
  | some t => exact putItem_apart (grant_apart K) e

theorem postEvent_apart {words} (K : OnlyRecords b0 s) : OnlyRecords b0 (postEvent words s) := by
  unfold postEvent
  extract_lets room
  have roomy : OnlyRecords b0 room := eventRoom_apart K
  clear_value room
  refine OnlyRecords.ite (OnlyRecords.upd roomy) (OnlyRecords.ite ?_ (markDrop_apart (OnlyRecords.upd roomy)))
  exact attend_apart (putEvent_apart (OnlyRecords.upd (OnlyRecords.ite roomy (putEvent_apart roomy))))

theorem postExpress_apart {n ht} (K : OnlyRecords b0 s) : OnlyRecords b0 (postExpress n ht s) := by
  unfold postExpress
  exact attend_apart (postEvent_apart K)

end Sys2Proof.Proofs.Events

/-! PROOFS. What the lanes do beside a message bus, a SENT input or a pass-through transaction (chapters 09, 13 and 14): the lanes, the S and
I ports, the snapshot unit, the long operation, the queues and the tap change, and of the status
area and the I ports only what `Aside` leaves out. -/

namespace Sys2Proof.Proofs.Beside

set_option Elab.async false

open Sys2Proof.Machine Sys2Proof.Laws Sys2Proof.Proofs.Wire

/-- A byte of the CAN blocks, or of the statistics of an S port, an I port or a SENT input, but FRAMES of an S port. -/
def Still (a : Nat) : Prop := a < 0x2800 ∨ (a < 0x5800 ∧ 0x380 ≤ a % 0x400 ∧ (0x3800 ≤ a ∨ 0x382 ≤ a % 0x400))

/-- A byte of PT_STAT of I port `q`. -/
def PtByte (q a : Nat) : Prop := a = portBlock (6 + q) + 0x24 ∨ a = portBlock (6 + q) + 0x25

/-- A byte that a lane leaves as it is while no pass-through transaction of its port runs. -/
def Watched (a : Nat) : Prop := Still a ∨ ∃ q, q < 4 ∧ PtByte q a

/-- An I port keeps its bus, its recovery and its pass-through transaction, and takes no hold. -/
structure PortKept (x y : IPortSt) : Prop where
  ext : y.ext = x.ext
  idle : y.idle = x.idle
  stk : y.stk = x.stk
  recov : y.recov = x.recov
  brst : y.brst = x.brst
  sticky : y.sticky = x.sticky
  ptRun : y.ptRun = x.ptRun
  hold : x.hold = false → y.hold = false

theorem PortKept.refl {x : IPortSt} : PortKept x x := ⟨rfl, rfl, rfl, rfl, rfl, rfl, rfl, id⟩

theorem PortKept.trans {x y z : IPortSt} (h : PortKept x y) (k : PortKept y z) : PortKept x z :=
  ⟨k.ext.trans h.ext, k.idle.trans h.idle, k.stk.trans h.stk, k.recov.trans h.recov, k.brst.trans h.brst, k.sticky.trans h.sticky,
    k.ptRun.trans h.ptRun, k.hold ∘ h.hold⟩

/-- `t` is `u` but for the lanes, the S and I ports, the snapshot unit, records, and status bytes that are not `Still`. -/
structure Aside (u t : State) : Prop where
  power : t.power = u.power
  mode : t.mode = u.mode
  fault : t.fault = u.fault
  pins : t.pins = u.pins
  auth : t.auth = u.auth
  tack : t.tack = u.tack
  time : t.time = u.time
  boryel : t.boryel = u.boryel
  canA : t.canA = u.canA
  canB : t.canB = u.canB
  tports : t.tports = u.tports
  replay : t.replay = u.replay
  pending : t.pending = u.pending
  user : t.cfg.user = u.cfg.user
  fallback : t.cfg.fallback = u.cfg.fallback
  wf : Memory.wf zeroDflt u.cfg.status = true → Memory.wf zeroDflt t.cfg.status = true
  bytes : Memory.wf zeroDflt u.cfg.status = true → ∀ a, Still a → statByte a t = statByte a u
  count : t.iports.length = u.iports.length
  ports : ∀ q, PortKept (iportOf q u) (iportOf q t)
  pt : ∀ q, q < 4 → (iportOf q u).ptRun = false → (iportOf q t).hold = (iportOf q u).hold ∧
    (Memory.wf zeroDflt u.cfg.status = true → ∀ a, PtByte q a → statByte a t = statByte a u)

variable {b0 s t : State}

theorem Aside.refl : Aside s s :=
  ⟨rfl, rfl, rfl, rfl, rfl, rfl, rfl, rfl, rfl, rfl, rfl, rfl, rfl, rfl, rfl, id, fun _ _ _ => rfl, rfl, fun _ => PortKept.refl, fun _ _ _ => ⟨rfl, fun _ _ _ => rfl⟩⟩

theorem Aside.trans (h : Aside b0 s) (k : Aside s t) : Aside b0 t :=
  ⟨k.power.trans h.power, k.mode.trans h.mode, k.fault.trans h.fault, k.pins.trans h.pins, k.auth.trans h.auth,
    k.tack.trans h.tack, k.time.trans h.time, k.boryel.trans h.boryel, k.canA.trans h.canA, k.canB.trans h.canB,
    k.tports.trans h.tports, k.replay.trans h.replay, k.pending.trans h.pending, k.user.trans h.user, k.fallback.trans h.fallback,
    k.wf ∘ h.wf, fun wf a still => (k.bytes (h.wf wf) a still).trans (h.bytes wf a still), k.count.trans h.count,
    fun q => (h.ports q).trans (k.ports q), fun q small idle => by
      obtain ⟨hold, same⟩ := h.pt q small idle
      obtain ⟨hold', same'⟩ := k.pt q small ((h.ports q).ptRun.trans idle)
      exact ⟨hold'.trans hold, fun wf a there => (same' (h.wf wf) a there).trans (same wf a there)⟩⟩

/-- An update of other fields. -/
theorem Aside.upd (h : Aside b0 s) (e : Aside s t := by
    with_reducible exact ⟨rfl, rfl, rfl, rfl, rfl, rfl, rfl, rfl, rfl, rfl, rfl, rfl, rfl, rfl, rfl, id, fun _ _ _ => rfl, rfl, fun _ => PortKept.refl, fun _ _ _ => ⟨rfl, fun _ _ _ => rfl⟩⟩) : Aside b0 t :=
  Aside.trans h e

theorem Aside.ite {c : Prop} [Decidable c] (hs : Aside b0 s) (ht : Aside b0 t) : Aside b0 (if c then s else t) := by
  split <;> assumption

theorem Aside.foldl {α : Type} {f : State → α → State} (hf : ∀ x a, Aside b0 x → Aside b0 (f x a)) {l : List α} :
    ∀ {s : State}, Aside b0 s → Aside b0 (l.foldl f s) := by
  induction l with
  | nil => exact fun h => h
  | cons a l ih => exact fun h => ih (hf _ a h)

/-- A word of such bytes. -/
theorem Aside.word {a : Nat} (h : Aside s t) (wf : Memory.wf zeroDflt s.cfg.status = true) (low : Still a) (high : Still (a + 1)) :
    statWord a t = statWord a s := by
  change statByte a t + 256 * statByte (a + 1) t = statByte a s + 256 * statByte (a + 1) s
  rw [h.bytes wf a low, h.bytes wf _ high]

/-- A status word beside another that is written. -/
theorem statWord_setStatWord_ne {a b v : Nat} (wf : Memory.wf zeroDflt s.cfg.status = true) (apart : a + 2 ≤ b ∨ b + 2 ≤ a) :
    statWord a (setStatWord b v s) = statWord a s := by
  change statByte a _ + 256 * statByte (a + 1) _ = statByte a s + 256 * statByte (a + 1) s
  simp only [statByte, setStatWord]
  rw [read_writeBytes_other wf, read_writeBytes_other wf]
  all_goals
    simp only [leBytes, List.length_cons, List.length_nil]
    omega

theorem modLane_aside {i f s} (K : Aside b0 s) : Aside b0 (modLane i f s) := by
  unfold modLane; exact Aside.upd K

theorem dropForced_aside {p s} (K : Aside b0 s) : Aside b0 (dropForced p s) := by
  unfold dropForced; exact Aside.upd K

theorem grant_aside {p b s} (K : Aside b0 s) : Aside b0 (grant p b s) := by
  unfold grant; exact Aside.ite (Aside.ite (dropForced_aside K) K) (Aside.ite (Aside.upd K) K)

theorem attend_aside {n s} (K : Aside b0 s) : Aside b0 (attend n s) := by
  unfold attend
  extract_lets +onlyGivenNames s1
  have hs1 : Aside b0 s1 := Aside.ite (grant_aside (grant_aside K)) K
  clear_value s1
  exact grant_aside (Aside.upd hs1)

theorem opEnd_aside {st why s} (K : Aside b0 s) : Aside b0 (opEnd st why s) := by
  unfold opEnd; exact attend_aside (grant_aside (Aside.upd K))

theorem grants_aside {l s} (K : Aside b0 s) : Aside b0 (grants l s) := by
  unfold grants; exact Aside.foldl (fun _ _ h1 => grant_aside h1) K

theorem status_aside {m : Mem} (K : Aside b0 s)
    (wf : Memory.wf zeroDflt s.cfg.status = true → Memory.wf zeroDflt m = true)
    (same : Memory.wf zeroDflt s.cfg.status = true → ∀ a, Watched a → Memory.read zeroDflt m a = Memory.read zeroDflt s.cfg.status a) :
    Aside b0 { s with cfg := { s.cfg with status := m } } := by
  refine K.trans { Aside.refl (s := s) with wf := wf, bytes := fun canonical a still => ?_, pt := fun q small idle => ⟨rfl, fun canonical a there => ?_⟩ }
  · exact congrArg BitVec.toNat (same canonical a (.inl still))
  · exact congrArg BitVec.toNat (same canonical a (.inr ⟨q, small, there⟩))

theorem setStatByte_aside {a v s} (off : ¬ Watched a) (K : Aside b0 s) : Aside b0 (setStatByte a v s) := by
  refine status_aside K wf_write fun wf b watched => ?_
  rw [read_write wf, if_neg]
  rintro rfl
  exact off watched

theorem modSPort_aside {p f s} (K : Aside b0 s) : Aside b0 (modSPort p f s) := by
  unfold modSPort; exact Aside.upd K

theorem setStatWord_aside {a v s} (low : ¬ Watched a) (high : ¬ Watched (a + 1)) (K : Aside b0 s) : Aside b0 (setStatWord a v s) := by
  refine status_aside K wf_writeBytes fun wf b watched => ?_
  dsimp only [leBytes, Memory.writeBytes]
  rw [read_write (wf_write wf), read_write wf, if_neg, if_neg]
  · rintro rfl
    exact low watched
  · rintro rfl
    exact high watched

theorem releaseSelect_aside {p s} (K : Aside b0 s) : Aside b0 (releaseSelect p s) := by
  unfold releaseSelect; exact modSPort_aside K

theorem countFrame_aside {s} (K : Aside b0 s) : Aside b0 (countFrame 0 s) := by
  refine setStatWord_aside ?_ ?_ K
  all_goals
    rintro (still | ⟨q, small, there⟩)
    · simp only [Still, portBlock] at still
      omega
    · simp only [PtByte, portBlock] at there
      omega

theorem modQueue_aside {q f s} (K : Aside b0 s) : Aside b0 (modQueue q f s) := by
  unfold modQueue; exact Aside.upd K

theorem opPost_aside {w0 w1 w2 w3 s} (K : Aside b0 s) : Aside b0 (opPost w0 w1 w2 w3 s) := by
  unfold opPost
  extract_lets +onlyGivenNames _
  exact Aside.ite (grant_aside (grant_aside (Aside.upd K))) (grant_aside (Aside.upd K))

theorem tapDrawn_aside {s} (K : Aside b0 s) : Aside b0 (tapDrawn s) := by
  unfold tapDrawn; exact Aside.upd K

theorem streamOut_aside {bs s} (K : Aside b0 s) : Aside b0 (streamOut bs s) := by
  unfold streamOut; exact Aside.ite (Aside.ite (tapDrawn_aside (Aside.upd K)) (tapDrawn_aside (Aside.upd K))) K

theorem dropOldest_aside {q rest s} (K : Aside b0 s) : Aside b0 (dropOldest q rest s) := by
  unfold dropOldest; exact grants_aside (modQueue_aside K)

theorem makeRingRoom_aside {n s} (h : Aside b0 s) : Aside b0 (makeRingRoom n s) := by
  induction n generalizing s with
  | zero => exact h
  | succ n ih =>
    unfold makeRingRoom; split
    · exact h
    · split
      · exact h
      · exact ih (Aside.upd (dropOldest_aside h))

theorem openItem_aside {q n who prio s} (K : Aside b0 s) : Aside b0 (openItem q n who prio s) := by
  unfold openItem
  extract_lets +onlyGivenNames _
  exact modQueue_aside (Aside.upd K)

theorem reserve_aside {q n who prio s t} (h : Aside b0 s) (e : reserve q n who prio s = some t) : Aside b0 t := by
  unfold reserve at e
  split at e
  · cases e
    exact grants_aside (openItem_aside h)
  · cases e

theorem haveBlock_aside {s t} (h : Aside b0 s) (e : haveBlock s = some t) : Aside b0 t := by
  unfold haveBlock at e
  split at e
  · cases e
    exact h
  · exact reserve_aside (makeRingRoom_aside h) ‹_›

theorem hostDequeued_aside {q x s} (K : Aside b0 s) : Aside b0 (hostDequeued q x s) := by
  unfold hostDequeued; exact grants_aside (modQueue_aside K)

theorem serveStall_aside {s} (K : Aside b0 s) : Aside b0 (serveStall s) := by
  unfold serveStall
  split
  · split
    · exact K
    · exact grant_aside (hostDequeued_aside (Aside.upd K))
  · exact K

theorem countFlushDrop_aside {s} (K : Aside b0 s) : Aside b0 (countFlushDrop s) := by
  unfold countFlushDrop; exact Aside.upd K

theorem putCells_aside {cells i bs s} (K : Aside b0 s) : Aside b0 (putCells cells i bs s) := by
  unfold putCells; exact Aside.upd K

theorem writeOpen_aside {q who bs s} (K : Aside b0 s) : Aside b0 (writeOpen q who bs s) := by
  unfold writeOpen
  split
  · exact K
  · extract_lets +onlyGivenNames _ _
    exact grants_aside (putCells_aside (modQueue_aside K))

theorem closeItem_aside {q who bytes kind s} (K : Aside b0 s) : Aside b0 (closeItem q who bytes kind s) := by
  unfold closeItem
  extract_lets +onlyGivenNames s1
  have hs1 : Aside b0 s1 := writeOpen_aside K
  clear_value s1
  split
  · exact hs1
  · exact Aside.ite (grant_aside (countFlushDrop_aside (modQueue_aside hs1))) (by
        extract_lets +onlyGivenNames _ s11
        have hs11 : Aside b0 s11 := modQueue_aside hs1
        clear_value s11
        exact serveStall_aside (grant_aside (Aside.ite (grant_aside hs11) hs11)))

theorem abandonItem_aside {q who s} (K : Aside b0 s) : Aside b0 (abandonItem q who s) := by
  unfold abandonItem; exact grant_aside (modQueue_aside K)

theorem closeBlock_aside {s} (K : Aside b0 s) : Aside b0 (closeBlock s) := by
  unfold closeBlock; exact Aside.ite (abandonItem_aside K) (closeItem_aside K)

theorem putRecord_aside {type flags body s} (K : Aside b0 s) : Aside b0 (putRecord type flags body s) := by
  unfold putRecord
  extract_lets +onlyGivenNames _
  split
  · exact K
  · extract_lets +onlyGivenNames s2
    have hs2 : Aside b0 s2 := writeOpen_aside (haveBlock_aside (Aside.ite (closeBlock_aside K) K) ‹_›)
    clear_value s2
    exact streamOut_aside (Aside.upd hs2)

theorem recVerdicts_aside {es s} (K : Aside b0 s) : Aside b0 (recVerdicts es s) := by
  unfold recVerdicts
  extract_lets +onlyGivenNames _ _
  exact putRecord_aside K

theorem writeFull_aside {n s} (h : Aside b0 s) : Aside b0 (writeFull n s) := by
  induction n generalizing s with
  | zero => exact h
  | succ n ih =>
    unfold writeFull; dsimp only; split
    · exact h
    · exact ih (recVerdicts_aside (Aside.upd h))

theorem tapAppend_aside {type flags body s} (K : Aside b0 s) : Aside b0 (tapAppend type flags body s) := by
  unfold tapAppend; exact Aside.ite (putRecord_aside (writeFull_aside K)) K

theorem freeze_aside {cause s} (K : Aside b0 s) : Aside b0 (freeze cause s) := by
  unfold freeze
  split
  · exact K
  · extract_lets +onlyGivenNames s1
    have hs1 : Aside b0 s1 := closeBlock_aside K
    clear_value s1
    exact attend_aside (Aside.upd hs1)

theorem tapTrigger_aside {n s} (K : Aside b0 s) : Aside b0 (tapTrigger n s) := by
  unfold tapTrigger; exact Aside.ite (Aside.ite (freeze_aside K) (Aside.upd K)) K

theorem epByte_unwatched {n o : Nat} : ¬ Watched (epAddr n + o) := by
  rintro (still | ⟨q, small, there⟩)
  · simp only [Still, epAddr] at still
    omega
  · simp only [PtByte, portBlock, epAddr] at there
    omega

theorem setEstat_aside {n b on s} (K : Aside b0 s) : Aside b0 (setEstat n b on s) := setStatByte_aside epByte_unwatched K

theorem purgeHeld_aside {s} (K : Aside b0 s) : Aside b0 (purgeHeld s) := by
  unfold purgeHeld
  extract_lets +onlyGivenNames gone
  exact Aside.foldl (fun _ _ h0 => (setEstat_aside h0)) (Aside.upd K)

theorem setLast_aside {n code s} (K : Aside b0 s) : Aside b0 (setLast n code s) := setStatByte_aside epByte_unwatched K

theorem countEp_aside {n o s} (K : Aside b0 s) : Aside b0 (countEp n o s) := setStatByte_aside epByte_unwatched K

theorem modBank_aside {b f s} (K : Aside b0 s) : Aside b0 (modBank b f s) := by
  unfold modBank; exact Aside.ite (Aside.upd K) (Aside.ite (Aside.upd K) (Aside.ite (Aside.upd K) K))

theorem putSlot_aside {b n x s} (K : Aside b0 s) : Aside b0 (putSlot b n x s) := by
  unfold putSlot; exact modBank_aside K

theorem markMiss_aside {n due s} (K : Aside b0 s) : Aside b0 (markMiss n due s) := by
  unfold markMiss
  split
  · exact K
  · exact Aside.ite (Aside.ite (Aside.upd K) (putSlot_aside K)) (Aside.upd K)

theorem missRun_aside {n due code s} (K : Aside b0 s) : Aside b0 (missRun n due code s) := by
  unfold missRun
  extract_lets +onlyGivenNames s1
  have hs1 : Aside b0 s1 := markMiss_aside (setLast_aside (countEp_aside (setEstat_aside K)))
  clear_value s1
  exact Aside.ite (tapTrigger_aside hs1) hs1

theorem openFrame_aside {p who f s} (K : Aside b0 s) : Aside b0 (openFrame p who f s) := by
  unfold openFrame; exact grants_aside (modSPort_aside K)

theorem sendFrame_aside {p who f out s} (K : Aside b0 s) : Aside b0 (sendFrame p who f out s) := by
  unfold sendFrame; exact modSPort_aside (openFrame_aside K)

theorem sendFill_aside {l s} (K : Aside b0 s) : Aside b0 (sendFill l s) := by
  unfold sendFill
  extract_lets +onlyGivenNames _ _
  exact sendFrame_aside K

theorem beginFill_aside {l waited s} (K : Aside b0 s) : Aside b0 (beginFill l waited s) := by
  unfold beginFill; exact modSPort_aside (sendFill_aside K)

theorem startFill_aside {s} (K : Aside b0 s) : Aside b0 (startFill s) := by
  unfold startFill
  split
  · exact Aside.ite (beginFill_aside K) K
  · exact K

theorem sendFlash_aside {op addr data reads s} (K : Aside b0 s) : Aside b0 (sendFlash op addr data reads s) := by
  unfold sendFlash
  extract_lets +onlyGivenNames _ _
  exact countFrame_aside (sendFrame_aside K)

theorem startEnable_aside {s} (K : Aside b0 s) : Aside b0 (startEnable s) := by
  unfold startEnable
  split
  · exact Aside.ite (by
        extract_lets +onlyGivenNames s1
        have hs1 : Aside b0 s1 := sendFlash_aside K
        clear_value s1
        exact Aside.upd hs1) K
  · exact K

theorem sendSfdp_aside {addr reads s} (K : Aside b0 s) : Aside b0 (sendSfdp addr reads s) := by
  unfold sendSfdp
  extract_lets +onlyGivenNames _ _
  exact sendFrame_aside K

theorem startSfdp_aside {s} (K : Aside b0 s) : Aside b0 (startSfdp s) := by
  unfold startSfdp; exact Aside.ite (modSPort_aside (sendSfdp_aside K)) K

theorem pumpS0_aside {s} (K : Aside b0 s) : Aside b0 (pumpS0 s) := by
  unfold pumpS0; exact startFill_aside (startEnable_aside (startSfdp_aside K))

/-- What a change of one I port does to any. -/
theorem modIPort_port {r : IPortSt → IPortSt → Prop} {p q : Nat} {f : IPortSt → IPortSt} (same : ∀ x, r x x) (changed : ∀ x, r x (f x)) :
    r (iportOf q s) (iportOf q (modIPort p f s)) := by
  by_cases here : q = p
  · subst here
    by_cases inside : q < s.iports.length
    · rw [iportOf_modIPort inside]
      exact changed _
    · have outside : (modifyNth f q s.iports).length ≤ q := by
        rw [modifyNth_length]
        omega
      rw [iportOf, iportOf, modIPort_iports, Shared.getD_outside outside, Shared.getD_outside (by omega)]
      exact same _
  · rw [iportOf, iportOf, modIPort_iports, modifyNth_getD_ne here]
    exact same _

theorem modIPort_aside {p f s} (f_kept : ∀ x, PortKept x (f x) ∧ (x.ptRun = false → (f x).hold = x.hold)) (K : Aside b0 s) :
    Aside b0 (modIPort p f s) := by
  have kept (q : Nat) := modIPort_port (s := s) (p := p) (q := q) (f := f) (r := fun x y => PortKept x y ∧ (x.ptRun = false → y.hold = x.hold))
    (fun _ => ⟨PortKept.refl, fun _ => rfl⟩) f_kept
  exact K.trans { Aside.refl (s := s) with
    count := modifyNth_length, ports := fun q => (kept q).1, pt := fun q _ idle => ⟨(kept q).2 idle, fun _ _ _ => rfl⟩ }

theorem sendI_aside {p who bs s} (K : Aside b0 s) : Aside b0 (sendI p who bs s) := by
  unfold sendI
  exact grants_aside (modIPort_aside (fun _ => ⟨⟨rfl, rfl, rfl, rfl, rfl, rfl, rfl, id⟩, fun _ => rfl⟩) K)

/-- A pass-through transaction that lets its bus go runs. -/
theorem dropHold_aside {p s} (runs : (iportOf p s).ptRun = true) (K : Aside b0 s) : Aside b0 (dropHold p s) := by
  unfold dropHold
  split
  · extract_lets v
    have other {q : Nat} (idle : (iportOf q s).ptRun = false) : q ≠ p := by
      rintro rfl
      rw [runs] at idle
      cases idle
    have port (q : Nat) := modIPort_port (s := s) (p := p) (q := q) (f := fun x => { x with hold := false }) (r := PortKept)
      (fun _ => PortKept.refl) fun _ => ⟨rfl, rfl, rfl, rfl, rfl, rfl, rfl, fun _ => rfl⟩
    have still {a : Nat} (apart : a ≠ portBlock (6 + p) + 0x24 ∧ a ≠ portBlock (6 + p) + 0x24 + 1)
        (wf : Memory.wf zeroDflt s.cfg.status = true) {w : Nat} :
        statByte a (setStatWord (portBlock (6 + p) + 0x24) w (modIPort p (fun x => { x with hold := false }) s)) = statByte a s := by
      unfold statByte setStatWord
      dsimp only [leBytes, Memory.writeBytes, modIPort_cfg]
      rw [read_write (wf_write wf), read_write wf, if_neg apart.2, if_neg apart.1]
    refine K.trans { Aside.refl (s := s) with
      wf := fun wf => wf_writeBytes wf
      bytes := fun wf a there => still ?_ wf
      count := modifyNth_length
      ports := port
      pt := fun q small idle => ⟨?_, fun wf a there => still ?_ wf⟩ }
    · simp only [Still, portBlock] at there ⊢
      omega
    · exact congrArg IPortSt.hold (modifyNth_getD_ne (other idle))
    · have apart := other idle
      simp only [PtByte, portBlock] at there ⊢
      omega
  · exact K

theorem ptRun_of_ptWants {p s} (h : ptWants p s = true) : (iportOf p s).ptRun = true := by
  simp only [ptWants, Bool.and_eq_true] at h
  obtain ⟨⟨⟨⟨⟨⟨runs, -⟩, -⟩, -⟩, -⟩, -⟩, -⟩ := h
  exact runs

theorem startPt_aside {p s} (K : Aside b0 s) : Aside b0 (startPt p s) := by
  unfold startPt
  split
  · next starts =>
    simp only [Bool.and_eq_true] at starts
    have runs : (iportOf p s).ptRun = true := ptRun_of_ptWants starts.1.1.1
    have sent : Aside s (sendI p .host (ptWire p s) s) := sendI_aside Aside.refl
    refine modIPort_aside (fun _ => ⟨⟨rfl, rfl, rfl, rfl, rfl, rfl, rfl, id⟩, fun _ => rfl⟩) (dropHold_aside ?_ (K.trans sent))
    exact (sent.ports p).ptRun.trans runs
  · exact K

theorem pumpPort_aside {n s} (K : Aside b0 s) : Aside b0 (pumpPort n s) := by
  unfold pumpPort; exact Aside.ite (pumpS0_aside K) (Aside.ite (startPt_aside K) K)

theorem releasePorts_aside {i s} (K : Aside b0 s) : Aside b0 (releasePorts i s) := by
  unfold releasePorts
  extract_lets +onlyGivenNames _ s1
  have hs1 : Aside b0 s1 := Aside.foldl (fun _ _ h2 => Aside.ite (releaseSelect_aside h2) h2) K
  clear_value s1
  extract_lets +onlyGivenNames s2
  have hs2 : Aside b0 s2 := modLane_aside hs1
  clear_value s2
  exact Aside.foldl (fun _ _ h2 => pumpPort_aside h2) (grants_aside hs2)

theorem clearLane_aside {i s} (K : Aside b0 s) : Aside b0 (clearLane i s) := by
  unfold clearLane; exact grant_aside (modLane_aside K)

theorem startAttempt_aside {i pc trig s} (K : Aside b0 s) : Aside b0 (startAttempt i pc trig s) := by
  unfold startAttempt; exact modLane_aside K

theorem startRun_aside {i r ahead s} (K : Aside b0 s) : Aside b0 (startRun i r ahead s) := by
  unfold startRun; exact setEstat_aside (setStatByte_aside epByte_unwatched (startAttempt_aside (modLane_aside K)))

theorem dispatch_aside {s} (K : Aside b0 s) : Aside b0 (dispatch s) := by
  unfold dispatch
  exact Aside.foldl (fun _ _ h1 => Aside.ite (by
      split
      · exact Aside.ite h1 (startRun_aside (grant_aside (Aside.upd h1)))
      · split
        · exact Aside.ite h1 (startRun_aside (grant_aside (Aside.upd h1)))
        · exact h1) h1) K

theorem recPort_aside {port kind ep outcome lane rx t s} (K : Aside b0 s) : Aside b0 (recPort port kind ep outcome lane rx t s) := by
  unfold recPort; exact tapAppend_aside K

theorem freeLaneAt_aside {i s} (K : Aside b0 s) : Aside b0 (freeLaneAt i s) := by
  unfold freeLaneAt; exact dispatch_aside (clearLane_aside K)

theorem probeRecords_aside {buf high n off s} (h : Aside b0 s) : Aside b0 (probeRecords buf high n off s) := by
  induction n generalizing off s with
  | zero => exact h
  | succ n ih => unfold probeRecords; exact Aside.ite h (ih (opPost_aside h))

theorem endProbe_aside {i code s} (K : Aside b0 s) : Aside b0 (endProbe i code s) := by
  unfold endProbe
  extract_lets +onlyGivenNames _ s1
  have hs1 : Aside b0 s1 := setLast_aside (probeRecords_aside K)
  clear_value s1
  extract_lets +onlyGivenNames s2
  have hs2 : Aside b0 s2 := purgeHeld_aside (clearLane_aside hs1)
  clear_value s2
  exact Aside.ite (opEnd_aside hs2) (opEnd_aside hs2)

theorem endMissed_aside {i code s} (K : Aside b0 s) : Aside b0 (endMissed i code s) := by
  unfold endMissed
  extract_lets +onlyGivenNames l s1
  have hs1 : Aside b0 s1 := missRun_aside K
  clear_value s1
  extract_lets +onlyGivenNames _ s2
  have hs2 : Aside b0 s2 := Aside.ite (Aside.upd hs1) hs1
  clear_value s2
  exact freeLaneAt_aside hs2

theorem failAttempt_aside {i code s0} (K : Aside b0 s0) : Aside b0 (failAttempt i code s0) := by
  unfold failAttempt
  extract_lets +onlyGivenNames s
  have hs : Aside b0 s := releasePorts_aside K
  clear_value s
  exact Aside.ite (freeLaneAt_aside hs) (Aside.ite (endProbe_aside hs) (Aside.ite (modLane_aside hs) (endMissed_aside hs)))

theorem sentFailWaiting_aside {p slow s} (K : Aside b0 s) : Aside b0 (sentFailWaiting p slow s) := by
  unfold sentFailWaiting
  refine Aside.foldl (fun _ _ h0 => ?_) K
  extract_lets +onlyGivenNames d
  exact Aside.ite (failAttempt_aside h0) h0

theorem recSent_aside {p cls bytes t s} (K : Aside b0 s) : Aside b0 (recSent p cls bytes t s) := by
  unfold recSent; exact tapAppend_aside K

theorem waitFor_aside {i w s} (K : Aside b0 s) : Aside b0 (waitFor i w s) := by
  unfold waitFor; exact modLane_aside K

theorem nextStep_aside {i s} (K : Aside b0 s) : Aside b0 (nextStep i s) := by
  unfold nextStep; exact modLane_aside K

theorem onWire_aside {i p s} (K : Aside b0 s) : Aside b0 (onWire i p s) := by
  unfold onWire
  extract_lets +onlyGivenNames l s1
  have hs1 : Aside b0 s1 := modLane_aside K
  clear_value s1
  exact Aside.ite (setEstat_aside hs1) hs1

theorem sendStep_aside {p sel d st s} (K : Aside b0 s) : Aside b0 (sendStep p sel d st s) := by
  unfold sendStep
  extract_lets +onlyGivenNames _
  exact Aside.ite (openFrame_aside K) (sendFrame_aside K)

theorem startWire_aside {i p2 st t s} (K : Aside b0 s) : Aside b0 (startWire i p2 st t s) := by
  unfold startWire
  extract_lets +onlyGivenNames _ _ _ _
  exact Aside.ite (Aside.ite (failAttempt_aside K) (Aside.ite (onWire_aside (sendStep_aside K)) K)) (Aside.ite (failAttempt_aside K) (Aside.ite (failAttempt_aside (recPort_aside K)) (Aside.ite (waitFor_aside K) (Aside.ite (onWire_aside (sendI_aside K)) K))))

theorem putBytes_aside {i off bs s} (K : Aside b0 s) : Aside b0 (putBytes i off bs s) := by
  unfold putBytes; exact modLane_aside K

theorem stampPort_aside {i t s} (K : Aside b0 s) : Aside b0 (stampPort i t s) := by
  unfold stampPort; exact modLane_aside K

theorem takeFrame_aside {i ht bytes s} (K : Aside b0 s) : Aside b0 (takeFrame i ht bytes s) := by
  unfold takeFrame
  split
  · exact nextStep_aside (stampPort_aside (putBytes_aside K))
  · exact K

theorem deliverFrame_aside {n ht bytes s} (K : Aside b0 s) : Aside b0 (deliverFrame n ht bytes s) := by
  unfold deliverFrame
  split
  · split
    · exact takeFrame_aside K
    · extract_lets +onlyGivenNames s1
      have hs1 : Aside b0 s1 := Aside.ite (countEp_aside K) K
      clear_value s1
      exact setEstat_aside (Aside.upd hs1)
  · exact K

theorem resumeBus_aside {p s} (K : Aside b0 s) : Aside b0 (resumeBus p s) := by
  unfold resumeBus
  exact startPt_aside (Aside.foldl (fun _ _ h2 => Aside.ite (by
      split
      · exact startWire_aside h2
      · exact h2) h2) K)

theorem sentDeliver_aside {p wanted t bytes s} (K : Aside b0 s) : Aside b0 (sentDeliver p wanted t bytes s) := by
  unfold sentDeliver; exact Aside.foldl (fun _ _ h0 => (Aside.ite (deliverFrame_aside h0) h0)) K

end Sys2Proof.Proofs.Beside

/-! PROOFS. Records and items of other queues leave a queue, and the count of lost events, as they are (chapters 11 and 16). -/

namespace Sys2Proof.Proofs.Spare

set_option Elab.async false

open Sys2Proof.Machine Sys2Proof.Laws

/-- Queue `k`, unless a stalled read of it waits, and the count of lost events are the same. -/
structure Spares (k : Nat) (u t : State) : Prop where
  lost : t.pool.lost = u.pool.lost
  stall : u.rein.stall ≠ some (.queue k) → t.rein.stall ≠ some (.queue k)
  queue : u.rein.stall ≠ some (.queue k) → queueOf k t = queueOf k u

variable {k : Nat} {b0 s t : State}

theorem Spares.refl : Spares k s s := ⟨rfl, id, fun _ => rfl⟩

theorem Spares.trans (h : Spares k b0 s) (j : Spares k s t) : Spares k b0 t :=
  ⟨j.lost.trans h.lost, j.stall ∘ h.stall, fun free => (j.queue (h.stall free)).trans (h.queue free)⟩

/-- An update of other fields. -/
theorem Spares.upd (h : Spares k b0 s) (lost : t.pool.lost = s.pool.lost := by with_reducible rfl)
    (stall : t.rein.stall = s.rein.stall := by with_reducible rfl) (queues : t.pool.queues = s.pool.queues := by with_reducible rfl) :
    Spares k b0 t :=
  h.trans ⟨lost, fun free => by rw [stall]; exact free, fun _ => by rw [queueOf, queueOf, queues]⟩

theorem Spares.ite {c : Prop} [Decidable c] (hs : Spares k b0 s) (ht : Spares k b0 t) : Spares k b0 (if c then s else t) := by
  split <;> assumption

theorem Spares.foldl {α : Type} {f : State → α → State} (hf : ∀ x a, Spares k b0 x → Spares k b0 (f x a)) {l : List α} :
    ∀ {s : State}, Spares k b0 s → Spares k b0 (l.foldl f s) := by
  induction l with
  | nil => exact fun h => h
  | cons a l ih => exact fun h => ih (hf _ a h)

theorem dropForced_spares {p s} (K : Spares k b0 s) : Spares k b0 (dropForced p s) := by
  unfold dropForced; exact Spares.upd K

theorem grant_spares {p b s} (K : Spares k b0 s) : Spares k b0 (grant p b s) := by
  unfold grant; exact Spares.ite (Spares.ite (dropForced_spares K) K) (Spares.ite (Spares.upd K) K)

theorem attend_spares {n s} (K : Spares k b0 s) : Spares k b0 (attend n s) := by
  unfold attend
  extract_lets +onlyGivenNames s1
  have hs1 : Spares k b0 s1 := Spares.ite (grant_spares (grant_spares K)) K
  clear_value s1
  exact grant_spares (Spares.upd hs1)

theorem grants_spares {l s} (K : Spares k b0 s) : Spares k b0 (grants l s) := by
  unfold grants; exact Spares.foldl (fun _ _ h1 => grant_spares h1) K

theorem modQueue_spares {q f s} (other : q ≠ k) (K : Spares k b0 s) : Spares k b0 (modQueue q f s) := by
  refine K.trans ⟨rfl, id, fun _ => ?_⟩
  rw [queueOf, queueOf, modQueue, modifyNth_getD_ne (Ne.symm other)]

theorem tapDrawn_spares {s} (K : Spares k b0 s) : Spares k b0 (tapDrawn s) := by
  unfold tapDrawn; exact Spares.upd K

theorem streamOut_spares {bs s} (K : Spares k b0 s) : Spares k b0 (streamOut bs s) := by
  unfold streamOut; exact Spares.ite (Spares.ite (tapDrawn_spares (Spares.upd K)) (tapDrawn_spares (Spares.upd K))) K

theorem dropOldest_spares {q rest s} (other : q ≠ k) (K : Spares k b0 s) : Spares k b0 (dropOldest q rest s) := by
  unfold dropOldest; exact grants_spares (modQueue_spares other K)

theorem makeRingRoom_spares {n s} (ring : 48 ≠ k) (h : Spares k b0 s) : Spares k b0 (makeRingRoom n s) := by
  induction n generalizing s with
  | zero => exact h
  | succ n ih =>
    unfold makeRingRoom; split
    · exact h
    · split
      · exact h
      · exact ih (Spares.upd (dropOldest_spares ring h))

theorem openItem_spares {q n who prio s} (other : q ≠ k) (K : Spares k b0 s) : Spares k b0 (openItem q n who prio s) := by
  unfold openItem
  extract_lets +onlyGivenNames _
  exact modQueue_spares other (Spares.upd K)

theorem reserve_spares {q n who prio s t} (other : q ≠ k) (h : Spares k b0 s) (e : reserve q n who prio s = some t) : Spares k b0 t := by
  unfold reserve at e
  split at e
  · cases e
    exact grants_spares (openItem_spares other h)
  · cases e

theorem haveBlock_spares {s t} (ring : 48 ≠ k) (h : Spares k b0 s) (e : haveBlock s = some t) : Spares k b0 t := by
  unfold haveBlock at e
  split at e
  · cases e
    exact h
  · exact reserve_spares ring (makeRingRoom_spares ring h) ‹_›

theorem hostDequeued_spares {q x s} (other : q ≠ k) (K : Spares k b0 s) : Spares k b0 (hostDequeued q x s) := by
  unfold hostDequeued; exact grants_spares (modQueue_spares other K)

theorem serveStall_spares {s} (K : Spares k b0 s) : Spares k b0 (serveStall s) := by
  unfold serveStall
  split
  · next q stalled =>
    split
    · exact K
    · next p _ =>
      by_cases here : q = k
      · refine K.trans ⟨?_, fun free => absurd (here ▸ stalled) free, fun free => absurd (here ▸ stalled) free⟩
        rw [grant_pool, hostDequeued, grants_pool]
        rfl
      · exact grant_spares (hostDequeued_spares here (K.trans ⟨rfl, fun _ => nofun, fun _ => rfl⟩))
  · exact K

theorem countFlushDrop_spares {s} (K : Spares k b0 s) : Spares k b0 (countFlushDrop s) := by
  unfold countFlushDrop; exact Spares.upd K

theorem putCells_spares {cells i bs s} (K : Spares k b0 s) : Spares k b0 (putCells cells i bs s) := by
  unfold putCells; exact Spares.upd K

theorem writeOpen_spares {q who bs s} (other : q ≠ k) (K : Spares k b0 s) : Spares k b0 (writeOpen q who bs s) := by
  unfold writeOpen
  split
  · exact K
  · extract_lets +onlyGivenNames _ _
    exact grants_spares (putCells_spares (modQueue_spares other K))

theorem closeItem_spares {q who bytes kind s} (other : q ≠ k) (K : Spares k b0 s) : Spares k b0 (closeItem q who bytes kind s) := by
  unfold closeItem
  extract_lets +onlyGivenNames s1
  have hs1 : Spares k b0 s1 := writeOpen_spares other K
  clear_value s1
  split
  · exact hs1
  · exact Spares.ite (grant_spares (countFlushDrop_spares (modQueue_spares other hs1))) (by
        extract_lets +onlyGivenNames _ s11
        have hs11 : Spares k b0 s11 := modQueue_spares other hs1
        clear_value s11
        exact serveStall_spares (grant_spares (Spares.ite (grant_spares hs11) hs11)))

theorem abandonItem_spares {q who s} (other : q ≠ k) (K : Spares k b0 s) : Spares k b0 (abandonItem q who s) := by
  unfold abandonItem; exact grant_spares (modQueue_spares other K)

theorem closeBlock_spares {s} (ring : 48 ≠ k) (K : Spares k b0 s) : Spares k b0 (closeBlock s) := by
  unfold closeBlock; exact Spares.ite (abandonItem_spares ring K) (closeItem_spares ring K)

theorem putRecord_spares {type flags body s} (ring : 48 ≠ k) (K : Spares k b0 s) : Spares k b0 (putRecord type flags body s) := by
  unfold putRecord
  extract_lets +onlyGivenNames _
  split
  · exact K
  · extract_lets +onlyGivenNames s2
    have hs2 : Spares k b0 s2 := writeOpen_spares ring (haveBlock_spares ring (Spares.ite (closeBlock_spares ring K) K) ‹_›)
    clear_value s2
    exact streamOut_spares (Spares.upd hs2)

theorem recVerdicts_spares {es s} (ring : 48 ≠ k) (K : Spares k b0 s) : Spares k b0 (recVerdicts es s) := by
  unfold recVerdicts
  extract_lets +onlyGivenNames _ _
  exact putRecord_spares ring K

theorem writeFull_spares {n s} (ring : 48 ≠ k) (h : Spares k b0 s) : Spares k b0 (writeFull n s) := by
  induction n generalizing s with
  | zero => exact h
  | succ n ih =>
    unfold writeFull; dsimp only; split
    · exact h
    · exact ih (recVerdicts_spares ring (Spares.upd h))

theorem tapAppend_spares {type flags body s} (ring : 48 ≠ k) (K : Spares k b0 s) : Spares k b0 (tapAppend type flags body s) := by
  unfold tapAppend; exact Spares.ite (putRecord_spares ring (writeFull_spares ring K)) K

theorem freeze_spares {cause s} (ring : 48 ≠ k) (K : Spares k b0 s) : Spares k b0 (freeze cause s) := by
  unfold freeze
  split
  · exact K
  · extract_lets +onlyGivenNames s1
    have hs1 : Spares k b0 s1 := closeBlock_spares ring K
    clear_value s1
    exact attend_spares (Spares.upd hs1)

theorem tapTrigger_spares {n s} (ring : 48 ≠ k) (K : Spares k b0 s) : Spares k b0 (tapTrigger n s) := by
  unfold tapTrigger; exact Spares.ite (Spares.ite (freeze_spares ring K) (Spares.upd K)) K

theorem putItem_spares {q who prio bytes kind s t} (other : q ≠ k) (h : Spares k b0 s) (e : putItem q who prio bytes kind s = some t) : Spares k b0 t := by
  unfold putItem at e; split at e
  · cases e
  · cases e; exact closeItem_spares other (reserve_spares other h ‹_›)

theorem putEvent_spares {b words s} (other : 56 ≠ k) (K : Spares k b0 s) : Spares k b0 (putEvent b words s) := by
  unfold putEvent
  cases e : putItem 56 .event 0 (bytesOf words) 0 (grant 180 b s) with
  | none => exact K
  | some t => exact putItem_spares other (grant_spares K) e

theorem recPort_spares {port kind ep outcome lane rx t s} (ring : 48 ≠ k) (K : Spares k b0 s) : Spares k b0 (recPort port kind ep outcome lane rx t s) := by
  unfold recPort; exact tapAppend_spares ring K

theorem recCan_spares {ch evt lec f t sof s} (ring : 48 ≠ k) (K : Spares k b0 s) : Spares k b0 (recCan ch evt lec f t sof s) := by
  unfold recCan; exact tapAppend_spares ring K

theorem recCanEvent_spares {ch evt t s} (ring : 48 ≠ k) (K : Spares k b0 s) : Spares k b0 (recCanEvent ch evt t s) := by
  unfold recCanEvent; exact tapAppend_spares ring K

end Sys2Proof.Proofs.Spare

/-! PROOFS. The start-up, the wake and the way back from Farrier (chapter 04, Tables 04-4 and 04-9). -/

namespace Sys2Proof.Proofs.Startup

set_option Elab.async false

open Sys2Proof.Machine Sys2Proof.Safety Sys2Proof.Laws Sys2Proof.Proofs.Shared

variable {s : State}

/-! ## The steps of the start-up -/

theorem attachRing_of_kept (none : s.tap.kept = []) : attachRing s = s := by simp [attachRing, none]

/-- The blocks of a kept ring touch the pool and the list that kept them, nothing else. -/
theorem attachRing_eq : attachRing s = { s with pool := (attachRing s).pool, tap := { s.tap with kept := [] } } := by
  unfold attachRing
  split
  · next none => rw [List.isEmpty_iff] at none; rw [← none]
  · rfl

theorem attachRing_tack : (attachRing s).tack = s.tack := by rw [attachRing_eq]

theorem attachRing_power : (attachRing s).power = s.power := by rw [attachRing_eq]

theorem attachRing_items (some : s.tap.kept ≠ []) (all : s.pool.queues.length = 64) :
    (queueOf 48 (attachRing s)).items = s.tap.kept := by
  have full : s.tap.kept.isEmpty = false := by simpa using some
  simp only [attachRing, full, Bool.false_eq_true, if_false]
  rw [queueOf_modQueue (by simp [all])]
  simp only [Queue.after, Queue.mark]
  repeat' split
  all_goals rfl

/-- Settles O9: each step of the table by its own meaning, the fault of a failed kernel island by `logFault_apart`, the kept
ring by `attachRing_eq`. -/
theorem startUp : Obligations.StartUp := by
  refine ⟨fun psel s held => ?_, fun s starting => ?_, fun i s starting => ?_, fun kHz s due valid => ?_,
    fun slept s boot awake measured unlocked clock zero => ?_⟩
  · exact next_congr (by simp [effResetRelease, held])
  · exact next_congr (by simp [effStartChecksDone, starting])
  · have row : exec (.startChecksDone (some i)) s =
        .next (logFault 0x34 5 i.val i.val { s with power := { s.power with boot := .dead } }) :=
      next_congr (by simp [effStartChecksDone, starting])
    exact ⟨_, row, logFault_apart OnlyRecords.refl, logFault_code⟩
  · exact next_congr (by simp [effRefclkMeasured, due, valid])
  · have row : exec (.pllLock slept) s = .next (attachRing { s with
        power := { s.power with pllLocked := true }, time := { s.time with run := true } }) := by
      refine next_congr ?_
      simp [effPllLock, boot, awake, measured, unlocked, clock, ← zero]
    refine ⟨_, row, attachRing_eq, fun none => ?_, fun some all => attachRing_items some all⟩
    rw [attachRing_of_kept (by exact none)]

/-! ## What the profiles decide -/

@[simp] theorem setLast_tack {n v} : (setLast n v s).tack = s.tack := by simp [setLast]

@[simp] theorem setEstat_tack {n k b} : (setEstat n k b s).tack = s.tack := by simp [setEstat]

theorem validateEp_tack {n} : (validateEp n s).tack = s.tack := by
  unfold validateEp passValidation failValidation
  split
  · split
    · rw [setLast_tack, setEstat_tack]
    · rfl
  · rw [setLast_tack, setEstat_tack]; split <;> rfl

theorem foldl_tack {α : Type} {f : State → α → State} (hf : ∀ x a, (f x a).tack = x.tack) {l : List α} :
    ∀ {s : State}, (l.foldl f s).tack = s.tack := by
  induction l with
  | nil => exact rfl
  | cons a l ih => exact ih.trans (hf _ a)

@[simp] theorem validateAll_tack : (validateAll s).tack = s.tack := foldl_tack (fun _ _ => validateEp_tack)

/-- A copy's check reads the bytes of the tack store only. -/
theorem checkArea_mem {area : Nat} :
    checkArea area s = checkArea area { State.reset with tack := { State.reset.tack with mem := s.tack.mem } } := rfl

theorem scanCopies_sel : (scanCopies s).tack.sel = s.tack.sel := by simp only [scanCopies]

theorem scanCopies_mem : (scanCopies s).tack.mem = s.tack.mem := by simp only [scanCopies]

/-- A valid copy of the selected area: its header is loaded into a hub whose user profile is good. -/
theorem loadProfiles_of_ok {p} (h : checkArea (scanCopies s).tack.sel.toNat (scanCopies s) = .ok p) :
    ∃ u : State, loadProfiles s = validateAll (loadHeader p.header (userOk u)) := by
  unfold loadProfiles
  dsimp only
  rw [h]
  exact ⟨_, rfl⟩

/-- An invalid one: USR_OK falls, and what follows are records. -/
theorem loadProfiles_of_error {why} (h : checkArea (scanCopies s).tack.sel.toNat (scanCopies s) = .error why) :
    ∃ u v : State, OnlyRecords { u with tack := { u.tack with usrOk := false } } v ∧ loadProfiles s = validateAll v := by
  unfold loadProfiles
  dsimp only
  rw [h]
  generalize checkArea 4 (scanCopies s) = fb
  cases fb with
  | ok p => exact ⟨_, _, faultInvalid_apart OnlyRecords.refl, rfl⟩
  | error e => exact ⟨_, _, logFault_apart (faultInvalid_apart OnlyRecords.refl), rfl⟩

theorem loadHeader_usrOk {h} : (loadHeader h (userOk s)).tack.usrOk = true := rfl

theorem scanned_check : checkArea (scanCopies s).tack.sel.toNat (scanCopies s) = checkArea s.tack.sel.toNat s := by
  rw [scanCopies_sel, checkArea_mem, scanCopies_mem, ← checkArea_mem]

/-- USR_OK after the profiles are read says whether the selected area's copy passes its check. -/
theorem loadProfiles_usrOk : (loadProfiles s).tack.usrOk = (checkArea s.tack.sel.toNat s).toBool := by
  rw [← scanned_check]
  cases checked : checkArea (scanCopies s).tack.sel.toNat (scanCopies s) with
  | ok p =>
    obtain ⟨u, row⟩ := loadProfiles_of_ok checked
    rw [row, validateAll_tack, loadHeader_usrOk]
    rfl
  | error why =>
    obtain ⟨u, v, apart, row⟩ := loadProfiles_of_error checked
    rw [row, validateAll_tack, apart.tack]
    rfl

theorem loadProfiles_usrOk_congr {t : State} (h : t.tack = s.tack) :
    (loadProfiles t).tack.usrOk = (loadProfiles s).tack.usrOk := by
  rw [loadProfiles_usrOk, loadProfiles_usrOk, checkArea_mem, h, ← checkArea_mem]

/-! ## Entries that the hub makes by itself -/

theorem hardwareEntry_apart {code} : OnlyRecords { s with mode := { s.mode with hwch := true } } (hardwareEntry code s) :=
  tapTrigger_apart (attend_apart (OnlyRecords.upd OnlyRecords.refl))

theorem hardwareEntry_mode {code} : (hardwareEntry code s).mode = { s.mode with hwch := true } := hardwareEntry_apart.mode

theorem hardwareEntry_power {code} : (hardwareEntry code s).power = s.power := hardwareEntry_apart.power

theorem enterMode_farrierExit {m} : (enterMode m s).mode.farrierExit = s.mode.farrierExit := by
  rw [enterMode_steady.farrierExit, ← (abortForMode_unmoved (m := m) (Unmoved.refl (s := s))).mode]
  simp [setMode]

theorem resetCond_mode_update {m : ModeSt} :
    (resetCond { s with mode := m }).power = s.power ∧ (resetCond { s with mode := m }).mode = m := ⟨rfl, rfl⟩

theorem reloadProfiles_farrierExit : (reloadProfiles s).mode.farrierExit = false := by
  rw [reloadProfiles, resetCond_mode_update.2]

theorem reloadProfiles_sleep : (reloadProfiles s).power.sleep = s.power.sleep := by
  rw [reloadProfiles, resetCond_mode_update.1]
  exact (loadProfiles_steady (clearSelects_steady (clearStatuses_steady Steady.refl))).sleep

/-- The check of the supplies after a wake changes records only. -/
theorem wakeSupplies_apart {low : BitVec 4} {was : Bool} : OnlyRecords s
    (if low = 0 then endFault 0x24 s else if was then s else logFault 0x24 1 0xFFFF low.toNat s) :=
  OnlyRecords.ite (endFault_apart OnlyRecords.refl) (OnlyRecords.ite OnlyRecords.refl (logFault_apart OnlyRecords.refl))

/-- The first entry: the mode that is named, by the hub itself, in a hub that runs. -/
theorem firstEntry_facts {m k} :
    let t := firstBoundary (hardwareEntry none (enterMode m { s with mode := k, power := { s.power with boot := .running } }))
    t.power.boot = .running ∧ t.mode.hwch = true ∧ t.mode.cur = m := by
  refine ⟨?_, ?_, ?_⟩
  · exact (congrArg PowerSt.boot hardwareEntry_power).trans enterMode_boot
  · exact congrArg ModeSt.hwch hardwareEntry_mode
  · exact (congrArg ModeSt.cur hardwareEntry_mode).trans enterMode_cur

/-- The entry at the end of a wake. -/
theorem wakeEntry_facts {m code} {was : Bool} {low : BitVec 4} :
    let u := hardwareEntry code (enterMode m s)
    let t := firstBoundary (if low = 0 then endFault 0x24 u else if was then u else logFault 0x24 1 0xFFFF low.toNat u)
    t.power.sleep = s.power.sleep ∧ t.power.bankLow = s.power.bankLow ∧ t.mode.hwch = true ∧ t.mode.cur = m := by
  intro u t
  have power : t.power = (enterMode m s).power := wakeSupplies_apart.power.trans hardwareEntry_power
  have mode : t.mode = { (enterMode m s).mode with hwch := true } := wakeSupplies_apart.mode.trans hardwareEntry_mode
  exact ⟨power ▸ enterMode_sleep, power ▸ enterMode_bankLow, mode ▸ rfl, mode ▸ enterMode_cur⟩

/-- Settles O10: `enterMode_steady` says what an entry leaves, `loadProfiles_usrOk` which profile decides it. -/
theorem modeEntries : Obligations.ModeEntries := by
  refine ⟨fun s answering clock => ?_, fun low s waking clock => ?_, fun s leaving => ?_⟩
  · have due : (s.power.boot == .answering && (s.power.pllLocked || s.power.clockLost)) = true := by
      simpa [answering] using clock
    refine ⟨effResetProfileLoadDone s, rfl, ?_⟩
    rw [effResetProfileLoadDone, if_pos due]
    obtain ⟨runs, entered, cur⟩ := firstEntry_facts
    refine ⟨runs, entered, cur.trans ?_⟩
    rw [loadProfiles_usrOk_congr (s := s) (attachRing_tack.trans grants_tack), (loadProfiles_steady Steady.refl).clockLost,
      attachRing_power, grants_power]
  · have due : (s.power.sleep == .waking && (s.power.pllLocked || s.power.clockLost)) = true := by
      simpa [waking] using clock
    refine ⟨effWakeTargetEntry low s, rfl, ?_⟩
    rw [effWakeTargetEntry, if_pos due]
    obtain ⟨awake, supplies, entered, cur⟩ := wakeEntry_facts
    refine ⟨awake.trans (by rw [grants_power]), supplies.trans (by rw [grants_power]), entered, cur.trans ?_⟩
    simp
  · refine ⟨effFarrierExitReload s, rfl, ?_⟩
    rw [effFarrierExitReload, if_pos leaving]
    have entered := reloadProfiles_farrierExit (s := s)
    have awake := reloadProfiles_sleep (s := s)
    by_cases valid : (reloadProfiles s).tack.usrOk = true
    · simp only [if_pos valid, enterMode_farrierExit, enterMode_sleep, enterMode_cur, entered, awake, and_self]
    · simp only [if_neg valid, hardwareEntry_mode, hardwareEntry_power, enterMode_farrierExit, enterMode_sleep,
        enterMode_cur, entered, awake, and_self]

end Sys2Proof.Proofs.Startup

/-! PROOFS. Mode requests of the host (chapter 04, R70, R74 to R84). -/

namespace Sys2Proof.Proofs.Modes

set_option Elab.async false

open Sys2Proof.Machine Sys2Proof.Safety Sys2Proof.Laws Sys2Proof.Proofs.Shared Sys2Proof.Proofs.Window

variable {s : State} {v : Word}

/-! ## The write of MODE_REQ -/

/-- MODE_REQ keeps KEY and REQ of a write. -/
theorem keptRequest : BitVec.ofNat 16 (256 * (v.toNat / 256) + v.toNat % 16) = v &&& 0xFF0F := by
  have small : v.toNat % 2 ^ 4 < 2 ^ 8 := by omega
  apply BitVec.eq_of_getLsbD_eq
  intro i hi
  rw [BitVec.getLsbD_and, BitVec.getLsbD_ofNat]
  change (decide (i < 16) && (2 ^ 8 * (v.toNat / 2 ^ 8) + v.toNat % 2 ^ 4).testBit i) = (v.toNat.testBit i && _)
  rw [Nat.testBit_two_pow_mul_add _ small, Nat.testBit_mod_two_pow, Nat.testBit_div_two_pow]
  have mask : ∀ i < 16, (0xFF0F : BitVec 16).getLsbD i = (decide (i < 4) || decide (8 ≤ i)) := by decide
  rw [show ((0xFF0F : Word).getLsbD i) = _ from mask i hi, decide_eq_true hi, Bool.true_and]
  by_cases low : i < 8
  · rw [if_pos low, decide_eq_false (by omega : ¬ 8 ≤ i), Bool.or_false, Bool.and_comm]
  · rw [if_neg low, decide_eq_true (by omega : 8 ≤ i), Bool.or_true, Bool.and_true, Nat.sub_add_cancel (by omega)]

/-- The points that a request passes on its way to the mode controller. -/
def requestPath : List (Nat × Bool) := [(10, false), (11, false), (12, false), (13, false), (14, false)]

/-- The hub as a served MODE_REQ write of `v` shows it, with the verdicts `w` of its grants. -/
def asked (v : Word) (w : VerdictSt) (s : State) : State :=
  { s with mode := { s.mode with req := v &&& 0xFF0F }, verdicts := w }

/-- The test of `takeRequest` for what stands in a request's way. -/
theorem requestsClosed_iff :
    (s.mode.cur == .reset || sleeping s || s.mode.effective || s.mode.hwCode.isSome) = true ↔ ¬ RequestsOpen s := by
  simp only [RequestsOpen, sleeping, Bool.or_eq_true, beq_iff_eq, bne_iff_ne, Option.isSome_iff_ne_none]
  constructor
  · rintro (((reset | sleeps) | due) | coded) ⟨running, awake, free, plain⟩
    · exact running reset
    · exact sleeps awake
    · exact Bool.false_ne_true (free.symm.trans due)
    · exact coded plain
  · intro closed
    by_cases reset : s.mode.cur = .reset
    · exact .inl (.inl (.inl reset))
    by_cases awake : s.power.sleep = .awake
    · by_cases due : s.mode.effective = true
      · exact .inl (.inr due)
      · exact .inr fun plain => closed ⟨reset, awake, Bool.eq_false_iff.mpr due, plain⟩
    · exact .inl (.inl (.inr awake))

theorem takeRequest_of_closed {req : Nat} (h : ¬ RequestsOpen s) :
    takeRequest req s = refuseMode 6 (grants requestPath s) := by
  have closed := requestsClosed_iff.mpr h
  rw [takeRequest]
  exact if_pos (by simpa [requestPath, sleeping] using closed)

/-- An open request comes to the mode controller, which decides by the mode shown (Table 04-5). -/
theorem takeRequest_of_open {req : Nat} (h : RequestsOpen s) : takeRequest req s =
    if req = 6 then refuseMode 7 (grants requestPath s)
    else if s.mode.cur = .farrier then
      (if req = 2 then leaveFarrier (grants requestPath s) else refuseMode 1 (grants requestPath s))
    else requestMode (modeOfReq req) (grants requestPath s) := by
  have opened : ¬ _ := fun closed => requestsClosed_iff.mp closed h
  rw [takeRequest, if_neg (by simpa [sleeping] using opened)]
  simp [requestPath]

/-- A served MODE_REQ write with a request of Table 04-5: the wrong key refuses it, and else the mode controller decides. -/
theorem effModeRequest_of_served (h : HostServed s) (least : 1 ≤ v.toNat % 16) (most : v.toNat % 16 ≤ 6) :
    ∃ w, effModeRequest v s = goodWrite 5 v (wrote (if v.toNat / 256 = 0x5A
      then takeRequest (v.toNat % 16) (asked v w s) else refuseMode 5 (asked v w s))) := by
  obtain ⟨listens, live⟩ := h
  obtain ⟨verdicts, granted⟩ := hostAt_grants (s := s) (ps := groupPoint 5)
  refine ⟨verdicts, ?_⟩
  have open_ : ((v.toNat % 16 == 0 || v.toNat % 16 == 7 || decide (9 ≤ v.toNat % 16)) = false) := by
    simp; omega
  have soft : v.toNat % 16 ≠ 8 := by omega
  have request : field v.toNat 0 4 = v.toNat % 16 := by simp [field]
  simp only [effModeRequest, writeRow, listens, live, if_true, Bool.false_and, Bool.false_eq_true, if_false, granted,
    modeReqWrite, request, open_, soft, keptRequest]
  split
  · simp_all [asked]
  · simp_all [asked]

/-- A served request answers with what the mode controller makes of it, and its record. -/
theorem afterModeReq_of {m : ModeSt} (h : HostServed s) (least : 1 ≤ v.toNat % 16) (most : v.toNat % 16 ≤ 6)
    (decided : ∀ w, OnlyRecords { s with mode := { m with req := v &&& 0xFF0F } } (if v.toNat / 256 = 0x5A
      then takeRequest (v.toNat % 16) (asked v w s) else refuseMode 5 (asked v w s))) :
    ∃ t, exec (.modeRequest v) s = .next t ∧ AfterModeReq v m s t := by
  obtain ⟨w, row⟩ := effModeRequest_of_served h least most
  exact ⟨_, next_congr row, goodWrite_apart (wrote_apart (decided w))⟩

theorem refuseMode_asked {why w} : OnlyRecords { s with mode := { s.mode with
    refused := true, rfs := why, req := v &&& 0xFF0F } } (refuseMode why (asked v w s)) := by
  unfold refuseMode asked
  exact OnlyRecords.upd OnlyRecords.refl

/-- Grants before the decision move verdicts only. -/
theorem grants_asked {l w} : grants l (asked v w s) = asked v (grants l (asked v w s)).verdicts s := by
  rw [grants_eq]; rfl

theorem requestsOpen_asked {w} (h : RequestsOpen s) : RequestsOpen (asked v w s) := h

/-! ## What the mode controller makes of a request -/

theorem requestMode_stabled (h : s.mode.cur ≠ .stabled) : requestMode .stabled s =
    if opRuns s then refuseMode 2 s
    else if s.power.wakeCfg &&& 0xFF = 0 then refuseMode 3 s
    else if s.mode.cur = .halter then beginEntry none s
    else pendMode .stabled s := by
  rw [requestMode, if_neg (Ne.symm h), if_pos rfl]

theorem requestMode_invalid {m : Mode} (h : m ≠ s.mode.cur) (records : m.records = true)
    (from_ : s.mode.cur = .halter ∨ s.mode.cur = .leadrein) (invalid : s.tack.usrOk = false) :
    requestMode m s = refuseMode 4 s := by
  have stays : m ≠ .stabled := by rintro rfl; cases records
  rw [requestMode, if_neg h, if_neg stays, if_pos ⟨records, from_, invalid⟩]

theorem requestMode_valid {m : Mode} (h : m ≠ s.mode.cur) (stays : m ≠ .stabled) (valid : s.tack.usrOk = true) :
    requestMode m s = pendMode m s := by
  rw [requestMode, if_neg h, if_neg stays, if_neg (by simp [valid])]

theorem requestMode_same {m : Mode} (h : m = s.mode.cur) : requestMode m s =
    if s.mode.pend then { s with mode := { s.mode with pend := false, tgt := s.mode.cur } } else s := by
  rw [requestMode, if_pos h]

/-! ## Refusals (R78) -/

/-- Settles O13: a wrong key and a closed controller refuse at once, `takeRequest_of_open` and `requestMode` the rest. -/
theorem modeRequestRefused : Obligations.ModeRequestRefused := by
  intro v s served req refused least most
  simp only [req] at least most ⊢
  clear req
  refine ⟨fun key => ?_, fun key => ⟨fun closed => ?_, fun opened => ⟨fun six => ?_, fun farrier two six => ?_,
    fun farrier stabled one runs => ?_, fun farrier stabled one idle wake => ?_, fun mode records invalid => ?_⟩⟩⟩
  · refine afterModeReq_of served least most fun w => ?_
    rw [if_neg key]
    exact refuseMode_asked
  all_goals
    refine afterModeReq_of served least most fun w => ?_
    rw [if_pos key]
  · rw [takeRequest_of_closed (by exact closed), grants_asked]
    exact refuseMode_asked
  all_goals rw [takeRequest_of_open (requestsOpen_asked opened), grants_asked]
  · rw [if_pos six]
    exact refuseMode_asked
  · rw [if_neg six, if_pos (by exact farrier), if_neg two]
    exact refuseMode_asked
  · rw [if_neg (by omega), if_neg (by exact farrier), one, modeOfReq, if_pos rfl,
      requestMode_stabled (by exact stabled), if_pos (by exact runs)]
    exact refuseMode_asked
  · rw [if_neg (by omega), if_neg (by exact farrier), one, modeOfReq, if_pos rfl,
      requestMode_stabled (by exact stabled), if_neg (by exact ne_true_of_eq_false idle), if_pos (by exact wake)]
    exact refuseMode_asked
  · have farrier : s.mode.cur ≠ .farrier := by rintro h; simp [h] at mode
    have target : modeOfReq (v.toNat % 16) = .walk ∨ modeOfReq (v.toNat % 16) = .canter := by
      obtain three | four := records
      · exact .inl (by rw [three]; rfl)
      · exact .inr (by rw [four]; rfl)
    have moves : modeOfReq (v.toNat % 16) ≠ s.mode.cur := by
      rintro h; rw [h] at target; obtain h1 | h1 := mode <;> simp [h1] at target
    have recorded : (modeOfReq (v.toNat % 16)).records = true := by
      obtain h1 | h1 := target <;> rw [h1] <;> rfl
    rw [if_neg (by omega), if_neg (by exact farrier), requestMode_invalid (by exact moves) recorded
      (by exact mode) (by exact invalid)]
    exact refuseMode_asked

/-! ## Requests taken (R74, R79) -/

theorem pendMode_asked {m w} : OnlyRecords { s with mode := { s.mode with pend := true, tgt := m, req := v &&& 0xFF0F } }
    (pendMode m (asked v w s)) := by
  unfold pendMode asked
  exact OnlyRecords.upd OnlyRecords.refl

/-- A request for the mode shown takes back what is pending. -/
theorem requestMode_same_asked {m : Mode} {w} (h : m = s.mode.cur) :
    OnlyRecords { s with mode := { s.mode with
      pend := false, tgt := if s.mode.pend then s.mode.cur else s.mode.tgt, req := v &&& 0xFF0F } }
      (requestMode m (asked v w s)) := by
  rw [requestMode_same (by exact h)]
  cases pending : s.mode.pend with
  | true =>
    have shown : (asked v w s).mode.pend = true := pending
    rw [if_pos shown, if_pos rfl]
    exact OnlyRecords.upd OnlyRecords.refl
  | false =>
    have shown : ¬ (asked v w s).mode.pend = true := ne_true_of_eq_false pending
    have nothing : { s.mode with pend := false, req := v &&& 0xFF0F } = { s.mode with req := v &&& 0xFF0F } := by
      rw [← pending]
    rw [if_neg shown, if_neg Bool.false_ne_true, nothing]
    exact OnlyRecords.upd OnlyRecords.refl

/-- A pending switch that Stabled entry settles, applies or cancels leaves what `Steady` names. -/
theorem settleSwitch_after : Steady s (settleSwitch s) := by
  unfold settleSwitch
  refine Steady.ite (Steady.ite (takeSelection_steady (Steady.upd Steady.refl))
    (applyStaged_steady (takeSelection_steady Steady.refl))) (Steady.ite Steady.refl (cancelSwitch_steady (grant_steady Steady.refl)))

/-- The hub quiesces, and MODE_STAT shows `m` until the seal (R85). -/
def Quiescing (m : Mode) (t : State) : Prop := t.power.sleep = .quiescing ∧ t.mode.cur = m

theorem Quiescing.next {m t} (h : Quiescing m s) (k : SamePhase s t) : Quiescing m t :=
  ⟨k.sleep.trans h.1, k.cur.trans h.2⟩

theorem beginEntry_quiescing {prof} : Quiescing s.mode.cur (beginEntry prof s) := by
  unfold beginEntry
  refine Quiescing.next ?_ (SamePhase.ofSteady adapting_after)
  extract_lets +onlyGivenNames old s0
  have cur : s0.mode.cur = old := congrArg ModeSt.cur grants_mode
  clear_value s0
  extract_lets +onlyGivenNames _ _ s1
  have entered : Quiescing old s1 := ⟨rfl, cur⟩
  clear_value s1
  refine Quiescing.next ?_ (SamePhase.ofApart (endRecording_apart (recMode_apart OnlyRecords.refl)))
  refine entered.next ?_
  exact ((SamePhase.ofLasting (abortForMode_lasting Lasting.refl)).trans
      (SamePhase.ofSteady (discardPubs_steady Steady.refl))).trans
      ((SamePhase.ofLasting (stopRuns_lasting Lasting.refl)).trans (SamePhase.ofSteady settleSwitch_after))

/-- The same update of the mode controller on both sides. -/
theorem leaving_unmoved {t : State} (h : Unmoved s t) : Unmoved { s with mode := { s.mode with
    pend := true, effective := true, tgt := .halter, farrierExit := true } } { t with mode := { t.mode with
    pend := true, effective := true, tgt := .halter, farrierExit := true } } :=
  ⟨h.power, by rw [h.mode], h.fault, h.auth, h.mask, h.scratch, h.pending⟩

/-- The way back from Farrier is pending and in effect; REPLAY_RUN and SELF_TEST end with it (R77). -/
theorem leaveFarrier_unmoved : Unmoved { s with mode := { s.mode with
    pend := true, effective := true, tgt := .halter, farrierExit := true } } (leaveFarrier s) := by
  rw [leaveFarrier]
  exact leaving_unmoved (Unmoved.ite (endOp_unmoved Unmoved.refl) Unmoved.refl)

/-- Settles O14: an open request comes to `requestMode`, or in Farrier to `leaveFarrier`. -/
theorem modeRequestAccepted : Obligations.ModeRequestAccepted := by
  intro v s served opened key req becomes
  simp only [req]
  clear req
  refine ⟨fun farrier least most same => ?_, fun farrier least most moves valid => ?_, fun mode one idle wake => ?_,
    fun farrier two => ?_, fun halter one idle wake => ?_⟩
  · have six : v.toNat % 16 ≠ 6 := by omega
    refine afterModeReq_of served least (by omega) fun w => ?_
    rw [if_pos key, takeRequest_of_open (requestsOpen_asked opened), grants_asked, if_neg six,
      if_neg (c := (asked v _ s).mode.cur = .farrier) farrier]
    exact requestMode_same_asked same
  · have stays : modeOfReq (v.toNat % 16) ≠ .stabled := by
      have another : v.toNat % 16 ≠ 1 := by omega
      unfold modeOfReq
      rw [if_neg another]
      split
      · decide
      · split
        · decide
        · split
          · decide
          · decide
    have six : v.toNat % 16 ≠ 6 := by omega
    refine afterModeReq_of served (by omega) (by omega) fun w => ?_
    rw [if_pos key, takeRequest_of_open (requestsOpen_asked opened), grants_asked, if_neg six,
      if_neg (by exact farrier), requestMode_valid (by exact moves) stays (by exact valid)]
    exact pendMode_asked
  · have farrier : s.mode.cur ≠ .farrier ∧ s.mode.cur ≠ .stabled ∧ s.mode.cur ≠ .halter := by
      obtain h | h | h := mode <;> simp [h]
    obtain ⟨farrier, stabled, halter⟩ := farrier
    have six : v.toNat % 16 ≠ 6 := by omega
    refine afterModeReq_of served (by omega) (by omega) fun w => ?_
    rw [if_pos key, takeRequest_of_open (requestsOpen_asked opened), grants_asked, if_neg six,
      if_neg (by exact farrier), one, modeOfReq, if_pos rfl, requestMode_stabled (by exact stabled),
      if_neg (by exact ne_true_of_eq_false idle), if_neg (by exact wake), if_neg (by exact halter)]
    exact pendMode_asked
  · have six : v.toNat % 16 ≠ 6 := by omega
    obtain ⟨w, row⟩ := effModeRequest_of_served (v := v) served (by omega) (by omega)
    rw [if_pos key, takeRequest_of_open (requestsOpen_asked opened), grants_asked, if_neg six,
      if_pos (by exact farrier), if_pos two] at row
    have left := leaveFarrier_unmoved (s := asked v (grants requestPath (asked v w s)).verdicts s)
    have answered := goodWrite_apart (r := wrote (leaveFarrier (asked v (grants requestPath (asked v w s)).verdicts s)))
      (a := 5) (v := v) OnlyRecords.refl
    have traced := goodWrite_traced (r := wrote (leaveFarrier (asked v (grants requestPath (asked v w s)).verdicts s)))
      (a := 5) (v := v) Traced.refl
    exact ⟨_, next_congr row, answered.power.trans left.power, traced.fault.trans left.fault,
      answered.mode.trans left.mode⟩
  · have six : v.toNat % 16 ≠ 6 := by omega
    obtain ⟨w, row⟩ := effModeRequest_of_served (v := v) served (by omega) (by omega)
    rw [if_pos key, takeRequest_of_open (requestsOpen_asked opened), grants_asked, if_neg six,
      if_neg (by simp [asked, halter]), one, modeOfReq, if_pos rfl, requestMode_stabled (by simp [asked, halter]),
      if_neg (by exact ne_true_of_eq_false idle), if_neg (by exact wake), if_pos (by exact halter)] at row
    have entered := beginEntry_quiescing (prof := none) (s := asked v (grants requestPath (asked v w s)).verdicts s)
    obtain ⟨quiet, cur⟩ := entered.next
      (SamePhase.ofApart (goodWrite_apart (a := 5) (v := v) (r := wrote (beginEntry none _)) OnlyRecords.refl))
    exact ⟨_, next_congr row, quiet, cur.trans halter⟩

end Sys2Proof.Proofs.Modes

/-! PROOFS. The snapshot banks: the commit, the forward fill, the bank CRC and the pin (chapter 10). -/

namespace Sys2Proof.Proofs.Snapshots

set_option Elab.async false

open Sys2Proof.Machine Sys2Proof.Safety Sys2Proof.Laws Sys2Proof.Proofs.Shared Sys2Proof.Proofs.Window
  Sys2Proof.Proofs.HostAccess

variable {s : State}

/-! ## The commit -/

/-- An epoch that waits for its cutoff. -/
def firstEpoch : EndedEpoch :=
  { ix := 0, mode := .farrier, startHt := 0, endHt := 0, guard := 0, clipped := false, cutoff := 0, byCount := 0 }

/-- A replay in Farrier whose snapshot unit has met two uncorrectable staging words in a row, with its commit granted. The hub's
own clock, which the replay has set aside, has skipped five epochs. -/
def replayedCommit : State :=
  { State.reset with
    mode := { State.reset.mode with cur := .farrier }
    op := { State.reset.op with state := 1, job := .replay 1 }
    fault := { State.reset.fault with snapUncRun := 2 }
    time := { State.reset.time with ended := some firstEpoch }
    replay := { State.reset.replay with run := true, clock := { State.reset.replay.clock with skipped := 5 } }
    verdicts := { State.reset.verdicts with forced := [⟨154, true⟩] } }

/-- The third uncorrectable word fails the unit (R398), which ends the replay (R394, R383): the hub's own clock is back before
the skipped epoch is counted. -/
theorem skipped_replayedCommit : (effSnapshotCommit ⟨some 0, [], none⟩ replayedCommit).time.skipped = 6 := by
  decide

/-- Refutes O16: where the third uncorrectable staging word in a row ends a replay, the skipped epoch is counted on the hub's own
clock, so `skipped` goes from 0 to 6. -/
theorem not_snapshotCommit : ¬ Obligations.SnapshotCommit := by
  unfold Obligations.SnapshotCommit
  rintro ⟨-, commits⟩
  obtain ⟨-, -, skips, -⟩ := commits firstEpoch replayedCommit rfl rfl rfl (by decide)
  obtain ⟨t, row, -, -, -, skipped⟩ := skips 0 []
  cases row
  exact absurd (skipped_replayedCommit.symm.trans skipped) (by decide)

/-! ## Banks -/

theorem bankOf_modBank {b f} (least : b ≠ 0) (most : b < 4) : bankOf b (modBank b f s) = f (bankOf b s) := by
  obtain rfl | rfl | rfl : b = 1 ∨ b = 2 ∨ b = 3 := by omega
  all_goals rfl

theorem bankOf_modBank_ne {b k f} (h : k ≠ b) : bankOf k (modBank b f s) = bankOf k s := by
  by_cases b1 : b = 1
  · simp [bankOf, modBank, b1, b1 ▸ h]
  · by_cases b2 : b = 2
    · simp [bankOf, modBank, b2, b2 ▸ h]
    · by_cases b3 : b = 3
      · simp [bankOf, modBank, b3, b3 ▸ h]
      · simp [modBank, b1, b2, b3]

theorem modBank_congr {b f g} (least : b ≠ 0) (most : b < 4) (h : f (bankOf b s) = g (bankOf b s)) :
    modBank b f s = modBank b g s := by
  obtain rfl | rfl | rfl : b = 1 ∨ b = 2 ∨ b = 3 := by omega
  all_goals simp only [modBank, bankOf, if_true, if_false, Nat.reduceEqDiff] at h ⊢; rw [h]

/-- A bank change touches the banks only. -/
theorem modBank_eq {b f} : modBank b f s = { s with snap := (modBank b f s).snap } := by
  unfold modBank
  repeat' split
  all_goals rfl

theorem modBank_newest {b f} : (modBank b f s).snap.newest = s.snap.newest := by
  unfold modBank
  repeat' split
  all_goals rfl

theorem toNat_ne_zero {x : BitVec 2} (h : x ≠ 0) : x.toNat ≠ 0 := by
  intro zero
  exact h (BitVec.eq_of_toNat_eq zero)

/-! ## The forward fill and the bank CRC (R229, R230) -/

/-- The slots that the forward fill leaves in the staging bank. -/
def filled (s : State) : List Slot := (List.range 256).map (fun n => stagedSlot n s)

theorem filled_getD {n} (h : n < 256) : (filled s).getD n zeroSlot = stagedSlot n s := by
  simp [filled, List.getD, h]

/-- The fill has ended: the early store is empty. -/
def fillDone (u : State) : State :=
  { u with snap := { u.snap with
    fill := false, early := [], written := [], fresh0 := u.snap.fresh1, fresh1 := [], missNext := [] } }

@[simp] theorem bankOf_fillDone {b} {u : State} : bankOf b (fillDone u) = bankOf b u := rfl

@[simp] theorem bankOf_grants {b l} : bankOf b (grants l s) = bankOf b s := by
  simp [bankOf]

theorem finishFill_of_filling (h : s.snap.fill = true) : finishFill s =
    fillDone (modBank (stagingBank s) (fun k => { k with slots := filled s }) (grants (fillGrants s) s)) := by
  simp only [finishFill, h, if_true, filled, fillDone]

theorem forwardFillEnd_fills (filling : s.snap.fill = true) (staging : s.snap.staging ≠ 0) :
    ∃ t, exec .forwardFillEnd s = .next t ∧
     t = { s with snap := t.snap, verdicts := t.verdicts } ∧ t.snap.fill = false ∧ t.snap.early = [] ∧
     t.snap.newest = s.snap.newest ∧ (∀ n, n < 256 → slotOf (stagingBank s) n t = stagedSlot n s) ∧
     ∀ k, k ≠ stagingBank s → bankOf k t = bankOf k s := by
  refine ⟨finishFill s, rfl, ?_⟩
  rw [finishFill_of_filling filling]
  refine ⟨?_, rfl, rfl, ?_, fun n hn => ?_, fun k hk => ?_⟩
  · rw [modBank_eq, grants_eq]; rfl
  · exact modBank_newest.trans (by simp)
  · rw [slotOf, bankOf_fillDone, bankOf_modBank (b := stagingBank s) (toNat_ne_zero staging) s.snap.staging.isLt]
    exact filled_getD hn
  · rw [bankOf_fillDone, bankOf_modBank_ne hk, bankOf_grants]

theorem bankCrcWritten_writes (newest : s.snap.newest ≠ 0) (missing : (bankOf (newestBank s) s).hdr.crcv = 0) :
    ∃ t, exec .bankCrcWritten s = .next t ∧
     OnlyRecords (modBank (newestBank s)
       (fun k => { k with hdr := { k.hdr with crc := bankCrc (bankOf (newestBank s) s), crcv := 1 } }) s) t := by
  have bank : newestBank s ≠ 0 := toNat_ne_zero newest
  refine ⟨effBankCrcWritten s, rfl, ?_⟩
  rw [effBankCrcWritten, if_neg (by simp [bank, missing])]
  rw [modBank_congr (f := fun k => { k with hdr := { k.hdr with crc := bankCrc (bankOf (newestBank s) s), crcv := 1 } })
    (g := fun k => { k with hdr := { k.hdr with crc := bankCrc k, crcv := 1 } }) bank s.snap.newest.isLt rfl]
  exact countPost_apart (recCommitted_apart OnlyRecords.refl)

/-- Settles O17: by `finishFill_of_filling`, and for the CRC by what `modBank` writes before its records. -/
theorem bankUpkeep : Obligations.BankUpkeep := by
  unfold Obligations.BankUpkeep
  exact ⟨fun s => forwardFillEnd_fills, fun s => bankCrcWritten_writes⟩

/-! ## The snapshot pin (R234, R235) -/

section Pin

variable {tmo : Byte} {clear : Bool}

/-- The word that sets the pin, or releases it, and its fields. -/
theorem packed_pin (pin : Bool) : ∃ v, packWord [(bit pin, 0), (bit clear, 1), (tmo.toNat, 8)] = v ∧
    BitVec.ofNat 8 (v.toNat / 256) = tmo ∧ nbit v.toNat 0 = pin ∧ nbit v.toNat 1 = clear := by
  refine ⟨_, rfl, ?_⟩
  have small : tmo.toNat < 256 := tmo.isLt
  have value : (packWord [(bit pin, 0), (bit clear, 1), (tmo.toNat, 8)]).toNat =
      bit pin + 2 * bit clear + 256 * tmo.toNat := by
    cases pin <;> cases clear <;> simp [packWord, bit] <;> omega
  rw [value]
  refine ⟨BitVec.eq_of_toNat_eq ?_, ?_, ?_⟩
  · cases pin <;> cases clear <;> simp [bit] <;> omega
  · cases pin <;> cases clear <;> simp [nbit, bit, Nat.testBit_eq_decide_div_mod_eq] <;> omega
  · cases pin <;> cases clear <;> simp [nbit, bit, Nat.testBit_eq_decide_div_mod_eq] <;> omega

/-- SNAP_PIN's TMO and LOST as a write leaves them. -/
def keptPin (tmo : Byte) (clear : Bool) (s : State) : SnapSt :=
  { s.snap with pinTmo := tmo, pinLost := s.snap.pinLost && !clear }

/-- The grants of a SNAP_PIN write. -/
def pinPoints : List (Nat × Bool) := [(155, false), (157, false), (161, true), (163, true)]

theorem snapPinWrite_eq (pin : Bool) {v : Word} (htmo : BitVec.ofNat 8 (v.toNat / 256) = tmo) (hpin : nbit v.toNat 0 = pin)
    (hclear : nbit v.toNat 1 = clear) :
    let u := grants pinPoints { s with snap := keptPin tmo clear s }
    snapPinWrite v s = if pin then
        if s.snap.newest = 0 then denied u
        else wrote { u with snap := { u.snap with pinned := u.snap.newest, pinCommits := 0, pinAt := u.time.now, new := false } }
      else wrote (releasePin u) := by
  simp [snapPinWrite, htmo, hpin, hclear, keptPin, pinPoints]

/-- A write of SNAP_PIN leaves the Rein port as it is. -/
theorem snapPinWrite_rein {v : Word} : (snapPinWrite v s).s.rein = s.rein := by
  rw [snapPinWrite]
  repeat' split
  · simp [denied]
  · simp [wrote]
  · simp [wrote, releasePin]

theorem snapPinSet_pins (h : HostServed s) : ∃ t, exec (.snapPinSet tmo clear) s = .next t ∧
    if s.snap.newest = 0 then OnlyRecords { s with snap := keptPin tmo clear s } t ∧ t.rein.adre = true
    else OnlyRecords { s with snap := { keptPin tmo clear s with
      pinned := s.snap.newest, pinCommits := 0, pinAt := s.time.now, new := false } } t ∧ t.rein.adre = false := by
  obtain ⟨v, packed, htmo, hpin, hclear⟩ := packed_pin (tmo := tmo) (clear := clear) true
  refine ⟨effSnapPinSet tmo clear s, rfl, ?_⟩
  have row : effSnapPinSet tmo clear s = writeRow 0x1C v (snapPinWrite v) s := by rw [← packed]; rfl
  have free {w} : (snapPinWrite v { s with verdicts := w }).s.rein.stall = none := by
    rw [snapPinWrite_rein]; exact stall_of_hostServed h
  rw [row]
  by_cases none : s.snap.newest = 0
  · rw [if_pos none]
    obtain ⟨w, apart, port⟩ := writeRow_apart (v := v) (a := 0x1C) (x := { s with snap := keptPin tmo clear s })
      (f := snapPinWrite v) h rfl
      (fun w => by
        rw [snapPinWrite_eq true htmo hpin hclear, if_pos rfl, if_pos none]
        exact denied_apart (grants_apart (OnlyRecords.upd OnlyRecords.refl))) (fun w => free)
    refine ⟨apart, ?_⟩
    rw [port, snapPinWrite_eq true htmo hpin hclear, if_pos rfl, if_pos none]
    rfl
  · rw [if_neg none]
    obtain ⟨w, apart, port⟩ := writeRow_apart (v := v) (a := 0x1C) (x := { s with snap := { keptPin tmo clear s with
        pinned := s.snap.newest, pinCommits := 0, pinAt := s.time.now, new := false } })
      (f := snapPinWrite v) h rfl
      (fun w => by
        rw [snapPinWrite_eq true htmo hpin hclear, if_pos rfl, if_neg none]
        rw [grants_eq]
        exact wrote_apart (OnlyRecords.upd OnlyRecords.refl)) (fun w => free)
    refine ⟨apart, ?_⟩
    rw [port, snapPinWrite_eq true htmo hpin hclear, if_pos rfl, if_neg none]
    rfl

theorem snapPinRelease_releases (h : HostServed s) : ∃ t, exec (.snapPinRelease tmo clear) s = .next t ∧
    OnlyRecords { s with snap := { keptPin tmo clear s with pinned := 0, pinCommits := 0 } } t ∧ t.rein.adre = false := by
  obtain ⟨v, packed, htmo, hpin, hclear⟩ := packed_pin (tmo := tmo) (clear := clear) false
  refine ⟨effSnapPinRelease tmo clear s, rfl, ?_⟩
  have row : effSnapPinRelease tmo clear s = writeRow 0x1C v (snapPinWrite v) s := by
    rw [← packed]
    simp [effSnapPinRelease, packWord, bit]
  rw [row]
  obtain ⟨w, apart, port⟩ := writeRow_apart (v := v) (a := 0x1C)
    (x := { s with snap := { keptPin tmo clear s with pinned := 0, pinCommits := 0 } }) (f := snapPinWrite v) h rfl
    (fun w => by
      rw [snapPinWrite_eq false htmo hpin hclear, if_neg Bool.false_ne_true, grants_eq]
      exact wrote_apart (OnlyRecords.upd OnlyRecords.refl))
    (fun w => by rw [snapPinWrite_rein]; exact stall_of_hostServed h)
  refine ⟨apart, ?_⟩
  rw [port, snapPinWrite_eq false htmo hpin hclear, if_neg Bool.false_ne_true]
  rfl

theorem expirePin_of_pinned (pinned : s.snap.pinned ≠ 0) :
    OnlyRecords { s with snap := { s.snap with pinned := 0, pinCommits := 0, pinLost := true } } (expirePin s) ∧
    (expirePin s).attn.src = setBit s.attn.src 14 := by
  rw [expirePin, if_neg pinned]
  exact ⟨grants_apart (attend_apart (OnlyRecords.upd OnlyRecords.refl)), by simp [releasePin]⟩

/-- Settles O18: what `snapPinWrite` makes of a served write, and `expirePin` of the limit. -/
theorem snapshotPin : Obligations.SnapshotPin := by
  unfold Obligations.SnapshotPin
  refine ⟨fun tmo clear s h => ⟨snapPinSet_pins h, snapPinRelease_releases h⟩, fun s limited pinned => ?_⟩
  refine ⟨effSnapPinExpiry s, rfl, ?_⟩
  rw [effSnapPinExpiry, if_neg limited]
  exact expirePin_of_pinned pinned

end Pin

end Sys2Proof.Proofs.Snapshots

/-! PROOFS. Hub time, the base boundary and Boryel sync (chapter 10, R212 to R215, R236 to R241; R71 to R75). -/

namespace Sys2Proof.Proofs.TimeBase

set_option Elab.async false

open Sys2Proof.Machine Sys2Proof.Safety Sys2Proof.Laws Sys2Proof.Proofs.Shared

variable {b0 s t : State} {b : HubTime}

/-! ## The wrap of hub time and the lock of Boryel sync -/

/-- The largest value of hub time counts up to 0 (R212). -/
theorem moveTo_zero_of_largest {x : TimeSt} (run : x.run = true) (largest : x.now = 0xFFFF_FFFF_FFFF) :
    x.moveTo 0 = { x with now := 0, wrap := true } := by
  have later : HubTime.atOrAfter 0 x.now = true := by rw [largest]; decide
  rw [TimeSt.moveTo, if_pos (by rw [run, later]; rfl), largest]
  simp

theorem hubTimeWrap_wraps (own : s.replay.run = false) (run : s.time.run = true)
    (kept : s.power.lrDrop1.getLsbD 2 = false) (largest : s.time.now = 0xFFFF_FFFF_FFFF) :
    effHubTimeWrap s = { s with time := { s.time with now := 0, wrap := true } } := by
  have now : hubNow s = 0xFFFF_FFFF_FFFF := by rw [hubNow, hubClock, if_neg (by simp [own]), largest]
  have later : HubTime.atOrAfter 0 (hubNow s) = true := by rw [now]; decide
  rw [effHubTimeWrap, if_pos later, advance, if_neg (ne_true_of_eq_false kept), if_neg (by simp [own]), moveTo_zero_of_largest run largest]

theorem boryelLockLossTimeout_loses (leads : s.boryel.leading = false) (locked : s.boryel.lock = true) :
    OnlyRecords { s with boryel := { s.boryel with lock := false, loss := true, pairs := 0 } } (effBoryelLockLossTimeout s) ∧
    (effBoryelLockLossTimeout s).attn.src = setBit s.attn.src 12 := by
  rw [effBoryelLockLossTimeout, if_neg (by simp [leads]), loseLock, if_pos locked]
  exact ⟨attend_apart OnlyRecords.refl, attend_src⟩

/-- A leader that had yielded and heard nobody since leads again where it may. -/
theorem boryelLeadResume_resumes (yielded : s.boryel.yielded = true) (leads : s.boryel.leading = false) :
    let resumed := { s with boryel := { s.boryel with yielded := false, rx := none } }
    effBoryelLeadResume s = if mayLead resumed
      then gainLock { resumed with boryel := { resumed.boryel with leading := true, pairs := 0 } } else resumed := by
  intro resumed
  have idle : resumed.boryel.leading = false := leads
  have row : effBoryelLeadResume s = settleLead resumed := by rw [effBoryelLeadResume, if_pos yielded]
  rw [row, settleLead, idle]
  by_cases may : mayLead resumed = true
  · simp [may, resumed]
  · simp [may]

/-- Settles O19. -/
theorem pulseWrapAndBoryel : Obligations.PulseWrapAndBoryel := by
  unfold Obligations.PulseWrapAndBoryel
  refine ⟨⟨fun s => rfl, fun s own run kept largest => next_congr (hubTimeWrap_wraps own run kept largest)⟩,
    fun s leads locked => ⟨_, rfl, boryelLockLossTimeout_loses leads locked⟩,
    fun s leads => next_congr (if_pos leads), fun s yielded leads => next_congr (boryelLeadResume_resumes yielded leads)⟩

/-! ## What BY_CTRL and BY_NODE do when they take effect (R241) -/

/-- `t` has what a base boundary decides by of `u`: its time base, mode, power, replay and profiles. -/
structure SameBase (u t : State) : Prop where
  time : t.time = u.time
  mode : t.mode = u.mode
  power : t.power = u.power
  replay : t.replay = u.replay
  tack : t.tack = u.tack

theorem SameBase.refl : SameBase s s := ⟨rfl, rfl, rfl, rfl, rfl⟩

theorem SameBase.upd (h : SameBase b0 s) (e : SameBase s t := by constructor <;> simp) : SameBase b0 t :=
  ⟨e.time.trans h.time, e.mode.trans h.mode, e.power.trans h.power, e.replay.trans h.replay, e.tack.trans h.tack⟩

theorem SameBase.ofApart (h : OnlyRecords s t) : SameBase s t := ⟨h.time, h.mode, h.power, h.replay, h.tack⟩

theorem gainLock_base (K : SameBase b0 s) : SameBase b0 (gainLock s) := by
  unfold gainLock
  split
  · exact K
  · exact K.upd

theorem loseLock_base (K : SameBase b0 s) : SameBase b0 (loseLock s) := by
  unfold loseLock
  split
  · exact K.upd
  · exact K.upd

theorem withdrawSync_base (K : SameBase b0 s) : SameBase b0 (withdrawSync s) := by
  simp only [withdrawSync]
  split
  · exact K.upd
  · exact K.upd

theorem settleLead_base (K : SameBase b0 s) : SameBase b0 (settleLead s) := by
  unfold settleLead
  split
  · simp only
    split
    · exact gainLock_base K.upd
    · exact loseLock_base K.upd
  · split
    · exact withdrawSync_base (loseLock_base K.upd)
    · exact K

theorem byApply_base (K : SameBase b0 s) : SameBase b0 (byApply s) := by
  simp only [byApply]
  refine settleLead_base ?_
  split
  · exact K.upd
  · exact K.upd

theorem mayLead_congr (h : OnlyRecords s t) : mayLead t = mayLead s := by
  have chan : byChan t = byChan s := by simp only [byChan, h.boryel]
  have can {ch} : canOf ch t = canOf ch s := by cases ch <;> simp only [canOf, h.canA, h.canB]
  simp only [mayLead, byRuns, actMode, unitFailed, chan, can, h.boryel, h.mode, h.replay, h.power]
  rfl

/-- What settles the leader depends on no record. -/
theorem settleLead_boryel_congr (h : OnlyRecords s t) : (settleLead t).boryel = (settleLead s).boryel := by
  have gain {x y : State} (e : y.boryel = x.boryel) : (gainLock y).boryel = (gainLock x).boryel := by
    unfold gainLock; rw [e]; split <;> simp [e]
  have lose {x y : State} (e : y.boryel = x.boryel) : (loseLock y).boryel = (loseLock x).boryel := by
    unfold loseLock; rw [e]; split <;> simp
  have withdraw {x y : State} (e : y.boryel = x.boryel) : (withdrawSync y).boryel = (withdrawSync x).boryel := by
    simp only [withdrawSync]
    rw [e]
    split <;> simp [e]
  unfold settleLead
  rw [mayLead_congr h, h.boryel]
  split
  · simp only
    split
    · exact gain (by simp)
    · exact lose (by simp)
  · split
    · exact withdraw (lose rfl)
    · exact h.boryel

theorem OnlyRecords.withBoryel {x y : BoryelSt} (K : OnlyRecords s t) (e : y = x) :
    OnlyRecords { s with boryel := x } { t with boryel := y } :=
  ⟨K.power, K.mode, K.pins, K.auth, K.tack, K.cfg, K.poll, K.snap, K.time, e, K.canA, K.canB, K.sports, K.iports, K.tports,
    K.replay, K.pending⟩

theorem byApply_boryel_congr (h : OnlyRecords s t) : (byApply t).boryel = (byApply s).boryel := by
  have ready {u w : State} (k : OnlyRecords u w) : (settleLead { w with boryel := { w.boryel with
      ctrl := w.boryel.ctrlNext, node := w.boryel.nodeNext
      yielded := w.boryel.yielded && w.boryel.ctrlNext.getLsbD 0 && w.boryel.ctrlNext.getLsbD 1 } }).boryel =
      (settleLead { u with boryel := { u.boryel with
      ctrl := u.boryel.ctrlNext, node := u.boryel.nodeNext
      yielded := u.boryel.yielded && u.boryel.ctrlNext.getLsbD 0 && u.boryel.ctrlNext.getLsbD 1 } }).boryel :=
    settleLead_boryel_congr (OnlyRecords.withBoryel k (by rw [k.boryel]))
  have same : OnlyRecords (grant 9 false s) (grant 9 false t) := by
    have back : OnlyRecords (grant 9 false s) s := by rw [grant_eq]; exact OnlyRecords.upd OnlyRecords.refl
    exact Laws.OnlyRecords.trans back (grant_apart h)
  unfold byApply
  by_cases c : s.boryel.ctrl = s.boryel.ctrlNext ∧ s.boryel.node = s.boryel.nodeNext
  · rw [if_pos c, if_pos (h.boryel ▸ c)]
    exact ready h
  · rw [if_neg c, if_neg (h.boryel ▸ c)]
    exact ready same

theorem epochEnds_congr (h : SameBase s t) (sync : t.boryel = s.boryel) : epochEnds t = epochEnds s := by
  simp only [epochEnds, actMode, byCountAt, h.time, h.mode, h.replay, sync]

/-! ## A base boundary (R71, R75, R214) -/

theorem writeBatch_apart (K : OnlyRecords b0 s) : OnlyRecords b0 (writeBatch s) := by
  unfold writeBatch
  exact OnlyRecords.ite K (recVerdicts_apart (OnlyRecords.upd K))

section Tick

variable {x : TimeSt}

@[simp] theorem tick_baseCount : (x.tick b).baseCount = x.baseCount + 1 := rfl
@[simp] theorem tick_now : (x.tick b).now = (x.moveTo b).now := rfl
@[simp] theorem tick_epochOn : (x.tick b).epochOn = x.epochOn := by unfold TimeSt.tick TimeSt.moveTo; split <;> rfl
@[simp] theorem tick_epochIx : (x.tick b).epochIx = x.epochIx := by unfold TimeSt.tick TimeSt.moveTo; split <;> rfl
@[simp] theorem tick_epochStart : (x.tick b).epochStart = x.epochStart := by unfold TimeSt.tick TimeSt.moveTo; split <;> rfl
@[simp] theorem tick_walkLeft : (x.tick b).walkLeft = x.walkLeft := by unfold TimeSt.tick TimeSt.moveTo; split <;> rfl

end Tick

/-- The records that a boundary leaves before it is reached. -/
def beforeBoundary (s : State) : State := writeBatch (grants [(6, true), (7, true), (9, true), (49, true)] s)

/-- The hub at boundary `b`, with BY_CTRL and BY_NODE in effect. -/
def reached (b : HubTime) (s : State) : State :=
  byApply { beforeBoundary s with time := (beforeBoundary s).time.tick b }

theorem reached_eq : byApply { writeBatch (grants [(6, true), (7, true), (9, true), (49, true)] s) with
    time := (writeBatch (grants [(6, true), (7, true), (9, true), (49, true)] s)).time.tick b } = reached b s := rfl

theorem beforeBoundary_apart : OnlyRecords s (beforeBoundary s) := writeBatch_apart (grants_apart OnlyRecords.refl)

theorem ticked_apart : OnlyRecords { s with time := s.time.tick b }
    { beforeBoundary s with time := (beforeBoundary s).time.tick b } := by
  have K := beforeBoundary_apart (s := s)
  exact ⟨K.power, K.mode, K.pins, K.auth, K.tack, K.cfg, K.poll, K.snap, congrArg (·.tick b) K.time, K.boryel, K.canA, K.canB,
    K.sports, K.iports, K.tports, K.replay, K.pending⟩

theorem reached_base : SameBase { s with time := s.time.tick b } (reached b s) := byApply_base (.ofApart ticked_apart)

/-- The records before the boundary do not decide whether the epoch ends at it. -/
theorem epochEnds_reached : epochEnds (reached b s) = epochEnds (byApply { s with time := s.time.tick b }) := by
  have plain := byApply_base (b0 := { s with time := s.time.tick b }) (SameBase.ofApart OnlyRecords.refl)
  have here := reached_base (s := s) (b := b)
  exact epochEnds_congr ⟨here.time.trans plain.time.symm, here.mode.trans plain.mode.symm, here.power.trans plain.power.symm,
    here.replay.trans plain.replay.symm, here.tack.trans plain.tack.symm⟩ (byApply_boryel_congr ticked_apart)

/-- A boundary inside an epoch counts its span down, and the next boundary follows. -/
theorem baseBoundary_inside (on : (reached b s).time.epochOn = true) (inside : epochEnds (reached b s) = false) :
    Steady { reached b s with time := { (reached b s).time with walkLeft := (reached b s).time.walkLeft - 1 } }
      (baseBoundary b s) := by
  have row : baseBoundary b s = leadBoundary (setNextBoundary b
      ((reached b s).time.heldPeriod.getD (reached b s).time.period) (recTime false true false false 0
        { reached b s with time := { (reached b s).time with walkLeft := (reached b s).time.walkLeft - 1 } })) := by
    unfold baseBoundary
    exact if_neg (by change ¬ (epochEnds (reached b s) || !(reached b s).time.epochOn) = true; simp [on, inside])
  rw [row]
  exact leadBoundary_steady (setNextBoundary_steady (recTime_steady Steady.refl))

theorem baseBoundary_counts (on : s.time.epochOn = true)
    (inside : epochEnds (byApply { s with time := s.time.tick b }) = false) :
    let t := baseBoundary b s
    t.time.baseCount = s.time.baseCount + 1 ∧ t.time.now = (s.time.moveTo b).now ∧ t.time.epochOn = true ∧
      t.time.epochIx = s.time.epochIx ∧ t.time.walkLeft = s.time.walkLeft - 1 ∧ t.mode.cur = s.mode.cur := by
  have here := reached_base (s := s) (b := b)
  have after := baseBoundary_inside (s := s) (b := b) (by rw [here.time]; exact tick_epochOn.trans on)
    (by rw [epochEnds_reached]; exact inside)
  refine ⟨?_, ?_, ?_, ?_, ?_, ?_⟩
  · rw [after.baseCount]; simp [here.time]
  · rw [after.now]; simp [here.time]
  · rw [after.epochOn]; simp [here.time, on]
  · rw [after.epochIx]; simp [here.time]
  · rw [after.walkLeft]; simp [here.time]
  · rw [after.cur]; simp [here.mode]

/-! ## The end of an epoch with nothing due (R215) -/

/-- No transition and no switch is due at the next boundary. -/
structure NothingDue (s : State) : Prop where
  pend : s.mode.pend = false
  hwCode : s.mode.hwCode = none
  swPend : s.tack.swPend = false
  swFailed : s.tack.swFailed = false

theorem NothingDue.ofParts (h : NothingDue s) (mode : t.mode = s.mode) (tack : t.tack = s.tack) : NothingDue t :=
  ⟨by rw [mode]; exact h.pend, by rw [mode]; exact h.hwCode, by rw [tack]; exact h.swPend, by rw [tack]; exact h.swFailed⟩

theorem switchDue_of_nothingDue (h : NothingDue s) : switchDue s = false := by simp [switchDue, h.swPend]

theorem failAtBoundary_of_nothingDue (h : NothingDue s) : failAtBoundary s = s := by
  simp [failAtBoundary, switchDue_of_nothingDue h, h.swFailed]

theorem boundaryTurn_of_nothingDue (h : NothingDue s) : boundaryTurn s = none := by
  simp [boundaryTurn, h.hwCode, h.pend]

@[simp] theorem endEpoch_mode : (endEpoch b s).mode = s.mode := by simp [endEpoch]
@[simp] theorem endEpoch_tack : (endEpoch b s).tack = s.tack := by simp [endEpoch]
@[simp] theorem endEpoch_now : (endEpoch b s).time.now = s.time.now := by simp [endEpoch]
@[simp] theorem endEpoch_baseCount : (endEpoch b s).time.baseCount = s.time.baseCount := by simp [endEpoch]
@[simp] theorem endEpoch_epochIx : (endEpoch b s).time.epochIx = s.time.epochIx + 1 := by simp [endEpoch]

theorem endEpoch_ended : ∃ e, (endEpoch b s).time.ended = some e ∧ e.ix = s.time.epochIx ∧ e.endHt = b ∧
    e.startHt = s.time.epochStart ∧ e.cutoff = b + BitVec.ofNat 48 (16 * e.guard) := by
  exact ⟨_, rfl, by simp, rfl, by simp, rfl⟩

/-- What an opened epoch leaves of the boundary's counts. -/
structure SameEnd (u t : State) : Prop where
  baseCount : t.time.baseCount = u.time.baseCount
  now : t.time.now = u.time.now
  epochIx : t.time.epochIx = u.time.epochIx
  ended : t.time.ended = u.time.ended
  cur : t.mode.cur = u.mode.cur

theorem SameEnd.trans {r : State} (h : SameEnd r s) (k : SameEnd s t) : SameEnd r t :=
  ⟨k.baseCount.trans h.baseCount, k.now.trans h.now, k.epochIx.trans h.epochIx, k.ended.trans h.ended, k.cur.trans h.cur⟩

theorem SameEnd.ofSteady (h : Steady s t) : SameEnd s t := ⟨h.baseCount, h.now, h.epochIx, h.ended, h.cur⟩

theorem SameEnd.ofApart (h : OnlyRecords s t) : SameEnd s t := by
  constructor
  all_goals first | rw [h.time] | rw [h.mode]

theorem openEpoch_end {isQuiet : Bool} : SameEnd s (openEpoch b isQuiet s) := by
  have starts : SameEnd s (startEpoch b s) := ⟨rfl, rfl, rfl, rfl, rfl⟩
  let opened := if (startEpoch b s).mode.cur.records then
    tapEpoch isQuiet (epochNumber (startEpoch b s).time.epochIx (startEpoch b s)) (startEpoch b s) else startEpoch b s
  have marked : SameEnd s opened := by
    unfold opened
    split
    · exact starts.trans (.ofApart (tapEpoch_apart Laws.OnlyRecords.refl))
    · exact starts
  have row : openEpoch b isQuiet s = if epochsRun s then (if opened.tack.expanding then opened else dueRuns opened)
      else { s with time := { s.time with heldGuard := none, heldPeriod := none } } := rfl
  rw [row]
  clear_value opened
  split
  · split
    · exact marked
    · exact marked.trans (.ofSteady (dueRuns_steady Steady.refl))
  · exact ⟨rfl, rfl, rfl, rfl, rfl⟩

theorem baseBoundary_end (ends : epochEnds (reached b s) = true) (idle : NothingDue (reached b s)) :
    SameEnd (endEpoch b (reached b s)) (baseBoundary b s) := by
  let s3 := commitsReady (endEpoch b (reached b s))
  have idle3 : NothingDue s3 := idle.ofParts (endEpoch_mode (b := b)) (endEpoch_tack (b := b))
  have row : baseBoundary b s = openEpoch b (quiet (reached b s)) (leadBoundary (setNextBoundary b (reached b s).time.period
      (recTime false true (settleAhead true s3).mode.cur.records false
        (epochNumber (settleAhead true s3).time.epochIx (settleAhead true s3)) (settleAhead true s3)))) := by
    have idle3' : NothingDue (commitsReady (endEpoch b (reached b s))) := idle3
    simp only [baseBoundary, reached_eq, ends, Bool.true_or, if_true, failAtBoundary_of_nothingDue idle3',
      boundaryTurn_of_nothingDue idle3', switchDue_of_nothingDue idle3', s3, turnAt, Bool.false_eq_true, if_false,
      Option.isNone_none, Bool.not_false, Bool.and_self]
  rw [row]
  refine SameEnd.trans (.ofSteady ?_) openEpoch_end
  exact leadBoundary_steady (setNextBoundary_steady (recTime_steady (settleAhead_steady (commitsReady_steady Steady.refl))))

theorem baseBoundary_ends (ends : epochEnds (byApply { s with time := s.time.tick b }) = true) (idle : NothingDue s) :
    let t := baseBoundary b s
    t.time.baseCount = s.time.baseCount + 1 ∧ t.time.now = (s.time.moveTo b).now ∧ t.time.epochIx = s.time.epochIx + 1 ∧
      t.mode.cur = s.mode.cur ∧ ∃ e, t.time.ended = some e ∧ e.ix = s.time.epochIx ∧ e.endHt = b ∧
        e.startHt = s.time.epochStart ∧ e.cutoff = b + BitVec.ofNat 48 (16 * e.guard) := by
  have here := reached_base (s := s) (b := b)
  have after := baseBoundary_end (s := s) (b := b) (by rw [epochEnds_reached]; exact ends)
    (idle.ofParts here.mode here.tack)
  obtain ⟨e, ended, ix, endHt, startHt, cutoff⟩ := endEpoch_ended (s := reached b s) (b := b)
  refine ⟨?_, ?_, ?_, ?_, e, after.ended.trans ended, ix.trans ?_, endHt, startHt.trans ?_, cutoff⟩
  · rw [after.baseCount]; simp [here.time]
  · rw [after.now]; simp [here.time]
  · rw [after.epochIx]; simp [here.time]
  · rw [after.cur]; simp [here.mode]
  · simp [here.time]
  · simp [here.time]

/-- Settles O15: a boundary inside an epoch by `baseBoundary_counts`, the end of an epoch with nothing due by
`baseBoundary_ends`. -/
theorem baseBoundary : Obligations.BaseBoundary := by
  intro b s due s1
  have row : effBaseEpochBoundary s = if s.replay.run then
      { s with replay := { s.replay with clock := { s.replay.clock.tick b with
        nextBoundary := some (b + BitVec.ofNat 48 (160 * s.time.period.toNat)) } } } else Machine.baseBoundary b s := by
    simp only [effBaseEpochBoundary, due]
  refine ⟨fun replay => next_congr ?_, fun own on inside => ⟨_, next_congr ?_, baseBoundary_counts on inside⟩,
    fun own on ends pend hwCode swPend swFailed => ⟨_, next_congr ?_, baseBoundary_ends ends ⟨pend, hwCode, swPend, swFailed⟩⟩⟩
  · rw [row, if_pos replay]
  · rw [row, if_neg (ne_true_of_eq_false own)]
  · rw [row, if_neg (ne_true_of_eq_false own)]

end Sys2Proof.Proofs.TimeBase

/-! PROOFS. The faults of the clock, the supplies and the islands (chapter 17, R388 to R397, R419). -/

namespace Sys2Proof.Proofs.Faults

set_option Elab.async false

open Sys2Proof.Machine Sys2Proof.Safety Sys2Proof.Laws Sys2Proof.Proofs.Shared

variable {b0 s t : State}

/-! ## The active faults -/

theorem logFault_active {code cls island detail} : (logFault code cls island detail s).fault.active =
    if faultAsserts code then s.fault.active ||| BitVec.ofNat 64 (2 ^ (code - 0x10)) else s.fault.active := by
  unfold logFault
  rw [(tapTrigger_traced Traced.refl).fault]
  unfold recFault
  rw [(tapAppend_traced Traced.refl).fault]
  simp

theorem bitAt {n m : Nat} : (BitVec.ofNat 64 (2 ^ n)).getLsbD m = decide (m < 64 ∧ n = m) := by
  rw [BitVec.getLsbD_ofNat, Nat.testBit_two_pow]
  by_cases h : m < 64 <;> simp [h]

theorem faultActive_logFault {code cls island detail} (asserts : faultAsserts code = true) (most : code < 0x50) :
    faultActive code (logFault code cls island detail s) = true := by
  rw [faultActive, logFault_active, if_pos asserts, BitVec.getLsbD_or, bitAt]
  simp; omega

theorem faultActive_endFault {code c : Nat} (least : 0x10 ≤ code) (here : 0x10 ≤ c) (most : c < 0x50) :
    faultActive c (endFault code s) = (faultActive c s && c != code) := by
  rw [faultActive, endFault, faultActive, BitVec.getLsbD_and, BitVec.getLsbD_not, bitAt]
  have inside : c - 0x10 < 64 := by omega
  have same : (code - 0x10 = c - 0x10) ↔ c = code := by omega
  have told : (c == code) = decide (c = code) := rfl
  simp [inside, same, bne, told]

/-! ## Supplies (R388, R397) -/

theorem vsupLow_logs {t0} (live : s.power.boot ≠ .held) : OnlyRecords (advance t0 s) (effVsupLow t0 s) ∧
    (effVsupLow t0 s).fault.code = 0x25 ∧ (effVsupLow t0 s).fault.active = s.fault.active := by
  rw [effVsupLow, if_neg (by rw [advance_power]; exact live)]
  refine ⟨logFault_apart OnlyRecords.refl, logFault_code, ?_⟩
  rw [logFault_active, if_neg (by decide), advance_fault]

theorem cutBanks_lasting {new : BitVec 4} (K : Lasting b0 s) :
    Lasting b0 ((List.range 4).foldl (fun s b => if new.getLsbD b then cutBank b s else s) s) :=
  Lasting.foldl (fun _ _ h => Lasting.ite (cutBank_lasting h) h) K

theorem cutBanks_logged {new : BitVec 4} (K : Logged b0 s) :
    Logged b0 ((List.range 4).foldl (fun s b => if new.getLsbD b then cutBank b s else s) s) :=
  Logged.foldl (fun _ _ h => Logged.ite (cutBank_logged h) h) K

/-- What follows a change of the working units leaves the fault log as the change left it. -/
theorem adapting_logs {f : State → State} : Logged (f s) (adapting f s) :=
  settleCans_logged (settlePins_logged (settlePorts_logged (purgeHeld_logged Logged.refl)))

/-- The hub as banks newly low leave it, all of them in `all`, before what depends on the units settles. -/
def bankFault (all : BitVec 4) (s : State) : State :=
  logFault 0x24 1 0xFFFF all.toNat { s with power := { s.power with bankLow := all } }

theorem effBankSupplyLow_eq {low : BitVec 4} {t0} (live : s.power.boot ≠ .held) (awake : s.power.sleep = .awake)
    (held : s.power.pwrHold = true) (more : s.power.bankLow ||| low ≠ s.power.bankLow) :
    ∃ f, effBankSupplyLow low t0 s = adapting f (advance t0 s) ∧ f (advance t0 s) =
      (List.range 4).foldl (fun u b => if ((s.power.bankLow ||| low) ^^^ s.power.bankLow).getLsbD b then cutBank b u else u)
        (bankFault (s.power.bankLow ||| low) (advance t0 s)) := by
  have checked : suppliesUnchecked (advance t0 s) = false := by simp [suppliesUnchecked, awake, held]
  refine ⟨_, (if_neg ?_ : effBankSupplyLow low t0 s = _), ?_⟩
  · rw [advance_power]
    exact fun h => h.elim more live
  · simp only [checked, Bool.false_eq_true, if_false, bankFault, advance_power]

/-- The banks' fault is raised, and what stands on their ports is cut (R397). -/
theorem bankSupplyLow_raises {low : BitVec 4} {t0} (live : s.power.boot ≠ .held) (awake : s.power.sleep = .awake)
    (held : s.power.pwrHold = true) (more : s.power.bankLow ||| low ≠ s.power.bankLow) :
    let t := effBankSupplyLow low t0 s
    t.power.bankLow = s.power.bankLow ||| low ∧ t.fault.code = 0x24 ∧ faultActive 0x24 t = true ∧ t.mode.cur = s.mode.cur := by
  intro t
  obtain ⟨f, row, cut⟩ := effBankSupplyLow_eq (low := low) (t0 := t0) live awake held more
  have steady : Steady (f (advance t0 s)) t := by rw [show t = _ from row]; exact adapting_after
  have logs : Logged (f (advance t0 s)) t := by rw [show t = _ from row]; exact adapting_logs
  have lasting : Lasting (bankFault (s.power.bankLow ||| low) (advance t0 s)) (f (advance t0 s)) := by
    rw [cut]; exact cutBanks_lasting Lasting.refl
  have same : Logged (bankFault (s.power.bankLow ||| low) (advance t0 s)) t := by
    refine Logged.trans ?_ logs
    rw [cut]; exact cutBanks_logged Logged.refl
  have records : OnlyRecords { advance t0 s with power := { (advance t0 s).power with bankLow := s.power.bankLow ||| low } }
      (bankFault (s.power.bankLow ||| low) (advance t0 s)) := logFault_apart OnlyRecords.refl
  refine ⟨?_, ?_, ?_, ?_⟩
  · rw [steady.bankLow, lasting.bankLow, records.power]
  · rw [same.fault, bankFault, logFault_code]
    rfl
  · rw [faultActive, same.fault]
    exact faultActive_logFault (by decide) (by decide)
  · rw [steady.cur, lasting.cur, records.mode, advance_mode]

theorem bankSupplyReturn_ends (low : s.power.bankLow ≠ 0) :
    let t := effBankSupplyReturn s
    t.power.bankLow = 0 ∧ t.mode.cur = s.mode.cur ∧
    faultActive 0x24 t = (if s.power.sleep = .sealed ∨ s.power.sleep = .waking then faultActive 0x24 s else false) := by
  intro t
  have row : t = _ := if_neg low
  rw [row]
  refine ⟨?_, ?_, ?_⟩
  · rw [adapting_after.bankLow]
    split <;> rfl
  · rw [adapting_after.cur]
    split <;> rfl
  · rw [faultActive, adapting_logs.fault, ← faultActive]
    by_cases asleep : s.power.sleep = .sealed ∨ s.power.sleep = .waking
    · rw [if_pos asleep, if_pos (by simpa using asleep)]
      rfl
    · rw [if_neg asleep, if_neg (by simpa using asleep), faultActive_endFault (by decide) (by decide) (by decide)]
      simp

/-- Settles O21. -/
theorem supplies : Obligations.Supplies := by
  refine ⟨fun t0 s live => ⟨_, rfl, vsupLow_logs live⟩, fun s => ⟨_, rfl, rfl, ?_, fun c least most other => ?_⟩,
    fun low t0 s live awake held more => ⟨_, rfl, bankSupplyLow_raises live awake held more⟩,
    fun s low => ⟨_, rfl, bankSupplyReturn_ends low⟩⟩
  · rw [effVsupLowEnd, faultActive_endFault (by decide) (by decide) (by decide)]
    simp
  · rw [effVsupLowEnd, faultActive_endFault (by decide) least most]
    simp [other]

end Sys2Proof.Proofs.Faults

/-! PROOFS. Island restarts, kernel and unit failures (chapter 17, R390 to R395). -/

namespace Sys2Proof.Proofs.Islands

set_option Elab.async false

open Sys2Proof.Machine Sys2Proof.Safety Sys2Proof.Laws Sys2Proof.Proofs.Shared Sys2Proof.Proofs.Faults

variable {b0 s t : State}

/-! ## A kernel island (R395) -/

theorem kernelFault_ends {island : Nat} :
    (kernelFault island s).power.boot = .dead ∧ (kernelFault island s).mode.cur = s.mode.cur := by
  have quiet : Lasting s (cancelLanes (fun _ => true) 7 (stopRuns (logFault 0x34 5 island island s))) :=
    cancelLanes_lasting (stopRuns_lasting (logFault_lasting Lasting.refl))
  unfold kernelFault
  constructor
  · rw [adapting_after.boot]
  · rw [adapting_after.cur]
    dsimp only
    exact quiet.cur

/-! ## A unit that is given up (R394) -/

/-- `t` has the drop bits of `u`, and the bits that `u` has in them. -/
structure SameDrops (u t : State) : Prop where
  drop0 : t.power.lrDrop0 = u.power.lrDrop0
  drop1 : t.power.lrDrop1 = u.power.lrDrop1

theorem SameDrops.refl : SameDrops s s := ⟨rfl, rfl⟩

theorem SameDrops.trans {r : State} (h : SameDrops r s) (k : SameDrops s t) : SameDrops r t :=
  ⟨k.drop0.trans h.drop0, k.drop1.trans h.drop1⟩

theorem SameDrops.ofSteady (h : Steady s t) : SameDrops s t := ⟨h.lrDrop0, h.lrDrop1⟩

theorem SameDrops.ofApart (h : OnlyRecords s t) : SameDrops s t := by
  constructor
  all_goals rw [h.power]

theorem SameDrops.ofUnmoved (h : Unmoved s t) : SameDrops s t := by
  constructor
  all_goals rw [h.power]

theorem unitFailed_congr {u : Nat} (h : SameDrops s t) (known : u < 23) : unitFailed u t = unitFailed u s := by
  simp only [unitFailed, h.drop0, h.drop1, if_pos known]

theorem unitFailed_setDropped {u : Nat} (known : u < 23) : unitFailed u (setDropped u s) = true := by
  by_cases low : u < 16
  · simp only [unitFailed, setDropped, if_pos low]
    exact setBit_self low
  · simp only [unitFailed, setDropped, if_neg low, if_pos known]
    exact setBit_self (by omega)

theorem reactToFailure_drops {code} : SameDrops s (reactToFailure code s) := by
  unfold reactToFailure
  split
  · have ended {x y} : SameDrops s (if opRuns s then opEnd x y (endReplay s) else s) := by
      split
      · exact .ofUnmoved (opEnd_unmoved (endReplay_unmoved Unmoved.refl))
      · exact .refl
    split
    · exact ended
    · split
      · exact .ofUnmoved (opEnd_unmoved Unmoved.refl)
      · exact .refl
    · exact .refl
  · split
    · exact .ofSteady (toLeadRein_steady (Steady.ite Steady.refl (parkFailed_steady Steady.refl)))
    · split
      · exact .ofSteady (parkFailed_steady Steady.refl)
      · exact .refl

theorem settleDropped_unmoved (K : Unmoved b0 s) : Unmoved b0 (settleDropped s) := by
  unfold settleDropped
  refine Unmoved.foldl (fun _ _ h => Unmoved.ite (Unmoved.foldl (fun _ _ k => Unmoved.ite (Unmoved.ite ?_ ?_) k) h) h) K
  · exact failAttempt_unmoved (modLane_unmoved (Unmoved.ite (abortFrame_unmoved (recTorn_unmoved k)) (recTorn_unmoved k)))
  · exact failAttempt_unmoved k

/-- A unit that was at work when it fails is dropped. -/
theorem unitFailed_failUnit {code u island : Nat} (known : u < 23) : unitFailed u (failUnit code u island s) = true := by
  unfold failUnit
  split
  · assumption
  · have kept {cls detail} : SameDrops (setDropped u s) (dropTap (logFault code cls island detail (setDropped u s))) :=
      .ofApart (dropTap_apart (logFault_apart OnlyRecords.refl))
    exact (unitFailed_congr (kept.trans reactToFailure_drops) known).trans (unitFailed_setDropped known)

theorem giveUp_fails {u island : Nat} (known : u < 23) : unitFailed u (giveUp u island s) = true := by
  unfold giveUp
  rw [unitFailed_congr (.ofSteady adapting_after) known,
    unitFailed_congr (.ofUnmoved (settleDropped_unmoved Unmoved.refl)) known]
  exact unitFailed_failUnit known

/-! ## A fault of class R (R390 to R394) -/

/-- The islands that cannot be restarted belong to the time base and the queue manager. -/
theorem unit_of_noRestart {n : Nat} (h : noRestart n = true) : unitOf n < 23 := by
  obtain rfl | ⟨least, most⟩ : n = 8 ∨ 141 ≤ n ∧ n ≤ 148 := by simpa [noRestart] using h
  · decide
  · have all : ∀ k < 8, unitOf (141 + k) < 23 := by decide
    rw [← Nat.add_sub_of_le least]
    exact all (n - 141) (by omega)

theorem mem_insertOnce {n : Nat} {l : List Nat} : n ∈ insertOnce n l := by
  unfold insertOnce
  split
  · simp_all
  · simp

/-- The fault is logged and the island on its list, before its restart acts on its unit. -/
def restarting (code island detail : Nat) (s : State) : State :=
  let u := unitOf island
  let s1 := logFault code 2 island detail s
  { s1 with fault := { s1.fault with
    restarting := insertOnce island s1.fault.restarting
    lastR := (u, island, hubNow s1) :: s1.fault.lastR.filter (fun e => e.1 != u) } }

/-- What a class R fault does to the island `island` of the hub `s`. -/
theorem classR_hits {code detail : Nat} {island : Fin 264} :
    let t := classR code island.val detail s
    let u := unitOf island.val
    (u = 26 → t.power.boot = .dead ∧ t.mode.cur = s.mode.cur) ∧
    (u ≠ 26 → unitFailed u s = false → island.val ∉ s.fault.restarting →
      (noRestart island.val = true → unitFailed u t = true) ∧
      (noRestart island.val = false → secondFault u s = false → island.val ∈ t.fault.restarting)) := by
  intro t u
  refine ⟨fun kernel => ?_, fun other works settled => ⟨fun lost => ?_, fun restarts first => ?_⟩⟩
  · have row : t = _ := if_pos kernel
    rw [row]
    exact kernelFault_ends
  · have row : t = giveUp u island.val s := by
      simp only [t, classR]
      rw [if_neg other, if_neg (ne_true_of_eq_false works), if_neg (by simpa using settled), if_pos (by simp [lost])]
    rw [row]
    exact giveUp_fails (unit_of_noRestart lost)
  · have row : t = adapting (fun s => restartEffect island.val (restarting code island.val detail s)) s := by
      simp only [t, classR]
      rw [if_neg other, if_neg (ne_true_of_eq_false works), if_neg (by simpa using settled),
        if_neg (by simp [restarts, show secondFault (unitOf island.val) s = false from first])]
      rfl
    rw [row, adapting_logs.fault, (restartEffect_lasting Lasting.refl).restarting]
    exact mem_insertOnce

/-- Settles O22: the faults by `classR_hits`, and a restart that is done leaves the fault log to `dispatch`, which moves
nothing there. -/
theorem islandWatch : Obligations.IslandWatch := by
  unfold Obligations.IslandWatch
  intro hit
  refine ⟨fun island t0 s w probed => ⟨effLivenessProbeTimeout island t0 s, rfl, ?_⟩,
    fun receiver sender t0 s w => ⟨effHitchTimeout receiver sender t0 s, rfl, ?_⟩,
    fun island s restarting => ⟨effIslandRestartDone island s, rfl, ?_⟩, fun s w works => next_congr ?_⟩
  · have due : (watched (advance t0 s) && (unitOf island.val == 26 || !unitFailed 23 (advance t0 s))) = true := by
      simpa [watched, unitFailed] using ⟨by simpa [watched] using w, by simpa [unitFailed] using probed⟩
    rw [effLivenessProbeTimeout, if_pos due]
    exact classR_hits
  · rw [effHitchTimeout, if_pos (by simpa [watched] using w)]
    exact classR_hits
  · rw [effIslandRestartDone, if_pos (by simpa using restarting)]
    have quiet {u : State} : Unmoved u (dispatch u) := dispatch_unmoved Unmoved.refl
    constructor
    · rw [quiet.fault]
    · rw [quiet.mode]
  · rw [effLivenessSweep, if_pos (by simp [w, works])]

end Sys2Proof.Proofs.Islands

/-! PROOFS. Loss of the clock and of PLL lock, and relock (chapter 17, R396, R419). -/

namespace Sys2Proof.Proofs.Clock

set_option Elab.async false

open Sys2Proof.Machine Sys2Proof.Safety Sys2Proof.Laws Sys2Proof.Proofs.Shared Sys2Proof.Proofs.Faults
  Sys2Proof.Proofs.Islands Sys2Proof.Proofs.Endings Sys2Proof.Proofs.Startup

variable {b0 s t : State}

/-! ## The loss of the clock (R396, R419) -/

/-- The hub has lost its clock: the time base is dropped, fault 0x20 is active, and the hub's own hub time stands (`own` says
that no replay has set it aside). -/
structure ClockGone (own : Prop) (t : State) : Prop where
  lost : t.power.clockLost = true
  unlocked : t.power.pllLocked = false
  dropped : t.power.lrDrop1.getLsbD 2 = true
  code : t.fault.code = 0x20
  active : faultActive 0x20 t = true
  stands : own → t.time.run = false ∧ t.replay.run = false

theorem ClockGone.steady {own : Prop} (h : ClockGone own s) (k : Steady s t) (l : t.fault = s.fault) : ClockGone own t := by
  obtain ⟨lost, unlocked, dropped, code, active, stands⟩ := h
  refine ⟨k.clockLost.trans lost, k.pllLocked.trans unlocked, ?_, ?_, ?_, fun o => ?_⟩
  · rw [k.lrDrop1]; exact dropped
  · rw [l]; exact code
  · rw [faultActive, l]; exact active
  · rw [k.run, k.replay]; exact stands o

/-- The operation of REPLAY_RUN has failed, fault 0x20 is logged, and the time base is dropped. -/
def lossLogged (island detail : Nat) (s : State) : State :=
  setDropped 18 (logFault 0x20 4 island detail (if opRuns s && s.op.code == 9 then endOp 3 8 s else s))

theorem lossLogged_lasting {island detail} : Lasting s (lossLogged island detail s) :=
  setDropped_lasting (logFault_lasting (Lasting.ite (endOp_lasting Lasting.refl) Lasting.refl))

theorem lossLogged_replay {island detail} (own : s.replay.run = false) : (lossLogged island detail s).replay.run = false := by
  have steady : Steady s (logFault 0x20 4 island detail (if opRuns s && s.op.code == 9 then endOp 3 8 s else s)) :=
    logFault_steady (Steady.ite (endOp_steady own) Steady.refl)
  exact (congrArg ReplaySt.run steady.replay).trans own

/-- What the loss leaves before hub time is stopped. -/
structure LossLogged (own : Prop) (t : State) : Prop where
  dropped : t.power.lrDrop1.getLsbD 2 = true
  code : t.fault.code = 0x20
  active : faultActive 0x20 t = true
  replay : own → t.replay.run = false

theorem LossLogged.congr {own : Prop} (h : LossLogged own s) (drop : t.power.lrDrop1 = s.power.lrDrop1)
    (fault : t.fault = s.fault) (replay : t.replay = s.replay) : LossLogged own t := by
  obtain ⟨dropped, code, active, live⟩ := h
  exact ⟨by rw [drop]; exact dropped, by rw [fault]; exact code, by rw [faultActive, fault]; exact active,
    fun o => by rw [replay]; exact live o⟩

theorem lossLogged_logged {island detail} : LossLogged (s.replay.run = false) (lossLogged island detail s) :=
  ⟨setBit_self (by decide), logFault_code, faultActive_logFault (by decide) (by decide), lossLogged_replay⟩

/-- Hub time stands, and the PLL is unlocked for good. -/
def timeStopped (u : State) : State :=
  { u with
    power := { u.power with clockLost := true, pllLocked := false }
    time := { u.time with run := false, nextBoundary := none, ended := none, epochOn := false } }

theorem stopTime_eq : stopTime s = timeStopped (loseLock (stopRuns s)) := by
  simp only [stopTime, timeStopped]

theorem timeStopped_gone {own : Prop} (h : LossLogged own s) : ClockGone own (timeStopped s) :=
  ⟨rfl, rfl, h.dropped, h.code, h.active, fun o => ⟨rfl, h.replay o⟩⟩

theorem timeStopped_cur : (timeStopped s).mode.cur = s.mode.cur := rfl

theorem ClockGone.stopTime {own : Prop} (h : LossLogged own s) : ClockGone own (stopTime s) := by
  have quiet : Unmoved s (loseLock (stopRuns s)) := loseLock_unmoved (stopRuns_unmoved Unmoved.refl)
  have steady : Steady s (loseLock (stopRuns s)) := loseLock_steady (stopRuns_steady Steady.refl)
  rw [stopTime_eq]
  exact timeStopped_gone (h.congr steady.lrDrop1 quiet.fault steady.replay)

theorem stopTime_cur : (stopTime s).mode.cur = s.mode.cur := by
  rw [stopTime_eq, timeStopped_cur, (loseLock_unmoved (stopRuns_unmoved Unmoved.refl)).mode]

theorem ClockGone.enterMode {own : Prop} {m} (h : ClockGone own s) : ClockGone own (enterMode m s) := by
  obtain ⟨lost, unlocked, dropped, code, active, stands⟩ := h
  have drops : (Machine.enterMode m s).power.lrDrop1 = s.power.lrDrop1 := by
    rw [enterMode_steady.lrDrop1, setMode_power, (abortForMode_unmoved Unmoved.refl).power]
  have fault : (Machine.enterMode m s).fault = s.fault := (enterMode_logged Logged.refl).fault
  refine ⟨enterMode_clockLost.trans lost, enterMode_pll.trans unlocked, drops ▸ dropped, fault ▸ code, ?_, fun o => ?_⟩
  · rw [faultActive, fault]; exact active
  · obtain ⟨still, live⟩ := stands o
    have aborted := abortForMode_steady (m := m) live
    rw [enterMode_steady.run, enterMode_steady.replay, setMode_time, setMode_replay, aborted.run, aborted.replay]
    exact ⟨still, live⟩

theorem ClockGone.hardwareEntry {own : Prop} (h : ClockGone own s) : ClockGone own (hardwareEntry (some 0x20) s) := by
  have fault : (Machine.hardwareEntry (some 0x20) s).fault = s.fault := by
    unfold Machine.hardwareEntry
    rw [(tapTrigger_traced Traced.refl).fault, attend_fault, Option.getD_some, ← h.code]
  exact h.steady (hardwareEntry_steady Steady.refl) fault

/-- The mode that a loss of the clock leaves (R396). -/
def modeAfterLoss (s : State) : Mode := if s.power.sleep = .awake ∧ s.mode.cur.records = true then .leadrein else s.mode.cur

/-- How hub time stops in the hub `u` with the loss logged: asleep for the wake, in Walk and Canter with the entry of
Lead-rein. -/
def afterLoss (u : State) : State :=
  if sleeping u then stopTime { u with power := { u.power with wakeTarget := .leadrein } }
  else if u.mode.cur.records then
    endRecording (hardwareEntry (some 0x20) (recMode u.mode.cur .leadrein (some 0x20) none (epochNumber u.time.epochIx u)
      (enterMode .leadrein (stopTime (cancelRequest u)))))
  else stopTime u

theorem clockLoss_eq {island detail : Nat} (kept : s.power.clockLost = false) :
    ∃ f, clockLoss island detail s = adapting f s ∧ f s = afterLoss (lossLogged island detail s) :=
  ⟨_, if_neg (ne_true_of_eq_false kept), rfl⟩

theorem afterLoss_gone {own : Prop} (logged : LossLogged own s) :
    ClockGone own (afterLoss s) ∧ (afterLoss s).mode.cur = modeAfterLoss s := by
  have asleep : sleeping s = true ↔ s.power.sleep ≠ .awake := by simp [sleeping]
  unfold afterLoss modeAfterLoss
  by_cases sleeps : sleeping s = true
  · rw [if_pos sleeps, if_neg (fun h => asleep.mp sleeps h.1)]
    exact ⟨.stopTime (logged.congr rfl rfl rfl), stopTime_cur⟩
  · have awake : s.power.sleep = .awake := Classical.not_not.mp (fun h => sleeps (asleep.mpr h))
    rw [if_neg sleeps]
    by_cases records : s.mode.cur.records = true
    · rw [if_pos records, if_pos ⟨awake, records⟩]
      have request : Steady s (cancelRequest s) := cancelRequest_steady Steady.refl
      have stopped : ClockGone own (stopTime (cancelRequest s)) :=
        .stopTime (logged.congr request.lrDrop1 (cancelRequest_logged Logged.refl).fault request.replay)
      have recorded := stopped.enterMode.steady (recMode_steady (old := s.mode.cur) (new := .leadrein) (hw := some 0x20)
        (prof := none) (first := epochNumber s.time.epochIx s) (Steady.refl (s := enterMode .leadrein _)))
        (recMode_logged Logged.refl).fault
      refine ⟨recorded.hardwareEntry.steady (endRecording_steady Steady.refl) (endRecording_logged Logged.refl).fault, ?_⟩
      rw [(endRecording_steady Steady.refl).cur, hardwareEntry_mode, (recMode_steady Steady.refl).cur, enterMode_cur]
    · rw [if_neg records, if_neg (fun h => records h.2)]
      exact ⟨.stopTime logged, stopTime_cur⟩

theorem clockLoss_gone {island detail : Nat} (kept : s.power.clockLost = false) :
    ClockGone (s.replay.run = false) (clockLoss island detail s) ∧
    (clockLoss island detail s).mode.cur = modeAfterLoss s := by
  have same : Lasting s (lossLogged island detail s) := lossLogged_lasting
  have mode : modeAfterLoss (lossLogged island detail s) = modeAfterLoss s := by
    rw [modeAfterLoss, modeAfterLoss, same.sleep, same.cur]
  obtain ⟨f, adapted, at_s⟩ := clockLoss_eq (island := island) (detail := detail) kept
  obtain ⟨gone, cur⟩ := afterLoss_gone (lossLogged_logged (island := island) (detail := detail) (s := s))
  rw [← at_s] at gone cur
  rw [adapted]
  exact ⟨gone.steady adapting_after adapting_logs.fault, adapting_after.cur.trans (cur.trans mode)⟩

/-! ## The crystal (R396) -/

theorem stopTime_crystal : (stopTime s).power.crystalStopped = s.power.crystalStopped := by
  rw [stopTime_eq, timeStopped, (loseLock_unmoved (stopRuns_unmoved Unmoved.refl)).power]

theorem enterMode_crystal {m} : (enterMode m s).power.crystalStopped = s.power.crystalStopped := by
  rw [enterMode_lasting.crystal, setMode_power, (abortForMode_unmoved Unmoved.refl).power]

theorem afterLoss_crystal : (afterLoss s).power.crystalStopped = s.power.crystalStopped := by
  unfold afterLoss
  split
  · exact stopTime_crystal
  · split
    · rw [(endRecording_lasting Lasting.refl).crystal, hardwareEntry_power, (recMode_lasting Lasting.refl).crystal,
        enterMode_crystal, stopTime_crystal, (cancelRequest_lasting Lasting.refl).crystal]
    · exact stopTime_crystal

theorem clockLoss_crystal {island detail : Nat} (kept : s.power.clockLost = false) :
    (clockLoss island detail s).power.crystalStopped = s.power.crystalStopped := by
  obtain ⟨f, adapted, at_s⟩ := clockLoss_eq (island := island) (detail := detail) kept
  rw [adapted, adapting_lasts.crystal, at_s, afterLoss_crystal, lossLogged_lasting.crystal]

/-! ## Lock of the PLL (R396) -/

theorem advance_own {t0} (own : s.replay.run = false) : (advance t0 s).replay.run = false := by
  rw [advance_run]; exact own

/-- Pass-through entries that were on the wires are aborted. -/
def tornEntries (s : State) : State := (List.range 4).foldl (fun s p => tornEntry ⟨p % 4, by omega⟩ s) s

/-- Every port is aborted in the hub `u`, which has lost its lock; `s` is the hub before it. -/
def portsCut (s u : State) : State :=
  loseLock ((List.range 4).foldl (fun t p => if abortCount p u = abortCount p s then t else stickS p 14 t)
    ((List.range 14).foldl (fun t n => clockLost n t) { u with power := { u.power with pllLocked := false } }))

theorem effPllUnlock_eq (runs : s.power.boot = .running) (locked : s.power.pllLocked = true) :
    ∃ f, effPllUnlock s = adapting f s ∧ f s = portsCut s (tornEntries s) := by
  refine ⟨_, (if_pos ?_ : effPllUnlock s = _), ?_⟩
  · simp [runs, locked]
  · unfold portsCut tornEntries
    rfl

theorem pllUnlock_unlocks (runs : s.power.boot = .running) (locked : s.power.pllLocked = true) :
    let t := effPllUnlock s
    t.power.pllLocked = false ∧ t.fault = s.fault ∧ t.mode.cur = s.mode.cur := by
  have torn : Lasting s (tornEntries s) := Lasting.foldl (fun _ _ h => tornEntry_lasting h) Lasting.refl
  have tornLog : Logged s (tornEntries s) := Logged.foldl (fun _ _ h => tornEntry_logged h) Logged.refl
  have lasts {u : State} : Lasting { u with power := { u.power with pllLocked := false } } (portsCut s u) :=
    loseLock_lasting (Lasting.foldl (fun _ _ h => Lasting.ite h (stickS_lasting h))
      (Lasting.foldl (fun _ _ h => clockLost_lasting h) Lasting.refl))
  have logs {u : State} : Logged { u with power := { u.power with pllLocked := false } } (portsCut s u) :=
    loseLock_logged (Logged.foldl (fun _ _ h => Logged.ite h (stickS_logged h))
      (Logged.foldl (fun _ _ h => clockLost_logged h) Logged.refl))
  obtain ⟨f, adapted, at_s⟩ := effPllUnlock_eq runs locked
  rw [adapted]
  refine ⟨?_, ?_, ?_⟩
  · rw [adapting_after.pllLocked, at_s, lasts.pllLocked]
  · rw [adapting_logs.fault, at_s, logs.fault, tornLog.fault]
  · rw [adapting_after.cur, at_s, lasts.cur, torn.cur]

/-- The lock is back, with fault 0x21. -/
def relocked (lasted : Nat) (s : State) : State :=
  logFault 0x21 1 7 lasted { s with power := { s.power with pllLocked := true } }

theorem effPllRelock_eq {lasted t0} (runs : s.power.boot = .running) (unlocked : s.power.pllLocked = false)
    (kept : s.power.clockLost = false) (awake : s.power.sleep = .awake) (soon : lasted ≤ 1600) :
    effPllRelock lasted t0 s = (List.range 8).foldl (fun s k => pumpPort (2 + k) s) (adapting (relocked lasted) (advance t0 s)) := by
  simp only [effPllRelock, advance_power, runs, unlocked, kept, awake, soon]
  rfl

theorem pllRelock_locks {lasted t0} (runs : s.power.boot = .running) (unlocked : s.power.pllLocked = false)
    (kept : s.power.clockLost = false) (awake : s.power.sleep = .awake) (soon : lasted ≤ 1600) :
    let t := effPllRelock lasted t0 s
    t.power.pllLocked = true ∧ t.fault.code = 0x21 ∧ t.fault.active = s.fault.active ∧ t.mode.cur = s.mode.cur := by
  have steady {u : State} : Steady (relocked lasted u)
      ((List.range 8).foldl (fun s k => pumpPort (2 + k) s) (adapting (relocked lasted) u)) :=
    Steady.foldl (fun _ _ h => pumpPort_steady h) adapting_after
  have logs {u : State} : Logged (relocked lasted u)
      ((List.range 8).foldl (fun s k => pumpPort (2 + k) s) (adapting (relocked lasted) u)) :=
    Logged.foldl (fun _ _ h => pumpPort_logged h) adapting_logs
  have logged {u : State} : OnlyRecords { u with power := { u.power with pllLocked := true } } (relocked lasted u) :=
    logFault_apart OnlyRecords.refl
  rw [effPllRelock_eq runs unlocked kept awake soon]
  refine ⟨?_, ?_, ?_, ?_⟩
  · rw [steady.pllLocked, logged.power]
  · rw [logs.fault]; exact logFault_code
  · rw [logs.fault, relocked, logFault_active, if_neg (by decide), advance_fault]
  · rw [steady.cur, logged.mode, advance_mode]

/-! ## The commands -/

/-- What a loss of the clock leaves of the hub `u`, which differs from `s` in hub time and the crystal at most. -/
theorem lost_of_clockLoss {island detail : Nat} {u : State} (kept : u.power.clockLost = false)
    (own : s.replay.run = false → u.replay.run = false) (mode : modeAfterLoss u = modeAfterLoss s) :
    let t := clockLoss island detail u
    t.power.clockLost = true ∧ t.power.pllLocked = false ∧ t.power.lrDrop1.getLsbD 2 = true ∧ t.fault.code = 0x20 ∧
      faultActive 0x20 t = true ∧ (s.replay.run = false → t.time.run = false) ∧ t.mode.cur = modeAfterLoss s := by
  intro t
  obtain ⟨⟨lost, unlocked, dropped, code, active, stands⟩, cur⟩ :=
    clockLoss_gone (island := island) (detail := detail) kept
  exact ⟨lost, unlocked, dropped, code, active, fun o => (stands (own o)).1, cur.trans mode⟩

/-- Settles O20: the two losses of the clock by `clockLoss_gone`, the PLL by `pllUnlock_unlocks` and `pllRelock_locks`. -/
theorem clockAndPll : Obligations.ClockAndPll := by
  unfold Obligations.ClockAndPll
  refine ⟨fun t0 s runs kept => ⟨fun unlocked phase => ?_, fun works open_ => ?_⟩,
    fun s runs locked => ⟨_, rfl, pllUnlock_unlocks runs locked⟩,
    fun lasted t0 s runs unlocked kept awake soon => ⟨_, rfl, pllRelock_locks runs unlocked kept awake soon⟩⟩
  · have row : effClockLossTimeout t0 s = clockLoss 7 2 (advance t0 s) :=
      if_pos (by simpa [runs, unlocked] using phase)
    exact ⟨_, next_congr row, lost_of_clockLoss (by simp [kept]) advance_own (by simp [modeAfterLoss])⟩
  · have row : effCrystalStop t0 s = clockLoss 6 (1 + 2 * bit (!(advance t0 s).power.pllLocked))
        { advance t0 s with power := { (advance t0 s).power with crystalStopped := true } } :=
      if_pos (by simp [runs, works, open_])
    exact ⟨_, next_congr row, lost_of_clockLoss (by simp [kept]) advance_own (by simp [modeAfterLoss]),
      clockLoss_crystal (by simp [kept])⟩

end Sys2Proof.Proofs.Clock

/-! PROOFS. The queues: dequeue order, host reads and writes, grants and flushes (chapter 11). -/

namespace Sys2Proof.Proofs.Queues

set_option Elab.async false

open Sys2Proof.Machine Sys2Proof.Safety Sys2Proof.Laws Sys2Proof.Proofs.Shared Sys2Proof.Proofs.Window
  Sys2Proof.Proofs.HostAccess

variable {s t : State} {q : Nat} {v : Word}

/-! ## Dequeue order (R250) -/

theorem dropFirst_append {α : Type} {p : α → Bool} {before after : List α} {i : α} (hit : p i = true)
    (miss : ∀ j ∈ before, p j = false) : dropFirst p (before ++ i :: after) = before ++ after := by
  induction before with
  | nil => simp [dropFirst, hit]
  | cons j before ih =>
    have rest := ih (fun k hk => miss k (List.mem_cons_of_mem j hk))
    simp [dropFirst, miss j List.mem_cons_self, rest]

theorem le_foldl_max {l : List Item} {m : Nat} : m ≤ l.foldl (fun m i => max m i.prio.toNat) m ∧
    ∀ j ∈ l, j.prio.toNat ≤ l.foldl (fun m i => max m i.prio.toNat) m := by
  induction l generalizing m with
  | nil => simp
  | cons i l ih =>
    obtain ⟨start, rest⟩ := ih (m := max m i.prio.toNat)
    simp only [List.foldl_cons, List.mem_cons, forall_eq_or_imp]
    exact ⟨by omega, by omega, rest⟩

theorem le_topPrio {l : List Item} {j : Item} (h : j ∈ l) : j.prio.toNat ≤ topPrio l := le_foldl_max.2 j h

/-- Settles O27: `find?` stops at the first item of the highest priority present. -/
theorem dequeueOrder : Obligations.DequeueOrder := by
  intro x i rest taken
  rw [Queue.next] at taken
  by_cases byPrio : x.prio = true
  · rw [if_pos byPrio] at taken
    split at taken
    · cases taken
    · next j found =>
      obtain ⟨rfl, rfl⟩ : _ ∧ _ := by simpa using taken
      obtain ⟨top, before, after, split, below⟩ := List.find?_eq_some_iff_append.mp found
      have highest : j.prio.toNat = topPrio x.items := by simpa using top
      refine ⟨before, after, split, ?_, ?_⟩
      · conv => lhs; rw [split]
        exact dropFirst_append (by rw [← split]; exact top) (fun k hk => by rw [← split]; simpa using below k hk)
      · rw [if_pos byPrio, highest]
        refine ⟨fun k hk => ?_, fun k hk => le_topPrio (by simp [split, hk])⟩
        have lower : k.prio.toNat ≠ topPrio x.items := by simpa using below k hk
        have most : k.prio.toNat ≤ topPrio x.items := le_topPrio (by simp [split, hk])
        omega
  · rw [if_neg byPrio] at taken
    split at taken
    · cases taken
    · next items =>
      obtain ⟨rfl, rfl⟩ : _ ∧ _ := by simpa using taken
      exact ⟨[], _, items, rfl, by rw [if_neg byPrio]⟩

/-! ## Reads of QM_DATA and EVQ_DATA (R139, R252) -/

/-- What a read of queue `q` by the host answers, with the verdicts of its grants left open. -/
theorem gives_readRow {a : Nat} {c : Instr} {f : State → Reply} {t0 : HubTime} {r : Reply} (h : HostServed s)
    (row : exec c s = .next (readRow a f (advance t0 s)))
    (does : ∀ w, ∃ w', f { advance t0 s with verdicts := w } = ⟨r.val, r.adre, { r.s with verdicts := w' }⟩) :
    Gives c s (intoReply r) := by
  obtain ⟨w, granted⟩ := readRow_grants (a := a) (f := f) (hostServed_advance (t0 := t0) h)
  obtain ⟨w', answered⟩ := does w
  exact ⟨w', by rw [row, granted, answered]; rfl⟩

theorem queueOf_advance {t0} : queueOf q (advance t0 s) = queueOf q s := by simp [queueOf]

section Reads

variable {stallOk : Bool} {w : VerdictSt}

theorem readQueue_of_closed (h : qmgrDropped s = true ∨ hostReadable q = false) :
    readQueue q stallOk .ok s = denied s := by
  rw [readQueue, if_pos (by simpa using h)]

theorem readQueue_of_reading {r : ReadItem} (works : qmgrDropped s = false) (readable : hostReadable q = true)
    (reading : (queueOf q s).read = some r) : ∃ w', readQueue q stallOk .ok s =
      answer r.word.1 { modQueue q (fun x => { x with read := r.step, pois := x.pois || r.word.2 }) s with verdicts := w' } := by
  rw [readQueue, if_neg (by simp [works, readable]), if_pos (by simp [reading])]
  simp only [readWord, readEcc, reading]
  exact ⟨_, by rw [grants_eq]⟩

theorem readQueue_of_next {p : Word × Queue} (works : qmgrDropped s = false) (readable : hostReadable q = true)
    (idle : (queueOf q s).read = none) (next : (queueOf q s).dequeueRead = some p) : ∃ w', readQueue q stallOk .ok s =
      answer p.1 { modQueue q (fun _ => p.2) s with verdicts := w' } := by
  rw [readQueue, if_neg (by simp [works, readable]), if_neg (by simp [idle])]
  simp only [next, hostDequeued]
  exact ⟨_, by rw [grants_eq]⟩

theorem readQueue_of_empty (works : qmgrDropped s = false) (readable : hostReadable q = true)
    (idle : (queueOf q s).read = none) (empty : (queueOf q s).dequeueRead = none) : readQueue q stallOk .ok s =
      answer 0x8000 (if stallOk && s.pool.stallTmo != 0 then { s with rein := { s.rein with stall := some (.queue q) } } else s) := by
  rw [readQueue, if_neg (by simp [works, readable]), if_neg (by simp [idle])]
  simp only [empty]
  split <;> rfl

end Reads

/-- Settles O28: `readQueue` has one lemma for each answer, and `gives_readRow` passes it to the next reply. -/
theorem queueReads : Obligations.QueueReads := by
  intro stallOk t0 s h u reads
  have all (c : Instr) (q a : Nat) (f : State → Reply) (row : exec c s = .next (readRow a f u))
      (same : ∀ w, f { u with verdicts := w } = readQueue q stallOk .ok { u with verdicts := w }) : reads c q := by
    have drop {w} : qmgrDropped { u with verdicts := w } = qmgrDropped s := by simp [u, qmgrDropped]
    have queue {w} : queueOf q { u with verdicts := w } = queueOf q s := queueOf_advance
    have tmo {w} : { u with verdicts := w }.pool.stallTmo = s.pool.stallTmo := by simp [u]
    refine ⟨fun closed => gives_readRow h row fun w => ?_, fun works readable => ⟨fun r reading => gives_readRow h row fun w => ?_,
      fun idle p next => gives_readRow h row fun w => ?_, fun idle empty => gives_readRow h row fun w => ?_⟩⟩
    · exact ⟨w, by rw [same, readQueue_of_closed (by rw [drop]; exact closed)]; rfl⟩
    · obtain ⟨w', eq⟩ := readQueue_of_reading (stallOk := stallOk) (drop.trans works) readable
        ((congrArg Queue.read (queue (w := w))).trans reading)
      exact ⟨w', by rw [same, eq]; rfl⟩
    · obtain ⟨w', eq⟩ := readQueue_of_next (stallOk := stallOk) (drop.trans works) readable
        ((congrArg Queue.read (queue (w := w))).trans idle) ((congrArg Queue.dequeueRead queue).trans next)
      exact ⟨w', by rw [same, eq]; rfl⟩
    · refine ⟨w, ?_⟩
      rw [same, readQueue_of_empty (drop.trans works) readable
        ((congrArg Queue.read (queue (w := w))).trans idle) ((congrArg Queue.dequeueRead queue).trans empty), tmo, answer]
      split <;> rfl
  refine ⟨all _ _ 0x48 _ rfl fun w => ?_, all _ _ 0x70 _ rfl fun w => rfl⟩
  simp [u, selQueue]

/-! ## The host's queue writes (R245, R246, R251, R252, R256) -/

/-- `t` has the power and the tap of `u`. -/
structure SameTap (u t : State) : Prop where
  power : t.power = u.power
  tap : t.tap = u.tap

variable {b0 : State}

theorem SameTap.refl : SameTap s s := ⟨rfl, rfl⟩

theorem SameTap.upd (h : SameTap b0 s) (e : SameTap s t := by constructor <;> simp) : SameTap b0 t :=
  ⟨e.power.trans h.power, e.tap.trans h.tap⟩

theorem writeOpen_tap {who bs} (K : SameTap b0 s) : SameTap b0 (writeOpen q who bs s) := by
  unfold writeOpen putCells
  split
  · exact K
  · exact K.upd

theorem serveStall_tap (K : SameTap b0 s) : SameTap b0 (serveStall s) := by
  unfold serveStall hostDequeued
  split
  · split
    · exact K
    · exact K.upd
  · exact K

theorem closeItem_tap {who last kind} (K : SameTap b0 s) : SameTap b0 (closeItem q who last kind s) := by
  have opened := writeOpen_tap (q := q) (who := who) (bs := last) K
  simp only [closeItem]
  split
  · exact opened
  · split
    · exact opened.upd (by constructor <;> simp [countFlushDrop])
    · refine serveStall_tap (opened.upd ?_)
      split <;> constructor <;> simp

theorem takeItem_tap {x} (K : SameTap b0 s) (taken : takeItem q s = some (x, t)) : SameTap b0 t := by
  unfold takeItem at taken
  split at taken
  · cases taken
  · split at taken
    · cases taken
      exact K.upd
    · cases taken

theorem skipBad_tap {n} (K : SameTap b0 s) : SameTap b0 (skipBad n q s) := by
  induction n generalizing s with
  | zero => exact K
  | succ n ih =>
    unfold skipBad
    split
    · exact K
    · next found =>
      split
      · exact ih (takeItem_tap K found)
      · exact K

theorem loadTarget_tap {p} (K : SameTap b0 s) : SameTap b0 (loadTarget p s) := by
  unfold loadTarget takeGood
  split
  · split
    · exact K
    · next found => exact (takeItem_tap (skipBad_tap K) found).upd
  · exact K

theorem closeHost_tap (K : SameTap b0 s) : SameTap b0 (closeHost s) := by
  simp only [closeHost]
  split
  · exact K
  · split
    · exact K
    · split
      · exact K.upd (by constructor <;> simp [abandonItem])
      · split
        · exact loadTarget_tap (closeItem_tap K)
        · exact closeItem_tap K

theorem growHost_tap {p} (K : SameTap b0 s) : SameTap b0 (growHost p v s) := by
  have noted : SameTap b0 { s with pool := { s.pool with enqData := v } } := K.upd ⟨rfl, rfl⟩
  have opened := writeOpen_tap (q := p) (who := .host) (bs := leBytes 2 v.toNat) noted
  exact opened.upd (t := growHost p v s) (by constructor <;> simp [growHost])

theorem qmClose_tap (K : SameTap b0 s) : SameTap b0 (qmClose s) := by
  unfold qmClose
  exact (closeHost_tap K).upd

theorem endRead_tap (K : SameTap b0 s) : SameTap b0 (endRead q s) := by
  unfold endRead
  repeat' split
  all_goals first | exact K | exact K.upd

theorem flushQueue_tap {byHost byOp} (K : SameTap b0 s) : SameTap b0 (flushQueue q byHost byOp s) := by
  have started : SameTap b0 (startFlush q byHost byOp s) := K.upd (by constructor <;> simp [startFlush])
  simp only [flushQueue]
  split
  · unfold settleHold releaseSelect
    split
    · split
      · exact started.upd
      · exact started
    · exact started
  · exact started

/-- A queue to which nothing happens. -/
theorem modQueue_id {f : Queue → Queue} (h : ∀ x, f x = x) : modQueue q f s = s := by
  have same (x : Queue) : x.after (f x) = x := by simp [h, Queue.after]
  have all {n : Nat} {l : List Queue} : modifyNth (fun x => x.after (f x)) n l = l := by
    induction l generalizing n with
    | nil => cases n <;> rfl
    | cons x l ih => cases n with
      | zero => rw [modifyNth, same]
      | succ n => rw [modifyNth, ih]
  simp only [modQueue, all]

/-- CLOSE and DISC are the bits 8 and 9 of QM_STAT; the w1c bits of the word stay 0. -/
theorem qmStatWrite_close (works : qmgrDropped s = false) : qmStatWrite 0x0100 s = wrote (qmClose s) := by
  simp [qmStatWrite, nbit, Nat.testBit_eq_decide_div_mod_eq, works, modQueue_id]

theorem qmStatWrite_disc (works : qmgrDropped s = false) : qmStatWrite 0x0200 s = wrote (endRead (selQueue s) s) := by
  simp [qmStatWrite, nbit, Nat.testBit_eq_decide_div_mod_eq, works, modQueue_id]

section Quiet

variable (h : HostServed s) (quiet : s.tap.recording = false)

include h quiet

theorem enqWrite_closed
    (closed : qmgrDropped s = true ∨ hostWritable (selQueue s) = false ∨ (queueOf (selQueue s) s).doom = true ∨
      (queueOf (selQueue s) s).en = false) : effQmEnqWrite v s = intoReply ⟨v, true, s⟩ := by
  refine (writeRow_quiet h quiet (r := denied s) ?_ rfl rfl)
  rw [enqWrite]
  exact if_pos (by simpa [or_assoc] using closed)

theorem reserve_quiet {n who prio} (works : qmgrDropped s = false) (room : canReserve q n s = true)
    (ring : s.tap.kept = []) : reserve q n who prio s = some (openItem q n who prio s) := by
  rw [reserve, if_pos (by simp [works, room, ring]), grants_quiet]
  · exact h.2
  · exact quiet

/-- With no item open the word opens one, of one cell. -/
theorem enqWrite_opens (works : qmgrDropped s = false) (writable : hostWritable (selQueue s) = true)
    (calm : (queueOf (selQueue s) s).doom = false) (enabled : (queueOf (selQueue s) s).en = true) (none : hostOpen s = none)
    (room : canReserve (selQueue s) 1 s = true) (ring : s.tap.kept = []) :
    effQmEnqWrite v s = intoReply ⟨v, false, growHost (selQueue s) v (openItem (selQueue s) 1 .host s.pool.hpri s)⟩ := by
  have opened : SameTap s (growHost (selQueue s) v (openItem (selQueue s) 1 .host s.pool.hpri s)) :=
    growHost_tap (SameTap.refl.upd (by constructor <;> simp [openItem]))
  refine writeRow_quiet h quiet (r := wrote (growHost (selQueue s) v (openItem (selQueue s) 1 .host s.pool.hpri s))) ?_
    opened.power opened.tap
  rw [enqWrite, if_neg (by simp [works, writable, calm, enabled]), none]
  simp only [reserve_quiet h quiet works room ring]

theorem enqWrite_noSpace (works : qmgrDropped s = false) (writable : hostWritable (selQueue s) = true)
    (calm : (queueOf (selQueue s) s).doom = false) (enabled : (queueOf (selQueue s) s).en = true) (none : hostOpen s = none)
    (full : canReserve (selQueue s) 1 s = false ∨ s.tap.kept ≠ []) :
    effQmEnqWrite v s = intoReply ⟨v, true, modQueue (selQueue s) (fun x => { x with nospace := true }) s⟩ := by
  refine writeRow_quiet h quiet (r := denied (markNoSpace (selQueue s) s)) ?_ rfl rfl
  have refused : reserve (selQueue s) 1 .host s.pool.hpri s = .none := by
    rw [reserve, if_neg]
    rcases full with closed | kept
    · rw [closed]
      exact Bool.false_ne_true
    · rw [List.isEmpty_eq_false_iff.mpr kept, Bool.and_false]
      exact Bool.false_ne_true
  rw [enqWrite, if_neg (by simp [works, writable, calm, enabled]), none]
  simp only [refused]

theorem enqWrite_grows {p : Nat} (works : qmgrDropped s = false) (writable : hostWritable (selQueue s) = true)
    (calm : (queueOf (selQueue s) s).doom = false) (enabled : (queueOf (selQueue s) s).en = true) (open_ : hostOpen s = some p) :
    effQmEnqWrite v s = intoReply ⟨v, false,
      if ((openOf p .host (growHost p v s)).map (fun o => o.bytes.length)).getD 0 ≥ 64 then closeHost (growHost p v s)
      else growHost p v s⟩ := by
  have grown : SameTap s (growHost p v s) := growHost_tap SameTap.refl
  have after : SameTap s (if ((openOf p .host (growHost p v s)).map (fun o => o.bytes.length)).getD 0 ≥ 64
      then closeHost (growHost p v s) else growHost p v s) := by
    split
    · exact closeHost_tap grown
    · exact grown
  refine writeRow_quiet h quiet (r := wrote (if ((openOf p .host (growHost p v s)).map (fun o => o.bytes.length)).getD 0 ≥ 64
    then closeHost (growHost p v s) else growHost p v s)) ?_ after.power after.tap
  rw [enqWrite, if_neg (by simp [works, writable, calm, enabled]), open_]

/-- A selection closes the host's item and takes HPRI, and Q where the queue exists. -/
theorem qmSelWrite_selects :
    let c := closeHost s
    let w := { c with pool := { c.pool with hpri := BitVec.ofNat 3 (v.toNat / 256) } }
    (queueExists (v.toNat % 64) = true → effQmSelWrite v s =
      intoReply ⟨v, false, { w with pool := { w.pool with sel := BitVec.ofNat 6 v.toNat } }⟩) ∧
    (queueExists (v.toNat % 64) = false → effQmSelWrite v s = intoReply ⟨v, true, w⟩) := by
  have closed := closeHost_tap (SameTap.refl (s := s))
  have prio : BitVec.ofNat 3 (field v.toNat 8 3) = BitVec.ofNat 3 (v.toNat / 256) := by
    apply BitVec.eq_of_toNat_eq; simp [field]
  have number : field v.toNat 0 6 = v.toNat % 64 := by simp [field]
  have sel : BitVec.ofNat 6 (v.toNat % 64) = BitVec.ofNat 6 v.toNat := by
    apply BitVec.eq_of_toNat_eq; simp
  intro c w
  refine ⟨fun exists_ => ?_, fun missing => ?_⟩
  · refine writeRow_quiet h quiet (r := wrote { w with pool := { w.pool with sel := BitVec.ofNat 6 v.toNat } }) ?_
      closed.power closed.tap
    simp only [qmSelWrite, number, exists_, if_true, prio, sel, w, c]
  · refine writeRow_quiet h quiet (r := ⟨0, true, w⟩) ?_ closed.power closed.tap
    simp only [qmSelWrite, number, missing, Bool.false_eq_true, if_false, prio, w, c]

end Quiet

/-- Settles O29: each row is its answer by `writeRow_quiet`, and what `enqWrite`, `qmSelWrite`, `qmStatWrite` and `flushWrite`
answer. -/
theorem queueWrites : Obligations.QueueWrites := by
  refine ⟨fun v s h quiet => ⟨fun closed => next_congr (enqWrite_closed h quiet closed), fun works writable calm enabled =>
    ⟨fun none room ring => next_congr (enqWrite_opens h quiet works writable calm enabled none room ring),
     fun none full => next_congr (enqWrite_noSpace h quiet works writable calm enabled none full),
     fun p open_ => next_congr (enqWrite_grows h quiet works writable calm enabled open_)⟩⟩,
    fun v s h quiet => ?_⟩
  obtain ⟨known, unknown⟩ := qmSelWrite_selects (v := v) h quiet
  refine ⟨fun e => next_congr (known e), fun e => next_congr (unknown e), fun works => ⟨next_congr ?_, next_congr ?_,
    fun may => next_congr ?_, fun not => next_congr ?_⟩⟩
  · have closed := qmClose_tap (SameTap.refl (s := s))
    exact writeRow_quiet h quiet (qmStatWrite_close works) closed.power closed.tap
  · have ended := endRead_tap (q := selQueue s) (SameTap.refl (s := s))
    exact writeRow_quiet h quiet (qmStatWrite_disc works) ended.power ended.tap
  · have flushed := flushQueue_tap (q := selQueue s) (byHost := true) (byOp := false) (SameTap.refl (s := s))
    exact writeRow_quiet h quiet (r := wrote (flushQueue (selQueue s) true false s)) (if_neg (by simp [works, may])) flushed.power flushed.tap
  · exact writeRow_quiet h quiet (r := denied s) (if_pos (by simp [not])) rfl rfl

/-! ## Grants and flushes (R249, R256) -/

/-- The first waiting producer that can have its cells, a switch's item or a receiver's, is granted them. -/
theorem grantTo_reserves {q : Nat} {who : Producer} {n : Nat} (works : qmgrDropped s = false) (ring : s.tap.kept = [])
    (drain : who ≠ .drain) (loader : who ≠ .loader) (room : canReserve q n s = true) :
    OnlyRecords s (grantTo (who, q, n) s) ∧
      (grantTo (who, q, n) s).pool.waiting = dropFirst (fun w => w == (who, q, n)) s.pool.waiting ∧
      (grantTo (who, q, n) s).pool.queues = (openItem q n who 0 s).pool.queues := by
  have granted : reserve q n who 0 s = some (grants [(264, !who.isHost), (263, true), (262, false)] (openItem q n who 0 s)) := by
    rw [reserve, if_pos (by simp [works, room, ring])]
  have row : grantTo (who, q, n) s =
      let u := grants [(264, !who.isHost), (263, true), (262, false)] (openItem q n who 0 s)
      { u with pool := { u.pool with waiting := dropFirst (fun w => w == (who, q, n)) u.pool.waiting } } := by
    unfold grantTo
    split
    · next isDrain => exact absurd isDrain drain
    · next isLoader => exact absurd isLoader loader
    · simp only [granted]
  have waiting : (openItem q n who 0 s).pool.waiting = s.pool.waiting := rfl
  rw [row]
  refine ⟨OnlyRecords.upd (grants_apart (openItem_apart OnlyRecords.refl)), ?_, ?_⟩
  · simp only [grants_pool]
    rw [waiting]
  · simp only [grants_pool]

theorem finishFlush_of_idle {f : FlushSt} (idle : opRuns s = false) (flushing : (queueOf q s).flush = some f) :
    finishFlush q s = modQueue q (fun x => { x with flush := none }) s := by
  have still : opRuns (modQueue q (fun x => { x with flush := none }) s) = false := idle
  simp only [finishFlush, flushing]
  split
  · simp [still]
  · rfl

@[simp] theorem after_flush {x y : Queue} : (x.after y).flush = y.flush := by
  unfold Queue.after Queue.mark
  repeat' split
  all_goals rfl

@[simp] theorem after_opens {x y : Queue} : (x.after y).opens = y.opens := by
  unfold Queue.after Queue.mark
  repeat' split
  all_goals rfl

@[simp] theorem after_doom {x y : Queue} : (x.after y).doom = y.doom := by
  unfold Queue.after Queue.mark
  repeat' split
  all_goals rfl

/-- The queue whose open item of the host the hub has ended, and counted in its flush. -/
def endHost (x : Queue) : Queue :=
  let y := (x.unopen .host).flushDropped
  { y with flush := y.flush.map (fun f => { f with aborted := true }) }

theorem endHost_flush {x : Queue} : (endHost x).flush.isSome = x.flush.isSome := by
  simp [endHost, Queue.flushDropped, Queue.unopen]

theorem endHost_opens {x : Queue} {o : OpenItem} (one : x.opens = [o]) (host : o.who = .host) : (endHost x).opens = [] := by
  simp [endHost, Queue.flushDropped, Queue.unopen, one, dropFirst, host]

/-- The host's doomed item, the only one open, is ended, and so is the flush (R256). -/
theorem flushAbort_dooms {q : Nat} {o : OpenItem} (here : q < s.pool.queues.length) (flushing : (queueOf q s).flush.isSome = true)
    (one : (queueOf q s).opens = [o]) (host : o.who = .host) (idle : opRuns s = false) :
    let t := finishFlush q (abortDoomed q .host s)
    OnlyRecords s t ∧ (queueOf q t).opens = [] ∧ (queueOf q t).doom = true ∧ (queueOf q t).flush = none ∧
      t.pool.flushDrop = BitVec.ofNat 16 (min 0xFFFF (s.pool.flushDrop.toNat + 1)) := by
  intro t
  let dropped := countFlushDrop (modQueue q endHost s)
  let ended := modQueue q (fun x => { x with doom := true }) dropped
  have many : q < dropped.pool.queues.length := by simpa [dropped, countFlushDrop, modQueue] using here
  have first : queueOf q dropped = (queueOf q s).after (endHost (queueOf q s)) := queueOf_modQueue here
  have second : queueOf q ended = (queueOf q dropped).after { queueOf q dropped with doom := true } := queueOf_modQueue many
  obtain ⟨f, running⟩ : ∃ f, (queueOf q ended).flush = some f := by
    rw [← Option.isSome_iff_exists, second, after_flush, first, after_flush, endHost_flush]
    exact flushing
  have row : t = modQueue q (fun x => { x with flush := none }) ended := finishFlush_of_idle idle running
  have last : queueOf q t = (queueOf q ended).after { queueOf q ended with flush := none } := by
    rw [row]
    exact queueOf_modQueue (by simpa [ended, modQueue] using many)
  refine ⟨?_, ?_, ?_, ?_, ?_⟩
  · rw [row]
    exact modQueue_apart (modQueue_apart (countFlushDrop_apart (modQueue_apart OnlyRecords.refl)))
  · rw [last, after_opens, second, after_opens, first, after_opens]
    exact endHost_opens one host
  · rw [last, after_doom, second, after_doom]
  · rw [last, after_flush]
  · rw [row]
    rfl

/-- Settles O30. -/
theorem grantsAndFlushes : Obligations.GrantsAndFlushes := by
  refine ⟨fun q who n s works ring drain loader first => ?_, fun q s done idle => ?_, fun q o s flushing one host doomed idle many => ?_⟩
  · refine ⟨effReservationGrant q s, rfl, ?_⟩
    have room : canReserve q.val n s = true := by
      have fits := List.find?_some first
      simpa using fits
    simp only [effReservationGrant, first, works, Bool.false_eq_true, if_false]
    exact grantTo_reserves works ring drain loader room
  · obtain ⟨f, running⟩ : ∃ f, (queueOf q.val s).flush = some f := by
      rw [← Option.isSome_iff_exists]
      simp only [Queue.flushDone, Bool.and_eq_true] at done
      exact done.1
    exact next_congr ((if_pos done).trans (finishFlush_of_idle idle running))
  · refine ⟨effFlushAbortTimeout q s, rfl, ?_⟩
    have row : effFlushAbortTimeout q s = finishFlush q.val (abortDoomed q.val .host s) := by
      simp [effFlushAbortTimeout, flushing, one, doomed, host]
    rw [row]
    exact flushAbort_dooms (by omega) flushing one host idle

end Sys2Proof.Proofs.Queues

/-! PROOFS. The Rein frame, the register file and the reads that latch or wait (chapters 06 and 07). -/

namespace Sys2Proof.Proofs.Registers

set_option Elab.async false

open Sys2Proof.Machine Sys2Proof.Safety Sys2Proof.Laws Sys2Proof.Proofs.Shared Sys2Proof.Proofs.Window
  Sys2Proof.Proofs.HostAccess

variable {s : State} {v : Word} {t0 : HubTime}

/-! ## Register writes (R8, R138, R156) -/

/-- A served write of register `a`: its answer finds the hub of its time, with the verdicts of its grants. -/
theorem registerWrite_writes {a : BitVec 7} {r : State → Prop} (h : HostServed s) (data : a.toNat ≠ 0x16)
    (auth : a.toNat ≠ 0x20)
    (does : ∀ w, r (goodWrite a.toNat v (writeReg a.toNat v { advance t0 s with verdicts := w }))) :
    ∃ t, exec (.registerWrite a v t0) s = .next t ∧ r t := by
  obtain ⟨w, granted⟩ := hostAt_grants (s := advance t0 s) (ps := groupPoint a.toNat)
  exact ⟨_, exec_registerWrite_of_served h data auth, by rw [granted]; exact does w⟩

/-- The scratch words stand at 0x78 to 0x7F. -/
theorem writeReg_scratch {k : Nat} : writeReg (0x78 + k) v s =
    wrote { s with attn := { s.attn with scratch := s.attn.scratch.set k v } } := by
  have high : ∀ n, n < 0x78 → ¬ 0x78 + k < n := by omega
  simp only [writeReg, writeOtherReg, high, Nat.reduceLT, if_false, Nat.le_add_right, if_true, Nat.add_sub_cancel_left]

/-- No register stands at 0x2B to 0x2F, 0x5D to 0x5F and 0x74 to 0x77 (Table 07-3). -/
theorem writeReg_unassigned {n : Nat} (h : (0x2B ≤ n ∧ n ≤ 0x2F) ∨ (0x5D ≤ n ∧ n ≤ 0x5F) ∨ (0x74 ≤ n ∧ n ≤ 0x77)) :
    writeReg n v s = denied s := by
  obtain ⟨least, most⟩ | ⟨least, most⟩ | ⟨least, most⟩ := h
  · obtain rfl | rfl | rfl | rfl | rfl : n = 0x2B ∨ n = 0x2C ∨ n = 0x2D ∨ n = 0x2E ∨ n = 0x2F := by omega
    all_goals rfl
  · obtain rfl | rfl | rfl : n = 0x5D ∨ n = 0x5E ∨ n = 0x5F := by omega
    all_goals rfl
  · obtain rfl | rfl | rfl | rfl : n = 0x74 ∨ n = 0x75 ∨ n = 0x76 ∨ n = 0x77 := by omega
    all_goals rfl

theorem goodWrite_wrote {a : Nat} {x u : State} (K : OnlyRecords x u) : OnlyRecords x (goodWrite a v (wrote u)) :=
  goodWrite_apart (wrote_apart K)

theorem goodWrite_denied_adre {a : Nat} {w : VerdictSt} (boot : s.power.boot ≠ .held) (free : s.rein.stall = none) :
    (goodWrite a v (denied { s with verdicts := w })).rein.adre = true := by
  rw [goodWrite_rein (r := denied { s with verdicts := w }) boot free]
  rfl

/-- Without a record a refused write changes the Rein port only. -/
theorem goodWrite_denied {a : Nat} {w : VerdictSt} (boot : s.power.boot ≠ .held) (quiet : s.tap.recording = false) :
    let t := goodWrite a v (denied { s with verdicts := w })
    t.attn = s.attn ∧ t.op = s.op ∧ t.pool = s.pool := by
  intro t
  have row : t = intoReply ⟨v, true, { s with verdicts := w }⟩ :=
    goodWrite_quiet (r := denied { s with verdicts := w }) boot quiet
  rw [row]
  exact ⟨rfl, rfl, rfl⟩

/-- Settles O24: each register's answer is `writeReg`'s, and `goodWrite` adds records only. -/
theorem registerWrites : Obligations.RegisterWrites := by
  intro v t0 s h u writes
  have at_ (w) : OnlyRecords u { u with verdicts := w } := OnlyRecords.upd OnlyRecords.refl
  have traced {a : Nat} {x : State} : Traced x (goodWrite a v (wrote x)) := goodWrite_traced Traced.refl
  refine ⟨fun k hk => ?_, ?_, ?_, ?_, ?_, ?_, ?_, ?_, fun a unassigned => ?_⟩
  · have number : (BitVec.ofNat 7 (0x78 + k)).toNat = 0x78 + k := by simp; omega
    refine registerWrite_writes h (by omega) (by omega) fun w => ?_
    rw [number, writeReg_scratch]
    refine ⟨goodWrite_wrote (OnlyRecords.upd (at_ w)), ?_⟩
    rw [traced.scratch]
    exact congrArg (fun x : AttnSt => x.scratch.set k v) advance_attn
  · exact registerWrite_writes h (by decide) (by decide) fun w => ⟨goodWrite_wrote (OnlyRecords.upd (at_ w)), traced.mask⟩
  · exact registerWrite_writes h (by decide) (by decide) fun w => ⟨goodWrite_wrote (OnlyRecords.upd (at_ w)), traced.arg0⟩
  · exact registerWrite_writes h (by decide) (by decide) fun w => ⟨goodWrite_wrote (OnlyRecords.upd (at_ w)), traced.arg1⟩
  · exact registerWrite_writes h (by decide) (by decide) fun w => ⟨goodWrite_wrote (OnlyRecords.upd (at_ w)), traced.arg2⟩
  · exact registerWrite_writes h (by decide) (by decide) fun w => ⟨goodWrite_wrote (OnlyRecords.upd (at_ w)), traced.arg3⟩
  · exact registerWrite_writes h (by decide) (by decide) fun w => goodWrite_wrote (OnlyRecords.upd OnlyRecords.refl)
  · refine registerWrite_writes h (by decide) (by decide) fun w => goodWrite_apart ?_
    change OnlyRecords _ (if v.toNat < 25 then denied { u with verdicts := w }
      else wrote { u with verdicts := w, time := { u.time with period := v } }).s
    split
    · exact denied_apart (at_ w)
    · exact wrote_apart (OnlyRecords.upd OnlyRecords.refl)
  · have number : (0x2B ≤ a.toNat ∧ a.toNat ≤ 0x2F) ∨ (0x5D ≤ a.toNat ∧ a.toNat ≤ 0x5F) ∨
        (0x74 ≤ a.toNat ∧ a.toNat ≤ 0x77) := by
      simpa [BitVec.le_def] using unassigned
    have boot : u.power.boot ≠ .held := boot_of_hostServed (hostServed_advance h)
    refine registerWrite_writes h (by omega) (by omega) fun w => ?_
    rw [writeReg_unassigned number]
    refine ⟨goodWrite_apart (denied_apart (at_ w)), ?_, fun quiet => ?_⟩
    · exact goodWrite_denied_adre boot (stall_of_hostServed (hostServed_advance h))
    · exact goodWrite_denied boot (by rw [advance_tap]; exact quiet)

/-! ## Reads that latch, and reads that wait (R97, R132, R133, R139, R152) -/

theorem gives_latchingRead {r : LatchReg} {reply : Reply} (h : HostServed s)
    (does : ∀ w, readReg (latchAddr r) false .ok { advance t0 s with verdicts := w } =
      ⟨reply.val, reply.adre, { reply.s with verdicts := w }⟩) :
    Gives (.latchingRead r t0) s (intoReply reply) := by
  obtain ⟨w, granted⟩ := hostAt_grants (s := advance t0 s) (ps := groupPoint (latchAddr r))
  have direct : latchAddr r ≠ 0x16 := by cases r <;> decide
  refine ⟨w, next_congr ?_⟩
  rw [effLatchingRead, if_pos (hostServed_advance h).1, hostRead, if_neg direct, granted, does]
  rfl

theorem latchingReads (h : HostServed s) :
    let u := advance t0 s
    let now := (hubNow u).toNat
    Gives (.latchingRead .snapEpochHi t0) s { u with
      snap := { u.snap with epochLatch := BitVec.ofNat 16 u.snap.epoch.toNat }
      rein := { u.rein with res := BitVec.ofNat 16 (u.snap.epoch.toNat / 65536), adre := false } } ∧
    Gives (.latchingRead .htHi t0) s { u with
      time := { u.time with midLatch := BitVec.ofNat 16 (now / 65536), loLatch := BitVec.ofNat 16 now }
      rein := { u.rein with res := BitVec.ofNat 16 (now / 2 ^ 32), adre := false } } ∧
    Gives (.latchingRead .rplDivHi t0) s { u with
      replay := { u.replay with divLatch := BitVec.ofNat 16 u.replay.divEpoch.toNat }
      rein := { u.rein with res := BitVec.ofNat 16 (u.replay.divEpoch.toNat / 65536), adre := false } } := by
  intro u now
  have own : u.replay.run = false := (hostServed_advance h).2
  have serves {a : Nat} {x : State} (e : x.replay.run = false) : ¬ ((x.replay.run && dequeues a) = true) := by simp [e]
  refine ⟨gives_latchingRead (reply := readEpochHi u) h fun w => ?_,
    gives_latchingRead (reply := readHubTime u) h fun w => ?_,
    gives_latchingRead (reply := readDivHi u) h fun w => ?_⟩
  · exact (if_neg (serves own)).trans rfl
  · exact (if_neg (serves own)).trans rfl
  · exact (if_neg (serves own)).trans rfl

theorem slowRead_tack {w : Long} (waits : s.rein.slowPending = some w) (least : 0x100000 ≤ w.toNat)
    (most : w.toNat < 0x120000) (apart : jobCovers (w.toNat - 0x100000) s = false) :
    Gives (.slowReadComplete .ok) s { s with rein := { s.rein with
      slowPending := none, adre := false
      res := BitVec.ofNat 16 ((tackShown (w.toNat - 0x100000) s).toNat
        + 256 * (tackShown (w.toNat - 0x100000 + 1) s).toNat) } } := by
  have store : windowFlash w.toNat = none := if_neg (by omega)
  refine ⟨(grant 40 true s).verdicts, next_congr ?_⟩
  have outside : jobCovers (w.toNat - 0x100000) (grant 40 true s) = false := by
    rw [← apart]; simp only [jobCovers, grant_tack]
  have shown {o} : tackShown o (grant 40 true s) = tackShown o s := by
    simp only [tackShown, grant_tack]
  simp only [effSlowReadComplete, waits, store, tackRead, tackWordAt, outside, Bool.false_eq_true, if_false, shown, endSlow,
    grant_rein, Bool.or_false]
  rw [grant_eq]

theorem slowRead_flash {w : Long} {ecc : Ecc} {bs : List Byte} (waits : s.rein.slowPending = some w)
    (least : 0x10000000 ≤ w.toNat) (most : w.toNat < 0x11000000)
    (cached : cachedLine (lineOf (w.toNat - 0x10000000)) s = some bs) :
    (effSlowReadComplete ecc s).rein = { s.rein with
      slowPending := none, adre := false
      res := BitVec.ofNat 16 ((bs.getD (w.toNat % 32) 0).toNat + 256 * (bs.getD (w.toNat % 32 + 1) 0).toNat) } := by
  have flash : windowFlash w.toNat = some (w.toNat - 0x10000000) := if_pos ⟨least, most⟩
  have place : (w.toNat - 0x10000000) % 32 = w.toNat % 32 := by omega
  simp [effSlowReadComplete, waits, flash, readCached, cached, endSlow, place]

/-- Settles O26. -/
theorem readCommands : Obligations.ReadCommands := by
  refine ⟨fun t0 s h => latchingReads h, fun w s waits least most apart => slowRead_tack waits least most apart,
    fun w ecc s waits least most bs cached => ⟨_, rfl, slowRead_flash waits least most cached⟩,
    fun w s waits => next_congr ?_, fun q s stalled => ?_⟩
  · rw [effSlowReadTimeout, if_pos (by simp [waits]), endSlow, Bool.or_true]
  · let answered := { s with rein := { s.rein with stall := none, res := 0x8000, adre := false } }
    exact ⟨(grant 43 true answered).verdicts, next_congr ((if_pos (by simp [stalled])).trans (grant_eq (s := answered)))⟩

end Sys2Proof.Proofs.Registers

/-! PROOFS. The Rein frame: what the hub sends, and what a checked frame does (chapter 06, R120 to R128, R131). -/

namespace Sys2Proof.Proofs.Frames

set_option Elab.async false

open Sys2Proof.Machine Sys2Proof.Safety Sys2Proof.Laws Sys2Proof.Proofs.Shared Sys2Proof.Proofs.Window
  Sys2Proof.Proofs.HostAccess Sys2Proof.Proofs.Registers

variable {s u : State} {bytes : List Byte} {edges : Nat} {gap : CsGap} {ecc : Ecc} {t0 : HubTime} {w : VerdictSt}

/-! ## The reply -/

/-- The Rein port after a genuine reply in a frame of `edges` clock edges (R126, R127). -/
def replied (edges : Nat) (u : State) : ReinSt :=
  { u.rein with
    miso := some (sentBytes edges (genuineReply u)), dalv := u.rein.dalv + 1, rptOld := u.rein.rptNew, rptNew := u.rein.res
    crce := false, alve := false, adre := false, lene := false }

theorem genuineReply_verdicts : genuineReply { u with verdicts := w } = genuineReply u := by
  rfl

theorem sendReply_eq : sendReply edges { u with verdicts := w } = { u with rein := replied edges u, verdicts := w } := by
  rw [sendReply, genuineReply_verdicts]
  rfl

/-- A frame that the hub answers is received after its reply. -/
theorem effReinFrame_of_answered (clocked : edges ≠ 0) (drives : reinSilent (advance t0 s) = false)
    (ready : reinBusy gap (advance t0 s) = false) :
    ∃ w, hostAt [40, 41, 42, 43] (advance t0 s) = { advance t0 s with verdicts := w } ∧
      effReinFrame bytes edges gap ecc t0 s =
        receiveFrame bytes edges ecc { advance t0 s with rein := replied edges (advance t0 s), verdicts := w } := by
  obtain ⟨w, granted⟩ := hostAt_grants (s := advance t0 s) (ps := [40, 41, 42, 43])
  refine ⟨w, granted, ?_⟩
  rw [effReinFrame, if_neg clocked, if_neg (ne_true_of_eq_false drives), if_neg (ne_true_of_eq_false ready), granted,
    sendReply_eq]

/-! ## The checks on a frame (R122, R124) -/

/-- The alive counter of a frame. -/
def frameAlv (bytes : List Byte) : BitVec 4 := BitVec.ofNat 4 ((bytes.getD 3 0).toNat / 16)

theorem receiveFrame_wrongLength (short : edges ≠ 40) :
    receiveFrame bytes edges ecc u = { u with rein := { u.rein with lene := true } } := by
  rw [receiveFrame, if_pos short]

theorem receiveFrame_wrongCrc (wrong : crc8 (bytes.take 4) ≠ bytes.getD 4 0) :
    receiveFrame bytes 40 ecc u = { u with rein := { u.rein with crce := true, expAlv := u.rein.expAlv + 1 } } := by
  rw [receiveFrame, if_neg (Classical.not_not.mpr rfl), if_pos wrong]

theorem receiveFrame_wrongAlv (right : crc8 (bytes.take 4) = bytes.getD 4 0) (known : u.rein.anyAlv = false)
    (wrong : frameAlv bytes ≠ u.rein.expAlv) : receiveFrame bytes 40 ecc u =
      { u with rein := { u.rein with expAlv := frameAlv bytes + 1, anyAlv := false, alve := true } } := by
  rw [receiveFrame, if_neg (Classical.not_not.mpr rfl), if_neg (Classical.not_not.mpr right)]
  exact if_pos ⟨known, wrong⟩

theorem receiveFrame_good (right : crc8 (bytes.take 4) = bytes.getD 4 0)
    (alive : u.rein.anyAlv = true ∨ frameAlv bytes = u.rein.expAlv) : receiveFrame bytes 40 ecc u =
      goodFrame bytes ecc { u with rein := { u.rein with expAlv := frameAlv bytes + 1, anyAlv := false } } := by
  rw [receiveFrame, if_neg (Classical.not_not.mpr rfl), if_neg (Classical.not_not.mpr right)]
  refine if_neg ?_
  rintro ⟨known, wrong⟩
  exact alive.elim (by simp [known]) wrong

/-! ## A good frame that writes a scratch register -/

/-- The 16 data bits of a frame. -/
def frameData (bytes : List Byte) : Word := BitVec.ofNat 16 ((bytes.getD 1 0).toNat * 256 + (bytes.getD 2 0).toNat)

/-- The present host may write a scratch register in a replay too (R380a). -/
theorem hostWriteReg_scratch {v : Word} {k : Nat} : ∃ l, hostWriteReg (0x78 + k) v u =
    wrote { hostAt l u with attn := { (hostAt l u).attn with scratch := (hostAt l u).attn.scratch.set k v } } := by
  have allowed : replayAllows (0x78 + k) v = true := by simp [replayAllows]
  refine ⟨_, (if_neg (by simp [allowed])).trans writeReg_scratch⟩

theorem hostAt_still {l : List Nat} (quiet : u.tap.recording = false) : hostAt l u = u := by
  by_cases own : u.replay.run = true
  · rw [hostAt, if_pos own]
  · exact hostAt_quiet (by simpa using own) quiet

theorem goodFrame_scratch {k : Nat} (hk : k < 8) (first : (bytes.getD 0 0).toNat = 0xF8 + k) (live : u.power.boot ≠ .held)
    (quiet : u.tap.recording = false) : goodFrame bytes ecc u =
      { u with
        rein := { u.rein with res := frameData bytes, adre := false }
        attn := { u.attn with scratch := u.attn.scratch.set k (frameData bytes) } } := by
  obtain ⟨l, wrote_⟩ := hostWriteReg_scratch (v := frameData bytes) (k := k) (u := u)
  rw [hostAt_still quiet] at wrote_
  have address : (bytes.getD 0 0).toNat % 128 = 0x78 + k := by omega
  have write : ¬ (bytes.getD 0 0).toNat < 128 := by omega
  have window : ¬ 0x78 + k = 0x16 := by omega
  have recorded : unrecorded (0x78 + k) (hostWriteReg (0x78 + k) (frameData bytes) u) = false := by
    simp [unrecorded]; omega
  calc goodFrame bytes ecc u
    _ = hostWrite (0x78 + k) (frameData bytes) u := by
      rw [goodFrame, if_neg write, address]; rfl
    _ = goodWrite (0x78 + k) (frameData bytes) (hostWriteReg (0x78 + k) (frameData bytes) u) :=
      (if_neg window).trans (if_neg (ne_true_of_eq_false recorded))
    _ = _ := by
      rw [wrote_, goodWrite_quiet (r := wrote { u with
        attn := { u.attn with scratch := u.attn.scratch.set k (frameData bytes) } }) live quiet]
      rfl

/-- A good scratch frame that the hub answers: the reply first, then the write. -/
theorem answered_scratch {k : Nat} (hk : k < 8) (first : (bytes.getD 0 0).toNat = 0xF8 + k)
    (right : crc8 (bytes.take 4) = bytes.getD 4 0) (alive : u.rein.anyAlv = true ∨ frameAlv bytes = u.rein.expAlv)
    (live : u.power.boot ≠ .held) (quiet : u.tap.recording = false) :
    receiveFrame bytes 40 ecc { u with rein := replied 40 u, verdicts := u.verdicts } =
      { u with
        rein := { replied 40 u with
          expAlv := frameAlv bytes + 1, anyAlv := false, res := frameData bytes, adre := false }
        attn := { u.attn with scratch := u.attn.scratch.set k (frameData bytes) } } := by
  rw [receiveFrame_good right (by exact alive)]
  exact goodFrame_scratch hk first live quiet

/-- Settles O23: what the hub sends by `effReinFrame`'s branches, and what a frame does by `receiveFrame`'s. -/
theorem reinFrames : Obligations.ReinFrames := by
  unfold Obligations.ReinFrames
  refine ⟨fun bytes edges gap ecc t0 s => ⟨fun none => next_congr ?_, fun clocked silent => next_congr ?_,
    fun clocked drives busy => next_congr ?_, fun clocked drives ready short => ?_⟩,
    fun bytes gap ecc t0 s drives ready => ⟨fun wrong => ?_, fun right known wrong => ?_⟩,
    fun bytes gap ecc t0 s k hk first right alive drives ready quiet => next_congr ?_⟩
  · exact if_pos none
  · exact (if_neg clocked).trans (if_pos silent)
  · exact (if_neg clocked).trans ((if_neg (ne_true_of_eq_false drives)).trans (if_pos busy))
  · obtain ⟨w, -, row⟩ := effReinFrame_of_answered (bytes := bytes) (ecc := ecc) clocked drives ready
    exact ⟨w, next_congr (row.trans (receiveFrame_wrongLength short))⟩
  · obtain ⟨w, -, row⟩ := effReinFrame_of_answered (bytes := bytes) (ecc := ecc) (edges := 40) (by decide) drives ready
    exact ⟨w, next_congr (row.trans (receiveFrame_wrongCrc wrong))⟩
  · obtain ⟨w, -, row⟩ := effReinFrame_of_answered (bytes := bytes) (ecc := ecc) (edges := 40) (by decide) drives ready
    exact ⟨w, next_congr (row.trans (receiveFrame_wrongAlv right known wrong))⟩
  · obtain ⟨w, granted, row⟩ := effReinFrame_of_answered (bytes := bytes) (ecc := ecc) (edges := 40) (by decide) drives ready
    have live : (advance t0 s).power.boot ≠ .held := by
      intro held
      rw [reinSilent, held] at drives
      simp at drives
    have still : (advance t0 s).tap.recording = false := by rw [advance_tap]; exact quiet
    obtain rfl : w = (advance t0 s).verdicts := by
      rw [hostAt_still still] at granted
      exact (congrArg State.verdicts granted).symm
    exact row.trans (answered_scratch hk first right alive live still)

end Sys2Proof.Proofs.Frames

/-! PROOFS. The pins: writes of PM_PIN, taken and refused (chapter 02, R31, R34, R35). -/

namespace Sys2Proof.Proofs.Pins

set_option Elab.async false

open Sys2Proof.Machine Sys2Proof.Safety Sys2Proof.Laws Sys2Proof.Proofs.Shared Sys2Proof.Proofs.Window
  Sys2Proof.Proofs.HostAccess

variable {s x : State} {i : Nat} {v : Word} {w : VerdictSt} {a : Nat} {f : State → Reply}

/-! ## A served write through the window -/

theorem stall_winDone {r : Reply} : (winDone a r).s.rein.stall = r.s.rein.stall := by
  unfold winDone; split <;> rfl

theorem boot_winDone {r : Reply} : (winDone a r).s.power = r.s.power := by
  unfold winDone; split <;> rfl

theorem adre_winDone {r : Reply} : (winDone a r).adre = r.adre := by
  unfold winDone; split <;> rfl

/-- A served window write whose answer changes records of `x` only, and no stalled read. -/
theorem winWriteRow_apart (h : HostServed s) (writable : winWritable a s = true) (boot : x.power.boot = s.power.boot)
    (does : ∀ w, OnlyRecords x (f { s with verdicts := w }).s) (free : ∀ w, (f { s with verdicts := w }).s.rein.stall = none) :
    ∃ w, OnlyRecords x (winWriteRow a v f s) ∧ (winWriteRow a v f s).rein.adre = (f { s with verdicts := w }).adre := by
  obtain ⟨w, granted⟩ := hostAt_grants (s := s) (ps := 20 :: windowPoint a)
  have row : winWriteRow a v f s = goodWinWrite a v (winDone a (f { s with verdicts := w })) := by
    rw [winWriteRow, if_pos h.1, if_pos writable, granted]
  have live : (winDone a (f { s with verdicts := w })).s.power.boot ≠ .held := by
    rw [boot_winDone, (does w).power, boot]
    exact boot_of_hostServed h
  refine ⟨w, ?_, ?_⟩
  · rw [row]
    exact goodWinWrite_apart (winDone_apart (does w))
  · rw [row, goodWinWrite_rein live (stall_winDone.trans (free w))]
    exact adre_winDone

/-! ## What a PM_PIN write does -/

theorem func_of_word : BitVec.ofNat 4 (field v.toNat 0 4) = BitVec.ofNat 4 v.toNat := by
  apply BitVec.eq_of_toNat_eq
  simp [field]

/-- The pads and the function of a taken write (R31). -/
def takenPin (v : Word) (p : PinSt) : PinSt := ((p.setPads v).setFunc (BitVec.ofNat 4 v.toNat)).drive

theorem pmPinWrite_taken (takes : pinRefusal i v s = none) : OnlyRecords (modPin i (takenPin v) s) (pmPinWrite i v s).s := by
  simp only [pmPinWrite, takes, func_of_word]
  exact OnlyRecords.ite (grant_apart OnlyRecords.refl) OnlyRecords.refl

/-- What a refusal leaves to be applied: OUT under the lock, the pads with a reserved code (R34, R35). -/
def refusedPin (i why : Nat) (v : Word) (s : State) : State :=
  if why = 1 then modPin i (fun p => { p with out := v.getLsbD 6 }.drive) s
  else if why = 3 then modPin i (fun p => (p.setPads v).drive) s else s

theorem pmPinWrite_refused {why : Nat} (refuses : pinRefusal i v s = some why) :
    pmPinWrite i v s = ⟨0, true, refusedPin i why v (recordPinRefusal i why s)⟩ := by
  simp only [pmPinWrite, refuses, refusedPin]
  split
  · rfl
  split <;> rfl

theorem pmPinWrite_rein : (pmPinWrite i v s).s.rein = s.rein := by
  cases refuses : pinRefusal i v s with
  | none =>
    simp only [pmPinWrite, refuses]
    split
    · exact grant_rein
    · rfl
  | some why =>
    rw [pmPinWrite_refused refuses, refusedPin]
    split
    · rfl
    split <;> rfl

theorem refusedPin_verdicts {why : Nat} : refusedPin i why v (recordPinRefusal i why { s with verdicts := w }) =
    { refusedPin i why v (recordPinRefusal i why s) with verdicts := w } := by
  unfold refusedPin
  split
  · rfl
  split <;> rfl

theorem refusedPin_power {why : Nat} : (refusedPin i why v (recordPinRefusal i why s)).power = s.power := by
  unfold refusedPin
  split
  · rfl
  split <;> rfl

theorem winWritable_pin {i : Fin 59} (h : HostServed s) : winWritable (0x1100 + 2 * i.val) s = true := by
  have inRange : 0x1000 ≤ 0x1100 + 2 * i.val ∧ 0x1100 + 2 * i.val < 0x1200 := by omega
  rw [winWritable, if_neg (ne_true_of_eq_false h.2), if_pos inRange]

theorem pmPinWrite_takes {i : Fin 59} (h : HostServed s) (takes : pinRefusal i v s = none) :
    ∃ t, exec (.pmPinWrite i v) s = .next t ∧ OnlyRecords (modPin i (takenPin v) s) t := by
  obtain ⟨w, apart, -⟩ := winWriteRow_apart (v := v) (f := pmPinWrite i v) (x := modPin i (takenPin v) s) h (winWritable_pin h)
    rfl (fun w => Laws.OnlyRecords.trans (OnlyRecords.upd OnlyRecords.refl)
      (pmPinWrite_taken (s := { s with verdicts := w }) takes)) (fun w => by
        rw [pmPinWrite_rein]; exact stall_of_hostServed h)
  exact ⟨_, rfl, apart⟩

theorem pmPinWrite_refuses {i : Fin 59} {why : Nat} (h : HostServed s) (refuses : pinRefusal i v s = some why) :
    ∃ t, exec (.pmPinWrite i v) s = .next t ∧ OnlyRecords (refusedPin i why v (recordPinRefusal i why s)) t ∧
      t.rein.adre = true := by
  have answer (w : VerdictSt) : pmPinWrite i v { s with verdicts := w } =
      ⟨0, true, { refusedPin i why v (recordPinRefusal i why s) with verdicts := w }⟩ := by
    rw [pmPinWrite_refused (s := { s with verdicts := w }) refuses, refusedPin_verdicts]
  obtain ⟨w, apart, adre⟩ := winWriteRow_apart (v := v) (f := pmPinWrite i v)
    (x := refusedPin i why v (recordPinRefusal i why s)) h (winWritable_pin h) (congrArg PowerSt.boot refusedPin_power)
    (fun w => by rw [answer]; exact OnlyRecords.upd OnlyRecords.refl) (fun w => by
      rw [pmPinWrite_rein]; exact stall_of_hostServed h)
  exact ⟨_, rfl, apart, adre.trans (by rw [answer])⟩

/-! ## Why a PM_PIN write is refused (R34) -/

theorem field_func : field v.toNat 0 4 = v.toNat % 16 := by simp [field]

theorem pinRefusal_locked (lock : s.pins.lock = true)
    (change : v.toNat % 16 ≠ (pinOf i s).func.toNat ∨ v.getLsbD 8 ≠ (pinOf i s).drv) : pinRefusal i v s = some 1 := by
  refine if_pos ?_
  rw [lock, field_func]
  rcases change with func | drv
  · simp [func]
  · have differs : nbit v.toNat 8 ≠ (pinOf i s).drv := drv
    simp [differs]

theorem pinRefusal_reserved (open_ : s.pins.lock = false) (reserved : pinAllows i (v.toNat % 16) = false) :
    pinRefusal i v s = some 3 := by
  refine (if_neg (by simp [open_])).trans (if_pos ?_)
  rw [field_func, reserved]
  rfl

/-- Settles O32: a taken write by `pmPinWrite_takes`, a refused one by `pmPinWrite_refuses`. -/
theorem pinWrites : Obligations.PinWrites := by
  refine ⟨fun i v s served => ?_, fun i v s => ⟨pinRefusal_reserved, fun lock func => pinRefusal_locked lock (.inl func),
    fun lock _ drv => pinRefusal_locked lock (.inr drv)⟩⟩
  cases outcome : pinRefusal i.val v s with
  | none => exact pmPinWrite_takes served outcome
  | some why =>
    obtain ⟨t, row, apart, adre⟩ := pmPinWrite_refuses served outcome
    exact ⟨t, row, apart, fun _ => adre⟩

end Sys2Proof.Proofs.Pins

/-! PROOFS. Authenticated commands: how one is taken, refused and decided (chapter 08, R165 to R175). -/

namespace Sys2Proof.Proofs.Auth

set_option Elab.async false

open Sys2Proof.Machine Sys2Proof.Safety Sys2Proof.Laws Sys2Proof.Proofs.Shared Sys2Proof.Proofs.Window
  Sys2Proof.Proofs.HostAccess Sys2Proof.Proofs.Grants Sys2Proof.Proofs.Frame Sys2Proof.Proofs.Endings

variable {s t u : State} {v : Word} {t0 : HubTime} {c : AuthCmd}

/-! ## A write of AUTH_OP (R169, R170) -/

/-- The hub with the command of an AUTH_OP write taken. -/
def taken (v : Word) (u : State) : State :=
  { u with auth := { u.auth with op := v &&& 0x03FF, pend := some (takeCommand none v u) } }

theorem Alike.taken (h : Alike s t) : Alike (taken v s) (Auth.taken v t) := by
  obtain ⟨w, rfl⟩ := h
  exact ⟨w, rfl⟩

theorem authOpWrite_takes (idle : s.auth.op = 0) (free : s.auth.pend = none) (command : v &&& 0xFF ≠ 0) :
    authOpWrite none v s = wrote (taken v (closeHostData s)) := by
  refine (if_neg ?_).trans (if_neg command)
  simp [idle, free]

theorem authOpWrite_busy (busy : s.auth.op ≠ 0) : authOpWrite none v s = denied s := if_pos (.inl busy)

theorem authWrite_taken (h : HostServed s) (idle : s.auth.op = 0) (free : s.auth.pend = none) (command : v &&& 0xFF ≠ 0) :
    ∃ t, exec (.registerWrite 0x20 v t0) s = .next t ∧ OnlyRecords (taken v (closeHostData (advance t0 s))) t := by
  obtain ⟨w, granted⟩ := hostAt_grants (s := advance t0 s) (ps := groupPoint 0x20)
  have served := hostServed_advance (t0 := t0) h
  have auth : (advance t0 s).auth = s.auth := advance_auth
  have row : effRegisterWrite 0x20 v t0 s = hostWrite 0x20 v (advance t0 s) := if_pos served.1
  have answer : hostWriteReg 0x20 v (advance t0 s) = wrote (taken v (closeHostData { advance t0 s with verdicts := w })) := by
    refine (if_neg (by simp [h.2])).trans ?_
    rw [granted]
    exact authOpWrite_takes (by rw [auth]; exact idle) (by rw [auth]; exact free) command
  have apart : OnlyRecords (taken v (closeHostData (advance t0 s)))
      (wrote (taken v (closeHostData { advance t0 s with verdicts := w }))).s :=
    wrote_apart (Alike.apart (Alike.taken (Alike.closeHostData ⟨w, rfl⟩)))
  refine ⟨_, rfl, ?_⟩
  rw [row, hostWrite, if_neg (by decide), answer]
  exact OnlyRecords.ite (writeReply_apart apart) (goodWrite_apart apart)

theorem authWrite_busy (h : HostServed s) (busy : s.auth.op ≠ 0) :
    ∃ t, exec (.authCommandRejected (.busyWrite v)) s = .next t ∧ OnlyRecords s t ∧
      t.rein = { s.rein with res := v, adre := true } := by
  have answer (w : VerdictSt) : authOpWrite none v { s with verdicts := w } = denied { s with verdicts := w } :=
    authOpWrite_busy busy
  obtain ⟨w, apart, rein⟩ := writeRow_apart (a := 0x20) (v := v) (f := authOpWrite none v) (x := s) h rfl
    (fun w => by rw [answer]; exact denied_apart (OnlyRecords.upd OnlyRecords.refl))
    (fun w => by rw [answer]; exact stall_of_hostServed h)
  have live : s.power.boot ≠ .dead := by
    intro dead
    simp [HostServed, reinListens, dead] at h
  refine ⟨_, next_congr (if_pos ⟨.inl busy, live⟩), apart, ?_⟩
  rw [rein, answer]
  rfl

theorem gives_keyLoadDone {k : Nat × KeySlot} (waits : s.auth.keyWrite = some k) : Gives .keyLoadDone s { s with
    tack := { s.tack with slots := s.tack.slots.set k.1 k.2 }, auth := { s.auth with op := 0, keyWrite := none } } := by
  refine ⟨(effKeyLoadDone s).verdicts, next_congr ?_⟩
  rw [effKeyLoadDone, waits]
  exact grants_eq

/-- Settles O34. -/
theorem authSequence : Obligations.AuthSequence := by
  refine ⟨fun v t0 s served idle free command => authWrite_taken served idle free command, fun v s served busy => ?_,
    fun s => rfl, fun i k s waits => gives_keyLoadDone waits⟩
  obtain ⟨t, row, apart, rein⟩ := authWrite_busy (v := v) served busy
  exact ⟨t, row, apart, fun _ => rein⟩

/-! ## The checks of a decision (R168, R171, Table 08-2) -/

section Checks

variable (fits : c.data.length = c.blockLength) (least : 0x11 ≤ c.opc) (most : c.opc ≤ 0x18)

include fits least most

/-- A command of the right length passes the first check. -/
theorem firstFailure_known : ¬ (c.opc < 0x11 ∨ 0x18 < c.opc ∨ c.data.length ≠ c.blockLength) := by
  omega

theorem firstFailure_hold (hold : s.auth.hold = true) : firstFailure c false s = some (9, s) :=
  (if_neg (firstFailure_known fits least most)).trans (if_pos hold)

variable (open_ : s.auth.hold = false)

include open_

/-- The checks from the third on, with no hold. -/
theorem firstFailure_free {r : Option (Nat × State)}
    (rest : (if !cryptoWorks s then some (8, s)
      else if (slotKey c.slot s).state = 0 then some (3, s)
      else if !(slotKey c.slot s).mask.getLsbD (c.opc - 0x11) then some (4, s)
      else if c.ctr.toNat ≤ s.tack.counter.toNat then some (5, s)
      else if c.tag ≠ authTag (slotKey c.slot s).key (authMessage c s) then some (6, s)
      else ownRefusal c s) = r) : firstFailure c false s = r := by
  refine (if_neg (firstFailure_known fits least most)).trans ((if_neg (ne_true_of_eq_false open_)).trans (Eq.trans ?_ rest))
  simp only [Bool.false_eq_true, if_false]
  cases ownRefusal c s <;> rfl

end Checks

/-- A refusal of step 8 keeps the counter, the key slots and the tack store (R173). -/
structure Spares (s t : State) : Prop where
  counter : t.tack.counter = s.tack.counter
  slots : t.tack.slots = s.tack.slots
  mem : t.tack.mem = s.tack.mem

theorem Spares.refl : Spares s s := ⟨rfl, rfl, rfl⟩

theorem tackFail_spares {code} : Spares s (tackFail code s) := ⟨rfl, rfl, rfl⟩

/-- Every state that a list of alternatives may record spares the tack store. -/
def SparesAll (s : State) (r : Option State) : Prop := ∀ t, r = some t → Spares s t

theorem sparesAll_none : SparesAll s none := fun _ e => by cases e

theorem sparesAll_some (h : Spares s t) : SparesAll s (some t) := by
  rintro _ ⟨⟩
  exact h

theorem SparesAll.ite {p : Prop} [Decidable p] {x y : Option State} (hx : SparesAll s x) (hy : SparesAll s y) :
    SparesAll s (if p then x else y) := by
  split <;> assumption

theorem selectRefusal_spares : SparesAll s (selectRefusal c s) :=
  .ite (sparesAll_some tackFail_spares) (.ite sparesAll_none (sparesAll_some tackFail_spares))

theorem commitStartRefusal_spares : SparesAll s (commitStartRefusal c s) := by
  refine .ite (sparesAll_some tackFail_spares) (.ite (sparesAll_some tackFail_spares)
    (.ite (sparesAll_some tackFail_spares) (.ite (sparesAll_some ?_) sparesAll_none)))
  split <;> split <;> exact ⟨rfl, rfl, rfl⟩

theorem endpointRefusal_spares : SparesAll s (endpointRefusal c s) := by
  refine .ite ?_ (sparesAll_some Spares.refl)
  cases commitRefusal c.commit s with
  | none => exact sparesAll_none
  | some ecr => exact sparesAll_some ⟨rfl, rfl, rfl⟩

theorem farrierRefusal_spares : SparesAll s (farrierRefusal s) :=
  .ite (sparesAll_some ⟨rfl, rfl, rfl⟩) (.ite (sparesAll_some ⟨rfl, rfl, rfl⟩)
    (.ite (sparesAll_some ⟨rfl, rfl, rfl⟩) sparesAll_none))

theorem eraseRefusal_spares : SparesAll s (eraseRefusal c s) :=
  .ite (sparesAll_some tackFail_spares) (.ite (sparesAll_some tackFail_spares)
    (.ite (sparesAll_some tackFail_spares) (.ite (sparesAll_some tackFail_spares) sparesAll_none)))

/-- What a failed check may have done: RESULT 7 with the tack store spared, else nothing. -/
def Harmless (s : State) (r : Nat × State) : Prop := Spares s r.2 ∧ (r.1 ≠ 7 → r.2 = s)

theorem harmless_seven {x : Option State} {r : Nat × State} (h : SparesAll s x) (e : x.map (fun t => (7, t)) = some r) :
    Harmless s r := by
  obtain ⟨t, recorded, rfl⟩ := Option.map_eq_some_iff.mp e
  exact ⟨h t recorded, fun other => absurd rfl other⟩

theorem harmless_self {n : Nat} {r : Nat × State} (e : some (n, s) = some r) : Harmless s r := by
  obtain rfl := Option.some.inj e
  exact ⟨Spares.refl, fun _ => rfl⟩

theorem ownRefusal_harmless {r : Nat × State} (e : ownRefusal c s = some r) : Harmless s r := by
  unfold ownRefusal at e
  dsimp only at e
  split at e
  case h_1 => exact harmless_seven selectRefusal_spares e
  case h_2 => exact harmless_seven commitStartRefusal_spares e
  case h_3 => exact harmless_seven endpointRefusal_spares e
  case h_4 =>
    split at e
    · exact harmless_self e
    · split at e
      · exact harmless_self e
      · cases e
  case h_5 => exact harmless_seven farrierRefusal_spares e
  case h_6 => exact harmless_seven eraseRefusal_spares e
  case h_7 =>
    split at e
    · exact harmless_self e
    · cases e
  case h_8 =>
    split at e
    · cases e
    · exact harmless_self e

theorem firstFailure_harmless {b : Bool} {r : Nat × State} (e : firstFailure c b s = some r) : Harmless s r := by
  unfold firstFailure at e
  dsimp only at e
  iterate 7
    split at e
    · exact harmless_self e
  split at e
  · next own => exact ownRefusal_harmless (own.trans e)
  · split at e
    · exact harmless_self e
    · cases e

/-! ## What a rejection changes (R172, R173) -/

/-- AUTH_STAT shows a decision of `c`. -/
def decided (c : AuthCmd) (result : Nat) (s : State) : State := { s with auth := { s.auth with
  op := 0, pend := none, result := BitVec.ofNat 4 result, lslot := BitVec.ofNat 2 c.slot } }

theorem showDecision_apart {result : Nat} : OnlyRecords (decided c result s) (showDecision c result s) := by
  have emptied : OnlyRecords s (grants [(44, false), (45, false), (23, true)] (emptyQueue 61 (abandonItem 61 .host s))) :=
    grants_apart (emptyQueue_apart (abandonItem_apart OnlyRecords.refl))
  refine recRein_apart ?_
  obtain ⟨_, _, _, _, _, _, _, _, e⟩ := records_form emptied
  rw [e]
  exact OnlyRecords.upd OnlyRecords.refl

/-- A rejection's own fields. -/
def rejected (c : AuthCmd) (r : Nat × State) : State :=
  let a := { (decided c r.1 r.2).auth with rej := true }
  { r.2 with auth := if r.1 = 6
    then { a with fails := BitVec.ofNat 4 (min 15 (r.2.auth.fails.toNat + 1)), hold := true } else a }

theorem rejectCommand_apart {r : Nat × State} : OnlyRecords (rejected c r) (rejectCommand c r) := by
  obtain ⟨_, _, _, _, _, _, _, _, shown⟩ := records_form (showDecision_apart (c := c) (s := r.2) (result := r.1))
  have noted : OnlyRecords { decided c r.1 r.2 with auth := { (decided c r.1 r.2).auth with rej := true } }
      (attend 15 { showDecision c r.1 r.2 with auth := { (showDecision c r.1 r.2).auth with rej := true } }) := by
    rw [shown]
    exact attend_apart (OnlyRecords.upd OnlyRecords.refl)
  obtain ⟨_, _, _, _, _, _, _, _, e⟩ := records_form noted
  unfold rejectCommand rejected
  dsimp only
  rw [e]
  split
  · exact OnlyRecords.upd OnlyRecords.refl
  · exact OnlyRecords.upd OnlyRecords.refl

/-- Settles O35. -/
theorem authRejections : Obligations.AuthRejections := by
  have slot {k : KeySlot} (used : k.state ≠ 0) : ¬ k.state = 0#2 := used
  refine ⟨fun c s fits least most => ?_, fun c b s r live pend fails => ⟨?_, ?_⟩⟩
  · refine ⟨firstFailure_hold fits least most, fun free broken => ?_, fun free works => ⟨fun none => ?_,
      fun used => ⟨fun masked => ?_, fun allowed => ⟨fun stale => ?_, fun fresh wrong => ?_⟩⟩⟩⟩
    · exact firstFailure_free fits least most free (by simp [broken])
    · exact firstFailure_free fits least most free (by simp [works, none])
    · exact firstFailure_free fits least most free (by simp [works, slot used, masked])
    · exact firstFailure_free fits least most free (by simp [works, slot used, allowed, stale])
    · have late : ¬ c.ctr.toNat ≤ s.tack.counter.toNat := by omega
      exact firstFailure_free fits least most free (by simp [works, slot used, allowed, late, wrong])
  · refine ⟨_, next_congr ?_, rejectCommand_apart⟩
    simp only [effAuthCommandRejected, pend, if_neg live, fails]
  · obtain ⟨spares, same⟩ := firstFailure_harmless fails
    exact ⟨spares.counter, spares.slots, spares.mem, same⟩

/-! ## An accepted command (R172) -/

theorem accepted_eq : accepted c s = { decided c 1 (storeCounter c.ctr s) with auth :=
    { (decided c 1 (storeCounter c.ctr s)).auth with fails := 0, lastAccepted := c.op &&& 0x03FF } } := by
  have auth : (storeCounter c.ctr s).auth = s.auth := grant_auth
  rw [accepted, decided, auth]
  rfl

/-- The state in which an accepted command takes effect, but for records. -/
theorem decideCommand_accepts {opc : Nat} (h : WillAccept c opc s) :
    ∃ x, OnlyRecords (accepted c s) x ∧ decideCommand opc s = runCommand c x := by
  obtain ⟨live, pend, code, passes⟩ := h
  obtain ⟨_, _, _, _, _, _, _, _, shown⟩ := records_form (showDecision_apart (c := c) (s := storeCounter c.ctr s) (result := 1))
  have row : decideCommand opc s = acceptCommand c s := by
    simp [decideCommand, pend, code, live, passes]
  refine ⟨_, ?_, row⟩
  rw [shown, accepted_eq]
  exact OnlyRecords.upd OnlyRecords.refl

theorem accepted_cfg : (accepted c s).cfg = s.cfg := grant_cfg

theorem accepted_power : (accepted c s).power = s.power := grant_power

theorem accepted_slots : (accepted c s).tack.slots = s.tack.slots := by
  change (grant 48 false s).tack.slots = s.tack.slots
  rw [grant_tack]

theorem accepted_actMode : actMode (accepted c s) = actMode s := by
  have mode : (accepted c s).mode = s.mode := grant_mode
  have replay : (accepted c s).replay = s.replay := grant_replay
  rw [actMode, mode, replay, actMode]

theorem accepted_swPend : (accepted c s).tack.swPend = s.tack.swPend := by
  change (grant 48 false s).tack.swPend = s.tack.swPend
  rw [grant_tack]

/-- A byte other than what an unlisted address reads as stands where it was written, in any memory. -/
theorem read_write_self {d : Nat → Byte} {m : Mem} {a : Nat} {v : Byte} (listed : v ≠ d a) :
    Memory.read d (Memory.write d m a v) a = v := by
  induction m with
  | nil => simp [Memory.write, Memory.read, listed]
  | cons e m ih =>
    rw [Memory.write]
    split
    · next below => rw [Memory.read, if_neg (by omega), if_neg (by omega), ih]
    · next above =>
      split
      · simp [Memory.read]
      · simp [Memory.read]

section Run

variable {a x : State} (h : OnlyRecords a x)

include h

theorem tackErase_runs (code : c.opc = 0x16) : OnlyRecords { a with tack := { a.tack with
    busy := true
    job := some { kind := 3, area := c.arg 0, copy := 0, gen := 0, tag := [], image := none, stop := false } } }
    (runCommand c x) := by
  obtain ⟨_, _, _, _, _, _, _, _, rfl⟩ := records_form h
  rw [runCommand, code]
  exact OnlyRecords.upd OnlyRecords.refl

theorem keyLoad_runs (code : c.opc = 0x14) : OnlyRecords { a with
    tack := { a.tack with slots := a.tack.slots.set (c.arg 0) emptySlot }
    auth := { a.auth with
      op := c.op &&& 0x03FF
      keyWrite := some (c.arg 0, ⟨if nbit (c.arg 1) 8 then 2 else 1, aesDecrypt (slotKey c.slot a).key c.data,
        BitVec.ofNat 8 (c.arg 1)⟩) } } (runCommand c x) := by
  obtain ⟨_, _, _, _, _, _, _, _, rfl⟩ := records_form h
  rw [runCommand, code]
  exact OnlyRecords.upd OnlyRecords.refl

theorem replayLoad_runs (code : c.opc = 0x17) : OnlyRecords { a with replay := { a.replay with
    lstate := 1, why := 0, srcAddr := BitVec.ofNat 32 (c.arg 0 + 65536 * c.arg 1)
    srcUnits := BitVec.ofNat 32 (c.arg 2 + 65536 * c.arg 3)
    loaded := 0, used := 0, rest := [], lastSeq := none, ended := .going, seeking := false } } (runCommand c x) := by
  have emptied : OnlyRecords a (emptyQueue 50 (abandonItem 50 .loader x)) := emptyQueue_apart (abandonItem_apart h)
  obtain ⟨_, _, _, _, _, _, _, _, e⟩ := records_form emptied
  rw [runCommand, code]
  simp only [startLoader, e]
  exact OnlyRecords.upd OnlyRecords.refl

theorem pinmuxLock_runs (code : c.opc = 0x18) :
    OnlyRecords { a with pins := { a.pins with lock := true } } (runCommand c x) := by
  obtain ⟨_, _, _, _, _, _, _, _, rfl⟩ := records_form h
  rw [runCommand, code]
  exact OnlyRecords.upd OnlyRecords.refl

/-! ### PROFILE_SELECT (R105) -/

/-- A switch to `area` becomes pending. -/
def switching (area : Nat) (a : State) : State :=
  { a with tack := { a.tack with swTgt := BitVec.ofNat 2 area, swPend := true, swStaged := false, swFailed := false } }

omit h in
/-- The cells of the staged image are reserved, or waited for. -/
theorem startSwitch_reserves {area : Nat} {b : State} (k : OnlyRecords b (cancelSwitch x)) :
    OnlyRecords (switching area b) (startSwitch area x) := by
  obtain ⟨_, _, _, _, _, _, _, _, e⟩ := records_form (grants_apart (l := [(50, false), (24, true)]) k)
  have begun : OnlyRecords (switching area b) (switching area (grants [(50, false), (24, true)] (cancelSwitch x))) := by
    rw [e]
    exact OnlyRecords.upd OnlyRecords.refl
  unfold startSwitch
  dsimp only
  split
  · next got => exact reserve_apart begun got
  · exact OnlyRecords.upd begun

theorem profileSelect_runs (code : c.opc = 0x11) (free : a.tack.swPend = false) :
    OnlyRecords (switching (c.arg 0) a) (runCommand c x) := by
  rw [runCommand, code]
  refine startSwitch_reserves ?_
  rw [cancelSwitch, if_neg (by rw [h.tack]; exact ne_true_of_eq_false free)]
  exact h

theorem profileSelect_cancels (code : c.opc = 0x11) (pending : a.tack.swPend = true) :
    OnlyRecords { a with tack := { a.tack with
      swTgt := BitVec.ofNat 2 (c.arg 0), swPend := true, swStaged := false, swFailed := false, swFail := true, swWhy := 3 } }
      (runCommand c x) := by
  rw [runCommand, code]
  obtain ⟨_, _, _, _, _, _, _, _, rfl⟩ := records_form h
  refine startSwitch_reserves (b := { a with tack := { a.tack with
    swPend := false, swStaged := false, swFailed := false, swFail := true, swWhy := 3 } }) ?_
  rw [cancelSwitch, if_pos (by exact pending)]
  exact freeStaging_apart (OnlyRecords.upd OnlyRecords.refl)

/-! ### PROFILE_COMMIT (R109, R110, R112) -/

theorem profileCommit_tooLarge (code : c.opc = 0x12) (large : sectLimit (c.arg 0) < (sectionData a.cfg.user).length) :
    OnlyRecords { a with tack := { a.tack with failCode := 1 } } (runCommand c x) ∧ (runCommand c x).op.state = 3 ∧
      (runCommand c x).op.why = 8 := by
  obtain ⟨_, _, _, _, _, _, _, _, rfl⟩ := records_form h
  rw [runCommand, code]
  simp only [startCommit]
  rw [if_pos (by exact large)]
  refine ⟨opEnd_apart (OnlyRecords.upd OnlyRecords.refl), ?_, ?_⟩
  · simp [opEnd]
  · simp [opEnd]

theorem profileCommit_starts (code : c.opc = 0x12) (fits : (sectionData a.cfg.user).length ≤ sectLimit (c.arg 0)) :
    ∃ j, OnlyRecords { a with tack := { a.tack with busy := true, job := some j } } (runCommand c x) ∧
      (runCommand c x).op.state = 1 ∧ (runCommand c x).op.code = 4 ∧ (runCommand c x).tack.job = some j ∧
      j.area = c.arg 0 ∧ j.tag = c.data ∧ j.image = none ∧ j.stop = false ∧ j.kind = if c.arg 0 = 4 then 2 else 1 := by
  obtain ⟨_, _, _, _, _, _, _, _, rfl⟩ := records_form h
  rw [runCommand, code]
  simp only [startCommit]
  rw [if_neg (by exact Nat.not_lt.mpr fits)]
  exact ⟨_, OnlyRecords.upd OnlyRecords.refl, rfl, rfl, rfl, rfl, rfl, rfl, rfl, rfl⟩

/-! ### ENDPOINT_COMMIT (R205) -/

theorem endpointCommit_runs (code : c.opc = 0x13) : OnlyRecords { a with
    cfg := { a.cfg with status := (runCommand c x).cfg.status }
    poll := { a.poll with commits := a.poll.commits.filter (fun d => !(d.ep == c.commit.ep && d.atBoundary))
      ++ [{ c.commit with atBoundary := (actMode a).records }] } } (runCommand c x) ∧
    statByte (epAddr c.commit.ep + 0x3D) (runCommand c x) = 2 := by
  obtain ⟨_, _, _, _, _, _, _, _, rfl⟩ := records_form h
  rw [runCommand, code]
  refine ⟨OnlyRecords.upd OnlyRecords.refl, ?_⟩
  exact congrArg BitVec.toNat (read_write_self (by decide : (2 : Byte) ≠ 0))

/-! ### FARRIER_ENTER (R174) -/

theorem farrierEnter_runs (code : c.opc = 0x15) : (runCommand c x).mode.cur = .farrier ∧
    (runCommand c x).tack.counter = a.tack.counter ∧ (runCommand c x).power.sleep = a.power.sleep := by
  have row : runCommand c x = enterMode .farrier (cancelSwitch (grants [(15, false), (51, false)] x)) := by
    simp only [runCommand, code]
  have cancelled : Steady x (cancelSwitch (grants [(15, false), (51, false)] x)) := cancelSwitch_steady (grants_steady Steady.refl)
  have keeps : Keeps (· = .counter) x (runCommand c x) := by
    refine runCommand_keeps ⟨nofun, nofun, nofun, nofun, ?_⟩ Keeps.refl
    exact fun _ _ _ _ _ _ _ => nofun
  refine ⟨?_, ?_, ?_⟩
  · rw [row, enterMode_cur]
  · rw [← h.tack]; exact keeps.part .counter rfl
  · rw [row, enterMode_sleep, cancelled.sleep, h.power]

end Run

/-- Settles O36: each clause by the run of its command, in the state that `decideCommand_accepts` gives. -/
theorem authAccepted : Obligations.AuthAccepted := by
  refine ⟨fun c s => ⟨fun will => ?_, fun will => ?_, fun will => ?_, fun will => ?_⟩,
    fun c s => ⟨fun will free => ?_, fun will pending => ?_, fun will large => ?_, fun will fits => ?_, fun will => ?_,
      fun will => ?_⟩⟩
  all_goals obtain ⟨x, apart, row⟩ := decideCommand_accepts will
  all_goals obtain ⟨-, -, code, -⟩ := will
  · exact ⟨_, next_congr row, tackErase_runs apart code⟩
  · have loaded := keyLoad_runs apart code
    rw [show slotKey c.slot (accepted c s) = slotKey c.slot s from congrArg (·.getD c.slot emptySlot) accepted_slots] at loaded
    exact ⟨_, next_congr row, loaded⟩
  · exact ⟨_, next_congr row, replayLoad_runs apart code⟩
  · exact ⟨_, next_congr row, pinmuxLock_runs apart code⟩
  · exact ⟨_, next_congr row, profileSelect_runs apart code (by rw [accepted_swPend]; exact free)⟩
  · exact ⟨_, next_congr row, profileSelect_cancels apart code (by rw [accepted_swPend]; exact pending)⟩
  · exact ⟨_, next_congr row, profileCommit_tooLarge apart code (by rw [accepted_cfg]; exact large)⟩
  · obtain ⟨j, starts, state, op, job, fields⟩ := profileCommit_starts apart code (by rw [accepted_cfg]; exact fits)
    exact ⟨_, next_congr row, by rw [job]; exact starts, state, op, j, job, fields⟩
  · have pending := endpointCommit_runs apart code
    rw [accepted_actMode] at pending
    exact ⟨_, next_congr row, pending⟩
  · obtain ⟨cur, counter, sleep⟩ := farrierEnter_runs apart code
    exact ⟨_, next_congr row, cur, counter.trans rfl, sleep.trans (congrArg (fun p : PowerSt => p.sleep) accepted_power)⟩

end Sys2Proof.Proofs.Auth

/-! PROOFS. Pin events: the phases of a function change, and capture edges (chapter 02, R31, R32, R37). -/

namespace Sys2Proof.Proofs.PinEvents

set_option Elab.async false

open Sys2Proof.Machine Sys2Proof.Safety Sys2Proof.Laws Sys2Proof.Proofs.Shared Sys2Proof.Proofs.Frame

variable {s u : State} {i : Nat}

/-! ## The phases of a function change (R31, R32) -/

/-- Only a pin of the hub has a change pending. -/
theorem pin_exists (changing : (pinOf i s).phase ≠ .attached) : i < s.pins.pins.length := by
  refine Classical.byContradiction fun outside => ?_
  refine changing ?_
  rw [pinOf, Shared.getD_outside (Nat.not_lt.mp outside)]
  rfl

theorem beginTransit_starts (waits : (pinOf i s).phase = .quiesce) :
    OnlyRecords (modPin i (fun p => { p with phase := .transit, inp := pinLevel i s }) s) (beginTransit i s) := by
  rw [beginTransit, if_pos (by rw [waits]; rfl)]
  exact grant_apart (OnlyRecords.upd OnlyRecords.refl)

theorem beginTransit_phase (changing : (pinOf i s).phase ≠ .attached) : (pinOf i (beginTransit i s)).phase = .transit := by
  cases phase : (pinOf i s).phase with
  | attached => exact absurd phase changing
  | quiesce =>
    have pins := (beginTransit_starts phase).pins
    rw [pinOf, pins]
    exact congrArg PinSt.phase (pinOf_modPin (pin_exists changing))
  | transit =>
    rw [beginTransit, if_neg (by rw [phase]; decide)]
    exact phase

theorem attachPin_pin (changing : (pinOf i s).phase = .transit) :
    (pinOf i (attachPin i s)).phase = .attached ∧ (pinOf i (attachPin i s)).act = (pinOf i s).func := by
  have exists_ : i < s.pins.pins.length := pin_exists (by rw [changing]; decide)
  have pin : pinOf i (attachPin i s) = { pinOf i s with phase := .attached, act := (pinOf i s).func }.drive := by
    rw [attachPin, if_pos (by rw [changing]; rfl)]
    exact pinOf_modPin exists_
  rw [pin, PinSt.drive]
  split <;> exact ⟨rfl, rfl⟩

/-- A pin that is attached stays so while others settle. -/
theorem stays_attached {p q : PinSt} (h : PinKept p q) (attached : p.phase = .attached) : q.phase = .attached := by
  rcases h.phase with same | ⟨waited, -⟩
  · exact same.trans attached
  · rw [attached] at waited; cases waited

/-- What follows a change of the working units keeps every part. -/
theorem adapting_frame {P : Part → Prop} {f : State → State} : Keeps P (f s) (adapting f s) :=
  settleCans_keeps (settlePins_keeps (settlePorts_keeps (purgeHeld_keeps Keeps.refl)))

theorem pinAttach_attaches (changing : (pinOf i s).phase = .transit) : let t := adapting (attachPin i) s
    t.mode.cur = s.mode.cur ∧ (pinOf i t).phase = .attached ∧ (pinOf i t).act = (pinOf i s).func := by
  intro t
  obtain ⟨phase, act⟩ := attachPin_pin changing
  have mode : Keeps (· = .mode) s t :=
    Keeps.trans (attachPin_keeps nofun Keeps.refl) adapting_frame
  have pins : Keeps (· = .pins) (attachPin i s) t := adapting_frame
  have pin := (pins.part .pins rfl).2 i
  exact ⟨mode.part .mode rfl, stays_attached pin phase, pin.act.trans act⟩

/-- The hub with the transaction of pin `i`'s port aborted. -/
def quieted (i : Nat) (s : State) : State :=
  match pinPort i s with
  | some n => abortPort n (if isSPort n then tornEntry ⟨(n - 2) % 4, by omega⟩ s else s)
  | none => s

theorem quieted_keeps {P : Part → Prop} : Keeps P s (quieted i s) := by
  unfold quieted
  split
  · exact abortPort_keeps (Keeps.ite (tornEntry_keeps Keeps.refl) Keeps.refl)
  · exact Keeps.refl

/-- The limit: the old function's transaction is aborted, and the transit begins. -/
theorem pinQuiesceTimeout_transit {i : Fin 59} (waits : (pinOf i.val s).phase = .quiesce) :
    (effPinQuiesceTimeout i s).mode.cur = s.mode.cur ∧ (pinOf i.val (effPinQuiesceTimeout i s)).phase = .transit := by
  have mode : Keeps (· = .mode) s (effPinQuiesceTimeout i s) := effPinQuiesceTimeout_keeps Keeps.refl
  have row : effPinQuiesceTimeout i s = beginTransit i.val (quieted i.val s) := if_pos (by rw [waits]; rfl)
  refine ⟨mode.part .mode rfl, ?_⟩
  rw [row]
  refine beginTransit_phase ?_
  have kept : Keeps (· = .pins) s (quieted i.val s) := quieted_keeps
  rcases ((kept.part .pins rfl).2 i.val).phase with same | ⟨-, begun⟩
  · rw [same, waits]; decide
  · rw [begun]; decide

/-! ## Capture edges (R37) -/

/-- The hub after an edge on the pin of capture channel `n`. -/
def captured (n : Fin 2) (rising : Bool) (i : Nat) (u : State) : State :=
  let s1 := modPin i (PinSt.board rising) u
  let new := (if n.val = 0 then s1.pins.cap0 else s1.pins.cap1).take rising (hubNow s1)
  { s1 with pins := if n.val = 0 then { s1.pins with cap0 := new } else { s1.pins with cap1 := new } }

theorem captureEdge_captures {n : Fin 2} {rising : Bool} {t0 : HubTime} (on : capturePin n.val s = some i)
    (sampled : pinsSampled s = true) (supplied : bankOut 1 s = false) :
    OnlyRecords (captured n rising i (advance t0 s)) (effCaptureEdge n rising t0 s) := by
  have on' : capturePin n.val (advance t0 s) = some i := by simpa only [capturePin, pinOf, advance_pins] using on
  have sampled' : pinsSampled (advance t0 s) = true := by simpa only [pinsSampled, advance_mode] using sampled
  have supplied' : bankOut 1 (advance t0 s) = false := by simpa only [bankOut, advance_power] using supplied
  simp only [effCaptureEdge, on', sampled', supplied', Bool.not_false, Bool.and_self, if_true]
  exact OnlyRecords.ite (OnlyRecords.ite (tapTrigger_apart (attend_apart OnlyRecords.refl)) (attend_apart OnlyRecords.refl))
    OnlyRecords.refl

theorem captured_eq {n : Fin 2} {rising : Bool} {p : State} (pin : p = modPin i (PinSt.board rising) u)
    {c c' : CaptureSt} (channel : c = if n = 0 then u.pins.cap0 else u.pins.cap1)
    (latched : c' = c.take rising (hubNow u)) :
    captured n rising i u =
      { p with pins := if n = 0 then { p.pins with cap0 := c' } else { p.pins with cap1 := c' } } := by
  subst pin channel latched
  by_cases first : n = 0
  · subst first; rfl
  · have second : n.val ≠ 0 := fun h => first (Fin.ext h)
    simp only [captured, if_neg first, if_neg second]
    rfl

/-- Settles O33. -/
theorem pinEvents : Obligations.PinEvents := by
  refine ⟨fun i s => ⟨fun waits => ⟨fun idle => ?_, fun busy => ?_, ?_⟩, fun changing => ?_, fun attached => ⟨?_, ?_⟩⟩,
    fun rising t0 s n i on sampled supplied => ?_⟩
  · exact ⟨_, next_congr (if_pos idle), beginTransit_starts waits⟩
  · exact next_congr (if_neg (by simp [busy]))
  · exact ⟨_, rfl, pinQuiesceTimeout_transit waits⟩
  · exact ⟨_, rfl, pinAttach_attaches changing⟩
  · have still : beginTransit i.val s = s := if_neg (by rw [attached]; decide)
    exact next_congr (by rw [effPinQuiesceDone, still, ite_self])
  · exact next_congr (if_neg (by rw [attached]; decide))
  · refine ⟨_, rfl, ?_⟩
    have apart := captureEdge_captures (rising := rising) (t0 := t0) on sampled supplied
    rw [captured_eq rfl (by rw [advance_pins]) rfl] at apart
    exact apart

end Sys2Proof.Proofs.PinEvents

/-! PROOFS. Stabled entry: the pin limit, the seal, PWR_HOLD and the watchers (chapter 04, R85, R86, R92; R298). -/

namespace Sys2Proof.Proofs.Stabled

set_option Elab.async false

open Sys2Proof.Machine Sys2Proof.Safety Sys2Proof.Laws Sys2Proof.Proofs.Shared Sys2Proof.Proofs.Frame Sys2Proof.Proofs.PinEvents
  Sys2Proof.Proofs.Adapting Sys2Proof.Proofs.Wake

variable {s u : State} {i : Nat}

/-! ## Every pin change attaches (R85) -/

/-- Pin `i`'s change goes to its end. -/
def finishPin (s : State) (i : Nat) : State := attachPin i (beginTransit i s)

/-- Every pin's change goes to its end. -/
def finishPins (s : State) : State := (List.range 59).foldl finishPin s

theorem finishPins_eq : (fun s => (List.range 59).foldl (fun s i => attachPin i (beginTransit i s)) s) = finishPins := rfl

theorem attachPin_length : (attachPin i s).pins.pins.length = s.pins.pins.length := by
  unfold attachPin
  split
  · exact modifyNth_length
  · rfl

theorem beginTransit_kept : Keeps (· = .pins) s (beginTransit i s) := beginTransit_keeps Keeps.refl

theorem finishPin_length : (finishPin s i).pins.pins.length = s.pins.pins.length :=
  attachPin_length.trans (beginTransit_kept.part .pins rfl).1

theorem finishPin_self : (pinOf i (finishPin s i)).phase = .attached := by
  by_cases changing : (pinOf i s).phase = .attached
  · have before : beginTransit i s = s := if_neg (by rw [changing]; decide)
    have after : attachPin i s = s := if_neg (by rw [changing]; decide)
    rw [finishPin, before, after]
    exact changing
  · exact (attachPin_pin (beginTransit_phase changing)).1

theorem finishPin_other {j : Nat} (attached : (pinOf j s).phase = .attached) : (pinOf j (finishPin s i)).phase = .attached := by
  by_cases same : j = i
  · subst same; exact finishPin_self
  · have kept := stays_attached ((beginTransit_kept (i := i).part .pins rfl).2 j) attached
    rw [finishPin, attachPin]
    split
    · rw [pinOf_modPin_ne same]; exact kept
    · exact kept

theorem finishPins_attached {n : Nat} : ∀ j < n, (pinOf j ((List.range n).foldl finishPin s)).phase = .attached := by
  induction n with
  | zero => intro j h; cases h
  | succ n ih =>
    intro j h
    rw [List.range_succ, List.foldl_append]
    by_cases last : j = n
    · subst last; exact finishPin_self
    · exact finishPin_other (ih j (by omega))

theorem finishPins_length {n : Nat} : ((List.range n).foldl finishPin s).pins.pins.length = s.pins.pins.length := by
  induction n with
  | zero => rfl
  | succ n ih => rw [List.range_succ, List.foldl_append]; exact finishPin_length.trans ih

/-- With every pin attached no change is pending. -/
theorem pinsPending_zero (all : ∀ j < s.pins.pins.length, (pinOf j s).phase = .attached) : pinsPending s = 0 := by
  rw [pinsPending, List.length_eq_zero_iff, List.filter_eq_nil_iff]
  intro p member
  obtain ⟨j, inside, rfl⟩ := List.mem_iff_getElem.mp member
  have phase := all j inside
  rw [pinOf, ← List.getElem_eq_getD (h := inside)] at phase
  simp [PinSt.chg, phase]

/-- The hub 10 ms after a Stabled entry: every port and lane that had not stopped is cut. -/
def cutOff (s : State) : State :=
  let s0 := (List.range 4).foldl (fun s p => tornEntry ⟨p % 4, by omega⟩ s) s
  let s1 := (List.range 14).foldl (fun s n => if portBusy n s then abortPort n s else s) s0
  cancelLanes (fun _ => true) 7 s1

theorem cutOff_keeps {P : Part → Prop} : Keeps P s (cutOff s) := by
  unfold cutOff
  extract_lets s0 s1
  have hs0 : Keeps P s s0 := Keeps.foldl (fun _ _ h => tornEntry_keeps h) Keeps.refl
  clear_value s0
  exact cancelLanes_keeps (Keeps.foldl (fun _ _ h => Keeps.ite (abortPort_keeps h) h) hs0)

theorem cutOff_lasting : Lasting s (cutOff s) := by
  unfold cutOff
  extract_lets s0 s1
  have hs0 : Lasting s s0 := Lasting.foldl (fun _ _ h => tornEntry_lasting h) Lasting.refl
  clear_value s0
  exact cancelLanes_lasting (Lasting.foldl (fun _ _ h => Lasting.ite (abortPort_lasting h) h) hs0)

theorem finishPin_power : (finishPin s i).power = s.power := by
  have transit : (beginTransit i s).power = s.power := by
    unfold beginTransit
    split
    · exact grant_power
    · rfl
  unfold finishPin attachPin
  split <;> exact transit

theorem finishPins_power {l : List Nat} : (l.foldl finishPin s).power = s.power := by
  induction l generalizing s with
  | nil => rfl
  | cons j l ih => exact ih.trans finishPin_power

theorem quiesceTimeout_attaches (quiescing : s.power.sleep = .quiescing) (pins : s.pins.pins.length = 59) :
    let t := effStabledQuiesceTimeout s
    pinsPending t = 0 ∧ t.power.sleep = .quiescing ∧ t.mode.cur = s.mode.cur := by
  intro t
  have row : t = adapting finishPins (cutOff s) := by
    have start : (s.power.sleep == .quiescing) = true := by rw [quiescing]; rfl
    change effStabledQuiesceTimeout s = _
    unfold effStabledQuiesceTimeout cutOff
    rw [if_pos start, finishPins_eq]
  have settled : Keeps (· = .pins) (finishPins (cutOff s)) t := by rw [row]; exact adapting_frame
  have cut : Keeps (· = .pins) s (cutOff s) := cutOff_keeps
  obtain ⟨length, kept⟩ := settled.part .pins rfl
  have count : t.pins.pins.length = 59 := by
    rw [length, finishPins, finishPins_length, (cut.part .pins rfl).1, pins]
  have mode : Keeps (· = .mode) s t := effStabledQuiesceTimeout_keeps nofun Keeps.refl
  refine ⟨pinsPending_zero fun j inside => ?_, ?_, mode.part .mode rfl⟩
  · exact stays_attached (kept j) (by rw [finishPins]; exact finishPins_attached j (count ▸ inside))
  · rw [row, adapting_adapts.power, finishPins, finishPins_power, cutOff_lasting.sleep, quiescing]

/-! ## The seal (R85, R86) -/

/-- What ends before the seal: accepted commits and a staged profile apply, Boryel lock is lost, held frames go. -/
def closing (s : State) : State :=
  let s00 := grants [(14, true), (4, true), (163, false)] s
  let s0 := s00.poll.commits.foldl (fun s e => applyCommit e s) s00
  let s1 := loseLock (if s0.tack.expanding then applyStaged s0 else s0)
  (s1.poll.held).foldl (fun s h => setEstat h.ep 3 false s) s1

/-- How many items the seal drops. -/
def droppedItems (s : State) : Nat :=
  let s00 := grants [(14, true), (4, true), (163, false)] s
  itemsInAll (s00.poll.commits.foldl (fun s e => applyCommit e s) s00)

/-- The hub sealed, with `n` items dropped. -/
def sealedFrom (n : Nat) (u : State) : State :=
  let s2 := setMode .stabled (dropVolatile u)
  { s2 with
    power := { s2.power with
      stbDrop := BitVec.ofNat 16 (min 0xFFFF n), sleep := .sealed, pllLocked := false, dropRunning := !s2.power.pwr.getLsbD 0 }
    time := { s2.time with run := false, nextBoundary := none, epochOn := false, recent := [] } }

theorem sealHub_eq : sealHub s =
    if (sealedFrom (droppedItems s) (closing s)).power.earlyWake then
      beginWake { sealedFrom (droppedItems s) (closing s) with power := { (sealedFrom (droppedItems s) (closing s)).power with
        wakeCause := setBit (sealedFrom (droppedItems s) (closing s)).power.wakeCause 6 } }
    else sealedFrom (droppedItems s) (closing s) := rfl

theorem closing_steady : Steady s (closing s) := by
  have commits : Steady s ((grants [(14, true), (4, true), (163, false)] s).poll.commits.foldl (fun s e => applyCommit e s)
      (grants [(14, true), (4, true), (163, false)] s)) :=
    Steady.foldl (fun _ _ h => applyCommit_steady h) (grants_steady Steady.refl)
  exact Steady.foldl (fun _ _ h => setEstat_steady h) (loseLock_steady (Steady.ite (applyStaged_steady commits) commits))

theorem closing_keeps {P : Part → Prop} : Keeps P s (closing s) := by
  have commits : Keeps P s ((grants [(14, true), (4, true), (163, false)] s).poll.commits.foldl (fun s e => applyCommit e s)
      (grants [(14, true), (4, true), (163, false)] s)) :=
    Keeps.foldl (fun _ _ h => applyCommit_keeps h) (grants_keeps Keeps.refl)
  exact Keeps.foldl (fun _ _ h => setEstat_keeps h) (loseLock_keeps (Keeps.ite (applyStaged_keeps commits) commits))

/-- What the seal shows, awake again or not. -/
structure SealShown (s u : State) : Prop where
  cur : u.mode.cur = .stabled
  tgt : u.mode.tgt = .stabled
  pend : u.mode.pend = false
  run : u.time.run = false
  now : u.time.now = s.time.now
  newest : u.snap.newest = 0
  staging : u.snap.staging = 0
  pending : u.pending = s.pending

theorem sealedFrom_shown {n : Nat} (h : Steady s u) : SealShown s (sealedFrom n u) := by
  refine ⟨rfl, rfl, rfl, rfl, ?_, ?_, ?_, ?_⟩
  · exact (congrArg TimeSt.now setMode_time).trans h.now
  · exact congrArg SnapSt.newest (setMode_snap (m := .stabled) (s := dropVolatile u))
  · exact congrArg SnapSt.staging (setMode_snap (m := .stabled) (s := dropVolatile u))
  · exact (setMode_pending (m := .stabled) (s := dropVolatile u)).trans h.pending

theorem sealHub_shown : SealShown s (sealHub s) ∧
    (sealHub s).power.sleep = (if s.power.earlyWake then .waking else .sealed) := by
  have kept : Keeps (· = .early) s (closing s) := closing_keeps
  have early : (sealedFrom (droppedItems s) (closing s)).power.earlyWake = s.power.earlyWake :=
    (congrArg PowerSt.earlyWake setMode_power).trans (kept.part .early rfl)
  obtain ⟨cur, tgt, pend, run, now, newest, staging, pending⟩ := sealedFrom_shown (n := droppedItems s) (closing_steady (s := s))
  rw [sealHub_eq, early]
  split
  · rw [beginWake_eq]
    exact ⟨⟨cur, tgt, pend, run, now, newest, staging, pending⟩, rfl⟩
  · exact ⟨⟨cur, tgt, pend, run, now, newest, staging, pending⟩, rfl⟩

theorem stabledSeal_shown (running : s.power.boot = .running) (quiescing : s.power.sleep = .quiescing) (stopped : quiesced s = true) :
    SealShown s (effStabledSeal s) ∧ (effStabledSeal s).power.sleep = (if s.power.earlyWake then .waking else .sealed) := by
  have row : effStabledSeal s = adapting sealHub s := by
    rw [effStabledSeal, running, quiescing, stopped]
    rfl
  have settled := adapting_adapts (f := sealHub) (s := s)
  obtain ⟨⟨cur, tgt, pend, run, now, newest, staging, pending⟩, sleep⟩ := sealHub_shown (s := s)
  rw [row, settled.power]
  refine ⟨⟨?_, ?_, ?_, ?_, ?_, ?_, ?_, ?_⟩, sleep⟩
  · rw [settled.mode, cur]
  · rw [settled.mode, tgt]
  · rw [settled.mode, pend]
  · rw [settled.time, run]
  · rw [settled.time, now]
  · rw [settled.snap, newest]
  · rw [settled.snap, staging]
  · rw [settled.pending, pending]

/-! ## PWR_HOLD and the watchers (R92, R298) -/

theorem watcherFrame {ch : Chan} {f : WatcherFrame} (isSealed : s.power.sleep = .sealed) (watches : wakeMode ch s = 2) :
    exec (.wakeWatcherFrame ch f) s = .next (modCan ch (fun c =>
      match f with
      | .errored => { c with wErr := c.wErr + 1 }
      | .valid => { c with wErr := c.wErr - 1 }
      | .fd => { c with wErr := c.wErr - 1, wFd := satAdd 255 c.wFd 1 }) s) :=
  next_congr (if_pos ⟨isSealed, watches⟩)

/-- Settles O12. -/
theorem stabledEntry : Obligations.StabledEntry := by
  refine ⟨fun s quiescing pins => ⟨_, rfl, quiesceTimeout_attaches quiescing pins⟩, fun s running quiescing stopped => ?_,
    fun s isSealed falling => ?_, fun ch s isSealed watches => ⟨watcherFrame isSealed watches, watcherFrame isSealed watches, ?_⟩⟩
  · obtain ⟨⟨cur, tgt, pend, run, now, newest, staging, pending⟩, sleep⟩ := stabledSeal_shown running quiescing stopped
    exact ⟨_, rfl, cur, tgt, pend, sleep, run, now, newest, staging, pending⟩
  · refine ⟨(effPwrHoldDrop s).verdicts, next_congr ?_⟩
    rw [effPwrHoldDrop, if_pos (by rw [isSealed, falling]; rfl)]
    exact grant_eq
  · exact watcherFrame isSealed watches

end Sys2Proof.Proofs.Stabled

/-! PROOFS. The tack store's write jobs (chapter 05, R109 to R113): what a job's end leaves in the store. -/

namespace Sys2Proof.Proofs.WriteJobs

set_option Elab.async false

open Sys2Proof.Machine Sys2Proof.Safety Sys2Proof.Laws Sys2Proof.Proofs.Shared Sys2Proof.Proofs.Grants

variable {s t u x : State} {j : TackJob} {m : Mem} {d : Nat → Byte}

/-! ## Bytes written and erased -/

theorem readBytes_succ {a n : Nat} : Memory.readBytes d m a (n + 1) = Memory.read d m a :: Memory.readBytes d m (a + 1) n := by
  simp only [Memory.readBytes, List.range_succ_eq_map, List.map_cons, List.map_map, Nat.add_zero]
  congr 1
  refine List.map_congr_left fun i _ => ?_
  simp only [Function.comp_apply, Nat.succ_eq_add_one, Nat.add_assoc, Nat.add_comm 1]

/-- Bytes written are read back. -/
theorem readBytes_writeBytes {bs : List Byte} : ∀ {m : Mem} {a : Nat}, Memory.wf d m = true →
    Memory.readBytes d (Memory.writeBytes d m a bs) a bs.length = bs := by
  induction bs with
  | nil => exact fun _ => rfl
  | cons b bs ih =>
    intro m a h
    have written := wf_write (a := a) (v := b) h
    rw [List.length_cons, readBytes_succ, Memory.writeBytes, ih written, read_writeBytes_other written (.inl (Nat.lt_succ_self a)),
      read_write h, if_pos rfl]

/-- A cleared address reads as an unlisted one. -/
theorem read_clear {a n y : Nat} (inside : a ≤ y ∧ y < a + n) : Memory.read d (Memory.clear m a n) y = d y := by
  induction m with
  | nil => rfl
  | cons c m ih =>
    unfold Memory.clear at ih ⊢
    rw [List.filter_cons]
    split
    · next kept =>
      have other : c.1 ≠ y := by
        rintro rfl
        simp at kept
        omega
      rw [Memory.read, if_neg other, ih, ite_self]
    · exact ih

theorem readBytes_clear {a n : Nat} {b : Byte} (dflt : ∀ y, d y = b) :
    Memory.readBytes d (Memory.clear m a n) a n = List.replicate n b := by
  refine List.eq_replicate_iff.mpr ⟨by simp [Memory.readBytes], fun y member => ?_⟩
  obtain ⟨i, inside, rfl⟩ := List.mem_map.mp member
  rw [read_clear ⟨Nat.le_add_right a i, Nat.add_lt_add_left (List.mem_range.mp inside) a⟩, dflt]

/-! ## What a job's end changes -/

/-- `t` differs from `s` in the tack store and records only. -/
def TackOnly (s t : State) : Prop := OnlyRecords { s with tack := t.tack } t

theorem TackOnly.refl : TackOnly s s := OnlyRecords.refl

theorem TackOnly.apart (h : TackOnly s x) (k : OnlyRecords x u) : TackOnly s u := by
  obtain ⟨_, _, _, _, _, _, _, _, rfl⟩ := records_form k
  exact Laws.OnlyRecords.trans h k

theorem TackOnly.tack (h : TackOnly s x) {k : TackSt} : TackOnly s { x with tack := k } := by
  obtain ⟨power, mode, pins, auth, -, cfg, poll, snap, time, boryel, canA, canB, sports, iports, tports, replay, pending⟩ := h
  exact ⟨power, mode, pins, auth, rfl, cfg, poll, snap, time, boryel, canA, canB, sports, iports, tports, replay, pending⟩

/-- The job is over, with the key slots and the counter as they were. -/
structure JobOver (s t : State) : Prop where
  only : TackOnly s t
  busy : t.tack.busy = false
  job : t.tack.job = none
  slots : t.tack.slots = s.tack.slots
  counter : t.tack.counter = s.tack.counter

/-- The job's end itself, and what follows it. -/
theorem endJob_over (only : TackOnly s x) (slots : x.tack.slots = s.tack.slots) (counter : x.tack.counter = s.tack.counter) :
    JobOver s (endJob x) := by
  have granted := grants_apart (l := [(46, true), (47, true), (48, true), (24, true)]) (OnlyRecords.refl (s := x))
  have same := granted.tack
  refine ⟨(only.apart granted).tack, rfl, rfl, ?_, ?_⟩
  · exact (congrArg TackSt.slots same).trans slots
  · exact (congrArg TackSt.counter same).trans counter

theorem JobOver.apart (h : JobOver s x) (k : OnlyRecords x u) : JobOver s u := by
  obtain ⟨only, busy, job, slots, counter⟩ := h
  exact ⟨only.apart k, by rw [k.tack, busy], by rw [k.tack, job], by rw [k.tack, slots], by rw [k.tack, counter]⟩

theorem JobOver.tackWrite {o n bs} (h : JobOver s x) : JobOver s (tackWrite o n bs x) :=
  ⟨h.only.tack, h.busy, h.job, h.slots, h.counter⟩

theorem JobOver.scanCopies (h : JobOver s x) : JobOver s (scanCopies x) := by
  unfold Machine.scanCopies
  extract_lets marks ones
  clear_value marks ones
  exact ⟨h.only.tack, h.busy, h.job, h.slots, h.counter⟩

theorem scanCopies_mem : (scanCopies x).tack.mem = x.tack.mem := by
  unfold scanCopies
  extract_lets marks ones
  clear_value marks ones
  rfl

theorem scanCopies_failCode : (scanCopies x).tack.failCode = x.tack.failCode := by
  unfold scanCopies
  extract_lets marks ones
  clear_value marks ones
  rfl

theorem scanCopies_op : (scanCopies x).op = x.op := by
  unfold scanCopies
  extract_lets marks ones
  clear_value marks ones
  rfl

theorem JobOver.tackFail {code} (h : JobOver s x) : JobOver s (tackFail code x) :=
  ⟨h.only.tack, h.busy, h.job, h.slots, h.counter⟩

theorem JobOver.drawn (h : JobOver s x) : JobOver s (drawn x) := h.apart (drawn_apart OnlyRecords.refl)

theorem JobOver.opEnd {st why} (h : JobOver s x) : JobOver s (opEnd st why x) := h.apart (opEnd_apart OnlyRecords.refl)

theorem opEnd_shows {st why} : (opEnd st why x).op.state = st ∧ (opEnd st why x).op.why = why := by
  simp [opEnd]

theorem endJob_mem : (endJob x).tack.mem = x.tack.mem := by
  change (grants [(46, true), (47, true), (48, true), (24, true)] x).tack.mem = x.tack.mem
  rw [grants_tack]

theorem endJob_op : (endJob x).op = x.op := grants_op

/-! ## The ends of a job (R110 to R113) -/

section Ends

variable (runs : s.tack.job = some j) (going : j.stop = false) (live : s.op.job = .commit → s.op.abort = false)

include runs going live

omit runs in
/-- The job is at work: neither a requested stop nor an abort has been met. -/
theorem job_atWork : ¬ ((s.op.job == .commit && s.op.abort) || j.stop) = true := by
  simpa [going] using live

theorem eraseDone (kind : j.kind = 3) : effTackWriteJobDone .done s = scanCopies (tackWrite j.span.1 j.span.2 [] (endJob s)) := by
  simp only [effTackWriteJobDone, runs]
  rw [if_neg (job_atWork going live), if_pos kind]

theorem eraseFailed (kind : j.kind = 3) : effTackWriteJobDone .eraseFailed s = tackFail 3 (tearJob s) := by
  simp only [effTackWriteJobDone, runs]
  rw [if_neg (job_atWork going live), if_pos kind]

theorem copyDone (kind : j.kind ≠ 3) {j' : TackJob} (moved : (moveCommit 240 s).tack.job = some j') :
    effTackWriteJobDone .done s = opEnd 2 0 (opPost j'.area j'.copy (j'.gen % 65536) (j'.gen / 65536)
      (scanCopies (tackWrite j'.span.1 j'.span.2 (j'.image.getD []) (endJob (moveCommit 240 s))))) := by
  simp only [effTackWriteJobDone, runs]
  rw [if_neg (job_atWork going live), if_neg kind]
  simp only [moved]

theorem copyVerifyFailed (kind : j.kind ≠ 3) {j' : TackJob} (moved : (moveCommit 128 s).tack.job = some j') :
    effTackWriteJobDone .verifyFailed s = opEnd 3 8 (scanCopies (tackFail 2 (drawn (tackWrite j'.span.1 j'.span.2
      (misread (moveCommit 128 s).seed (unmarkedImage (j'.image.getD []))) (endJob (moveCommit 128 s)))))) := by
  simp only [effTackWriteJobDone, runs]
  rw [if_neg (job_atWork going live), if_neg kind]
  simp only [moved]

theorem copyEraseFailed (kind : j.kind ≠ 3) (early : j.image = none) :
    effTackWriteJobDone .eraseFailed s = opEnd 3 8 (failErase j s) := by
  simp only [effTackWriteJobDone, runs]
  rw [if_neg (job_atWork going live), if_neg kind]
  exact if_neg (by simp [early])

end Ends

theorem eraseDone_over (kind : j.kind = 3) :
    let t := scanCopies (tackWrite j.span.1 j.span.2 [] (endJob s))
    JobOver s t ∧ t.op = s.op ∧
      tackBytes (copyBase j.area 0) (if j.area = 4 then 0x2000 else 0x6000) t =
        List.replicate (if j.area = 4 then 0x2000 else 0x6000) 0xFF := by
  intro t
  have span : j.span = (copyBase j.area 0, if j.area = 4 then 0x2000 else 0x6000) := if_pos kind
  refine ⟨(endJob_over TackOnly.refl rfl rfl).tackWrite.scanCopies, scanCopies_op.trans endJob_op, ?_⟩
  rw [tackBytes, scanCopies_mem, span]
  exact readBytes_clear fun _ => rfl

theorem moveCommit_erasing {n : Nat} (runs : s.tack.job = some j) (kind : j.kind = 3) : moveCommit n s = s := by
  simp only [moveCommit, runs]
  exact if_pos kind

theorem tearJob_over (runs : s.tack.job = some j) (kind : j.kind = 3) : JobOver s (tearJob s) ∧ (tearJob s).op = s.op := by
  have ended : JobOver s (drawn (endJob s)) := (endJob_over TackOnly.refl rfl rfl).drawn
  have op : (drawn (endJob s)).op = s.op := endJob_op
  simp only [tearJob, moveCommit_erasing runs kind, runs]
  split
  · exact ⟨ended.tackWrite.scanCopies, scanCopies_op.trans op⟩
  · split
    · exact ⟨ended.tackWrite.scanCopies, scanCopies_op.trans op⟩
    · exact ⟨ended.tackWrite.scanCopies, scanCopies_op.trans op⟩

/-! ## The image of a commit (R109, R110) -/

/-- The image that job `j` writes. -/
def jobImage (j : TackJob) (s : State) : List Byte := j.image.getD (commitImage j.area j.gen j.tag s)

/-- The hub with the image of its running commit built. -/
def imageBuilt (j : TackJob) (s : State) : State :=
  { s with tack := { s.tack with job := some { j with image := some (jobImage j s) } } }

theorem prog_opProgress {n : Nat} : (opProgress n s).op.prog.toNat = min 255 (max s.op.prog.toNat n) := by
  rw [opProgress, grant_op]
  exact (BitVec.toNat_ofNat _ _).trans (Nat.mod_eq_of_lt (Nat.lt_of_le_of_lt (Nat.min_le_left _ _) (by decide)))

/-- Progress touches the operation, the verdicts and the model's counter. -/
theorem progress_form {n : Nat} : ∃ op w seed, drawn (opProgress n s) = { s with op := op, verdicts := w, seed := seed } ∧
    op.prog.toNat = min 255 (max s.op.prog.toNat n) := by
  have prog := prog_opProgress (s := s) (n := n)
  unfold opProgress at prog ⊢
  rw [grant_eq] at prog ⊢
  exact ⟨_, _, _, rfl, prog⟩

/-- From step 3 on the image is built (R110, Table 05-7). -/
theorem moveCommit_builds {n : Nat} (runs : s.tack.job = some j) (kind : j.kind ≠ 3) (least : 128 ≤ n)
    (fits : j.image = none → (sectionData s.cfg.user).length ≤ sectLimit j.area) :
    OnlyRecords (imageBuilt j s) (moveCommit n s) := by
  obtain ⟨op, w, seed, form, prog⟩ := progress_form (s := s) (n := max n ((Config.freeWord s.seed).toNat % 256))
  simp only [moveCommit, runs]
  rw [if_neg kind, form]
  cases image : j.image with
  | none =>
    have far : 128 ≤ op.prog.toNat := by omega
    have small : ¬ sectLimit j.area < (sectionData s.cfg.user).length := Nat.not_lt.mpr (fits image)
    rw [if_pos ⟨far, rfl⟩, buildImage, if_neg small, imageBuilt, jobImage, image]
    exact OnlyRecords.upd OnlyRecords.refl
  | some img =>
    have built : imageBuilt j s = s := by
      obtain ⟨kind, area, copy, gen, tag, _, stop⟩ := j
      subst image
      rw [imageBuilt, jobImage, Option.getD_some, ← runs]
    rw [if_neg (by simp), built]
    exact OnlyRecords.upd OnlyRecords.refl

/-- What `moveCommit` leaves, for the job's end. -/
theorem built_over {n : Nat} (built : OnlyRecords (imageBuilt j s) (moveCommit n s)) : JobOver s (endJob (moveCommit n s)) := by
  refine endJob_over ?_ ((congrArg TackSt.slots built.tack).trans rfl) ((congrArg TackSt.counter built.tack).trans rfl)
  exact TackOnly.apart (TackOnly.tack TackOnly.refl) built

theorem copyDone_over (kind : j.kind ≠ 3) {n : Nat} (built : OnlyRecords (imageBuilt j s) (moveCommit n s))
    (wf : Memory.wf tackDflt s.tack.mem = true) {w0 w1 w2 w3 : Nat} :
    let t := opEnd 2 0 (opPost w0 w1 w2 w3
      (scanCopies (tackWrite j.span.1 j.span.2 (jobImage j s) (endJob (moveCommit n s)))))
    JobOver s t ∧ t.op.state = 2 ∧ t.op.why = 0 ∧
      tackBytes (copyBase j.area j.copy) (jobImage j s).length t = jobImage j s := by
  intro t
  have span : j.span = (copyBase j.area j.copy, copySize j.area) := if_neg kind
  have written := (built_over built).tackWrite (o := j.span.1) (n := j.span.2) (bs := jobImage j s)
  refine ⟨(written.scanCopies.apart (opPost_apart OnlyRecords.refl)).opEnd, opEnd_shows.1, opEnd_shows.2, ?_⟩
  have mem : t.tack.mem = Memory.writeBytes tackDflt (Memory.clear (endJob (moveCommit n s)).tack.mem j.span.1 j.span.2) j.span.1
      (jobImage j s) := by
    have posted : OnlyRecords (scanCopies (tackWrite j.span.1 j.span.2 (jobImage j s) (endJob (moveCommit n s)))) t :=
      opEnd_apart (opPost_apart OnlyRecords.refl)
    rw [posted.tack, scanCopies_mem]
    rfl
  have kept : (endJob (moveCommit n s)).tack.mem = s.tack.mem := by
    rw [endJob_mem, built.tack]
    rfl
  rw [tackBytes, mem, kept, span]
  exact readBytes_writeBytes (wf_clear wf)

theorem verifyFailed_over {n : Nat} (built : OnlyRecords (imageBuilt j s) (moveCommit n s)) {o l : Nat} {bs : List Byte} :
    let t := opEnd 3 8 (scanCopies (tackFail 2 (drawn (tackWrite o l bs (endJob (moveCommit n s))))))
    JobOver s t ∧ t.op.state = 3 ∧ t.op.why = 8 ∧ t.tack.failCode = 2 := by
  intro t
  refine ⟨(built_over built).tackWrite.drawn.tackFail.scanCopies.opEnd, opEnd_shows.1, opEnd_shows.2, ?_⟩
  rw [(opEnd_apart OnlyRecords.refl).tack, scanCopies_failCode]
  rfl

theorem eraseFailed_over : JobOver s (opEnd 3 8 (failErase j s)) ∧ (opEnd 3 8 (failErase j s)).op.state = 3 ∧
    (opEnd 3 8 (failErase j s)).op.why = 8 ∧ (opEnd 3 8 (failErase j s)).tack.failCode = 3 := by
  refine ⟨(endJob_over TackOnly.refl rfl rfl).tackWrite.drawn.tackFail.scanCopies.opEnd, opEnd_shows.1, opEnd_shows.2, ?_⟩
  rw [(opEnd_apart OnlyRecords.refl).tack, failErase, scanCopies_failCode]
  rfl

/-- Settles O38, by the ends of an erase job and of a commit. -/
theorem writeJobEnd : Obligations.WriteJobEnd := by
  intro j s runs going live img fits done
  have ends {out : TackOutcome} {t : State} {r : State → Prop} (row : effTackWriteJobDone out s = t) (ended : JobOver s t)
      (h : r t) : done out r :=
    ⟨t, next_congr row, ended.only, ended.busy, ended.job, ended.slots, ended.counter, h⟩
  refine ⟨fun kind => ⟨?_, ?_⟩, fun kind => ⟨fun small wf short => ?_, fun small => ?_, fun early => ?_⟩⟩
  · obtain ⟨ended, op, erased⟩ := eraseDone_over (s := s) kind
    exact ends (eraseDone runs going live kind) ended ⟨op, erased⟩
  · obtain ⟨ended, op⟩ := tearJob_over runs kind
    exact ends (eraseFailed runs going live kind) ended.tackFail ⟨op, rfl⟩
  · have built := moveCommit_builds (n := 240) runs kind (by decide) small
    obtain ⟨ended, state, why, image⟩ := copyDone_over kind built wf
    exact ends (copyDone runs going live kind (congrArg TackSt.job built.tack)) ended ⟨state, why, image⟩
  · have built := moveCommit_builds (n := 128) runs kind (by decide) small
    obtain ⟨ended, state, why, code⟩ := verifyFailed_over built
    exact ends (copyVerifyFailed runs going live kind (congrArg TackSt.job built.tack)) ended ⟨state, why, code⟩
  · obtain ⟨ended, state, why, code⟩ := eraseFailed_over (s := s) (j := j)
    exact ends (copyEraseFailed runs going live kind early) ended ⟨state, why, code⟩

end Sys2Proof.Proofs.WriteJobs

/-! PROOFS. Changes of the user configuration: staging, expansion, and the write of an endpoint commit (chapter 05, R105 to R107; R205). -/

namespace Sys2Proof.Proofs.ConfigChange

set_option Elab.async false

open Sys2Proof.Machine Sys2Proof.Safety Sys2Proof.Laws Sys2Proof.Proofs.Shared Sys2Proof.Proofs.Grants Sys2Proof.Proofs.WriteJobs
  Sys2Proof.Proofs.Adapting Sys2Proof.Proofs.Polling Sys2Proof.Proofs.Frame

variable {s t u x : State}

/-! ## The end of staging (R105 to R107) -/

/-- The grants of the end of staging. -/
def stagingGrants : List (Nat × Bool) := [(47, false), (50, true), (51, true), (24, true)]

theorem stagingDone_row (pending : s.tack.swPend = true) (cells : (openOf 60 .staging s).isSome = true) :
    effProfileStagingDone s =
      match checkArea s.tack.swTgt.toNat (grants stagingGrants s) with
      | .ok _ =>
        let s1 := closeItem 60 .staging (match activeImage s.tack.swTgt.toNat (grants stagingGrants s) with
          | some p => p.2 | none => []) 0 (grants stagingGrants s)
        { s1 with tack := { s1.tack with swStaged := true } }
      | .error why =>
        let g := grants stagingGrants s
        let s1 := freeStaging { g with tack := { g.tack with swFail := true, swWhy := why } }
        if s1.mode.cur = .leadrein then { s1 with tack := { s1.tack with swPend := false, usrOk := false } }
        else { s1 with tack := { s1.tack with swFailed := true } } := by
  rw [effProfileStagingDone, pending, cells]
  rfl

theorem checkArea_grants {area : Nat} {l} : checkArea area (grants l s) = checkArea area s := by
  rw [grants_eq]
  rfl

theorem staged_good {p : Profile} (pending : s.tack.swPend = true) (cells : (openOf 60 .staging s).isSome = true)
    (good : checkArea s.tack.swTgt.toNat s = .ok p) :
    OnlyRecords { s with tack := { s.tack with swStaged := true } } (effProfileStagingDone s) := by
  rw [stagingDone_row pending cells, checkArea_grants, good]
  dsimp only
  obtain ⟨_, _, _, _, _, _, _, _, closed⟩ := records_form (closeItem_apart (q := 60) (who := .staging) (kind := 0)
    (bytes := match activeImage s.tack.swTgt.toNat (grants stagingGrants s) with | some p => p.2 | none => [])
    (grants_apart (l := stagingGrants) (OnlyRecords.refl (s := s))))
  rw [closed]
  exact OnlyRecords.upd OnlyRecords.refl

theorem staged_bad {why : BitVec 2} (pending : s.tack.swPend = true) (cells : (openOf 60 .staging s).isSome = true)
    (bad : checkArea s.tack.swTgt.toNat s = .error why) :
    OnlyRecords { s with tack := if s.mode.cur = .leadrein
      then { s.tack with swFail := true, swWhy := why, swPend := false, usrOk := false }
      else { s.tack with swFail := true, swWhy := why, swFailed := true } } (effProfileStagingDone s) := by
  have failed : OnlyRecords { s with tack := { s.tack with swFail := true, swWhy := why } }
      (freeStaging { grants stagingGrants s with
        tack := { (grants stagingGrants s).tack with swFail := true, swWhy := why } }) := by
    obtain ⟨_, _, _, _, _, _, _, _, granted⟩ := records_form (grants_apart (l := stagingGrants) (OnlyRecords.refl (s := s)))
    rw [granted]
    exact freeStaging_apart (OnlyRecords.upd OnlyRecords.refl)
  rw [stagingDone_row pending cells, checkArea_grants, bad]
  dsimp only
  obtain ⟨_, _, _, _, _, _, _, _, freed⟩ := records_form failed
  rw [freed]
  dsimp only
  split
  · exact OnlyRecords.upd OnlyRecords.refl
  · exact OnlyRecords.upd OnlyRecords.refl

/-! ## The expansion (R105) -/

/-- The user configuration of `s` is `m`. -/
def HasUser (m : Mem) (s : State) : Prop := s.cfg.user = m

variable {m : Mem}

theorem HasUser.foldl {α : Type} {f : State → α → State} {l : List α} (hf : ∀ x a, HasUser m x → HasUser m (f x a)) :
    ∀ {x : State}, HasUser m x → HasUser m (l.foldl f x) := by
  induction l with
  | nil => exact fun h => h
  | cons a l ih => exact fun h => ih (hf _ a h)

theorem HasUser.polls (h : HasUser m s) (k : Polls s t) : HasUser m t := k.user.trans h

theorem setStatWord_user {a v} (h : HasUser m s) : HasUser m (setStatWord a v s) := h

theorem clearSelects_user (h : HasUser m s) : HasUser m (clearSelects s) := by
  unfold clearSelects
  exact HasUser.foldl (fun _ _ h => HasUser.foldl (fun _ _ h => setStatWord_user h) h) h

theorem setEstat_user {n b on} (h : HasUser m s) : HasUser m (setEstat n b on s) := h

theorem clearStatuses_user (h : HasUser m s) : HasUser m (clearStatuses s) := by
  unfold clearStatuses
  refine HasUser.foldl (fun x n h => ?_) (HasUser.foldl (fun _ _ h => setEstat_user h) h)
  split
  · exact setEstat_user h
  · exact h

theorem validateAll_user (h : HasUser m s) : HasUser m (validateAll s) := by
  unfold validateAll
  exact HasUser.foldl (fun _ _ h => h.polls (validateEp_polls Polls.refl)) h

theorem refreshStaging_user (h : HasUser m s) : HasUser m (refreshStaging s) := by
  unfold refreshStaging
  split
  · exact h
  · extract_lets +onlyGivenNames _ s1
    have hs1 : HasUser m s1 := h
    clear_value s1
    split
    · exact hs1
    · exact hs1.polls (modBank_polls Polls.refl)

theorem resetCond_user (h : HasUser m s) : HasUser m (resetCond s) := h

theorem staleWindows_user (h : HasUser m s) : HasUser m (staleWindows s) := h

theorem userOk_user (h : HasUser m s) : HasUser m (userOk s) := h

/-- The expansion itself, before what follows from the new settings. -/
def expansion (p : Profile) (s0 : State) : State :=
  let s := invalidateCache (moveCommit 0 s0)
  let s1 := loadHeader p.header { s with cfg := { s.cfg with user := expandSections p.sections } }
  refreshStaging (staleWindows (resetCond (validateAll (clearSelects (clearStatuses (userOk (grant 38 true s1)))))))

theorem expandUser_eq {p : Profile} : expandUser p s = adapting (expansion p) s := rfl

theorem loadHeader_user {h : List Byte} (k : HasUser m s) : HasUser m (loadHeader h s) := k

theorem grant_user {p b} (h : HasUser m s) : HasUser m (grant p b s) := (congrArg CfgSt.user grant_cfg).trans h

theorem expansion_user {p : Profile} : HasUser (expandSections p.sections) (expansion p s) := by
  unfold expansion
  extract_lets +onlyGivenNames x
  clear_value x
  exact refreshStaging_user (staleWindows_user (resetCond_user (validateAll_user (clearSelects_user (clearStatuses_user
    (userOk_user (grant_user (loadHeader_user rfl))))))))

theorem expandUser_user {p : Profile} : HasUser (expandSections p.sections) (expandUser p s) := by
  rw [expandUser_eq]
  exact adapting_adapts.user.trans expansion_user

theorem dueRuns_shows : (dueRuns s).tack = s.tack ∧ (dueRuns s).cfg.user = s.cfg.user := by
  have polls : Polls s (dueRuns s) := dueRuns_polls Polls.refl
  exact ⟨polls.tack, polls.user⟩

theorem applyStaged_ends : (applyStaged s).tack.expanding = false ∧ (applyStaged s).tack.swPend = false := by
  unfold applyStaged
  extract_lets +onlyGivenNames s1
  clear_value s1
  have freed := freeStaging_apart (OnlyRecords.refl (s := { s1 with
    tack := { s1.tack with swPend := false, swStaged := false, expanding := false } }))
  rw [freed.tack]
  exact ⟨rfl, rfl⟩

theorem applyStaged_user {p : Profile} (good : stagedProfile s = some p) : HasUser (expandSections p.sections) (applyStaged s) := by
  have expanded := expandUser_user (s := s) (p := p)
  unfold applyStaged
  rw [good]
  dsimp only
  generalize expandUser p s = x at expanded
  have freed := freeStaging_apart (OnlyRecords.refl (s := { x with
    tack := { x.tack with swPend := false, swStaged := false, expanding := false } }))
  exact (congrArg CfgSt.user freed.cfg).trans expanded

/-! ## An endpoint commit (R205) -/

theorem endJob_only (h : TackOnly s x) : TackOnly s (endJob x) := (h.apart (grants_apart OnlyRecords.refl)).tack

theorem scanCopies_only (h : TackOnly s x) : TackOnly s (scanCopies x) := by
  unfold scanCopies
  extract_lets +onlyGivenNames marks ones
  clear_value marks ones
  exact h.tack

/-- A commit that comes on changes the tack store and records only. -/
theorem moveCommit_only {n : Nat} : TackOnly s (moveCommit n s) := by
  unfold moveCommit
  split
  · exact TackOnly.refl
  · next j runs =>
    split
    · exact TackOnly.refl
    · extract_lets +onlyGivenNames s1
      have moved : TackOnly s s1 := TackOnly.refl.apart (drawn_apart (opProgress_apart OnlyRecords.refl))
      clear_value s1
      split
      · unfold buildImage
        split
        · exact (scanCopies_only (endJob_only moved).tack.tack).apart (opEnd_apart OnlyRecords.refl)
        · exact moved.tack
      · exact moved

theorem moveCommit_idle {n : Nat} (idle : s.tack.job = none) : moveCommit n s = s := by
  simp only [moveCommit, idle]

/-- The commit's own write, before the endpoint is validated. -/
def commitWritten (e : EpCommit) (s : State) : State :=
  { moveCommit 0 s with
    cfg := { (moveCommit 0 s).cfg with user := commitInto e (moveCommit 0 s).cfg.user }
    poll := { (moveCommit 0 s).poll with commits := dropFirst (fun c => c == e) (moveCommit 0 s).poll.commits } }

theorem applyCommit_polls {e : EpCommit} : Polls (commitWritten e s) (applyCommit e s) := by
  have fresh : Polls (commitWritten e s) (setEcr e.ep 1 (freshEndpoint e (commitWritten e s))) :=
    setEcr_polls (freshEndpoint_polls Polls.refl)
  have valid : Polls (commitWritten e s) (validateEp e.ep (purgeHeld (freshOwnSlot e
      (setEcr e.ep 1 (freshEndpoint e (commitWritten e s)))))) :=
    validateEp_polls (purgeHeld_polls (freshOwnSlot_polls fresh))
  exact Polls.ite fresh (Polls.ite (dispatch_polls (sortRuns_polls (addDue_polls valid))) valid)

theorem applyCommit_shows {e : EpCommit} : (applyCommit e s).cfg.user = commitInto e s.cfg.user ∧
    (applyCommit e s).cfg.fallback = s.cfg.fallback ∧ (applyCommit e s).mode.cur = s.mode.cur ∧
    (s.tack.job = none → (applyCommit e s).tack = s.tack) := by
  have polls := applyCommit_polls (s := s) (e := e)
  have moved := moveCommit_only (s := s) (n := 0)
  refine ⟨?_, ?_, ?_, fun idle => ?_⟩
  · rw [polls.user]
    exact congrArg (fun c : CfgSt => commitInto e c.user) moved.cfg
  · rw [polls.fallback]
    change (moveCommit 0 s).cfg.fallback = s.cfg.fallback
    rw [moved.cfg]
  · rw [polls.mode]
    exact congrArg ModeSt.cur moved.mode
  · rw [polls.tack]
    change (moveCommit 0 s).tack = s.tack
    rw [moveCommit_idle idle]

/-- Settles O37. -/
theorem configChanges : Obligations.ConfigChanges := by
  refine ⟨⟨fun s pending cells => ⟨fun p good => ⟨_, rfl, staged_good pending cells good⟩,
    fun why bad => ⟨_, rfl, staged_bad pending cells bad⟩⟩, fun s expanding after => ?_⟩, fun ep e s oldest free => ?_⟩
  · have due := dueRuns_shows (s := applyStaged s)
    have ended := applyStaged_ends (s := s)
    have steady : Steady s (dueRuns (applyStaged s)) := dueRuns_steady (applyStaged_steady Steady.refl)
    refine ⟨dueRuns (applyStaged s), next_congr (if_pos (by simp [expanding, after])), ?_, ?_, steady.cur, fun p good => ?_⟩
    · rw [due.1, ended.1]
    · rw [due.1, ended.2]
    · rw [due.2]; exact applyStaged_user good
  · have stops : ¬ (s.mode.cur != .leadrein && epRuns ep.val s) = true := by
      rcases free with leadrein | idle
      · simp [leadrein]
      · simp [idle]
    refine ⟨applyCommit e s, next_congr ?_, applyCommit_shows⟩
    simp only [effEndpointCommitApply, oldest]
    exact if_neg stops

end Sys2Proof.Proofs.ConfigChange

/-! PROOFS. Long operations (chapter 08, R176 to R180): a start that is refused, an abort request, and how a running operation ends. -/

namespace Sys2Proof.Proofs.LongOps

set_option Elab.async false

open Sys2Proof.Machine Sys2Proof.Safety Sys2Proof.Laws Sys2Proof.Proofs.Shared Sys2Proof.Proofs.HostAccess Sys2Proof.Proofs.Grants
  Sys2Proof.Proofs.Registers Sys2Proof.Proofs.Queues Sys2Proof.Proofs.Operation Sys2Proof.Proofs.WriteJobs Sys2Proof.Proofs.Polling Sys2Proof.Proofs.Window
  Sys2Proof.Proofs.Frame Sys2Proof.Proofs.Adapting Sys2Proof.Proofs.ConfigChange Sys2Proof.Proofs.Endings

variable {s t u x : State} {code : Nat}

/-! ## The write of OP_CMD -/

/-- What a write of OP_CMD finds: the host's data item closed, and for an ENDPOINT_PROBE its endpoint validated. -/
def atStart (code : Nat) (s : State) : State := if code = 0xB then validateProbe (closeHostData s) else closeHostData s

theorem opCmdWrite_start (known : code ∈ opCodes) : opCmdWrite (BitVec.ofNat 16 code) s = opStart code (atStart code s) := by
  simp only [opCodes, List.mem_cons, List.not_mem_nil, or_false] at known
  rcases known with rfl | rfl | rfl | rfl | rfl | rfl | rfl | rfl | rfl | rfl <;> rfl

theorem opCmdWrite_abort : opCmdWrite 0x8000 s = wrote (requestAbort (closeHostData s)) := rfl

theorem exec_opRow (known : code ∈ opCodes) : exec (opRow code) s = .next (opCmdRow (BitVec.ofNat 16 code) s) := by
  simp only [opCodes, List.mem_cons, List.not_mem_nil, or_false] at known
  rcases known with rfl | rfl | rfl | rfl | rfl | rfl | rfl | rfl | rfl | rfl <;> rfl

theorem opCmdRow_grants {v : Word} (h : HostServed s) :
    ∃ w, opCmdRow v s = goodWrite 8 v (opCmdWrite v { s with verdicts := w }) := writeRow_grants h

/-! ## The state that it finds -/

theorem alike_ite {c : Prop} [Decidable c] (hs : Alike s t) (hu : Alike u x) : Alike (if c then s else u) (if c then t else x) := by
  split <;> assumption

theorem setEstat_alike {n b on} (h : Alike s t) : Alike (setEstat n b on s) (setEstat n b on t) := by
  obtain ⟨w, rfl⟩ := h
  exact ⟨w, rfl⟩

theorem setLast_alike {n code} (h : Alike s t) : Alike (setLast n code s) (setLast n code t) := by
  obtain ⟨w, rfl⟩ := h
  exact ⟨w, rfl⟩

theorem validateProbe_alike (h : Alike s t) : Alike (validateProbe s) (validateProbe t) := by
  obtain ⟨w, rfl⟩ := h
  have same : Alike s { s with verdicts := w } := ⟨w, rfl⟩
  have again (x : PollSt) : Alike { s with poll := x } { s with poll := x, verdicts := w } := ⟨w, rfl⟩
  exact alike_ite same (alike_ite
    (alike_ite (setLast_alike (setEstat_alike (again _))) same)
    (setLast_alike (setEstat_alike (alike_ite same (again _)))))

theorem atStart_alike (h : Alike s t) : Alike (atStart code s) (atStart code t) :=
  alike_ite (validateProbe_alike h.closeHostData) h.closeHostData

/-! ## A start that is refused (R108, R176, R196) -/

/-- What a refusal leaves: the reason, and for a PROFILE_LOAD in a wrong mode FAIL_CODE 5. -/
def refusal (code w : Nat) (s : State) : State :=
  let s1 := { s with op := { s.op with why := BitVec.ofNat 4 w } }
  if code = 5 && !opAllowed 5 (commandMode s) then tackFail 5 s1 else s1

/-- The tack store of a refusal. -/
def refusalTack (code : Nat) (s : State) : State :=
  if code = 5 ∧ opAllowed 5 (commandMode s) = false then { s with tack := { s.tack with failCode := 5 } } else s

theorem opStart_refused {w : Nat} (refused : startRefused code s = some w) : opStart code s = denied (refusal code w s) := by
  simp only [opStart, refused]
  rfl

theorem refusal_apart {w : Nat} : OnlyRecords (refusalTack code s) (refusal code w s) := by
  by_cases wrong : code = 5 ∧ opAllowed 5 (commandMode s) = false
  · have bits : (code = 5 && !opAllowed 5 (commandMode s)) = true := by simpa using wrong
    rw [refusalTack, refusal, if_pos wrong, if_pos bits]
    exact OnlyRecords.upd OnlyRecords.refl
  · have bits : ¬ (code = 5 && !opAllowed 5 (commandMode s)) = true := by simpa using wrong
    rw [refusalTack, refusal, if_neg wrong, if_neg bits]
    exact OnlyRecords.upd OnlyRecords.refl

theorem refusal_alike {w : Nat} (h : Alike s t) : Alike (refusal code w s) (refusal code w t) := by
  obtain ⟨v, rfl⟩ := h
  exact alike_ite ⟨v, rfl⟩ ⟨v, rfl⟩

theorem startRefused_alike (h : Alike s t) : startRefused code t = startRefused code s := by
  obtain ⟨v, rfl⟩ := h
  rfl

theorem refusal_op {w : Nat} : (refusal code w s).op = { s.op with why := BitVec.ofNat 4 w } := by
  unfold refusal
  split <;> rfl

theorem refusal_power {w : Nat} : (refusal code w s).power = s.power := by
  unfold refusal
  split <;> rfl

theorem refusal_tap {w : Nat} : (refusal code w s).tap = s.tap := by
  unfold refusal
  split <;> rfl

theorem validateProbe_polls : Polls s (validateProbe s) :=
  Polls.ite Polls.refl (Polls.ite (passValidation_polls Polls.refl) (failValidation_polls Polls.refl))

theorem atStart_tap : SameTap s (atStart code s) := by
  have closed : SameTap s (closeHostData s) := by
    unfold closeHostData
    split
    · exact closeHost_tap SameTap.refl
    · exact SameTap.refl
  unfold atStart
  split
  · exact closed.upd ⟨validateProbe_polls.power, validateProbe_polls.tap⟩
  · exact closed

/-- Settles O39: a refused start is the refusal, in a write that is refused. -/
theorem longOpRefused : Obligations.LongOpRefused := by
  intro code w s known served u refused
  obtain ⟨v, row⟩ := opCmdRow_grants (v := BitVec.ofNat 16 code) served
  have found : Alike u (atStart code { s with verdicts := v }) := atStart_alike ⟨v, rfl⟩
  obtain ⟨w', refusing⟩ := refusal_alike (code := code) (w := w) found
  have answer : opCmdRow (BitVec.ofNat 16 code) s =
      goodWrite 8 (BitVec.ofNat 16 code) (denied { refusal code w u with verdicts := w' }) := by
    rw [row, opCmdWrite_start known, opStart_refused ((startRefused_alike found).trans refused), refusing]
  have shown : Traced (refusal code w u) (goodWrite 8 (BitVec.ofNat 16 code) (denied { refusal code w u with verdicts := w' })) :=
    goodWrite_traced (Traced.upd Traced.refl)
  have apart : OnlyRecords (refusal code w u)
      (goodWrite 8 (BitVec.ofNat 16 code) (denied { refusal code w u with verdicts := w' })) :=
    goodWrite_apart (denied_apart (OnlyRecords.upd OnlyRecords.refl))
  have tap : SameTap s u := atStart_tap
  refine ⟨_, (exec_opRow known).trans (congrArg _ answer), Laws.OnlyRecords.trans refusal_apart apart, ?_, ?_, ?_, ?_, fun quiet => ?_⟩
  · rw [shown.opWhy, refusal_op]
  · rw [shown.opState, refusal_op]
  · rw [shown.opProg, refusal_op]
  · rw [shown.opRecs, refusal_op]
  · have boot : (refusal code w u).power.boot ≠ .held := by
      rw [refusal_power, tap.power]
      exact boot_of_hostServed served
    have off : (refusal code w u).tap.recording = false := by rw [refusal_tap, tap.tap, quiet]
    rw [goodWrite_quiet boot off]
    rfl

/-! ## An abort request (R180) -/

/-- Closing the host's data item changes records only. -/
theorem closeHostData_apart : OnlyRecords s (closeHostData s) := by
  unfold closeHostData
  split
  · next data =>
    have open61 : hostOpen s = some 61 := by simpa using data
    have notTarget : ¬ (38 ≤ 61 ∧ 61 < 42) := by decide
    simp only [closeHost, open61, notTarget, if_false]
    split
    · exact OnlyRecords.refl
    · split
      · exact abandonItem_apart OnlyRecords.refl
      · exact closeItem_apart OnlyRecords.refl
  · exact OnlyRecords.refl

theorem requestAbort_alike (h : Alike s t) : Alike (requestAbort s) (requestAbort t) := by
  obtain ⟨v, rfl⟩ := h
  unfold requestAbort
  dsimp only
  refine alike_ite ⟨v, rfl⟩ ?_
  cases s.tack.job with
  | none => exact ⟨v, rfl⟩
  | some j => exact alike_ite ⟨v, rfl⟩ ⟨v, rfl⟩

/-- An abort request makes its own change in a write that is accepted. -/
theorem opAbort_requests (served : HostServed s) : ∃ t, exec .opAbort s = .next t ∧
    OnlyRecords (requestAbort (closeHostData s)) t ∧ Shown (requestAbort (closeHostData s)) t := by
  obtain ⟨v, row⟩ := opCmdRow_grants (v := 0x8000) served
  have same : Alike s { s with verdicts := v } := ⟨v, rfl⟩
  obtain ⟨w, asked⟩ := requestAbort_alike same.closeHostData
  refine ⟨_, next_congr row, ?_⟩
  rw [opCmdWrite_abort, asked]
  exact ⟨goodWrite_apart (wrote_apart (OnlyRecords.upd OnlyRecords.refl)), goodWrite_shown (Shown.upd Shown.refl)⟩

theorem closeHostData_shows : Shown s (closeHostData s) := closeHostData_shown Shown.refl

theorem opRuns_closeHostData : opRuns (closeHostData s) = opRuns s := by
  simp only [opRuns, closeHostData_shows.state]

/-- The three answers of an abort request: an operation runs, an erase does, or neither. -/
theorem abortAsks (served : HostServed s) :
    let u := closeHostData s
    let asks := fun (x : State) (r : State → Prop) => ∃ t, exec .opAbort s = .next t ∧ OnlyRecords x t ∧
      t.op.state = s.op.state ∧ r t
    (opRuns s = true → asks u (fun t => s.tap.recording = false → t.op.abort = true)) ∧
    (opRuns s = false →
      (∀ j, s.tack.job = some j → j.kind = 3 →
        asks { u with tack := { u.tack with job := some { j with stop := true } } } (fun _ => True)) ∧
      ((∀ j, s.tack.job = some j → j.kind ≠ 3) → asks u (fun t => t.op.abort = s.op.abort))) := by
  intro u asks
  obtain ⟨t, row, apart, shown⟩ := opAbort_requests served
  have runs : opRuns u = opRuns s := opRuns_closeHostData
  have closed : Shown s u := closeHostData_shows
  have job : u.tack.job = s.tack.job := congrArg TackSt.job closeHostData_apart.tack
  refine ⟨fun busy => ?_, fun idle => ⟨fun j erasing kind => ?_, fun spared => ?_⟩⟩
  · have asked : requestAbort u = { u with op := { u.op with abort := true } } := if_pos (runs.trans busy)
    rw [asked] at apart shown
    exact ⟨t, row, Laws.OnlyRecords.trans (OnlyRecords.upd OnlyRecords.refl) apart, shown.state.trans closed.state,
      fun _ => shown.abort⟩
  · have asked : requestAbort u = { u with tack := { u.tack with job := some { j with stop := true } } } := by
      simp [requestAbort, runs, idle, job, erasing, kind]
    rw [asked] at apart shown
    exact ⟨t, row, apart, shown.state.trans closed.state, trivial⟩
  · have asked : requestAbort u = u := by
      simp only [requestAbort, runs, idle, job]
      cases erasing : s.tack.job with
      | none => rfl
      | some j => exact (if_neg Bool.false_ne_true).trans (if_neg (spared j erasing))
    rw [asked] at apart shown
    exact ⟨t, row, apart, shown.state.trans closed.state, shown.abort.trans closed.abort⟩

/-! ## The ends (R177, R178, R180) -/

/-- No write job is at work. -/
def NoJob (s : State) : Prop := s.tack.busy = false ∧ s.tack.job = none

theorem NoJob.apart (h : NoJob s) (k : OnlyRecords s t) : NoJob t := by rw [NoJob, k.tack]; exact h

theorem endJob_none : NoJob (endJob s) := ⟨rfl, rfl⟩

theorem NoJob.scanCopies (h : NoJob s) : NoJob (scanCopies s) := by
  unfold Machine.scanCopies
  extract_lets marks ones
  clear_value marks ones
  exact ⟨h.1, h.2⟩

theorem NoJob.tackWrite {o n bs} (h : NoJob s) : NoJob (tackWrite o n bs s) := ⟨h.1, h.2⟩

theorem NoJob.tackFail {code} (h : NoJob s) : NoJob (tackFail code s) := ⟨h.1, h.2⟩

/-- The job is at work, or over. -/
theorem buildImage_over {j : TackJob} (gone : (buildImage j s).tack.job = none) : NoJob (buildImage j s) := by
  unfold buildImage at gone ⊢
  split at gone
  · next large =>
    rw [if_pos large]
    exact endJob_none.tackWrite.tackFail.scanCopies.apart (opEnd_apart OnlyRecords.refl)
  · cases gone

/-- A job that comes on stays at work, or is over. -/
theorem moveCommit_over {n : Nat} (runs : s.tack.job ≠ none) (gone : (moveCommit n s).tack.job = none) : NoJob (moveCommit n s) := by
  cases work : s.tack.job with
  | none => exact absurd work runs
  | some j =>
    have going : ∀ m, (drawn (opProgress m s)).tack.job = some j := fun m => by
      obtain ⟨_, _, _, form, -⟩ := progress_form (s := s) (n := m)
      rw [form, work]
    simp only [moveCommit, work] at gone ⊢
    split at gone
    · exact absurd (gone.symm.trans work) nofun
    · next kind =>
      rw [if_neg kind]
      split at gone
      · next built =>
        rw [if_pos built]
        exact buildImage_over gone
      · exact absurd (gone.symm.trans (going _)) nofun

/-- A job that is stopped is over. -/
theorem tearJob_none (runs : s.tack.job ≠ none) : NoJob (tearJob s) := by
  unfold tearJob
  dsimp only
  split
  · next gone => exact moveCommit_over runs gone
  · next j _ =>
    have ended : NoJob (drawn (endJob (moveCommit 0 s))) := endJob_none.apart (drawn_apart OnlyRecords.refl)
    refine NoJob.scanCopies ?_
    split
    · exact ended.tackWrite
    · split
      · exact ended.tackWrite
      · exact ended.tackWrite

theorem endOp_shows {st why} : Shown (opEnd st why (stopJob s)) (endOp st why s) :=
  Shown.ite (pumpS0_shown (invalidateCache_shown Shown.refl)) Shown.refl

theorem opEnd_done {st why} : (opEnd st why s).op.code = 0 ∧ (opEnd st why s).op.abort = false ∧
    (opEnd st why s).attn.src.getLsbD 4 = true := by
  simp [opEnd, attend, setBit]

/-- What the registers show after an end. -/
theorem endOp_ends {st why} : (endOp st why s).op.state = st ∧ (endOp st why s).op.why = why ∧ (endOp st why s).op.code = 0 ∧
    (endOp st why s).op.abort = false ∧ (endOp st why s).attn.src.getLsbD 4 = true := by
  have shown := endOp_shows (s := s) (st := st) (why := why)
  obtain ⟨state, reason⟩ := opEnd_shows (x := stopJob s) (st := st) (why := why)
  obtain ⟨code, abort, done⟩ := opEnd_done (s := stopJob s) (st := st) (why := why)
  exact ⟨shown.state.trans state, shown.why.trans reason, shown.code.trans code, shown.abort.trans abort, shown.done done⟩

/-- An end of a stopped erase (log entry 34). -/
theorem erase_stops {e : OpEnd} {j : TackJob} (idle : opRuns s = false) (runs : s.tack.job = some j) (stop : j.stop = true) :
    ∃ t, exec (.longOpEnd e) s = .next t ∧
      t.op.state = 4 ∧ t.op.why = 10 ∧ t.tack.job = none ∧ t.tack.busy = false ∧ t.mode.cur = s.mode.cur := by
  have row : effLongOpEnd e s = opEnd 4 10 (tearJob s) := by
    simp [effLongOpEnd, idle, eraseStops, runs, stop]
  have torn : NoJob (tearJob s) := tearJob_none (by simp [runs])
  obtain ⟨busy, job⟩ : NoJob (opEnd 4 10 (tearJob s)) := torn.apart (opEnd_apart OnlyRecords.refl)
  exact ⟨_, next_congr row, opEnd_shows.1, opEnd_shows.2, job, busy, (opEnd_steady (tearJob_steady Steady.refl)).cur⟩

/-- An end of the running operation by an abort. -/
theorem abort_ends {e : OpEnd} (runs : opRuns s = true) (asked : s.op.abort = true) : ∃ t, exec (.longOpEnd e) s = .next t ∧
    t.op.state = 4 ∧ t.op.why = 10 ∧ t.op.code = 0 ∧ t.op.abort = false ∧
    t.attn.src.getLsbD 4 = true ∧ t.mode.cur = s.mode.cur := by
  have row : effLongOpEnd e s = endOp 4 10 s := (if_pos runs).trans (if_pos asked)
  have kept : Keeps (· = .mode) s (endOp 4 10 s) := endOp_keeps Keeps.refl
  obtain ⟨state, why, code, abort, done⟩ := endOp_ends (s := s) (st := 4) (why := 10)
  exact ⟨_, next_congr row, state, why, code, abort, done, kept.part .mode rfl⟩

/-- An end at the bound, whether a record goes before it or not. -/
theorem bound_ends (runs : opRuns s = true) (bounded : ∀ n, s.op.job ≠ .replay n) : ∃ t, exec .longOpBoundExpiry s = .next t ∧
    t.op.state = 3 ∧ t.op.why = 9 ∧ t.op.code = 0 ∧ t.attn.src.getLsbD 4 = true ∧ t.mode.cur = s.mode.cur := by
  obtain ⟨x, row⟩ : ∃ x, effLongOpBoundExpiry s = endOp 3 9 x := by
    unfold effLongOpBoundExpiry
    rw [if_pos runs]
    split
    · next n replay => exact absurd replay (bounded n)
    · exact ⟨_, rfl⟩
    · exact ⟨_, rfl⟩
  have kept : Keeps (· = .mode) s (effLongOpBoundExpiry s) := effLongOpBoundExpiry_keeps Keeps.refl
  obtain ⟨state, why, code, -, done⟩ := endOp_ends (s := x) (st := 3) (why := 9)
  rw [← row] at state why code done
  exact ⟨_, rfl, state, why, code, done, kept.part .mode rfl⟩

/-! ## The ends that the hardware reports (R108, R292, R401) -/

/-- The end of an operation that holds nothing is that of the registers alone. -/
theorem endOp_plain {st why} (plain : holdsNothing s.op.job = true) : endOp st why s = opEnd st why s := by
  have stop : stopJob s = s := by
    unfold stopJob
    split <;> simp_all [holdsNothing]
  have flash : flashJob s = false := by
    unfold flashJob
    split <;> simp_all [holdsNothing]
  unfold endOp
  rw [stop, flash]
  exact if_neg Bool.false_ne_true

theorem opEnd_prog {why} : (opEnd 2 why s).op.prog = 255 := by
  simp [opEnd]

/-! ### PROFILE_LOAD -/

/-- The operation of `s` is `o`. -/
def HasOp (o : OpSt) (s : State) : Prop := s.op = o

variable {o : OpSt}

theorem HasOp.polls (h : HasOp o s) (k : Polls s t) : HasOp o t := k.op.trans h

theorem HasOp.foldl {α : Type} {f : State → α → State} {l : List α} (hf : ∀ x a, HasOp o x → HasOp o (f x a)) :
    ∀ {x : State}, HasOp o x → HasOp o (l.foldl f x) := by
  induction l with
  | nil => exact fun h => h
  | cons a l ih => exact fun h => ih (hf _ a h)

theorem setStatWord_hasOp {a v} (h : HasOp o s) : HasOp o (setStatWord a v s) := h

theorem clearSelects_hasOp (h : HasOp o s) : HasOp o (clearSelects s) := by
  unfold clearSelects
  exact HasOp.foldl (fun _ _ h => HasOp.foldl (fun _ _ h => setStatWord_hasOp h) h) h

theorem clearStatuses_hasOp (h : HasOp o s) : HasOp o (clearStatuses s) := by
  unfold clearStatuses
  refine HasOp.foldl (fun x n h => ?_) (HasOp.foldl (fun _ _ h => h.polls (setEstat_polls Polls.refl)) h)
  split
  · exact h.polls (setEstat_polls Polls.refl)
  · exact h

theorem validateAll_hasOp (h : HasOp o s) : HasOp o (validateAll s) := by
  unfold validateAll
  exact HasOp.foldl (fun _ _ h => h.polls (validateEp_polls Polls.refl)) h

theorem refreshStaging_hasOp (h : HasOp o s) : HasOp o (refreshStaging s) := by
  unfold refreshStaging
  split
  · exact h
  · extract_lets +onlyGivenNames _ s1
    have hs1 : HasOp o s1 := h
    clear_value s1
    split
    · exact hs1
    · exact hs1.polls (modBank_polls Polls.refl)

theorem resetCond_hasOp (h : HasOp o s) : HasOp o (resetCond s) := h

theorem staleWindows_hasOp (h : HasOp o s) : HasOp o (staleWindows s) := h

theorem userOk_hasOp (h : HasOp o s) : HasOp o (userOk s) := h

theorem loadHeader_hasOp {l : List Byte} (h : HasOp o s) : HasOp o (loadHeader l s) := h

theorem grant_hasOp {p b} (h : HasOp o s) : HasOp o (grant p b s) := grant_op.trans h

theorem invalidateCache_hasOp (h : HasOp o s) : HasOp o (invalidateCache s) := by
  unfold invalidateCache
  exact grant_hasOp h

/-- An expansion leaves the operation as the write job that comes on leaves it. -/
theorem expandUser_op {p : Profile} : (expandUser p s).op = (moveCommit 0 s).op := by
  rw [expandUser_eq]
  refine adapting_adapts.op.trans ?_
  have moved : HasOp (moveCommit 0 s).op (invalidateCache (moveCommit 0 s)) := invalidateCache_hasOp rfl
  unfold expansion
  extract_lets +onlyGivenNames x
  exact refreshStaging_hasOp (staleWindows_hasOp (resetCond_hasOp (validateAll_hasOp (clearSelects_hasOp (clearStatuses_hasOp
    (userOk_hasOp (grant_hasOp (loadHeader_hasOp moved))))))))

/-- A write job that comes on leaves the operation at its job, or ended with none. -/
theorem moveCommit_job {n : Nat} : (moveCommit n s).op.job = s.op.job ∨ (moveCommit n s).op.job = .none := by
  have same : ∀ m, (drawn (opProgress m s)).op.job = s.op.job := fun m => by simp [drawn, opProgress]
  unfold moveCommit
  split
  · exact .inl rfl
  · split
    · exact .inl rfl
    · dsimp only
      split
      · unfold buildImage
        split
        · exact .inr (by simp [opEnd])
        · exact .inl (same _)
      · exact .inl (same _)

theorem opPost_job {w0 w1 w2 w3 : Nat} : (opPost w0 w1 w2 w3 s).op.job = s.op.job := by
  unfold opPost
  dsimp only
  split <;> simp

theorem endJobWith_load (load : s.op.job = .load) : endJobWith .complete s = endLoad s := by
  unfold endJobWith
  rw [load]

theorem endJobWith_selfTest {m : Word} {isl : Bool} {reports : List TestReport} (test : s.op.job = .selfTest m isl) :
    endJobWith (.selfTest reports) s =
      if s.fault.restarting.isEmpty && reports.all (groupSelected m isl s) then endSelfTest reports s else s := by
  unfold endJobWith
  rw [test]

theorem endJobWith_selfTest_failed {m : Word} {isl : Bool} (test : s.op.job = .selfTest m isl) :
    endJobWith .failed s = endOp 3 8 s := by
  unfold endJobWith
  rw [test]

theorem endJobWith_autoRate {ch : Chan} {ms n : Nat} {verifying c pex : Bool} {x : Option Nat}
    (rate : s.op.job = .autoRate ch ms verifying) :
    endJobWith (.autoRate x n c pex) s = endAutoRate verifying x n c pex s := by
  unfold endJobWith
  rw [rate]

section Reported

variable (runs : opRuns s = true) (going : s.op.abort = false)

include runs going

theorem end_row {e : OpEnd} : effLongOpEnd e s = endJobWith e s := by
  unfold effLongOpEnd
  rw [if_pos runs, going]
  exact if_neg Bool.false_ne_true

/-- Every reported end leaves the mode. -/
theorem end_cur {e : OpEnd} : (endJobWith e s).mode.cur = s.mode.cur := by
  have kept : Keeps (· = .mode) s (effLongOpEnd e s) := effLongOpEnd_keeps nofun Keeps.refl
  rw [← end_row runs going]
  exact kept.part .mode rfl

omit runs going in
theorem load_ends (load : s.op.job = .load) {p : Profile} (good : checkArea s.tack.sel.toNat s = .ok p) :
    let t := endJobWith .complete s
    t.op.state = 2 ∧ t.op.why = 0 ∧ t.op.prog = 255 ∧ t.cfg.user = expandSections p.sections := by
  intro t
  obtain ⟨w0, w1, w2, w3, row⟩ : ∃ w0 w1 w2 w3, t = endOp 2 0 (opPost w0 w1 w2 w3 (expandUser p s)) := by
    rw [show t = endLoad s from endJobWith_load load, endLoad]
    dsimp only
    rw [good]
    exact ⟨_, _, _, _, rfl⟩
  have expanded : HasUser (expandSections p.sections) (expandUser p s) := expandUser_user
  have job : (opPost w0 w1 w2 w3 (expandUser p s)).op.job = (moveCommit 0 s).op.job :=
    opPost_job.trans (congrArg OpSt.job expandUser_op)
  have plain : holdsNothing (opPost w0 w1 w2 w3 (expandUser p s)).op.job = true := by
    rw [job]
    rcases moveCommit_job (s := s) (n := 0) with same | none
    · rw [same, load]
      rfl
    · rw [none]
      rfl
  generalize expandUser p s = x at row plain expanded
  rw [row, endOp_plain plain]
  refine ⟨opEnd_shows.1, opEnd_shows.2, opEnd_prog, ?_⟩
  rw [(opEnd_apart (opPost_apart OnlyRecords.refl)).cfg]
  exact expanded

omit runs going in
theorem load_fails (load : s.op.job = .load) {w : BitVec 2} (bad : checkArea s.tack.sel.toNat s = .error w) :
    let t := endJobWith .complete s
    t.op.state = 3 ∧ t.op.why = 8 ∧ t.tack.usrOk = false ∧ t.cfg = s.cfg := by
  intro t
  have row : t = opEnd 3 8 { s with tack := { s.tack with usrOk := false } } := by
    rw [show t = endLoad s from endJobWith_load load, endLoad]
    dsimp only
    rw [bad]
    exact endOp_plain (by rw [load]; rfl)
  have apart : OnlyRecords { s with tack := { s.tack with usrOk := false } } t := by
    rw [row]
    exact opEnd_apart OnlyRecords.refl
  rw [apart.tack, apart.cfg, row]
  exact ⟨opEnd_shows.1, opEnd_shows.2, rfl, rfl⟩

/-! ### SELF_TEST and AUTO_RATE -/

omit runs going in
theorem selfTest_row {m : Word} {isl : Bool} (test : s.op.job = .selfTest m isl) (idle : s.fault.restarting = []) :
    endJobWith (.selfTest []) s = opEnd 2 0 s := by
  have row : endJobWith (.selfTest []) s = endOp 2 0 s := by
    rw [endJobWith_selfTest test, idle]
    rfl
  exact row.trans (endOp_plain (by rw [test]; rfl))

omit runs going in
theorem selfTest_failed {m : Word} {isl : Bool} (test : s.op.job = .selfTest m isl) : endJobWith .failed s = opEnd 3 8 s := by
  exact (endJobWith_selfTest_failed test).trans (endOp_plain (by rw [test]; rfl))

omit runs going in
theorem autoRate_row {ch : Chan} {ms x frames bt n0 n1 : Nat} (rate : s.op.job = .autoRate ch ms true) (heard : 2 ≤ frames)
    (few : frames < 256) (long : 60 ≤ x) (candidate : rateCandidate x = some (bt, n0, n1)) :
    endJobWith (.autoRate (some x) frames true false) s = opEnd 2 0 (opPost bt n0 n1 frames s) := by
  have row : endJobWith (.autoRate (some x) frames true false) s = endOp 2 0 (opPost bt n0 n1 frames s) := by
    have most : min 255 frames = frames := by omega
    have heldOut : Option.filter (fun y => decide (60 ≤ y)) (some x) = some x := by simp [long]
    rw [endJobWith_autoRate rate, endAutoRate]
    simp only [heldOut, candidate]
    simp [heard, most, bit]
  refine row.trans (endOp_plain ?_)
  rw [opPost_job, rate]
  rfl

end Reported

/-- A record that there is room for is the newest. -/
theorem opPost_newest {w0 w1 w2 w3 : Nat} (room : s.op.recs.length < 992) :
    (opPost w0 w1 w2 w3 s).op.newest = ⟨BitVec.ofNat 16 w0, BitVec.ofNat 16 w1, BitVec.ofNat 16 w2, BitVec.ofNat 16 w3⟩ := by
  simp [opPost, room]

theorem opEnd_newest {st why} : (opEnd st why s).op.newest = s.op.newest := by
  simp [opEnd]

/-- Settles O41. -/
theorem longOpEnds : Obligations.LongOpEnds := by
  refine ⟨⟨fun s served => abortAsks served, fun e s j idle runs stop => erase_stops idle runs stop,
    fun e s runs asked => abort_ends runs asked, fun s runs bounded => bound_ends runs bounded⟩, fun s runs going => ?_⟩
  intro ends
  have reported {e : OpEnd} {r : State → Prop} (h : r (endJobWith e s)) : ends e r :=
    ⟨_, next_congr (end_row runs going), end_cur runs going, h⟩
  refine ⟨fun load => ⟨fun p good => reported (load_ends load good), fun w bad => reported (load_fails load bad)⟩,
    fun m isl test => ⟨fun idle => reported ?_, reported ?_⟩, fun ch ms x frames rate heard few long bt n0 n1 candidate room => reported ?_⟩
  · rw [selfTest_row test idle]
    exact ⟨opEnd_apart OnlyRecords.refl, opEnd_shows.1, opEnd_prog⟩
  · rw [selfTest_failed test]
    exact ⟨opEnd_apart OnlyRecords.refl, opEnd_shows.1, opEnd_shows.2⟩
  · rw [autoRate_row rate heard few long candidate]
    exact ⟨opEnd_apart (opPost_apart OnlyRecords.refl), opEnd_shows.1, opEnd_newest.trans (opPost_newest room)⟩

end Sys2Proof.Proofs.LongOps

/-! PROOFS. The steps of running long operations (R208, R209, R292, R327, R375). -/

namespace Sys2Proof.Proofs.LongOpSteps

set_option Elab.async false

open Sys2Proof.Machine Sys2Proof.Safety Sys2Proof.Laws Sys2Proof.Proofs.Shared Sys2Proof.Proofs.Operation Sys2Proof.Proofs.Frame
  Sys2Proof.Proofs.LongOps Sys2Proof.Proofs.Grants

variable {s t u x : State}

/-! ## The scan -/

theorem probeMayRun_advance {port : Nat} {t0 : HubTime} : probeMayRun port (advance t0 s) = probeMayRun port s := by
  unfold advance
  split
  · rfl
  · split <;> rfl

theorem iportOf_advance {p : Nat} {t0 : HubTime} : iportOf p (advance t0 s) = iportOf p s := by
  rw [iportOf, iportOf, advance_iports]

theorem opPost_recs {w0 w1 w2 w3 : Nat} (room : s.op.recs.length < 992) :
    (opPost w0 w1 w2 w3 s).op.recs.length = s.op.recs.length + 1 := by
  simp [opPost, room]

theorem opEnd_results {st why} : (opEnd st why s).op.newest = s.op.newest ∧ (opEnd st why s).op.recs = s.op.recs := by
  simp [opEnd]

/-- A scan that goes on, or is done, keeps its records. -/
theorem scanFrom_results {port next last : Nat} {ten : Bool} {total probed : Nat} (plain : holdsNothing s.op.job = true) :
    (scanFrom port next last ten total probed s).op.newest = s.op.newest ∧
    (scanFrom port next last ten total probed s).op.recs = s.op.recs := by
  unfold scanFrom
  split
  · rw [endOp_plain plain]
    exact opEnd_results
  · exact ⟨by simp [opProgress], by simp [opProgress]⟩

section Scan

variable {port a last total probed : Nat} {ten rep : Bool} {t0 : HubTime} (runs : opRuns s = true)
  (scan : s.op.job = .rollCall port a last ten total probed rep) (may : probeMayRun port s = true)
  (free : (iportOf (port - 6) s).stk = false)

include runs scan may

theorem probe_row {out : ProbeOutcome} :
    effRollCallProbe out t0 s = probeEnds port a last ten total probed rep out (advance t0 s) := by
  have job : (advance t0 s).op.job = .rollCall port a last ten total probed rep := by rw [advance_op, scan]
  have busy : opRuns (advance t0 s) = true := by rw [opRuns, advance_op]; exact runs
  unfold effRollCallProbe
  dsimp only
  rw [job]
  dsimp only
  rw [busy, probeMayRun_advance, may]
  rfl

omit runs scan may in
include free in
/-- The two ends of a probe on a bus that is not stuck. -/
theorem probe_acked : ∃ x w0 w1 w2 w3, Shown s x ∧ w0 % 1024 = a % 1024 ∧
    probeEnds port a last ten total probed rep .acked s = scanFrom port (a + 1) last ten total (probed + 1) (opPost w0 w1 w2 w3 x) := by
  unfold probeEnds
  dsimp only
  rw [free]
  refine ⟨_, _, _, _, _, countXfer_shown (recPort_shown (sendI_shown Shown.refl)), ?_, rfl⟩
  omega

omit runs scan may in
include free in
theorem probe_notAcked : ∃ x, Shown s x ∧
    probeEnds port a last ten total probed rep .notAcked s = scanFrom port (a + 1) last ten total (probed + 1) x := by
  unfold probeEnds
  dsimp only
  rw [free]
  exact ⟨_, countNack_shown (recPort_shown (sendI_shown Shown.refl)), rfl⟩

include free

theorem rollCall_acked (room : s.op.recs.length < 992) : ∃ t, exec (.rollCallProbe .acked t0) s = .next t ∧
    t.op.recs.length = s.op.recs.length + 1 ∧ t.mode.cur = s.mode.cur ∧ t.op.newest.w0.toNat % 1024 = a % 1024 := by
  have free' : (iportOf (port - 6) (advance t0 s)).stk = false := by rw [iportOf_advance, free]
  obtain ⟨x, w0, w1, w2, w3, shown, address, row⟩ := probe_acked (a := a) (last := last) (ten := ten) (total := total) (probed := probed)
    (rep := rep) free'
  have kept : Keeps (· = .mode) s (effRollCallProbe .acked t0 s) := effRollCallProbe_keeps Keeps.refl
  have op : (advance t0 s).op = s.op := advance_op
  have recs : x.op.recs = s.op.recs := shown.recs.trans (congrArg OpSt.recs op)
  have left : x.op.recs.length < 992 := by rw [recs]; exact room
  have plain : holdsNothing (opPost w0 w1 w2 w3 x).op.job = true := by
    rw [opPost_job]
    refine shown.plain ?_
    rw [op, scan]
    rfl
  obtain ⟨newest, posted⟩ := scanFrom_results (port := port) (next := a + 1) (last := last) (ten := ten) (total := total)
    (probed := probed + 1) plain
  have same := (probe_row (out := .acked) runs scan may (t0 := t0)).trans row
  refine ⟨_, rfl, ?_, kept.part .mode rfl, ?_⟩
  · rw [same, posted, opPost_recs left, recs]
  · rw [same, newest, opPost_newest left, BitVec.toNat_ofNat]
    omega

theorem rollCall_notAcked : ∃ t, exec (.rollCallProbe .notAcked t0) s = .next t ∧
    t.op.recs = s.op.recs ∧ t.mode.cur = s.mode.cur := by
  have free' : (iportOf (port - 6) (advance t0 s)).stk = false := by rw [iportOf_advance, free]
  obtain ⟨x, shown, row⟩ := probe_notAcked (a := a) (last := last) (ten := ten) (total := total) (probed := probed) (rep := rep) free'
  have kept : Keeps (· = .mode) s (effRollCallProbe .notAcked t0 s) := effRollCallProbe_keeps Keeps.refl
  have op : (advance t0 s).op = s.op := advance_op
  have plain : holdsNothing x.op.job = true := by
    refine shown.plain ?_
    rw [op, scan]
    rfl
  obtain ⟨-, results⟩ := scanFrom_results (port := port) (next := a + 1) (last := last) (ten := ten) (total := total)
    (probed := probed + 1) plain
  have same := (probe_row (out := .notAcked) runs scan may (t0 := t0)).trans row
  refine ⟨_, rfl, ?_, kept.part .mode rfl⟩
  rw [same, results, shown.recs, op]

end Scan

/-! ## AUTO_RATE -/

theorem autoRate_verifies {ch : Chan} {ms : Nat} (runs : opRuns s = true) (rate : s.op.job = .autoRate ch ms false) :
    effAutoRateVerifyStart s = opProgress 128 { s with op := { s.op with job := .autoRate ch ms true } } := by
  unfold effAutoRateVerifyStart
  rw [rate]
  exact if_pos runs

theorem autoRate_steps {ch : Chan} {ms : Nat} (runs : opRuns s = true) (rate : s.op.job = .autoRate ch ms false) :
    Gives .autoRateVerifyStart s { s with op := { s.op with
      job := .autoRate ch ms true, prog := BitVec.ofNat 8 (min 255 (max s.op.prog.toNat 128)) } } := by
  obtain ⟨w, progress⟩ := grant_alike (p := 19) (b := true) (s := { s with op := { s.op with
    job := .autoRate ch ms true, prog := BitVec.ofNat 8 (min 255 (max s.op.prog.toNat 128)) } })
  exact ⟨w, next_congr ((autoRate_verifies runs rate).trans progress)⟩

/-! ## A segment of the drain to the host -/

theorem drainWaits_apart {n : Nat} (K : OnlyRecords u s) : OnlyRecords u (drainWaits n s) := by
  unfold drainWaits
  extract_lets +onlyGivenNames rest
  exact OnlyRecords.upd K

theorem drainMoved_apart {blocks out keep} (K : OnlyRecords u s) : OnlyRecords u (drainMoved blocks out keep s) := by
  unfold drainMoved
  split
  · exact opProgress_apart (OnlyRecords.upd K)
  · exact K

theorem putCellItems_apart {n bs} (K : OnlyRecords u s) : OnlyRecords u (putCellItems n bs s) := by
  induction n generalizing bs s with
  | zero => exact K
  | succ n ih =>
    unfold putCellItems
    refine ih ?_
    cases e : putItem 49 .drain 0 (bs.take 64) 0 s with
    | none => exact K
    | some t => exact putItem_apart K e

theorem pumpDrain_apart {n} (h : OnlyRecords u s) : OnlyRecords u (pumpDrain n s) := by
  induction n generalizing s with
  | zero => exact h
  | succ n ih =>
    unfold pumpDrain
    split
    · split
      · exact h
      · split
        · next t e =>
          have taken : OnlyRecords u t.2 := by
            split at e
            · cases e
            · exact takeItem_apart h e
          split
          · exact ih (drainMoved_apart taken)
          · dsimp only
            split
            · exact ih (drainMoved_apart (putCellItems_apart taken))
            · exact drainWaits_apart h
        · exact OnlyRecords.ite (drainMoved_apart h) (OnlyRecords.ite (drainMoved_apart (putCellItems_apart h)) (drainWaits_apart h))
    · exact h

theorem runDrain_apart (K : OnlyRecords u s) : OnlyRecords u (runDrain s) := by
  unfold runDrain
  exact pumpDrain_apart (drainWaits_apart K)

theorem postSegment_results {first skip : Nat} {seg : List Byte} {fz err : Bool} (room : s.op.recs.length < 992) :
    (postSegment first seg skip fz err s).op.recs.length = s.op.recs.length + 1 ∧
    (postSegment first seg skip fz err s).op.newest.w2 = BitVec.ofNat 16 seg.length ∧
    (postSegment first seg skip fz err s).op.state = s.op.state := by
  unfold postSegment
  extract_lets g
  refine ⟨opPost_recs room, congrArg OpRecord.w2 (opPost_newest room), ?_⟩
  simp [opPost, room]

theorem drain_steps {addr blocks total done skip : Nat} {cur seg : List Byte} {fz : Bool} (runs : opRuns s = true)
    (drain : s.op.job = .drain false addr blocks cur seg total done skip fz) (some : seg ≠ [])
    (full : 4096 ≤ seg.length ∨ (cur = [] ∧ blocks = 0)) (room : s.op.recs.length < 992) :
    ∃ t, exec (.drainSegmentDone false) s = .next t ∧ OnlyRecords s t ∧ t.op.state = 1 ∧
      t.op.recs.length = s.op.recs.length + 1 ∧ t.op.newest.w2 = BitVec.ofNat 16 (min 4096 seg.length) := by
  have ready : (opRuns s && !seg.isEmpty && (decide (4096 ≤ seg.length) || (cur.isEmpty && blocks == 0))) = true := by
    simp [runs, some, full]
  obtain ⟨posted, newest, state⟩ := postSegment_results (first := done - seg.length) (seg := seg.take 4096) (skip := skip) (fz := fz)
    (err := false) room
  have apart : OnlyRecords s (postSegment (done - seg.length) (seg.take 4096) skip fz false s) := postSegment_apart OnlyRecords.refl
  obtain ⟨job, row⟩ : ∃ job, effDrainSegmentDone false s =
      let s1 := postSegment (done - seg.length) (seg.take 4096) skip fz false s
      runDrain { s1 with op := { s1.op with job := job } } := by
    unfold effDrainSegmentDone
    rw [drain]
    exact ⟨_, if_pos ready⟩
  generalize postSegment (done - seg.length) (seg.take 4096) skip fz false s = x at *
  have shown : Shown { x with op := { x.op with job := job } } (runDrain { x with op := { x.op with job := job } }) :=
    runDrain_shown Shown.refl
  refine ⟨_, next_congr row, runDrain_apart (OnlyRecords.upd apart), ?_, ?_, ?_⟩
  · exact shown.state.trans (state.trans (by simpa [opRuns] using runs))
  · exact (congrArg List.length shown.recs).trans posted
  · exact (congrArg OpRecord.w2 shown.newest).trans (newest.trans (by rw [List.length_take]))

/-! ## The status polls of a flash job -/

/-- What a status poll shows of its job. -/
theorem flash_polls {addr : Nat} {erase sent : Bool} {data : List Byte} {last status : Byte} (runs : opRuns s = true)
    (flash : s.op.job = .flash addr erase data true sent last) (ready : sReady 0 (flashSel s) s = true)
    (turn : sTurn 0 .flash s = true) :
    let t := effFlashStatusPoll status s
    (t.op.state, t.op.why) = (if sent then (if status.getLsbD 0 then (s.op.state, s.op.why) else (2, 0))
      else if status.getLsbD 1 then (s.op.state, s.op.why) else (3, 8)) := by
  intro t
  have pass : (opRuns s && sReady 0 (flashSel s) s && sTurn 0 .flash s) = true := by simp [runs, ready, turn]
  have held : holdsNothing s.op.job = false := by rw [flash]; rfl
  have polled : Shown s (sendFlash (rdsrOp s) none [] 1 s) := sendFlash_shown Shown.refl
  have same {x : State} (h : Shown s x) : (x.op.state, x.op.why) = (s.op.state, s.op.why) := by rw [h.state, h.why]
  have ended {x : State} {st why} : ((endOp st why x).op.state, (endOp st why x).op.why) = (st, why) := by
    obtain ⟨state, reason, -⟩ := endOp_ends (s := x) (st := st) (why := why)
    rw [state, reason]
  have row : t = effFlashStatusPoll status s := rfl
  unfold effFlashStatusPoll at row
  rw [flash] at row
  dsimp only at row
  rw [if_pos pass] at row
  cases sent with
  | true =>
    rw [if_pos rfl] at row ⊢
    split at row
    · next busy =>
      rw [if_pos busy, row]
      exact same (pumpS0_shown (Shown.working Shown.refl held polled))
    · next idle =>
      rw [if_neg idle, row]
      exact ended
  | false =>
    rw [if_neg Bool.false_ne_true] at row ⊢
    split at row
    · next off =>
      have off : ¬ status.getLsbD 1 = true := by simpa using off
      rw [if_neg off, row]
      exact ended
    · next on =>
      have on : status.getLsbD 1 = true := by simpa using on
      rw [if_pos on, row]
      have written {o a l} : Shown s (sendFlash o a l 0 (sendFlash (rdsrOp s) none [] 1 s)) := sendFlash_shown polled
      refine same (pumpS0_shown (opProgress_shown (Shown.working Shown.refl held ?_)))
      exact Shown.ite written written

/-- Settles O42. -/
theorem longOpSteps : Obligations.LongOpSteps := by
  refine fun s runs => ⟨fun port a last ten total probed rep t0 scan may free room =>
      ⟨rollCall_acked runs scan may free room, rollCall_notAcked runs scan may free⟩,
    fun ch ms rate => autoRate_steps runs rate, fun addr blocks cur seg total done skip fz drain some full room => drain_steps runs drain some full room,
    fun addr erase data sent last status flash ready turn => ⟨_, rfl, ?_, flash_polls runs flash ready turn⟩⟩
  have kept : Keeps (· = .mode) s (effFlashStatusPoll status s) := effFlashStatusPoll_keeps Keeps.refl
  exact kept.part .mode rfl

end Sys2Proof.Proofs.LongOpSteps

/-! PROOFS. Lanes (chapter 09, R185 to R192): where a lane stands, what a step makes of it, and the ports that it lets go. -/

namespace Sys2Proof.Proofs.Lanes

set_option Elab.async false

open Sys2Proof.Machine Sys2Proof.Safety Sys2Proof.Laws Sys2Proof.Proofs.Shared Sys2Proof.Proofs.Wire Sys2Proof.Proofs.Grants

variable {s t u x : State} {i p : Nat} {l : Lane} {st : Step}

/-! ## One lane -/

/-- `t` has lane `i` of `s` at `l`, and every other lane as it was. -/
structure AtLane (i : Nat) (s : State) (l : Lane) (t : State) : Prop where
  lane : laneOf i t = l
  others : ∀ j, j ≠ i → laneOf j t = laneOf j s
  count : t.poll.lanes.length = s.poll.lanes.length

theorem AtLane.refl : AtLane i s (laneOf i s) s := ⟨rfl, fun _ _ => rfl, rfl⟩

theorem AtLane.mod {f : Lane → Lane} (h : AtLane i s l t) (inside : i < s.poll.lanes.length) : AtLane i s (f l) (modLane i f t) := by
  obtain ⟨lane, others, count⟩ := h
  refine ⟨?_, fun j other => ?_, ?_⟩
  · rw [laneOf_modLane (by rw [count]; exact inside), lane]
  · rw [laneOf_modLane_ne other, others j other]
  · rw [modLane_lanes, modifyNth_length, count]

theorem AtLane.waitFor {w : LaneWait} (h : AtLane i s l t) (inside : i < s.poll.lanes.length) :
    AtLane i s { l with wait := w } (waitFor i w t) := h.mod (f := fun l => { l with wait := w }) inside

theorem AtLane.nextStep (h : AtLane i s l t) (inside : i < s.poll.lanes.length) :
    AtLane i s { l with pc := l.pc + 1, wait := .ready, discard := false } (nextStep i t) :=
  h.mod (f := fun l => { l with pc := l.pc + 1, wait := .ready, discard := false }) inside

/-- A change that leaves the lanes as they are. -/
theorem AtLane.same (h : AtLane i s l t) (k : u.poll.lanes = t.poll.lanes) : AtLane i s l u := by
  obtain ⟨lane, others, count⟩ := h
  have lanes : ∀ j, laneOf j u = laneOf j t := fun j => by rw [laneOf, laneOf, k]
  exact ⟨(lanes i).trans lane, fun j other => (lanes j).trans (others j other), by rw [k, count]⟩

/-! ## The counts and the memories of the invariant -/

theorem counts_of_inv (inv : Inv s) : s.poll.lanes.length = 16 ∧ s.sports.length = 4 ∧ s.iports.length = 4 ∧ s.tports.length = 4 := by
  have counts := inv.counts
  simp only [shape, specShape, List.cons.injEq] at counts
  obtain ⟨lanes, -, -, -, -, -, -, -, sports, iports, tports, -⟩ := counts
  exact ⟨lanes, sports, iports, tports⟩

theorem status_of_inv (inv : Inv s) : Memory.wf zeroDflt s.cfg.status = true := by
  have memories := inv.memories
  simp only [memoriesWf, Bool.and_eq_true] at memories
  exact memories.1.1.2

/-! ## The step at which a lane stands -/

theorem atStep_stands {q : Step → Bool} (stands : StandsAt i st s) (kind : q st = true) : atStep i q s = some st := by
  obtain ⟨ready, step⟩ := stands
  simp [atStep, ready, step, kind]

/-! ## Ports let go (R189, R191) -/

theorem wires_form (h : Wires s t) : ∃ sports iports op status verdicts, t = { s with
    sports := sports, iports := iports, op := op, cfg := { s.cfg with status := status }, verdicts := verdicts } := by
  obtain ⟨power, mode, fault, pins, rein, attn, op, auth, tack, ⟨user, fallback, status⟩⟩ := t
  obtain ⟨⟨⟩, ⟨⟩, ⟨⟩, ⟨⟩, ⟨⟩, ⟨⟩, ⟨⟩, ⟨⟩, ⟨⟩, ⟨⟩, ⟨⟩, ⟨⟩, ⟨⟩, ⟨⟩, ⟨⟩, ⟨⟩, ⟨⟩, ⟨⟩, ⟨⟩, ⟨⟩, ⟨⟩, ⟨⟩⟩ := h
  exact ⟨_, _, _, _, _, rfl⟩

/-- A lane with its ports let go. -/
def letGo (l : Lane) : Lane := { l with held := [], openTx := false }

theorem releasePorts_wires : Wires (modLane i letGo s) (releasePorts i s) := by
  unfold releasePorts
  extract_lets +onlyGivenNames l s1 s2
  have released : Wires s s1 := Wires.foldl (fun x p h => Wires.ite (releaseSelect_wires h) h) Wires.refl
  have lane : Wires (modLane i letGo s) s2 := by
    obtain ⟨_, _, _, _, _, form⟩ := wires_form released
    simp only [s2, form]
    exact Wires.upd Wires.refl
  exact Wires.foldl (fun _ _ h => pumpPort_wires h) (grants_wires lane)

theorem releasePorts_lane (inside : i < s.poll.lanes.length) : AtLane i s (letGo (laneOf i s)) (releasePorts i s) :=
  (AtLane.refl.mod (f := letGo) inside).same (congrArg PollSt.lanes releasePorts_wires.poll)

/-! ### Held selects -/

/-- The select of S port `q` is held by no run of CONT-joined frames. -/
def Raised (q : Nat) (s : State) : Prop := (sportOf q s).hold = none

variable {q : Nat}

theorem raised_of_sports (h : Raised q s) (k : t.sports = s.sports) : Raised q t := by
  rw [Raised, sportOf, k]
  exact h

/-- A change of a port that holds its select no further. -/
theorem Raised.modSPort {f : SPortSt → SPortSt} (keeps : ∀ y, y.hold = none → (f y).hold = none) (h : Raised q s) :
    Raised q (modSPort p f s) := by
  unfold Raised
  by_cases same : q = p
  · subst same
    by_cases inside : q < s.sports.length
    · rw [sportOf_modSPort inside]
      exact keeps _ h
    · rw [sportOf, Shared.getD_outside]
      · rfl
      · rw [modSPort_sports, modifyNth_length]
        omega
  · rw [sportOf, modSPort_sports, modifyNth_getD_ne same]
    exact h

theorem releaseSelect_raises : Raised q (releaseSelect q s) := by
  unfold Raised releaseSelect
  by_cases inside : q < s.sports.length
  · rw [sportOf_modSPort inside]
  · rw [sportOf, Shared.getD_outside]
    · rfl
    · rw [modSPort_sports, modifyNth_length]
      omega

theorem grants_raised {gs} (h : Raised q s) : Raised q (grants gs s) := raised_of_sports h grants_sports

theorem sendFrame_raised {who f out} (h : Raised q s) : Raised q (sendFrame p who f out s) := by
  unfold sendFrame openFrame
  refine (grants_raised (h.modSPort fun y free => ?_)).modSPort fun y free => free
  dsimp only
  rw [free]
  exact ite_self _

theorem sendFlash_raised {o a bs n} (h : Raised q s) : Raised q (sendFlash o a bs n s) := by
  unfold sendFlash
  exact raised_of_sports (sendFrame_raised h) rfl

theorem startSfdp_raised (h : Raised q s) : Raised q (startSfdp s) := by
  unfold startSfdp sendSfdp
  split
  · exact (sendFrame_raised h).modSPort fun y free => free
  · exact h

theorem startEnable_raised (h : Raised q s) : Raised q (startEnable s) := by
  unfold startEnable
  split
  · split
    · exact raised_of_sports (sendFlash_raised (o := field (runWord 0x2A08 s) 0 8) (a := none) (bs := []) (n := 0) h) rfl
    · exact h
  · exact h

theorem startFill_raised (h : Raised q s) : Raised q (startFill s) := by
  unfold startFill beginFill sendFill
  split
  · split
    · exact (sendFrame_raised h).modSPort fun y free => free
    · exact h
  · exact h

theorem dropHold_sports : (dropHold p s).sports = s.sports := by
  unfold dropHold
  split <;> rfl

theorem startPt_sports : (startPt p s).sports = s.sports := by
  unfold startPt
  split
  · exact dropHold_sports.trans grants_sports
  · rfl

/-- What a port that has come free starts holds no select. -/
theorem pumpPort_raised (h : Raised q s) : Raised q (pumpPort p s) := by
  unfold pumpPort pumpS0
  split
  · exact startFill_raised (startEnable_raised (startSfdp_raised h))
  · split
    · exact raised_of_sports h startPt_sports
    · exact h

theorem foldl_raised {α : Type} {f : State → α → State} (hf : ∀ x a, Raised q x → Raised q (f x a)) {l : List α} :
    ∀ {s : State}, Raised q s → Raised q (l.foldl f s) := by
  induction l with
  | nil => exact fun h => h
  | cons a l ih => exact fun h => ih (hf _ a h)

/-- Where one of the steps reaches it and every step keeps it. -/
theorem foldl_reaches {α : Type} {f : State → α → State} {a : α} (hit : ∀ x, Raised q (f x a))
    (hf : ∀ x a, Raised q x → Raised q (f x a)) {l : List α} (there : a ∈ l) : ∀ {s : State}, Raised q (l.foldl f s) := by
  induction l with
  | nil => cases there
  | cons b l ih =>
    intro s
    rcases List.mem_cons.mp there with rfl | later
    · exact foldl_raised (s := f s _) hf (hit s)
    · exact ih later

theorem releaseSelect_raised (h : Raised q s) : Raised q (releaseSelect p s) := h.modSPort fun _ _ => rfl

/-- Every select that the lane held is raised (R191). -/
theorem releasePorts_raised {p : Nat} (port : isSPort p = true) (held : p ∈ (laneOf i s).held) :
    Raised (p - 2) (releasePorts i s) := by
  unfold releasePorts
  extract_lets +onlyGivenNames l s1 s2
  have raised : Raised (p - 2) s1 := by
    refine foldl_reaches (a := p) (fun x => ?_) (fun x a h => ?_) held
    · rw [if_pos port]
      exact releaseSelect_raises
    · split
      · exact releaseSelect_raised h
      · exact h
  exact foldl_raised (fun _ _ h => pumpPort_raised h) (grants_raised (raised_of_sports raised rfl))

end Sys2Proof.Proofs.Lanes

/-! PROOFS. The steps of a lane that move nothing on a bus (R185, R189 to R191, R202). -/

namespace Sys2Proof.Proofs.LaneSteps

set_option Elab.async false

open Sys2Proof.Machine Sys2Proof.Safety Sys2Proof.Laws Sys2Proof.Proofs.Shared Sys2Proof.Proofs.Wire Sys2Proof.Proofs.Grants
  Sys2Proof.Proofs.Lanes

variable {s t u x : State} {p : Nat} {i : Fin 16}

/-! ## Waits, flushes and skips -/

theorem wait_row {us : Nat} (stands : StandsAt i.val (.wait us) s) : effWait i s = waitFor i.val .time s := by
  simp only [effWait, atStep_stands stands]

theorem waitt_row {us : Nat} (stands : StandsAt i.val (.waitt us) s) :
    effWaitt i s = if 16 * us ≤ (s.time.now - (laneOf i.val s).splitHt).toNat then nextStep i.val s else waitFor i.val .time s := by
  simp only [effWaitt, atStep_stands stands]

theorem waitpin_row {level : Bool} {mf : Nat} (stands : StandsAt i.val (.waitpin level mf) s) :
    effWaitpin i s = drawn (if mfReads mf level s then nextStep i.val s else waitFor i.val (.pin mf level) s) := by
  simp only [effWaitpin, atStep_stands stands]
  split <;> rfl

theorem flush_row {always : Bool} (stands : StandsAt i.val (.flush always) s) :
    effFlush i s = if always || estat (laneOf i.val s).ep 1 s then modLane i.val (fun l => { l with discard := true }) (nextStep i.val s)
      else modLane i.val (fun l => { l with pc := l.pc + 2 }) s := by
  simp only [effFlush, atStep_stands stands]

theorem skip_row {n off mask val : Nat} {sense : Bool} (stands : StandsAt i.val (.skip n sense off mask val) s) :
    effSkip i s = modLane i.val (fun l => { l with
      pc := l.pc + 1 + (if (Nat.land ((laneOf i.val s).buf.getD off 0).toNat mask == val) != sense then n else 0) }) s := by
  simp only [effSkip, atStep_stands stands]

/-! ## Ports acquired (R189, R190) -/

/-- The lane that ACQ makes of `l` with the ports `held`: it waits for the first that it does not hold, or goes on. -/
def acquired (l : Lane) (held : List Nat) : Lane :=
  match (descOf l.cfg l.ep).ports.find? (fun p => !held.contains p) with
  | some p => { l with held := held, wait := .port p }
  | none => { l with held := held, pc := l.pc + 1, wait := .ready, discard := false }

/-- What `acquire` changes: the lane's own wait, in the poll engine alone. -/
theorem acquire_lane {j : Nat} {l : Lane} (at_ : AtLane j s l t) (inside : j < s.poll.lanes.length) :
    AtLane j s (acquired l l.held) (acquire j t) ∧ ∃ w, acquire j t = { t with poll := w } := by
  unfold acquire acquired
  dsimp only
  rw [at_.lane]
  cases (descOf l.cfg l.ep).ports.find? (fun p => !l.held.contains p) with
  | some p => exact ⟨at_.waitFor inside, _, rfl⟩
  | none => exact ⟨at_.nextStep inside, _, rfl⟩

section Acquire

variable (lanes : s.poll.lanes.length = 16)

include lanes

theorem acq_becomes (stands : StandsAt i.val .acq s) :
    AtLane i.val s (acquired (laneOf i.val s) (laneOf i.val s).held) (effAcq i s) ∧
    effAcq i s = { s with poll := (effAcq i s).poll } := by
  have row : effAcq i s = acquire i.val s := by simp only [effAcq, atStep_stands stands, beq_self_eq_true]
  obtain ⟨lane, w, form⟩ := acquire_lane (AtLane.refl (i := i.val) (s := s)) (by omega)
  rw [row]
  exact ⟨lane, by rw [form]⟩

/-- A grant in the lane's turn. -/
theorem portGrant_becomes (waits : (laneOf i.val s).wait = .port p)
    (granted : (!portHeld p s && fairTurn i.val p s && passes (portAsks i.val p) s) = true) :
    AtLane i.val s (acquired (laneOf i.val s) ((laneOf i.val s).held ++ [p])) (effPortGrant i s) ∧
    effPortGrant i s = { s with poll := (effPortGrant i s).poll, verdicts := (effPortGrant i s).verdicts } := by
  have row : effPortGrant i s = acquire i.val (grantPort i.val p (grants (portAsks i.val p) s)) := by
    simp only [effPortGrant, waits]
    exact if_pos granted
  have inside : i.val < s.poll.lanes.length := by omega
  obtain ⟨w, asked⟩ : Alike s (grants (portAsks i.val p) s) := grants_alike
  have held : AtLane i.val s { laneOf i.val s with held := (laneOf i.val s).held ++ [p] }
      (grantPort i.val p (grants (portAsks i.val p) s)) := by
    rw [asked]
    exact AtLane.mod (f := fun l => { l with held := l.held ++ [p] }) (AtLane.same AtLane.refl rfl) inside
  obtain ⟨lane, poll, form⟩ := acquire_lane held inside
  rw [row]
  refine ⟨lane, ?_⟩
  rw [form, asked]
  rfl

end Acquire

theorem portGrant_waits (waits : (laneOf i.val s).wait = .port p)
    (refused : ¬ (!portHeld p s && fairTurn i.val p s && passes (portAsks i.val p) s) = true) : effPortGrant i s = s := by
  simp only [effPortGrant, waits]
  exact if_neg refused

/-! ## REL (R191) -/

theorem rel_becomes (lanes : s.poll.lanes.length = 16) (stands : StandsAt i.val .rel s) :
    let t := effRel i s
    AtLane i.val s { laneOf i.val s with
      held := [], openTx := false, pc := (laneOf i.val s).pc + 1, wait := .ready, discard := false } t ∧
    t = { s with poll := t.poll, sports := t.sports, iports := t.iports, op := t.op
                 cfg := { s.cfg with status := t.cfg.status }, verdicts := t.verdicts } ∧
    ∀ p, 2 ≤ p → p < 6 → p ∈ (laneOf i.val s).held → (sportOf (p - 2) t).hold = none := by
  intro t
  have row : t = nextStep i.val (releasePorts i.val s) := by simp only [t, effRel, atStep_stands stands, beq_self_eq_true]
  have inside : i.val < s.poll.lanes.length := by omega
  rw [row]
  refine ⟨(releasePorts_lane inside).nextStep inside, ?_, fun p low high held => ?_⟩
  · obtain ⟨_, _, _, _, _, form⟩ := wires_form (releasePorts_wires (s := s) (i := i.val))
    rw [form]
    rfl
  · exact raised_of_sports (releasePorts_raised (by simp [isSPort, low, high]) held) rfl

/-- Settles O43. -/
theorem laneSteps : Obligations.LaneSteps := by
  refine ⟨fun i s => ?_, fun i s => ?_⟩
  · refine ⟨fun us stands => next_congr (wait_row stands), fun us stands => next_congr (waitt_row stands),
      fun waits => next_congr (if_pos waits), fun level mf stands => next_congr (waitpin_row stands), fun level mf waits => ?_,
      fun always stands => next_congr (flush_row stands), fun n sense off mask val stands => next_congr (skip_row stands)⟩
    refine next_congr ?_
    simp only [effWaitpinMatch, waits]
    rfl
  · intro run ports goes becomes lanes
    refine ⟨fun stands => ?_, fun p waits => ⟨fun free turn asks => ?_, fun refused => ?_⟩, fun stands => ?_⟩
    · obtain ⟨lane, form⟩ := acq_becomes lanes stands
      exact ⟨_, rfl, lane.lane, lane.others, form⟩
    · obtain ⟨lane, form⟩ := portGrant_becomes lanes waits (by simp [free, turn, asks])
      exact ⟨_, rfl, lane.lane, lane.others, form⟩
    · exact next_congr (portGrant_waits waits (by rcases refused with h | h | h <;> simp [h]))
    · obtain ⟨lane, form, raised⟩ := rel_becomes lanes stands
      exact ⟨_, rfl, lane.lane, lane.others, form, raised⟩

end Sys2Proof.Proofs.LaneSteps

/-! PROOFS. GET and WAITFRM (R192 to R194): what they put into the sample buffer, and what they wait for. -/

namespace Sys2Proof.Proofs.LaneData

set_option Elab.async false

open Sys2Proof.Machine Sys2Proof.Safety Sys2Proof.Laws Sys2Proof.Proofs.Shared Sys2Proof.Proofs.Grants Sys2Proof.Proofs.Lanes

variable {s t u x : State} {l run : Lane} {off n : Nat} {bytes : List Byte} {ht t0 : HubTime} {j : Nat}

/-! ## The sample buffer -/

/-- Lane `l` goes on with the next step, and has the buffer of `run` with `bytes` in it from `off` on. -/
def filled (run : Lane) (off : Nat) (bytes : List Byte) (l : Lane) : Lane :=
  let bs := bytes.take (32 - off)
  { l with
    buf := (run.buf.take off ++ bs ++ run.buf.drop (off + bs.length)).take 32
    high := if bs.isEmpty then run.high else max run.high (off + bs.length)
    pc := run.pc + 1, wait := .ready, discard := false }

/-- A GET stamps a lane without port data (R194). -/
def stamped (ht : HubTime) (l : Lane) : Lane := if l.portData then l else { l with sht := ht, timed := true }

theorem AtLane.got (h : AtLane j s l t) (inside : j < s.poll.lanes.length) :
    AtLane j s (filled l off bytes (stamped ht l)) (nextStep j (stampGet j ht (putBytes j off bytes t))) := by
  have put := h.mod (f := fun l =>
    let b := bytes.take (32 - off)
    { l with buf := (l.buf.take off ++ b ++ l.buf.drop (off + b.length)).take 32
             high := if b.isEmpty then l.high else max l.high (off + b.length) }) inside
  have stepped := (put.mod (f := stamped ht) inside).nextStep inside
  refine ⟨stepped.lane.trans ?_, stepped.others, stepped.count⟩
  cases data : l.portData <;> simp [filled, stamped, data]

theorem AtLane.took (h : AtLane j s l t) (inside : j < s.poll.lanes.length) :
    AtLane j s (filled l off bytes { l with sht := ht, timed := true, portData := true })
      (nextStep j (stampPort j ht (putBytes j off bytes t))) :=
  ((h.mod (f := fun l =>
    let b := bytes.take (32 - off)
    { l with buf := (l.buf.take off ++ b ++ l.buf.drop (off + b.length)).take 32
             high := if b.isEmpty then l.high else max l.high (off + b.length) }) inside).mod
    (f := fun l => { l with sht := ht, timed := true, portData := true }) inside).nextStep inside

/-! ## GET (R193) -/

theorem laneOf_advance : laneOf j (advance t0 s) = laneOf j s := by rw [laneOf, laneOf, advance_poll]

theorem stepOf_advance : stepOf j (advance t0 s) = stepOf j s := by rw [stepOf, stepOf, laneOf_advance]

theorem stands_advance {st : Step} (h : StandsAt j st s) : StandsAt j st (advance t0 s) := by
  rw [StandsAt, laneOf_advance, stepOf_advance]
  exact h

section Get

variable {i : Fin 16} {f : Nat}

theorem get_time (stands : StandsAt i.val (.get 0 f off n) s) :
    effGet i t0 s = nextStep i.val (stampGet i.val (advance t0 s).time.now
      (putBytes i.val off (leBytes 6 (advance t0 s).time.now.toNat) (advance t0 s))) := by
  simp only [effGet, atStep_stands (stands_advance stands)]
  rfl

theorem get_field (stands : StandsAt i.val (.get 1 f off n) s)
    (there : (laneOf i.val s).probe = true ∨ sampleAwaited n (advance t0 s) = false) :
    effGet i t0 s = copyField i.val f off n (advance t0 s) := by
  have none : ¬ (!(laneOf i.val (advance t0 s)).probe && sampleAwaited n (advance t0 s)) = true := by
    rw [laneOf_advance]
    rcases there with h | h <;> simp [h]
  simp only [effGet, atStep_stands (stands_advance stands)]
  rw [if_neg (by decide), if_neg none]

theorem get_waits (stands : StandsAt i.val (.get 1 f off n) s) (own : (laneOf i.val s).probe = false)
    (awaited : sampleAwaited n (advance t0 s) = true) : effGet i t0 s = waitFor i.val (.sample n) (advance t0 s) := by
  have some : (!(laneOf i.val (advance t0 s)).probe && sampleAwaited n (advance t0 s)) = true := by
    rw [laneOf_advance, own, awaited]
    rfl
  simp only [effGet, atStep_stands (stands_advance stands)]
  rw [if_neg (by decide), if_pos some]

theorem heldUp_advance {q b} : heldUp q b (advance t0 s) = heldUp q b s := by
  unfold advance
  split
  · rfl
  · split <;> rfl

theorem getReady_row {src m : Nat} (waits : (laneOf i.val s).wait = .sample n) (step : stepOf i.val s = some (.get src f off m))
    (there : sampleAwaited n (advance t0 s) = false) (granted : heldUp (107 + i.val) false s = false) :
    effGetSampleReady i t0 s = copyField i.val f off m (grant (107 + i.val) false (advance t0 s)) := by
  simp only [effGetSampleReady, laneOf_advance, waits, there, heldUp_advance, granted, stepOf_advance, step]
  rfl

theorem getReady_waits (waits : (laneOf i.val s).wait = .sample n)
    (not : sampleAwaited n (advance t0 s) = true ∨ heldUp (107 + i.val) false s = true) :
    effGetSampleReady i t0 s = advance t0 s := by
  simp only [effGetSampleReady, laneOf_advance, waits, heldUp_advance]
  rcases not with h | h <;> simp [h]

/-- What the end of a GET shows, over the state that it finds. -/
theorem got_ends (inside : i.val < u.poll.lanes.length) :
    let t := nextStep i.val (stampGet i.val ht (putBytes i.val off bytes u))
    t = { u with poll := t.poll, cfg := { u.cfg with status := t.cfg.status }, verdicts := t.verdicts } ∧
    laneOf i.val t = filled (laneOf i.val u) off bytes (stamped ht (laneOf i.val u)) :=
  ⟨rfl, (AtLane.got AtLane.refl inside).lane⟩

theorem copied_ends {m : Nat} {v : VerdictSt} (inside : i.val < u.poll.lanes.length) :
    let t := copyField i.val f off m { u with verdicts := v }
    t = { u with poll := t.poll, cfg := { u.cfg with status := t.cfg.status }, verdicts := t.verdicts } ∧
    laneOf i.val t = filled (laneOf i.val u) off (leBytes 4 (stagedField m f u).toNat) (stamped u.time.now (laneOf i.val u)) :=
  ⟨rfl, (AtLane.got (s := { u with verdicts := v }) AtLane.refl inside).lane⟩

theorem waited_ends {w : LaneWait} (inside : i.val < u.poll.lanes.length) :
    let t := waitFor i.val w u
    t = { u with poll := t.poll, cfg := { u.cfg with status := t.cfg.status }, verdicts := t.verdicts } ∧
    laneOf i.val t = { laneOf i.val u with wait := w } :=
  ⟨rfl, (AtLane.waitFor AtLane.refl inside).lane⟩

end Get

/-! ## WAITFRM (R192) -/

section Waitfrm

variable {i : Fin 16} {len : Nat}

theorem waitfrm_dropped (stands : StandsAt i.val (.waitfrm len off) s)
    (dropped : portDropped (descOf (laneOf i.val s).cfg (laneOf i.val s).ep).port s = true) :
    effWaitfrm i s = failAttempt i.val 10 s := by
  simp only [effWaitfrm, atStep_stands stands]
  exact if_pos dropped

theorem waitfrm_waits (stands : StandsAt i.val (.waitfrm len off) s)
    (works : portDropped (descOf (laneOf i.val s).cfg (laneOf i.val s).ep).port s = false)
    (none : s.poll.held.find? (fun h => h.ep == (laneOf i.val s).ep) = none) :
    effWaitfrm i s = waitFor i.val .frm (frameAwaited (descOf (laneOf i.val s).cfg (laneOf i.val s).ep).port s) := by
  simp only [effWaitfrm, atStep_stands stands, works, none]
  rfl

/-- The frames held for other endpoints. -/
def taken (n : Nat) (s : State) : State := { s with poll := { s.poll with held := s.poll.held.filter (fun h => h.ep != n) } }

theorem waitfrm_takes (stands : StandsAt i.val (.waitfrm len off) s)
    (works : portDropped (descOf (laneOf i.val s).cfg (laneOf i.val s).ep).port s = false) {h : HeldFrame}
    (there : s.poll.held.find? (fun h => h.ep == (laneOf i.val s).ep) = some h) :
    effWaitfrm i s = nextStep i.val (stampPort i.val h.ht (putBytes i.val off (h.bytes.take len)
      (setEstat (laneOf i.val s).ep 3 false (taken (laneOf i.val s).ep s)))) := by
  have step : stepOf i.val (setEstat (laneOf i.val s).ep 3 false (taken (laneOf i.val s).ep s)) = some (.waitfrm len off) := stands.2
  simp only [effWaitfrm, atStep_stands stands, works, there]
  rw [if_neg Bool.false_ne_true]
  change takeFrame i.val h.ht h.bytes (setEstat (laneOf i.val s).ep 3 false (taken (laneOf i.val s).ep s)) = _
  simp only [takeFrame, step]

end Waitfrm

/-- A number with a bit cleared. -/
theorem nbit_cleared {v b : Nat} : nbit (v - bit (nbit v b) * 2 ^ b) b = false := by
  unfold nbit
  cases on : v.testBit b with
  | false => simp [bit, on]
  | true =>
    rw [Nat.testBit_eq_decide_div_mod_eq] at on ⊢
    have less : (v - 2 ^ b * 1) / 2 ^ b = v / 2 ^ b - 1 := Nat.sub_mul_div v (2 ^ b) 1
    simp only [bit, if_true, Nat.one_mul, Nat.mul_one] at less ⊢
    simp only [decide_eq_true_eq] at on
    simp only [decide_eq_false_iff_not, less]
    omega

theorem nbit_byte {v b : Nat} (small : b < 8) : nbit (BitVec.ofNat 8 v).toNat b = nbit v b := by
  unfold nbit
  rw [BitVec.toNat_ofNat, Nat.testBit_mod_two_pow, decide_eq_true small, Bool.true_and]

theorem estat_cleared (wf : Memory.wf zeroDflt s.cfg.status = true) {b : Nat} (small : b < 8) :
    estat n b (setEstat n b false s) = false := by
  unfold estat setEstat setStatByte statByte
  dsimp only
  rw [read_write wf, if_pos rfl, nbit_byte small]
  rw [show bit false * 2 ^ b = 0 from Nat.zero_mul _, Nat.add_zero]
  exact nbit_cleared

theorem estat_of_cfg {b : Nat} (k : t.cfg = s.cfg) : estat n b t = estat n b s := by
  rw [estat, estat, statByte, statByte, k]

/-- Settles O44. -/
theorem laneData : Obligations.LaneData := by
  intro i s inv run filled' got ends
  have inside : i.val < s.poll.lanes.length := by
    rw [(counts_of_inv inv).1]
    exact i.isLt
  have run_eq : ∀ t0, laneOf i.val (advance t0 s) = run := fun t0 => laneOf_advance
  have inside' : ∀ t0, i.val < (advance t0 s).poll.lanes.length := fun t0 => by rw [advance_poll]; exact inside
  refine ⟨fun t0 f off n => ⟨fun stands => ?_, fun stands => ⟨fun there => ?_, fun own awaited => ?_⟩⟩,
    fun t0 src f off n m waits step => ⟨fun there granted => ?_, fun not => next_congr (getReady_waits waits not)⟩,
    fun len off stands => ⟨fun dropped => next_congr (waitfrm_dropped stands dropped), fun works => ⟨fun none => ?_, fun h there => ?_⟩⟩⟩
  · obtain ⟨form, lane⟩ := got_ends (ht := (advance t0 s).time.now) (off := off) (bytes := leBytes 6 (advance t0 s).time.now.toNat)
      (inside' t0)
    rw [run_eq] at lane
    exact ⟨_, next_congr (get_time stands), form, lane⟩
  · obtain ⟨form, lane⟩ := copied_ends (off := off) (f := f) (m := n) (v := (advance t0 s).verdicts) (inside' t0)
    rw [run_eq] at lane
    exact ⟨_, next_congr (get_field stands there), form, lane⟩
  · obtain ⟨form, lane⟩ := waited_ends (w := .sample n) (inside' t0)
    rw [run_eq] at lane
    exact ⟨_, next_congr (get_waits stands own awaited), form, lane⟩
  · obtain ⟨v, passed⟩ := grant_alike (p := 107 + i.val) (b := false) (s := advance t0 s)
    obtain ⟨form, lane⟩ := copied_ends (off := off) (f := f) (m := m) (v := v) (inside' t0)
    rw [run_eq] at lane
    exact ⟨_, next_congr ((getReady_row waits step there granted).trans (congrArg _ passed)), form, lane⟩
  · obtain ⟨v, met⟩ : Alike s (frameAwaited (descOf run.cfg run.ep).port s) := by
      unfold frameAwaited
      split
      · exact grant_alike
      · exact Alike.refl
    obtain ⟨form, lane⟩ := waited_ends (w := .frm) (u := { s with verdicts := v }) inside
    exact ⟨_, next_congr ((waitfrm_waits stands works none).trans (congrArg _ met)), form, lane⟩
  · have cleared : estat run.ep 3 (setEstat run.ep 3 false (taken run.ep s)) = false :=
      estat_cleared (s := taken run.ep s) (show Memory.wf zeroDflt s.cfg.status = true from status_of_inv inv) (by decide)
    have at_ : AtLane i.val s run (setEstat run.ep 3 false (taken run.ep s)) := AtLane.same AtLane.refl rfl
    have held : (setEstat run.ep 3 false (taken run.ep s)).poll.held = s.poll.held.filter (fun h => h.ep != run.ep) := rfl
    refine ⟨_, next_congr (waitfrm_takes stands works there), ?_⟩
    generalize setEstat run.ep 3 false (taken run.ep s) = x at *
    exact ⟨(AtLane.took at_ inside).lane, held, (estat_of_cfg rfl).trans cleared⟩

end Sys2Proof.Proofs.LaneData

/-! PROOFS. The status parts of the endpoints (Table 09-3) and the dispatch of waiting runs (R187): what a dispatch, and the release of a
lane's ports, leave of the counters, of LAST, and of the runs that have begun. -/

namespace Sys2Proof.Proofs.RunStatus

set_option Elab.async false

open Sys2Proof.Machine Sys2Proof.Safety Sys2Proof.Laws Sys2Proof.Proofs.Shared Sys2Proof.Proofs.Grants Sys2Proof.Proofs.Wire
  Sys2Proof.Proofs.Lanes

variable {b0 s t u x : State} {l : Lane} {n i p a v : Nat}

/-! ## The status parts -/

/-- A byte of a status part other than LANE and ESTAT. -/
def Lasts (a : Nat) : Prop := 0x10000 ≤ a ∧ a % 64 ≠ 0x3C ∧ a % 64 ≠ 0x3E

/-- The status area stays canonical, and every byte of a status part but LANE and ESTAT reads as it did. -/
structure Marks (u t : State) : Prop where
  wf : Memory.wf zeroDflt u.cfg.status = true → Memory.wf zeroDflt t.cfg.status = true
  same : Memory.wf zeroDflt u.cfg.status = true → ∀ a, Lasts a → statByte a t = statByte a u

theorem Marks.refl : Marks s s := ⟨id, fun _ _ _ => rfl⟩

theorem Marks.trans (h : Marks b0 s) (k : Marks s t) : Marks b0 t :=
  ⟨k.wf ∘ h.wf, fun wf a lasts => (k.same (h.wf wf) a lasts).trans (h.same wf a lasts)⟩

/-- A change elsewhere. -/
theorem Marks.upd (h : Marks b0 s) (k : t.cfg.status = s.cfg.status := by with_reducible rfl) : Marks b0 t := by
  refine h.trans ⟨fun wf => by rw [k]; exact wf, fun _ a _ => ?_⟩
  rw [statByte, statByte, k]

theorem Marks.ite {c : Prop} [Decidable c] (hs : Marks b0 s) (ht : Marks b0 t) : Marks b0 (if c then s else t) := by
  split <;> assumption

theorem Marks.foldl {α : Type} {f : State → α → State} (hf : ∀ x a, Marks b0 x → Marks b0 (f x a)) {l : List α} :
    ∀ {s : State}, Marks b0 s → Marks b0 (l.foldl f s) := by
  induction l with
  | nil => exact fun h => h
  | cons a l ih => exact fun h => ih (hf _ a h)

theorem statByte_setStatByte (wf : Memory.wf zeroDflt s.cfg.status = true) {b : Nat} :
    statByte b (setStatByte a v s) = if b = a then v % 256 else statByte b s := by
  unfold statByte setStatByte
  dsimp only
  rw [read_write wf]
  split
  · exact BitVec.toNat_ofNat v 8
  · rfl

theorem statWord_bytes : statWord a s = statByte a s + 256 * statByte (a + 1) s := rfl

theorem statWord_setStatWord (wf : Memory.wf zeroDflt s.cfg.status = true) : statWord a (setStatWord a v s) = v % 65536 := by
  rw [statWord_bytes]
  simp only [statByte, setStatWord, leBytes, Memory.writeBytes]
  rw [read_write (wf_write wf), read_write (wf_write wf), read_write wf, if_neg (by omega), if_pos rfl, if_pos rfl,
    BitVec.toNat_ofNat, BitVec.toNat_ofNat]
  omega

theorem Marks.word (h : Marks s t) (wf : Memory.wf zeroDflt s.cfg.status = true) (low : Lasts a) (high : Lasts (a + 1)) :
    statWord a t = statWord a s := by
  rw [statWord_bytes, statWord_bytes, h.same wf a low, h.same wf _ high]

theorem setStatByte_marks (spared : ¬ Lasts a) (h : Marks b0 s) : Marks b0 (setStatByte a v s) := by
  refine h.trans ⟨fun wf => wf_write wf, fun wf b lasts => ?_⟩
  rw [statByte_setStatByte wf, if_neg]
  rintro rfl
  exact spared lasts

theorem setEstat_marks {b on} (h : Marks b0 s) : Marks b0 (setEstat n b on s) :=
  setStatByte_marks (by simp only [Lasts, epAddr]; omega) h

theorem setStatWord_marks (low : a + 2 ≤ 0x10000) (h : Marks b0 s) : Marks b0 (setStatWord a v s) := by
  refine h.trans ⟨fun wf => wf_writeBytes wf, fun wf b lasts => ?_⟩
  unfold statByte setStatWord
  dsimp only
  rw [read_writeBytes_other wf (.inr (Nat.le_trans low lasts.1))]

theorem grants_marks {gs} (h : Marks b0 s) : Marks b0 (grants gs s) := h.upd (by rw [grants_cfg])

theorem grant_marks {q b} (h : Marks b0 s) : Marks b0 (grant q b s) := h.upd (by rw [grant_cfg])

theorem modSPort_marks {f} (h : Marks b0 s) : Marks b0 (modSPort p f s) := h.upd rfl

theorem modIPort_marks {f} (h : Marks b0 s) : Marks b0 (modIPort p f s) := h.upd rfl

theorem modLane_marks {f} (h : Marks b0 s) : Marks b0 (modLane i f s) := h.upd rfl

/-! ### Ports let go -/

theorem sendFrame_marks {q who f out} (h : Marks b0 s) : Marks b0 (sendFrame q who f out s) := by
  unfold sendFrame openFrame
  exact modSPort_marks (grants_marks (modSPort_marks h))

theorem sendFlash_marks {o d bs m} (h : Marks b0 s) : Marks b0 (sendFlash o d bs m s) := by
  unfold sendFlash countFrame countWord
  exact setStatWord_marks (by decide) (sendFrame_marks h)

theorem startSfdp_marks (h : Marks b0 s) : Marks b0 (startSfdp s) := by
  unfold startSfdp sendSfdp
  exact Marks.ite (modSPort_marks (sendFrame_marks h)) h

theorem startEnable_marks (h : Marks b0 s) : Marks b0 (startEnable s) := by
  unfold startEnable
  split
  · exact Marks.ite (Marks.upd (s := sendFlash (field (runWord 0x2A08 s) 0 8) none [] 0 s) (sendFlash_marks h) rfl) h
  · exact h

theorem startFill_marks (h : Marks b0 s) : Marks b0 (startFill s) := by
  unfold startFill beginFill sendFill
  split
  · exact Marks.ite (modSPort_marks (sendFrame_marks h)) h
  · exact h

theorem pumpS0_marks (h : Marks b0 s) : Marks b0 (pumpS0 s) := startFill_marks (startEnable_marks (startSfdp_marks h))

theorem dropHold_marks (port : p < 4) (h : Marks b0 s) : Marks b0 (dropHold p s) := by
  unfold dropHold
  exact Marks.ite (setStatWord_marks (by simp only [portBlock]; omega) (modIPort_marks h)) h

theorem startPt_marks (port : p < 4) (h : Marks b0 s) : Marks b0 (startPt p s) := by
  unfold startPt sendI
  exact Marks.ite (modIPort_marks (dropHold_marks port (grants_marks (modIPort_marks h)))) h

theorem pumpPort_marks (h : Marks b0 s) : Marks b0 (pumpPort p s) := by
  unfold pumpPort
  refine Marks.ite (pumpS0_marks h) ?_
  split
  · next port =>
    simp only [isIPort, Bool.and_eq_true, decide_eq_true_eq] at port
    exact startPt_marks (by omega) h
  · exact h

theorem releasePorts_marks (h : Marks b0 s) : Marks b0 (releasePorts i s) := by
  unfold releasePorts
  extract_lets +onlyGivenNames l s1 s2
  have released : Marks b0 s1 := Marks.foldl (fun x p h => Marks.ite (modSPort_marks h) h) h
  exact Marks.foldl (fun _ _ h => pumpPort_marks h) (grants_marks (modLane_marks released))

/-! ## Dispatch (R187) -/

/-- What a dispatch leaves: the samples on their way, the trigger parts that have ended, and every run on a lane. -/
structure Deals (u t : State) : Prop where
  pend : t.poll.pend = u.poll.pend
  aheadDone : t.poll.aheadDone = u.poll.aheadDone
  count : t.poll.lanes.length = u.poll.lanes.length
  busy : ∀ j, (laneOf j u).wait ≠ .free → laneOf j t = laneOf j u

theorem Deals.refl : Deals s s := ⟨rfl, rfl, rfl, fun _ _ => rfl⟩

theorem Deals.trans (h : Deals b0 s) (k : Deals s t) : Deals b0 t :=
  ⟨k.pend.trans h.pend, k.aheadDone.trans h.aheadDone, k.count.trans h.count,
    fun j on => (k.busy j (by rw [h.busy j on]; exact on)).trans (h.busy j on)⟩

theorem startRun_marks {r ahead} (h : Marks b0 s) : Marks b0 (startRun i r ahead s) := by
  unfold startRun
  exact setEstat_marks (setStatByte_marks (by simp only [Lasts, epAddr]; omega) (modLane_marks (modLane_marks h)))

/-- A run that starts changes its lane twice. -/
theorem startRun_form {r ahead} : ∃ f g : Lane → Lane, (startRun i r ahead s).poll = (modLane i g (modLane i f s)).poll ∧
    ∀ l, (g (f l)).ep = r.ep ∧ (g (f l)).wait = .ready := ⟨_, _, rfl, fun _ => ⟨rfl, rfl⟩⟩

/-- The lane that a run gets. -/
theorem startRun_lane {r ahead} (inside : i < s.poll.lanes.length) :
    (laneOf i (startRun i r ahead s)).ep = r.ep ∧ (laneOf i (startRun i r ahead s)).wait = .ready := by
  obtain ⟨f, g, poll, shows⟩ := startRun_form (i := i) (r := r) (ahead := ahead) (s := s)
  have lane := (((AtLane.refl.mod (f := f) inside).mod (f := g) inside).same (congrArg PollSt.lanes poll)).lane
  rw [lane]
  exact shows _

/-- A free lane takes a run out of `x`, which has the lanes of `s`. -/
theorem startRun_deals {r ahead} (free : (laneOf i s).wait = .free) (pend : x.poll.pend = s.poll.pend)
    (done : x.poll.aheadDone = s.poll.aheadDone) (lanes : x.poll.lanes = s.poll.lanes) : Deals s (startRun i r ahead x) := by
  obtain ⟨f, g, poll, -⟩ := startRun_form (i := i) (r := r) (ahead := ahead) (s := x)
  refine ⟨?_, ?_, ?_, fun j on => ?_⟩
  · rw [poll]
    exact pend
  · rw [poll]
    exact done
  · rw [poll, modLane_lanes, modLane_lanes, modifyNth_length, modifyNth_length, lanes]
  · have other : j ≠ i := fun same => on (same ▸ free)
    rw [laneOf, poll, modLane_lanes, modLane_lanes, modifyNth_getD_ne other, modifyNth_getD_ne other, lanes]
    rfl

theorem dispatch_marks (h : Marks b0 s) : Marks b0 (dispatch s) := by
  unfold dispatch
  refine Marks.foldl (fun x j h => ?_) h
  split
  · split
    · exact Marks.ite h (startRun_marks (grant_marks (h.upd rfl)))
    · split
      · exact Marks.ite h (startRun_marks (grant_marks (h.upd rfl)))
      · exact h
  · exact h

theorem free_of_laneFree (h : laneFree i s = true) : (laneOf i s).wait = .free := by
  simp only [laneFree, Bool.and_eq_true, beq_iff_eq] at h
  exact h.1

/-- The runs that one lane may take leave it free, or start there. -/
theorem dispatch_deals : Deals s (dispatch s) := by
  unfold dispatch
  generalize List.range 16 = js
  induction js generalizing s with
  | nil => exact Deals.refl
  | cons j js ih =>
    rw [List.foldl_cons]
    refine Deals.trans ?_ ih
    split
    · next open_ =>
      have free : (laneOf j s).wait = .free := free_of_laneFree (by simp only [Bool.and_eq_true] at open_; exact open_.1.1)
      split
      · split
        · exact Deals.refl
        · exact startRun_deals free (by rw [grant_poll]) (by rw [grant_poll]) (by rw [grant_poll])
      · split
        · split
          · exact Deals.refl
          · exact startRun_deals free (by rw [grant_poll]) (by rw [grant_poll]) (by rw [grant_poll])
        · exact Deals.refl
    · exact Deals.refl

/-- A run of endpoint `n` is on a lane, or waits. -/
def Begun (n : Nat) (s : State) : Prop :=
  (∃ j, (laneOf j s).wait ≠ .free ∧ (laneOf j s).ep = n) ∨ ∃ r ∈ s.poll.waiting ++ s.poll.triggers ++ s.poll.aheadDone, r.ep = n

theorem epRuns_of_begun (h : Begun n s) : epRuns n s = true := by
  unfold epRuns
  rw [Bool.or_eq_true]
  rcases h with ⟨j, on, ep⟩ | ⟨r, there, ep⟩
  · refine .inl (List.any_eq_true.mpr ⟨laneOf j s, ?_, by simp [on, ep]⟩)
    unfold laneOf at on ⊢
    rw [List.getD_eq_getElem?_getD] at on ⊢
    cases lane : s.poll.lanes[j]? with
    | none =>
      rw [lane] at on
      exact absurd rfl on
    | some l => exact List.mem_of_getElem? lane
  · exact .inr (List.any_eq_true.mpr ⟨r, there, by simp [ep]⟩)

/-- Runs of `n` go on when a run out of the waiting ones starts on a free lane. -/
theorem startRun_begun {r ahead} (inside : i < x.poll.lanes.length) (free : (laneOf i s).wait = .free)
    (lanes : x.poll.lanes = s.poll.lanes) (moves : ∀ q ∈ s.poll.waiting ++ s.poll.triggers ++ s.poll.aheadDone,
      q = r ∨ q ∈ x.poll.waiting ++ x.poll.triggers ++ x.poll.aheadDone) (h : Begun n s) : Begun n (startRun i r ahead x) := by
  obtain ⟨f, g, poll, -⟩ := startRun_form (i := i) (r := r) (ahead := ahead) (s := x)
  obtain ⟨ep, ready⟩ := startRun_lane (r := r) (ahead := ahead) inside
  rcases h with ⟨j, on, own⟩ | ⟨q, there, own⟩
  · have other : j ≠ i := fun same => on (same ▸ free)
    have same : laneOf j (startRun i r ahead x) = laneOf j s := by
      rw [laneOf, poll, modLane_lanes, modLane_lanes, modifyNth_getD_ne other, modifyNth_getD_ne other, lanes]
      rfl
    exact .inl ⟨j, by rw [same]; exact on, by rw [same]; exact own⟩
  · rcases moves q there with rfl | later
    · exact .inl ⟨i, by rw [ready]; nofun, ep.trans own⟩
    · refine .inr ⟨q, ?_, own⟩
      rw [poll]
      exact later

theorem dispatch_begun (lanes : s.poll.lanes.length = 16) (h : Begun n s) : Begun n (dispatch s) := by
  have all : (dispatch s).poll.lanes.length = 16 ∧ Begun n (dispatch s) := by
    unfold dispatch
    refine List.foldlRecOn (List.range 16) _ (motive := fun x => x.poll.lanes.length = 16 ∧ Begun n x) ⟨lanes, h⟩ fun x ⟨count, begun⟩ j there => ?_
    have inside : j < x.poll.lanes.length := by rw [count]; exact List.mem_range.mp there
    split
    · next open_ =>
      have free : (laneOf j x).wait = .free := free_of_laneFree (by simp only [Bool.and_eq_true] at open_; exact open_.1.1)
      split
      · next r rs waits =>
        split
        · exact ⟨count, begun⟩
        · refine ⟨?_, startRun_begun (by rw [grant_poll]; exact inside) free (by rw [grant_poll]) (fun q there => ?_) begun⟩
          · exact (startRun_deals free (by rw [grant_poll]) (by rw [grant_poll]) (by rw [grant_poll])).count.trans count
          · rw [grant_poll]
            rw [waits] at there
            simp only [List.cons_append, List.mem_cons] at there
            exact there
      · next waits =>
        split
        · next r rs ahead =>
          split
          · exact ⟨count, begun⟩
          · refine ⟨?_, startRun_begun (by rw [grant_poll]; exact inside) free (by rw [grant_poll]) (fun q there => ?_) begun⟩
            · exact (startRun_deals free (by rw [grant_poll]) (by rw [grant_poll]) (by rw [grant_poll])).count.trans count
            · rw [grant_poll]
              rw [ahead, waits] at there
              simp only [List.nil_append, List.cons_append, List.mem_cons] at there
              rw [waits]
              exact there
        · exact ⟨count, begun⟩
    · exact ⟨count, begun⟩
  exact all.2

/-! ## A lane that loses its run -/

theorem clearLane_marks (h : Marks b0 s) : Marks b0 (clearLane i s) := grant_marks (modLane_marks h)

theorem freeLaneAt_marks (h : Marks b0 s) : Marks b0 (freeLaneAt i s) := dispatch_marks (clearLane_marks h)

/-- A lane that loses its run leaves what a dispatch leaves. -/
theorem freeLaneAt_poll : (freeLaneAt i s).poll.pend = s.poll.pend ∧ (freeLaneAt i s).poll.aheadDone = s.poll.aheadDone := by
  have deals : Deals (clearLane i s) (freeLaneAt i s) := dispatch_deals
  have cleared : (clearLane i s).poll = { s.poll with lanes := (modLane i (fun _ => freeLane) s).poll.lanes } := grant_poll
  exact ⟨by rw [deals.pend, cleared], by rw [deals.aheadDone, cleared]⟩

/-- The parts of the poll engine that a release leaves. -/
theorem releasePorts_poll : (releasePorts i s).poll = { s.poll with lanes := (modLane i letGo s).poll.lanes } :=
  releasePorts_wires.poll

theorem releasePorts_pend : (releasePorts i s).poll.pend = s.poll.pend := by rw [releasePorts_poll]

theorem releasePorts_aheadDone : (releasePorts i s).poll.aheadDone = s.poll.aheadDone := by rw [releasePorts_poll]

end Sys2Proof.Proofs.RunStatus

/-! PROOFS. The ends of a run (R185, R194, R197 to R201): SPLIT and END. -/

namespace Sys2Proof.Proofs.RunEnds

set_option Elab.async false

open Sys2Proof.Machine Sys2Proof.Safety Sys2Proof.Laws Sys2Proof.Proofs.Shared Sys2Proof.Proofs.Grants Sys2Proof.Proofs.Wire
  Sys2Proof.Proofs.Lanes Sys2Proof.Proofs.LaneData Sys2Proof.Proofs.RunStatus Sys2Proof.Proofs.Frame Sys2Proof.Proofs.WriteJobs
  Sys2Proof.Proofs.Adapting

variable {s t u x : State} {l : Lane} {n j p a v : Nat} {i : Fin 16} {t0 : HubTime}

/-! ## SPLIT -/

/-- A lane whose read part begins at `ht`, after its ports have been let go. -/
def readPart (ht : HubTime) (l : Lane) : Lane :=
  { letGo l with splitHt := ht, pc := l.pc + 1, wait := .ready, trig := false, discard := false }

/-- `t` is `u` but for the poll engine, the ports, the running operation, the status area and the verdicts. -/
def LetsGo (u t : State) : Prop := t = { u with
  poll := t.poll, sports := t.sports, iports := t.iports, op := t.op, cfg := { u.cfg with status := t.cfg.status }, verdicts := t.verdicts }

theorem letsGo_form {w : PollSt} : LetsGo u { releasePorts j u with poll := w } := by
  obtain ⟨_, _, _, _, _, form⟩ := wires_form (releasePorts_wires (s := u) (i := j))
  rw [form]
  rfl

theorem split_row (stands : StandsAt i.val .split s) : effSplit i t0 s =
    let s1 := releasePorts i.val (advance t0 s)
    let l := laneOf i.val s1
    if l.ahead then
      freeLaneAt i.val { s1 with poll := { s1.poll with
        aheadDone := s1.poll.aheadDone ++
          [⟨l.ep, l.due, true, (advance t0 s).time.now, l.started, l.retries, l.sht, l.timed, l.portData⟩] } }
    else if l.probe then
      modLane i.val (fun l => { l with splitHt := (advance t0 s).time.now, trig := false }) (nextStep i.val s1)
    else startAttempt i.val (l.pc + 1) false (modLane i.val (fun l => { l with splitHt := (advance t0 s).time.now }) s1) := by
  simp only [effSplit, atStep_stands (stands_advance stands), beq_self_eq_true]

section Split

variable (inside : i.val < u.poll.lanes.length) {ht : HubTime}

include inside

theorem split_probe :
    let t := modLane i.val (fun l => { l with splitHt := ht, trig := false }) (nextStep i.val (releasePorts i.val u))
    LetsGo u t ∧ laneOf i.val t = readPart ht (laneOf i.val u) :=
  ⟨letsGo_form, (((releasePorts_lane inside).nextStep inside).mod (f := fun l => { l with splitHt := ht, trig := false }) inside).lane⟩

theorem split_read :
    let t := startAttempt i.val ((laneOf i.val u).pc + 1) false (modLane i.val (fun l => { l with splitHt := ht }) (releasePorts i.val u))
    LetsGo u t ∧ laneOf i.val t = { readPart ht (laneOf i.val u) with buf := List.replicate 32 0, high := 0 } :=
  ⟨letsGo_form, (((releasePorts_lane inside).mod (f := fun l => { l with splitHt := ht }) inside).mod (f := fun l => { l with
    pc := (laneOf i.val u).pc + 1, buf := List.replicate 32 0, high := 0, wait := .ready, trig := false, discard := false }) inside).lane⟩

end Split

/-! ## END -/

theorem end_row (stands : StandsAt i.val .endRun s) (granted : heldUp (52 + i.val) true s = false) :
    effEndStep i s = endSample i.val s := by
  simp only [effEndStep, atStep_stands stands, beq_self_eq_true, granted]
  rfl

/-- A sample on its way. -/
def handed (e : PendSample) (x : State) : State := { x with poll := { x.poll with pend := x.poll.pend ++ [e] } }

/-- The end of a run of endpoint `n` whose sample is `e`. -/
def sampled (n : Nat) (e : PendSample) (x : State) : State :=
  setLast n 1 (countWord (epAddr n + 0x34) (setEstat n 0 false (handed e x)))

section End

variable (inside : j < s.poll.lanes.length)

include inside

/-- The sample of a run, on its way. -/
theorem endSample_row (run : (laneOf j s).probe = false) : ∃ ht win,
    endSample j s = freeLaneAt j (sampled (laneOf j s).ep
      ⟨(laneOf j s).ep, (laneOf j s).due, j, ht, (laneOf j s).buf, win, s.snap.groups, (laneOf j s).lead⟩ (releasePorts j s)) ∧
    ((laneOf j s).timed = true → ht = (laneOf j s).sht) := by
  have lane : laneOf j (releasePorts j s) = letGo (laneOf j s) := (releasePorts_lane inside).lane
  have groups : (releasePorts j s).snap.groups = s.snap.groups := by rw [releasePorts_wires.snap, modLane_snap]
  refine ⟨if (laneOf j s).timed then (laneOf j s).sht else dataless (laneOf j s).ep (laneOf j s).due (releasePorts j s),
    (releasePorts j s).snap.wins.find? (fun w => w.ep == (laneOf j s).ep), ?_, fun timed => if_pos timed⟩
  unfold endSample
  extract_lets y l s1
  rw [if_neg (by simp [l, y, lane, letGo, run])]
  simp only [s1, handOff, l, y, lane, letGo, groups]
  rfl

theorem endSample_marks (wf : Memory.wf zeroDflt s.cfg.status = true) (run : (laneOf j s).probe = false) :
    statByte (epAddr (laneOf j s).ep + 0x3B) (endSample j s) = 1 ∧
    statWord (epAddr (laneOf j s).ep + 0x34) (endSample j s) = (statWord (epAddr (laneOf j s).ep + 0x34) s + 1) % 65536 := by
  obtain ⟨ht, win, row, -⟩ := endSample_row inside run
  rw [row]
  generalize (laneOf j s).ep = n at *
  generalize (⟨n, _, _, _, _, _, _, _⟩ : PendSample) = e
  have before : Marks s (setEstat n 0 false (handed e (releasePorts j s))) :=
    setEstat_marks (Marks.upd (releasePorts_marks Marks.refl) rfl)
  unfold sampled
  generalize setEstat n 0 false _ = y at before
  have lasts {o : Nat} (place : o < 64 ∧ o ≠ 0x3C ∧ o ≠ 0x3E) : Lasts (epAddr n + o) := by
    unfold Lasts epAddr
    omega
  have counted : Memory.wf zeroDflt (countWord (epAddr n + 0x34) y).cfg.status = true := wf_writeBytes (before.wf wf)
  have after : Marks (setLast n 1 (countWord (epAddr n + 0x34) y)) (freeLaneAt j (setLast n 1 (countWord (epAddr n + 0x34) y))) :=
    freeLaneAt_marks Marks.refl
  have written : Memory.wf zeroDflt (setLast n 1 (countWord (epAddr n + 0x34) y)).cfg.status = true := wf_write counted
  constructor
  · rw [after.same written _ (lasts (by decide)), setLast, statByte_setStatByte counted, if_pos rfl]
  · rw [after.word written (lasts (by decide)) (lasts (o := 0x35) (by decide)), statWord_bytes, setLast, statByte_setStatByte counted,
      statByte_setStatByte counted, if_neg (by omega), if_neg (by omega), ← statWord_bytes, countWord,
      statWord_setStatWord (before.wf wf), before.word wf (lasts (by decide)) (lasts (o := 0x35) (by decide))]

/-- A probe's END ends its operation. -/
theorem endSample_probe (probe : (laneOf j s).probe = true) :
    (endSample j s).op.state = 2 ∧ (endSample j s).op.why = 0 ∧ laneOf j (endSample j s) = freeLane := by
  have released := releasePorts_lane inside
  have lane := released.lane
  have row : endSample j s = endProbe j 1 (releasePorts j s) := by
    unfold endSample
    extract_lets y l s1
    exact if_pos (by simp [l, y, lane, letGo, probe])
  rw [row]
  unfold endProbe
  extract_lets l s1 s2
  rw [if_pos rfl]
  refine ⟨opEnd_shows.1, opEnd_shows.2, ?_⟩
  have posted : s1.poll = (releasePorts j s).poll := (probeRecords_apart (OnlyRecords.refl (s := releasePorts j s))).poll
  have freed : AtLane j s freeLane s2 := by
    have cleared : AtLane j s freeLane (clearLane j s1) :=
      ((released.same (congrArg PollSt.lanes posted)).mod (f := fun _ => freeLane) inside).same (congrArg PollSt.lanes grant_poll)
    exact cleared.same (purgeHeld_adapts Adapts.refl).lanes
  exact (freed.same (congrArg PollSt.lanes (opEnd_apart OnlyRecords.refl).poll)).lane

end End

/-- Settles O45. -/
theorem runEnds : Obligations.RunEnds := by
  intro i s inv run
  have lanes : s.poll.lanes.length = 16 := (counts_of_inv inv).1
  have inside : i.val < s.poll.lanes.length := by rw [lanes]; exact i.isLt
  refine ⟨fun t0 stands => ?_, fun stands held => ?_, fun stands granted => ⟨fun own => ?_, fun probe => ?_⟩⟩
  · intro letsGo
    have inside' : i.val < (advance t0 s).poll.lanes.length := by rw [advance_poll]; exact inside
    have same : laneOf i.val (advance t0 s) = run := laneOf_advance
    have lane := (releasePorts_lane inside').lane
    rw [same] at lane
    have row := split_row (t0 := t0) stands
    simp only [lane] at row
    refine ⟨fun here own => ?_, fun here probe => ?_, fun ahead => ?_⟩
    · obtain ⟨form, became⟩ := split_read inside' (ht := (advance t0 s).time.now)
      rw [same] at became form
      refine ⟨_, next_congr (row.trans ((if_neg ?_).trans (if_neg ?_))), form, became⟩
      · simp [letGo, here]
      · simp [letGo, own]
    · obtain ⟨form, became⟩ := split_probe inside' (ht := (advance t0 s).time.now)
      rw [same] at became
      refine ⟨_, next_congr (row.trans ((if_neg ?_).trans (if_pos probe))), form, became⟩
      simp [letGo, here]
    · have kept : Keeps (· = .mode) s (effSplit i t0 s) := effSplit_keeps Keeps.refl
      have left := row.trans (if_pos ahead)
      refine ⟨_, rfl, kept.part .mode rfl, ?_⟩
      rw [left, freeLaneAt_poll.2]
      exact congrArg (· ++ _) (releasePorts_aheadDone.trans (congrArg PollSt.aheadDone advance_poll))
  · refine next_congr ?_
    simp only [effEndStep, atStep_stands stands, beq_self_eq_true, held]
    rfl
  · have kept : Keeps (· = .mode) s (effEndStep i s) := effEndStep_keeps Keeps.refl
    obtain ⟨last, samples⟩ := endSample_marks inside (status_of_inv inv) own
    obtain ⟨ht, win, row, timed⟩ := endSample_row inside own
    have ended := end_row stands granted
    refine ⟨_, rfl, kept.part .mode rfl, ?_⟩
    rw [ended]
    exact ⟨last, samples, ht, win, by rw [row, freeLaneAt_poll.1]; exact congrArg (· ++ _) releasePorts_pend, timed⟩
  · have kept : Keeps (· = .mode) s (effEndStep i s) := effEndStep_keeps Keeps.refl
    obtain ⟨state, why, lane⟩ := endSample_probe inside probe
    refine ⟨_, rfl, kept.part .mode rfl, ?_⟩
    rw [end_row stands granted]
    exact ⟨state, why, lane⟩

end Sys2Proof.Proofs.RunEnds

/-! PROOFS. Attempts that time out, retries and misses, and trigger parts that run ahead (R197 to R200). -/

namespace Sys2Proof.Proofs.Attempts

set_option Elab.async false

open Sys2Proof.Machine Sys2Proof.Safety Sys2Proof.Laws Sys2Proof.Proofs.Shared Sys2Proof.Proofs.Grants Sys2Proof.Proofs.Wire
  Sys2Proof.Proofs.Lanes Sys2Proof.Proofs.RunStatus Sys2Proof.Proofs.Frame Sys2Proof.Proofs.Polling

variable {b0 s t u x : State} {l : Lane} {n j p a v o code due : Nat} {i : Fin 16} {t0 : HubTime}

/-! ## A miss (R199) -/

/-- A byte of the status part of an endpoint, but LANE and ESTAT. -/
theorem lasts_ep (place : o < 64 ∧ o ≠ 0x3C ∧ o ≠ 0x3E) : Lasts (epAddr n + o) := by
  unfold Lasts epAddr
  omega

/-- The bytes that a miss writes: MISSES and LAST. -/
def missed (n code : Nat) (s : State) : State := setLast n code (countEp n 0x3A (setEstat n 0 false s))

theorem markMiss_cfg : (markMiss n due s).cfg = s.cfg := by
  unfold markMiss putSlot
  split
  · rfl
  · split
    · split
      · rfl
      · exact modBank_cfg
    · rfl

theorem missRun_marks : Marks (missed n code s) (missRun n due code s) := by
  have marked : Marks (missed n code s) (markMiss n due (missed n code s)) := Marks.refl.upd (by rw [markMiss_cfg])
  refine Marks.ite (marked.trans (Marks.refl.upd ?_)) marked
  exact congrArg CfgSt.status (tapTrigger_apart OnlyRecords.refl).cfg

theorem endMissed_written : Marks (missed (laneOf j s).ep code s) (endMissed j code s) := by
  unfold endMissed
  extract_lets l s1 s2
  have run : Marks (missed l.ep code s) s1 := missRun_marks
  exact freeLaneAt_marks (Marks.ite (run.upd rfl) run)

/-- What the bytes of a miss are. -/
theorem missed_bytes (wf : Memory.wf zeroDflt s.cfg.status = true) :
    Memory.wf zeroDflt (missed n code s).cfg.status = true ∧ statByte (epAddr n + 0x3B) (missed n code s) = code % 256 ∧
    statByte (epAddr n + 0x3A) (missed n code s) = (statByte (epAddr n + 0x3A) s + 1) % 256 ∧
    ∀ o, o < 0x3A → statByte (epAddr n + o) (missed n code s) = statByte (epAddr n + o) s := by
  have before : Marks s (setEstat n 0 false s) := setEstat_marks Marks.refl
  have counted : Memory.wf zeroDflt (countEp n 0x3A (setEstat n 0 false s)).cfg.status = true := wf_write (before.wf wf)
  refine ⟨wf_write counted, ?_, ?_, fun o low => ?_⟩
  · rw [missed, setLast, statByte_setStatByte counted, if_pos rfl]
  · rw [missed, setLast, statByte_setStatByte counted, if_neg (by omega), countEp, countByte, statByte_setStatByte (before.wf wf),
      if_pos rfl, before.same wf _ (lasts_ep (by decide))]
  · rw [missed, setLast, statByte_setStatByte counted, if_neg (by omega), countEp, countByte, statByte_setStatByte (before.wf wf),
      if_neg (by omega), before.same wf _ (lasts_ep (by omega))]

/-- What a run that ends without a sample shows. -/
theorem endMissed_bytes (wf : Memory.wf zeroDflt s.cfg.status = true) {t : State} (h : t = endMissed j code s) :
    statByte (epAddr (laneOf j s).ep + 0x3B) t = code % 256 ∧
    statByte (epAddr (laneOf j s).ep + 0x3A) t = (statByte (epAddr (laneOf j s).ep + 0x3A) s + 1) % 256 ∧
    ∀ o, o < 0x3A → statByte (epAddr (laneOf j s).ep + o) t = statByte (epAddr (laneOf j s).ep + o) s := by
  obtain ⟨canonical, last, misses, others⟩ := missed_bytes (n := (laneOf j s).ep) (code := code) wf
  have written := endMissed_written (j := j) (code := code) (s := s)
  rw [h]
  refine ⟨?_, ?_, fun o low => ?_⟩
  · rw [written.same canonical _ (lasts_ep (by decide)), last]
  · rw [written.same canonical _ (lasts_ep (by decide)), misses]
  · rw [written.same canonical _ (lasts_ep (by omega)), others o low]

/-! ## Retries (R197) -/

/-- Whether the run of lane `l` may be tried again. -/
def retries (l : Lane) (s : State) : Bool :=
  decide (l.retries < (descOf l.cfg l.ep).retry) && !cutoffPassed l.due s && !portsDropped (descOf l.cfg l.ep) s

theorem mayRetry_eq : mayRetry j s = retries (laneOf j s) s := rfl

theorem retries_wires (h : Wires s t) : retries l t = retries l s := by
  obtain ⟨_, _, _, _, _, rfl⟩ := wires_form h
  rfl

theorem mayRetry_released (inside : j < s.poll.lanes.length) : mayRetry j (releasePorts j s) = mayRetry j s := by
  rw [mayRetry_eq, (releasePorts_lane inside).lane, retries_wires releasePorts_wires]
  rfl

/-- A lane that waits for its retry. -/
def gapped (code : Nat) (l : Lane) : Lane := { l with wait := .gap, lastFail := BitVec.ofNat 8 code, expired := false }

section Fail

variable (inside : j < s.poll.lanes.length) (here : (laneOf j s).cancelled = false) (own : (laneOf j s).probe = false)
  (inTime : (laneOf j s).expired = false)

include inside here own inTime

/-- A failed step lets the ports go, and the lane waits for its retry. -/
theorem failAttempt_retries (may : mayRetry j s = true) :
    AtLane j s (gapped code (letGo (laneOf j s))) (failAttempt j code s) ∧ Marks s (failAttempt j code s) := by
  have released := releasePorts_lane inside
  have lane := released.lane
  have row : failAttempt j code s = modLane j (gapped code) (releasePorts j s) := by
    unfold failAttempt
    extract_lets x c
    have same : c = code := if_neg (by simp [x, lane, letGo, inTime])
    rw [if_neg (by simp [x, lane, letGo, here]), if_neg (by simp [x, lane, letGo, own]),
      if_pos ((mayRetry_released inside).trans may), same]
    rfl
  rw [row]
  exact ⟨released.mod inside, modLane_marks (releasePorts_marks Marks.refl)⟩

/-- Or the run ends as a miss. -/
theorem failAttempt_misses (may : mayRetry j s = false) : failAttempt j code s = endMissed j code (releasePorts j s) := by
  have lane := (releasePorts_lane inside).lane
  unfold failAttempt
  extract_lets x c
  have same : c = code := if_neg (by simp [x, lane, letGo, inTime])
  rw [if_neg (by simp [x, lane, letGo, here]), if_neg (by simp [x, lane, letGo, own]),
    if_neg (by rw [mayRetry_released inside, may]; exact Bool.false_ne_true), same]

end Fail

/-! ## The attempt times out (R198) -/

/-- The hub with a timeout of lane `j` counted. -/
def timedOut (j : Nat) (s : State) : State := countEp (laneOf j s).ep 0x37 s

section Timeout

variable (busy : (laneOf i.val s).wait ≠ .free) (trying : (laneOf i.val s).wait ≠ .gap)
  (here : (laneOf i.val s).cancelled = false) (inTime : (laneOf i.val s).expired = false) (own : (laneOf i.val s).probe = false)

include here inTime own

theorem timeout_onWire {p : Nat} (step : (laneOf i.val s).wait = .step p) :
    effAttemptTimeout i s = modLane i.val (fun l => { l with expired := true }) (timedOut i.val s) := by
  simp only [effAttemptTimeout, step, here, inTime, own]
  rfl

include busy trying in
theorem timeout_waiting (idle : ∀ p, (laneOf i.val s).wait ≠ .step p) :
    effAttemptTimeout i s = failAttempt i.val 3 (waitFor i.val .ready (timedOut i.val s)) := by
  unfold effAttemptTimeout timedOut
  dsimp only
  cases wait : (laneOf i.val s).wait with
  | free => exact absurd wait busy
  | gap => exact absurd wait trying
  | step p => exact absurd wait (idle p)
  | _ => simp [here, inTime, own]

end Timeout

theorem timedOut_bytes (wf : Memory.wf zeroDflt s.cfg.status = true) :
    Memory.wf zeroDflt (timedOut j s).cfg.status = true ∧
    statByte (epAddr (laneOf j s).ep + 0x37) (timedOut j s) = (statByte (epAddr (laneOf j s).ep + 0x37) s + 1) % 256 ∧
    statByte (epAddr (laneOf j s).ep + 0x3A) (timedOut j s) = statByte (epAddr (laneOf j s).ep + 0x3A) s := by
  refine ⟨wf_write wf, ?_, ?_⟩
  · rw [timedOut, countEp, countByte, statByte_setStatByte wf, if_pos rfl]
  · rw [timedOut, countEp, countByte, statByte_setStatByte wf, if_neg (by omega)]

/-- A timeout of an attempt that waits, from the moment at which it has been counted. -/
theorem timeout_fails (inv : Inv s) (busy : (laneOf i.val s).wait ≠ .free) (trying : (laneOf i.val s).wait ≠ .gap)
    (here : (laneOf i.val s).cancelled = false) (inTime : (laneOf i.val s).expired = false) (own : (laneOf i.val s).probe = false)
    (idle : ∀ p, (laneOf i.val s).wait ≠ .step p) :
    let t := effAttemptTimeout i s
    let stat := fun (o : Nat) (x : State) => statByte (epAddr (laneOf i.val s).ep + o) x
    stat 0x37 t = (stat 0x37 s + 1) % 256 ∧
    (mayRetry i.val s = true →
      laneOf i.val t = { laneOf i.val s with held := [], openTx := false, wait := .gap, lastFail := 3 }) ∧
    (mayRetry i.val s = false → stat 0x3B t = 3 ∧ stat 0x3A t = (stat 0x3A s + 1) % 256) := by
  intro t stat
  have inside : i.val < s.poll.lanes.length := by rw [(counts_of_inv inv).1]; exact i.isLt
  have row : t = failAttempt i.val 3 (waitFor i.val .ready (timedOut i.val s)) := timeout_waiting busy trying here inTime own idle
  obtain ⟨wf, counted, misses⟩ := timedOut_bytes (j := i.val) (status_of_inv inv)
  have at_ : AtLane i.val s { laneOf i.val s with wait := .ready } (waitFor i.val .ready (timedOut i.val s)) :=
    AtLane.waitFor (AtLane.same AtLane.refl rfl) inside
  have may : mayRetry i.val (waitFor i.val .ready (timedOut i.val s)) = mayRetry i.val s := by
    rw [mayRetry_eq, at_.lane]
    rfl
  have marks : Marks (timedOut i.val s) (waitFor i.val .ready (timedOut i.val s)) := modLane_marks Marks.refl
  generalize waitFor i.val .ready (timedOut i.val s) = x at *
  have inside' : i.val < x.poll.lanes.length := by rw [at_.count]; exact inside
  have lane := at_.lane
  cases retry : mayRetry i.val s with
  | true =>
    obtain ⟨became, after⟩ := failAttempt_retries (code := 3) inside' (by rw [lane]; exact here) (by rw [lane]; exact own) (by rw [lane]; exact inTime)
      (may.trans retry)
    rw [row]
    refine ⟨?_, fun _ => ?_, nofun⟩
    · exact ((marks.trans after).same wf _ (lasts_ep (by decide))).trans counted
    · rw [became.lane, lane]
      simp [gapped, letGo, inTime]
  | false =>
    have ends := failAttempt_misses (code := 3) inside' (by rw [lane]; exact here) (by rw [lane]; exact own) (by rw [lane]; exact inTime)
      (may.trans retry)
    have released : Marks (timedOut i.val s) (releasePorts i.val x) := releasePorts_marks marks
    obtain ⟨last, missed, others⟩ := endMissed_bytes (released.wf wf) (row.trans ends)
    have ep : (laneOf i.val (releasePorts i.val x)).ep = (laneOf i.val s).ep := by rw [(releasePorts_lane inside').lane, lane]; rfl
    rw [ep] at last missed others
    refine ⟨?_, nofun, fun _ => ⟨last, ?_⟩⟩
    · exact (others 0x37 (by decide)).trans ((released.same wf _ (lasts_ep (by decide))).trans counted)
    · exact missed.trans (by rw [released.same wf _ (lasts_ep (by decide)), misses])

/-! ## The retry (R197) -/

/-- A lane at the begin of its next attempt. -/
def retried (l : Lane) : Lane :=
  let whole := l.trig || (descOf l.cfg l.ep).rstart
  { l with
    retries := l.retries + 1, pc := if whole then (descOf l.cfg l.ep).script else readStart l.cfg (descOf l.cfg l.ep).script
    buf := List.replicate 32 0, high := 0, wait := .ready, trig := whole && hasSplit l.cfg (descOf l.cfg l.ep).script
    discard := false }

theorem retry_starts (inv : Inv s) (waits : (laneOf i.val s).wait = .gap) (may : mayRetry i.val s = true) :
    laneOf i.val (effRetryGapExpiry i s) = retried (laneOf i.val s) ∧
    statByte (epAddr (laneOf i.val s).ep + 0x36) (effRetryGapExpiry i s) =
      (statByte (epAddr (laneOf i.val s).ep + 0x36) s + 1) % 256 := by
  have inside : i.val < s.poll.lanes.length := by rw [(counts_of_inv inv).1]; exact i.isLt
  have again : AtLane i.val s { laneOf i.val s with retries := (laneOf i.val s).retries + 1 }
      (countEp (laneOf i.val s).ep 0x36 (modLane i.val (fun l => { l with retries := l.retries + 1 }) s)) :=
    (AtLane.mod (f := fun l => { l with retries := l.retries + 1 }) AtLane.refl inside).same rfl
  have counted : statByte (epAddr (laneOf i.val s).ep + 0x36)
      (countEp (laneOf i.val s).ep 0x36 (modLane i.val (fun l => { l with retries := l.retries + 1 }) s)) =
      (statByte (epAddr (laneOf i.val s).ep + 0x36) s + 1) % 256 := by
    rw [countEp, countByte, statByte_setStatByte (s := modLane i.val _ s) (show Memory.wf zeroDflt s.cfg.status = true from status_of_inv inv),
      if_pos rfl]
    rfl
  unfold effRetryGapExpiry
  dsimp only
  rw [if_pos waits, if_pos may]
  exact ⟨(again.mod (f := fun l => { l with
    pc := if (laneOf i.val s).trig || (descOf (laneOf i.val s).cfg (laneOf i.val s).ep).rstart
      then (descOf (laneOf i.val s).cfg (laneOf i.val s).ep).script
      else readStart (laneOf i.val s).cfg (descOf (laneOf i.val s).cfg (laneOf i.val s).ep).script
    buf := List.replicate 32 0, high := 0, wait := .ready
    trig := ((laneOf i.val s).trig || (descOf (laneOf i.val s).cfg (laneOf i.val s).ep).rstart) &&
      hasSplit (laneOf i.val s).cfg (descOf (laneOf i.val s).cfg (laneOf i.val s).ep).script
    discard := false }) inside).lane, counted⟩

theorem retry_misses (waits : (laneOf i.val s).wait = .gap) (may : mayRetry i.val s = false) :
    effRetryGapExpiry i s = endMissed i.val (laneOf i.val s).lastFail.toNat s := by
  unfold effRetryGapExpiry
  dsimp only
  rw [if_pos waits, if_neg (by rw [may]; exact Bool.false_ne_true)]

/-! ## Trigger parts that run ahead (R200) -/

theorem advance_epochIx : (advance t0 s).time.epochIx = s.time.epochIx := by
  unfold advance
  split
  · rfl
  · split
    · rfl
    · unfold TimeSt.moveTo
      split <;> rfl

theorem mem_dispatchOrder (small : n < 256) : n ∈ dispatchOrder s := by
  have range : n ∈ List.range 256 := List.mem_range.mpr small
  unfold dispatchOrder
  simp only [List.mem_append, List.mem_filter, range, true_and]
  by_cases timer : epPort (running s) n = 0xE
  · simp [timer]
  · by_cases express : isExpress n s = true
    · simp [timer, express]
    · simp [timer, express]

theorem mem_inOrder {order : List Nat} {ix : Nat} {r : DueRun} {rs : List DueRun} (ordered : r.ep ∈ order) (there : r ∈ rs) :
    r ∈ inOrder order ix rs := by
  unfold inOrder
  rw [List.mem_append, List.mem_filter, List.mem_flatMap]
  by_cases due : r.due = ix
  · exact .inr ⟨r.ep, ordered, List.mem_filter.mpr ⟨there, by simp [due]⟩⟩
  · exact .inl ⟨there, by simp [due]⟩

theorem mem_sortRuns {r : DueRun} (small : r.ep < 256) (there : r ∈ s.poll.triggers) : r ∈ (sortRuns s).poll.triggers :=
  mem_inOrder (mem_dispatchOrder small) there

/-- The trigger part of endpoint `n` joins those that wait. -/
def aheadOf (n : Nat) (x : State) : State :=
  { x with poll := { x.poll with triggers := x.poll.triggers ++ [newRun n (x.time.epochIx + 1)] } }

/-- It begins, or waits. -/
theorem runAhead_begins (lanes : x.poll.lanes.length = 16) (small : n < 256) (h : t = dispatch (sortRuns (aheadOf n x))) :
    epRuns n t = true ∧ t.time.epochIx = x.time.epochIx := by
  have polls : Polls x (dispatch (sortRuns (aheadOf n x))) :=
    dispatch_polls (sortRuns_polls (Polls.upd Polls.refl))
  have count : (sortRuns (aheadOf n x)).poll.lanes.length
      = 16 := lanes
  have there : newRun n (x.time.epochIx + 1) ∈
      (sortRuns (aheadOf n x)).poll.triggers :=
    mem_sortRuns small (List.mem_append_right _ (List.mem_singleton.mpr rfl))
  rw [h]
  refine ⟨?_, congrArg TimeSt.epochIx polls.time⟩
  generalize sortRuns (aheadOf n x) = y at count there
  exact epRuns_of_begun (dispatch_begun count (.inr ⟨_, List.mem_append_left _ (List.mem_append_right _ there), rfl⟩))

/-- Settles O48. -/
theorem attemptsAndRuns : Obligations.AttemptsAndRuns := by
  refine ⟨fun i s inv => ⟨fun busy trying here inTime own => ?_, fun waits => ?_⟩, fun ep b s inv next may => ?_⟩
  · have kept : Keeps (· = .mode) s (effAttemptTimeout i s) := effAttemptTimeout_keeps Keeps.refl
    have inside : i.val < s.poll.lanes.length := by rw [(counts_of_inv inv).1]; exact i.isLt
    refine ⟨_, rfl, kept.part .mode rfl, ?_⟩
    by_cases step : ∃ p, (laneOf i.val s).wait = .step p
    · obtain ⟨p, step⟩ := step
      have row := timeout_onWire here inTime own step
      refine ⟨?_, fun _ => ?_, fun idle => absurd step (idle p)⟩
      · rw [row]
        exact (timedOut_bytes (j := i.val) (status_of_inv inv)).2.1
      · rw [row]
        exact (AtLane.mod (f := fun l => { l with expired := true }) (AtLane.same AtLane.refl rfl) inside).lane
    · have idle : ∀ p, (laneOf i.val s).wait ≠ .step p := fun p h => step ⟨p, h⟩
      obtain ⟨counted, ends⟩ := timeout_fails inv busy trying here inTime own idle
      exact ⟨counted, fun h => absurd h step, fun _ => ends⟩
  · have kept : Keeps (· = .mode) s (effRetryGapExpiry i s) := effRetryGapExpiry_keeps Keeps.refl
    refine ⟨_, rfl, kept.part .mode rfl, fun may => ?_, fun may => ?_⟩
    · obtain ⟨lane, counted⟩ := retry_starts inv waits may
      exact ⟨counted, lane⟩
    · obtain ⟨last, misses, -⟩ := endMissed_bytes (status_of_inv inv) (retry_misses waits may)
      exact ⟨last.trans (Nat.mod_eq_of_lt (laneOf i.val s).lastFail.isLt), misses⟩
  · have kept : Keeps (· = .mode) s (effRunAheadDispatch ep s) := effRunAheadDispatch_keeps Keeps.refl
    obtain ⟨ahead, port, split, on, polls, idle, open_, free, own, ended, works, due⟩ := may
    have ready : (let d := descOf (running s) ep.val
        d.ra && d.port != 0xE && hasSplit (running s) d.script && s.time.epochOn && (actMode s).polls
        && s.poll.waiting.isEmpty && !aheadBarred s && !commitWaits ep.val s && !epRuns ep.val s
        && !s.poll.endedAhead.contains ep.val && !unitFailed 16 s
        && epDue ep.val (epochNumber (s.time.epochIx + 1) s) (actMode s) s) = true := by
      simp [ahead, port, split, on, polls, idle, open_, free, own, ended, works, due]
    obtain ⟨x, row, lanes, epoch⟩ : ∃ x : State, effRunAheadDispatch ep s = dispatch (sortRuns (aheadOf ep.val x)) ∧ x.poll.lanes.length = 16 ∧
        x.time.epochIx = s.time.epochIx := by
      unfold effRunAheadDispatch
      dsimp only
      rw [next]
      refine ⟨_, (if_pos ready).trans rfl, ?_, ?_⟩
      · split
        · exact (counts_of_inv inv).1
        · rw [advance_poll]
          exact (counts_of_inv inv).1
      · split
        · rfl
        · exact advance_epochIx
    obtain ⟨begun, same⟩ := runAhead_begins lanes ep.isLt row
    exact ⟨_, rfl, begun, kept.part .mode rfl, same.trans epoch⟩

end Sys2Proof.Proofs.Attempts

/-! PROOFS. Wire steps (R191, R197, R309, R311, R320, R335, R337, R349): a step goes onto its port, waits, or fails at once. -/

namespace Sys2Proof.Proofs.WireSteps

set_option Elab.async false

open Sys2Proof.Machine Sys2Proof.Safety Sys2Proof.Laws Sys2Proof.Proofs.Shared Sys2Proof.Proofs.Grants Sys2Proof.Proofs.Wire
  Sys2Proof.Proofs.Lanes Sys2Proof.Proofs.LaneData Sys2Proof.Proofs.RunStatus

variable {b0 s t u x : State} {p q : Nat} {st : Step} {c : Bool × Bool} {i : Fin 16}

/-! ## The commands of the wire steps -/

/-- The command of a wire step. -/
def wireCommand (i : Fin 16) (st : Step) : Instr :=
  match st with | .send .. => Instr.send i | .recv .. => .recv i | .xfer .. => .xfer i | _ => .frame i

theorem runWire_starts {k : Step → Bool} (stands : StandsAt i.val st s) (wire : st.wire = some c) (kind : k st = true) :
    runWire i.val k s = startWire i.val c.2 st s.time.now s := by
  simp only [runWire, atStep_stands stands kind, wire]

theorem wireCommand_row (stands : StandsAt i.val st s) (wire : st.wire = some c) :
    exec (wireCommand i st) s = .next (startWire i.val c.2 st s.time.now s) := by
  cases st with
  | send => exact next_congr (runWire_starts stands wire rfl)
  | recv => exact next_congr (runWire_starts stands wire rfl)
  | xfer => exact next_congr (runWire_starts stands wire rfl)
  | frame => exact next_congr (runWire_starts stands wire rfl)
  | _ => cases wire

/-! ## Onto the wire -/

/-- A state whose lanes, mode and status area are those of `s`, as far as a transaction that starts shows it. -/
theorem onWire_shows {l : Lane} (at_ : AtLane i.val s l x) (inside : i.val < s.poll.lanes.length)
    (wf : Memory.wf zeroDflt x.cfg.status = true) :
    laneOf i.val (onWire i.val p x) = { l with wait := .step p, started := true } ∧
    (l.discard = true → l.probe = false → estat l.ep 1 (onWire i.val p x) = false) ∧
    (onWire i.val p x).mode = x.mode ∧ (onWire i.val p x).sports = x.sports ∧ (onWire i.val p x).iports = x.iports := by
  have lane := at_.lane
  have on := at_.mod (f := fun l => { l with wait := .step p, started := true }) inside
  unfold onWire
  dsimp only
  rw [lane]
  split
  · exact ⟨(on.same rfl).lane, fun _ _ => estat_cleared (s := modLane i.val _ x) wf (by decide), rfl, rfl, rfl⟩
  · next off =>
    exact ⟨on.lane, fun discard own => absurd (by simp [discard, own]) off, rfl, rfl, rfl⟩

/-! ## The branches of a wire step -/

/-- The port, and the select, that lane `i` uses. -/
def portOf (i : Nat) (p2 : Bool) (s : State) : Nat := (descOf (laneOf i s).cfg (laneOf i s).ep).named p2

def selOf (i : Nat) (s : State) : Nat := field (descOf (laneOf i s).cfg (laneOf i s).ep).taddr 0 3

theorem startWire_serial {p2 : Bool} {t0 : HubTime} {j : Nat} (serial : isSPort (portOf j p2 s) = true) :
    startWire j p2 st t0 s =
      if !(sReady (portOf j p2 s - 2) (selOf j s) s && frameStillOk (portOf j p2 s - 2) st s) then failAttempt j 10 s
      else if laneTurn (portOf j p2 s) (selOf j s) s then
        onWire j (portOf j p2 s) (sendStep (portOf j p2 s - 2) (selOf j s) (descOf (laneOf j s).cfg (laneOf j s).ep) st s)
      else s := if_pos serial

theorem startWire_twoWire {p2 : Bool} {t0 : HubTime} {j : Nat} (other : isSPort (portOf j p2 s) = false) :
    startWire j p2 st t0 s =
      if !iWorks (portOf j p2 s - 6) s then failAttempt j 10 s
      else if (iportOf (portOf j p2 s - 6) s).stk && !s.replay.run then
        failAttempt j 5 (recPort (portOf j p2 s) 0 (laneOf j s).ep 3 j [] t0 s)
      else if busHeld (portOf j p2 s - 6) s then waitFor j (.bus (portOf j p2 s)) s
      else if laneTurn (portOf j p2 s) (selOf j s) s then
        onWire j (portOf j p2 s) (sendI (portOf j p2 s - 6) .lane (wireBytes (descOf (laneOf j s).cfg (laneOf j s).ep) st) s)
      else s :=
  if_neg (show ¬ isSPort (portOf j p2 s) = true by rw [other]; exact Bool.false_ne_true)

/-! ## What goes out -/

theorem sendStep_marks {sel d} (h : Marks b0 s) : Marks b0 (sendStep q sel d st s) := by
  unfold sendStep openFrame
  exact Marks.ite (grants_marks (modSPort_marks h)) (sendFrame_marks h)

theorem sendI_marks {who bs} (h : Marks b0 s) : Marks b0 (sendI q who bs s) := grants_marks (modIPort_marks h)

theorem sendFrame_out {who f out} (inside : q < s.sports.length) : (sportOf q (sendFrame q who f out s)).out = out := by
  unfold sendFrame openFrame
  rw [sportOf_modSPort]
  rw [grants_sports, modSPort_sports, modifyNth_length]
  exact inside

theorem sendStep_out {sel d} (inside : q < s.sports.length) (own : s.replay.run = false) :
    (sportOf q (sendStep q sel d st s)).out = sendOut q (frameNow q sel st.fd s) d st s := by
  unfold sendStep
  rw [own, if_neg Bool.false_ne_true]
  exact sendFrame_out inside

theorem sendI_out {who bs} (inside : q < s.iports.length) : (iportOf q (sendI q who bs s)).out = bs := by
  unfold sendI
  rw [iportOf, grants_iports, ← iportOf, iportOf_modIPort inside]

/-- Settles O46. -/
theorem wireSteps : Obligations.WireSteps := by
  intro i st c s inv stands wire run d p sel cmd goesOut
  obtain ⟨lanes, sports, iports, -⟩ := counts_of_inv inv
  have inside : i.val < s.poll.lanes.length := by rw [lanes]; exact i.isLt
  have row : exec cmd s = .next (startWire i.val c.2 st s.time.now s) := wireCommand_row stands wire
  have goes {x : State} {r : State → Prop} (wires : Wires s x) (marks : Marks s x)
      (starts : startWire i.val c.2 st s.time.now s = onWire i.val p x) (h : r (onWire i.val p x)) : goesOut r := by
    have at_ : AtLane i.val s run x := AtLane.refl.same (congrArg PollSt.lanes wires.poll)
    obtain ⟨lane, discards, mode, -, -⟩ := onWire_shows (p := p) at_ inside (marks.wf (status_of_inv inv))
    exact ⟨_, row.trans (congrArg _ starts), congrArg ModeSt.cur (mode.trans wires.mode), lane, discards, h⟩
  refine ⟨fun serial => ?_, fun other => ?_⟩
  · have starts : startWire i.val c.2 st s.time.now s =
        if !(sReady (p - 2) sel s && frameStillOk (p - 2) st s) then failAttempt i.val 10 s
        else if laneTurn p sel s then onWire i.val p (sendStep (p - 2) sel d st s) else s := startWire_serial serial
    have small : p - 2 < s.sports.length := by
      simp only [isSPort, Bool.and_eq_true, decide_eq_true_eq] at serial
      omega
    refine ⟨fun unready => ?_, fun ready valid => ⟨fun turn => ?_, fun turn => ?_⟩⟩
    · rw [row, starts, if_pos]
      rcases unready with h | h <;> simp [h]
    · rw [row, starts, if_neg (by simp [ready, valid]), if_neg (by simp [turn])]
    · refine goes (sendStep_wires Wires.refl) (sendStep_marks Marks.refl)
        (starts.trans ((if_neg (by simp [ready, valid])).trans (if_pos turn))) fun own => ?_
      refine Eq.trans ?_ (sendStep_out small own)
      unfold onWire
      dsimp only
      split <;> rfl
  · have starts : startWire i.val c.2 st s.time.now s =
        if !iWorks (p - 6) s then failAttempt i.val 10 s
        else if (iportOf (p - 6) s).stk && !s.replay.run then failAttempt i.val 5 (recPort p 0 run.ep 3 i.val [] s.time.now s)
        else if busHeld (p - 6) s then waitFor i.val (.bus p) s
        else if laneTurn p sel s then onWire i.val p (sendI (p - 6) .lane (wireBytes d st) s) else s := startWire_twoWire other
    refine ⟨fun off => ?_, fun works stuck own => ?_, fun works free => ⟨fun busy => ?_, fun idle => ⟨fun turn => ?_, fun turn => ?_⟩⟩⟩
    · rw [row, starts, if_pos (by simp [off])]
    · rw [row, starts, if_neg (by simp [works]), if_pos (by simp [stuck, own])]
    · rw [row, starts, if_neg (by simp [works]), if_neg (by rcases free with h | h <;> simp [h]), if_pos busy]
      rfl
    · rw [row, starts, if_neg (by simp [works]), if_neg (by rcases free with h | h <;> simp [h]), if_neg (by simp [idle]),
        if_neg (by simp [turn])]
    · refine goes (sendI_wires Wires.refl) (sendI_marks Marks.refl) (starts.trans ((if_neg (by simp [works])).trans
        ((if_neg (by rcases free with h | h <;> simp [h])).trans ((if_neg (by simp [idle])).trans (if_pos turn))))) fun port => ?_
      have small : p - 6 < s.iports.length := by
        simp only [isIPort, Bool.and_eq_true, decide_eq_true_eq] at port
        omega
      refine Eq.trans ?_ (sendI_out (who := .lane) small)
      unfold onWire
      dsimp only
      split <;> rfl

end Sys2Proof.Proofs.WireSteps

/-! PROOFS. The end of a port transaction of a lane (R194, R195, R197). -/

namespace Sys2Proof.Proofs.PortEnds

set_option Elab.async false

open Sys2Proof.Machine Sys2Proof.Safety Sys2Proof.Laws Sys2Proof.Proofs.Shared Sys2Proof.Proofs.Grants Sys2Proof.Proofs.Wire
  Sys2Proof.Proofs.Lanes Sys2Proof.Proofs.LaneData Sys2Proof.Proofs.RunStatus Sys2Proof.Proofs.Attempts Sys2Proof.Proofs.Frame

variable {s t u x : State} {l : Lane} {j p : Nat} {st : Step} {i : Fin 16} {out : PortOutcome} {rx : List Byte} {t0 : HubTime}

theorem retries_same (time : t.time = s.time) (power : t.power = s.power) : retries l t = retries l s := by
  unfold retries cutoffPassed stagedIx portsDropped portDropped
  rw [time, power]

/-! ## What the wire leaves -/

/-- The hub after the transaction of lane `j` has been counted and recorded, with its step not yet taken. -/
def wireDone (j p : Nat) (st : Step) (out : PortOutcome) (rx : List Byte) (t : HubTime) (x : State) (s : State) : State :=
  modLane j (fun l => { l with wait := .ready, openTx := out == .done && st.cont })
    (recPort p 0 (laneOf j s).ep (outcomeCode out) j rx t x)

theorem wireDone_lane (wires : Wires s x) (inside : j < s.poll.lanes.length) :
    AtLane j s { laneOf j s with wait := .ready, openTx := out == .done && st.cont } (wireDone j p st out rx t0 x s) :=
  AtLane.mod (f := fun l => { l with wait := .ready, openTx := out == .done && st.cont })
    (AtLane.refl.same (congrArg PollSt.lanes ((recPort_apart OnlyRecords.refl).poll.trans wires.poll))) inside

theorem wireDone_retries (wires : Wires s x) : retries l (wireDone j p st out rx t0 x s) = retries l s := by
  have recorded : OnlyRecords x (recPort p 0 (laneOf j s).ep (outcomeCode out) j rx t0 x) := recPort_apart OnlyRecords.refl
  exact retries_same (recorded.time.trans wires.time) (recorded.power.trans wires.power)

/-- What the port's own end says of the frame, and what it leaves. -/
def portEnd (j p : Nat) (st : Step) (out : PortOutcome) (rx : List Byte) (s : State) : Bool × State :=
  let sel : Fin 8 := ⟨field (descOf (laneOf j s).cfg (laneOf j s).ep).taddr 0 3, by unfold field; omega⟩
  if isSPort p then sEnd (p - 2) sel st out rx s else (true, iEnd (p - 6) out s)

theorem portEnd_wires : Wires s (portEnd j p st out rx s).2 := by
  unfold portEnd
  dsimp only
  split
  · exact sEnd_wires Wires.refl rfl
  · exact iEnd_wires Wires.refl

/-- Without a safety frame the check of a frame that ended well has passed. -/
theorem portEnd_passed (plain : isSPort p = true → (sportOf (p - 2) s).frame.safe = false) : (portEnd j p st out rx s).1 = true := by
  unfold portEnd
  dsimp only
  split
  · next serial =>
    unfold sEnd
    cases out with
    | done =>
      dsimp only
      cases st.byteLen with
      | none => rfl
      | some len =>
        dsimp only
        unfold endByteFrame
        rw [if_neg (by rw [plain serial]; exact Bool.false_ne_true)]
    | _ => rfl
  · rfl

/-! ## The end of the step -/

section End

variable (waits : (laneOf i.val s).wait = .step p) (step : stepOf i.val s = some st)
  (own : s.replay.run = false) (fits : wireFits i.val out rx (advance t0 s) = true)

include waits step own fits

theorem portStep_row : effPortStepComplete i out rx t0 s = wireEnd i.val p st out rx (advance t0 s).time.now (advance t0 s) := by
  have run : (!(advance t0 s).replay.run && wireFits i.val out rx (advance t0 s)) = true := by
    rw [fits, Bool.and_true]
    unfold advance
    split
    · simp [own]
    · split <;> simp [own]
  unfold effPortStepComplete
  dsimp only
  rw [if_pos run]
  unfold laneEnds
  rw [laneOf_advance, stepOf_advance, waits, step]

end End

section Row

variable (here : (laneOf j s).cancelled = false) (inTime : (laneOf j s).expired = false) (works : portDropped p s = false)

include here inTime works

/-- The end of the transaction of a run that goes on. -/
theorem wireEnd_row : wireEnd j p st out rx t0 s =
    let y := received p st rx s
    let r := portEnd j p st out y s
    let s2 := wireDone j p st out y t0 r.2 s
    pumpPort p (if endedWell out then (if r.1 then stepDone j st y t0 s2 else failAttempt j 6 s2) else failAttempt j (failCode out) s2) := by
  unfold wireEnd
  simp only [works, here, inTime]
  rfl

/-- Its parts: whether the frame has passed its check, and the hub at the moment the step is taken. -/
theorem wireEnd_parts (inside : j < s.poll.lanes.length) : ∃ passed x,
    wireEnd j p st out rx t0 s = pumpPort p (if endedWell out then
      (if passed then stepDone j st (received p st rx s) t0 x else failAttempt j 6 x) else failAttempt j (failCode out) x) ∧
    AtLane j s { laneOf j s with wait := .ready, openTx := out == .done && st.cont } x ∧ (∀ l, retries l x = retries l s) ∧
    ((isSPort p = true → (sportOf (p - 2) s).frame.safe = false) → passed = true) :=
  ⟨_, _, wireEnd_row here inTime works, wireDone_lane portEnd_wires inside, fun _ => wireDone_retries portEnd_wires, portEnd_passed⟩

end Row

/-! ## The step's bytes -/

section Done

variable (at_ : AtLane j s l x) (inside : j < s.poll.lanes.length)

include at_ inside

theorem stepDone_sends (sends : st.boff = none) :
    AtLane j s { l with pc := l.pc + 1, wait := .ready, discard := false } (stepDone j st rx t0 x) := by
  unfold stepDone
  dsimp only
  rw [sends]
  exact at_.nextStep inside

/-- A data step puts its bytes where the script has them, unless a FLUSH discards them. -/
theorem stepDone_takes {off : Nat} (data : st.boff = some off)
    (idle : (st.busyBit && (descOf l.cfg l.ep).isBusy (payload st rx)) = false) :
    AtLane j s
      (let bs := (payload st rx).take (32 - off)
       { l with
         buf := if l.discard then l.buf else (l.buf.take off ++ bs ++ l.buf.drop (off + bs.length)).take 32
         high := if l.discard || bs.isEmpty then l.high else max l.high (off + bs.length)
         pc := l.pc + 1, wait := .ready, discard := false, sht := t0, timed := true, portData := true })
      (stepDone j st rx t0 x) := by
  have row : stepDone j st rx t0 x =
      nextStep j (stampPort j t0 (if l.discard then x else putBytes j off (payload st rx) x)) := by
    unfold stepDone
    dsimp only
    rw [data]
    dsimp only
    rw [at_.lane]
    exact if_neg (by rw [idle]; exact Bool.false_ne_true)
  rw [row]
  cases discard : l.discard with
  | true =>
    rw [if_pos rfl]
    have stamped := (at_.mod (f := fun l => { l with sht := t0, timed := true, portData := true }) inside).nextStep inside
    exact ⟨stamped.lane.trans (by simp), stamped.others, stamped.count⟩
  | false =>
    rw [if_neg Bool.false_ne_true]
    have took := AtLane.took (off := off) (bytes := payload st rx) (ht := t0) at_ inside
    exact ⟨took.lane.trans (by simp [filled]), took.others, took.count⟩

end Done

/-- A transaction that ended well leaves the port open as the step has it: SDA held low only ends one with a STOP. -/
theorem open_of_fits (waits : (laneOf j s).wait = .step p) (step : stepOf j s = some st) (fits : wireFits j out rx s = true)
    (well : endedWell out = true) : (out == .done && st.cont) = st.cont := by
  simp only [wireFits, waits, step] at fits
  cases out with
  | done => rfl
  | doneSdaLow =>
    simp only [rxFits, Bool.and_eq_true, Bool.not_eq_true'] at fits
    rw [fits.1.2]
    rfl
  | _ => cases well

/-- Settles O47. -/
theorem portStepEnds : Obligations.PortStepEnds := by
  intro i out rx t0 s p st inv u run d waits step own fits here inTime works got ends
  have inside : i.val < u.poll.lanes.length := by
    rw [show u.poll = s.poll from advance_poll, (counts_of_inv inv).1]
    exact i.isLt
  have same : laneOf i.val u = run := laneOf_advance
  have still : portDropped p u = false := by
    rw [portDropped, show u.power = s.power from advance_power]
    exact works
  have sports : u.sports = s.sports := advance_sports
  have bytes : received p st rx u = received p st rx s := by
    rw [received, received, sportOf, sportOf, sports]
  obtain ⟨passed, x, row, at_, may, check⟩ := wireEnd_parts (st := st) (out := out) (rx := rx) (t0 := u.time.now)
    (by rw [same]; exact here) (by rw [same]; exact inTime) still inside
  rw [bytes] at row
  rw [same] at at_
  have kept : Keeps (· = .mode) s (effPortStepComplete i out rx t0 s) := effPortStepComplete_keeps Keeps.refl
  have shows {l : Lane} {y : State} (done : AtLane i.val u l y)
      (is : wireEnd i.val p st out rx u.time.now u = pumpPort p y) : ends l :=
    ⟨_, rfl, by rw [portStep_row waits step own fits, is]; exact (done.same (congrArg PollSt.lanes (pumpPort_wires Wires.refl).poll)).lane,
      kept.part .mode rfl⟩
  refine ⟨fun well plain => ?_, fun ill probe again => ?_⟩
  · have waits' : (laneOf i.val u).wait = .step p := by rw [same]; exact waits
    have step' : stepOf i.val u = some st := stepOf_advance.trans step
    have done := row.trans (congrArg (pumpPort p) ((if_pos well).trans
      (if_pos (check fun serial => by rw [sportOf, sports]; exact plain serial))))
    rw [open_of_fits waits' step' fits well] at at_
    exact ⟨fun sends => shows (stepDone_sends at_ inside sends) done,
      fun off data idle => shows (stepDone_takes at_ inside data idle) done⟩
  · have failed := row.trans (congrArg (pumpPort p) (if_neg (by rw [ill]; exact Bool.false_ne_true)))
    have inside' : i.val < x.poll.lanes.length := by rw [at_.count]; exact inside
    have lane := at_.lane
    have retry : mayRetry i.val x = true := by
      rw [mayRetry_eq, may, lane, ← again, mayRetry_eq, same]
      rfl
    have gapped := (failAttempt_retries (code := failCode out) inside' (by rw [lane]; exact here) (by rw [lane]; exact probe)
      (by rw [lane]; exact inTime) retry).1
    refine shows ⟨gapped.lane.trans ?_, fun k other => (gapped.others k other).trans (at_.others k other),
      gapped.count.trans at_.count⟩ failed
    rw [lane]
    simp [Attempts.gapped, letGo, inTime]

end Sys2Proof.Proofs.PortEnds

/-! PROOFS. The way of a sample through conditioning into its slot, and the held samples of the express path (R50, R53, R227). -/

namespace Sys2Proof.Proofs.Samples

set_option Elab.async false

open Sys2Proof.Machine Sys2Proof.Safety Sys2Proof.Laws Sys2Proof.Proofs.Shared Sys2Proof.Proofs.Grants Sys2Proof.Proofs.Lanes
  Sys2Proof.Proofs.LaneData Sys2Proof.Proofs.Snapshots Sys2Proof.Proofs.Events

variable {s t u x : State} {p : PendSample} {c : CondOut} {n : Nat} {t0 : HubTime}

/-! ## Conditioning -/

/-- `t` is `u` but for the conditioning state, the group values, the express windows and the verdicts. -/
def Conds (u t : State) : Prop := ∃ cond groups wins own w,
  t = { u with snap := { u.snap with cond := cond, groups := groups, wins := wins, own := own }, verdicts := w }

theorem Conds.refl : Conds s s := ⟨_, _, _, _, _, rfl⟩

theorem Conds.trans (h : Conds s t) (k : Conds t u) : Conds s u := by
  obtain ⟨_, _, _, _, _, rfl⟩ := h
  obtain ⟨_, _, _, _, _, rfl⟩ := k
  exact ⟨_, _, _, _, _, rfl⟩

theorem Conds.granted {l} (h : Conds s t) : Conds s (grants l t) := by
  obtain ⟨w, e⟩ := grants_alike (s := t) (l := l)
  exact h.trans ⟨_, _, _, _, w, e⟩

theorem conditionSample_conds : Conds s (conditionSample p s).2 := by
  unfold conditionSample
  extract_lets
  split
  · exact ⟨_, _, _, _, _, rfl⟩
  · exact Conds.refl

/-- FRESH is the staging writer's: conditioning hands it a word of higher flags. -/
theorem conditionSample_qual : (conditionSample p s).1.qual % 2 = 0 := by
  unfold conditionSample
  extract_lets n e0 e1 o0 o1 r0 r1 rate pl passed f kind stg cfgBad c run f0 f1 h0 h1 g0 g1 started v0 v1 sat out
  have even : out.qual % 2 = 0 := by
    dsimp only [out]
    omega
  split <;> exact even

theorem groupGrants_conds {passed : Bool} : Conds s (groupGrants n passed s) := by
  unfold groupGrants
  split
  · exact Conds.refl.granted
  · exact Conds.refl

theorem renewals_conds {l : List Nat} : ∀ {x : State}, Conds s x →
    Conds s (l.foldl (fun s m => if (m == n || sameGroup n m s) && isExpress m s then renewWindow m s else s) x) := by
  induction l with
  | nil => exact id
  | cons m l ih =>
    intro x h
    refine ih ?_
    dsimp only
    split
    · exact h.trans ⟨_, _, _, _, _, rfl⟩
    · exact h

theorem renewWindows_conds : Conds s (renewWindows n s) := by
  unfold renewWindows
  exact renewals_conds ⟨_, _, _, _, _, rfl⟩

/-- The ALIVE count that the fill copies forward to slot `n`. -/
def copiedAlive (n : Nat) (s : State) : Byte :=
  let base := if s.snap.first || s.snap.fresh1.contains n || newestBank s == 0 then 0 else (lastSlot n s).alive
  if (lookupNat n s.snap.early).isSome then base + 1 else base

/-- The ALIVE count of a staged slot rests on the banks and the fill alone. -/
theorem stagedSlot_alive : (stagedSlot n s).alive =
    if s.snap.fill && !s.snap.written.contains n then copiedAlive n s else (slotOf (stagingBank s) n s).alive := by
  unfold stagedSlot fillSlot copiedAlive
  extract_lets fresh last base count
  have counted : base.alive = count := (apply_ite Slot.alive _ _ _).trans rfl
  clear_value base count
  subst counted
  refine (apply_ite Slot.alive _ _ _).trans (ite_congr rfl (fun _ => ?_) fun _ => rfl)
  cases lookupNat n s.snap.early with
  | some e => rfl
  | none => exact (apply_ite Slot.alive _ _ _).trans (ite_self _)

theorem stagedSlot_conds (h : Conds s t) : (stagedSlot n t).alive = (stagedSlot n s).alive := by
  obtain ⟨_, _, _, _, _, rfl⟩ := h
  rw [stagedSlot_alive, stagedSlot_alive]
  rfl

theorem Conds.kept (h : Conds s t) :
    t.snap.staging = s.snap.staging ∧ unitFailed 17 t = unitFailed 17 s ∧ ∀ b, bankOf b t = bankOf b s := by
  obtain ⟨_, _, _, _, _, rfl⟩ := h
  exact ⟨rfl, rfl, fun _ => rfl⟩

theorem stagedIx_congr (same : t.time = s.time) : stagedIx t = stagedIx s := by
  simp only [stagedIx, same]

theorem bankOf_congr {b} (same : t.snap = s.snap) : bankOf b t = bankOf b s := by
  simp only [bankOf, same]

theorem stagedSlot_alive_congr (same : t.snap = s.snap) : (stagedSlot n t).alive = (stagedSlot n s).alive := by
  simp only [stagedSlot_alive, copiedAlive, lastSlot, slotOf, stagingBank, newestBank, bankOf_congr same, same]
  rfl

/-! ## Staging -/

/-- `t` differs from `u` in the snapshot unit and records only. -/
def SnapOnly (u t : State) : Prop := OnlyRecords { u with snap := t.snap } t

theorem SnapOnly.refl : SnapOnly s s := OnlyRecords.refl

theorem SnapOnly.apart (h : SnapOnly s x) (k : OnlyRecords x u) : SnapOnly s u := by
  obtain ⟨_, _, _, _, _, _, _, _, rfl⟩ := records_form k
  exact Laws.OnlyRecords.trans h k

theorem SnapOnly.snap (h : SnapOnly s x) {k : SnapSt} : SnapOnly s { x with snap := k } := by
  obtain ⟨power, mode, pins, auth, tack, cfg, poll, -, time, boryel, canA, canB, sports, iports, tports, replay, pending⟩ := h
  exact ⟨power, mode, pins, auth, tack, cfg, poll, rfl, time, boryel, canA, canB, sports, iports, tports, replay, pending⟩

theorem SnapOnly.conds (h : SnapOnly s x) (k : Conds x u) : SnapOnly s u := by
  obtain ⟨_, _, _, _, _, rfl⟩ := k
  exact (h.snap).apart (u := { x with snap := _, verdicts := _ })
    ⟨rfl, rfl, rfl, rfl, rfl, rfl, rfl, rfl, rfl, rfl, rfl, rfl, rfl, rfl, rfl, rfl, rfl⟩

theorem writeStaging_only {y : Slot} (h : SnapOnly u s) : SnapOnly u (writeStaging n y s) := by
  unfold writeStaging setStaging putSlot
  refine SnapOnly.apart ?_ (grants_apart OnlyRecords.refl)
  rw [modBank_eq]
  split
  · exact h.snap
  · exact h.snap

theorem stageSample_only {xp} (h : SnapOnly u s) : SnapOnly u (stageSample p c xp s) := by
  unfold stageSample
  split
  · exact h.snap
  · split
    · exact h
    · split
      · exact writeStaging_only h
      · split
        · exact h.snap.apart (grant_apart OnlyRecords.refl)
        · split
          · exact h.snap
          · exact writeStaging_only h

theorem stageSample_unstaged {xp} (none : stagedIx s = none) : (stageSample p c xp s).snap.lateDrop = true := by
  simp [stageSample, none]

theorem stageSample_due {xp} (due : stagedIx s = some p.due) (works : unitFailed 17 s = false) :
    stageSample p c xp s = writeStaging p.ep (sampleSlot p c xp false) s := by
  simp [stageSample, due, works]

theorem slotOf_writeStaging {y : Slot} (staging : s.snap.staging ≠ 0) (inside : n < (bankOf (stagingBank s) s).slots.length) :
    slotOf (stagingBank s) n (writeStaging n y s) = withAlive y (stagedSlot n s).alive := by
  unfold writeStaging setStaging putSlot
  extract_lets x
  have written : slotOf (stagingBank s) n x = withAlive y (stagedSlot n s).alive := by
    rw [slotOf, bankOf_modBank (b := stagingBank s) (toNat_ne_zero staging) s.snap.staging.isLt]
    simp [inside]
  rw [slotOf, bankOf_grants]
  split <;> exact written

/-! ## Completion -/

/-- The state in which a sample is completed: the configuration of its run stands in the place of the running one. -/
def underRun (p : PendSample) (s : State) : State :=
  let m := if p.lead then s.cfg.fallback else s.cfg.user
  { s with cfg := { s.cfg with user := m, fallback := m } }

theorem isExpress_underRun (slow : nbit (cfgByte (if p.lead then s.cfg.fallback else s.cfg.user) (epAddr p.ep)) 2 = false) :
    isExpress p.ep (underRun p s) = false := by
  have same : running (underRun p s) = if p.lead then s.cfg.fallback else s.cfg.user := ite_self _
  rw [isExpress, same, slow, Bool.false_and]

/-- The completion of a sample that the express check leaves alone. -/
def plainCompletion (p : PendSample) (s : State) : State :=
  let c := conditionSample p (grants (samplePath p.lane) s)
  let staged := meetGets p.ep (stageSample p c.1 false (renewWindows p.ep (groupGrants p.ep c.1.passed c.2)))
  if !c.1.passed && staged.tap.trig.toNat / 256 = p.ep then tapTrigger 2 staged else staged

theorem plainCompletion_parts : ∃ c x, c.qual % 2 = 0 ∧ Conds s x ∧ OnlyRecords (stageSample p c false x) (plainCompletion p s) := by
  let c := conditionSample p (grants (samplePath p.lane) s)
  have conds : Conds s (renewWindows p.ep (groupGrants p.ep c.1.passed c.2)) :=
    ((Conds.refl.granted.trans conditionSample_conds).trans groupGrants_conds).trans renewWindows_conds
  have met : OnlyRecords (stageSample p c.1 false (renewWindows p.ep (groupGrants p.ep c.1.passed c.2)))
      (meetGets p.ep (stageSample p c.1 false (renewWindows p.ep (groupGrants p.ep c.1.passed c.2)))) :=
    grants_apart OnlyRecords.refl
  exact ⟨c.1, _, conditionSample_qual, conds, OnlyRecords.ite (tapTrigger_apart met) met⟩

/-- The completion of a sample under the configuration of its run. -/
def completion (p : PendSample) (s : State) : State :=
  let express := isExpress p.ep s && expressOn s
  let direct := express && directRoute p s
  let c := conditionSample p (grants (samplePath p.lane) s)
  let s1 := groupGrants p.ep c.1.passed (if express then expressCheck p direct c.1.passed c.2 else c.2)
  let s2 := if direct && !c.1.passed then expressFault p.ep s1 else s1
  let s3 := meetGets p.ep (stageSample p c.1 (express && c.1.passed) (renewWindows p.ep s2))
  if !c.1.passed && s3.tap.trig.toNat / 256 = p.ep then tapTrigger 2 s3 else s3

theorem completion_plain (plain : isExpress p.ep s = false) : completion p s = plainCompletion p s := by
  simp only [completion, plainCompletion, plain, Bool.false_and, Bool.false_eq_true, if_false]

/-- The configuration that stood before a run's own. -/
def restored (s t : State) : State := { t with cfg := { t.cfg with user := s.cfg.user, fallback := s.cfg.fallback } }

theorem completeSample_eq : completeSample p s = restored s (completion p (underRun p s)) := by
  unfold completeSample withRunning restored underRun completion
  rfl

theorem restored_only (h : SnapOnly (underRun p s) t) : SnapOnly s (restored s t) := by
  obtain ⟨power, mode, pins, auth, tack, cfg, poll, snap, time, boryel, canA, canB, sports, iports, tports, replay, pending⟩ := h
  refine ⟨power, mode, pins, auth, tack, ?_, poll, rfl, time, boryel, canA, canB, sports, iports, tports, replay, pending⟩
  unfold restored
  rw [cfg]
  rfl

theorem completeSample_snap (slow : nbit (cfgByte (if p.lead then s.cfg.fallback else s.cfg.user) (epAddr p.ep)) 2 = false) :
    SnapOnly s (completeSample p s) ∧ ∃ c x, c.qual % 2 = 0 ∧ Conds (underRun p s) x ∧
      (completeSample p s).snap = (stageSample p c false x).snap := by
  obtain ⟨c, x, even, conds, records⟩ := plainCompletion_parts (p := p) (s := underRun p s)
  rw [completeSample_eq, completion_plain (isExpress_underRun slow)]
  exact ⟨restored_only ((stageSample_only (SnapOnly.refl.conds conds)).apart records), c, x, even, conds, records.snap⟩

/-- A sample of the epoch being staged, as it stands in its slot. -/
theorem sampleSlot_fresh {alive : Byte} (even : c.qual % 2 = 0) : (withAlive (sampleSlot p c false false) alive).qual.getLsbD 0 = true := by
  have odd : ∀ k, (BitVec.ofNat 16 k).getLsbD 0 = decide (k % 2 = 1) := by
    intro k
    simp [BitVec.getLsbD, Nat.testBit_zero]
  have lead : bit false = 0 := rfl
  simp only [withAlive, sampleSlot, odd, lead]
  have : 4096 * bit p.lead % 2 = 0 := by omega
  simp only [decide_eq_true_eq]
  omega

/-- The first sample on its way, where its points grant it, is the one completed. -/
theorem sampleCompletion_first {ps} (pend : s.poll.pend = p :: ps) (granted : passes (sampleAsks p (advance t0 s)) (advance t0 s) = true) :
    effSampleCompletion t0 s =
      completeSample p { advance t0 s with poll := { (advance t0 s).poll with pend := ps } } := by
  have first : (advance t0 s).poll.pend = p :: ps := by rw [advance_poll, pend]
  unfold effSampleCompletion
  extract_lets u
  have found : u.poll.pend.find? (fun p => passes (sampleAsks p u) u) = some p := by
    rw [first]
    exact List.find?_cons_of_pos granted
  rw [found, first]
  simp only [dropFirst]
  rw [if_pos granted]

theorem bank_length {b : Nat} (inv : Inv s) (least : b ≠ 0) (most : b < 4) : (bankOf b s).slots.length = 256 := by
  have counts := inv.counts
  simp only [shape, specShape, List.cons.injEq] at counts
  obtain ⟨-, -, -, -, -, -, -, -, -, -, -, a, b', c, -⟩ := counts
  obtain rfl | rfl | rfl : b = 1 ∨ b = 2 ∨ b = 3 := by omega
  · exact a
  · exact b'
  · exact c

theorem lateExpressRoute_routes {l : LateSample} {ls : List LateSample} (late : s.poll.late = l :: ls)
    (granted : heldUp 179 false s = false) :
    effLateExpressRoute t0 s =
      let x := grant 179 false { advance t0 s with poll := { s.poll with late := ls } }
      if l.passed && expressOn x then postExpress l.ep l.ht x else x := by
  have held : heldUp 179 false (advance t0 s) = false := by rw [heldUp_advance, granted]
  unfold effLateExpressRoute
  simp only [advance_poll, late, held, Bool.false_eq_true, if_false]

theorem sampleCompletion_completes {ps} (pend : s.poll.pend = p :: ps)
    (slow : nbit (cfgByte (if p.lead then s.cfg.fallback else s.cfg.user) (epAddr p.ep)) 2 = false) :
    let u := advance t0 s
    passes (sampleAsks p u) u = true → ∃ t, exec (.sampleCompletion t0) s = .next t ∧
      OnlyRecords { u with poll := { u.poll with pend := ps }, snap := t.snap } t ∧
      (stagedIx u = none → t.snap.lateDrop = true) ∧
      (Inv s → stagedIx u = some p.due → unitFailed 17 s = false → s.snap.staging ≠ 0 → p.ep < 256 →
        let x := slotOf (stagingBank s) p.ep t
        x.sht = p.ht ∧ x.age = 0 ∧ x.qual.getLsbD 0 = true ∧ x.alive = (stagedSlot p.ep s).alive + 1) := by
  intro u granted
  refine ⟨_, next_congr (sampleCompletion_first pend granted), ?_⟩
  generalize sent : ({ advance t0 s with poll := { (advance t0 s).poll with pend := ps } } : State) = v
  have cfg : v.cfg = s.cfg := by rw [← sent, advance_cfg]
  have time : v.time = u.time := by rw [← sent]
  have snap : v.snap = s.snap := by rw [← sent, advance_snap]
  have power : v.power = s.power := by rw [← sent, advance_power]
  have fault : v.fault = s.fault := by rw [← sent, advance_fault]
  obtain ⟨only, c, x, even, conds, staged⟩ := completeSample_snap (p := p) (s := v) (by rw [cfg]; exact slow)
  have there : stagedIx x = stagedIx u := by
    obtain ⟨_, _, _, _, _, rfl⟩ := conds
    exact stagedIx_congr time
  have base : ∀ k, ({ v with snap := k } : State) = { u with poll := { u.poll with pend := ps }, snap := k } := by
    rw [← sent]
    exact fun _ => rfl
  refine ⟨by rw [← base]; exact only, fun none => ?_, fun inv due works staging inside => ?_⟩
  · rw [staged]
    exact stageSample_unstaged (there.trans none)
  · obtain ⟨code, unit, banks⟩ := conds.kept
    have code : x.snap.staging = s.snap.staging := code.trans (congrArg SnapSt.staging snap)
    have banks : ∀ b, bankOf b x = bankOf b s := fun b => (banks b).trans (bankOf_congr snap)
    have unit : unitFailed 17 x = unitFailed 17 s := unit.trans (by simp only [unitFailed, underRun, power, fault])
    have bank : stagingBank x = stagingBank s := congrArg BitVec.toNat code
    have slot := slotOf_writeStaging (y := sampleSlot p c false false) (code.symm ▸ staging) (by
      rw [bank, banks, bank_length (b := stagingBank s) inv (toNat_ne_zero staging) s.snap.staging.isLt]
      exact inside)
    have there' : slotOf (stagingBank s) p.ep (completeSample p v) = slotOf (stagingBank x) p.ep (stageSample p c false x) := by
      rw [bank]
      exact congrArg (fun b : Bank => b.slots.getD p.ep zeroSlot) (bankOf_congr staged)
    rw [stageSample_due (there.trans due) (unit.trans works), slot] at there'
    dsimp only
    rw [there']
    refine ⟨rfl, rfl, sampleSlot_fresh even, ?_⟩
    exact congrArg (· + 1) ((stagedSlot_conds conds).trans (stagedSlot_alive_congr snap))

theorem expressOn_late {poll} : expressOn (grant 179 false { advance t0 s with poll := poll }) = expressOn s := by
  simp [expressOn, unitFailed, kernelOnly]

/-- Settles O49. -/
theorem sampleRoutes : Obligations.SampleRoutes := by
  refine ⟨fun t0 p ps s pend slow => sampleCompletion_completes pend slow,
    fun t0 l ls s late granted => ⟨fun passed on => ?_, fun dropped => ?_⟩⟩
  · refine ⟨_, next_congr ((lateExpressRoute_routes late granted).trans (if_pos ?_)), ?_⟩
    · rw [passed, expressOn_late, on, Bool.and_self]
    · exact ⟨postExpress_apart (grant_apart OnlyRecords.refl), (congrArg (·.getLsbD 0) attend_src).trans (setBit_self (by decide))⟩
  · obtain ⟨w, eq⟩ := grant_alike (s := { advance t0 s with poll := { s.poll with late := ls } }) (p := 179) (b := false)
    refine ⟨w, next_congr ((lateExpressRoute_routes late granted).trans ((if_neg ?_).trans eq))⟩
    rw [expressOn_late]
    obtain no | no := dropped <;> simp [no]

end Sys2Proof.Proofs.Samples

/-! PROOFS. The SENT inputs (chapter 15, R354 to R358, R362): what one pulse of the line does. -/

namespace Sys2Proof.Proofs.Sent

set_option Elab.async false

open Sys2Proof.Machine Sys2Proof.Safety Sys2Proof.Laws Sys2Proof.Proofs.Shared Sys2Proof.Proofs.Lanes
  Sys2Proof.Proofs.RunStatus Sys2Proof.Proofs.Beside

variable {s t u : State} {p o v len low : Nat} {x : TPortSt} {X Y : TPortSt → Prop} {c : TSettings} {t0 : HubTime} {ns : List (BitVec 4)}

/-! ## An input and one of its counters -/

/-- In `t`, which has the mode of `u`, SENT input `p` is as `X` says, and its status word at `o` is `v`. -/
structure Line (p o : Nat) (u : State) (X : TPortSt → Prop) (v : Nat) (t : State) : Prop where
  port : X (tportOf p t)
  inside : p < t.tports.length
  mode : t.mode = u.mode
  wf : Memory.wf zeroDflt t.cfg.status = true
  word : statWord (tStat p o) t = v

/-- A status word of an input. -/
structure Offset (p o : Nat) : Prop where
  input : p < 4
  least : 0x380 ≤ o
  most : o < 0x3FF

theorem Offset.still (h : Offset p o) : Still (tStat p o) ∧ Still (tStat p o + 1) := by
  obtain ⟨input, least, most⟩ := h
  simp only [Still, tStat, portBlock]
  omega

theorem Line.beside (h : Line p o u X v s) (known : Offset p o) (k : Aside s t) : Line p o u X v t := by
  obtain ⟨port, inside, mode, wf, word⟩ := h
  obtain ⟨low, high⟩ := known.still
  refine ⟨?_, ?_, k.mode.trans mode, k.wf wf, (k.word wf low high).trans word⟩
  · rw [tportOf, k.tports]
    exact port
  · rw [k.tports]
    exact inside

theorem Line.mod {f : TPortSt → TPortSt} (h : Line p o u X v s) (k : ∀ y, X y → Y (f y)) : Line p o u Y v (modTPort p f s) := by
  obtain ⟨port, inside, mode, wf, word⟩ := h
  refine ⟨?_, ?_, mode, wf, word⟩
  · rw [tportOf_modTPort inside]
    exact k _ port
  · rw [modTPort, modifyNth_length]
    exact inside

theorem Line.weaken (h : Line p o u X v s) (k : ∀ y, X y → Y y) : Line p o u Y v s :=
  ⟨k _ h.port, h.inside, h.mode, h.wf, h.word⟩

theorem Line.set {w : Nat} (h : Line p o u X v s) : Line p o u X (w % 65536) (setStatWord (tStat p o) w s) := by
  obtain ⟨port, inside, mode, wf, -⟩ := h
  exact ⟨port, inside, mode, wf_writeBytes wf, statWord_setStatWord wf⟩

theorem Line.setSmall {w : Nat} (h : Line p o u X v s) (small : w < 65536) : Line p o u X w (setStatWord (tStat p o) w s) := by
  have set := h.set (w := w)
  rw [Nat.mod_eq_of_lt small] at set
  exact set

theorem Line.count (h : Line p o u X v s) : Line p o u X ((v + 1) % 65536) (countWord (tStat p o) s) := by
  unfold countWord
  rw [h.word]
  exact h.set

theorem Line.other {o' w : Nat} (h : Line p o u X v s) (apart : o + 2 ≤ o' ∨ o' + 2 ≤ o) :
    Line p o u X v (setStatWord (tStat p o') w s) := by
  obtain ⟨port, inside, mode, wf, word⟩ := h
  refine ⟨port, inside, mode, wf_writeBytes wf, (statWord_setStatWord_ne wf ?_).trans word⟩
  simp only [tStat]
  omega

/-! ## Errors -/

/-- The sticky bit of an error that has set the search on. -/
def Searching (b : Nat) (y : TPortSt) : Prop := y.stage = .search ∧ y.prev = none ∧ y.sticky.getLsbD b = true

theorem setBit_keeps {w : Word} {b i : Nat} (h : w.getLsbD b = true) : (setBit w i).getLsbD b = true := by
  simp [setBit, h]

theorem slowError_line {bytes} (h : Line p o u X v s) (known : Offset p o) (apart : o + 2 ≤ 0x38C ∨ 0x38C + 2 ≤ o)
    (k : ∀ y, X y → Y { y with slow := [], prev := none, sticky := setBit y.sticky 12 }) : Line p o u Y v (slowError p bytes s) := by
  have lost : Line p o u (fun y => Y { y with sticky := setBit y.sticky 12 }) v (modTPort p (fun x => { x with slow := [], prev := none }) s) :=
    h.mod k
  have marked : Line p o u Y v (stickT p 12 (modTPort p (fun x => { x with slow := [], prev := none }) s)) := lost.mod fun _ => id
  exact (marked.other apart).beside known (sentFailWaiting_aside (recSent_aside Aside.refl))

theorem sentDiscard_line (h : Line p o u X v s) (known : Offset p o) (apart : o + 2 ≤ 0x38C ∨ 0x38C + 2 ≤ o)
    (k : ∀ y, X y → Y { y with stage := .search, prev := none })
    (lost : ∀ y, Y y → y.prev = none → Y { y with slow := [], prev := none, sticky := setBit y.sticky 12 }) :
    Line p o u (fun y => Y y ∧ y.slow = []) v (sentDiscard p s) := by
  have searching : Line p o u (fun y => Y y ∧ y.prev = none) v (sentSearch p s) := h.mod fun y x => ⟨k y x, rfl⟩
  unfold sentDiscard
  extract_lets found
  refine Line.beside ?_ known (sentFailWaiting_aside Aside.refl)
  split
  · next empty =>
    exact ⟨⟨searching.port.1, List.isEmpty_iff.mp empty⟩, searching.inside, searching.mode, searching.wf, searching.word⟩
  · exact slowError_line searching known apart fun y ⟨old, fresh⟩ => ⟨lost y old fresh, rfl⟩

/-- What an error does once it has been counted. -/
theorem sentFail_ends {k : SentClass} {code b : Nat} {counter : Option Nat}
    (h : Line p o u X v (match counter with | some o => countWord (tStat p o) s | none => s))
    (class_ : sentCode k = (code, counter, b)) (bit : b < 16) (known : Offset p o)
    (apart : o + 2 ≤ 0x38C ∨ 0x38C + 2 ≤ o) : Line p o u (fun y => Searching b y ∧ y.slow = []) v (sentFail p k ns s) := by
  unfold sentFail
  rw [class_]
  extract_lets e x bytes s1 s2
  have counted : Line p o u X v s1 := by
    cases counter <;> exact h
  have marked : Line p o u (fun y => y.sticky.getLsbD b = true) v s2 :=
    Line.mod (X := fun y => y.sticky.getLsbD b = true) (counted.mod fun _ _ => setBit_self bit) fun _ => id
  clear_value s1 s2
  exact sentDiscard_line (marked.beside known (Aside.ite Aside.refl (recSent_aside Aside.refl))) known apart
    (fun _ sticky => ⟨rfl, rfl, sticky⟩) fun _ old _ => ⟨old.1, rfl, setBit_keeps old.2.2⟩

/-- An error of Table 15-3 with its counter and sticky bit. -/
theorem sentFail_line {k : SentClass} {code b : Nat} (h : Line p o u X v s) (known : Offset p o)
    (class_ : sentCode k = (code, some o, b)) (apart : o + 2 ≤ 0x38C ∨ 0x38C + 2 ≤ o) (bit : b < 16) :
    Line p o u (fun y => Searching b y ∧ y.slow = []) ((v + 1) % 65536) (sentFail p k ns s) :=
  sentFail_ends (counter := some o) h.count class_ bit known apart

/-! ## One pulse -/

/-- A command of one pulse: what the pulse brings about, where that is the command's event. -/
theorem sentPulses_one {wanted : SentEvent → Bool} {pulse : SentPulse} (own : s.replay.run = false) (takes : takesPulses p s = true) :
    sentPulses p wanted [pulse] s =
      let r := takePulse p ((tportOf p s).next.getD (tSettings p s)) pulse.len s
      if wanted r.1 then (endPulse p r).2 else s := by
  have run : runPulses p (passedPulses ((tportOf p s).next.getD (tSettings p s)).flt [pulse]) s =
      endPulse p (takePulse p ((tportOf p s).next.getD (tSettings p s)) pulse.len s) := rfl
  unfold sentPulses
  rw [run, own, takes]
  rfl

theorem tportOf_advance : tportOf p (advance t0 s) = tportOf p s := by
  rw [tportOf, advance_tports, ← tportOf]

theorem tSettings_advance : tSettings p (advance t0 s) = tSettings p s := by
  simp [tSettings, runWord, running]

theorem actMode_advance : actMode (advance t0 s) = actMode s := by
  have mode : (advance t0 s).replay.mode = s.replay.mode := by
    unfold advance
    repeat' split
    all_goals rfl
  simp [actMode, mode]

theorem tWorks_advance : tWorks p (advance t0 s) = tWorks p s := by
  simp [tWorks, actMode_advance, runWord, running, portDropped, pinOf, asleep, kernelOnly]

theorem takesPulses_advance : takesPulses p (advance t0 s) = takesPulses p s := by
  simp [takesPulses, tWorks_advance, tportOf_advance, bankOut, pinStops, pinOf]

theorem line_of_inv (inv : Inv s) (known : Offset p o) :
    Line p o s (· = tportOf p s) (statWord (tStat p o) s) (advance t0 s) := by
  obtain ⟨-, -, -, tports⟩ := counts_of_inv inv
  refine ⟨tportOf_advance, ?_, advance_mode, ?_, ?_⟩
  · rw [advance_tports, tports]
    exact known.input
  · rw [advance_cfg]
    exact status_of_inv inv
  · rw [statWord, advance_cfg, ← statWord]

theorem endPulse_line {r : SentEvent × State} {Y : TPortSt → Prop} (h : Line p o u X v r.2)
    (k : ∀ y next, X y → Y { y with next := next, silent := false }) : Line p o u Y v (endPulse p r).2 :=
  h.mod fun y => k y _

/-- The event of a pulse, with what holds at its end. -/
structure Brings (p o : Nat) (u : State) (X : TPortSt → Prop) (v : Nat) (e : SentEvent) (r : SentEvent × State) : Prop where
  event : r.1 = e
  line : Line p o u X v r.2

theorem Brings.of {e : SentEvent} (h : Line p o u X v s) : Brings p o u X v e (e, s) := ⟨rfl, h⟩

theorem takesPulse_row {wanted : SentEvent → Bool} {pulse : SentPulse} {e : SentEvent} {Y : TPortSt → Prop} (own : s.replay.run = false)
    (takes : takesPulses p s = true)
    (h : Brings p o u X v e (takePulse p ((tportOf p s).next.getD (tSettings p s)) pulse.len (advance t0 s)))
    (want : wanted e = true) (k : ∀ y next, X y → Y { y with next := next, silent := false }) :
    Line p o u Y v (sentPulses p wanted [pulse] (advance t0 s)) := by
  obtain ⟨event, line⟩ := h
  have own' : (advance t0 s).replay.run = false := advance_run.trans own
  rw [sentPulses_one own' (takesPulses_advance.trans takes), tportOf_advance, tSettings_advance]
  dsimp only
  rw [event, if_pos want]
  exact endPulse_line line k

/-! ### What a pulse brings about -/

/-- What a valid sync pulse leaves of an input. -/
def Synced (len : Nat) (c : TSettings) (y : TPortSt) : Prop :=
  y.tick = (2 * len + 7) / 14 ∧ y.synced = true ∧ y.stage = .frame [] ∧ y.prev = some len ∧ y.set = c

theorem trySync_counts (h : Line p o u X v s) (valid : syncValid (tportOf p s) c len = true) (apart : o + 2 ≤ 0x390 ∨ 0x390 + 2 ≤ o) :
    Brings p o u (Synced len c) v .synced (trySync p c len s) := by
  unfold trySync
  rw [if_pos valid]
  exact Brings.of ((h.mod fun _ _ => ⟨rfl, rfl, rfl, rfl, rfl⟩).other apart)

theorem trySync_tick (h : Line p 0x390 u X v s) (valid : syncValid (tportOf p s) c len = true) :
    Brings p 0x390 u (Synced len c) (min (syncTick len) 0xFFFF) .synced (trySync p c len s) := by
  unfold trySync
  rw [if_pos valid]
  have small : min (syncTick len) 0xFFFF < 65536 := by omega
  exact Brings.of (Line.setSmall (h.mod fun _ _ => ⟨rfl, rfl, rfl, rfl, rfl⟩) small)

theorem trySync_fails (h : Line p 0x382 u X v s) (input : p < 4) (invalid : syncValid (tportOf p s) c len = false) :
    Brings p 0x382 u (fun y => Searching 8 y ∧ y.slow = []) ((v + 1) % 65536) .failed (trySync p c len s) := by
  unfold trySync
  rw [if_neg (by rw [invalid]; exact Bool.false_ne_true)]
  exact Brings.of (sentFail_line h ⟨input, by decide, by decide⟩ (code := 2) rfl (by decide) (by decide))

/-! ### Valid frames -/

/-- The stage after a frame (R358). -/
def afterFrame (x : TPortSt) : SentStage := if x.set.pause then .pause else .sync

theorem slowDone_line {bytes stage} (h : Line p o u (fun y => y.stage = stage) v s) (known : Offset p o)
    (apart : o + 2 ≤ 0x38A ∨ 0x38A + 2 ≤ o) : Line p o u (fun y => y.stage = stage) v (slowDone p bytes s) := by
  have lost : Line p o u (fun y => y.stage = stage) v (modTPort p (fun x => { x with slow := [] }) s) := h.mod fun _ same => same
  unfold slowDone
  exact (lost.other apart).beside known (sentDeliver_aside (recSent_aside (grants_aside Aside.refl)))

theorem slowFrame_line {status tick stage} (h : Line p o u (fun y => y.stage = stage) v s) (known : Offset p o)
    (apart : (o + 2 ≤ 0x38C ∨ 0x38C + 2 ≤ o) ∧ (o + 2 ≤ 0x38A ∨ 0x38A + 2 ≤ o)) :
    Line p o u (fun y => y.stage = stage) v (slowFrame p status tick s) := by
  unfold slowFrame
  extract_lets x mode l
  split
  · exact h
  · split
    · exact h
    · split
      · exact h.mod fun _ same => same
      · exact slowError_line h known apart.1 fun _ same => same
      · exact slowDone_line h known apart.2

theorem fastDone_counts {status bytes} (h : Line p 0x380 u (· = x) v s) (input : p < 4) :
    Line p 0x380 u (fun y => y.stage = afterFrame x) ((v + 1) % 65536) (fastDone p status bytes s) := by
  have known : Offset p 0x380 := ⟨input, by decide, by decide⟩
  have done : Line p 0x380 u (fun y => y.stage = afterFrame x) v (grants [(384 + 2 * p, false), (385 + 2 * p, false)]
      (modTPort p (fun x => { x with stage := if x.set.pause then .pause else .sync }) s)) :=
    (h.mod fun y same => by rw [same]; rfl).beside known (grants_aside Aside.refl)
  unfold fastDone
  exact (done.count.other (.inl (by decide))).beside known (sentDeliver_aside (recSent_aside Aside.refl))

theorem fastDone_status {status bytes} (h : Line p 0x392 u (· = x) v s) (input : p < 4) (small : status < 65536) :
    Line p 0x392 u (fun y => y.stage = afterFrame x) status (fastDone p status bytes s) := by
  have known : Offset p 0x392 := ⟨input, by decide, by decide⟩
  have done : Line p 0x392 u (fun y => y.stage = afterFrame x) v (grants [(384 + 2 * p, false), (385 + 2 * p, false)]
      (modTPort p (fun x => { x with stage := if x.set.pause then .pause else .sync }) s)) :=
    (h.mod fun y same => by rw [same]; rfl).beside known (grants_aside Aside.refl)
  unfold fastDone
  exact ((done.other (.inr (by decide))).setSmall small).beside known (sentDeliver_aside (recSent_aside Aside.refl))

/-- A frame whose CRC nibble fits. -/
theorem judgeFrame_good {nibbles} (good : some (sentCrc (tportOf p s).set.crcrec (nibbles.drop 1).dropLast) = nibbles.getLast?) :
    ∃ tick bytes, judgeFrame p nibbles s =
      (.framed, slowFrame p (nibbles.headD 0) tick (fastDone p (nibbles.headD 0).toNat bytes s)) := by
  unfold judgeFrame
  rw [if_pos good]
  exact ⟨_, _, rfl⟩

theorem judgeFrame_counts {nibbles} (h : Line p 0x380 u (· = x) v s) (input : p < 4)
    (good : some (sentCrc (tportOf p s).set.crcrec (nibbles.drop 1).dropLast) = nibbles.getLast?) :
    Brings p 0x380 u (fun y => y.stage = afterFrame x) ((v + 1) % 65536) .framed (judgeFrame p nibbles s) := by
  obtain ⟨tick, bytes, eq⟩ := judgeFrame_good good
  rw [eq]
  exact Brings.of (slowFrame_line (fastDone_counts h input) ⟨input, by decide, by decide⟩ ⟨.inl (by decide), .inl (by decide)⟩)

theorem judgeFrame_status {nibbles} (h : Line p 0x392 u (· = x) v s) (input : p < 4)
    (good : some (sentCrc (tportOf p s).set.crcrec (nibbles.drop 1).dropLast) = nibbles.getLast?) :
    Brings p 0x392 u (fun y => y.stage = afterFrame x) (nibbles.headD 0).toNat .framed (judgeFrame p nibbles s) := by
  obtain ⟨tick, bytes, eq⟩ := judgeFrame_good good
  rw [eq]
  exact Brings.of (slowFrame_line (fastDone_status h input (by omega)) ⟨input, by decide, by decide⟩ ⟨.inr (by decide), .inr (by decide)⟩)

theorem judgeFrame_fails {nibbles} (h : Line p 0x386 u X v s) (input : p < 4)
    (bad : some (sentCrc (tportOf p s).set.crcrec (nibbles.drop 1).dropLast) ≠ nibbles.getLast?) :
    Brings p 0x386 u (fun y => Searching 10 y ∧ y.slow = []) ((v + 1) % 65536) .failed (judgeFrame p nibbles s) := by
  unfold judgeFrame
  rw [if_neg bad]
  exact Brings.of (sentFail_line h ⟨input, by decide, by decide⟩ (code := 4) rfl (by decide) (by decide))

/-! ## The commands -/

/-- The pulse of the command, as it is taken. -/
def taken (p len : Nat) (t0 : HubTime) (s : State) : SentEvent × State :=
  takePulse p ((tportOf p s).next.getD (tSettings p s)) len (advance t0 s)

theorem sentSync_synced (own : s.replay.run = false) (takes : takesPulses p s = true)
    (h : Brings p o s (Synced len c) v .synced (taken p len t0 s)) :
    Line p o s (fun y => Synced len c y ∧ y.silent = false) v
      (sentPulses p (fun e => e == .synced || e == .nothing) [⟨low, len⟩] (advance t0 s)) :=
  takesPulse_row own takes h rfl fun _ _ synced => ⟨synced, rfl⟩

theorem sentError_failed {b : Nat} (own : s.replay.run = false) (takes : takesPulses p s = true)
    (h : Brings p o s (fun y => Searching b y ∧ y.slow = []) v .failed (taken p len t0 s)) :
    Line p o s (fun y => (Searching b y ∧ y.slow = []) ∧ y.silent = false) v
      (sentPulses p (fun e => e == .failed) [⟨low, len⟩] (advance t0 s)) :=
  takesPulse_row own takes h rfl fun _ _ failed => ⟨failed, rfl⟩

theorem sentFrame_framed {stage} (own : s.replay.run = false) (takes : takesPulses p s = true)
    (h : Brings p o s (fun y => y.stage = stage) v .framed (taken p len t0 s)) :
    Line p o s (fun y => y.stage = stage) v (sentPulses p (fun e => e == .framed) [⟨low, len⟩] (advance t0 s)) :=
  takesPulse_row own takes h rfl fun _ _ framed => framed

theorem modifyNth_modifyNth {α : Type} {f g : α → α} {n : Nat} {l : List α} :
    modifyNth g n (modifyNth f n l) = modifyNth (g ∘ f) n l := by
  induction l generalizing n with
  | nil => cases n <;> rfl
  | cons a l ih =>
    cases n with
    | zero => rfl
    | succ n => exact congrArg (a :: ·) ih

theorem modifyNth_congr {α : Type} {f g : α → α} {d : α} {n : Nat} {l : List α} (h : n < l.length → f (l.getD n d) = g (l.getD n d)) :
    modifyNth f n l = modifyNth g n l := by
  induction l generalizing n with
  | nil => cases n <;> rfl
  | cons a l ih =>
    cases n with
    | zero => exact congrArg (· :: l) (h (Nat.zero_lt_succ _))
    | succ n => exact congrArg (a :: ·) (ih fun inside => h (Nat.succ_lt_succ inside))

theorem modTPort_modTPort {f g : TPortSt → TPortSt} : modTPort p g (modTPort p f s) = modTPort p (g ∘ f) s :=
  congrArg (fun l => { s with tports := l }) modifyNth_modifyNth

theorem modifyNth_id {α : Type} {n : Nat} {l : List α} : modifyNth id n l = l := by
  induction l generalizing n with
  | nil => cases n <;> rfl
  | cons a l ih =>
    cases n with
    | zero => rfl
    | succ n => exact congrArg (a :: ·) ih

theorem modTPort_id : modTPort p id s = s := congrArg (fun l => { s with tports := l }) modifyNth_id

theorem modTPort_congr {f g : TPortSt → TPortSt} (h : f (tportOf p s) = g (tportOf p s)) : modTPort p f s = modTPort p g s :=
  congrArg (fun l => { s with tports := l }) (modifyNth_congr fun _ => h)

/-- A pulse that goes by leaves the input at `stage`. -/
theorem sentSync_passes {stage : SentStage} {f : TPortSt → TPortSt} (own : s.replay.run = false) (takes : takesPulses p s = true)
    (h : taken p len t0 s = (.nothing, modTPort p f (advance t0 s)))
    (moves : f (tportOf p s) = { tportOf p s with stage := stage }) :
    sentPulses p (fun e => e == .synced || e == .nothing) [⟨low, len⟩] (advance t0 s) =
      modTPort p (fun y => { y with stage := stage, next := some (tSettings p (advance t0 s)), silent := false }) (advance t0 s) := by
  have there : takePulse p ((tportOf p (advance t0 s)).next.getD (tSettings p (advance t0 s))) len (advance t0 s) =
      (.nothing, modTPort p f (advance t0 s)) := by
    rw [tportOf_advance, tSettings_advance]
    exact h
  rw [sentPulses_one (advance_run.trans own) (takesPulses_advance.trans takes)]
  dsimp only
  rw [there]
  refine modTPort_modTPort.trans (modTPort_congr ?_)
  rw [Function.comp_apply, tportOf_advance, moves]
  rfl

/-! ## The stages -/

theorem syncValid_prev {y : TPortSt} (h : y.prev = x.prev) : syncValid y c len = syncValid x c len := by
  simp only [syncValid, h]

theorem takePulse_search (h : (tportOf p s).stage = .search) : takePulse p c len s =
    if syncCandidate (tportOf p s) len then trySync p c len s else (.nothing, s) := by
  simp only [takePulse, h]

theorem takePulse_sync (h : (tportOf p s).stage = .sync) : takePulse p c len s =
    if syncCandidate (tportOf p s) len then trySync p c len s else (.failed, sentFail p .nibble [] s) := by
  simp only [takePulse, h]

theorem takePulse_pause (h : (tportOf p s).stage = .pause) : takePulse p c len s =
    if inTicks (tportOf p s).tick 768 len then (.nothing, modTPort p (fun x => { x with stage := .sync }) s)
    else (.failed, sentFail p .pause [] s) := by
  simp only [takePulse, h]

theorem takePulse_frame (h : (tportOf p s).stage = .frame ns) : takePulse p c len s =
    if syncCandidate (tportOf p s) len then trySync p c len (sentFail p .nibble ns s)
    else if !inTicks (tportOf p s).tick 27 len then (.failed, sentFail p .nibble ns s)
    else if ns.length + 1 < (tportOf p s).set.nib + 2 then
      (.nothing, modTPort p (fun x => { x with stage := .frame (ns ++ [nibbleOf x.tick len]) }) s)
    else judgeFrame p (ns ++ [nibbleOf (tportOf p s).tick len]) s := by
  simp only [takePulse, h]

/-! ## The line timeout -/

theorem lineLimit_advance : lineLimit p (advance t0 s) = lineLimit p s := by
  rw [lineLimit, tportOf_advance, tSettings_advance, lineLimit]

theorem lineSilent_line (h : Line p 0x38E u X v s) (input : p < 4) :
    Line p 0x38E u (fun y => (Searching 13 y ∧ y.silent = true) ∧ y.slow = []) ((v + 1) % 65536) (lineSilent p s) := by
  unfold lineSilent
  have known : Offset p 0x38E := ⟨input, by decide, by decide⟩
  have marked : Line p 0x38E u (fun y => y.sticky.getLsbD 13 = true ∧ y.silent = true) v
      (stickT p 13 (modTPort p (fun x => { x with silent := true, next := none }) s)) :=
    (h.mod (Y := fun y => y.silent = true) fun _ _ => rfl).mod fun _ quiet => ⟨setBit_self (by decide), quiet⟩
  exact sentDiscard_line (marked.count.beside known (recSent_aside Aside.refl)) known (.inr (by decide))
    (fun _ old => ⟨⟨rfl, rfl, old.1⟩, old.2⟩) fun _ old _ => ⟨⟨old.1.1, rfl, setBit_keeps old.1.2.2⟩, old.2⟩

/-- Settles O58. -/
theorem sentInputs : Obligations.SentInputs := by
  intro p s inv own x c becomes counts
  have input := p.isLt
  have at_ {o : Nat} (least : 0x380 ≤ o) (most : o < 0x3FF) (t0 : HubTime) :
      Line p.val o s (· = x) (statWord (tStat p.val o) s) (advance t0 s) := line_of_inv inv ⟨input, least, most⟩
  refine ⟨fun takes len low t0 => ?_, fun t0 works heard limited => ?_⟩
  · intro u one cand goesBy synced fails
    have passes {stage f} (h : taken p.val len t0 s = (.nothing, modTPort p.val f u)) (moves : f x = { x with stage := stage }) :
        goesBy stage := next_congr (sentSync_passes own takes h moves)
    have fails_of {o b : Nat} (h : Brings p.val o s (fun y => Searching b y ∧ y.slow = []) ((statWord (tStat p.val o) s + 1) % 65536)
        .failed (taken p.val len t0 s)) : fails o b := by
      obtain ⟨⟨⟨⟨stage, prev, sticky⟩, slow⟩, silent⟩, -, mode, -, word⟩ := sentError_failed (low := low) own takes h
      exact ⟨_, rfl, congrArg ModeSt.cur mode, stage, prev, slow, silent, sticky, word⟩
    have synced_of {r : State → Prop} (h : Brings p.val 0x390 s (Synced len c) (min (syncTick len) 0xFFFF) .synced (taken p.val len t0 s))
        (k : r (sentPulses p.val (fun e => e == .synced || e == .nothing) [one] u)) : synced r := by
      obtain ⟨⟨⟨tick, was, stage, prev, set⟩, silent⟩, -, mode, -, word⟩ := sentSync_synced (low := low) own takes h
      exact ⟨_, rfl, congrArg ModeSt.cur mode, tick, was, stage, prev, set, silent, word, k⟩
    have there : tportOf p.val u = x := tportOf_advance
    have tries (h : taken p.val len t0 s = trySync p.val c len u) :
        (syncValid x c len = true → synced (fun _ => True)) ∧ (syncValid x c len = false → fails 0x382 8) := by
      refine ⟨fun valid => synced_of ?_ trivial, fun invalid => fails_of ?_⟩
      · rw [h]
        exact trySync_tick (at_ (by decide) (by decide) t0) (by rw [there, valid])
      · rw [h]
        exact trySync_fails (at_ (by decide) (by decide) t0) input (by rw [there, invalid])
    have nibble {k : SentClass} {ns code o b} (class_ : sentCode k = (code, some o, b)) (least : 0x380 ≤ o)
        (most : o + 2 ≤ 0x38C) (small : b < 16)
        (h : taken p.val len t0 s = (.failed, sentFail p.val k ns u)) : fails o b := by
      refine fails_of ?_
      rw [h]
      exact Brings.of (sentFail_line (at_ least (by omega) t0) ⟨input, least, by omega⟩ class_ (.inl most) small)
    refine ⟨fun stage candidate => ?_, fun stage candidate => ?_, fun stage candidate => ?_, fun stage => ?_, fun ns stage => ?_⟩
    · refine tries ?_
      obtain stage | stage := stage
      · rw [taken, takePulse_search (by rw [there, stage]), there, if_pos candidate]
      · rw [taken, takePulse_sync (by rw [there, stage]), there, if_pos candidate]
    · refine passes (f := id) ?_ ?_
      · rw [taken, takePulse_search (by rw [there, stage]), there, if_neg (ne_true_of_eq_false candidate), modTPort_id]
      · exact congrArg (fun g => { x with stage := g }) stage
    · refine nibble (k := .nibble) rfl (by decide) (by decide) (by decide) (ns := []) ?_
      rw [taken, takePulse_sync (by rw [there, stage]), there, if_neg (ne_true_of_eq_false candidate)]
    · refine ⟨fun ticks => passes (f := fun x => { x with stage := .sync }) ?_ rfl,
        fun ticks => nibble (k := .pause) rfl (by decide) (by decide) (by decide) (ns := []) ?_⟩
      · rw [taken, takePulse_pause (by rw [there, stage]), there, if_pos ticks]
      · rw [taken, takePulse_pause (by rw [there, stage]), there, if_neg (ne_true_of_eq_false ticks)]
    · have pulse : taken p.val len t0 s = _ := takePulse_frame (p := p.val) (c := c) (len := len) (s := u) (by rw [there, stage])
      rw [there] at pulse
      refine ⟨fun candidate valid => ?_, fun candidate ticks => ?_, 
        fun candidate ticks => ⟨fun room => ?_, fun full => ⟨fun good => ?_, fun bad => ?_⟩⟩⟩
      · rw [if_pos candidate] at pulse
        have prior {o v : Nat} (h : Line p.val o s (fun y => Searching 9 y ∧ y.slow = []) v (sentFail p.val .nibble ns u)) :
            syncValid (tportOf p.val (sentFail p.val .nibble ns u)) c len = true :=
          (syncValid_prev (x := { x with prev := none }) h.port.1.2.1).trans valid
        have failed := sentFail_line (k := .nibble) (ns := ns) (at_ (o := 0x384) (by decide) (by decide) t0)
          ⟨input, by decide, by decide⟩ rfl (.inl (by decide)) (by decide)
        have elsewhere := sentFail_ends (k := .nibble) (ns := ns) (counter := some 0x384)
          ((at_ (o := 0x390) (by decide) (by decide) t0).other (.inr (by decide))) rfl (by decide)
          ⟨input, by decide, by decide⟩ (.inr (by decide))
        refine synced_of (by rw [pulse]; exact trySync_tick elsewhere (prior elsewhere)) ?_
        exact (sentSync_synced own takes (by rw [pulse]; exact trySync_counts failed (prior failed) (.inl (by decide)))).word
      · refine nibble (k := .nibble) (ns := ns) rfl (by decide) (by decide) (by decide) (pulse.trans ?_)
        rw [if_neg (ne_true_of_eq_false candidate), if_pos (by rw [ticks]; rfl)]
      · refine passes (f := fun x => { x with stage := .frame (ns ++ [nibbleOf x.tick len]) }) (pulse.trans ?_) rfl
        rw [if_neg (ne_true_of_eq_false candidate), if_neg (by rw [ticks]; exact Bool.false_ne_true), if_pos room]
      · rw [if_neg (ne_true_of_eq_false candidate), if_neg (by rw [ticks]; exact Bool.false_ne_true), if_neg (by omega)] at pulse
        have counted := sentFrame_framed (low := low) own takes (by
          rw [pulse]
          exact judgeFrame_counts (at_ (by decide) (by decide) t0) input (by rw [there]; exact good))
        have shown := sentFrame_framed (low := low) own takes (by
          rw [pulse]
          exact judgeFrame_status (at_ (by decide) (by decide) t0) input (by rw [there]; exact good))
        exact ⟨_, rfl, congrArg ModeSt.cur counted.mode, counted.port, counted.word, shown.word⟩
      · rw [if_neg (ne_true_of_eq_false candidate), if_neg (by rw [ticks]; exact Bool.false_ne_true), if_neg (by omega)] at pulse
        refine fails_of ?_
        rw [pulse]
        exact judgeFrame_fails (at_ (by decide) (by decide) t0) input (by rw [there]; exact bad)
  · have silent := lineSilent_line (at_ (o := 0x38E) (by decide) (by decide) t0) input
    have row : effSentLineTimeout p t0 s = lineSilent p.val (advance t0 s) := by
      refine if_pos ?_
      rw [lineLimit_advance, tWorks_advance, tportOf_advance, advance_run, own, works, heard]
      simpa using limited
    obtain ⟨⟨⟨⟨stage, prev, sticky⟩, quiet⟩, -⟩, -, mode, -, word⟩ := silent
    exact ⟨_, next_congr row, congrArg ModeSt.cur mode, quiet, stage, prev, sticky, word⟩

end Sys2Proof.Proofs.Sent

/-! PROOFS. The bus of a two-wire port (R337 to R343): what another controller, a lost arbitration, a hang and a recovery do. -/

namespace Sys2Proof.Proofs.TwoWire

set_option Elab.async false

open Sys2Proof.Machine Sys2Proof.Safety Sys2Proof.Laws Sys2Proof.Proofs.Shared Sys2Proof.Proofs.Grants Sys2Proof.Proofs.Wire
  Sys2Proof.Proofs.Lanes Sys2Proof.Proofs.LaneData Sys2Proof.Proofs.RunStatus Sys2Proof.Proofs.Attempts Sys2Proof.Proofs.PortEnds
  Sys2Proof.Proofs.Frame Sys2Proof.Proofs.Beside

variable {s t u x : State} {p o v : Nat} {X Y : IPortSt → Prop} {t0 : HubTime}

/-! ## A port and one of its counters -/

/-- In `t`, which has the mode of `u`, I port `p` is as `X` says, and its status word at `o` is `v`. -/
structure Tells (p o : Nat) (u : State) (X : IPortSt → Prop) (v : Nat) (t : State) : Prop where
  port : X (iportOf p t)
  inside : p < t.iports.length
  mode : t.mode = u.mode
  wf : Memory.wf zeroDflt t.cfg.status = true
  word : statWord (portBlock (6 + p) + o) t = v

/-- A counter of an I port. -/
structure Counter (p o : Nat) : Prop where
  port : p < 4
  least : 0x380 ≤ o
  most : o < 0x3FF

theorem Counter.still (h : Counter p o) : Still (portBlock (6 + p) + o) ∧ Still (portBlock (6 + p) + o + 1) := by
  obtain ⟨port, least, most⟩ := h
  simp only [Still, portBlock]
  omega

theorem Tells.weaken (h : Tells p o u X v s) (k : ∀ y, X y → Y y) : Tells p o u Y v s :=
  ⟨k _ h.port, h.inside, h.mode, h.wf, h.word⟩

theorem Tells.beside (h : Tells p o u X v s) (counter : Counter p o) (k : Aside s t) (kept : ∀ y z, X y → PortKept y z → Y z) :
    Tells p o u Y v t := by
  obtain ⟨port, inside, mode, wf, word⟩ := h
  obtain ⟨low, high⟩ := counter.still
  exact ⟨kept _ _ port (k.ports p), by rw [k.count]; exact inside, k.mode.trans mode, k.wf wf, (k.word wf low high).trans word⟩

theorem Tells.same (h : Tells p o u X v s) (iports : t.iports = s.iports) (mode : t.mode = s.mode) (status : t.cfg.status = s.cfg.status) :
    Tells p o u X v t := by
  obtain ⟨port, inside, mode', wf, word⟩ := h
  refine ⟨?_, by rw [iports]; exact inside, mode.trans mode', by rw [status]; exact wf, ?_⟩
  · rw [iportOf, iports]
    exact port
  · rw [statWord, status]
    exact word

theorem Tells.records (h : Tells p o u X v s) (k : OnlyRecords s t) : Tells p o u X v t :=
  h.same k.iports k.mode (congrArg CfgSt.status k.cfg)

theorem Tells.mod {f : IPortSt → IPortSt} (h : Tells p o u X v s) (k : ∀ y, X y → Y (f y)) : Tells p o u Y v (modIPort p f s) := by
  obtain ⟨port, inside, mode, wf, word⟩ := h
  refine ⟨?_, ?_, mode, wf, word⟩
  · rw [iportOf_modIPort inside]
    exact k _ port
  · rw [modIPort, modifyNth_length]
    exact inside

theorem Tells.count (h : Tells p o u X v s) : Tells p o u X ((v + 1) % 65536) (countWord (portBlock (6 + p) + o) s) := by
  obtain ⟨port, inside, mode, wf, word⟩ := h
  refine ⟨port, inside, mode, wf_writeBytes wf, (statWord_setStatWord wf).trans ?_⟩
  rw [word]

theorem Tells.other {o' w : Nat} (h : Tells p o u X v s) (apart : o + 2 ≤ o' ∨ o' + 2 ≤ o) :
    Tells p o u X v (setStatWord (portBlock (6 + p) + o') w s) := by
  obtain ⟨port, inside, mode, wf, word⟩ := h
  exact ⟨port, inside, mode, wf_writeBytes wf, (statWord_setStatWord_ne wf (by omega)).trans word⟩

theorem iportOf_advance : iportOf p (advance t0 s) = iportOf p s := by
  rw [iportOf, advance_iports, ← iportOf]

theorem tells_of_inv (inv : Inv s) (port : p < 4) : Tells p o s (· = iportOf p s) (statWord (portBlock (6 + p) + o) s) (advance t0 s) := by
  obtain ⟨-, -, iports, -⟩ := counts_of_inv inv
  refine ⟨iportOf_advance, ?_, advance_mode, ?_, ?_⟩
  · rw [advance_iports, iports]
    exact port
  · rw [advance_cfg]
    exact status_of_inv inv
  · rw [statWord, advance_cfg, ← statWord]

/-! ## The bus comes free -/

theorem resumeBus_none (idle : ∀ i < 16, (laneOf i s).wait ≠ .bus (6 + p)) : resumeBus p s = startPt p s := by
  have skipped : ∀ l : List Nat, (∀ i ∈ l, i < 16) → l.foldl (fun s i =>
      if (laneOf i s).wait == .bus (6 + p) then
        match stepOf i s with
        | some st => startWire i (match st.wire with | some c => c.2 | none => false) st s.time.now s
        | none => s
      else s) s = s := by
    intro l small
    induction l with
    | nil => rfl
    | cons i l ih =>
      rw [List.foldl_cons, if_neg (by simpa using idle i (small i List.mem_cons_self))]
      exact ih fun j member => small j (List.mem_cons_of_mem i member)
  exact congrArg (startPt p) (skipped _ fun i member => List.mem_range.mp member)

theorem iportOf_dropHold (inside : p < s.iports.length) : iportOf p (dropHold p s) = { iportOf p s with hold := false } := by
  unfold dropHold
  split
  · exact iportOf_modIPort inside
  · next free =>
    have none : (iportOf p s).hold = false := by simpa using free
    exact congrArg (fun h => { iportOf p s with hold := h }) none

/-- The pass-through transaction that waits goes onto the free bus. -/
theorem iportOf_startPt (inside : p < s.iports.length) (wants : ptWants p s = true) (free : busHeld p s = false)
    (idle : laneTx (6 + p) s = false) (turn : laneWaits p s = false) :
    iportOf p (startPt p s) = { iportOf p s with out := ptWire p s, last := .host, hold := false, ptTx := true } := by
  have sent : p < (sendI p .host (ptWire p s) s).iports.length := by
    rw [sendI, grants_iports, modIPort_iports, modifyNth_length]
    exact inside
  have dropped : p < (dropHold p (sendI p .host (ptWire p s) s)).iports.length := by
    unfold dropHold
    split
    · rw [setStatWord_iports, modIPort_iports, modifyNth_length]
      exact sent
    · exact sent
  have out : iportOf p (sendI p .host (ptWire p s) s) = { iportOf p s with out := ptWire p s, last := .host } := by
    rw [sendI, iportOf, grants_iports, ← iportOf, iportOf_modIPort inside]
  unfold startPt
  rw [if_pos (by simp [wants, free, idle, turn]), iportOf_modIPort dropped, iportOf_dropHold sent, out]

theorem startPt_waits (h : ptWants p s = false) : startPt p s = s := by
  unfold startPt
  rw [if_neg (by simp [h])]

/-- The bus of port `p` is free, and not stuck. -/
def freed (p : Nat) (s : State) : State := modIPort p (fun x => { x with ext := false, idle := false, stk := false }) s

theorem busFree_row {p : Fin 4} (own : s.replay.run = false) (still : (iportOf p.val s).recov = false) (works : iWorks p.val s = true) :
    effBusFree p s = resumeBus p.val (freed p.val s) := by
  unfold effBusFree
  exact if_neg (by simp [own, still, works])

theorem iportOf_freed (inside : p < s.iports.length) :
    iportOf p (freed p s) = { iportOf p s with ext := false, idle := false, stk := false } := iportOf_modIPort inside

theorem ptWants_freed (inside : p < s.iports.length) : ptWants p (freed p s) = ptWants p s := by
  simp only [ptWants, iportOf_freed inside]
  rfl

theorem ptWire_freed : ptWire p (freed p s) = ptWire p s := rfl

/-! ## A lost arbitration -/

theorem isSPort_twoWire : isSPort (6 + p) = false := by
  simp only [isSPort, Bool.and_eq_false_imp, decide_eq_true_eq, decide_eq_false_iff_not]
  omega

theorem countArbLost_tells (h : Tells p 0x384 u X v s) :
    Tells p 0x384 u (fun y => y.ext = true) ((v + 1) % 65536) (countArbLost p s) := by
  unfold countArbLost
  exact Tells.count ((h.mod (Y := fun y => y.ext = true) fun _ _ => rfl).mod fun _ => id)

/-- What follows a lost arbitration on the port leaves its bus as it is. -/
theorem wireEnd_lost {i : Nat} {st : Step} {ht : HubTime} (works : portDropped (6 + p) s = false) :
    Aside (countArbLost p s) (wireEnd i (6 + p) st .arbitrationLost [] ht s) := by
  unfold wireEnd
  extract_lets l d out rx sel r s1 s2 s3
  have lost : out = .arbitrationLost := by
    simp only [out, works]
    rfl
  have counted : r.2 = countArbLost p s := by
    have port : 6 + p - 6 = p := by omega
    simp only [r, isSPort_twoWire, lost, port]
    rfl
  have taken : Aside (countArbLost p s) s2 := by
    rw [← counted]
    exact modLane_aside (recPort_aside Aside.refl)
  have ill : ¬ endedWell out = true := by
    rw [lost]
    exact Bool.false_ne_true
  have ended : Aside (countArbLost p s) s3 := Aside.ite (freeLaneAt_aside (releasePorts_aside taken))
    (Aside.ite (failAttempt_aside taken) (by rw [if_neg ill]; exact failAttempt_aside taken))
  exact pumpPort_aside ended

/-- A run that may be tried again waits for its retry. -/
theorem wireEnd_gap {i : Nat} {st : Step} {ht : HubTime} (works : portDropped (6 + p) s = false) (inside : i < s.poll.lanes.length)
    (here : (laneOf i s).cancelled = false) (inTime : (laneOf i s).expired = false) (own : (laneOf i s).probe = false)
    (again : mayRetry i s = true) :
    let run := laneOf i (wireEnd i (6 + p) st .arbitrationLost [] ht s)
    run.wait = .gap ∧ run.lastFail = 5 := by
  obtain ⟨passed, x, row, at_, may, -⟩ := wireEnd_parts (st := st) (out := .arbitrationLost) (rx := []) (t0 := ht) here inTime works inside
  have lane := at_.lane
  have retry : mayRetry i x = true := by
    rw [mayRetry_eq, may, lane, ← again, mayRetry_eq]
    rfl
  have gapped := (failAttempt_retries (code := 5) (by rw [at_.count]; exact inside) (by rw [lane]; exact here)
    (by rw [lane]; exact own) (by rw [lane]; exact inTime) retry).1
  have ended : laneOf i (pumpPort (6 + p) (failAttempt i 5 x)) = _ :=
    (gapped.same (congrArg PollSt.lanes (pumpPort_wires Wires.refl).poll)).lane
  rw [row]
  have there : (if endedWell .arbitrationLost = true then
      (if passed = true then stepDone i st (received (6 + p) st [] s) ht x else failAttempt i 6 x)
      else failAttempt i (failCode .arbitrationLost) x) = failAttempt i 5 x := if_neg Bool.false_ne_true
  rw [there, ended]
  exact ⟨rfl, rfl⟩

theorem arbitrationLost_row {p : Fin 4} {i : Nat} {st : Step} (own : s.replay.run = false) (on : laneOn (6 + p.val) s = some i)
    (step : stepOf i s = some st) :
    effI2cArbitrationLost p t0 s = wireEnd i (6 + p.val) st .arbitrationLost [] (advance t0 s).time.now (advance t0 s) := by
  have on' : laneOn (6 + p.val) (advance t0 s) = some i := by
    rw [← on]
    simp only [laneOn, laneOf_advance]
  have waits : (laneOf i s).wait = .step (6 + p.val) := by simpa using List.find?_some on
  unfold effI2cArbitrationLost
  dsimp only
  rw [on']
  dsimp only
  rw [if_neg (by rw [advance_run, own]; exact Bool.false_ne_true)]
  unfold laneEnds
  rw [laneOf_advance, stepOf_advance, waits, step]

theorem laneOn_small {q i : Nat} (on : laneOn q s = some i) : i < 16 := List.mem_range.mp (List.mem_of_find?_eq_some on)

/-! ## A hang -/

/-- A pass-through transaction that does not run keeps its PT_STAT. -/
theorem Tells.ptBeside (h : Tells p 0x24 u X v s) (port : p < 4) (k : Aside s t) (idle : ∀ y, X y → y.ptRun = false)
    (kept : ∀ y z, X y → PortKept y z → z.hold = y.hold → Y z) : Tells p 0x24 u Y v t := by
  obtain ⟨there, inside, mode, wf, word⟩ := h
  obtain ⟨hold, bytes⟩ := k.pt p port (idle _ there)
  refine ⟨kept _ _ there (k.ports p) hold, by rw [k.count]; exact inside, k.mode.trans mode, k.wf wf, ?_⟩
  rw [← word, statWord_bytes, statWord_bytes, bytes wf _ (.inl rfl), bytes wf _ (.inr rfl)]

theorem Tells.set {w : Nat} (h : Tells p o u X v s) (small : w < 65536) : Tells p o u X w (setStatWord (portBlock (6 + p) + o) w s) := by
  obtain ⟨port, inside, mode, wf, -⟩ := h
  refine ⟨port, inside, mode, wf_writeBytes wf, (statWord_setStatWord wf).trans (Nat.mod_eq_of_lt small)⟩

theorem Tells.stick {n : Nat} (h : Tells p o u X v s) (k : ∀ y, X y → Y { y with sticky := setBit y.sticky n }) :
    Tells p o u Y v (stickI p n s) := h.mod k

theorem Tells.granted {q b} (h : Tells p o u X v s) : Tells p o u X v (grant q b s) := h.records (grant_apart OnlyRecords.refl)

theorem Tells.triggered {n} (h : Tells p o u X v s) : Tells p o u X v (tapTrigger n s) := h.records (tapTrigger_apart OnlyRecords.refl)

theorem Tells.dropHold (h : Tells p o u X v s) (apart : o + 2 ≤ 0x24 ∨ 0x26 ≤ o) (k : ∀ y, X y → Y { y with hold := false }) :
    Tells p o u Y v (dropHold p s) := by
  have port := iportOf_dropHold h.inside
  unfold Machine.dropHold at port ⊢
  split
  · exact (h.mod k).other apart
  · next free =>
    rw [if_neg free] at port
    obtain ⟨there, inside, mode, wf, word⟩ := h
    exact ⟨by rw [port]; exact k _ there, inside, mode, wf, word⟩

theorem dropHold_free (free : (iportOf p s).hold = false) : dropHold p s = s := by
  unfold dropHold
  rw [if_neg (by rw [free]; exact Bool.false_ne_true)]

/-- A pass-through transaction ends with its transfer cut off. -/
def CutOff (y : IPortSt) : Prop := y.ptRun = false ∧ y.hold = false

/-- The read bytes of a pass-through transaction are the window's. -/
theorem Tells.user {m : Mem} {c : Prop} [Decidable c] (h : Tells p o u X v s) :
    Tells p o u X v (if c then { s with cfg := { s.cfg with user := m } } else s) := by
  split
  · exact h.same rfl rfl rfl
  · exact h

theorem ptCut_tells {res} (h : Tells p o u X v s) (apart : 0x26 ≤ o) : Tells p o u CutOff v (ptCut p res s) := by
  unfold ptCut
  extract_lets a ctl w done code rx _ s1
  have ended : Tells p o u CutOff v (modIPort p (fun x => { x with ptRun := false, ptTx := false, hold := false }) s1) :=
    h.user.mod fun _ _ => ⟨rfl, rfl⟩
  exact Tells.same (Tells.stick (ended.other (.inr apart)) fun _ cut => cut) rfl rfl rfl

theorem ptCode_small {res : PtResult} : ptCode res < 8 := by
  cases res <;> decide

theorem field_small {w lo n : Nat} : field w lo n < 2 ^ n := Nat.mod_lt _ (Nat.two_pow_pos n)

theorem ptCut_status {res} (h : Tells p 0x24 u X v s) : ∃ w, w % 8 = ptCode res ∧ Tells p 0x24 u CutOff w (ptCut p (some res) s) := by
  unfold ptCut
  extract_lets a ctl w done code rx _ s1
  have ended : Tells p 0x24 u CutOff v (modIPort p (fun x => { x with ptRun := false, ptTx := false, hold := false }) s1) :=
    h.user.mod fun _ _ => ⟨rfl, rfl⟩
  have few : done < 64 := Nat.lt_of_le_of_lt (Nat.min_le_right _ _) field_small
  have small : ptCode res < 8 := ptCode_small
  refine ⟨ptCode res + 8 * bit false + 256 * done, ?_, Tells.same (Tells.stick (Tells.set ended ?_) fun _ cut => cut) rfl rfl rfl⟩
  · have : bit false = 0 := rfl
    omega
  · have : bit false = 0 := rfl
    omega

theorem failOnWire_aside {code outcome : Nat} : Aside s (failOnWire (6 + p) outcome code s) := by
  unfold failOnWire recTorn
  split
  · exact Aside.refl
  · refine failAttempt_aside (modLane_aside ?_)
    rw [if_neg (by rw [isSPort_twoWire]; exact Bool.false_ne_true)]
    exact Aside.upd (recPort_aside Aside.refl)

/-- What a hang leaves of its port. -/
def Hung (cut : Prop) (y : IPortSt) : Prop := y.recov = true ∧ y.sticky.getLsbD 9 = true ∧ (cut → y.ptRun = false)

/-- The hub as its recovery starts. -/
theorem hangStarts_tells {c : Prop} {x : State} (h : Tells p o u X v x) (cut : ∀ y, X y → c → y.ptRun = false) :
    Tells p o u (Hung c) v (stickI p 9 (startRecovery p (tapTrigger 4 x))) := by
  unfold startRecovery
  refine Tells.stick (X := fun y => y.recov = true ∧ (c → y.ptRun = false)) (Tells.granted (h.triggered.mod fun y there => ⟨rfl, cut y there⟩))
    fun y there => ⟨there.1, setBit_self (by decide), there.2⟩

theorem declareHang_counts {res} (h : Tells p 0x386 u X v s) (port : p < 4) :
    Tells p 0x386 u (fun y => Hung (ptOnWire p s = true) y ∧ y.hold = false) ((v + 1) % 65536) (declareHang p res s) := by
  unfold declareHang
  extract_lets s0 s1
  have cut : Tells p 0x386 u (fun y => ptOnWire p s = true → y.ptRun = false) v (if ptOnWire p s then ptCut p (some res) s else s) := by
    split
    · exact (ptCut_tells h (by decide)).weaken fun _ cut _ => cut.1
    · next off => exact h.weaken fun _ _ on => absurd on off
  have started : Tells p 0x386 u (Hung (ptOnWire p s = true)) ((v + 1) % 65536) s1 := (hangStarts_tells cut fun _ there => there).count
  clear_value s1
  have held : Tells p 0x386 u (fun y => Hung (ptOnWire p s = true) y ∧ y.hold = false) ((v + 1) % 65536) (dropHold p s1) :=
    started.dropHold (.inr (by decide)) fun y there => ⟨there, rfl⟩
  exact held.beside ⟨port, by decide, by decide⟩ failOnWire_aside
    fun y z ⟨⟨recov, sticky, runs⟩, hold⟩ kept =>
      ⟨⟨kept.recov.trans recov, by rw [kept.sticky]; exact sticky, fun on => kept.ptRun.trans (runs on)⟩, kept.hold hold⟩

theorem declareHang_status {res} (h : Tells p 0x24 u X v s) (port : p < 4) (on : ptOnWire p s = true) :
    ∃ w, w % 8 = ptCode res ∧ Tells p 0x24 u CutOff w (declareHang p res s) := by
  unfold declareHang
  extract_lets s0 s1
  obtain ⟨w, code, cut⟩ := ptCut_status (res := res) h
  have started : Tells p 0x24 u CutOff w s1 := by
    simp only [s1, s0, if_pos on]
    unfold startRecovery
    exact Tells.other (Tells.stick (Tells.granted (cut.triggered.mod fun _ there => there)) fun _ there => there) (.inl (by decide))
  clear_value s1
  refine ⟨w, code, ?_⟩
  rw [dropHold_free started.port.2]
  exact started.ptBeside port failOnWire_aside (fun _ there => there.1) fun y z there kept hold =>
    ⟨kept.ptRun.trans there.1, hold.trans there.2⟩

/-! ## A recovery -/

theorem Tells.counted {c : Bool} (h : Tells p o u X v s) :
    Tells p o u X (if c then (v + 1) % 65536 else v) (if c then countWord (portBlock (6 + p) + o) s else s) := by
  cases c
  · exact h
  · exact h.count

theorem Tells.beyond {o' : Nat} {c : Bool} (h : Tells p o u X v s) (apart : o + 2 ≤ o' ∨ o' + 2 ≤ o) :
    Tells p o u X v (if c then countWord (portBlock (6 + p) + o') s else s) := by
  cases c
  · exact h
  · exact h.other apart

/-- The recovery over, with its pulse and its bus clear counted. -/
def recovered (p : Nat) (low : Bool) (s : State) : State :=
  let s1 := if (iportOf p s).brst.isSome then countWord (portBlock (6 + p) + 0x388) s else s
  modIPort p (fun x => { x with recov := false, brst := none }) (if low then countWord (portBlock (6 + p) + 0x38A) s1 else s1)

theorem recoveryDone_row {p : Fin 4} {low high : Bool} (own : s.replay.run = false) (runs : (iportOf p.val s).recov = true) :
    effI2cRecoveryDone p low high t0 s =
      let s3 := recovered p.val low (advance t0 s)
      if high then
        if (iportOf p.val s3).stk then s3 else resumeBus p.val (modIPort p.val (fun x => { x with ext := false, idle := false }) s3)
      else failRecovery p.val s3 := by
  refine if_pos ?_
  rw [iportOf_advance, advance_run, own, runs]
  rfl

/-- The port after its recovery. -/
def Idle (stk : Bool) (y : IPortSt) : Prop := y.recov = false ∧ y.brst = none ∧ y.stk = stk

theorem idle_kept {stk : Bool} {y z : IPortSt} (h : Idle stk y) (k : PortKept y z) : Idle stk z :=
  ⟨k.recov.trans h.1, k.brst.trans h.2.1, k.stk.trans h.2.2⟩

section Recovered

variable {low : Bool} {x : IPortSt}

theorem recovered_pulse (h : Tells p 0x388 u (· = x) v s) :
    Tells p 0x388 u (Idle x.stk) (if x.brst.isSome then (v + 1) % 65536 else v) (recovered p low s) := by
  unfold recovered
  rw [h.port]
  exact (h.counted.beyond (.inl (by decide))).mod fun y same => by rw [same]; exact ⟨rfl, rfl, rfl⟩

theorem recovered_clear (h : Tells p 0x38A u (· = x) v s) :
    Tells p 0x38A u (Idle x.stk) (if low then (v + 1) % 65536 else v) (recovered p low s) := by
  unfold recovered
  exact ((h.beyond (.inr (by decide))).counted).mod fun y same => by rw [same]; exact ⟨rfl, rfl, rfl⟩

theorem recovered_failed (h : Tells p 0x38C u (· = x) v s) : Tells p 0x38C u (Idle x.stk) v (recovered p low s) := by
  unfold recovered
  exact ((h.beyond (.inr (by decide))).beyond (.inr (by decide))).mod fun y same => by rw [same]; exact ⟨rfl, rfl, rfl⟩

end Recovered

theorem failWaiting_tells (h : Tells p o u (Idle true) v s) (counter : Counter p o) :
    Tells p o u (fun y => Idle true y ∧ y.ptRun = false) v (failWaiting p s) ∧ (failWaiting p s).fault = s.fault := by
  unfold failWaiting
  extract_lets s1
  have failed : Aside s s1 := Aside.foldl (fun _ _ k => Aside.ite (failAttempt_aside k) k) Aside.refl
  have told : Tells p o u (Idle true) v s1 := h.beside counter failed fun _ _ => idle_kept
  clear_value s1
  split
  · have least := counter.least
    have ended : Tells p o u (fun y => Idle true y ∧ y.ptRun = false) v
        (modIPort p (fun x => { x with ptRun := false, ptTx := false }) s1) := told.mod fun _ idle => ⟨idle, rfl⟩
    exact ⟨Tells.stick (ended.other (.inr (by omega))) fun _ there => there, failed.fault⟩
  · next off =>
    obtain ⟨port, inside, mode, wf, word⟩ := told
    exact ⟨⟨⟨port, by simpa using off⟩, inside, mode, wf, word⟩, failed.fault⟩

/-- The port as a failed recovery marks it, before its failure is counted. -/
def markedStuck (p : Nat) (s : State) : State := stickI p 10 (modIPort p (fun x => { x with stk := true }) s)

theorem markedStuck_tells {b : Bool} (h : Tells p o u (Idle b) v s) : Tells p o u (Idle true) v (markedStuck p s) :=
  Tells.stick (X := Idle true) (h.mod fun _ idle => ⟨idle.1, idle.2.1, rfl⟩) fun _ idle => idle

theorem failRecovery_tells (h : Tells p o u (Idle true) v (countWord (portBlock (6 + p) + 0x38C) (markedStuck p s)))
    (counter : Counter p o) :
    Tells p o u (fun y => Idle true y ∧ y.ptRun = false) v (failRecovery p s) ∧ (failRecovery p s).fault.code = 0x48 := by
  have logged := h.records (logFault_apart (code := 0x48) (cls := 1) (island := 0xFFFF) (detail := 6 + p) OnlyRecords.refl)
  obtain ⟨told, fault⟩ := failWaiting_tells logged counter
  have row : failRecovery p s =
      failWaiting p (logFault 0x48 1 0xFFFF (6 + p) (countWord (portBlock (6 + p) + 0x38C) (markedStuck p s))) := rfl
  rw [row]
  refine ⟨told, ?_⟩
  rw [fault, logFault_code]
  rfl

/-- The state of a port whose recovery has succeeded. -/
def Cleared (stk : Bool) (y : IPortSt) : Prop := Idle stk y ∧ (stk = false → y.ext = false ∧ y.idle = false)

theorem recoverySucceeds_tells {b : Bool} (h : Tells p o u (Idle b) v s) (counter : Counter p o) :
    Tells p o u (Cleared b) v
      (if (iportOf p s).stk then s else resumeBus p (modIPort p (fun x => { x with ext := false, idle := false }) s)) := by
  split
  · next stuck =>
    have stk : b = true := h.port.2.2.symm.trans stuck
    exact h.weaken fun y idle => ⟨idle, fun free => absurd (stk.symm.trans free) Bool.noConfusion⟩
  · have free : Tells p o u (Cleared b) v (modIPort p (fun x => { x with ext := false, idle := false }) s) :=
      h.mod fun _ idle => ⟨idle, fun _ => ⟨rfl, rfl⟩⟩
    exact free.beside counter (resumeBus_aside Aside.refl) fun y z ⟨idle, bus⟩ kept =>
      ⟨idle_kept idle kept, fun stk => ⟨kept.ext.trans (bus stk).1, kept.idle.trans (bus stk).2⟩⟩

theorem linesSeen_advance : linesSeen p (advance t0 s) = linesSeen p s := by
  simp [linesSeen, linesAttached, pinCarries, pinOf, bankOut]

theorem iWorks_advance : iWorks p (advance t0 s) = iWorks p s := by
  simp [iWorks, Sent.actMode_advance, runWord, running, portDropped, asleep, iTimingOk, iTime, bankOut, kernelOnly]

theorem ptOnWire_advance : ptOnWire p (advance t0 s) = ptOnWire p s := by
  simp [ptOnWire, iportOf_advance]

theorem busBusy_advance : busBusy p (advance t0 s) = busBusy p s := by
  simp [busBusy, hubDrives, laneTx, ptOnWire_advance, iportOf_advance]

theorem runWord_advance {a : Nat} : runWord a (advance t0 s) = runWord a s := by
  simp [runWord, running]

theorem hang_row {p : Fin 4} {busy : Bool} (own : s.replay.run = false) (works : iWorks p.val s = true) (free : (iportOf p.val s).recov = false)
    (seen : if busy then runWord (portBlock (6 + p.val) + 0x16) s ≠ 0 ∧ busBusy p.val s = true else linesSeen p.val s = true) :
    effI2cHang p busy t0 s = declareHang p.val (if busy then .busyTimeout else .hang) (advance t0 s) := by
  refine if_pos ?_
  rw [advance_run, iWorks_advance, iportOf_advance, runWord_advance, busBusy_advance, linesSeen_advance, own, works, free]
  cases busy with
  | true =>
    obtain ⟨bound, held⟩ := (if_pos rfl).mp seen
    simpa [held] using bound
  | false => exact seen

/-- Settles O56. -/
theorem twoWireBus : Obligations.TwoWireBus := by
  intro p s inv own x a becomes counts
  have port := p.isLt
  have inside : p.val < s.iports.length := by rw [(counts_of_inv inv).2.2.1]; exact port
  have at_ (o : Nat) (t0 : HubTime) : Tells p.val o s (· = x) (statWord (a + o) s) (advance t0 s) := tells_of_inv inv port
  refine ⟨fun works seen quiet still => ?_, fun still works => ⟨?_, fun idle => ⟨fun none => ?_, fun wants noTx noWait => ?_⟩⟩,
    fun t0 i on step works => ?_, fun busy t0 works still seen => ?_, fun low t0 runs => ⟨?_, ?_⟩, fun stuck still works => ?_⟩
  · exact next_congr (if_pos (by rw [own, works, seen, quiet, still]; rfl))
  · have resumed : Aside (freed p.val s) (resumeBus p.val (freed p.val s)) := resumeBus_aside Aside.refl
    have kept := resumed.ports p.val
    rw [iportOf_freed inside] at kept
    exact ⟨_, next_congr (busFree_row own still works), congrArg ModeSt.cur resumed.mode, kept.ext, kept.idle, kept.stk⟩
  · rw [show exec (.busFree p) s = .next (resumeBus p.val (freed p.val s)) from next_congr (busFree_row own still works),
      resumeBus_none (s := freed p.val s) idle, startPt_waits ((ptWants_freed inside).trans none)]
    rfl
  · have row := (busFree_row own still works).trans (resumeBus_none (s := freed p.val s) idle)
    have inside' : p.val < (freed p.val s).iports.length := by
      rw [freed, modIPort_iports, modifyNth_length]
      exact inside
    have free : busHeld p.val (freed p.val s) = false := by
      rw [busHeld, iportOf_freed inside]
      simp only [Bool.or_false, Bool.and_eq_false_imp]
      exact fun _ => still
    have started := iportOf_startPt inside' ((ptWants_freed inside).trans wants) free noTx noWait
    have kept : Keeps (· = .mode) s (effBusFree p s) := effBusFree_keeps Keeps.refl
    refine ⟨effBusFree p s, rfl, kept.part .mode rfl, ?_⟩
    dsimp only [ptOnWire]
    rw [row, started, iportOf_freed inside]
    exact ⟨by simp [ptRun_of_ptWants wants], rfl, ptWire_freed⟩
  · obtain ⟨st, step⟩ := Option.isSome_iff_exists.mp step
    have works' : portDropped (6 + p.val) (advance t0 s) = false := by
      rw [portDropped, advance_power]
      exact works
    have lost := (countArbLost_tells (at_ 0x384 t0)).beside (Y := fun y => y.ext = true) ⟨port, by decide, by decide⟩
      (wireEnd_lost (i := i) (st := st) (ht := (advance t0 s).time.now) works') fun y z ext kept => kept.ext.trans ext
    refine ⟨_, next_congr (arbitrationLost_row own on step), congrArg ModeSt.cur lost.mode, lost.port, lost.word, fun here inTime probe again => ?_⟩
    have small : i < (advance t0 s).poll.lanes.length := by
      rw [advance_poll, (counts_of_inv inv).1]
      exact laneOn_small on
    exact wireEnd_gap works' small (by rw [laneOf_advance]; exact here) (by rw [laneOf_advance]; exact inTime)
      (by rw [laneOf_advance]; exact probe) again
  · have hung := declareHang_counts (res := if busy then .busyTimeout else .hang) (at_ 0x386 t0) port
    obtain ⟨⟨⟨recov, sticky, runs⟩, hold⟩, -, mode, -, word⟩ := hung
    refine ⟨_, next_congr (hang_row own works still seen), congrArg ModeSt.cur mode, recov, hold, sticky, word, fun on => ?_⟩
    have on' : ptOnWire p.val (advance t0 s) = true := ptOnWire_advance.trans on
    obtain ⟨w, code, shown⟩ := declareHang_status (res := if busy then .busyTimeout else .hang) (at_ 0x24 t0) port on'
    refine ⟨runs on', ?_⟩
    rw [shown.word, code]
    cases busy <;> rfl
  · have counted := failRecovery_tells (markedStuck_tells (recovered_failed (low := low) (at_ 0x38C t0))).count ⟨port, by decide, by decide⟩
    have pulsed := failRecovery_tells ((markedStuck_tells (recovered_pulse (low := low) (at_ 0x388 t0))).other (.inl (by decide)))
      ⟨port, by decide, by decide⟩
    obtain ⟨⟨⟨⟨recov, brst, stk⟩, quiet⟩, -, mode, -, word⟩, code⟩ := counted
    refine ⟨_, next_congr ((recoveryDone_row own runs).trans (if_neg Bool.false_ne_true)), congrArg ModeSt.cur mode, recov, brst, stk, quiet, word, fun pulse => ?_, code⟩
    exact pulsed.1.word.trans (if_pos pulse)
  · have pulsed := recoverySucceeds_tells (recovered_pulse (low := low) (at_ 0x388 t0)) ⟨port, by decide, by decide⟩
    have cleared := recoverySucceeds_tells (recovered_clear (low := low) (at_ 0x38A t0)) ⟨port, by decide, by decide⟩
    obtain ⟨⟨⟨recov, brst, stk⟩, free⟩, -, mode, -, word⟩ := pulsed
    exact ⟨_, next_congr ((recoveryDone_row own runs).trans (if_pos rfl)), congrArg ModeSt.cur mode, recov, brst, stk,
      fun pulse => word.trans (if_pos pulse), fun low => cleared.word.trans (if_pos low), free⟩
  · obtain ⟨w, eq⟩ := grant_alike (p := iPoint p.val + 3) (b := false) (s := modIPort p.val (fun x => { x with
      recov := true
      brst := if nbit (runWord a s) 1 && pinCarries (38 + 3 * p.val) 0 s then some s.time.now else none }) s)
    exact ⟨w, next_congr ((if_pos (by rw [own, stuck, still, works]; rfl)).trans eq)⟩

end Sys2Proof.Proofs.TwoWire

/-! PROOFS. Calls to a two-wire port and its pass-through transactions (R340, R342, R345, R346, R348). -/

namespace Sys2Proof.Proofs.TwoWireCall

set_option Elab.async false

open Sys2Proof.Machine Sys2Proof.Safety Sys2Proof.Laws Sys2Proof.Proofs.Shared Sys2Proof.Proofs.Grants Sys2Proof.Proofs.Wire
  Sys2Proof.Proofs.Lanes Sys2Proof.Proofs.RunStatus Sys2Proof.Proofs.Frame Sys2Proof.Proofs.Beside Sys2Proof.Proofs.TwoWire
  Sys2Proof.Proofs.Events Sys2Proof.Proofs.Spare Sys2Proof.Proofs.Pins
  Sys2Proof.Proofs.Window

variable {s t u x : State} {p o v n : Nat} {X Y : IPortSt → Prop} {t0 : HubTime} {addr : Byte} {bytes : List Byte} {words : List Word}

/-! ## Events that find room -/

/-- What the next event needs of queue 56: its own cells, and those of a LOST item where events have been lost. -/
def eventCells (s : State) : Nat := if s.pool.lost = 0 then 1 else 2

theorem makeEventRoom_roomy (room : canReserve 56 (eventCells s) s = true) : makeEventRoom n s = s := by
  cases n with
  | zero => rfl
  | succ n =>
    unfold makeEventRoom
    exact if_pos room

theorem eventRoom_roomy (room : canReserve 56 (eventCells s) s = true) : eventRoom s = s := by
  unfold eventRoom
  rw [makeEventRoom_roomy room, ite_self]

/-- With no event lost any more. -/
def noneLost (s : State) : State := { s with pool := { s.pool with lost := 0 } }

theorem postEvent_row (room : canReserve 56 (eventCells s) s = true) (works : qmgrDropped s = false) :
    ∃ b x, postEvent words s = attend 2 (putEvent b words (noneLost x)) := by
  unfold postEvent
  rw [eventRoom_roomy room]
  exact ⟨_, _, (if_neg (by rw [works]; exact Bool.false_ne_true)).trans (if_pos room)⟩

/-- An event that finds room is posted, and none is lost any more. -/
theorem postEvent_posted (room : canReserve 56 (eventCells s) s = true) (works : qmgrDropped s = false) :
    (postEvent words s).pool.lost = 0 := by
  obtain ⟨b, x, row⟩ := postEvent_row (words := words) room works
  rw [row]
  have posted : Spares 0 (noneLost x) (attend 2 (putEvent b words (noneLost x))) :=
    attend_spares (putEvent_spares (by decide) Spares.refl)
  exact posted.lost

/-! ## Calls -/

theorem takesCalls_advance : takesCalls p (advance t0 s) = takesCalls p s := by
  simp [takesCalls, iWorks_advance, runWord_advance, linesSeen_advance, hubDrives, laneTx, ptOnWire_advance, iportOf_advance]

/-- The call address of port `p`. -/
def callAddr (p : Nat) (s : State) : Nat := field (runWord (portBlock (6 + p) + 0x1C) s) 0 7

/-- A call that the target engine answers. -/
theorem i2cCall_answered {p : Fin 4} (own : s.replay.run = false) (takes : takesCalls p.val s = true)
    (mine : addr.toNat / 2 = callAddr p.val s) :
    effI2cCall p addr bytes t0 s =
      let s1 := grants [(iPoint p.val, true), (iPoint p.val + 4, false)] (advance t0 s)
      if addr.getLsbD 0 then countWord (portBlock (6 + p.val) + 0x392) s1 else callEnds p.val bytes s1 := by
  refine if_pos ?_
  rw [advance_run, takesCalls_advance, runWord_advance, own, takes]
  simpa using (show _ = field _ _ _ from mine)

theorem i2cCall_other {p : Fin 4} (other : addr.toNat / 2 ≠ callAddr p.val s) : effI2cCall p addr bytes t0 s = advance t0 s := by
  refine if_neg ?_
  rw [runWord_advance]
  simp only [Bool.and_eq_true, not_and, beq_iff_eq]
  exact fun _ => other

/-- Counting leaves records apart. -/
theorem countWord_records {a : Nat} (h : OnlyRecords u t) : OnlyRecords (countWord a u) (countWord a t) := by
  obtain ⟨_, _, _, _, _, _, _, _, rfl⟩ := records_form h
  exact ⟨rfl, rfl, rfl, rfl, rfl, rfl, rfl, rfl, rfl, rfl, rfl, rfl, rfl, rfl, rfl, rfl, rfl⟩

theorem callEnds_empty : OnlyRecords (countWord (portBlock (6 + p) + 0x392) s) (callEnds p [] s) :=
  countWord_records (eventRoom_apart (tapAppend_apart OnlyRecords.refl))

/-- A call of 16 bytes or fewer that finds room is posted. -/
theorem callEnds_posts (told : bytes ≠ []) (short : bytes.length ≤ 16)
    (room : canReserve 56 (eventCells s) (recPort (6 + p) 1 0xFF 0 0 (bytes.take 16) s.time.now s) = true) (works : qmgrDropped s = false) :
    ∃ words, callEnds p bytes s = attend 10 (countWord (portBlock (6 + p) + 0x38E)
      (postEvent words (recPort (6 + p) 1 0xFF 0 0 (bytes.take 16) s.time.now s))) := by
  have lost : (recPort (6 + p) 1 0xFF 0 0 (bytes.take 16) s.time.now s).pool.lost = s.pool.lost :=
    (recPort_spares (k := 0) (by decide) Spares.refl).lost
  have power : (recPort (6 + p) 1 0xFF 0 0 (bytes.take 16) s.time.now s).power = s.power := (recPort_aside Aside.refl).power
  unfold callEnds
  generalize recPort (6 + p) 1 0xFF 0 0 (bytes.take 16) s.time.now s = r at lost power room ⊢
  have room : canReserve 56 (eventCells r) r = true := by
    rw [eventCells, lost]
    exact room
  have works : qmgrDropped r = false := by
    rw [qmgrDropped, power]
    exact works
  have filled : bytes.isEmpty = false := by
    cases bytes with
    | nil => exact absurd rfl told
    | cons => rfl
  rw [filled, if_neg Bool.false_ne_true]
  unfold postCall
  extract_lets a kept s1 s2
  have whole : s1 = r := if_neg (by omega)
  clear_value s1
  subst whole
  exact ⟨_, if_pos (postEvent_posted room works)⟩

theorem callEnds_tells (told : bytes ≠ []) (short : bytes.length ≤ 16)
    (room : canReserve 56 (eventCells s) (recPort (6 + p) 1 0xFF 0 0 (bytes.take 16) s.time.now s) = true) (works : qmgrDropped s = false)
    (h : Tells p 0x38E u X v s) :
    Tells p 0x38E u X ((v + 1) % 65536) (callEnds p bytes s) ∧ (callEnds p bytes s).attn.src.getLsbD 10 = true := by
  obtain ⟨words, row⟩ := callEnds_posts told short room works
  rw [row]
  have recorded : Tells p 0x38E u X v (recPort (6 + p) 1 0xFF 0 0 (bytes.take 16) s.time.now s) :=
    h.records (tapAppend_apart OnlyRecords.refl)
  have posted := recorded.records (postEvent_apart (words := words) OnlyRecords.refl)
  refine ⟨posted.count.records (attend_apart OnlyRecords.refl), ?_⟩
  rw [attend_src]
  exact setBit_self (by decide)

/-! ## Pass-through -/

theorem tells_now (inv : Inv s) (port : p < 4) : Tells p o s (· = iportOf p s) (statWord (portBlock (6 + p) + o) s) s := by
  obtain ⟨-, -, iports, -⟩ := counts_of_inv inv
  exact ⟨rfl, by rw [iports]; exact port, rfl, status_of_inv inv, rfl⟩

/-- A port whose pass-through transaction is over, with its bus held where `hold` says so. -/
def PtOver (hold : Bool) (y : IPortSt) : Prop := y.ptRun = false ∧ y.hold = hold

theorem ptOver_count {hold : Bool} (res : PtResult) (h : Tells p 0x24 u (PtOver hold) v s) :
    Tells p 0x24 u (PtOver hold) v (ptCount p res s) := by
  cases res with
  | done => exact (h.other (.inl (by decide))).other (.inl (by decide))
  | addrNack => exact (h.other (.inl (by decide))).stick fun _ there => there
  | dataNack => exact (h.other (.inl (by decide))).stick fun _ there => there
  | arbLost =>
    have lost : Tells p 0x24 u (PtOver hold) v (modIPort p (fun x => { x with ext := true }) s) := h.mod fun _ there => there
    exact ((lost.stick fun _ there => there).other (.inl (by decide))).stick fun _ there => there
  | hang => exact h.stick fun _ there => there
  | busyTimeout => exact h.stick fun _ there => there

/-- What PT_STAT shows of a transaction's end. -/
def ptShown (p : Nat) (res : PtResult) (done : Nat) (s : State) : Nat :=
  ptCode res + 8 * bit (res == .done && nbit (runWord (portBlock (6 + p) + 0x20) s) 2) + 256 * ptBytes p res done s

theorem ptShown_small {res : PtResult} {done : Nat} : ptShown p res done s < 65536 := by
  have code := ptCode_small (res := res)
  have hold : ∀ b, bit b ≤ 1 := by decide
  have len : ptBytes p res done s ≤ 32 := by
    have few := field_small (w := runWord (portBlock (6 + p) + 0x20) s) (lo := 8) (n := 5)
    unfold ptBytes
    dsimp only
    split <;> omega
  have := hold (res == .done && nbit (runWord (portBlock (6 + p) + 0x20) s) 2)
  unfold ptShown
  omega

theorem ptEnd_tells {res : PtResult} {done : Nat} {rx : List Byte} (h : Tells p 0x24 u X v s) :
    Tells p 0x24 u (PtOver (res == .done && nbit (runWord (portBlock (6 + p) + 0x20) s) 2)) (ptShown p res done s)
      (ptEnd p res done rx s) := by
  unfold ptEnd
  extract_lets a ctl n hold _ s1
  have ended : Tells p 0x24 u (PtOver hold) v (modIPort p (fun x => { x with ptRun := false, ptTx := false, hold := hold }) s1) :=
    h.user.mod fun _ _ => ⟨rfl, rfl⟩
  exact ptOver_count res (ended.set ptShown_small)

/-- The transaction has ended, and what waited for its bus goes on. -/
theorem resumed_tells {hold : Bool} (h : Tells p 0x24 u (PtOver hold) v s) (port : p < 4) :
    Tells p 0x24 u (PtOver hold) v (resumeBus p s) :=
  h.ptBeside port (resumeBus_aside Aside.refl) (fun _ there => there.1) fun _ _ there kept held =>
    ⟨kept.ptRun.trans there.1, held.trans there.2⟩

/-- The hub in which PT_GO runs its transaction. -/
def ptReady (p : Fin 4) (s : State) : State :=
  let a := portBlock (6 + p.val) + 0x20
  let v := BitVec.ofNat 16 (cfgWord s.cfg.user a + 1)
  if (iportOf p.val s).ptRun then startPt p.val s else winWriteRow a v (ptCtlWrite p.val v) s

theorem ptReady_inv {p : Fin 4} (inv : Inv s) : Inv (ptReady p s) :=
  (Kept.ite (startPt_kept (Kept.refl inv)) (winWriteRow_kept (fun _ h => ptCtlWrite_kept h) (Kept.refl inv))).inv

theorem ptReady_mode {p : Fin 4} : (ptReady p s).mode.cur = s.mode.cur := by
  have kept : Keeps (· = .mode) s (ptReady p s) :=
    Keeps.ite (startPt_keeps Keeps.refl) (winWriteRow_keeps (fun _ h => ptCtlWrite_keeps h) Keeps.refl)
  exact kept.part .mode rfl

theorem ptGo_row {p : Fin 4} {res : PtResult} {done : Nat} {rx : List Byte} (on : ptOnWire p.val (ptReady p s) = true) :
    effPtGo p res done rx s =
      if res == .hang || res == .busyTimeout then ptHangs p.val res (ptReady p s)
      else if !nbit (runWord (portBlock (6 + p.val) + 0x20) (ptReady p s)) 1 || rx.length == ptBytes p.val res done (ptReady p s) then
        resumeBus p.val (ptEnd p.val res done rx (ptReady p s))
      else ptReady p s := if_pos on

/-! ### A stuck bus -/

/-- The hub with PT_CTL written. -/
def ptWritten (p v : Nat) (s : State) : State :=
  { s with cfg := { s.cfg with user := (writeCfg s.cfg.user (portBlock (6 + p) + 0x20) v).1 } }

/-- GO on a stuck bus fails at once. -/
theorem ptCtlWrite_stuck {w : Word} (go : nbit w.toNat 0 = true) (halter : s.mode.cur = .halter) (works : iWorks p s = true)
    (idle : (iportOf p s).ptRun = false) (stuck : (iportOf p s).stk = true) :
    ptCtlWrite p w s = wrote (ptFail p .hang (ptWritten p w.toNat s)) := by
  refine (if_pos go).trans ((if_neg ?_).trans (if_pos stuck))
  rw [works, idle, halter]
  decide

/-- A GO that sets its bit in the control word. -/
theorem go_set {n : Nat} (clear : nbit n 0 = false) : nbit (BitVec.ofNat 16 (n + 1)).toNat 0 = true := by
  rw [nbit, Nat.testBit_zero] at *
  simp only [BitVec.toNat_ofNat, decide_eq_true_eq, decide_eq_false_iff_not] at *
  omega

theorem ptFail_tells {res : PtResult} (h : Tells p 0x24 u X v s) :
    Tells p 0x24 u (fun y => y.ptRun = false) (ptCode res) (ptFail p res s) := by
  unfold ptFail
  have ended : Tells p 0x24 u (fun y => y.ptRun = false) v (modIPort p (fun x => { x with ptRun := false, ptTx := false }) s) :=
    h.mod fun _ _ => rfl
  have small := ptCode_small (res := res)
  have set := ended.set (w := ptCode res) (by omega)
  exact set.stick fun _ there => there

theorem ptGo_stuck {p : Fin 4} {res : PtResult} {done : Nat} {rx : List Byte} (inv : Inv s) (served : HostServed s)
    (writable : winWritable (portBlock (6 + p.val) + 0x20) s = true) (halter : s.mode.cur = .halter) (works : iWorks p.val s = true)
    (idle : (iportOf p.val s).ptRun = false) (stuck : (iportOf p.val s).stk = true)
    (clear : nbit (cfgWord s.cfg.user (portBlock (6 + p.val) + 0x20)) 0 = false) :
    (iportOf p.val (effPtGo p res done rx s)).ptRun = false ∧ statWord (portBlock (6 + p.val) + 0x24) (effPtGo p res done rx s) = 5 := by
  let w : Word := BitVec.ofNat 16 (cfgWord s.cfg.user (portBlock (6 + p.val) + 0x20) + 1)
  have answers (k : VerdictSt) : ptCtlWrite p.val w { s with verdicts := k } =
      wrote (ptFail p.val .hang (ptWritten p.val w.toNat { s with verdicts := k })) := by
    refine ptCtlWrite_stuck (s := { s with verdicts := k }) (go_set clear) halter works idle stuck
  obtain ⟨_, apart, -⟩ := winWriteRow_apart (v := w) (f := ptCtlWrite p.val w) (x := ptFail p.val .hang (ptWritten p.val w.toNat s))
    served writable rfl
    (fun k => by rw [answers]; exact ⟨rfl, rfl, rfl, rfl, rfl, rfl, rfl, rfl, rfl, rfl, rfl, rfl, rfl, rfl, rfl, rfl, rfl⟩)
    (fun k => by rw [answers]; exact stall_of_hostServed served)
  have ready : ptReady p s = winWriteRow (portBlock (6 + p.val) + 0x20) w (ptCtlWrite p.val w) s :=
    if_neg (by rw [idle]; exact Bool.false_ne_true)
  have written : Tells p.val 0x24 s (fun _ => True) (statWord (portBlock (6 + p.val) + 0x24) s) (ptWritten p.val w.toNat s) :=
    ((tells_now inv p.isLt).weaken fun _ _ => trivial).same rfl rfl rfl
  have failed : Tells p.val 0x24 s (fun y => y.ptRun = false) 5 (ptReady p s) := by
    rw [ready]
    exact (ptFail_tells (res := .hang) written).records apart
  have off : ¬ ptOnWire p.val (ptReady p s) = true := by
    rw [ptOnWire, failed.port]
    exact Bool.false_ne_true
  have row : effPtGo p res done rx s = ptReady p s := if_neg off
  rw [row]
  exact ⟨failed.port, failed.word⟩

theorem ptGo_hangs {p : Fin 4} {res : PtResult} {done : Nat} {rx : List Byte} (inv : Inv s) (on : ptOnWire p.val (ptReady p s) = true)
    (row : effPtGo p res done rx s = declareHang p.val res (ptReady p s)) :
    ∃ t, exec (.ptGo p res done rx) s = .next t ∧ t.mode.cur = s.mode.cur ∧ (iportOf p.val t).ptRun = false ∧
      (iportOf p.val t).recov = true ∧ statWord (portBlock (6 + p.val) + 0x24) t % 8 = ptCode res := by
  have hung := declareHang_counts (res := res) (s := ptReady p s)
    (tells_now (o := 0x386) (s := ptReady p s) (ptReady_inv (p := p) inv) p.isLt) p.isLt
  obtain ⟨w, code, shown⟩ := declareHang_status (res := res) (s := ptReady p s)
    (tells_now (o := 0x24) (s := ptReady p s) (ptReady_inv (p := p) inv) p.isLt) p.isLt on
  obtain ⟨⟨recov, -, runs⟩, -⟩ := hung.port
  exact ⟨_, next_congr row, (congrArg ModeSt.cur hung.mode).trans ptReady_mode, runs on, recov, by rw [shown.word, code]⟩

/-! ### A hold that expires -/

theorem dropHold_form : ∃ iports status, dropHold p s = { s with iports := iports, cfg := { s.cfg with status := status } } := by
  unfold dropHold
  split
  · exact ⟨_, _, rfl⟩
  · exact ⟨_, _, rfl⟩

theorem ptWants_dropHold (inside : p < s.iports.length) : ptWants p (dropHold p s) = ptWants p s := by
  have port := iportOf_dropHold inside
  obtain ⟨iports, status, eq⟩ := dropHold_form (p := p) (s := s)
  rw [eq] at port ⊢
  simp only [ptWants, port]
  rfl

/-- Settles O57. -/
theorem twoWireCalls : Obligations.TwoWireCalls := by
  intro p s inv a counts
  have port := p.isLt
  refine ⟨fun addr t0 own takes => ⟨fun other bytes => next_congr (i2cCall_other other), fun mine => ⟨fun read bytes => ?_, fun write =>
    ⟨?_, fun bytes told short kept room works => ?_⟩⟩⟩, fun done rx => ⟨fun on => ⟨fun res up free fits => ?_, ?_, fun bound => ?_⟩,
      fun served writable halter works idle stuck clear res => ?_⟩, fun held => ?_, fun free => ?_⟩
  · obtain ⟨w, eq⟩ := grants_alike (l := [(iPoint p.val, true), (iPoint p.val + 4, false)]) (s := advance t0 s)
    exact ⟨w, next_congr ((i2cCall_answered own takes mine).trans ((if_pos read).trans (by rw [eq]; rfl)))⟩
  · refine ⟨_, next_congr ((i2cCall_answered own takes mine).trans (if_neg (by rw [write]; exact Bool.false_ne_true))), ?_⟩
    exact OnlyRecords.trans (countWord_records (grants_apart OnlyRecords.refl)) callEnds_empty
  · have row := (i2cCall_answered (bytes := bytes) (t0 := t0) own takes mine).trans (if_neg (by rw [write]; exact Bool.false_ne_true))
    have told_ : Tells p.val 0x38E s (· = iportOf p.val s) (statWord (a + 0x38E) s)
        (grants [(iPoint p.val, true), (iPoint p.val + 4, false)] (advance t0 s)) :=
      (tells_of_inv inv port).records (grants_apart OnlyRecords.refl)
    have time : (grants [(iPoint p.val, true), (iPoint p.val + 4, false)] (advance t0 s)).time = (advance t0 s).time := grants_time
    have lost : eventCells (grants [(iPoint p.val, true), (iPoint p.val + 4, false)] (advance t0 s)) = if s.pool.lost = 0 then 1 else 2 := by
      rw [eventCells, grants_pool, advance_pool]
    have works' : qmgrDropped (grants [(iPoint p.val, true), (iPoint p.val + 4, false)] (advance t0 s)) = false := by
      rw [qmgrDropped, grants_power, advance_power]
      exact works
    obtain ⟨posted, source⟩ := callEnds_tells told short (by rw [lost, time]; exact room) works' told_
    exact ⟨_, next_congr row, source, posted.word, congrArg ModeSt.cur posted.mode⟩
  · have own : ¬ (res == .hang || res == .busyTimeout) = true := by simp [up, free]
    have whole : (!nbit (runWord (portBlock (6 + p.val) + 0x20) (ptReady p s)) 1 ||
        rx.length == ptBytes p.val res done (ptReady p s)) = true := by
      have read : nbit (runWord (portBlock (6 + p.val) + 0x20) (ptReady p s)) 1 = false ∨
          rx.length = ptBytes p.val res done (ptReady p s) := fits
      rcases read with none_ | all
      · simp [none_]
      · simp [all]
    have ended := resumed_tells (ptEnd_tells (res := res) (done := done) (rx := rx) (tells_now (o := 0x24) (s := ptReady p s) (ptReady_inv (p := p) inv) port)) port
    exact ⟨_, next_congr ((ptGo_row on).trans ((if_neg own).trans (if_pos whole))), (congrArg ModeSt.cur ended.mode).trans ptReady_mode,
      ended.port.1, ended.port.2, ended.word⟩
  · exact ptGo_hangs inv on ((ptGo_row on).trans ((if_pos rfl).trans (if_pos rfl)))
  · refine ptGo_hangs inv on ((ptGo_row on).trans ((if_pos rfl).trans (if_pos ?_)))
    simpa using (show runWord _ (ptReady p s) ≠ 0 from bound)
  · obtain ⟨over_, shown⟩ := ptGo_stuck (res := res) (done := done) (rx := rx) inv served writable halter works idle stuck clear
    have kept : Keeps (· = .mode) s (effPtGo p res done rx s) := effPtGo_keeps Keeps.refl
    exact ⟨_, rfl, kept.part .mode rfl, over_, shown⟩
  · let x := grant (iPoint p.val + 6) true s
    have row : effPtHoldExpiry p s = resumeBus p.val (dropHold p.val x) := if_pos held
    have inside : p.val < x.iports.length := by
      rw [grant_iports, (counts_of_inv inv).2.2.1]
      exact port
    have resumed : Aside (dropHold p.val x) (resumeBus p.val (dropHold p.val x)) := resumeBus_aside Aside.refl
    have kept : Keeps (· = .mode) s (effPtHoldExpiry p s) := effPtHoldExpiry_keeps Keeps.refl
    refine ⟨effPtHoldExpiry p s, rfl, ?_, kept.part .mode rfl, fun idle waits => ?_⟩
    · rw [row]
      exact (resumed.ports p.val).hold (by rw [iportOf_dropHold inside])
    · have poll : (dropHold p.val x).poll = s.poll := (dropHold_wires Wires.refl).poll.trans grant_poll
      have free : ∀ i < 16, (laneOf i (dropHold p.val x)).wait ≠ .bus (6 + p.val) := by
        intro i small
        rw [laneOf, poll]
        exact idle i small
      have same : ptWants p.val x = ptWants p.val s := by
        obtain ⟨w, eq⟩ := grant_alike (p := iPoint p.val + 6) (b := true) (s := s)
        rw [show x = _ from eq]
        rfl
      rw [row, resumeBus_none free, startPt_waits ((ptWants_dropHold inside).trans (same.trans waits))]
      obtain ⟨w, eq⟩ := grant_alike (p := iPoint p.val + 6) (b := true) (s := s)
      obtain ⟨iports, status, form⟩ := dropHold_form (p := p.val) (s := x)
      rw [form, show x = _ from eq]
  · exact next_congr (if_neg (by rw [free]; exact Bool.false_ne_true))

end Sys2Proof.Proofs.TwoWireCall

/-! PROOFS. A CAN channel (chapter 12): what the operations of Boryel sync, an event, a counter and the error counters leave of it. -/

namespace Sys2Proof.Proofs.CanState

set_option Elab.async false

open Sys2Proof.Machine Sys2Proof.Safety Sys2Proof.Laws Sys2Proof.Proofs.Shared Sys2Proof.Proofs.Grants Sys2Proof.Proofs.RunStatus
  Sys2Proof.Proofs.Beside

variable {b0 s t u x : State} {ch : Chan} {a n v : Nat} {X : CanSt → Prop} {f : CanSt → CanSt} {t0 : HubTime}

/-! ## The half of a channel -/

theorem canOf_records (h : OnlyRecords s t) : canOf ch t = canOf ch s := by
  cases ch
  · exact h.canA
  · exact h.canB

theorem canOf_aside (h : Aside s t) : canOf ch t = canOf ch s := by
  cases ch
  · exact h.canA
  · exact h.canB

theorem cur_of_keeps (h : Frame.Keeps (· = .mode) s t) : t.mode.cur = s.mode.cur := h.part .mode rfl

theorem canOf_advance : canOf ch (advance t0 s) = canOf ch s := by
  cases ch
  · exact advance_canA
  · exact advance_canB

theorem canOf_modCan_ne {ch' : Chan} (h : ch' ≠ ch) : canOf ch (modCan ch' f s) = canOf ch s := by
  cases ch
  · cases ch'
    · exact absurd rfl h
    · rfl
  · cases ch'
    · rfl
    · exact absurd rfl h

theorem canOf_canEvent : canOf ch (canEvent ch n s) = { canOf ch s with evt := setBit (canOf ch s).evt n } := by
  rw [canEvent, canOf_records (attend_apart OnlyRecords.refl), modCan_self]

/-! ## Boryel sync

The leader role follows the channels: SYNC frames leave the transmit buffers, and nothing else of a channel changes. -/

/-- A channel with a transmit buffer that may have become empty. -/
def Clears (c d : CanSt) : Prop := ∃ b, d = { c with txBuf := b } ∧ (c.txBuf = none → b = none)

theorem Clears.refl {c : CanSt} : Clears c c := ⟨_, rfl, id⟩

theorem Clears.trans {c d e : CanSt} (h : Clears c d) (k : Clears d e) : Clears c e := by
  obtain ⟨b, rfl, kept⟩ := h
  obtain ⟨b', rfl, kept'⟩ := k
  exact ⟨b', rfl, kept' ∘ kept⟩

/-- `t` is `u` but for records, Boryel sync, and transmit buffers that may have become empty. -/
structure Leads (u t : State) : Prop where
  power : t.power = u.power
  mode : t.mode = u.mode
  cfg : t.cfg = u.cfg
  pins : t.pins = u.pins
  time : t.time = u.time
  replay : t.replay = u.replay
  chan : ∀ ch, Clears (canOf ch u) (canOf ch t)

theorem Leads.refl : Leads s s := ⟨rfl, rfl, rfl, rfl, rfl, rfl, fun _ => Clears.refl⟩

theorem Leads.trans (h : Leads b0 s) (k : Leads s t) : Leads b0 t :=
  ⟨k.power.trans h.power, k.mode.trans h.mode, k.cfg.trans h.cfg, k.pins.trans h.pins, k.time.trans h.time, k.replay.trans h.replay,
    fun ch => (h.chan ch).trans (k.chan ch)⟩

theorem Leads.records (h : Leads b0 s) (k : OnlyRecords s t) : Leads b0 t :=
  h.trans ⟨k.power, k.mode, k.cfg, k.pins, k.time, k.replay, fun _ => by rw [canOf_records k]; exact Clears.refl⟩

theorem Leads.boryel {y : BoryelSt} (h : Leads b0 s) : Leads b0 { s with boryel := y } :=
  h.trans ⟨rfl, rfl, rfl, rfl, rfl, rfl, fun ch => by cases ch <;> exact Clears.refl⟩

theorem Leads.modCan {g : CanSt → CanSt} (h : Leads b0 s) (k : Clears (canOf ch s) (g (canOf ch s))) : Leads b0 (modCan ch g s) := by
  refine h.trans ?_
  cases ch
  · refine ⟨rfl, rfl, rfl, rfl, rfl, rfl, fun ch => ?_⟩
    cases ch
    · exact k
    · exact Clears.refl
  · refine ⟨rfl, rfl, rfl, rfl, rfl, rfl, fun ch => ?_⟩
    cases ch
    · exact Clears.refl
    · exact k

theorem gainLock_leads (h : Leads b0 s) : Leads b0 (gainLock s) := by
  unfold gainLock
  split
  · exact h
  · exact h.boryel.records (attend_apart OnlyRecords.refl)

theorem loseLock_leads (h : Leads b0 s) : Leads b0 (loseLock s) := by
  unfold loseLock
  split
  · exact h.boryel.records (attend_apart OnlyRecords.refl)
  · exact h.boryel

/-- A SYNC in the transmit buffer is taken out of it. -/
theorem unsync_clears {c : CanSt} :
    Clears c (match c.txBuf with | some f => if f.kind = 2 then { c with txBuf := none } else c | none => c) := by
  split
  · split
    · exact ⟨none, rfl, fun _ => rfl⟩
    · exact Clears.refl
  · exact Clears.refl

theorem withdrawSync_leads (h : Leads b0 s) : Leads b0 (withdrawSync s) := by
  unfold withdrawSync
  extract_lets drop s1
  have dropped : ∀ ch x, Leads b0 x → Leads b0 (drop ch x) := fun ch x k => (k.records (modQueue_apart OnlyRecords.refl)).modCan unsync_clears
  refine (dropped _ _ (dropped _ _ ?_)).boryel
  split
  · exact h.records (grants_apart OnlyRecords.refl)
  · exact h

theorem settleLead_leads (h : Leads b0 s) : Leads b0 (settleLead s) := by
  unfold settleLead
  extract_lets s1
  split
  · split
    · exact gainLock_leads h.boryel
    · exact loseLock_leads h.boryel
  · split
    · exact withdrawSync_leads (loseLock_leads h.boryel)
    · exact h

/-! ## A word of the status area -/

/-- The status area is canonical, and its word at `a` is `v`. -/
structure Reads (a v : Nat) (t : State) : Prop where
  wf : Memory.wf zeroDflt t.cfg.status = true
  word : statWord a t = v

theorem Reads.same (h : Reads a v s) (k : t.cfg.status = s.cfg.status) : Reads a v t := by
  obtain ⟨wf, word⟩ := h
  refine ⟨by rw [k]; exact wf, ?_⟩
  rw [statWord, k]
  exact word

theorem Reads.records (h : Reads a v s) (k : OnlyRecords s t) : Reads a v t := h.same (congrArg CfgSt.status k.cfg)

theorem Reads.leads (h : Reads a v s) (k : Leads s t) : Reads a v t := h.same (congrArg CfgSt.status k.cfg)

theorem Reads.modCan (h : Reads a v s) : Reads a v (modCan ch f s) := h.same (congrArg CfgSt.status modCan_cfg)

theorem Reads.event (h : Reads a v s) : Reads a v (canEvent ch n s) := h.modCan.records (attend_apart OnlyRecords.refl)

theorem Reads.count (h : Reads a v s) : Reads a ((v + 1) % 65536) (countWord a s) := by
  obtain ⟨wf, word⟩ := h
  exact ⟨wf_writeBytes wf, (statWord_setStatWord wf).trans (by rw [word])⟩

theorem Reads.other {b w : Nat} (h : Reads a v s) (apart : a + 2 ≤ b ∨ b + 2 ≤ a) : Reads a v (setStatWord b w s) := by
  obtain ⟨wf, word⟩ := h
  exact ⟨wf_writeBytes wf, (statWord_setStatWord_ne wf apart).trans word⟩

theorem Reads.otherCount {b : Nat} (h : Reads a v s) (apart : a + 2 ≤ b ∨ b + 2 ≤ a) : Reads a v (countWord b s) := h.other apart

theorem Reads.aside (h : Reads a v s) (low : Still a) (high : Still (a + 1)) (k : Aside s t) : Reads a v t :=
  ⟨k.wf h.wf, (k.word h.wf low high).trans h.word⟩

theorem reads_advance (inv : Inv s) : Reads a (statWord a s) (advance t0 s) :=
  Reads.same (s := s) ⟨Lanes.status_of_inv inv, rfl⟩ (congrArg CfgSt.status advance_cfg)

/-! ## The error counters -/

/-- A channel with other events, and a transmit buffer that may have become empty. -/
def Rough (c d : CanSt) : Prop := ∃ e b, d = { c with evt := e, txBuf := b } ∧ (c.txBuf = none → b = none)

theorem Rough.refl {c : CanSt} : Rough c c := ⟨_, _, rfl, id⟩

theorem Rough.trans {c d e : CanSt} (h : Rough c d) (k : Rough d e) : Rough c e := by
  obtain ⟨e, b, rfl, kept⟩ := h
  obtain ⟨e', b', rfl, kept'⟩ := k
  exact ⟨e', b', rfl, kept' ∘ kept⟩

theorem Clears.rough {c d : CanSt} (h : Clears c d) : Rough c d := by
  obtain ⟨b, rfl, kept⟩ := h
  exact ⟨_, b, rfl, kept⟩

theorem canEvent_rough {c : CanSt} (h : Rough c (canOf ch s)) : Rough c (canOf ch (canEvent ch n s)) := by
  rw [canOf_canEvent]
  exact h.trans ⟨_, _, rfl, id⟩

/-- The channel goes bus-off. -/
def goesOff (tec : Nat) (c : CanSt) : BitVec 2 := if 255 < tec ∧ c.state = 2 then 3 else c.state

theorem setCounters_rough {tec recc : Nat} {h : HubTime} :
    Rough { canOf ch s with tec := tec, recc := recc, state := goesOff tec (canOf ch s) } (canOf ch (setCounters ch tec recc h s)) := by
  unfold setCounters
  extract_lets old s1 s2 s3 s4
  have start : canOf ch s1 = { old with tec := tec, recc := recc } := by
    rw [canOf_records (grant_apart OnlyRecords.refl), modCan_self]
  have warned : Rough (canOf ch s1) (canOf ch s2) := by
    unfold s2
    split
    · exact canEvent_rough Rough.refl
    · exact Rough.refl
  have passive : Rough (canOf ch s1) (canOf ch s3) := by
    unfold s3
    split
    · exact canEvent_rough warned
    · exact warned
  rw [start] at passive
  split
  · next off =>
    have led : Leads _ (settleLead (tapTrigger 3 (recCanEvent ch 5 h (canEvent ch 0 s4)))) := settleLead_leads Leads.refl
    refine Rough.trans ?_ (led.chan ch).rough
    rw [canOf_records (tapTrigger_apart (recCanEvent_apart OnlyRecords.refl))]
    refine canEvent_rough ?_
    have counted : canOf ch s4 = { canOf ch s3 with state := 3 } := by
      change canOf ch (modCan ch _ s3) = _
      rw [modCan_self]
    obtain ⟨e, b, same, kept⟩ := passive
    rw [counted, same, goesOff, if_pos off]
    exact ⟨e, b, rfl, kept⟩
  · next stays =>
    rw [goesOff, if_neg stays]
    exact passive

theorem setCounters_reads {tec recc : Nat} {h : HubTime} (r : Reads a v s)
    (apart : a + 2 ≤ canStat ch 0x390 ∨ canStat ch 0x390 + 2 ≤ a) : Reads a v (setCounters ch tec recc h s) := by
  unfold setCounters
  extract_lets old s1 s2 s3 s4
  have start : Reads a v s1 := r.modCan.records (grant_apart OnlyRecords.refl)
  have warned : Reads a v s2 := by
    unfold s2
    split
    · exact start.event
    · exact start
  have passive : Reads a v s3 := by
    unfold s3
    split
    · exact warned.event
    · exact warned
  split
  · have counted : Reads a v s4 := passive.modCan.otherCount apart
    exact (counted.event.records (tapTrigger_apart (recCanEvent_apart OnlyRecords.refl))).leads (settleLead_leads Leads.refl)
  · exact passive

end Sys2Proof.Proofs.CanState

/-! PROOFS. Start and stop, integration, recovery and errors of a CAN channel (R267 to R271, R293 to R296). -/

namespace Sys2Proof.Proofs.CanChannel

set_option Elab.async false

open Sys2Proof.Machine Sys2Proof.Safety Sys2Proof.Laws Sys2Proof.Proofs.Shared Sys2Proof.Proofs.Grants Sys2Proof.Proofs.HostAccess
  Sys2Proof.Proofs.Frame Sys2Proof.Proofs.CanState

variable {s t u x : State} {ch : Chan} {v : Word} {f g : CanSt → CanSt} {t0 : HubTime}

/-! ## Start -/

/-- The start checks see of a channel its FDEN alone. -/
theorem startRefusal_modCan (h : (f (canOf ch s)).fden = (g (canOf ch s)).fden) :
    startRefusal ch (modCan ch f s) = startRefusal ch (modCan ch g s) := by
  cases ch
  all_goals
    simp only [startRefusal, modCan_self, h]
    rfl

/-- The settings that a write of CANx_CTRL gives the channel. -/
def ctrlSettings (n : Nat) (c : CanSt) : CanSt :=
  { c with lom := nbit n 1, fden := nbit n 2, tdcen := nbit n 3, norm := nbit n 6
           bor := if field n 4 2 != 3 then BitVec.ofNat 2 (field n 4 2) else c.bor }

theorem canOf_startCan : ∃ tdco unmq auto, canOf ch (startCan ch s) = { canOf ch s with
    lomAct := (canOf ch s).lom, fdAct := (canOf ch s).fden, tdcAct := (canOf ch s).tdcen, autoRun := auto
    unmqAct := unmq, tdcoAct := tdco
    state := if (canOf ch s).wasBusOff then 3 else 1, recovering := false, keep := false, pexWait := false } := by
  refine ⟨field (runWord (portBlock (chanNum ch) + 8) s) 0 7, nbit (runWord (portBlock (chanNum ch) + 0x0C) s) 1, canAutoCond ch s, ?_⟩
  rw [startCan, modCan_self, canOf_records (grant_apart OnlyRecords.refl)]

theorem canOf_refuseStart {why : BitVec 3} :
    canOf ch (refuseStart ch why s) = { canOf ch s with sref := why, evt := setBit (canOf ch s).evt 9 } := by
  rw [refuseStart, canOf_canEvent, modCan_self]

theorem setBit_bit0 : nbit (setBit v 0).toNat 0 = true := setBit_self (by decide)

/-- The hub in which the start checks of a written CANx_CTRL are made. -/
def ctrlWritten (ch : Chan) (n : Nat) (s : State) : State :=
  modCan ch (ctrlSettings n) (grants [(canPoint ch + 15, true), (canPoint ch + 18, true)] s)

theorem canOf_ctrlWritten {n : Nat} : canOf ch (ctrlWritten ch n s) = ctrlSettings n (canOf ch s) := by
  rw [ctrlWritten, modCan_self, canOf_records (grants_apart OnlyRecords.refl)]

theorem startRefusal_ctrlWritten {n : Nat} {w} : startRefusal ch (ctrlWritten ch n { s with verdicts := w }) =
    startRefusal ch (modCan ch (fun c => { c with fden := nbit n 2 }) s) := by
  obtain ⟨w', granted⟩ := grants_alike (l := [(canPoint ch + 15, true), (canPoint ch + 18, true)]) (s := { s with verdicts := w })
  rw [ctrlWritten, granted, startRefusal_modCan (g := fun c => { c with fden := nbit n 2 })]
  · cases ch <;> rfl
  · rfl

/-- A write with RUN = 1 to a stopped channel starts it, or is refused. -/
theorem canCtrlWrite_starts (run : nbit v.toNat 0 = true) (stopped : (canOf ch s).state = 0) :
    (canCtrlWrite ch v s).s = if startRefusal ch (ctrlWritten ch v.toNat s) = 0 then
        settleLead (startCan ch (modCan ch (fun c => { c with run := true, want := true }) (ctrlWritten ch v.toNat s)))
      else refuseStart ch (startRefusal ch (ctrlWritten ch v.toNat s)) (ctrlWritten ch v.toNat s) := by
  unfold canCtrlWrite
  extract_lets n borOk s1
  rw [if_pos (by simp [n, run, stopped])]
  exact (apply_ite Reply.s _ _ _).trans rfl

theorem settleLead_chan : Clears (canOf ch s) (canOf ch (settleLead s)) := (settleLead_leads Leads.refl).chan ch

theorem startRequest_row (served : HostServed s) : ∃ w, canOf ch (effCanStartRequest ch v s) =
    canOf ch (canCtrlWrite ch (setBit v 0) { s with verdicts := w }).s := by
  obtain ⟨w, row⟩ := writeRow_grants (a := 0x30 + 8 * chanNum ch) (v := setBit v 0) (f := canCtrlWrite ch (setBit v 0)) served
  exact ⟨w, (congrArg (canOf ch) row).trans (canOf_records (goodWrite_apart OnlyRecords.refl))⟩

theorem canOf_verdicts {w} : canOf ch { s with verdicts := w } = canOf ch s := by cases ch <;> rfl

/-- A start request that nothing refuses. -/
theorem startRequest_starts (served : HostServed s) (stopped : (canOf ch s).state = 0)
    (free : startRefusal ch (modCan ch (fun c => { c with fden := nbit (setBit v 0).toNat 2 }) s) = 0) :
    let x := canOf ch (effCanStartRequest ch v s)
    x.run = true ∧ x.fdAct = nbit (setBit v 0).toNat 2 ∧ x.lomAct = nbit (setBit v 0).toNat 1 ∧
      x.state = if (canOf ch s).wasBusOff then 3 else 1 := by
  obtain ⟨w, row⟩ := startRequest_row (ch := ch) (v := v) served
  rw [row, canCtrlWrite_starts setBit_bit0 (by rw [canOf_verdicts]; exact stopped), if_pos (startRefusal_ctrlWritten.trans free)]
  obtain ⟨b, led, -⟩ := settleLead_chan (ch := ch) (s := startCan ch (modCan ch (fun c => { c with run := true, want := true })
    (ctrlWritten ch (setBit v 0).toNat { s with verdicts := w })))
  obtain ⟨tdco, unmq, auto, started⟩ := canOf_startCan (ch := ch) (s := modCan ch (fun c => { c with run := true, want := true })
    (ctrlWritten ch (setBit v 0).toNat { s with verdicts := w }))
  rw [led, started, modCan_self, canOf_ctrlWritten, canOf_verdicts]
  exact ⟨rfl, rfl, rfl, rfl⟩

/-- A start request that a check refuses. -/
theorem startRequest_refused {why : BitVec 3} (served : HostServed s) (stopped : (canOf ch s).state = 0)
    (same : startRefusal ch (modCan ch (fun c => { c with fden := nbit (setBit v 0).toNat 2 }) s) = why) (barred : why ≠ 0) :
    let x := canOf ch (effCanStartRequest ch v s)
    x.run = (canOf ch s).run ∧ x.sref = why ∧ x.state = 0 ∧ x.evt.getLsbD 9 = true := by
  obtain ⟨w, row⟩ := startRequest_row (ch := ch) (v := v) served
  have refused := (startRefusal_ctrlWritten (w := w)).trans same
  rw [row, canCtrlWrite_starts setBit_bit0 (by rw [canOf_verdicts]; exact stopped), refused, if_neg barred, canOf_refuseStart,
    canOf_ctrlWritten, canOf_verdicts]
  exact ⟨rfl, rfl, stopped, setBit_self (by decide)⟩

/-! ## Stop -/

theorem masked_bit0 : nbit (v &&& 0xFFFE).toNat 0 = false := by
  rw [nbit, BitVec.toNat_and, Nat.testBit_and]
  simp

/-- A channel that does not stand stopped while its run condition holds keeps RUN and its state. -/
theorem settleCan_stays (h : (canOf ch s).state ≠ 0 ∨ canCond ch s = false) :
    (canOf ch (settleCan ch s)).run = (canOf ch s).run ∧ (canOf ch (settleCan ch s)).state = (canOf ch s).state := by
  unfold settleCan
  extract_lets on s1
  have kept : canOf ch s1 = { canOf ch s with want := on, autoRun := canAutoCond ch s || ((canOf ch s).autoRun && !(canOf ch s).run) } :=
    modCan_self
  rw [if_neg, kept]
  · exact ⟨rfl, rfl⟩
  · rcases h with moving | off
    · exact fun h => absurd (by simpa using (Bool.and_eq_true_iff.mp h).2) moving
    · simp [on, off]

theorem canOf_settleCan_ne {other : Chan} (h : other ≠ ch) : canOf ch (settleCan other s) = canOf ch s := by
  unfold settleCan
  extract_lets on s1
  have kept : canOf ch s1 = canOf ch s := canOf_modCan_ne h
  split
  · split
    · rw [startCan, canOf_modCan_ne h, canOf_records (grant_apart OnlyRecords.refl), kept]
    · rw [refuseStart, canEvent, canOf_records (attend_apart OnlyRecords.refl), canOf_modCan_ne h, canOf_modCan_ne h, kept]
  · exact kept

/-- Whether CHCFG.AUTO counts is a matter of the mode, the configuration and the replay. -/
theorem canAutoCond_congr (mode : t.mode = s.mode) (cfg : t.cfg = s.cfg) (replay : t.replay = s.replay) :
    canAutoCond ch t = canAutoCond ch s := by
  simp only [canAutoCond, actMode, runWord, running, mode, cfg, replay]

/-- Mode, configuration and replay stay as they are. -/
def SameRule (s t : State) : Prop := t.mode = s.mode ∧ t.cfg = s.cfg ∧ t.replay = s.replay

theorem sameRule_modCan : SameRule s (modCan ch f s) := by cases ch <;> exact ⟨rfl, rfl, rfl⟩

theorem SameRule.trans (h : SameRule s t) (k : SameRule t u) : SameRule s u := by
  obtain ⟨mode, cfg, replay⟩ := h
  obtain ⟨mode', cfg', replay'⟩ := k
  exact ⟨mode'.trans mode, cfg'.trans cfg, replay'.trans replay⟩

theorem sameRule_records (h : OnlyRecords s t) : SameRule s t := ⟨h.mode, h.cfg, h.replay⟩

theorem sameRule_settleCan : SameRule s (settleCan ch s) := by
  unfold settleCan
  extract_lets on s1
  have kept : SameRule s s1 := sameRule_modCan
  split
  · split
    · exact (kept.trans (sameRule_records (grant_apart OnlyRecords.refl))).trans sameRule_modCan
    · exact ((kept.trans sameRule_modCan).trans sameRule_modCan).trans (sameRule_records (attend_apart OnlyRecords.refl))
  · exact kept

/-- With RUN clear, a channel that does not start through CHCFG.AUTO stays as it is when both are settled. -/
theorem settleCans_stays (run : (canOf ch s).run = false) (h : (canOf ch s).state ≠ 0 ∨ canAutoCond ch s = false) :
    (canOf ch (settleCans s)).run = false ∧ (canOf ch (settleCans s)).state = (canOf ch s).state := by
  have stays : ∀ x : State, canOf ch x = canOf ch s → SameRule s x →
      (canOf ch (settleCan ch x)).run = false ∧ (canOf ch (settleCan ch x)).state = (canOf ch s).state := by
    intro x same ⟨mode, cfg, replay⟩
    have still : (canOf ch x).state ≠ 0 ∨ canCond ch x = false := by
      rw [same]
      refine h.imp_right fun off => ?_
      rw [canCond, same, run, canAutoCond_congr mode cfg replay, off, Bool.or_false, Bool.and_false]
    obtain ⟨run', state⟩ := settleCan_stays still
    exact ⟨run'.trans (by rw [same, run]), state.trans (by rw [same])⟩
  have settled : (canOf ch (settleCan .b (settleCan .a s))).run = false ∧
      (canOf ch (settleCan .b (settleCan .a s))).state = (canOf ch s).state := by
    cases ch with
    | a =>
      rw [canOf_settleCan_ne (by decide)]
      exact stays s rfl ⟨rfl, rfl, rfl⟩
    | b => exact stays _ (canOf_settleCan_ne (by decide)) sameRule_settleCan
  obtain ⟨b, led, -⟩ := settleLead_chan (ch := ch) (s := settleCan .b (settleCan .a s))
  rw [settleCans, led]
  exact settled

theorem stopRequest_row (served : HostServed s) : ∃ w, canOf ch (effCanStopRequest ch v s) =
    canOf ch (settleCans (modCan ch (fun c => { c with run := false }) (ctrlWritten ch (v &&& 0xFFFE).toNat { s with verdicts := w }))) := by
  obtain ⟨w, row⟩ := writeRow_grants (a := 0x30 + 8 * chanNum ch) (v := v &&& 0xFFFE) (f := canCtrlWrite ch (v &&& 0xFFFE)) served
  refine ⟨w, (congrArg (canOf ch) row).trans ((canOf_records (goodWrite_apart OnlyRecords.refl)).trans ?_)⟩
  unfold canCtrlWrite
  extract_lets n borOk s1
  have run : nbit n 0 = false := masked_bit0
  rw [if_neg (by simp [run]), run]
  rfl

/-- A stop request clears RUN; the channel goes on to its idle point. -/
theorem stopRequest_stays (served : HostServed s) (h : (canOf ch s).state ≠ 0 ∨ canAutoCond ch s = false) :
    (canOf ch (effCanStopRequest ch v s)).run = false ∧ (canOf ch (effCanStopRequest ch v s)).state = (canOf ch s).state := by
  obtain ⟨w, row⟩ := stopRequest_row (ch := ch) (v := v) served
  let x := modCan ch (fun c => { c with run := false }) (ctrlWritten ch (v &&& 0xFFFE).toNat { s with verdicts := w })
  have here : canOf ch x = { ctrlSettings (v &&& 0xFFFE).toNat (canOf ch s) with run := false } := by
    rw [show canOf ch x = _ from modCan_self, canOf_ctrlWritten, canOf_verdicts]
  have rule : SameRule s x :=
    (SameRule.trans (s := s) (t := { s with verdicts := w }) ⟨rfl, rfl, rfl⟩
      ((sameRule_records (grants_apart OnlyRecords.refl)).trans sameRule_modCan)).trans sameRule_modCan
  obtain ⟨mode, cfg, replay⟩ := rule
  have stays := settleCans_stays (ch := ch) (s := x) (by rw [here]) (by
    rw [here, canAutoCond_congr mode cfg replay]
    exact h)
  rw [row]
  exact ⟨stays.1, stays.2.trans (by rw [here]; rfl)⟩

/-- What a stop leaves of the receive item and the transmit buffer. -/
theorem canOf_dropRxItem : canOf ch (dropRxItem ch s) = { canOf ch s with rx := none } := by
  unfold dropRxItem
  extract_lets s1
  have given : OnlyRecords s s1 := by
    unfold s1
    split
    · split
      · exact abandonItem_apart OnlyRecords.refl
      · exact OnlyRecords.refl
    · exact OnlyRecords.refl
  rw [modCan_self, canOf_records given]

theorem canOf_discardTx : ∃ e, canOf ch (discardTx ch s) = { canOf ch s with txBuf := none, evt := e } := by
  unfold discardTx
  split
  · rw [canOf_canEvent]
    refine ⟨setBit (canOf ch s).evt 6, ?_⟩
    have same : canOf ch (countCan ch 0x394 (modCan ch (fun c => { c with txBuf := none }) s)) = { canOf ch s with txBuf := none } :=
      modCan_self
    rw [same]
  · next empty =>
    have none_ : (canOf ch s).txBuf = none := by simpa using empty
    exact ⟨(canOf ch s).evt, by rw [← none_]⟩

/-- The channel at its idle point. -/
theorem stopCan_chan : ∃ e, canOf ch (stopCan ch s) = { canOf ch s with
    rx := none, txBuf := none, evt := e
    wasBusOff := (canOf ch s).state == 3 || (canOf ch s).recovering
    tec := if (canOf ch s).state == 3 || (canOf ch s).recovering then 255 else (canOf ch s).tec
    state := 0, recovering := false, pexWait := false, lomAct := false, autoRun := false } := by
  unfold stopCan
  extract_lets s1
  obtain ⟨e, gone⟩ := canOf_discardTx (ch := ch) (s := dropRxItem ch s)
  have here : canOf ch s1 = { canOf ch s with rx := none, txBuf := none, evt := e } := by
    rw [show canOf ch s1 = _ from gone, canOf_dropRxItem]
  obtain ⟨b, led, kept⟩ := settleLead_chan (ch := ch) (s := grants [(canPoint ch + 9, true), (canPoint ch + 14, false), (canPoint ch + 17, true)] (modCan ch (fun c => { c with
    wasBusOff := c.state == 3 || c.recovering
    tec := if c.state == 3 || c.recovering then 255 else c.tec
    state := 0, recovering := false, pexWait := false, lomAct := false, autoRun := false }) s1))
  rw [canOf_records (grants_apart OnlyRecords.refl), modCan_self, here] at led kept
  refine ⟨e, ?_⟩
  rw [led, kept rfl]

/-! ## Integration, recovery and errors -/

theorem advance_listens : canListens ch (advance t0 s) = canListens ch s := by
  simp only [canListens, canOf_advance, bankOut, advance_power]

theorem canListens_active (h : canListens ch s = true) : (canOf ch s).state = 2 := by
  simp only [canListens, Bool.and_eq_true, beq_iff_eq] at h
  exact h.1.1.1

/-- A channel after an error frame, but for its error counters. -/
def errorSeen (e : CanError) (c : CanSt) : CanSt := { c with lec := e.lec, rx := if e.transmitting then c.rx else none }

/-- A channel that takes the error counters `tec` and `recc`. -/
def withCounters (tec recc : Nat) (c : CanSt) : CanSt := { c with tec := tec, recc := recc, state := goesOff tec c }

/-- A channel after an error frame: in listen-only mode its counters stay. -/
def errored (e : CanError) (c : CanSt) : CanSt :=
  if c.lomAct then errorSeen e c
  else if e.transmitting then withCounters e.tec c.recc (errorSeen e c)
  else withCounters c.tec e.recc (errorSeen e c)

theorem canError_rough {e : CanError} : Rough (errored e (canOf ch s)) (canOf ch (canError ch e s)) := by
  unfold canError
  extract_lets c s1 s2
  have seen : canOf ch s1 = { c with lec := e.lec } := by
    rw [canOf_records (recCan_apart OnlyRecords.refl), modCan_self, frameEnds, canOf_records (grants_apart OnlyRecords.refl)]
  have counted : canOf ch s2 = errorSeen e c := by
    unfold s2 errorSeen
    split
    · exact seen
    · change canOf ch (dropRxItem ch s1) = _
      rw [canOf_dropRxItem, seen]
  unfold errored
  split
  · rw [counted]
    exact Rough.refl
  · split
    · rw [← counted]
      exact setCounters_rough
    · rw [← counted]
      exact setCounters_rough

/-- What an error frame leaves of a channel that follows the bus. -/
theorem errored_active {e : CanError} {c d : CanSt} (active : c.state = 2) (h : Rough (errored e c) d) :
    let tec := if e.transmitting then e.tec else c.tec
    d.lec = e.lec ∧ d.tec = (if c.lomAct then c.tec else tec) ∧ d.recc = (if c.lomAct || e.transmitting then c.recc else e.recc) ∧
      d.state = (if c.lomAct = false ∧ 255 < tec then 3 else 2) ∧ (e.transmitting = false → d.rx = none) := by
  obtain ⟨evt, b, rfl, -⟩ := h
  unfold errored
  cases c.lomAct with
  | true => exact ⟨rfl, rfl, rfl, active.trans (if_neg fun h => Bool.noConfusion h.1).symm, fun heard => if_neg (by simp [heard])⟩
  | false =>
    have off : ∀ tec, goesOff tec (errorSeen e c) = if false = false ∧ 255 < tec then 3 else 2 := by
      intro tec
      simp [goesOff, errorSeen, active]
    cases sent : e.transmitting with
    | true => exact ⟨rfl, rfl, rfl, off e.tec, fun h => Bool.noConfusion h⟩
    | false => exact ⟨rfl, rfl, rfl, off c.tec, fun _ => if_neg (by simp [sent])⟩

theorem integrate_chan (starting : (canOf ch s).state = 1) (fresh : (canOf ch s).recovering = false) :
    ∃ b, canOf ch (integrate ch s) = { canOf ch s with
      state := 2, tec := if (canOf ch s).keep then (canOf ch s).tec else 0
      recc := if (canOf ch s).keep then (canOf ch s).recc else 0, keep := false, txBuf := b } := by
  unfold integrate
  extract_lets c
  rw [if_pos ⟨starting, fresh⟩]
  obtain ⟨b, led, -⟩ := settleLead_chan (ch := ch) (s := modCan ch (fun c => { c with
      state := 2, tec := if c.keep then c.tec else 0, recc := if c.keep then c.recc else 0, keep := false }) s)
  exact ⟨b, by rw [led, modCan_self]⟩

theorem recoverCan_chan : ∃ b, canOf ch (recoverCan ch s) = { canOf ch s with
    state := 2, tec := 0, recc := 0, recovering := false, wasBusOff := false
    evt := setBit (canOf ch s).evt 1, txBuf := b } := by
  unfold recoverCan
  obtain ⟨b, led, -⟩ := settleLead_chan (ch := ch) (s := recCanEvent ch 6 s.time.now (canEvent ch 1 (modCan ch (fun c => { c with
    state := 2, tec := 0, recc := 0, recovering := false, wasBusOff := false }) s)))
  exact ⟨b, by rw [led, canOf_records (recCanEvent_apart OnlyRecords.refl), canOf_canEvent, modCan_self]⟩

theorem protocolException_chan : canOf ch (protocolException ch s) = { canOf ch s with
    lec := 7, pexWait := true, evt := setBit (canOf ch s).evt 7 } := by
  unfold protocolException
  rw [canOf_records (recCanEvent_apart OnlyRecords.refl), canOf_canEvent]
  have same : canOf ch (countCan ch 0x392 (modCan ch (fun c => { c with lec := 7, pexWait := true }) (grant (canPoint ch + 19) false s))) =
      { canOf ch s with lec := 7, pexWait := true } := by
    rw [← canOf_records (ch := ch) (grant_apart (p := canPoint ch + 19) (b := false) (s := s) OnlyRecords.refl)]
    exact modCan_self
  rw [same]

/-- Settles O50. -/
theorem canChannels : Obligations.CanChannels := by
  refine ⟨fun ch s => ?_, fun ch t0 s live => ?_⟩
  · intro c becomes
    refine ⟨fun v served stopped => ⟨fun free => ?_, fun barred => ?_⟩, fun v served moving => ?_, fun moving idle => ⟨fun on => ?_, fun off => ?_⟩,
      fun live starting fresh => ?_, fun busOff => ⟨fun asked => ?_, fun no1 no2 => ?_⟩, fun t0 live starting back => ?_⟩
    · exact ⟨_, rfl, cur_of_keeps (effCanStartRequest_keeps Keeps.refl), startRequest_starts served stopped free⟩
    · exact ⟨_, rfl, cur_of_keeps (effCanStartRequest_keeps Keeps.refl), startRequest_refused served stopped rfl barred⟩
    · exact ⟨_, rfl, cur_of_keeps (effCanStopRequest_keeps Keeps.refl), stopRequest_stays served moving⟩
    · exact next_congr (if_neg (by simp [on]))
    · refine ⟨_, rfl, cur_of_keeps (effCanChannelStop_keeps Keeps.refl), ?_⟩
      obtain ⟨e, stopped⟩ := stopCan_chan (ch := ch) (s := s)
      rw [effCanChannelStop, if_pos (by rw [bne_iff_ne.mpr moving, off, show (canOf ch s).rx = none from idle]; rfl), stopped]
      exact ⟨rfl, rfl, rfl, rfl, rfl⟩
    · refine ⟨_, rfl, cur_of_keeps (effCanIntegrationDone_keeps Keeps.refl), ?_⟩
      obtain ⟨b, active⟩ := integrate_chan starting fresh
      rw [effCanIntegrationDone, if_neg (by rw [live]; exact Bool.false_ne_true), active]
      exact ⟨rfl, rfl, rfl, rfl⟩
    · obtain ⟨w, granted⟩ := grant_alike (p := canPoint ch + 15) (b := false)
        (s := modCan ch (fun c => { c with state := 1, recovering := true }) s)
      refine ⟨w, next_congr ((if_pos ?_).trans granted)⟩
      rcases asked with once | always
      · simp [show (canOf ch s).state = 3 from busOff, show (canOf ch s).bor = 1 from once]
      · simp [show (canOf ch s).state = 3 from busOff, show (canOf ch s).bor = 2 from always]
    · exact next_congr (if_neg (by
        rw [beq_false_of_ne (show (canOf ch s).bor ≠ 1 from no1), beq_false_of_ne (show (canOf ch s).bor ≠ 2 from no2), Bool.or_false,
          Bool.and_false]
        exact Bool.false_ne_true))
    · refine ⟨_, rfl, cur_of_keeps (effCanRecoveryDone_keeps Keeps.refl), ?_⟩
      obtain ⟨b, active⟩ := recoverCan_chan (ch := ch) (s := advance t0 s)
      have row : effCanRecoveryDone ch t0 s = recoverCan ch (advance t0 s) := if_pos (by
        rw [advance_run, live, canOf_advance, show (canOf ch s).state = 1 from starting, show (canOf ch s).recovering = true from back]
        rfl)
      rw [row, active]
      exact ⟨rfl, rfl, rfl, rfl, setBit_self (by decide)⟩
  · intro c becomes
    refine ⟨fun listens => ⟨fun e some_ ordinary sent => ?_, fun idle classic => ?_⟩,
      next_congr (if_neg (by rw [live]; exact Bool.false_ne_true))⟩
    · have mine : (!e.transmitting || ((canOf ch s).txBuf.isSome && !(canOf ch s).lomAct && (canOf ch s).rx.isNone)) = true := by
        cases on : e.transmitting with
        | false => rfl
        | true =>
          obtain ⟨full, talks, idle⟩ := sent on
          simp [show (canOf ch s).txBuf.isSome = true from full, show (canOf ch s).lomAct = false from talks, show (canOf ch s).rx = none from idle]
      have row : effCanFrameError ch e t0 s = canError ch e (advance t0 s) := by
        unfold effCanFrameError
        extract_lets x c'
        have here : c' = canOf ch s := canOf_advance
        refine if_pos ?_
        rw [here, mine, show canListens ch x = true from advance_listens.trans listens, show x.replay.run = false from advance_run.trans live,
          bne_iff_ne.mpr some_, bne_iff_ne.mpr ordinary]
        rfl
      refine ⟨_, rfl, cur_of_keeps (effCanFrameError_keeps Keeps.refl), ?_⟩
      have moved := canError_rough (ch := ch) (e := e) (s := advance t0 s)
      rw [canOf_advance] at moved
      rw [row]
      exact errored_active (canListens_active listens) moved
    · have row : effCanProtocolException ch t0 s = protocolException ch (advance t0 s) := by
        refine if_pos ?_
        rw [mayExcept, advance_listens, listens, canOf_advance, advance_run, live, show (canOf ch s).rx = none from idle,
          show (canOf ch s).fdAct = false from classic]
        rfl
      refine ⟨_, rfl, cur_of_keeps (effCanProtocolException_keeps Keeps.refl), ?_⟩
      rw [row, protocolException_chan, canOf_advance]
      exact ⟨rfl, rfl, canListens_active listens, setBit_self (by decide)⟩

end Sys2Proof.Proofs.CanChannel

/-! PROOFS. The transmit buffer of a CAN channel (R284 to R286): an item taken, a frame sent, and an arbitration lost. -/

namespace Sys2Proof.Proofs.CanSending

set_option Elab.async false

open Sys2Proof.Machine Sys2Proof.Safety Sys2Proof.Laws Sys2Proof.Proofs.Shared Sys2Proof.Proofs.Grants Sys2Proof.Proofs.Frame
  Sys2Proof.Proofs.CanState Sys2Proof.Proofs.CanChannel

variable {s t u x : State} {ch : Chan} {a v : Nat} {t0 sof : HubTime}

/-! ## Taking an item -/

/-- The hub that has discarded the poisoned items at the front of the channel's queue. -/
def skipped (ch : Chan) (s : State) : State := skipBad (queueOf (txQueue ch) s).items.length (txQueue ch) s

/-- The hub `w` in which the channel's points have granted it the item. -/
def granted (ch : Chan) (w : State) : State := grants [(canPoint ch + 8, false), (canPoint ch + 9, false)] w

theorem takeTx_none (may : mayTake ch s = true) (none_ : takeItem (txQueue ch) (skipped ch s) = none) : takeTx ch s = skipped ch s := by
  unfold skipped at none_
  unfold takeTx
  rw [if_pos may]
  dsimp only
  rw [none_]
  rfl

theorem takeTx_some {i : Item} {w : State} (may : mayTake ch s = true) (took : takeItem (txQueue ch) (skipped ch s) = some (i, w)) :
    takeTx ch s = if (txFrameOf i.bytes).fdf && !(canOf ch (granted ch w)).fden then canEvent ch 6 (countCan ch 0x394 (granted ch w))
      else modCan ch (fun c => { c with txBuf := some ⟨txFrameOf i.bytes, i.kind⟩ }) (granted ch w) := by
  unfold skipped at took
  unfold takeTx
  rw [if_pos may]
  dsimp only
  rw [took]
  rfl

theorem mayTake_empty (may : mayTake ch s = true) : (canOf ch s).txBuf = none := by
  simp only [mayTake, Bool.and_eq_true, Option.isNone_iff_eq_none] at may
  exact may.1.1.1.1.2

theorem granted_records {i : Item} {w : State} (took : takeItem (txQueue ch) (skipped ch s) = some (i, w)) :
    OnlyRecords s (granted ch w) := grants_apart (takeItem_apart (skipBad_apart OnlyRecords.refl) took)

/-- An FD frame is discarded where FDEN is clear. -/
theorem takeTx_discards {i : Item} {w : State} (may : mayTake ch s = true) (took : takeItem (txQueue ch) (skipped ch s) = some (i, w))
    (fd : (txFrameOf i.bytes).fdf = true) (classic : (canOf ch s).fden = false) (r : Reads (canStat ch 0x394) v s) :
    (canOf ch (takeTx ch s)).txBuf = none ∧ (canOf ch (takeTx ch s)).evt.getLsbD 6 = true ∧
      Reads (canStat ch 0x394) ((v + 1) % 65536) (takeTx ch s) := by
  have kept := granted_records took
  have same : canOf ch (countCan ch 0x394 (granted ch w)) = canOf ch s := by
    rw [← canOf_records (ch := ch) kept]
    cases ch <;> rfl
  rw [takeTx_some may took, canOf_records kept, if_pos (by rw [fd, classic]; rfl), canOf_canEvent, same]
  exact ⟨mayTake_empty may, setBit_self (by decide), (r.records kept).count.event⟩

/-! ## A sent frame -/

theorem syncSent_leads : Leads s (syncSent sof s) := by
  unfold syncSent
  split
  · exact Leads.refl
  · exact Leads.refl.boryel.records (queueBoryel_apart OnlyRecords.refl)

theorem showDelay_rough {d : Nat} : Rough (canOf ch s) (canOf ch (showDelay ch d s)) := by
  unfold showDelay
  extract_lets s1
  have same : canOf ch s1 = canOf ch s := by cases ch <;> rfl
  split
  · rw [← same]
    exact canEvent_rough Rough.refl
  · rw [same]
    exact Rough.refl

theorem showDelay_reads {d : Nat} (r : Reads a v s) (apart : a + 2 ≤ canStat ch 0x396 ∨ canStat ch 0x396 + 2 ≤ a) :
    Reads a v (showDelay ch d s) := by
  unfold showDelay
  extract_lets s1
  have shown : Reads a v s1 := r.other apart
  split
  · exact shown.event
  · exact shown

/-- The hub in which a frame has left the transmit buffer, before the error counters move. -/
def txLeft (ch : Chan) (x : TxFrame) (sof t : HubTime) (s : State) : State :=
  recCan ch 1 0 (onBus ch x s) t sof (countCan ch 0x38A (modCan ch (fun c => { c with txBuf := none })
    (grant (canPoint ch + 16) true (frameEnds ch s))))

theorem txLeft_chan {y : TxFrame} : canOf ch (txLeft ch y sof t0 s) = { canOf ch s with txBuf := none } := by
  rw [txLeft, canOf_records (recCan_apart OnlyRecords.refl)]
  have same : canOf ch (grant (canPoint ch + 16) true (frameEnds ch s)) = canOf ch s := by
    rw [canOf_records (grant_apart OnlyRecords.refl), frameEnds, canOf_records (grants_apart OnlyRecords.refl)]
  rw [← same]
  exact modCan_self

theorem txLeft_reads {y : TxFrame} (r : Reads (canStat ch 0x38A) v s) :
    Reads (canStat ch 0x38A) ((v + 1) % 65536) (txLeft ch y sof t0 s) := by
  have ready : Reads (canStat ch 0x38A) v (grant (canPoint ch + 16) true (frameEnds ch s)) :=
    (r.records (grants_apart OnlyRecords.refl)).records (grant_apart OnlyRecords.refl)
  exact ready.modCan.count.records (recCan_apart OnlyRecords.refl)

/-- What a sent frame leaves in a channel. -/
theorem txDone_sent {y : TxFrame} {delay : Option Nat} (r : Reads (canStat ch 0x38A) v s) :
    Rough (withCounters ((canOf ch s).tec - 1) (canOf ch s).recc { canOf ch s with txBuf := none }) (canOf ch (txDone ch y delay sof t0 s)) ∧
      Reads (canStat ch 0x38A) ((v + 1) % 65536) (txDone ch y delay sof t0 s) := by
  have left : canOf ch (txLeft ch y sof t0 s) = { canOf ch s with txBuf := none } := txLeft_chan
  let s2 := setCounters ch ((canOf ch (txLeft ch y sof t0 s)).tec - 1) (canOf ch (txLeft ch y sof t0 s)).recc t0 (txLeft ch y sof t0 s)
  have moved : Rough (withCounters ((canOf ch s).tec - 1) (canOf ch s).recc { canOf ch s with txBuf := none }) (canOf ch s2) := by
    have counted := setCounters_rough (ch := ch) (s := txLeft ch y sof t0 s) (tec := (canOf ch (txLeft ch y sof t0 s)).tec - 1)
      (recc := (canOf ch (txLeft ch y sof t0 s)).recc) (h := t0)
    rw [left] at counted
    simp only [s2, left]
    exact counted
  have told : Reads (canStat ch 0x38A) ((v + 1) % 65536) s2 := setCounters_reads (txLeft_reads r) (.inl (by simp only [canStat]; omega))
  let s3 := match delay with | some d => showDelay ch d s2 | none => s2
  have shown : Rough (canOf ch s2) (canOf ch s3) ∧ Reads (canStat ch 0x38A) ((v + 1) % 65536) s3 := by
    unfold s3
    split
    · exact ⟨showDelay_rough, showDelay_reads told (.inl (by simp only [canStat]; omega))⟩
    · exact ⟨Rough.refl, told⟩
  obtain ⟨delayed, told3⟩ := shown
  change Rough _ (canOf ch (if y.kind = 2 then syncSent sof s3 else s3)) ∧ Reads _ _ (if y.kind = 2 then syncSent sof s3 else s3)
  split
  · exact ⟨(moved.trans delayed).trans (syncSent_leads.chan ch).rough, told3.leads syncSent_leads⟩
  · exact ⟨moved.trans delayed, told3⟩

/-- The frame on the bus may be sent to its end. -/
theorem busy_guard (live : s.replay.run = false) (listens : canListens ch s = true) (talks : (canOf ch s).lomAct = false)
    (idle : (canOf ch s).rx = none) : (!(advance t0 s).replay.run && canListens ch (advance t0 s) && !(canOf ch (advance t0 s)).lomAct
      && (canOf ch (advance t0 s)).rx.isNone) = true := by
  rw [advance_run, live, advance_listens, listens, canOf_advance, talks, idle]
  rfl

/-- Settles O51. -/
theorem canTransmission : Obligations.CanTransmission := by
  intro ch s inv c q count
  refine ⟨fun barred => next_congr (if_neg (by rw [barred]; exact Bool.false_ne_true)), fun may => ?_, fun x full live listens talks idle => ⟨?_, ?_⟩⟩
  · refine ⟨fun none_ => next_congr (takeTx_none may none_), fun i w took => ⟨fun fits => ?_, fun fd classic => ?_⟩⟩
    · have kept := granted_records took
      obtain ⟨v, alike⟩ := grants_alike (l := [(canPoint ch + 8, false), (canPoint ch + 9, false)]) (s := w)
      refine ⟨v, next_congr ((takeTx_some may took).trans ?_)⟩
      rw [if_neg, granted, alike]
      · cases ch <;> rfl
      · rw [canOf_records kept, Bool.and_eq_true, Bool.not_eq_true']
        rintro ⟨fd, classic⟩
        rcases fits with h | h
        · exact Bool.false_ne_true (h.symm.trans fd)
        · exact Bool.false_ne_true (classic.symm.trans h)
    · obtain ⟨empty, event, counted⟩ := takeTx_discards (v := statWord (canStat ch 0x394) s) may took fd classic ⟨Lanes.status_of_inv inv, rfl⟩
      exact ⟨_, rfl, empty, event, counted.word⟩
  · intro delay sof t0 fits
    have row : effCanFrameTransmitted ch delay sof t0 s = txDone ch x delay sof (advance t0 s).time.now (advance t0 s) := by
      have buffer : (canOf ch (advance t0 s)).txBuf = some x := by rw [canOf_advance]; exact full
      have fits' : delayFits (canOf ch (advance t0 s)) x.frame delay = true := by rw [canOf_advance]; exact fits
      simp only [effCanFrameTransmitted, buffer]
      exact if_pos (by rw [busy_guard live listens talks idle, fits']; rfl)
    obtain ⟨sent, told⟩ := txDone_sent (y := x) (delay := delay) (sof := sof) (t0 := (advance t0 s).time.now)
      (reads_advance (t0 := t0) (a := canStat ch 0x38A) inv)
    rw [canOf_advance] at sent
    obtain ⟨e, b, left, kept⟩ := sent
    have same := congrArg (canOf ch) row
    refine ⟨_, rfl, ?_, ?_, ?_, ?_, cur_of_keeps (effCanFrameTransmitted_keeps Keeps.refl)⟩
    · rw [same, left]
      exact kept rfl
    · rw [same, left]
      rfl
    · rw [same, left]
      rfl
    · change statWord _ _ = _
      rw [row]
      exact told.word
  · intro sof t0
    have row : effCanArbitrationLost ch sof t0 s = recCan ch 2 0 (onBus ch x (advance t0 s)) (advance t0 s).time.now sof
        (countCan ch 0x38E (grant (canPoint ch + 16) true (advance t0 s))) := by
      have buffer : (canOf ch (advance t0 s)).txBuf = some x := by rw [canOf_advance]; exact full
      simp only [effCanArbitrationLost, buffer]
      exact if_pos (busy_guard live listens talks idle)
    exact ⟨_, next_congr row, recCan_apart (TwoWireCall.countWord_records (grant_apart OnlyRecords.refl))⟩

end Sys2Proof.Proofs.CanSending

/-! PROOFS. An item of a queue from its reservation to its commit (R244 to R250). -/

namespace Sys2Proof.Proofs.QueueItem

set_option Elab.async false

open Sys2Proof.Machine Sys2Proof.Safety Sys2Proof.Laws Sys2Proof.Proofs.Grants Sys2Proof.Proofs.Queues Sys2Proof.Proofs.Spare

variable {s t u : State} {q n : Nat} {who : Producer} {prio : BitVec 3} {bs : List Byte} {kind : Byte} {o : OpenItem}

theorem queues_of_inv (inv : Inv s) : s.pool.queues.length = 64 := by
  have counts := inv.counts
  simp only [shape, specShape, List.cons.injEq] at counts
  obtain ⟨-, -, queues, -⟩ := counts
  exact queues

@[simp] theorem after_items {x y : Queue} : (x.after y).items = y.items := by
  unfold Queue.after Queue.mark
  repeat' split
  all_goals rfl

@[simp] theorem after_drop {x y : Queue} : (x.after y).drop = y.drop := by
  unfold Queue.after Queue.mark
  repeat' split
  all_goals rfl

theorem modQueue_count {f : Queue → Queue} : (modQueue q f s).pool.queues.length = s.pool.queues.length := modifyNth_length

/-! ## The open item of a producer -/

theorem openOf_openItem (inside : q < s.pool.queues.length) (fresh : openOf q who s = none) :
    ∃ cells, openOf q who (openItem q n who prio s) = some ⟨who, cells, prio, [], false, none⟩ := by
  have opened : ∀ (x : State) (i : OpenItem), queueOf q x = queueOf q s → q < x.pool.queues.length → (i.who == who) = true →
      openOf q who (modQueue q (fun y => { y with opens := y.opens ++ [i] }) x) = some i := by
    intro x i same here mine
    unfold openOf at fresh ⊢
    rw [queueOf_modQueue here, after_opens, same]
    change ((queueOf q s).opens ++ [i]).find? _ = _
    rw [List.find?_append, fresh]
    simp [mine]
  exact ⟨_, opened _ _ rfl inside (by simp)⟩

/-- A queue with an open item is one of the pool's. -/
theorem inside_of_open (open_ : openOf q who s = some o) : q < s.pool.queues.length := by
  refine Classical.byContradiction fun outside => ?_
  unfold openOf queueOf at open_
  rw [Shared.getD_outside (Nat.le_of_not_lt outside)] at open_
  have none_ : (resetQueue q).opens.find? (fun o => o.who == who) = none := rfl
  rw [none_] at open_
  cases open_

theorem find?_modFirst {α : Type} {p : α → Bool} {f : α → α} (kept : ∀ x, p x = true → p (f x) = true) {l : List α} :
    (modFirst p f l).find? p = (l.find? p).map f := by
  induction l with
  | nil => rfl
  | cons x l ih =>
    by_cases here : p x = true
    · simp [modFirst, here, kept x here]
    · simp [modFirst, here, ih]

/-- The queue in which a producer's open item has taken more bytes. -/
def grownOpen (q : Nat) (who : Producer) (bs : List Byte) (s : State) : State :=
  modQueue q (fun x => { x with opens := modFirst (fun o => o.who == who) (fun o => { o with bytes := o.bytes ++ bs }) x.opens }) s

theorem writeOpen_row (open_ : openOf q who s = some o) :
    ∃ l, writeOpen q who bs s = grants l (putCells o.cells o.bytes.length bs (grownOpen q who bs s)) := by
  unfold writeOpen
  rw [open_]
  exact ⟨_, rfl⟩

theorem openOf_grownOpen (inside : q < s.pool.queues.length) (open_ : openOf q who s = some o) :
    openOf q who (grownOpen q who bs s) = some { o with bytes := o.bytes ++ bs } := by
  unfold openOf at open_ ⊢
  rw [grownOpen, queueOf_modQueue inside, after_opens]
  change (modFirst _ _ (queueOf q s).opens).find? _ = _
  exact (find?_modFirst (p := fun o : OpenItem => o.who == who) (f := fun o => { o with bytes := o.bytes ++ bs }) fun _ h => h).trans
    (by rw [open_]; rfl)

theorem openOf_writeOpen (inside : q < s.pool.queues.length) (open_ : openOf q who s = some o) :
    openOf q who (writeOpen q who bs s) = some { o with bytes := o.bytes ++ bs } ∧
      (writeOpen q who bs s).pool.queues.length = s.pool.queues.length ∧ (writeOpen q who bs s).rein = s.rein := by
  obtain ⟨l, row⟩ := writeOpen_row (bs := bs) open_
  have pool : (writeOpen q who bs s).pool.queues = (grownOpen q who bs s).pool.queues := by
    rw [row, grants_pool]
    rfl
  refine ⟨?_, ?_, ?_⟩
  · rw [← openOf_grownOpen inside open_, openOf, openOf, queueOf, pool, ← queueOf]
  · rw [pool, grownOpen, modQueue_count]
  · rw [row, grants_rein]
    rfl

/-- A close commits the open item with what has been written, unless a flush has doomed it. -/
theorem closeItem_stores (open_ : openOf q who s = some o) (alive : o.doomed = false)
    (free : s.rein.stall ≠ some (.queue q)) :
    ∃ i ∈ (queueOf q (closeItem q who bs kind s)).items, i.bytes = o.bytes ++ bs := by
  have inside := inside_of_open open_
  obtain ⟨written, count, rein⟩ := openOf_writeOpen (bs := bs) inside open_
  unfold closeItem
  extract_lets s1
  rw [written]
  dsimp only
  rw [alive, if_neg Bool.false_ne_true]
  let item : Item := ⟨o.prio, o.bytes ++ bs, o.bad, kind, o.cells.take (cellsFor (o.bytes ++ bs).length)⟩
  let s2 := modQueue q (fun x => { (x.unopen who) with items := x.items ++ [item] }) s1
  have here : item ∈ (queueOf q s2).items := by
    rw [queueOf_modQueue (by rw [count]; exact inside), after_items]
    exact List.mem_append_right _ List.mem_cons_self
  have granted : ∀ x, x.pool = s2.pool ∧ x.rein = s2.rein →
      item ∈ (queueOf q (serveStall (grant (182 + q) true x))).items := by
    intro x ⟨pool, same⟩
    have spared : Spares q (grant (182 + q) true x) (serveStall (grant (182 + q) true x)) := serveStall_spares Spares.refl
    rw [spared.queue, queueOf, grant_pool, pool]
    · exact here
    · rw [grant_rein, same]
      change s1.rein.stall ≠ _
      rw [rein]
      exact free
  refine ⟨item, granted _ ?_, rfl⟩
  split
  · exact ⟨grant_pool, grant_rein⟩
  · exact ⟨rfl, rfl⟩

/-! ## Reservations in states that differ in verdicts -/

theorem reserve_verdicts {w} (e : reserve q n who prio s = some u) :
    ∃ w', reserve q n who prio { s with verdicts := w } = some { u with verdicts := w' } := by
  unfold reserve at e ⊢
  split at e
  · next ok =>
    obtain ⟨v, granted⟩ := grants_alike (l := [(264, !who.isHost), (263, true), (262, false)]) (s := openItem q n who prio s)
    obtain ⟨v', granted'⟩ := grants_alike (l := [(264, !who.isHost), (263, true), (262, false)])
      (s := openItem q n who prio { s with verdicts := w })
    cases e
    rw [granted, if_pos (by exact ok), granted']
    exact ⟨v', rfl⟩
  · cases e

theorem reserve_verdicts_none {w} (e : reserve q n who prio s = none) : reserve q n who prio { s with verdicts := w } = none := by
  unfold reserve at e ⊢
  split at e
  · cases e
  · next full => exact if_neg full

end Sys2Proof.Proofs.QueueItem

/-! PROOFS. Receiving a CAN frame (R275 to R277): the end of the control field, and a valid frame to its end. -/

namespace Sys2Proof.Proofs.CanReceiving

set_option Elab.async false

open Sys2Proof.Machine Sys2Proof.Safety Sys2Proof.Laws Sys2Proof.Proofs.Shared Sys2Proof.Proofs.Grants Sys2Proof.Proofs.Frame
  Sys2Proof.Proofs.Beside Sys2Proof.Proofs.Spare Sys2Proof.Proofs.CanState Sys2Proof.Proofs.CanChannel Sys2Proof.Proofs.QueueItem

variable {s t u x : State} {ch : Chan} {f : CanFrame} {a v k q : Nat} {t0 sof h : HubTime} {item : RxOpen}

/-! ## The end of the control field -/

/-- The deciding pair of a frame whose control field ends. -/
def pairOf (ch : Chan) (f : CanFrame) (s : State) : Option (Nat × Nat) := if isBoryel ch f s then none else decidePair ch f s

/-- The receive queue that the frame is bound for. -/
def targetOf (ch : Chan) (f : CanFrame) (s : State) : Option Nat :=
  if isBoryel ch f s then none else rxTarget (canOf ch s) (pairOf ch f s)

/-- `u` with the frame that is received, as the control field in `s` has decided it. -/
def receiving (ch : Chan) (f : CanFrame) (s : State) (item : RxOpen) (u : State) : State :=
  modCan ch (fun c => { c with rx := some ⟨headOf f, isBoryel ch f s, pairOf ch f s, item⟩ }) u

theorem controlField_row : ∃ w, controlField ch f s =
    match targetOf ch f s with
    | none => receiving ch f s .none { s with verdicts := w }
    | some k =>
      match reserve (rxQueue ch k) (cellsFor (12 + headBytes f)) (.canRx ch) 0 { s with verdicts := w } with
      | some s1 => receiving ch f s (.opened (rxQueue ch k)) s1
      | none => receiving ch f s .lost (countRxDrop ch (markDrop (rxQueue ch k) { s with verdicts := w })) := by
  obtain ⟨w, granted⟩ := grants_alike (l := [(canPoint ch + 16, false), (canPoint ch + 19, true), (canPoint ch + 5, true)]) (s := s)
  refine ⟨w, ?_⟩
  unfold controlField
  rw [granted]
  have target : targetOf ch f { s with verdicts := w } = targetOf ch f s := by cases ch <;> rfl
  rw [← target]
  cases ch <;> rfl

theorem receiving_verdicts {w} : receiving ch f s item { u with verdicts := w } = { receiving ch f s item u with verdicts := w } := by
  cases ch <;> rfl

theorem controlField_none (free : targetOf ch f s = none) :
    ∃ w, controlField ch f s = { receiving ch f s .none s with verdicts := w } := by
  obtain ⟨w, row⟩ := controlField_row (ch := ch) (f := f) (s := s)
  rw [free] at row
  exact ⟨w, row.trans receiving_verdicts⟩

theorem controlField_opened (bound : targetOf ch f s = some k)
    (room : reserve (rxQueue ch k) (cellsFor (12 + headBytes f)) (.canRx ch) 0 s = some u) :
    ∃ w, controlField ch f s = { receiving ch f s (.opened (rxQueue ch k)) u with verdicts := w } := by
  obtain ⟨w, row⟩ := controlField_row (ch := ch) (f := f) (s := s)
  obtain ⟨w', reserved⟩ := reserve_verdicts (w := w) room
  simp only [bound, reserved] at row
  exact ⟨w', row.trans receiving_verdicts⟩

theorem controlField_lost (bound : targetOf ch f s = some k)
    (full : reserve (rxQueue ch k) (cellsFor (12 + headBytes f)) (.canRx ch) 0 s = none) :
    ∃ w, controlField ch f s = receiving ch f s .lost (countRxDrop ch (markDrop (rxQueue ch k) { s with verdicts := w })) := by
  obtain ⟨w, row⟩ := controlField_row (ch := ch) (f := f) (s := s)
  simp only [bound, reserve_verdicts_none full] at row
  exact ⟨w, row⟩

theorem canOf_receiving : canOf ch (receiving ch f s item u) =
    { canOf ch u with rx := some ⟨headOf f, isBoryel ch f s, pairOf ch f s, item⟩ } := modCan_self

theorem receiving_pool : (receiving ch f s item u).pool = u.pool := by cases ch <;> rfl

theorem receiving_rein : (receiving ch f s item u).rein = u.rein := by cases ch <;> rfl

theorem rxQueue_bounds (small : k < 2) : 32 ≤ rxQueue ch k ∧ rxQueue ch k < 36 := by
  cases ch <;> simp only [rxQueue, chanNum] <;> omega

theorem canEvent_pool {n : Nat} : (canEvent ch n s).pool = s.pool := by
  unfold canEvent
  rw [attend_pool]
  cases ch <;> rfl

theorem markDrop_drop (inside : q < s.pool.queues.length) : (queueOf q (markDrop q s)).drop = true := by
  rw [markDrop, queueOf_modQueue inside, after_drop]

/-- A frame whose queue has no room for its item. -/
theorem controlField_drops (inside : rxQueue ch k < s.pool.queues.length) (bound : targetOf ch f s = some k)
    (full : reserve (rxQueue ch k) (cellsFor (12 + headBytes f)) (.canRx ch) 0 s = none) (r : Reads (canStat ch 0x384) v s) :
    (canOf ch (controlField ch f s)).rx = some ⟨headOf f, isBoryel ch f s, pairOf ch f s, .lost⟩ ∧
      (queueOf (rxQueue ch k) (controlField ch f s)).drop = true ∧ (canOf ch (controlField ch f s)).evt.getLsbD 4 = true ∧
      Reads (canStat ch 0x384) ((v + 1) % 65536) (controlField ch f s) := by
  obtain ⟨w, row⟩ := controlField_lost bound full
  rw [row, canOf_receiving, countRxDrop, canOf_canEvent]
  have marked : Reads (canStat ch 0x384) v (markDrop (rxQueue ch k) { s with verdicts := w }) := r.same rfl
  refine ⟨rfl, ?_, setBit_self (by decide), marked.count.event.modCan⟩
  rw [queueOf, receiving_pool, canEvent_pool]
  exact markDrop_drop (s := { s with verdicts := w }) inside

/-! ## A valid frame -/

theorem recAfterRx_form : recAfterRx ch h s = s ∨
    ∃ recc, recAfterRx ch h s = setCounters ch (canOf ch s).tec recc h s ∨ recAfterRx ch h s = drawn (setCounters ch (canOf ch s).tec recc h s) := by
  unfold recAfterRx
  extract_lets c
  split
  · exact .inl rfl
  · split
    · exact .inr ⟨_, .inr rfl⟩
    · exact .inr ⟨_, .inl rfl⟩

theorem canOf_drawn : canOf ch (drawn s) = canOf ch s := by cases ch <;> rfl

theorem setCounters_rx {tec recc : Nat} : (canOf ch (setCounters ch tec recc h s)).rx = (canOf ch s).rx := by
  obtain ⟨e, b, same, -⟩ := setCounters_rough (ch := ch) (s := s) (tec := tec) (recc := recc) (h := h)
  rw [same]

theorem recAfterRx_rx : (canOf ch (recAfterRx ch h s)).rx = (canOf ch s).rx := by
  rcases recAfterRx_form (ch := ch) (h := h) (s := s) with same | ⟨recc, same | same⟩
  · rw [same]
  · rw [same, setCounters_rx]
  · rw [same, canOf_drawn, setCounters_rx]

theorem recAfterRx_reads (r : Reads a v s) (apart : a + 2 ≤ canStat ch 0x390 ∨ canStat ch 0x390 + 2 ≤ a) :
    Reads a v (recAfterRx ch h s) := by
  rcases recAfterRx_form (ch := ch) (h := h) (s := s) with same | ⟨recc, same | same⟩
  · rw [same]
    exact r
  · rw [same]
    exact setCounters_reads r apart
  · rw [same]
    exact (setCounters_reads r apart).same rfl

/-- A channel that has received a frame, before its item is committed. -/
def rxEnded (ch : Chan) (f : CanFrame) (sof h : HubTime) (s : State) : State :=
  recAfterRx ch h (countCan ch 0x380 (modCan ch (fun c => { c with rx := none }) (recCan ch 0 0 f h sof (frameEnds ch s))))

theorem rxEnded_rx : (canOf ch (rxEnded ch f sof h s)).rx = none := by
  rw [rxEnded, recAfterRx_rx]
  cases ch <;> rfl

theorem rxEnded_other (r : Reads a v s) (far : a + 2 ≤ canStat ch 0x380 ∨ (canStat ch 0x382 ≤ a ∧ a + 2 ≤ canStat ch 0x390)) :
    Reads a v (rxEnded ch f sof h s) := by
  simp only [canStat] at far
  have ended : Reads a v (recCan ch 0 0 f h sof (frameEnds ch s)) :=
    (r.records (grants_apart OnlyRecords.refl)).records (recCan_apart OnlyRecords.refl)
  refine recAfterRx_reads (ended.modCan.otherCount ?_) ?_
  · simp only [canStat]
    omega
  · simp only [canStat]
    omega

theorem rxEnded_counts (r : Reads (canStat ch 0x380) v s) : Reads (canStat ch 0x380) ((v + 1) % 65536) (rxEnded ch f sof h s) := by
  have ended : Reads (canStat ch 0x380) v (recCan ch 0 0 f h sof (frameEnds ch s)) :=
    (r.records (grants_apart OnlyRecords.refl)).records (recCan_apart OnlyRecords.refl)
  exact recAfterRx_reads ended.modCan.count (.inl (by simp only [canStat]; omega))

/-- What becomes of a received frame's pair once its item has been committed. -/
def pairEnds (ch : Chan) (f : CanFrame) (r : RxFrame) (h : HubTime) (s : State) : State :=
  match r.pair with
  | none => if r.item = .none then countCan ch 0x386 s else s
  | some p => if 2 ≤ fctlDest p.2 then frameToEndpoint ch f p.2 h (countWord (pairAddr ch p.1 + 10) s) else countWord (pairAddr ch p.1 + 10) s

theorem completeRx_plain {r : RxFrame} (plain : r.sync = false) :
    completeRx ch f r sof h s = pairEnds ch f r h (commitRx ch f r sof (rxEnded ch f sof h s)) := by
  unfold completeRx
  extract_lets s1 s2 s3
  rw [plain, if_neg Bool.false_ne_true]
  rfl

theorem frameToEndpoint_aside_or {w : Nat} : (∃ n, frameToEndpoint ch f w h s = deliverFrame n h f.data (grant (canPoint ch + 4) false s)) ∨
    frameToEndpoint ch f w h s = countCan ch 0x398 s := by
  unfold frameToEndpoint
  split
  · exact .inl ⟨_, rfl⟩
  · exact .inr rfl

theorem frameToEndpoint_reads {w : Nat} (r : Reads a v s) (low : a + 2 ≤ canStat ch 0x398) (still : a + 1 < 0x2800) :
    Reads a v (frameToEndpoint ch f w h s) := by
  rcases frameToEndpoint_aside_or (ch := ch) (f := f) (w := w) (h := h) (s := s) with ⟨n, row⟩ | row
  · rw [row]
    exact (r.records (grant_apart OnlyRecords.refl)).aside (.inl (by omega)) (.inl still) (deliverFrame_aside Aside.refl)
  · rw [row]
    exact r.otherCount (.inl low)

theorem frameToEndpoint_chan {w : Nat} : canOf ch (frameToEndpoint ch f w h s) = canOf ch s := by
  rcases frameToEndpoint_aside_or (ch := ch) (f := f) (w := w) (h := h) (s := s) with ⟨n, row⟩ | row
  · rw [row, canOf_aside (deliverFrame_aside Aside.refl), canOf_records (grant_apart OnlyRecords.refl)]
  · rw [row]
    cases ch <;> rfl

theorem deliverFrame_pool {n : Nat} {bytes : List Byte} : (deliverFrame n h bytes s).pool = s.pool := by
  unfold deliverFrame
  split
  · split
    · unfold takeFrame
      split
      · rfl
      · rfl
    · extract_lets s1
      have counted : s1.pool = s.pool := by
        unfold s1
        split
        · rfl
        · rfl
      exact counted
  · rfl

theorem frameToEndpoint_pool {w : Nat} : (frameToEndpoint ch f w h s).pool = s.pool := by
  rcases frameToEndpoint_aside_or (ch := ch) (f := f) (w := w) (h := h) (s := s) with ⟨n, row⟩ | row
  · rw [row, deliverFrame_pool, grant_pool]
  · rw [row]
    rfl

theorem pairEnds_chan {r : RxFrame} : canOf ch (pairEnds ch f r h s) = canOf ch s := by
  unfold pairEnds
  split
  · split
    · cases ch <;> rfl
    · rfl
  · split
    · rw [frameToEndpoint_chan]
      cases ch <;> rfl
    · cases ch <;> rfl

theorem pairEnds_pool {r : RxFrame} : (pairEnds ch f r h s).pool = s.pool := by
  unfold pairEnds
  split
  · split
    · rfl
    · rfl
  · split
    · exact frameToEndpoint_pool
    · rfl

theorem commitRx_chan {r : RxFrame} : canOf ch (commitRx ch f r sof s) = canOf ch s := by
  unfold commitRx
  split
  · extract_lets stored s1
    have closed : OnlyRecords s s1 := grant_apart (closeItem_apart OnlyRecords.refl)
    rw [← canOf_records (ch := ch) closed]
    split
    · cases ch <;> rfl
    · rfl
  · rfl

theorem commitRx_reads {r : RxFrame} (reads : Reads a v s) (apart : a + 2 ≤ canStat ch 0x382 ∨ canStat ch 0x382 + 2 ≤ a) :
    Reads a v (commitRx ch f r sof s) := by
  unfold commitRx
  split
  · extract_lets stored s1
    have closed : Reads a v s1 := reads.records (grant_apart (closeItem_apart OnlyRecords.refl))
    split
    · exact closed.otherCount apart
    · exact closed
  · exact reads

/-- The pairs of a channel are 64. -/
def PairOk (pair : Option (Nat × Nat)) : Prop := ∀ p, pair = some p → p.1 < 64

theorem pairOf_ok : PairOk (pairOf ch f s) := by
  intro p same
  unfold pairOf at same
  split at same
  · cases same
  · unfold decidePair at same
    obtain ⟨i, found, rfl⟩ := Option.map_eq_some_iff.mp same
    exact List.mem_range.mp (List.mem_of_find?_eq_some found)

theorem pairEnds_reads {r : RxFrame} (few : PairOk r.pair) (reads : Reads (canStat ch 0x380) v s) :
    Reads (canStat ch 0x380) v (pairEnds ch f r h s) := by
  have block : portBlock (chanNum ch) ≤ 0x2400 := by cases ch <;> decide
  unfold pairEnds
  split
  · split
    · exact reads.otherCount (.inl (by simp only [canStat]; omega))
    · exact reads
  · next p pair =>
    have small := few p pair
    have counted : Reads (canStat ch 0x380) v (countWord (pairAddr ch p.1 + 10) s) :=
      reads.otherCount (.inr (by simp only [canStat, pairAddr]; omega))
    split
    · refine frameToEndpoint_reads counted ?_ ?_
      · simp only [canStat]
        omega
      · simp only [canStat]
        omega
    · exact counted

/-! ## A plain reception -/

theorem isBoryel_advance : isBoryel ch f (advance t0 s) = isBoryel ch f s := by
  have chan : byChan (advance t0 s) = byChan s := by rw [byChan, advance_boryel, ← byChan]
  simp only [isBoryel, hasById, TwoWire.runWord_advance, chan, advance_boryel]

theorem decidePair_advance : decidePair ch f (advance t0 s) = decidePair ch f s := by
  have config : running (advance t0 s) = running s := by rw [running, running, advance_mode, advance_cfg]
  simp only [decidePair, pairTakes, runLong, runWord, config]
  rfl

theorem pairOf_advance : pairOf ch f (advance t0 s) = pairOf ch f s := by
  rw [pairOf, isBoryel_advance, decidePair_advance, ← pairOf]

theorem targetOf_advance : targetOf ch f (advance t0 s) = targetOf ch f s := by
  rw [targetOf, isBoryel_advance, pairOf_advance, canOf_advance, ← targetOf]

theorem mayReceive_advance : mayReceive ch f (advance t0 s) = mayReceive ch f s := by
  rw [mayReceive, advance_listens, canOf_advance, ← mayReceive]

theorem mayReceive_listens (may : mayReceive ch f s = true) : canListens ch s = true := by
  simp only [mayReceive, Bool.and_eq_true] at may
  exact may.1.1.1

/-- The control field of a received frame has ended in `y`, with the receive item `item`. -/
structure FieldEnded (ch : Chan) (f : CanFrame) (item : RxOpen) (s y : State) : Prop where
  chan : canOf ch y = { canOf ch s with rx := some ⟨headOf f, isBoryel ch f s, pairOf ch f s, item⟩ }
  power : y.power = s.power
  cfg : y.cfg = s.cfg

theorem fieldEnded {w} {y : State} (row : y = { receiving ch f s item u with verdicts := w }) (kept : OnlyRecords s u) :
    FieldEnded ch f item s y := by
  subst row
  refine ⟨?_, ?_, ?_⟩
  · rw [← canOf_records (ch := ch) kept, canOf_verdicts, canOf_receiving]
  · rw [← kept.power]
    cases ch <;> rfl
  · rw [← kept.cfg]
    cases ch <;> rfl

/-- The frame of a plain reception, with its receive item. -/
def plainRx (ch : Chan) (f : CanFrame) (s : State) (item : RxOpen) : RxFrame := ⟨headOf f, isBoryel ch f s, pairOf ch f s, item⟩

theorem frameReceived_row (plain : PlainReception ch f s)
    (ended : FieldEnded ch f item (advance t0 s) (controlField ch f (advance t0 s))) :
    effCanFrameReceived ch f sof t0 s = pairEnds ch f (plainRx ch f s item) (advance t0 s).time.now
      (commitRx ch f (plainRx ch f s item) sof (rxEnded ch f sof (advance t0 s).time.now (controlField ch f (advance t0 s)))) := by
  obtain ⟨live, may, ok, other⟩ := plain
  obtain ⟨chan, power, -⟩ := ended
  rw [isBoryel_advance, pairOf_advance, canOf_advance] at chan
  have listens : canListens ch (controlField ch f (advance t0 s)) = true := by
    have before := mayReceive_listens may
    simp only [canListens, bankOut] at before ⊢
    rw [chan, power, advance_power]
    exact before
  unfold effCanFrameReceived receiveCan
  extract_lets x s1
  rw [show x.replay.run = false from advance_run.trans live, if_neg Bool.false_ne_true]
  have field_ : s1 = controlField ch f (advance t0 s) := if_pos (mayReceive_advance.trans may)
  rw [field_, chan]
  dsimp only
  rw [if_pos (by rw [listens, ok]; simp)]
  exact completeRx_plain other

/-- What every plain reception brings. -/
theorem frameReceived_counts (inv : Inv s) (plain : PlainReception ch f s)
    (ended : FieldEnded ch f item (advance t0 s) (controlField ch f (advance t0 s))) :
    (canOf ch (effCanFrameReceived ch f sof t0 s)).rx = none ∧
      statWord (canStat ch 0x380) (effCanFrameReceived ch f sof t0 s) = (statWord (canStat ch 0x380) s + 1) % 65536 ∧
      (effCanFrameReceived ch f sof t0 s).mode.cur = s.mode.cur := by
  refine ⟨?_, ?_, cur_of_keeps (effCanFrameReceived_keeps Keeps.refl)⟩
  · rw [frameReceived_row plain ended, pairEnds_chan, commitRx_chan, rxEnded_rx]
  · have reads : Reads (canStat ch 0x380) (statWord (canStat ch 0x380) s) (controlField ch f (advance t0 s)) :=
      (reads_advance (t0 := t0) inv).same (congrArg CfgSt.status ended.cfg)
    rw [frameReceived_row plain ended]
    refine (pairEnds_reads pairOf_ok (commitRx_reads (rxEnded_counts reads) (.inl ?_))).word
    simp only [canStat]
    omega

/-- A frame that goes to no queue leaves no item. -/
theorem fieldEnded_none (free : targetOf ch f s = none) :
    FieldEnded ch f .none (advance t0 s) (controlField ch f (advance t0 s)) := by
  obtain ⟨w, row⟩ := controlField_none (s := advance t0 s) (targetOf_advance.trans free)
  exact fieldEnded row OnlyRecords.refl

theorem rxEnded_after (inv : Inv s) (ended : FieldEnded ch f item (advance t0 s) (controlField ch f (advance t0 s)))
    (far : a + 2 ≤ canStat ch 0x380 ∨ (canStat ch 0x382 ≤ a ∧ a + 2 ≤ canStat ch 0x390)) :
    Reads a (statWord a s) (rxEnded ch f sof h (controlField ch f (advance t0 s))) :=
  rxEnded_other ((reads_advance (t0 := t0) inv).same (congrArg CfgSt.status ended.cfg)) far

/-- A valid frame that no pair takes is counted as ignored. -/
theorem frameReceived_ignored (inv : Inv s) (plain : PlainReception ch f s) (free : targetOf ch f s = none) (none_ : pairOf ch f s = none) :
    statWord (canStat ch 0x386) (effCanFrameReceived ch f sof t0 s) = (statWord (canStat ch 0x386) s + 1) % 65536 := by
  have ended := fieldEnded_none (t0 := t0) free
  have reads := rxEnded_after (sof := sof) (h := (advance t0 s).time.now) (a := canStat ch 0x386) inv ended
    (.inr (by simp only [canStat]; omega))
  have last : pairEnds ch f (plainRx ch f s .none) (advance t0 s).time.now
      (commitRx ch f (plainRx ch f s .none) sof (rxEnded ch f sof (advance t0 s).time.now (controlField ch f (advance t0 s)))) =
      countCan ch 0x386 (rxEnded ch f sof (advance t0 s).time.now (controlField ch f (advance t0 s))) := by
    unfold pairEnds plainRx
    rw [none_]
    rfl
  rw [frameReceived_row plain ended, last]
  exact reads.count.word

/-- A valid frame for an endpoint is counted at its pair. -/
theorem frameReceived_pair {i w : Nat} (inv : Inv s) (plain : PlainReception ch f s) (free : targetOf ch f s = none)
    (taken : pairOf ch f s = some (i, w)) :
    statWord (pairAddr ch i + 10) (effCanFrameReceived ch f sof t0 s) = (statWord (pairAddr ch i + 10) s + 1) % 65536 := by
  have ended := fieldEnded_none (t0 := t0) free
  have few : i < 64 := pairOf_ok _ taken
  have block : portBlock (chanNum ch) ≤ 0x2400 := by cases ch <;> decide
  have reads := rxEnded_after (sof := sof) (h := (advance t0 s).time.now) (a := pairAddr ch i + 10) inv ended
    (.inl (by simp only [canStat, pairAddr]; omega))
  have last : pairEnds ch f (plainRx ch f s .none) (advance t0 s).time.now
      (commitRx ch f (plainRx ch f s .none) sof (rxEnded ch f sof (advance t0 s).time.now (controlField ch f (advance t0 s)))) =
      if 2 ≤ fctlDest w then frameToEndpoint ch f w (advance t0 s).time.now
          (countWord (pairAddr ch i + 10) (rxEnded ch f sof (advance t0 s).time.now (controlField ch f (advance t0 s))))
        else countWord (pairAddr ch i + 10) (rxEnded ch f sof (advance t0 s).time.now (controlField ch f (advance t0 s))) := by
    unfold pairEnds plainRx
    rw [taken]
    rfl
  rw [frameReceived_row plain ended, last]
  have counted := reads.count
  split
  · refine (frameToEndpoint_reads counted ?_ ?_).word
    · simp only [canStat, pairAddr]
      omega
    · simp only [pairAddr]
      omega
  · exact counted.word

/-! ## A frame for a receive queue -/

theorem modCan_spares {g : CanSt → CanSt} (K : Spares q u s) : Spares q u (modCan ch g s) := by
  cases ch
  · exact K.upd rfl rfl rfl
  · exact K.upd rfl rfl rfl

theorem countCan_spares {o : Nat} (K : Spares q u s) : Spares q u (countCan ch o s) := K.upd rfl rfl rfl

theorem canEvent_spares {n : Nat} (K : Spares q u s) : Spares q u (canEvent ch n s) := attend_spares (modCan_spares K)

theorem gainLock_spares (K : Spares q u s) : Spares q u (gainLock s) := by
  unfold gainLock
  exact Spares.ite K (attend_spares (Spares.upd K))

theorem loseLock_spares (K : Spares q u s) : Spares q u (loseLock s) := by
  unfold loseLock
  exact Spares.ite (attend_spares (Spares.upd K)) (Spares.upd K)

theorem withdrawSync_spares (apart : ∀ ch, txQueue ch ≠ q) (K : Spares q u s) : Spares q u (withdrawSync s) := by
  unfold withdrawSync
  extract_lets drop s1
  have dropped : ∀ ch x, Spares q u x → Spares q u (drop ch x) := fun ch _ k => modCan_spares (modQueue_spares (apart ch) k)
  exact Spares.upd (dropped _ _ (dropped _ _ (Spares.ite (grants_spares K) K)))

theorem settleLead_spares (apart : ∀ ch, txQueue ch ≠ q) (K : Spares q u s) : Spares q u (settleLead s) := by
  unfold settleLead
  extract_lets s1
  exact Spares.ite (Spares.ite (gainLock_spares (Spares.upd K)) (loseLock_spares (Spares.upd K)))
    (Spares.ite (withdrawSync_spares apart (loseLock_spares (Spares.upd K))) K)

theorem setCounters_spares {tec recc : Nat} (ring : 48 ≠ q) (apart : ∀ ch, txQueue ch ≠ q) (K : Spares q u s) :
    Spares q u (setCounters ch tec recc h s) := by
  unfold setCounters
  extract_lets old s1 s2 s3 s4
  have start : Spares q u s1 := grant_spares (modCan_spares K)
  have warned : Spares q u s2 := Spares.ite (canEvent_spares start) start
  have passive : Spares q u s3 := Spares.ite (canEvent_spares warned) warned
  have off : Spares q u s4 := countCan_spares (modCan_spares passive)
  exact Spares.ite (settleLead_spares apart (tapTrigger_spares ring (recCanEvent_spares ring (canEvent_spares off)))) passive

theorem recAfterRx_spares (ring : 48 ≠ q) (apart : ∀ ch, txQueue ch ≠ q) (K : Spares q u s) : Spares q u (recAfterRx ch h s) := by
  rcases recAfterRx_form (ch := ch) (h := h) (s := s) with same | ⟨recc, same | same⟩
  · rw [same]
    exact K
  · rw [same]
    exact setCounters_spares ring apart K
  · rw [same]
    exact (setCounters_spares ring apart K).upd rfl rfl rfl

theorem rxEnded_spares (ring : 48 ≠ q) (apart : ∀ ch, txQueue ch ≠ q) : Spares q s (rxEnded ch f sof h s) := by
  have recorded : Spares q s (modCan ch (fun c => { c with rx := none }) (recCan ch 0 0 f h sof (frameEnds ch s))) :=
    modCan_spares (recCan_spares ring (grants_spares Spares.refl))
  exact recAfterRx_spares ring apart (countCan_spares recorded)

/-- The item of a received frame, from its reservation on. -/
def rxItem (ch : Chan) (cells : List Nat) : OpenItem := ⟨.canRx ch, cells, 0, [], false, none⟩

theorem controlField_reserves {cells : Nat} (inside : q < s.pool.queues.length) (room : canReserve q cells s = true)
    (works : qmgrDropped s = false) (ring : s.tap.kept = []) (fresh : openOf q (.canRx ch) s = none) :
    ∃ u got, reserve q cells (.canRx ch) 0 s = some u ∧ openOf q (.canRx ch) u = some (rxItem ch got) ∧ u.rein = s.rein ∧ OnlyRecords s u := by
  have reserved : reserve q cells (.canRx ch) 0 s = some (grants [(264, !(Producer.canRx ch).isHost), (263, true), (262, false)]
      (openItem q cells (.canRx ch) 0 s)) := if_pos (by simp [room, works, ring])
  obtain ⟨got, opened⟩ := openOf_openItem (n := cells) (prio := 0) inside fresh
  refine ⟨_, got, reserved, ?_, ?_, reserve_apart OnlyRecords.refl reserved⟩
  · rw [openOf, queueOf, grants_pool]
    exact opened
  · rw [grants_rein]
    rfl

theorem commitRx_pool {r : RxFrame} (item_ : r.item = .opened q) :
    (commitRx ch f r sof s).pool = (closeItem q (.canRx ch) (canItem f r.pair sof) 0 s).pool := by
  have counted : ∀ (b : Bool) (x : State), (if b then countCan ch 0x382 x else x).pool = x.pool := by
    intro b x
    cases b
    · rfl
    · rfl
  unfold commitRx
  rw [item_]
  exact (counted _ _).trans grant_pool

theorem commitRx_stores {r : RxFrame} {cells : List Nat} (item_ : r.item = .opened q) (open_ : openOf q (.canRx ch) s = some (rxItem ch cells))
    (free : s.rein.stall ≠ some (.queue q)) : ∃ i ∈ (queueOf q (commitRx ch f r sof s)).items, i.bytes = canItem f r.pair sof := by
  obtain ⟨i, member, bytes⟩ := closeItem_stores (bs := canItem f r.pair sof) (kind := 0) open_ rfl free
  refine ⟨i, ?_, bytes.trans (List.nil_append _)⟩
  rw [queueOf, commitRx_pool item_]
  exact member

theorem canReserve_advance {n : Nat} : canReserve q n (advance t0 s) = canReserve q n s := by
  simp only [canReserve, queueOf, sharedCells, advance_pool]
  rfl

/-- A valid frame for a receive queue is committed there. -/
theorem frameReceived_stored (inv : Inv s) (plain : PlainReception ch f s) (bound : targetOf ch f s = some k) (small : k < 2)
    (room : canReserve (rxQueue ch k) (cellsFor (12 + headBytes f)) s = true) (works : qmgrDropped s = false) (ring : s.tap.kept = [])
    (fresh : openOf (rxQueue ch k) (.canRx ch) s = none) (free : s.rein.stall ≠ some (.queue (rxQueue ch k))) :
    FieldEnded ch f (.opened (rxQueue ch k)) (advance t0 s) (controlField ch f (advance t0 s)) ∧
      ∃ i ∈ (queueOf (rxQueue ch k) (effCanFrameReceived ch f sof t0 s)).items, i.bytes = canItem f (pairOf ch f s) sof := by
  obtain ⟨least, most⟩ := rxQueue_bounds (ch := ch) small
  have ringApart : 48 ≠ rxQueue ch k := by omega
  have txApart : ∀ c, txQueue c ≠ rxQueue ch k := by
    intro c
    have : 36 ≤ txQueue c := by cases c <;> decide
    omega
  obtain ⟨u, got, reserved, opened, rein, kept⟩ := controlField_reserves (ch := ch) (s := advance t0 s) (q := rxQueue ch k)
    (by rw [advance_pool, queues_of_inv inv]; omega) (canReserve_advance.trans room) (by rw [qmgrDropped, advance_power]; exact works)
    (by rw [advance_tap]; exact ring) (by rw [openOf, Queues.queueOf_advance]; exact fresh)
  obtain ⟨w, row⟩ := controlField_opened (targetOf_advance.trans bound) reserved
  have ended : FieldEnded ch f (.opened (rxQueue ch k)) (advance t0 s) (controlField ch f (advance t0 s)) := fieldEnded row kept
  refine ⟨ended, ?_⟩
  have open_ : openOf (rxQueue ch k) (.canRx ch) (controlField ch f (advance t0 s)) = some (rxItem ch got) := by
    rw [row, openOf, queueOf]
    change ((receiving ch f _ _ u).pool.queues.getD _ _).opens.find? _ = _
    rw [receiving_pool]
    exact opened
  have unstalled : (controlField ch f (advance t0 s)).rein.stall ≠ some (.queue (rxQueue ch k)) := by
    have same : (controlField ch f (advance t0 s)).rein = s.rein := by
      rw [row]
      exact receiving_rein.trans (rein.trans advance_rein)
    rw [same]
    exact free
  have spared := rxEnded_spares (f := f) (sof := sof) (h := (advance t0 s).time.now) (ch := ch) (s := controlField ch f (advance t0 s))
    ringApart txApart
  have late : openOf (rxQueue ch k) (.canRx ch) (rxEnded ch f sof (advance t0 s).time.now (controlField ch f (advance t0 s))) =
      some (rxItem ch got) := by
    rw [openOf, spared.queue unstalled]
    exact open_
  rw [frameReceived_row plain ended, queueOf, pairEnds_pool]
  exact commitRx_stores rfl late (spared.stall unstalled)

/-- Settles O52. -/
theorem canReception : Obligations.CanReception := by
  intro ch f s inv c count mine pair target receives
  refine ⟨fun live may => ?_, fun sof t0 plain => ?_⟩
  · have row : effControlFieldEnd ch f s = controlField ch f s := if_pos (by rw [live, may]; rfl)
    refine ⟨fun free => ?_, fun k bound => ⟨fun u room => ?_, fun full small => ?_⟩⟩
    · obtain ⟨w, decided⟩ := controlField_none (ch := ch) (f := f) (s := s) free
      exact ⟨w, next_congr (row.trans decided)⟩
    · obtain ⟨w, decided⟩ := controlField_opened (ch := ch) (f := f) (s := s) bound room
      exact ⟨w, next_congr (row.trans decided)⟩
    · have inside : rxQueue ch k < s.pool.queues.length := by
        rw [queues_of_inv inv]
        exact Nat.lt_trans (rxQueue_bounds small).2 (by decide)
      obtain ⟨lost, marked, event, counted⟩ := controlField_drops (v := statWord (canStat ch 0x384) s) inside bound full
        ⟨Lanes.status_of_inv inv, rfl⟩
      exact ⟨_, next_congr row, lost, marked, event, counted.word⟩
  · have brings : ∀ {item : RxOpen} {r : State → Prop}, FieldEnded ch f item (advance t0 s) (controlField ch f (advance t0 s)) →
        r (effCanFrameReceived ch f sof t0 s) → ∃ t, exec (.canFrameReceived ch f sof t0) s = .next t ∧ (canOf ch t).rx = none ∧
          count 0x380 t = (count 0x380 s + 1) % 65536 ∧ t.mode.cur = s.mode.cur ∧ r t := fun ended holds => by
      obtain ⟨idle, counted, mode⟩ := frameReceived_counts inv plain ended
      exact ⟨_, rfl, idle, counted, mode, holds⟩
    refine ⟨fun free none_ => ?_, fun i w taken free => ?_, fun k bound small => ?_⟩
    · exact brings (fieldEnded_none free) (frameReceived_ignored inv plain free none_)
    · exact brings (fieldEnded_none free) (frameReceived_pair inv plain free taken)
    · intro q room works ring fresh unstalled
      obtain ⟨ended, stored⟩ := frameReceived_stored (t0 := t0) (sof := sof) inv plain bound small room works ring fresh unstalled
      exact brings ended stored

end Sys2Proof.Proofs.CanReceiving

/-! PROOFS. The read ports and the transmit data register of a CAN channel (R279 to R283). -/

namespace Sys2Proof.Proofs.CanPort

set_option Elab.async false

open Sys2Proof.Machine Sys2Proof.Safety Sys2Proof.Laws Sys2Proof.Proofs.Shared Sys2Proof.Proofs.Grants Sys2Proof.Proofs.HostAccess
  Sys2Proof.Proofs.Queues Sys2Proof.Proofs.CanState Sys2Proof.Proofs.CanChannel

variable {s t u x : State} {ch : Chan} {q : Nat} {v : Word} {stallOk : Bool}

/-! ## Read ports -/

theorem takeShadow_full {r : ReadItem} (full : canShadow q (canOf ch s) = some r) :
    ∃ w, takeShadow ch q s = some (r.header, { modCan ch (setPort q (some r) none) s with verdicts := w }) := by
  unfold takeShadow
  rw [full]
  obtain ⟨w, granted⟩ := grant_alike (p := canPoint ch + q) (b := false) (s := modCan ch (setPort q (some r) none) s)
  exact ⟨w, congrArg (fun y => some (r.header, y)) granted⟩

theorem takeShadow_empty (empty : canShadow q (canOf ch s) = none) : takeShadow ch q s = none := by
  unfold takeShadow
  rw [empty]

theorem readRxq_front {r : ReadItem} (front : canFront q (canOf ch s) = some r) : ∃ w, readRxq ch q stallOk s =
    answer r.word.1 { modQueue (rxQueue ch q) (fun y => { y with pois := y.pois || r.word.2 })
      (modCan ch (setPort q r.step (canShadow q (canOf ch s))) s) with verdicts := w } := by
  unfold readRxq
  rw [front]
  obtain ⟨w, granted⟩ := grant_alike (p := canPoint ch + 2 + q) (b := false) (s := modCan ch (setPort q r.step (canShadow q (canOf ch s))) s)
  exact ⟨w, congrArg (fun y => answer r.word.1 (modQueue (rxQueue ch q) (fun y => { y with pois := y.pois || r.word.2 }) y)) granted⟩

theorem readRxq_shadow {r : ReadItem} (idle : canFront q (canOf ch s) = none) (full : canShadow q (canOf ch s) = some r) :
    ∃ w, readRxq ch q stallOk s = answer r.header { modCan ch (setPort q (some r) none) s with verdicts := w } := by
  obtain ⟨w, taken⟩ := takeShadow_full (ch := ch) (s := s) full
  unfold readRxq
  rw [idle]
  dsimp only
  rw [taken]
  exact ⟨w, rfl⟩

theorem readRxq_empty (idle : canFront q (canOf ch s) = none) (empty : canShadow q (canOf ch s) = none) : readRxq ch q stallOk s =
    answer 0x8000 (if stallOk && s.pool.stallTmo != 0 then { s with rein := { s.rein with stall := some (.can ch q) } } else s) := by
  unfold readRxq
  rw [idle]
  dsimp only
  rw [takeShadow_empty empty]
  dsimp only
  split
  · rfl
  · rfl

/-- The shadow loaded with the item `r`. -/
theorem serveCanStall_idle (free : s.rein.stall = none) : serveCanStall s = s := by
  unfold serveCanStall
  rw [free]

theorem serveCanStall_serves {r : ReadItem} (waits : s.rein.stall = some (.can ch q)) (full : canShadow q (canOf ch s) = some r) :
    ∃ w, serveCanStall s = { modCan ch (setPort q (some r) none) s with
      verdicts := w, rein := { s.rein with stall := none, res := r.header, adre := false } } := by
  obtain ⟨w, taken⟩ := takeShadow_full (ch := ch) (s := s) full
  unfold serveCanStall
  rw [waits]
  dsimp only
  rw [taken]
  obtain ⟨w', granted⟩ := grants_alike (l := [(42, true), (43, false)]) (s := { modCan ch (setPort q (some r) none) s with
    verdicts := w, rein := { (modCan ch (setPort q (some r) none) s).rein with stall := none, res := r.header, adre := false } })
  refine ⟨w', granted.trans ?_⟩
  cases ch <;> rfl

theorem canShadow_setPort {front shadow : Option ReadItem} {c : CanSt} : canShadow q (setPort q front shadow c) = shadow := by
  unfold canShadow setPort
  split <;> rfl

theorem canFront_setPort {front shadow : Option ReadItem} {c : CanSt} : canFront q (setPort q front shadow c) = front := by
  unfold canFront setPort
  split <;> rfl

theorem takeItem_rein {i : Item} (took : takeItem q s = some (i, u)) : u.rein = s.rein := by
  unfold takeItem at took
  split at took
  · cases took
  · split at took
    · cases took
      rw [grants_rein]
      rfl
    · cases took

/-- The hub whose shadow has taken the item `i`, before a stalled read is served. -/
theorem loadShadow_row {i : Item} (empty : canShadow q (canOf ch s) = none) (free : heldUp (canPoint ch + q) true s = false)
    (took : takeItem (rxQueue ch q) s = some (i, u)) : ∃ w, loadShadow ch q s =
      serveCanStall { modCan ch (fun c => setPort q (canFront q c) (some (readItemOf i [])) c) u with verdicts := w } := by
  unfold loadShadow
  rw [if_neg (by simp [empty, free]), took]
  obtain ⟨w, granted⟩ := grant_alike (p := canPoint ch + q) (b := true)
    (s := modCan ch (fun c => setPort q (canFront q c) (some (readItemOf i [])) c) u)
  exact ⟨w, congrArg serveCanStall granted⟩

/-! ## The transmit data register -/

theorem txdataWrite_row {r : Reply} (h : HostServed s) (quiet : s.tap.recording = false) (does : txdataWrite ch v s = r)
    (same : SameTap s r.s) : exec (.canTxdataWrite ch v) s = .next (intoReply { r with val := v }) :=
  next_congr (writeRow_quiet h quiet does same.power same.tap)

theorem modCan_tap {f : CanSt → CanSt} (K : SameTap u s) : SameTap u (modCan ch f s) := by
  obtain ⟨power, tap⟩ := K
  cases ch
  · exact ⟨power, tap⟩
  · exact ⟨power, tap⟩

theorem canEvent_tap {n : Nat} (K : SameTap u s) : SameTap u (canEvent ch n s) := by
  obtain ⟨power, tap⟩ := modCan_tap (ch := ch) (f := fun c => { c with evt := setBit c.evt n }) K
  exact ⟨by rw [canEvent, attend_power, power], by rw [canEvent, attend_tap, tap]⟩

theorem reserve_tap {n : Nat} {who : Producer} {prio : BitVec 3} (e : reserve q n who prio s = some t) : SameTap s t := by
  unfold reserve at e
  split at e
  · cases e
    refine ⟨?_, ?_⟩
    · rw [grants_power]
      rfl
    · rw [grants_tap]
      rfl
  · cases e

/-- The open item of the host, with one more word. -/
def moreTx (ch : Chan) (v : Word) (o : TxOpen) (s : State) : State :=
  writeOpen (txQueue ch) (.canTxHost ch) (leBytes 2 v.toNat) (modCan ch (fun c => { c with txData := v, txOpen := some o }) s)

theorem moreTx_tap {o : TxOpen} (K : SameTap u s) : SameTap u (moreTx ch v o s) := writeOpen_tap (modCan_tap K)

theorem growTx_more {o : TxOpen} (more : 1 < o.need) : growTx ch v o s = moreTx ch v { o with need := o.need - 1 } s := if_pos more

/-- The host's item closed with its last word. -/
def lastTx (ch : Chan) (v : Word) (left : Nat) (s : State) : State :=
  closeItem (txQueue ch) (.canTxHost ch) ((leBytes 2 v.toNat).take left) 0 (modCan ch (fun c => { c with txData := v, txOpen := none }) s)

theorem lastTx_tap {left : Nat} (K : SameTap u s) : SameTap u (lastTx ch v left s) := closeItem_tap (modCan_tap K)

theorem growTx_last {o : TxOpen} {i : OpenItem} (h : HostServed s) (quiet : s.tap.recording = false) (last : o.need ≤ 1)
    (open_ : openOf (txQueue ch) (.canTxHost ch) s = some i) : growTx ch v o s = lastTx ch v (o.size - i.bytes.length) s := by
  have tap := (lastTx_tap (ch := ch) (v := v) (left := o.size - i.bytes.length) (SameTap.refl (s := s))).tap
  have replay : (lastTx ch v (o.size - i.bytes.length) s).replay = s.replay :=
    (closeItem_apart OnlyRecords.refl).replay.trans modCan_replay
  unfold growTx
  rw [if_neg (by omega)]
  simp only [open_]
  exact grants_quiet ((congrArg ReplaySt.run replay).trans h.2) ((congrArg TapSt.recording tap).trans quiet)

theorem txdataWrite_open (fresh : (canOf ch s).txSkip = 0) (works : qmgrDropped s = false)
    (calm : (queueOf (txQueue ch) s).doom = false) : txdataWrite ch v s =
    match (canOf ch s).txOpen with
    | some o => wrote (growTx ch v o s)
    | none =>
      let size := 6 + dlcBytes (nbit v.toNat 4) (field v.toNat 0 4)
      if txBad (canOf ch s) v.toNat then refuseTx ch v.toNat s
      else
        match reserve (txQueue ch) (cellsFor size) (.canTxHost ch) (BitVec.ofNat 3 (field v.toNat 8 3)) s with
        | none => refuseTx ch v.toNat (markNoSpace (txQueue ch) s)
        | some s1 => wrote (growTx ch v ⟨size, txWords v.toNat + 1⟩ s1) :=
  (if_neg (by omega)).trans (if_neg (by rw [works, calm]; exact Bool.false_ne_true))

section Cases

variable (h : HostServed s) (quiet : s.tap.recording = false)

include h quiet

theorem txdata_skips (skip : (canOf ch s).txSkip ≠ 0) :
    exec (.canTxdataWrite ch v) s = .next (intoReply ⟨v, true, modCan ch (fun c => { c with txSkip := c.txSkip - 1 }) s⟩) :=
  txdataWrite_row h quiet (r := denied (modCan ch (fun c => { c with txSkip := c.txSkip - 1 }) s)) (if_pos (Nat.pos_of_ne_zero skip))
    (modCan_tap (ch := ch) (f := fun c => { c with txSkip := c.txSkip - 1 }) (SameTap.refl (s := s)))

theorem txdata_closed (fresh : (canOf ch s).txSkip = 0) (closed : qmgrDropped s = true ∨ (queueOf (txQueue ch) s).doom = true) :
    exec (.canTxdataWrite ch v) s = .next (intoReply ⟨v, true, s⟩) :=
  txdataWrite_row h quiet (r := denied s) ((if_neg (by omega)).trans (if_pos (by simpa using closed))) SameTap.refl

variable (fresh : (canOf ch s).txSkip = 0) (works : qmgrDropped s = false) (calm : (queueOf (txQueue ch) s).doom = false)

include fresh works calm

theorem txdata_grows {o : TxOpen} (open_ : (canOf ch s).txOpen = some o) (more : 1 < o.need) :
    exec (.canTxdataWrite ch v) s = .next (intoReply ⟨v, false, moreTx ch v { o with need := o.need - 1 } s⟩) := by
  refine txdataWrite_row h quiet (r := wrote (moreTx ch v { o with need := o.need - 1 } s)) ?_ (moreTx_tap SameTap.refl)
  rw [txdataWrite_open fresh works calm, open_]
  exact congrArg wrote (growTx_more more)

theorem txdata_closes {o : TxOpen} {i : OpenItem} (open_ : (canOf ch s).txOpen = some o) (last : o.need ≤ 1)
    (item : openOf (txQueue ch) (.canTxHost ch) s = some i) :
    exec (.canTxdataWrite ch v) s = .next (intoReply ⟨v, false, lastTx ch v (o.size - i.bytes.length) s⟩) := by
  refine txdataWrite_row h quiet (r := wrote (lastTx ch v (o.size - i.bytes.length) s)) ?_ (lastTx_tap SameTap.refl)
  rw [txdataWrite_open fresh works calm, open_]
  exact congrArg wrote (growTx_last h quiet last item)

theorem txdata_refused (idle : (canOf ch s).txOpen = none) (bad : txBad (canOf ch s) v.toNat = true ∨
    reserve (txQueue ch) (cellsFor (6 + dlcBytes (nbit v.toNat 4) (field v.toNat 0 4))) (.canTxHost ch)
      (BitVec.ofNat 3 (field v.toNat 8 3)) s = none) :
    ∃ t, exec (.canTxdataWrite ch v) s = .next t ∧ t.rein.adre = true ∧ (canOf ch t).txSkip = txWords v.toNat ∧
      (canOf ch t).evt.getLsbD 5 = true := by
  have refused : ∃ x, OnlyRecords s x ∧ SameTap s x ∧ txdataWrite ch v s = refuseTx ch v.toNat x := by
    rw [txdataWrite_open fresh works calm, idle]
    by_cases word : txBad (canOf ch s) v.toNat = true
    · exact ⟨s, OnlyRecords.refl, SameTap.refl, if_pos word⟩
    · refine ⟨markNoSpace (txQueue ch) s, modQueue_apart OnlyRecords.refl, ⟨rfl, rfl⟩, (if_neg word).trans ?_⟩
      rw [bad.resolve_left word]
  obtain ⟨x, kept, same, row⟩ := refused
  refine ⟨_, txdataWrite_row h quiet row (canEvent_tap (modCan_tap same)), rfl, ?_⟩
  change (canOf ch (intoReply { refuseTx ch v.toNat x with val := v })).txSkip = _ ∧ _
  have chan : canOf ch (intoReply { refuseTx ch v.toNat x with val := v }) =
      { canOf ch s with txSkip := txWords v.toNat, evt := setBit (canOf ch s).evt 5 } := by
    rw [← canOf_records (ch := ch) kept]
    have here : canOf ch (refuseTx ch v.toNat x).s = { canOf ch x with txSkip := txWords v.toNat, evt := setBit (canOf ch x).evt 5 } := by
      rw [refuseTx, denied, canOf_canEvent, modCan_self]
    rw [← here]
    cases ch <;> rfl
  rw [chan]
  exact ⟨rfl, setBit_self (by decide)⟩

theorem txdata_opens {u : State} (idle : (canOf ch s).txOpen = none) (good : txBad (canOf ch s) v.toNat = false)
    (room : reserve (txQueue ch) (cellsFor (6 + dlcBytes (nbit v.toNat 4) (field v.toNat 0 4))) (.canTxHost ch)
      (BitVec.ofNat 3 (field v.toNat 8 3)) s = some u) :
    exec (.canTxdataWrite ch v) s = .next (intoReply ⟨v, false,
      moreTx ch v ⟨6 + dlcBytes (nbit v.toNat 4) (field v.toNat 0 4), txWords v.toNat⟩ u⟩) := by
  refine txdataWrite_row h quiet (r := wrote (moreTx ch v ⟨6 + dlcBytes (nbit v.toNat 4) (field v.toNat 0 4), txWords v.toNat⟩ u)) ?_
    (moreTx_tap (reserve_tap room))
  rw [txdataWrite_open fresh works calm, idle]
  dsimp only
  rw [good, if_neg Bool.false_ne_true, room]
  refine congrArg wrote (growTx_more ?_)
  change 1 < txWords v.toNat + 1
  unfold txWords
  omega

end Cases

/-- Settles O53. -/
theorem canPorts : Obligations.CanPorts := by
  intro ch s c
  refine ⟨fun q stallOk t0 served => ?_, fun q => ⟨?_, fun empty free => ⟨fun none_ => ?_, fun i u took => ?_⟩⟩, fun v served quiet => ?_⟩
  · intro u reads
    have same : ∀ w, canOf ch { u with verdicts := w } = c := fun w => canOf_verdicts.trans canOf_advance
    have answers : ∀ {r : Word} {x : State}, (∀ w, ∃ w', readRxq ch q.val stallOk { u with verdicts := w } =
        answer r { x with verdicts := w' }) → reads r x := fun does => gives_readRow served rfl does
    refine ⟨fun r front => answers fun w => ?_, fun idle => ⟨fun r full => answers fun w => ?_, fun empty => answers fun w => ?_⟩⟩
    · obtain ⟨w', row⟩ := readRxq_front (ch := ch) (q := q.val) (stallOk := stallOk) (s := { u with verdicts := w })
        (by rw [same]; exact front)
      refine ⟨w', row.trans ?_⟩
      rw [same]
      cases ch <;> rfl
    · obtain ⟨w', row⟩ := readRxq_shadow (ch := ch) (q := q.val) (stallOk := stallOk) (s := { u with verdicts := w })
        (by rw [same]; exact idle) (by rw [same]; exact full)
      refine ⟨w', row.trans ?_⟩
      cases ch <;> rfl
    · refine ⟨w, (readRxq_empty (by rw [same]; exact idle) (by rw [same]; exact empty)).trans ?_⟩
      have tmo : u.pool.stallTmo = s.pool.stallTmo := by rw [show u.pool = s.pool from advance_pool]
      rw [← tmo]
      dsimp only
      split
      · rfl
      · rfl
  · rintro (full | waits)
    · refine next_congr (if_pos ?_)
      rw [Option.isSome_iff_ne_none.mpr full, Bool.true_or]
    · exact next_congr (if_pos (by rw [waits, Bool.or_true]))
  · refine next_congr ((if_neg ?_).trans ?_)
    · rw [show canShadow q.val (canOf ch s) = none from empty, free]
      exact Bool.false_ne_true
    · rw [none_]
  · intro r
    obtain ⟨w, row⟩ := loadShadow_row (ch := ch) empty free took
    have rein : (modCan ch (fun c => setPort q.val (canFront q.val c) (some r) c) u).rein = s.rein := modCan_rein.trans (takeItem_rein took)
    refine ⟨fun idle => ⟨w, next_congr (row.trans (serveCanStall_idle ?_))⟩, fun waits => ?_⟩
    · change (modCan ch (fun c => setPort q.val (canFront q.val c) (some r) c) u).rein.stall = none
      rw [rein]
      exact idle
    · have full : canShadow q.val (canOf ch (modCan ch (fun c => setPort q.val (canFront q.val c) (some r) c) u)) = some r := by
        rw [modCan_self, canShadow_setPort]
      obtain ⟨w', served⟩ := serveCanStall_serves (ch := ch) (q := q.val) (r := r)
        (s := { modCan ch (fun c => setPort q.val (canFront q.val c) (some r) c) u with verdicts := w })
        (by rw [← waits]; exact congrArg ReinSt.stall rein) (by rw [canOf_verdicts]; exact full)
      have port : canOf ch (loadShadow ch q.val s) = setPort q.val (some r) none
          (canOf ch (modCan ch (fun c => setPort q.val (canFront q.val c) (some r) c) u)) := by
        rw [row, served]
        cases ch <;> rfl
      refine ⟨loadShadow ch q.val s, rfl, ?_, ?_, ?_⟩
      · rw [row, served, ← rein]
      · rw [port, canFront_setPort]
      · rw [port, canShadow_setPort]
  · intro writes p
    refine ⟨txdata_skips served quiet, txdata_closed served quiet, fun fresh works calm => ?_⟩
    intro goesOn
    refine ⟨fun o open_ => ⟨txdata_grows served quiet fresh works calm open_, fun last i => txdata_closes served quiet fresh works calm open_ last⟩,
      fun idle => ?_⟩
    intro size prio
    exact ⟨txdata_refused served quiet fresh works calm idle, fun good u room => txdata_opens served quiet fresh works calm idle good room⟩

end Sys2Proof.Proofs.CanPort

/-! PROOFS. What the operations of a queue touch (chapter 11): the pool, the verdicts of their grants, and the next reply where a stalled read
is served. -/

namespace Sys2Proof.Proofs.QueueReach

set_option Elab.async false

open Sys2Proof.Machine Sys2Proof.Safety Sys2Proof.Laws Sys2Proof.Proofs.Grants

variable {b0 s t : State} {q n : Nat} {who : Producer} {prio : BitVec 3} {bs : List Byte} {kind : Byte}

/-- `t` is `s` but for the pool, the verdicts, and the result and the stall of the next reply. -/
def Reaches (s t : State) : Prop := ∃ pool v stall res adre,
  t = { s with pool := pool, verdicts := v, rein := { s.rein with stall := stall, res := res, adre := adre } }

theorem Reaches.refl : Reaches s s := ⟨_, _, _, _, _, rfl⟩

theorem Reaches.trans (h : Reaches b0 s) (k : Reaches s t) : Reaches b0 t := by
  obtain ⟨_, _, _, _, _, rfl⟩ := h
  obtain ⟨pool, v, stall, res, adre, rfl⟩ := k
  exact ⟨pool, v, stall, res, adre, rfl⟩

theorem Reaches.alike (h : Reaches b0 s) (k : Alike s t) : Reaches b0 t := by
  obtain ⟨v, rfl⟩ := k
  exact h.trans ⟨_, v, _, _, _, rfl⟩

theorem Reaches.pool {pool : PoolSt} (h : Reaches b0 s) : Reaches b0 { s with pool := pool } := h.trans ⟨pool, _, _, _, _, rfl⟩

theorem serveStall_reaches (h : Reaches b0 s) : Reaches b0 (serveStall s) := by
  unfold serveStall
  split
  · split
    · exact h
    · next p _ =>
      have served : Reaches b0 { s with rein := { s.rein with stall := none, res := p.1, adre := false } } := h.trans ⟨_, _, _, _, _, rfl⟩
      exact (served.pool.alike grants_alike).alike grant_alike
  · exact h

theorem writeOpen_reaches (h : Reaches b0 s) : Reaches b0 (writeOpen q who bs s) := by
  unfold writeOpen
  split
  · exact h
  · exact (h.pool.pool).alike grants_alike

theorem closeItem_reaches (h : Reaches b0 s) : Reaches b0 (closeItem q who bs kind s) := by
  unfold closeItem
  extract_lets s1
  have written : Reaches b0 s1 := writeOpen_reaches h
  split
  · exact written
  · split
    · exact (written.pool.pool).alike grant_alike
    · extract_lets k s2
      have closed : Reaches b0 s2 := written.pool
      refine serveStall_reaches (Reaches.alike ?_ grant_alike)
      split
      · exact closed.alike grant_alike
      · exact closed

theorem reserve_reaches (h : Reaches b0 s) (e : reserve q n who prio s = some t) : Reaches b0 t := by
  unfold reserve at e
  split at e
  · cases e
    exact (h.pool.pool).alike grants_alike
  · cases e

theorem putItem_reaches (h : Reaches b0 s) (e : putItem q who prio bs kind s = some t) : Reaches b0 t := by
  unfold putItem at e
  split at e
  · cases e
  · next got =>
    cases e
    exact closeItem_reaches (reserve_reaches h got)

theorem takeItem_reaches {i : Item} (h : Reaches b0 s) (e : takeItem q s = some (i, t)) : Reaches b0 t := by
  unfold takeItem at e
  split at e
  · cases e
  · split at e
    · cases e
      exact h.pool.alike grants_alike
    · cases e

theorem skipBad_reaches (h : Reaches b0 s) : Reaches b0 (skipBad n q s) := by
  induction n generalizing s with
  | zero => exact h
  | succ n ih =>
    unfold skipBad
    split
    · exact h
    · next p took =>
      split
      · exact ih (takeItem_reaches h took)
      · exact h

end Sys2Proof.Proofs.QueueReach

/-! PROOFS. An S port with one of its counters, and what its operations leave of both (chapter 13). -/

namespace Sys2Proof.Proofs.SerialState

set_option Elab.async false

open Sys2Proof.Machine Sys2Proof.Safety Sys2Proof.Laws Sys2Proof.Proofs.Shared Sys2Proof.Proofs.Grants Sys2Proof.Proofs.Lanes
  Sys2Proof.Proofs.Beside Sys2Proof.Proofs.WireSteps Sys2Proof.Proofs.CanState Sys2Proof.Proofs.QueueReach

variable {b0 s t u : State} {p a b v n : Nat} {X Y : SPortSt → Prop} {f : SPortSt → SPortSt} {t0 : HubTime}

/-! ## A port and one of its counters -/

/-- S port `p` is as `X` says, and the status word at `a` is `v`. -/
structure Bears (p : Nat) (X : SPortSt → Prop) (a v : Nat) (t : State) : Prop where
  port : X (sportOf p t)
  inside : p < t.sports.length
  reads : Reads a v t

theorem Bears.weaken (h : Bears p X a v s) (k : ∀ x, X x → Y x) : Bears p Y a v s := ⟨k _ h.port, h.inside, h.reads⟩

theorem Bears.same (h : Bears p X a v s) (sports : t.sports = s.sports) (status : t.cfg.status = s.cfg.status) : Bears p X a v t := by
  obtain ⟨port, inside, reads⟩ := h
  refine ⟨?_, by rw [sports]; exact inside, reads.same status⟩
  rw [sportOf, sports]
  exact port

theorem Bears.records (h : Bears p X a v s) (k : OnlyRecords s t) : Bears p X a v t := h.same k.sports (congrArg CfgSt.status k.cfg)

theorem Bears.reaches (h : Bears p X a v s) (k : Reaches s t) : Bears p X a v t := by
  obtain ⟨_, _, _, _, _, rfl⟩ := k
  exact h.same rfl rfl

theorem Bears.mod (h : Bears p X a v s) (k : ∀ x, X x → Y (f x)) : Bears p Y a v (modSPort p f s) := by
  obtain ⟨port, inside, reads⟩ := h
  refine ⟨?_, ?_, reads.same rfl⟩
  · rw [sportOf_modSPort inside]
    exact k _ port
  · rw [modSPort_sports, modifyNth_length]
    exact inside

theorem Bears.stick (h : Bears p X a v s) (k : ∀ x, X x → X { x with sticky := setBit x.sticky n }) : Bears p X a v (stickS p n s) := h.mod k

theorem Bears.count (h : Bears p X a v s) : Bears p X a ((v + 1) % 65536) (countWord a s) := ⟨h.port, h.inside, h.reads.count⟩

theorem Bears.other {w : Nat} (h : Bears p X a v s) (apart : a + 2 ≤ b ∨ b + 2 ≤ a) : Bears p X a v (setStatWord b w s) :=
  ⟨h.port, h.inside, h.reads.other apart⟩

theorem Bears.otherByte {w : Nat} (h : Bears p X a v s) (apart : b + 1 ≤ a ∨ a + 2 ≤ b) : Bears p X a v (setStatByte b w s) := by
  obtain ⟨port, inside, wf, word⟩ := h
  refine ⟨port, inside, wf_write wf, ?_⟩
  rw [← word]
  change statByte a _ + 256 * statByte (a + 1) _ = statByte a s + 256 * statByte (a + 1) s
  rw [RunStatus.statByte_setStatByte wf, RunStatus.statByte_setStatByte wf, if_neg (by omega), if_neg (by omega)]

/-! ## The hub that a moment later is the same -/

theorem advance_form : ∃ time clock, advance t0 s = { s with time := time, replay := { s.replay with clock := clock } } := by
  unfold advance
  split
  · exact ⟨_, _, rfl⟩
  · split
    · exact ⟨_, _, rfl⟩
    · exact ⟨_, _, rfl⟩

theorem sportOf_advance : sportOf p (advance t0 s) = sportOf p s := by rw [sportOf, advance_sports, ← sportOf]

theorem bears_advance (inv : Inv s) (port : p < 4) : Bears p (· = sportOf p s) a (statWord a s) (advance t0 s) := by
  obtain ⟨-, sports, -, -⟩ := counts_of_inv inv
  refine ⟨sportOf_advance, ?_, reads_advance inv⟩
  rw [advance_sports, sports]
  exact port

/-! ## A frame of the port -/

/-- The opened frame of `who`. -/
def opened (who : PortUser) (f : SFrame) (x : SPortSt) : SPortSt :=
  let goesOn := x.hold.map Fin.val == some f.sel
  { x with frame := f, last := who, hold := if goesOn then x.hold else none, wcnt := if goesOn then x.wcnt else 0 }

theorem sendFrame_bears {who : PortUser} {f : SFrame} {out : SOut} (h : Bears p X a v s)
    (k : ∀ x, X x → Y { opened who f x with out := out }) : Bears p Y a v (sendFrame p who f out s) := by
  have began : Bears p (fun y => ∃ x, X x ∧ y = opened who f x) a v (openFrame p who f s) :=
    (h.mod fun x there => ⟨x, there, rfl⟩).records (grants_apart OnlyRecords.refl)
  refine began.mod ?_
  rintro _ ⟨x, there, rfl⟩
  exact k x there

/-- The bytes of the safety status of select `sel` of port `p` lie below its statistics. -/
theorem selBlock_low {sel o : Nat} (small : sel < 8) (low : o ≤ 0xE) : selBlock p sel + o + 2 ≤ portBlock (2 + p) + 0x380 := by
  unfold selBlock
  omega

theorem countSelect_bears {sel o : Nat} (h : Bears p X a v s) (small : sel < 8) (low : o ≤ 0xE) (high : portBlock (2 + p) + 0x380 ≤ a) :
    Bears p X a v (countSelect p sel o s) := by
  have := selBlock_low (p := p) small low
  exact h.otherByte (.inl (by omega))

theorem checkTrailer_bears {f : SFrame} {len : Nat} {rx : List Byte} (h : Bears p X a v s) (small : f.sel < 8)
    (high : portBlock (2 + p) + 0x380 ≤ a) : Bears p X a v (checkTrailer p f len rx s).2 := by
  have low := selBlock_low (p := p) (o := 8) small (by decide)
  unfold checkTrailer
  split
  · extract_lets ctl st eref bad s1 s2
    have shown : Bears p X a v s1 := h.other (.inr (by omega))
    have told : Bears p X a v s2 := by
      unfold s2
      split
      · exact countSelect_bears shown small (by decide) high
      · exact shown
    dsimp only
    split
    · exact countSelect_bears told small (by decide) high
    · exact told
  · exact countSelect_bears h small (by decide) high

theorem endByteFrame_bears {f : SFrame} {len : Nat} {rx : List Byte} (h : Bears p X a v s) (small : f.sel < 8)
    (high : portBlock (2 + p) + 0x380 ≤ a) (k : ∀ x, X x → X { x with sticky := setBit x.sticky 8 }) :
    Bears p X a v (endByteFrame p f len rx s).2 := by
  have low := selBlock_low (p := p) (o := 8) small (by decide)
  unfold endByteFrame
  split
  · extract_lets r s1
    have sent : Bears p X a v s1 := (checkTrailer_bears h small high).other (.inr (by omega))
    dsimp only
    split
    · exact sent
    · exact sent.stick k
  · exact h

theorem putRx_bears {bytes : List Byte} (h : Bears p X a v s) (k : ∀ x, X x → X { x with sticky := setBit x.sticky 10 }) :
    Bears p X a v (putRx p bytes s) := by
  unfold putRx
  split
  · next put => exact h.reaches (putItem_reaches Reaches.refl put)
  · exact (h.stick k).records (modQueue_apart OnlyRecords.refl)

/-! ## The other requesters of S0 -/

/-- What the requesters of S0 other than the lanes and the host go by. -/
structure Waits (u t : State) : Prop where
  slow : t.rein.slowPending = u.rein.slowPending
  op : t.op = u.op
  power : t.power = u.power
  mode : t.mode = u.mode
  config : running t = running u
  cache : (sportOf 0 t).cache = (sportOf 0 u).cache
  sfdpRun : (sportOf 0 t).sfdpRun = (sportOf 0 u).sfdpRun
  sfdpSent : (sportOf 0 t).sfdpSent = (sportOf 0 u).sfdpSent

theorem Waits.refl : Waits s s := ⟨rfl, rfl, rfl, rfl, rfl, rfl, rfl, rfl⟩

theorem Waits.trans (h : Waits b0 s) (k : Waits s t) : Waits b0 t :=
  ⟨k.slow.trans h.slow, k.op.trans h.op, k.power.trans h.power, k.mode.trans h.mode, k.config.trans h.config, k.cache.trans h.cache,
    k.sfdpRun.trans h.sfdpRun, k.sfdpSent.trans h.sfdpSent⟩

theorem Waits.reaches (h : Waits b0 s) (k : Reaches s t) : Waits b0 t := by
  obtain ⟨_, _, _, _, _, rfl⟩ := k
  exact h.trans ⟨rfl, rfl, rfl, rfl, rfl, rfl, rfl, rfl⟩

theorem Waits.status {m : Mem} (h : Waits b0 s) : Waits b0 { s with cfg := { s.cfg with status := m } } :=
  h.trans ⟨rfl, rfl, rfl, rfl, rfl, rfl, rfl, rfl⟩

/-- A change of a port that its window does not see. -/
def Unseen (f : SPortSt → SPortSt) : Prop := ∀ x, (f x).cache = x.cache ∧ (f x).sfdpRun = x.sfdpRun ∧ (f x).sfdpSent = x.sfdpSent

theorem sportOf_modSPort_or : sportOf n (modSPort p f s) = sportOf n s ∨ sportOf n (modSPort p f s) = f (sportOf n s) := by
  by_cases here : n = p
  · subst here
    by_cases inside : n < s.sports.length
    · exact .inr (sportOf_modSPort inside)
    · have outside : (modifyNth f n s.sports).length ≤ n := by
        rw [modifyNth_length]
        omega
      refine .inl ?_
      rw [sportOf, sportOf, modSPort_sports, getD_outside outside, getD_outside (by omega)]
  · exact .inl (modifyNth_getD_ne here)

theorem Waits.mod (h : Waits b0 s) (k : Unseen f) : Waits b0 (modSPort p f s) := by
  have port : (sportOf 0 (modSPort p f s)).cache = (sportOf 0 s).cache ∧ (sportOf 0 (modSPort p f s)).sfdpRun = (sportOf 0 s).sfdpRun ∧
      (sportOf 0 (modSPort p f s)).sfdpSent = (sportOf 0 s).sfdpSent := by
    rcases sportOf_modSPort_or (n := 0) (p := p) (f := f) (s := s) with same | same
    · rw [same]
      exact ⟨rfl, rfl, rfl⟩
    · rw [same]
      exact k _
  obtain ⟨cache, run, sent⟩ := port
  exact h.trans ⟨rfl, rfl, rfl, rfl, rfl, cache, run, sent⟩

theorem waits_advance : Waits s (advance t0 s) := by
  obtain ⟨_, _, form⟩ := advance_form (t0 := t0) (s := s)
  rw [form]
  exact ⟨rfl, rfl, rfl, rfl, rfl, rfl, rfl, rfl⟩

theorem sendFrame_waits {who : PortUser} {f : SFrame} {out : SOut} (h : Waits b0 s) : Waits b0 (sendFrame p who f out s) := by
  have changed : Waits b0 (modSPort p (opened who f) s) := h.mod fun _ => ⟨rfl, rfl, rfl⟩
  have began : Waits b0 (openFrame p who f s) := changed.reaches (Reaches.refl.alike grants_alike)
  exact began.mod fun _ => ⟨rfl, rfl, rfl⟩

theorem stickS_waits (h : Waits b0 s) : Waits b0 (stickS p n s) := h.mod fun _ => ⟨rfl, rfl, rfl⟩

theorem checkTrailer_waits {f : SFrame} {len : Nat} {rx : List Byte} (h : Waits b0 s) : Waits b0 (checkTrailer p f len rx s).2 := by
  unfold checkTrailer
  split
  · extract_lets ctl st eref bad s1 s2
    have told : Waits b0 s2 := by
      unfold s2
      split
      · exact h.status.status
      · exact h.status
    dsimp only
    split
    · exact told.status
    · exact told
  · exact h.status

theorem endByteFrame_waits {f : SFrame} {len : Nat} {rx : List Byte} (h : Waits b0 s) : Waits b0 (endByteFrame p f len rx s).2 := by
  unfold endByteFrame
  split
  · extract_lets r s1
    have sent : Waits b0 s1 := (checkTrailer_waits h).status
    dsimp only
    split
    · exact sent
    · exact stickS_waits sent
  · exact h

theorem putRx_waits {bytes : List Byte} (h : Waits b0 s) : Waits b0 (putRx p bytes s) := by
  unfold putRx
  split
  · next put => exact h.reaches (putItem_reaches Reaches.refl put)
  · exact (stickS_waits h).reaches Reaches.refl.pool

/-- None of them waits. -/
structure NoneWaits (s : State) : Prop where
  line : lineWanted s = none
  sfdp : sfdpWants s = false
  flash : flashWants s = false

theorem lineWanted_of_waits (k : Waits u t) : lineWanted t = lineWanted u := by
  obtain ⟨slow, op, power, mode, config, cache, run, sent⟩ := k
  have works : sWorks 0 t = sWorks 0 u := by
    simp only [sWorks, runWord, config, portDropped, power, asleep, mode, bankOut, kernelOnly]
  have target : sTarget 0 t = sTarget 0 u := by simp only [sTarget, runWord, config]
  have line : ∀ l, cachedLine l t = cachedLine l u := fun l => by rw [cachedLine, cachedLine, cache]
  have job : flashJob t = flashJob u := by rw [flashJob, flashJob, opRuns, opRuns, op]
  have window : windowFetches t = windowFetches u := by rw [windowFetches, windowFetches, config, works, target]
  simp only [lineWanted, slow, line, job, window]

theorem NoneWaits.kept (h : NoneWaits u) (k : Waits u t) : NoneWaits t := by
  refine ⟨(lineWanted_of_waits k).trans h.line, ?_, ?_⟩
  · rw [← h.sfdp, sfdpWants, sfdpWants, k.sfdpRun, k.sfdpSent]
  · rw [← h.flash, flashWants, flashWants, opRuns, opRuns, k.op]

theorem noneWaits_of_others (h : othersWant 0 .host s = false) : NoneWaits s := by
  simp only [othersWant, Bool.or_eq_false_iff, Bool.and_eq_false_iff] at h
  obtain ⟨-, zero | ⟨⟨line, sfdp⟩, flash⟩⟩ := h
  · exact absurd zero (by decide)
  · refine ⟨?_, sfdp.resolve_left (by decide), flash.resolve_left (by decide)⟩
    have gone := line.resolve_left (by decide)
    simpa using gone

/-- With none waiting the port stays as it is. -/
theorem pumpS0_idle (h : NoneWaits s) : pumpS0 s = s := by
  obtain ⟨line, sfdp, flash⟩ := h
  have first : startSfdp s = s := if_neg (by rw [sfdp]; exact Bool.false_ne_true)
  have second : startEnable s = s := by
    unfold startEnable
    split
    · next job =>
      refine if_neg ?_
      simp only [flashWants, job] at flash
      simp only [Bool.and_eq_true, not_and]
      intro runs
      simp [runs.1] at flash
    · rfl
  have third : startFill s = s := by
    unfold startFill
    rw [line]
  rw [pumpS0, first, second, third]

theorem pumpPort_idle (port : p < 4) (h : p = 0 → NoneWaits s) : pumpPort (2 + p) s = s := by
  unfold pumpPort
  split
  · next zero => exact pumpS0_idle (h (by omega))
  · exact if_neg (by simp [isIPort]; omega)

/-! ## What a frame of S0 leaves of its select and its sticky bits -/

/-- A predicate of a port that its next frame keeps. -/
def Outlasts (X : SPortSt → Prop) : Prop := ∀ x y : SPortSt, X x → (x.hold = none → y.hold = none) → y.sticky = x.sticky → X y

theorem sent_bears {who : PortUser} {f : SFrame} {out : SOut} (h : Bears p X a v s) (k : Outlasts X) :
    Bears p X a v (sendFrame p who f out s) :=
  sendFrame_bears h fun x there => k x _ there (fun free => by simp [opened, free]) rfl

theorem pumpS0_bears (h : Bears 0 X a v s) (k : Outlasts X) (still : a + 2 ≤ portBlock 2 + 0x380 ∨ portBlock 2 + 0x382 ≤ a) :
    Bears 0 X a v (pumpS0 s) := by
  have frame : ∀ {x : State} {f : SPortSt → SPortSt}, Bears 0 X a v x → (∀ y, (f y).hold = y.hold ∧ (f y).sticky = y.sticky) →
      Bears 0 X a v (modSPort 0 f x) := fun b same => b.mod fun y there => k y _ there (fun free => (same y).1.trans free) (same y).2
  have first : Bears 0 X a v (startSfdp s) := by
    unfold startSfdp
    split
    · exact frame (sent_bears h k) fun _ => ⟨rfl, rfl⟩
    · exact h
  have second : Bears 0 X a v (startEnable (startSfdp s)) := by
    unfold startEnable
    split
    · split
      · exact ((sent_bears first k).other (by omega)).same rfl rfl
      · exact first
    · exact first
  unfold pumpS0 startFill
  split
  · split
    · exact frame (sent_bears second k) fun _ => ⟨rfl, rfl⟩
    · exact second
  · exact second

theorem pumpPort_bears (port : p < 4) (h : Bears p X a v s) (k : Outlasts X)
    (still : a + 2 ≤ portBlock (2 + p) + 0x380 ∨ portBlock (2 + p) + 0x382 ≤ a) : Bears p X a v (pumpPort (2 + p) s) := by
  unfold pumpPort
  split
  · next zero =>
    have here : p = 0 := by omega
    subst here
    exact pumpS0_bears h k still
  · rw [if_neg (by simp [isIPort]; omega)]
    exact h

end Sys2Proof.Proofs.SerialState

/-! PROOFS. Pass-through entries and target transactions of an S port (R315 to R321). -/

namespace Sys2Proof.Proofs.SerialTransfer

set_option Elab.async false

open Sys2Proof.Machine Sys2Proof.Safety Sys2Proof.Laws Sys2Proof.Proofs.Shared Sys2Proof.Proofs.Grants Sys2Proof.Proofs.Lanes
  Sys2Proof.Proofs.Frame Sys2Proof.Proofs.CanState Sys2Proof.Proofs.QueueReach Sys2Proof.Proofs.SerialState

variable {s t u w : State} {p a v n : Nat} {e : PtEntry} {rx : List Byte} {X : SPortSt → Prop} {t0 : HubTime}

/-! ## The settings of an entry's frame -/

/-- Configuration, mode and pins are the same. -/
structure SameSet (s t : State) : Prop where
  cfg : t.cfg = s.cfg
  mode : t.mode = s.mode
  pins : t.pins = s.pins

theorem SameSet.config (k : SameSet s t) : running t = running s := by rw [running, running, k.mode, k.cfg]

theorem SameSet.reaches (h : SameSet s t) (k : Reaches t u) : SameSet s u := by
  obtain ⟨_, _, _, _, _, rfl⟩ := k
  exact ⟨h.cfg, h.mode, h.pins⟩

theorem ptFits_same (k : SameSet s t) : ptFits p e t = ptFits p e s := by
  have carries : ∀ i code, pinCarries i code t = pinCarries i code s := fun i code => by
    rw [pinCarries, pinCarries, pinOf, pinOf, k.pins]
  have attached : selectAttached p e.sel.val t = selectAttached p e.sel.val s := by simp only [selectAttached, selectPin, carries]
  have word : ∀ a, runWord a t = runWord a s := fun a => by rw [runWord, runWord, k.config]
  have usable : selectUsable p e.sel.val t = selectUsable p e.sel.val s := by rw [selectUsable, selectUsable, word, word]
  simp only [ptFits, attached, usable, k.config]

theorem ptFrame_same (k : SameSet s t) : ptFrame p e t = ptFrame p e s := by
  simp only [ptFrame, frameNow, runWord, k.config]

theorem sameSet_advance : SameSet s (advance t0 s) := ⟨advance_cfg, advance_mode, advance_pins⟩

theorem settleHold_sports : settleHold p s = s ∨ settleHold p s = releaseSelect p s := by
  unfold settleHold
  split
  · split
    · exact .inr rfl
    · exact .inl rfl
  · exact .inl rfl

/-! ## An entry that runs -/

/-- The hub in which an entry's turn has come, its item not yet taken. -/
def entryReady (p : Nat) (u : State) : State := settleHold p (skipBad (queueOf (38 + p) u).items.length (38 + p) u)

theorem entryReady_bears (h : Bears p (fun _ => True) a v u) : Bears p (fun _ => True) a v (entryReady p u) := by
  have skipped := h.reaches (skipBad_reaches (n := (queueOf (38 + p) u).items.length) (q := 38 + p) Reaches.refl)
  unfold entryReady
  rcases settleHold_sports (p := p) (s := skipBad (queueOf (38 + p) u).items.length (38 + p) u) with same | same
  · rw [same]
    exact skipped
  · rw [same]
    exact skipped.mod fun _ _ => trivial

theorem entryReady_waits : Waits u (entryReady p u) := by
  have skipped : Waits u (skipBad (queueOf (38 + p) u).items.length (38 + p) u) := Waits.refl.reaches (skipBad_reaches Reaches.refl)
  unfold entryReady
  rcases settleHold_sports (p := p) (s := skipBad (queueOf (38 + p) u).items.length (38 + p) u) with same | same
  · rw [same]
    exact skipped
  · rw [same]
    exact skipped.mod fun _ => ⟨rfl, rfl, rfl⟩

theorem entryReady_same (h : SameSet s u) : SameSet s (entryReady p u) := by
  have skipped : SameSet s (skipBad (queueOf (38 + p) u).items.length (38 + p) u) := h.reaches (skipBad_reaches Reaches.refl)
  unfold entryReady
  rcases settleHold_sports (p := p) (s := skipBad (queueOf (38 + p) u).items.length (38 + p) u) with same | same
  · rw [same]
    exact skipped
  · rw [same]
    exact ⟨skipped.cfg, skipped.mode, skipped.pins⟩

/-- What an entry sends. -/
def entryOut (p : Nat) (e : PtEntry) (f : SFrame) (s : State) : SOut := if e.frm then frameOut p f e.data s else byteOut p f e.data s

theorem entryOut_sel {f : SFrame} : (entryOut p e f s).sel = f.sel := by
  unfold entryOut
  split
  · rfl
  · rfl

theorem entryOut_bytes {f : SFrame} :
    (entryOut p e f s).bytes = if e.frm then (frameOut p f e.data s).bytes else withTrailer p f e.data s := by
  unfold entryOut
  split
  · rfl
  · rfl

/-- The port sends `out`, whatever its lag. -/
def Sends (out : SOut) (x : SPortSt) : Prop := x.out.sel = out.sel ∧ x.out.bytes = out.bytes

theorem lag_sends (held : Bool) (o : SOut) : (if held then { o with lag := 0 } else o).sel = o.sel ∧
    (if held then { o with lag := 0 } else o).bytes = o.bytes := by
  cases held
  · exact ⟨rfl, rfl⟩
  · exact ⟨rfl, rfl⟩

theorem holdSelect_bears {sel : Fin 8} {cont : Bool} {len : Option Nat} {out : SOut} (h : Bears p (Sends out) a v s) :
    Bears p (Sends out) a v (holdSelect p sel cont len s) := by
  refine h.mod fun x ⟨select, bytes⟩ => ?_
  exact ⟨(lag_sends _ x.out).1.trans select, (lag_sends _ x.out).2.trans bytes⟩

theorem holdSelect_waits {sel : Fin 8} {cont : Bool} {len : Option Nat} (h : Waits u s) : Waits u (holdSelect p sel cont len s) :=
  h.mod fun _ => ⟨rfl, rfl, rfl⟩

/-- The state in which the frame of a good entry has ended, before its select is settled. -/
def frameEnded (p : Nat) (e : PtEntry) (f : SFrame) (rx : List Byte) (s : State) : Bool × State :=
  if e.frm then (true, s) else endByteFrame p f e.t rx s

theorem runEntry_done (fits : ptFits p e w = true) : ∃ bytes rx' cont len,
    runEntry p e false rx w = putRx p bytes (holdSelect p e.sel cont len (countWord (portBlock (2 + p) + 0x390) (countFrame p
      (frameEnded p e (ptFrame p e w) rx' (sendFrame p .host (ptFrame p e w) (entryOut p e (ptFrame p e w) w) w)).2))) := by
  unfold runEntry
  extract_lets t f rx' s1 bs len r s2 bs'
  rw [if_pos fits, if_neg Bool.false_ne_true]
  exact ⟨_, rx', _, len, rfl⟩

theorem runEntry_aborted (fits : ptFits p e w = true) : ∃ bytes,
    runEntry p e true rx w = putRx p bytes (abortFrame p (sendFrame p .host (ptFrame p e w) (entryOut p e (ptFrame p e w) w) w)) := by
  unfold runEntry
  extract_lets t f rx' s1 bs len r s2 bs'
  rw [if_pos fits, if_pos rfl]
  exact ⟨_, rfl⟩

theorem runEntry_bad {aborted : Bool} (unfit : ptFits p e w = false) : ∃ bytes,
    runEntry p e aborted rx w = putRx p bytes (stickS p 12 (releaseSelect p w)) := by
  unfold runEntry
  extract_lets t f rx' s1 bs len r s2 bs'
  rw [if_neg (by rw [unfit]; exact Bool.false_ne_true)]
  exact ⟨_, rfl⟩

theorem frameEnded_waits {f : SFrame} (h : Waits u s) : Waits u (frameEnded p e f rx s).2 := by
  unfold frameEnded
  split
  · exact h
  · exact endByteFrame_waits h

theorem runEntry_done_bears (fits : ptFits p e w = true) (h : Bears p (fun _ => True) (portBlock (2 + p) + 0x380) v w) :
    Bears p (Sends (entryOut p e (ptFrame p e w) w)) (portBlock (2 + p) + 0x380) ((v + 1) % 65536) (runEntry p e false rx w) := by
  obtain ⟨bytes, rx', cont, len, row⟩ := runEntry_done (rx := rx) fits
  rw [row]
  have sent : Bears p (Sends (entryOut p e (ptFrame p e w) w)) (portBlock (2 + p) + 0x380) v
      (sendFrame p .host (ptFrame p e w) (entryOut p e (ptFrame p e w) w) w) := sendFrame_bears h fun _ _ => ⟨rfl, rfl⟩
  have ended : Bears p (Sends (entryOut p e (ptFrame p e w) w)) (portBlock (2 + p) + 0x380) v
      (frameEnded p e (ptFrame p e w) rx' (sendFrame p .host (ptFrame p e w) (entryOut p e (ptFrame p e w) w) w)).2 := by
    unfold frameEnded
    split
    · exact sent
    · exact endByteFrame_bears sent e.sel.isLt (Nat.le_refl _) fun _ there => there
  exact putRx_bears (holdSelect_bears (ended.count.other (.inl (by omega)))) fun _ there => there

theorem runEntry_done_waits (fits : ptFits p e w = true) : Waits w (runEntry p e false rx w) := by
  obtain ⟨bytes, rx', cont, len, row⟩ := runEntry_done (rx := rx) fits
  rw [row]
  exact putRx_waits (holdSelect_waits (frameEnded_waits (sendFrame_waits Waits.refl)).status.status)

/-- The select of the port is released. -/
def Free (x : SPortSt) : Prop := x.hold = none

theorem free_outlasts : Outlasts Free := fun _ _ free kept _ => kept free

theorem runEntry_aborted_bears (fits : ptFits p e w = true) (h : Bears p (fun _ => True) (portBlock (2 + p) + 0x382) v w) :
    Bears p Free (portBlock (2 + p) + 0x382) ((v + 1) % 65536) (runEntry p e true rx w) := by
  obtain ⟨bytes, row⟩ := runEntry_aborted (rx := rx) fits
  rw [row]
  have sent : Bears p (fun _ => True) (portBlock (2 + p) + 0x382) v (sendFrame p .host (ptFrame p e w) (entryOut p e (ptFrame p e w) w) w) :=
    sendFrame_bears h fun _ _ => trivial
  have freed : Bears p Free (portBlock (2 + p) + 0x382) v
      (releaseSelect p (sendFrame p .host (ptFrame p e w) (entryOut p e (ptFrame p e w) w) w)) := sent.mod fun _ _ => rfl
  exact putRx_bears (freed.stick fun _ there => there).count fun _ there => there

/-- The select is released, and the sticky bit of an entry that cannot be run is set. -/
def Barred (x : SPortSt) : Prop := x.hold = none ∧ x.sticky.getLsbD 12 = true

theorem barred_outlasts : Outlasts Barred := fun _ _ there kept sticky => ⟨kept there.1, by rw [sticky]; exact there.2⟩

theorem runEntry_bad_bears {aborted : Bool} (unfit : ptFits p e w = false) (h : Bears p (fun _ => True) a v w) :
    Bears p Barred a v (runEntry p e aborted rx w) := by
  obtain ⟨bytes, row⟩ := runEntry_bad (rx := rx) (aborted := aborted) unfit
  rw [row]
  have freed : Bears p Free a v (releaseSelect p w) := h.mod fun _ _ => rfl
  have stuck : Bears p Barred a v (stickS p 12 (releaseSelect p w)) := freed.mod fun _ there => ⟨there, setBit_self (by decide)⟩
  exact putRx_bears stuck fun _ there => ⟨there.1, Sent.setBit_keeps there.2⟩

/-! ## The turn of an entry -/

/-- The host's entry of port `p` may run. -/
structure Turn (p : Nat) (s : State) : Prop where
  halter : s.mode.cur = .halter
  on : nbit (runWord (portBlock (2 + p)) s) 2 = true
  works : sWorks p s = true
  role : sTarget p s = false
  turn : sTurn p .host s = true

theorem Turn.advance (h : Turn p s) : Turn p (advance t0 s) := by
  obtain ⟨halter, on, works, role, turn⟩ := h
  obtain ⟨_, _, form⟩ := advance_form (t0 := t0) (s := s)
  rw [form]
  exact ⟨halter, on, works, role, turn⟩

theorem ptRxLen_advance : ptRxLen p e (advance t0 s) = ptRxLen p e s := by
  simp only [ptRxLen, ptFrame_same sameSet_advance]

theorem passThroughEntry_row {p : Fin 4} {i : Item} {aborted : Bool} (turn : Turn p.val s)
    (took : takeItem (38 + p.val) (entryReady p.val (advance t0 s)) = some (i, w))
    (goes : sStops p.val (ptEntry i.bytes).sel.val (entryReady p.val (advance t0 s)) = false)
    (length : ptFits p.val (ptEntry i.bytes) s = false ∨
      if aborted then rx.length ≤ ptRxLen p.val (ptEntry i.bytes) s else rx.length = ptRxLen p.val (ptEntry i.bytes) s) :
    effPassThroughEntry p aborted rx t0 s = pumpPort (2 + p.val) (runEntry p.val (ptEntry i.bytes) aborted rx w) := by
  obtain ⟨halter, on, works, role, turn⟩ := turn.advance (t0 := t0)
  unfold effPassThroughEntry
  extract_lets x q s1
  rw [if_pos (by rw [halter, on, works, role, turn]; rfl)]
  have same : s1 = entryReady p.val (advance t0 s) := rfl
  rw [same, took]
  dsimp only
  rw [goes, if_neg Bool.false_ne_true, ptFits_same sameSet_advance, ptRxLen_advance]
  refine if_pos ?_
  rcases length with unfit | fits
  · rw [unfit]
    rfl
  · cases aborted
    · simp [show rx.length = _ from fits]
    · simp [show rx.length ≤ _ from fits]

/-- The hub in which an entry runs. -/
theorem taken_same {i : Item} (took : takeItem (38 + p) (entryReady p (advance t0 s)) = some (i, w)) :
    SameSet s w ∧ Waits s w :=
  ⟨(entryReady_same sameSet_advance).reaches (takeItem_reaches Reaches.refl took),
    (waits_advance.trans entryReady_waits).reaches (takeItem_reaches Reaches.refl took)⟩

theorem taken_bears {i : Item} {a : Nat} (inv : Inv s) (port : p < 4)
    (took : takeItem (38 + p) (entryReady p (advance t0 s)) = some (i, w)) : Bears p (fun _ => True) a (statWord a s) w :=
  (entryReady_bears ((bears_advance inv port).weaken fun _ _ => trivial)).reaches (takeItem_reaches Reaches.refl took)

theorem entry_done {i : Item} (inv : Inv s) (port : p < 4) (took : takeItem (38 + p) (entryReady p (advance t0 s)) = some (i, w))
    (fits : ptFits p e s = true) (alone : othersWant p .host s = false) :
    Bears p (Sends (entryOut p e (ptFrame p e s) w)) (portBlock (2 + p) + 0x380) ((statWord (portBlock (2 + p) + 0x380) s + 1) % 65536)
      (pumpPort (2 + p) (runEntry p e false rx w)) := by
  obtain ⟨same, waits⟩ := taken_same took
  have here : ptFits p e w = true := (ptFits_same same).trans fits
  have done := runEntry_done_bears (rx := rx) here (taken_bears (a := portBlock (2 + p) + 0x380) inv port took)
  rw [ptFrame_same same] at done
  have idle : p = 0 → NoneWaits (runEntry p e false rx w) := by
    rintro rfl
    exact (noneWaits_of_others alone).kept (waits.trans (runEntry_done_waits here))
  rw [pumpPort_idle port idle]
  exact done

theorem entry_aborted {i : Item} (inv : Inv s) (port : p < 4) (took : takeItem (38 + p) (entryReady p (advance t0 s)) = some (i, w))
    (fits : ptFits p e s = true) :
    Bears p Free (portBlock (2 + p) + 0x382) ((statWord (portBlock (2 + p) + 0x382) s + 1) % 65536)
      (pumpPort (2 + p) (runEntry p e true rx w)) :=
  pumpPort_bears port (runEntry_aborted_bears ((ptFits_same (taken_same took).1).trans fits) (taken_bears inv port took)) free_outlasts
    (.inr (Nat.le_refl _))

theorem entry_bad {i : Item} {aborted : Bool} (inv : Inv s) (port : p < 4)
    (took : takeItem (38 + p) (entryReady p (advance t0 s)) = some (i, w)) (unfit : ptFits p e s = false) :
    Barred (sportOf p (pumpPort (2 + p) (runEntry p e aborted rx w))) :=
  (pumpPort_bears (a := portBlock (2 + p) + 0x382) port
    (runEntry_bad_bears ((ptFits_same (taken_same took).1).trans unfit) (taken_bears inv port took)) barred_outlasts (.inr (Nat.le_refl _))).port

/-! ## Target transactions -/

theorem servesTarget_advance : servesTarget p (advance t0 s) = servesTarget p s := by
  obtain ⟨_, _, form⟩ := advance_form (t0 := t0) (s := s)
  rw [form]
  rfl

/-- A port into which an item may have been loaded. -/
def Loads (x y : SPortSt) : Prop := ∃ item, y = { x with loaded := item }

theorem loadTarget_bears (h : Bears p X a v s) (k : ∀ x y, X x → Loads x y → X y) : Bears p X a v (loadTarget p s) := by
  unfold loadTarget
  split
  · split
    · exact h
    · next r took =>
      refine (h.reaches (takeItem_reaches (skipBad_reaches Reaches.refl) took)).mod fun x there => k x _ there ⟨_, rfl⟩
  · exact h

theorem servesTarget_loadTarget : servesTarget p (loadTarget p s) = servesTarget p s := by
  conv => lhs; unfold loadTarget
  split
  · split
    · rfl
    · next r took =>
      obtain ⟨_, _, _, _, _, form⟩ := takeItem_reaches (skipBad_reaches Reaches.refl) took
      rw [form]
      rfl
  · rfl

/-! ### The item that is loaded is a matter of the pool -/

theorem takeItem_pool {q : Nat} (pool : t.pool = s.pool) :
    (takeItem q t).map (fun r => (r.1, r.2.pool)) = (takeItem q s).map (fun r => (r.1, r.2.pool)) := by
  have queue : queueOf q t = queueOf q s := by rw [queueOf, queueOf, pool]
  unfold takeItem
  rw [queue]
  split
  · rfl
  · split
    · simp only [Option.map_some, grants_pool, modQueue, pool]
    · rfl

theorem skipBad_pool {q : Nat} (pool : t.pool = s.pool) : (skipBad n q t).pool = (skipBad n q s).pool := by
  induction n generalizing s t with
  | zero => exact pool
  | succ n ih =>
    have same := takeItem_pool (q := q) pool
    unfold skipBad
    cases here : takeItem q t with
    | none =>
      rw [here] at same
      rw [Option.map_eq_none_iff.mp same.symm]
      exact pool
    | some r =>
      rw [here] at same
      obtain ⟨r', there, eq⟩ := Option.map_eq_some_iff.mp same.symm
      obtain ⟨item, rest⟩ := Prod.mk.inj eq
      rw [there]
      dsimp only
      rw [item]
      split
      · exact ih rest.symm
      · exact pool

theorem takeGood_pool {q : Nat} (pool : t.pool = s.pool) : (takeGood n q t).map Prod.fst = (takeGood n q s).map Prod.fst := by
  have same := congrArg (Option.map Prod.fst) (takeItem_pool (q := q) (skipBad_pool (n := n) (q := q) pool))
  rw [Option.map_map, Option.map_map] at same
  exact same

/-- The bytes of a target item that are loaded. -/
def targetBytes (i : Item) : List Byte := (i.bytes.drop 2).take (field (leValue (i.bytes.take 2)) 0 6)

theorem loadTarget_loaded (inside : p < s.sports.length) : (sportOf p (loadTarget p s)).loaded =
    if servesTarget p s && (sportOf p s).loaded.isNone && (sportOf p s).sending.isNone then
      ((takeGood (queueOf (38 + p) s).items.length (38 + p) s).map Prod.fst).elim (sportOf p s).loaded (fun i => some (targetBytes i))
    else (sportOf p s).loaded := by
  unfold loadTarget
  split
  · split
    · next none_ =>
      rw [none_]
      rfl
    · next r took =>
      rw [took]
      obtain ⟨_, _, _, _, _, form⟩ := takeItem_reaches (skipBad_reaches Reaches.refl) took
      rw [sportOf_modSPort (by rw [form]; exact inside)]
      rfl
  · rfl

theorem loadTarget_advance (inside : p < s.sports.length) :
    (sportOf p (loadTarget p (advance t0 s))).loaded = (sportOf p (loadTarget p s)).loaded := by
  have queue : queueOf (38 + p) (advance t0 s) = queueOf (38 + p) s := by rw [queueOf, queueOf, advance_pool]
  rw [loadTarget_loaded (by rw [advance_sports]; exact inside), loadTarget_loaded inside, servesTarget_advance, sportOf_advance, queue,
    takeGood_pool advance_pool]

/-! ### The select falls and rises -/

/-- A port whose target transaction has begun. -/
def Begun (item : Option (List Byte)) (x : SPortSt) : Prop := x.target = true ∧ x.ignore = false ∧ x.loaded = none ∧ x.sending = item

theorem targetBegins_bears {stored : Bool} {h : HubTime} {item : Option (List Byte)} (b : Bears p (fun x => x.loaded = item) a v s) :
    Bears p (Begun item) a v (targetBegins p stored h s) := by
  have begun : Bears p (Begun item) a v (modSPort p (fun x => { x with
      target := true, stored := stored, ignore := false, frame := frameNow p 0 none s, sending := x.loaded, loaded := none, fell := h }) s) :=
    b.mod fun _ there => ⟨rfl, rfl, rfl, there⟩
  exact begun.records (grant_apart OnlyRecords.refl)

theorem targetFall_begins {p : Fin 4} {h : HubTime} (inside : p.val < s.sports.length) (r : Reads a v s)
    (serves : servesTarget p.val s = true) (idle : (sportOf p.val s).target = false) :
    Bears p.val (Begun (sportOf p.val (loadTarget p.val s)).loaded) a v (targetFall p h s) := by
  have loaded : Bears p.val (fun x => x.target = false) a v (loadTarget p.val s) :=
    loadTarget_bears ⟨idle, inside, r⟩ fun _ _ there ⟨_, eq⟩ => by rw [eq]; exact there
  have here : Bears p.val (fun x => x.loaded = (sportOf p.val (loadTarget p.val s)).loaded) a v (loadTarget p.val s) :=
    ⟨rfl, loaded.inside, loaded.reads⟩
  unfold targetFall
  extract_lets x
  rw [if_pos (by rw [show servesTarget p.val x = true from servesTarget_loadTarget.trans serves, loaded.port]; rfl)]
  split
  · next got => exact targetBegins_bears (here.reaches (reserve_reaches Reaches.refl got))
  · have stuck := here.stick (n := 10) fun _ there => there
    exact targetBegins_bears (stuck.reaches Reaches.refl.pool)

/-- A port whose target transaction is over, having sent `sent`. -/
def Over (sent : List Byte) (x : SPortSt) : Prop := x.target = false ∧ x.out.bytes = sent

theorem targetRise_ends {p : Fin 4} {clocked : Nat} {part : Bool} (b : Bears p.val (fun _ => True) (portBlock (2 + p.val) + 0x384) v s)
    (runs : (sportOf p.val s).target = true) :
    Bears p.val (Over (((sportOf p.val s).sending.getD []).take clocked ++
      List.replicate (clocked - ((sportOf p.val s).sending.getD []).length) (sportOf p.val s).frame.tfill)) (portBlock (2 + p.val) + 0x384)
      ((v + 1) % 65536) (targetRise p rx clocked part s) := by
  unfold targetRise
  extract_lets x a f rx' item under sent out lost s1 s2 s3 s4
  rw [if_pos runs]
  have recorded : Bears p.val (fun _ => True) (a + 0x384) v s1 := b.records (recPort_apart OnlyRecords.refl)
  have closed : Bears p.val (fun _ => True) (a + 0x384) v s2 := by
    unfold s2
    split
    · exact (recorded.reaches (closeItem_reaches Reaches.refl)).same rfl rfl
    · exact recorded
  have counted : Bears p.val (fun _ => True) (a + 0x384) ((v + 1) % 65536) s3 := by
    unfold s3
    split
    · exact ((closed.stick fun _ _ => trivial).other (.inl (by omega))).count
    · exact closed.count
  have under_ : Bears p.val (fun _ => True) (a + 0x384) ((v + 1) % 65536) s4 := by
    unfold s4
    split
    · exact (counted.stick fun _ _ => trivial).other (.inl (by omega))
    · exact counted
  refine loadTarget_bears (under_.mod fun _ _ => ⟨rfl, rfl⟩) ?_
  rintro x _ there ⟨item, rfl⟩
  exact there

/-- Settles O54. -/
theorem serialTransfers : Obligations.SerialTransfers := by
  intro p t0 s inv u a count
  have port := p.isLt
  have inside : p.val < s.sports.length := by
    rw [(counts_of_inv inv).2.1]
    exact port
  refine ⟨fun i w halter on works role turn => ?_, fun live serves idle attached goes awake => ?_, fun rx clocked part live runs => ?_⟩
  · intro x took e goes ends
    have ready : Turn p.val s := ⟨halter, on, works, role, turn⟩
    have row : ∀ {aborted : Bool} {rx : List Byte}, (ptFits p.val e s = false ∨
        if aborted then rx.length ≤ ptRxLen p.val e s else rx.length = ptRxLen p.val e s) →
        effPassThroughEntry p aborted rx t0 s = pumpPort (2 + p.val) (runEntry p.val e aborted rx w) := passThroughEntry_row ready took goes
    have brings : ∀ {aborted : Bool} {rx : List Byte} {r : State → Prop}, r (effPassThroughEntry p aborted rx t0 s) → ends aborted rx r :=
      fun holds => ⟨_, rfl, cur_of_keeps (effPassThroughEntry_keeps Keeps.refl), holds⟩
    refine ⟨fun fits rx whole => brings fun alone => ?_, fun fits rx short => brings ?_, fun unfit aborted rx => brings ?_⟩
    · obtain ⟨⟨select, bytes⟩, -, reads⟩ := entry_done (rx := rx) inv port took fits alone
      have same := row (aborted := false) (.inr whole)
      refine ⟨?_, ?_, ?_⟩
      · rw [same, select, entryOut_sel]
        rfl
      · rw [same, bytes, entryOut_bytes]
      · exact (congrArg (statWord _) same).trans reads.word
    · obtain ⟨free, -, reads⟩ := entry_aborted (rx := rx) inv port took fits
      have same := row (aborted := true) (.inr short)
      exact ⟨by rw [same]; exact free, (congrArg (statWord _) same).trans reads.word⟩
    · have barred := entry_bad (rx := rx) (aborted := aborted) inv port took unfit
      rw [row (.inl unfit)]
      exact barred
  · have begun := targetFall_begins (p := p) (h := (advance t0 s).time.now) (s := advance t0 s) (a := 0)
      (by rw [advance_sports]; exact inside) (reads_advance (a := 0) inv) (servesTarget_advance.trans serves) (by rw [sportOf_advance]; exact idle)
    have row : effTargetSelectFall p t0 s = targetFall p (advance t0 s).time.now (advance t0 s) := by
      refine if_neg ?_
      obtain ⟨_, _, form⟩ := advance_form (t0 := t0) (s := s)
      have stops : sStops p.val 0 (advance t0 s) = false := by
        rw [form]
        exact goes
      have carried : targetAttached p.val (advance t0 s) = true := by
        rw [form]
        exact attached
      rw [stops, carried, advance_run, live, advance_power, beq_false_of_ne awake]
      exact Bool.false_ne_true
    rw [loadTarget_advance inside] at begun
    obtain ⟨⟨target, ignore, loaded, sending⟩, -, -⟩ := begun
    refine ⟨effTargetSelectFall p t0 s, rfl, ?_, ?_, ?_, cur_of_keeps (effTargetSelectFall_keeps Keeps.refl), ?_⟩
    all_goals rw [row]
    · exact target
    · exact ignore
    · exact loaded
    · exact sending
  · intro item fill
    have risen := targetRise_ends (rx := rx) (clocked := clocked) (part := part) (s := advance t0 s) (p := p)
      ((bears_advance (t0 := t0) (a := portBlock (2 + p.val) + 0x384) inv port).weaken fun _ _ => trivial) (by rw [sportOf_advance]; exact runs)
    rw [sportOf_advance] at risen
    have row : effTargetSelectRise p rx clocked part t0 s = targetRise p rx clocked part (advance t0 s) :=
      if_neg (by rw [advance_run, live]; exact Bool.false_ne_true)
    obtain ⟨⟨over_, bytes⟩, -, reads⟩ := risen
    refine ⟨_, rfl, ?_, ?_, (congrArg (statWord _) row).trans reads.word, cur_of_keeps (effTargetSelectRise_keeps Keeps.refl)⟩
    · exact (congrArg (fun t => (sportOf p.val t).target) row).trans over_
    · exact (congrArg (fun t => (sportOf p.val t).out.bytes) row).trans bytes

end Sys2Proof.Proofs.SerialTransfer
